-- ==== Sys2Proof/Word.lean ====
section
/-!
DEFINITION. The plainest types of the model: octets, little-endian structure images and sparse tables.
-/

namespace Sys2Proof

/-- One octet. -/
abbrev Byte := BitVec 8

/-- A little-endian structure (an entry, a record, a register) as the number its bytes spell (00_scope R5):
bit 0 is the least significant bit of the byte at offset 0. -/
abbrev Image := Nat

/-- A sparse table: key and value, keys strictly rising, and no entry equal to what an unlisted key reads as. -/
abbrev Tbl (α : Type) := List (Nat × α)

end Sys2Proof
end

