-- ==== Sys2Proof/Syntax.lean ====
section
/-!
DEFINITION. The commands of the block: one constructor of `Instr` per row of spec/opcode_table.json.
A command-packet row carries the packet as it stands on its transport; a row that is an event inside the device
or at its edge carries what the device cannot compute itself (a sensor's reading, the bytes on a wire, the outcome
of a host read). `at8` is the instant of the event inside the round in force, in units of 0.125 ns (05_time R122).
-/

namespace Sys2Proof

/-- The four command ports (15_commands R361). -/
inductive CmdPort where
  | cp0 | cp1 | cp2 | cp3
deriving DecidableEq, Repr

/-- A command packet as its transport delivers it (15_commands R366), less the opcode that the row names.
`cancelAt` and `d0StopAt`: a port reset (R381) or a stop of D0 (08_tables R221) that falls while the command runs, as
the number of commit points passed when it falls. -/
structure Pkt where
  port : CmdPort
  inst : Fin 64
  keySlot : BitVec 3
  trailer : Bool
  resv : BitVec 28
  length : BitVec 16
  tag : BitVec 64
  params : List Byte
  counter : BitVec 64
  check : BitVec 128
  pad : Nat
  src : BitVec 48
  vlan : Option (BitVec 16)
  at8 : Fin 3277
  cancelAt : Option Nat
  d0StopAt : Option Nat
deriving DecidableEq, Repr

/-- How a read that the device issues to host or peer memory goes (17_host R437): its data come back, or it is still
outstanding after the command (and ends by READ_COMPLETION or COMPLETION_TIMEOUT), or it ends in an error completion or
in poisoned data. -/
inductive HostRead where
  | data | outstanding | error | poisoned
deriving DecidableEq, Repr

/-- The access sizes BAR0 accepts (17_host R415), and any other size. -/
inductive AccessSize where
  | four | eight | other
deriving DecidableEq, Repr

/-- Upsets that fall on one head's pass (06_templates R174, R175; 08_tables R224): a parity error of the carriage word, a single-bit
and a double-bit error of the intake record, uncorrectable errors of what its lookups read, corrupted associative rows that its
searches meet, and how many single-bit errors its lookups corrected. -/
structure Upsets where
  parity : Bool
  intake1 : Bool
  intake2 : Bool
  station : Bool
  prefixData : Bool
  session : Bool
  rule : Bool
  template : Bool
  automata : Bool
  stationRow : Bool
  prefixRow : Bool
  ruleRow : Bool
  corrected : Fin 8
deriving DecidableEq, Repr

/-- One DIMM as the channel finds it over its sideband bus (14_dram R338, R339): its capacity, the width of its DRAM devices (4 or 8),
its package ranks, the dies of each stack (1 when it is not 3DS), and whether its SPD lists 6400 MT/s. -/
structure Dimm where
  present : Bool
  capacityGib : Nat
  width : Nat
  packageRanks : Nat
  dies : Nat
  spd6400 : Bool
deriving DecidableEq, Repr

/-- One image slot of the boot flash as the boot ROM reads it (22_board R521, Table 22.9): the header's magic, part_code,
image_version and image_length; which of the ROM's two public-key hashes the key matches, if any; whether the signature
verifies; and the image as 18-byte words. -/
structure FlashSlot where
  magic : BitVec 32
  partCode : BitVec 16
  version : BitVec 32
  length : Nat
  keyHash : Option (Fin 2)
  signatureOk : Bool
  words : List Nat
deriving DecidableEq, Repr

/-- What the board presents at a cold reset: straps in ball order (22_board Table 22.5), the boot flash's image slots and boot
configurations (Table 22.8), the random generator's value for boot_nonce (15_commands R372), the 16 process counts and the
core voltage target of their mean (20_faults R496), and the DIMMs. -/
structure Board where
  straps : BitVec 6
  slotA : FlashSlot
  slotB : FlashSlot
  bootA : List Byte
  bootB : List Byte
  nonce : BitVec 128
  process : List (BitVec 16)
  avsMv : BitVec 16
  dimms : List Dimm
deriving DecidableEq, Repr

/-- The passing settings of one lane's sweep in one direction: per reference level, which of the 128 delay steps
pass (14_dram R343). -/
abbrev Sweep := List (BitVec 128)

/-- A channel's training: whether steps 1, 2, 3, 5 and 7 of Table 14.2 passed, and the read and write sweeps of its
lanes (14_dram R342 to R344). -/
structure Training where
  stepsOk : Bool
  read : List Sweep
  write : List Sweep
deriving DecidableEq, Repr

/-- PCIe generations in use (17_host R411). -/
inductive PcieGen where
  | g4 | g5 | g6
deriving DecidableEq, Repr

/-- Lanes in use (17_host Table 17.1). -/
inductive PcieWidth where
  | x4 | x8 | x16
deriving DecidableEq, Repr

/-- What a scrub read finds (08_tables R225; 14_dram R353). -/
inductive ScrubFinding where
  | clean | corrected | uncorrectable
deriving DecidableEq, Repr

/-- The service-port tables and the automata store (02_timetable R40, R58; 08_tables Table 8.10). -/
inductive TableId where
  | station | prefixTable | session | rule | template | automata | learning
deriving DecidableEq, Repr

/-- Why the Dovetail link goes down (19_pair R460). -/
inductive LinkDownCause where
  | silence | lockLoss | resends | disabled
deriving DecidableEq, Repr

/-- The roles of 19_pair Table 19.5. -/
inductive Role where
  | solo | primary | standby
deriving DecidableEq, Repr

/-- One arbiter change carried by a FEED message (09_feeds R248). -/
inductive FeedChange where
  | accept (first : BitVec 64) (n : Nat)
  | resync (first : BitVec 64) (n : Nat)
  | clear (first : BitVec 64) (n : Nat)
  | openGap (first last : BitVec 64)
  | closeGap (first last : BitVec 64)
  | reset
deriving DecidableEq, Repr

/-- A request of a PULL_REQ message (19_pair R473). -/
inductive PullReq where
  | digest (region : Fin 19)
  | blockDigests (region : Fin 19)
  | block (table : BitVec 8) (gen : Bool) (block : Nat)
  | portConfig
  | generation
  | feeds
deriving DecidableEq, Repr

/-- One feed's runtime state as pulled (19_pair R472). -/
structure FeedImage where
  feed : Fin 4096
  tracking : Bool
  nextSeq : BitVec 64
  seen : BitVec 1024
  gaps : List (BitVec 64 × BitVec 64)
deriving DecidableEq, Repr

/-- The content of a PULL_DATA message (19_pair R473, R474). -/
inductive PullData where
  | blockDigests (region : Fin 19) (digests : List (BitVec 8 × Bool × Nat × BitVec 32))
  | entries (region : Fin 19) (table : BitVec 8) (gen : Bool) (items : List (Nat × Nat))
  | portConfig (params : List (List Byte))
  | generation (gens : List Bool)
  | regionEqual (region : Fin 19)
  | feed (image : FeedImage)
  | feedsDone
deriving DecidableEq, Repr

/-- Global-operation tokens that cross the pair (03_islands R85; 19_pair R461). -/
inductive Token where
  | mark (number : BitVec 8)
  | markAck
  | barrier
  | barrierAck
deriving DecidableEq, Repr

/-- The configuration-space fields that a command writes (17_host R412, R414, R418, R420). -/
inductive CfgField where
  | completionTimeout | barSize | busMasterEnable | vfEnable | relaxedOrdering | memorySpaceEnable
deriving DecidableEq, Repr

/-- The commands of the block, one constructor per row of spec/opcode_table.json. -/
inductive Instr where
  /-- `NOP` (R383): NOP replies OK, and with a trailer it tests a key. -/
  | nop (p : Pkt)
  /-- `IDENTIFY` (R383): Returns device_id, part code, silicon revision, ucode_version and boot_nonce (Table 15.13). -/
  | identify (p : Pkt)
  /-- `READ_STATE` (R387): Returns command-context state, queue depths and command counters. -/
  | readState (p : Pkt)
  /-- `SELFTEST_MONITORS` (R498): SELFTEST op 0 compares paired sensor readings and exercises the collector's inputs. -/
  | selftestMonitors (p : Pkt)
  /-- `SELFTEST_FAULT_INJECT` (R498): SELFTEST op 1 injects one occurrence of a fault line at severity 1. -/
  | selftestFaultInject (p : Pkt)
  /-- `SELFTEST_DRAM_RESWEEP` (R360): SELFTEST op 2 re-sweeps the named channels while the Cabinet is paused. -/
  | selftestDramResweep (p : Pkt)
  /-- `SELFTEST_DRAM_BIST` (R360): SELFTEST op 3 runs the march test on the named channels while the Cabinet is paused. -/
  | selftestDramBist (p : Pkt)
  /-- `SELFTEST_SERDES_PRBS` (R498): SELFTEST op 4 runs PRBS31 in internal loopback on the lanes of idle macros. -/
  | selftestSerdesPrbs (p : Pkt)
  /-- `SELFTEST_PIPELINE` (R498): SELFTEST op 5 runs built-in heads through idle pipelines and checks their signatures. -/
  | selftestPipeline (p : Pkt)
  /-- `MONITOR_READ` (R497): Returns temperatures, maxima, voltages, process counts and the AVS target. -/
  | monitorRead (p : Pkt)
  /-- `TT_LOAD` (R62): Loads one chunk of a timetable image into the shadow, and checks the image on the final chunk. -/
  | ttLoad (p : Pkt)
  /-- `TT_ACTIVATE_WARM` (R65): Arms a WARM activation of the shadow image for round N. -/
  | ttActivateWarm (p : Pkt)
  /-- `TT_ACTIVATE_COLD` (R65): Arms a COLD activation of the shadow image for round N while no port is up. -/
  | ttActivateCold (p : Pkt)
  /-- `TT_ACTIVATE_CANCEL` (R66): Withdraws an armed activation before its commit, so that the original command ends with CANCELLED. -/
  | ttActivateCancel (p : Pkt)
  /-- `TT_QUERY` (R386): Returns the active and shadow image state, the round number and the certificate. -/
  | ttQuery (p : Pkt)
  /-- `TBL_WRITE` (R220): Writes one entry of configured state, master in D0 first and then every quad replica. -/
  | tblWrite (p : Pkt)
  /-- `PREFIX_INSERT` (R190): The insert form of TBL_WRITE places a prefix entry in its zone by moving shims. -/
  | prefixInsert (p : Pkt)
  /-- `PREFIX_DELETE` (R191): The delete form of TBL_WRITE clears the valid bit of the unit that equals the entry. -/
  | prefixDelete (p : Pkt)
  /-- `TBL_PAIR_WRITE` (R186): Writes a key row and its action entry or record together in one maintenance slot. -/
  | tblPairWrite (p : Pkt)
  /-- `TBL_READ` (R222): Reads one entry from the master copy or from a named quad replica. -/
  | tblRead (p : Pkt)
  /-- `TBL_MOVE` (R186): Copies a rule row's key row and action entry to another row. -/
  | tblMove (p : Pkt)
  /-- `GEN_SWAP` (R230): Schedules a generation swap at round S and replies PENDING. -/
  | genSwap (p : Pkt)
  /-- `TBL_BULK_WRITE` (R223): Writes consecutive entries of one table, with each entry a commit point. -/
  | tblBulkWrite (p : Pkt)
  /-- `TBL_BULK_RELAYOUT` (R223): Re-lays the prefix table to new pair_rows and shim_interval in two sweeps. -/
  | tblBulkRelayout (p : Pkt)
  /-- `AGE_SCAN` (R218): Starts an ageing scan of the learning range in the selected quads. -/
  | ageScan (p : Pkt)
  /-- `PORT_CONFIG` (R97): Applies a macro header and port blocks to a macro's ports. -/
  | portConfig (p : Pkt)
  /-- `PORT_STATUS` (R388): Returns the state, pauses, lane lock and last state change of one port. -/
  | portStatus (p : Pkt)
  /-- `STATS_READ` (R115): Returns a port's 64 counters, clearing each as it is read, or returns the snapshot copy. -/
  | statsRead (p : Pkt)
  /-- `DRAWER_OPEN` (R315): Opens an EMPTY drawer with a type, class mapping and seal key. -/
  | drawerOpen (p : Pkt)
  /-- `DRAWER_CLOSE` (R317): Unmaps a drawer's classes, writes its pending records and CLOSE seal, and sets it CLOSED. -/
  | drawerClose (p : Pkt)
  /-- `DRAWER_ERASE` (R317): Zeroes a CLOSED drawer's extent and returns the drawer to EMPTY. -/
  | drawerErase (p : Pkt)
  /-- `SEAL_NOW` (R327): Writes a REQUEST seal in the named drawer, or in every open EVIDENCE drawer. -/
  | sealNow (p : Pkt)
  /-- `REPLAY_CONFIG_CAPTURE` (R331): Writes the capture entry of a feed. -/
  | replayConfigCapture (p : Pkt)
  /-- `REPLAY_CONFIG_REQUEST` (R331): Writes a retransmission request entry. -/
  | replayConfigRequest (p : Pkt)
  /-- `REPLAY_CONFIG_QUOTA` (R331): Sets the quota of the replay requester. -/
  | replayConfigQuota (p : Pkt)
  /-- `CABINET_PAUSE` (R359): Seals the open drawers, stops the drain of staging and places the DIMMs in self-refresh. -/
  | cabinetPause (p : Pkt)
  /-- `CABINET_RESUME` (R359): Brings the DIMMs out of self-refresh, calibrates, returns channels to service and drains staging. -/
  | cabinetResume (p : Pkt)
  /-- `TIME_SET` (R129): Arms a step of the device time at a boundary B, fixed by mode IMMEDIATE, AT_PPS or AT_TIME. -/
  | timeSet (p : Pkt)
  /-- `TIME_ADJUST_FREQ` (R132): Sets freq_adj. -/
  | timeAdjustFreq (p : Pkt)
  /-- `TIME_ADJUST_SLEW` (R133): Starts a slew of an offset over a duration, replacing any slew in progress. -/
  | timeAdjustSlew (p : Pkt)
  /-- `TIME_ADJUST_STEP` (R132): Arms a step of an offset at the second round boundary. -/
  | timeAdjustStep (p : Pkt)
  /-- `TIME_ADJUST_SOURCE` (R132): Selects the frequency source HOST or REF10M. -/
  | timeAdjustSource (p : Pkt)
  /-- `TIME_ADJUST_PPS_OUT` (R136): Configures the 1PPS output's offset, width and enables. -/
  | timeAdjustPpsOut (p : Pkt)
  /-- `TIME_ADJUST_DECLARE` (R149): Writes the declared fields of the time-quality word. -/
  | timeAdjustDeclare (p : Pkt)
  /-- `TIME_READ` (R151): Returns the device time, residence counter, rate, quality and any pending step. -/
  | timeRead (p : Pkt)
  /-- `TS_CALIBRATE_RUN` (R140): Measures a disabled port's path delays by internal loopback and stores a calibration. -/
  | tsCalibrateRun (p : Pkt)
  /-- `TS_CALIBRATE_READ` (R141): Returns a port's stored calibration. -/
  | tsCalibrateRead (p : Pkt)
  /-- `MIRROR_CONFIG` (R462): Configures the Dovetail link, takeover mode, digest cycle and pair_id. -/
  | mirrorConfig (p : Pkt)
  /-- `MIRROR_ROLE` (R464): Requests a role transition of Table 19.6. -/
  | mirrorRole (p : Pkt)
  /-- `MIRROR_CHECK` (R479): Compares every region across the pair, or reports the pair state already held. -/
  | mirrorCheck (p : Pkt)
  /-- `KEY_INSTALL` (R376): Unwraps a key under the wrap key and stores it in an empty slot. -/
  | keyInstall (p : Pkt)
  /-- `KEY_RETIRE` (R377): Zeroises a key slot's key, epoch and counter. -/
  | keyRetire (p : Pkt)
  /-- `COUNTER_READ` (R378): Returns boot_nonce and every key slot's presence, counter and epoch. -/
  | counterRead (p : Pkt)
  /-- `INST_CREATE` (R444): Creates an instance and passes the named rings and ports to it. -/
  | instCreate (p : Pkt)
  /-- `INST_RESIZE` (R446): Changes an instance's quota, quanta, drawer_mask or opcode_mask. -/
  | instResize (p : Pkt)
  /-- `INST_QUIESCE` (R450): Stops new work of an instance and replies OK once its in-flight count reaches zero. -/
  | instQuiesce (p : Pkt)
  /-- `INST_QUIESCE_RESUME` (R450): Returns a QUIESCING or QUIESCED instance to ACTIVE. -/
  | instQuiesceResume (p : Pkt)
  /-- `INST_RESET` (R451): Resets a quiesced instance's rings, holds and quota accounting. -/
  | instReset (p : Pkt)
  /-- `INST_REMOVE` (R452): Resets a quiesced instance, returns its rings and ports to instance 0 and sets it ABSENT. -/
  | instRemove (p : Pkt)
  /-- `DIRTY_LOG_SWAP` (R457): Makes a new dirty-page log active and returns the old log once it is complete. -/
  | dirtyLogSwap (p : Pkt)
  /-- `DIRTY_LOG_STOP` (R457): Ends dirty-page logging and returns the last log once it is complete. -/
  | dirtyLogStop (p : Pkt)
  /-- `FAULT_CONFIG` (R485): Sets a fault line's severity, counting, window and grace time. -/
  | faultConfig (p : Pkt)
  /-- `FAULT_RELEASE` (R487): Lifts a line's containment and clears its latched status, first record or sticky bits. -/
  | faultRelease (p : Pkt)
  /-- `UCODE_LOAD_USER` (R407): Writes user microwords into the user region of the control store. -/
  | ucodeLoadUser (p : Pkt)
  /-- `UCODE_CALL` (R410): Runs a user microcode routine under a cycle limit. -/
  | ucodeCall (p : Pkt)
  /-- `CMD_RING_FETCH` (R362): The CP0 context takes the next posted packet from the instance command rings in turn. -/
  | cmdRingFetch (rd : HostRead) (at8 : Fin 3277)
  /-- `HOST_CMD_TAIL_WRITE` (R363): Software posts command slots, and the write is checked against the head. -/
  | hostCmdTailWrite (inst : Fin 64) (v : BitVec 16) (mem : List (BitVec 64 × List Byte))
  /-- `HOST_RPL_TAIL_WRITE` (R363): Software frees reply slots, which releases a held reply. -/
  | hostRplTailWrite (inst : Fin 64) (v : BitVec 16)
  /-- `HOST_CMD_CTRL_RESET` (R381): A write of HOST_CMD_CTRL.reset performs a port reset of CP0, or of one instance's ring. -/
  | hostCmdCtrlReset (inst : Fin 64)
  /-- `CP1_FRAME_RECEIVE` (R119): The management port receives a frame and queues a command packet for CP1. -/
  | cp1FrameReceive (frame : List Byte) (at8 : Fin 3277)
  /-- `CP3_FRAME_RECEIVE` (R364): The debug serial port receives a framed packet and checks its CRC and length. -/
  | cp3FrameReceive (wire : List Byte) (at8 : Fin 3277)
  /-- `CP3_BREAK` (R364): A break of 1 ms or longer on the serial receive line resets CP3. -/
  | cp3Break (us : Nat)
  /-- `TIME_LATCH` (R152): A write of TIME_LATCH.latch copies the device time into TIME_LATCHED. -/
  | timeLatch (v : BitVec 64) (delay8 : Fin 161) (at8 : Fin 3277)
  /-- `HOST_LINK_RELEASE` (R420): Ends a host freeze and leaves the enabled rings halted. -/
  | hostLinkRelease
  /-- `WIN_COMMIT` (R416): Makes the staged Cabinet window base take effect. -/
  | winCommit (inst : Fin 64)
  /-- `WINDOW_READ` (R417): A read through the Cabinet window, with an outcome from Table 17.7. -/
  | windowRead (inst : Fin 64) (off : BitVec 42) (len : Nat)
  /-- `WINDOW_WRITE` (R417): A write through the Cabinet window, carried out or discarded under Table 17.7. -/
  | windowWrite (inst : Fin 64) (off : BitVec 42) (data : List (Option Byte)) (poisoned : Bool)
  /-- `DMA_CTRL_ENABLE` (R421): A write of DMA_CTRL.enable starts a ring when its configuration is legal. -/
  | dmaCtrlEnable (ring : Fin 1024) (by_ : Fin 64) (v : BitVec 64)
  /-- `DMA_CTRL_RESET` (R440): Starts a reset of a DMA ring, which ends once its requests in flight have completed. -/
  | dmaCtrlReset (ring : Fin 1024) (by_ : Fin 64)
  /-- `DMA_TAIL_WRITE` (R421): Software posts descriptors, and the write is checked against the head. -/
  | dmaTailWrite (ring : Fin 1024) (by_ : Fin 64) (v : BitVec 32) (mem : List (BitVec 64 × List Byte))
  /-- `DMA_CIRC_RPOS_WRITE` (R421): Software frees space in a ring's circular buffer. -/
  | dmaCircRposWrite (ring : Fin 1024) (by_ : Fin 64) (v : BitVec 64)
  /-- `CAB_DRW_RPOS_WRITE` (R330): Software moves a drawer's read_pos forward. -/
  | cabDrwRposWrite (inst : Fin 64) (drawer : Fin 64) (v : BitVec 64)
  /-- `PMC_MARK` (R508): Issues a snapshot mark within the device or across the pair. -/
  | pmcMark (v : BitVec 64)
  /-- `PMC_SWEEP` (R507): Starts a sweep that reads a range of counters into the sweep buffer. -/
  | pmcSweep (v : BitVec 64)
  /-- `PMC_CTR_WRITE` (R500): Software writes a performance counter's value between two cycles. -/
  | pmcCtrWrite (k : Fin 256) (v : BitVec 64)
  /-- `PMC_CFG_WRITE` (R505): Writes a counter's configuration, which takes effect at the next round boundary. -/
  | pmcCfgWrite (k : Fin 256) (v : BitVec 64)
  /-- `REGISTER_WRITE` (R415): A write to a BAR0 register that has no behaviour of its own. -/
  | registerWrite (addr : BitVec 26) (size : AccessSize) (v : BitVec 64)
  /-- `COLD_RESET` (R524): RESET_N rises after a cold reset, and the start-up phases run. -/
  | coldReset (board : Board)
  /-- `STARTUP_COMPLETE` (R524): DRAM training, SerDes bring-up and the free lists are done, so startup_done is set. -/
  | startupComplete
  /-- `CABINET_INITIALISED` (R345): Every channel has zeroed its DIMM, so the Cabinet leaves its start-up pause. -/
  | cabinetInitialised
  /-- `DRAM_TRAINING_DONE` (R342): A channel completes or fails the training steps. -/
  | dramTrainingDone (ch : Fin 16) (result : Training)
  /-- `SERDES_GROUP_UP` (R87): A SerDes group completes its 25 ms bring-up and the next group begins. -/
  | serdesGroupUp (g : Fin 8)
  /-- `WARM_RESET` (R525): A fall of WARM_RESET_N seals the drawers, resets the device and restores configured state from D0. -/
  | warmReset (at8 : Fin 3277)
  /-- `PERST` (R523): PERST_N resets the PCIe island and puts the device in host freeze. -/
  | perst
  /-- `PCIE_LINK_DOWN` (R419): Link down, hot reset or link disable puts the device in host freeze. -/
  | pcieLinkDown
  /-- `PCIE_LINK_UP` (R411): PCIe link training completes at the negotiated speed and width. -/
  | pcieLinkUp (gen : PcieGen) (width : PcieWidth)
  /-- `FLR_VF` (R454): A function level reset of a virtual function runs the instance fence. -/
  | flrVf (n : Fin 64)
  /-- `FLR_PF` (R413): A function level reset of the physical function fences every instance and resets CP0. -/
  | flrPf
  /-- `VF_ENABLE_CLEAR` (R413): Clearing VF Enable runs the fence of every instance from 1 to 63. -/
  | vfEnableClear
  /-- `FENCE_COMPLETE` (R454): An instance fence has finished, so the instance returns to ACTIVE and the event is raised. -/
  | fenceComplete (n : Fin 64)
  /-- `OWNER_PROGRAM` (R529): A test-port instruction blows the owner key fuses and the lock fuse. -/
  | ownerProgram (key : BitVec 256) (vpp : Bool) (resetLow : Bool)
  /-- `OWNER_STATUS` (R529): A test-port instruction shifts out the programmed bit and the key's hash. -/
  | ownerStatus
  /-- `BOOT_STATUS` (R528): A test-port instruction shifts out HOST_BOOT. -/
  | bootStatus
  /-- `FRAME_RECEIVE` (R100): A MAC receives a frame, checks it and captures its ingress timestamp. -/
  | frameReceive (lp : Fin 512) (wire : List Byte) (at8 : Fin 3277)
  /-- `PAUSE_RECEIVE` (R110): A received PAUSE or PFC frame is acted on, counted or ignored. -/
  | pauseReceive (lp : Fin 512) (opcode : BitVec 16) (classes : BitVec 8) (quanta : List (BitVec 16)) (at8 : Fin 3277)
  /-- `PAUSE_TAKE_EFFECT` (R111): A received pause holds the transmitter 20.48 ns after its FCS. -/
  | pauseTakeEffect (lp : Fin 512)
  /-- `PAUSE_EXPIRY` (R111): A pause's quanta run out and the held classes may transmit again. -/
  | pauseExpiry (lp : Fin 512) (kind : Fin 9)
  /-- `PAUSE_WATCHDOG_TRIP` (R113): A pause held for watchdog_ms is broken and hold-off begins. -/
  | pauseWatchdogTrip (lp : Fin 512) (kind : Fin 9)
  /-- `PAUSE_HOLDOFF_END` (R113): The watchdog hold-off ends, so received pauses act again. -/
  | pauseHoldoffEnd (lp : Fin 512) (kind : Fin 9)
  /-- `PAUSE_TX` (R114): The MAC sends a PAUSE or PFC frame on a congestion call, on a repeat or on withdrawal. -/
  | pauseTx (lp : Fin 512) (kind : Fin 9)
  /-- `HEAD_RELEASE` (R34): The port island releases a head toward its pipeline at the fixed time after the first byte. -/
  | headRelease (lp : Fin 512) (cycle : Fin 1024)
  /-- `HEAD_SLOT` (R37): A head enters its pipeline in a slot and runs the stages of its class. -/
  | headSlot (pipe : Fin 16) (slot : Fin 2048) (up : Upsets)
  /-- `RECIRC_PASS` (R45): A queued head re-enters its pipeline in the next recirculation slot. -/
  | recircPass (pipe : Fin 16) (slot : Fin 2048) (up : Upsets)
  /-- `INJECT_SLOT` (R46): A host-injected or replay head enters its pipeline in an injection slot. -/
  | injectSlot (pipe : Fin 16) (slot : Fin 2048) (up : Upsets)
  /-- `HEAD_HANDOFF` (R44): A head reaches the buffer island, where the feed arbiter, admission and enqueue act on it. -/
  | headHandoff (cycle : Fin 512) (parityBad : List (Fin 96))
  /-- `FEED_DECISION` (R238): The feed arbiter decides a feed frame in its pipeline's decision window. -/
  | feedDecision (pipe : Fin 16)
  /-- `BODY_CELL_WRITE` (R251): A body cell of a long frame is written as it arrives and charged to the arrival reserve. -/
  | bodyCellWrite (lp : Fin 512) (cycle : Fin 512) (bank : Fin 64)
  /-- `LAST_CELL_ARRIVAL` (R163): A frame's last cell reaches the buffer island, which completes the late FCS, length and L4 checks. -/
  | lastCellArrival (lp : Fin 512) (cycle : Fin 512) (bank : Fin 64)
  /-- `REVOCATION` (R243): The arbiter applies a revocation in a service window, clearing the seen bits and opening a gap. -/
  | revocation (window : Fin 64)
  /-- `SCHEDULER_PICK` (R299): The egress scheduler picks the next frame of a port by level and DWRR. -/
  | schedulerPick (lp : Fin 512) (cellBad : Bool) (at8 : Fin 3277)
  /-- `TRANSMIT_END` (R320): A copy ends on the wire, its egress timestamp is final and its frame record is written. -/
  | transmitEnd (lp : Fin 512) (at8 : Fin 3277)
  /-- `QUEUE_FLUSH_UNLINK` (R255): Unlinks one entry of a port that left UP in one of its egress read windows. -/
  | queueFlushUnlink (lp : Fin 512) (cycle : Fin 512) (bank : Fin 64)
  /-- `SHAPER_REFILL` (R300): At each refill, adds idle_rate or port_rate to the enabled shapers' credits. -/
  | shaperRefill
  /-- `GATE_SWITCH` (R306): A pending gate control list comes into force at its switch time X. -/
  | gateSwitch (lp : Fin 512) (at8 : Fin 3277)
  /-- `GATE_ENTRY_ADVANCE` (R305): A gate control entry's interval expires and the next entry's gate states apply. -/
  | gateEntryAdvance (lp : Fin 512) (at8 : Fin 3277)
  /-- `CHAIN_FREE_WALK` (R287): Walks a chain whose count reached zero and returns its cells to the bank caches. -/
  | chainFreeWalk
  /-- `POOL_SERVICE` (R279): Spills or fills a bank's free-cell cache in a pool service window. -/
  | poolService (cycle : Fin 512) (bank : Fin 64)
  /-- `POOL_ALLOCATE` (R283): An allocating engine's request for cells is granted or refused against the quota. -/
  | poolAllocate (req : Fin 65) (cells : Nat)
  /-- `RECOUNT_COMPLETE` (R292): The recount scan ends and its shadow counters replace the live ones. -/
  | recountComplete
  /-- `LEARNING_SLOT` (R215): The learning unit searches for a candidate and makes the conditional write. -/
  | learningSlot (q : Fin 4) (cycle : Fin 1024)
  /-- `AGEING_READ` (R218): An ageing-read slot reads one learned row and reports or removes it when it is old. -/
  | ageingRead (q : Fin 4) (cycle : Fin 1024)
  /-- `AGE_SCAN_COMPLETE` (R219): Every selected quad has finished the scan, so AGE_SCAN replies OK with its counts. -/
  | ageScanComplete
  /-- `SCRUB_SLOT` (R225): A scrub slot checks one row against its shadow or ECC and repairs or marks it. -/
  | scrubSlot (q : Fin 4) (table : TableId) (index : Nat) (cycle : Fin 1024) (key data : ScrubFinding)
  /-- `REPLICA_REPAIR` (R226): Compares a block digest with the master and rewrites a replica block that differs. -/
  | replicaRepair (q : Fin 4) (table : TableId) (block : Nat) (cycle : Fin 1024) (masterBad : Bool)
  /-- `ROUND_BOUNDARY` (R30): A round ends and the round number advances in each island. -/
  | roundBoundary
  /-- `ACTIVATION_COMMIT` (R66): At the boundary of round N − 4, the armed activation is broadcast and committed. -/
  | activationCommit
  /-- `ACTIVATION_SWITCH` (R67): At the boundary of round N, every island switches to the new image. -/
  | activationSwitch
  /-- `ACTIVATION_DRAINED` (R66): Old-image heads are gone and changed ports have switched, so the activation replies OK. -/
  | activationDrained
  /-- `PORT_SWITCH_POSITION` (R68): A changed port reaches its switch position and fills its new-image slots. -/
  | portSwitchPosition (lp : Fin 512)
  /-- `TRANSITION_WINDOW_CLOSE` (R68): A changed port's transition FIFO empties after its switch position. -/
  | transitionWindowClose (lp : Fin 512)
  /-- `GEN_SWAP_BOUNDARY` (R230): At the boundary of round S, every quad changes its current generation. -/
  | genSwapBoundary
  /-- `GEN_SWAP_DRAINED` (R230): No head pinned to the old generation remains, so GEN_SWAP replies OK. -/
  | genSwapDrained
  /-- `STEP_APPLY` (R131): A pending step is applied at B, or ends with RANGE. -/
  | stepApply
  /-- `NO_PPS_TIMEOUT` (R130): An AT_PPS TIME_SET is abandoned when no edge is accepted within 2.0 s. -/
  | noPpsTimeout
  /-- `SLEW_END` (R133): A slew's duration ends, with the residue carried in its final cycle. -/
  | slewEnd
  /-- `PPS_IN_EDGE` (R134): A rising edge of PPS_IN is accepted or ignored, and the time at the edge is captured. -/
  | ppsInEdge (at8 : Fin 3277)
  /-- `PPS_ABSENT` (R134): The 1PPS input is absent after 1,500 ms without an accepted edge. -/
  | ppsAbsent
  /-- `PPS_OUT_EDGE` (R136): The 1PPS output rises at a whole second plus the offset. -/
  | ppsOutEdge (at8 : Fin 3277)
  /-- `REF10M_COUNT` (R126): Once per second, counts the 10 MHz edges and steers or enters and leaves holdover. -/
  | ref10mCount (edges : Nat)
  /-- `CLOCK_ATTESTATION` (R150): Writes a clock attestation record when sec advances or after a step. -/
  | clockAttestation (at8 : Fin 3277)
  /-- `PORT_BRINGUP_DONE` (R94): A port completes auto-negotiation, training or alignment and moves to its next state. -/
  | portBringupDone (lp : Fin 512) (ok : Bool)
  /-- `ALIGN_TIMEOUT` (R94): After 10 ms in ALIGN without lock, a port returns to the first state of bring-up. -/
  | alignTimeout (lp : Fin 512)
  /-- `LINK_LOSS` (R95): An UP port loses alignment marker or codeword lock and leaves UP. -/
  | linkLoss (lp : Fin 512)
  /-- `FEC_DEGRADE_CHECK` (R96): Each 1 ms interval compares corrected symbols with the degrade threshold. -/
  | fecDegradeCheck (lp : Fin 512) (correctedSymbols : Nat) (correctedCw : Nat) (uncorrectableCw : Nat) (blockErrors : Nat)
  /-- `WAKE_DETECT` (R117): A low-power port's wake detector fires after 10 µs of signal energy. -/
  | wakeDetect (lp : Fin 512)
  /-- `PLL_LOCK_LOSS` (R89): An island's PLL loses lock and the loss is reported to the fault collector. -/
  | pllLockLoss (island : Fin 112)
  /-- `ISLAND_POWER_UP` (R88): A port island locks, aligns its round and sets its joint read points. -/
  | islandPowerUp (m : Fin 64)
  /-- `FEED_GAP_SCAN` (R241): A scan window examines one feed and reports its timed-out gaps. -/
  | feedGapScan (window : Fin 128)
  /-- `REPLAY_SERVE` (R336): The replay server builds and injects the responses to one request. -/
  | replayServe
  /-- `EVIDENCE_DRAIN` (R329): Records from staging are written to the Cabinet and write_pos rises. -/
  | evidenceDrain (at8 : Fin 3277)
  /-- `SEAL_TIMER` (R327): Writes a seal 1 ms after the last seal. -/
  | sealTimer (drawer : Fin 64) (at8 : Fin 3277)
  /-- `DRAWER_ERASE_DONE` (R317): A drawer's extent is zeroed and the drawer becomes EMPTY. -/
  | drawerEraseDone (drawer : Fin 64)
  /-- `DRAM_REFRESH` (R347): A channel issues same-bank refresh at its interval, running calibrations within it. -/
  | dramRefresh (ch : Fin 16) (drift : List Int)
  /-- `DRAM_UNCORRECTABLE` (R353): A read finds an uncorrectable unit, which is recorded and reported. -/
  | dramUncorrectable (unit : BitVec 36) (devices : Nat)
  /-- `PATROL_SCRUB` (R355): Reads each unit of a channel once every 24 hours. -/
  | patrolScrub (ch : Fin 16) (devices : Nat)
  /-- `INJECT_DESCRIPTOR` (R425): An INJECT ring reads a frame's chain and passes it to the slow-path injection slots. -/
  | injectDescriptor (ring : Fin 1024) (rd : HostRead)
  /-- `DELIVER_FRAME` (R430): A DELIVER ring writes a slow-path frame across descriptors. -/
  | deliverFrame (ring : Fin 1024) (rd : HostRead) (cellBad : Bool)
  /-- `LEASE_FRAME` (R430): A LEASE ring writes a frame's head and hands the chain's hold to the owner. -/
  | leaseFrame (ring : Fin 1024) (rd : HostRead) (cellBad : Bool)
  /-- `COPY_DESCRIPTOR` (R431): A COPY ring copies bytes between host, peer and Cabinet. -/
  | copyDescriptor (ring : Fin 1024) (rd : HostRead)
  /-- `NOTICE_WRITE` (R434): Writes a learning notice to the NOTICE ring's circular buffer. -/
  | noticeWrite
  /-- `BARRIER_DONE` (R424): The zero-length read of a barrier completes and the status write is issued. -/
  | barrierDone (ring : Fin 1024)
  /-- `RING_WAIT_RESUME` (R427): A ring waiting for quota, the Cabinet or report space resumes. -/
  | ringWaitResume (ring : Fin 1024)
  /-- `COMPLETION_TIMEOUT` (R437): A ring's read request times out and the ring halts with HOST_TIMEOUT. -/
  | completionTimeout (tag : BitVec 14)
  /-- `LATE_COMPLETION` (R438): A completion arrives after its timeout and is discarded. -/
  | lateCompletion (tag : BitVec 14)
  /-- `TAG_QUARANTINE_END` (R438): A timed-out tag leaves quarantine after 2 × T_ct. -/
  | tagQuarantineEnd (tag : BitVec 14)
  /-- `READ_COMPLETION` (R437): A read completion arrives, with data, error status or poison. -/
  | readCompletion (tag : BitVec 14) (rd : HostRead)
  /-- `EVENT_HOLDOFF_END` (R492): A source's holdoff ends and one message is sent for the raises within it. -/
  | eventHoldoffEnd (src : Fin 1536)
  /-- `MSIX_UNMASK` (R441): A vector or function mask clears and its pending message is sent. -/
  | msixUnmask (fn : Fin 64) (vec : Option (Fin 536))
  /-- `FAULT_OCCURRENCE` (R481): A fault line is asserted by a source and handled at its severity. -/
  | faultOccurrence (line : Fin 48) (src : BitVec 13)
  /-- `FAULT_WINDOW_CLOSE` (R483): A counted line's window closes short of count_n and its count restarts. -/
  | faultWindowClose (line : Fin 48)
  /-- `GRACE_TIMER_EXPIRY` (R486): The grace timer expires and the device enters the safe state. -/
  | graceTimerExpiry (at8 : Fin 3277)
  /-- `CMD_WATCHDOG` (R480): A command that has sent no reply stays 1 s on one microword. -/
  | cmdWatchdog (ctx : CmdPort)
  /-- `SENSOR_READ` (R493): Every 10 µs each sensor is read and its thresholds are tested. -/
  | sensorRead (k : Fin 32) (reading : BitVec 16) (at8 : Fin 3277)
  /-- `THERMAL_SHED_CHECK` (R494): At each shed interval under alarm, sheds one port macro group when a sensor is still hot. -/
  | thermalShedCheck
  /-- `VOLTAGE_SAMPLE` (R495): Every 1 µs each voltage monitor samples its rail. -/
  | voltageSample (k : Fin 24) (mv : BitVec 16)
  /-- `CONTEXT_SLICE` (R393): A context that has run 1,024 cycles is saved at a trap-permitting word. -/
  | contextSlice
  /-- `CONTEXT_RESUME` (R400): A waiting context's condition holds and the context resumes its word. -/
  | contextResume (ctx : CmdPort)
  /-- `CONTEXT_TIMER_EXPIRY` (R400): A context timer expires and satisfies wait condition 8. -/
  | contextTimerExpiry (ctx : CmdPort)
  /-- `UCODE_LIMIT` (R410): A UCODE_CALL spends its cycle limit and ends with PARTIAL. -/
  | ucodeLimit (ctx : CmdPort)
  /-- `LINK_UNIT_RECEIVE` (R460): The Dovetail receiver checks a link unit's CRC and sequence and requests resends. -/
  | linkUnitReceive (unit : BitVec 512)
  /-- `LINK_ACK` (R460): Once per round, acknowledges the highest in-order link_seq. -/
  | linkAck
  /-- `DOVETAIL_LINK_DOWN` (R460): The link goes down after 2 µs without a good unit, on lock loss or after 16 resend requests. -/
  | dovetailLinkDown (cause : LinkDownCause)
  /-- `DOVETAIL_LINK_UP` (R461): The link comes up and the traversal D is measured by ECHO. -/
  | dovetailLinkUp (dPs : Nat)
  /-- `COMMAND_MESSAGE` (R468): The standby's CP2 context takes a mirrored command in mirror_seq order. -/
  | commandMessage (seq : BitVec 64) (opcode : BitVec 16) (p : Pkt) (tN : Nat)
  /-- `REPLY_MESSAGE` (R467): The primary receives the standby's reply to a mirrored command. -/
  | replyMessage (seq : BitVec 64) (status : BitVec 8) (isFinal : Bool)
  /-- `TIME_MESSAGE` (R470): The standby steers its time base from a received TIME message. -/
  | timeMessage (t1 : Nat) (stepCount : BitVec 8) (at8 : Fin 3277)
  /-- `TIME_MESSAGE_SEND` (R470): The primary sends a TIME message every 16 rounds. -/
  | timeMessageSend (at8 : Fin 3277)
  /-- `STEP_MESSAGE` (R471): The standby arms a step of the primary's amount. -/
  | stepMessage (amount : Int) (stepCount : BitVec 8)
  /-- `FEED_MESSAGE` (R472): The standby applies the primary's feed changes in decision order. -/
  | feedMessage (feed : Fin 4096) (change : FeedChange)
  /-- `STATE_MESSAGE` (R463): The peer's role, pair_id, mirror_seq and step_count are received once per round. -/
  | stateMessage (role : Role) (pairId : BitVec 128) (seq : BitVec 64) (stepCount : BitVec 8)
  /-- `DIGEST_MESSAGE` (R473): The standby compares a region digest once its applied mirror_seq reaches the digest's. -/
  | digestMessage (region : Fin 19) (seq : BitVec 64) (digest : BitVec 32)
  /-- `DIGEST_SEND` (R473): The primary takes and sends a region digest within each digest cycle. -/
  | digestSend (region : Fin 19)
  /-- `PULL_REQ` (R473): The primary answers a request for block digests, blocks or feed state. -/
  | pullReq (req : PullReq)
  /-- `PULL_DATA` (R473): The standby writes received blocks or feed state as command writes. -/
  | pullData (data : PullData)
  /-- `TOKEN_MESSAGE` (R85): A global-operation token or acknowledgement crosses the pair. -/
  | tokenMessage (token : Token)
  /-- `SAFE_MESSAGE` (R475): A received SAFE message causes a takeover or an event, by mode. -/
  | safeMessage
  /-- `PEER_FAULT_ASSERT` (R475): PEER_FAULT_N asserted for 1 µs causes a takeover or an event, by mode. -/
  | peerFaultAssert
  /-- `LINK_LOSS_HOLD_EXPIRY` (R475): The link stays down for takeover_hold_us, causing a takeover under LINK_LOSS. -/
  | linkLossHoldExpiry
  /-- `CALIBRATION_COMPLETE` (R140): A TS_CALIBRATE RUN finishes its measurement, stores the calibration, returns the port to its prior state, re-arms the wake detector and replies OK. -/
  | calibrationComplete (lp : Fin 512) (rxPs : BitVec 32) (txPs : BitVec 32)
  /-- `SELFTEST_COMPLETE` (R498): A running SELFTEST operation ends and sends its final reply with pass and fail masks. -/
  | selftestComplete (pass : BitVec 64) (sweeps : List (Fin 16 × Training))
  /-- `CABINET_PAUSE_DONE` (R359): Accepted requests have completed and every DIMM is in self-refresh, so CABINET_PAUSE replies OK. -/
  | cabinetPauseDone
  /-- `CABINET_RESUME_DONE` (R359): The DIMMs leave self-refresh, calibration runs, admitted channels return to service and RESUME replies OK. -/
  | cabinetResumeDone (drifts : List (Fin 16 × List Int))
  /-- `WARM_RESET_RELEASE` (R525): WARM_RESET_N rises after the sealing steps, and the device resets and runs phases 4 to 8 with restoration from D0. -/
  | warmResetRelease (drifts : List (Fin 16 × List Int))
  /-- `PERST_RELEASE` (R524): PERST_N rises and PCIe link training starts within 20 ms of the later of this edge and the end of phase 4. -/
  | perstRelease
  /-- `CONFIG_SPACE_WRITE` (R412): A PCIe configuration write sets Completion Timeout Value, BAR Size, Bus Master Enable, VF Enable or Relaxed Ordering enable. -/
  | configSpaceWrite (fn : Fin 64) (field : CfgField) (v : BitVec 16)
  /-- `MONITOR_CLOCK_LOSS` (R490): The monitor island's clock is lost, so the device enters the safe state at once and records the cause in MON_LAST_GASP. -/
  | monitorClockLoss (at8 : Fin 3277)
  /-- `COLLECTOR_REGISTER_FAULT` (R490): A fault in the fault collector's own registers or configuration enters the safe state at once, and MON_LAST_GASP records it. -/
  | collectorRegisterFault (at8 : Fin 3277)
  /-- `DIMM_SENSOR_READ` (R347): A DIMM thermal sensor is read over the sideband bus, which halves or restores the refresh interval and raises DIMM_TEMP at 95 °C. -/
  | dimmSensorRead (ch : Fin 16) (celsius : Nat)
  /-- `WAKE_DETECTOR_REARM` (R117): Under wake_action 0, a port's wake detector is re-armed once signal energy has been absent for 10 µs. -/
  | wakeDetectorRearm (lp : Fin 512)
  /-- `SWEEP_COMPLETE` (R507): A counter sweep latches its last counter and clears PMC_SWEEP.busy. -/
  | sweepComplete
deriving DecidableEq, Repr

end Sys2Proof
end

