-- ==== Sys2Proof/Decode.lean ====
section
/-!
DEFINITION. Words of spec/opcode_table.json: no row of the table gives bits (its commands are packets, register writes and
events inside the device), so that no word spells a command.
-/

namespace Sys2Proof

/-- The command that a word of the table's bits spells: none, since no row of the table gives bits. -/
def decodeTableWord (_nbits _w : Nat) : Option Instr := none

end Sys2Proof
end

