-- ==== Sys2Proof/Config.lean ====
section
/-!
DEFINITION. What the spec leaves open: opaque functions without a body, so that nothing can be proved of their values.
Each is applied to what the open value may depend on, or to the state's counter of free values. Log entry 1 names them.
-/

namespace Sys2Proof.Config

/-- A choice that the spec leaves open among several possibilities (which free tag, which cell of a bank's cache, which
bank holds a head's cell): the argument is the counter of free values. -/
opaque choice : Nat → Nat

/-- A value that the spec leaves open, by the counter of free values. -/
opaque value : Nat → Nat

/-- An octet of D0 content, bytes 0 to 512 MiB − 1 of drawer D0: the spec does not give the layout of the masters inside D0
(08_tables; 14_dram R341; 17_host Table 17.7). Arguments: the masters, and the address. -/
opaque d0Byte : List (Nat × Nat) → Nat → Byte

/-- The address in D0 content at which the master of a table entry lies (14_dram R341 gives no layout). Argument: the entry's key. -/
opaque d0Place : Nat → Nat

/-- The error of a captured timestamp, before the bound that R141 and R142 of 05_time put on it. Argument: the counter of free values. -/
opaque stampError : Nat → Nat

/-- By how many ps the clock edge that begins an island's rounds lies behind the round marker, before it is cut to one of the island's cycles
(03_islands R76, R77). -/
opaque islandPhase : Nat → Nat

/-- The place that a queue entry takes in the queue-entry store (11_pool R292 gives the scan by places, and no rule of placing).
Argument: the frame's number. -/
opaque entryPlace : Nat → Nat
/-- The place that a hold takes in the hold store. Argument: the chain's first cell. -/
opaque holdPlace : Nat → Nat

/-- The change of freq_adj by one step of the REF10M loop, and the new integral: the spec gives its bandwidth and no
gains (05_time R126). Arguments: the error in edges and the integral. -/
opaque refStep : Int → Int → Int × Int

/-- The output of one step of the Dovetail lock loop and the new integral: the spec gives its bandwidth and no gains
(19_pair R470). Arguments: the offset in 2^-16 ns, the integral, and freq_adj in force. -/
opaque lockStep : Int → Int → Int → Int × Int

/-- What a LINK message carries: a resend request from a link_seq, or, when it is none, an acknowledgement (19_pair Table 19.2 gives
no layout of its payload). Argument: the 52 octets of the payload. -/
opaque linkPayload : Nat → Option Nat

/-- A rewrite program applied to a frame's head: the spec does not give the programs (06_templates R172). Arguments: the
program number, the carriage word's fields, and the head. -/
opaque rewrite : Nat → Nat → List Byte → List Byte

/-- The result of a unit operation that the spec does not lay out (16_microcode Table 16.8): by operation and operands. -/
opaque unitOp : Nat → Nat → Nat → Nat

/-- The 16 bits that the drop-profile generator gives in a state: the spec gives its polynomial, and not which 16 of its bits a value
takes (10_buffer R265). Argument: the state of the generator. -/
opaque generatorBits : Nat → Nat

/-- The content of a table row after an upset that the lookup could not correct (08_tables R224): by table and index. -/
opaque upsetRow : Nat → Nat → Nat

/-- Octets that an INST_RESET of an instance with work in flight leaves in that instance's host buffers: its contents are then
unpredictable (18_instances R451). Argument: the counter of free values. -/
opaque strayWrites : Nat → List (Nat × List Byte)

end Sys2Proof.Config
end

