-- ==== Sys2Proof/Machine/Bits.lean ====
section
/-!
DEFINITION. Fields of little-endian structures, octet strings, sparse tables and modular counters (00_scope R1 to R5).
-/

namespace Sys2Proof.Machine

/-- The field of `w` bits whose lowest bit is bit `lo` of a little-endian structure (00_scope R5). -/
def fld (img lo w : Nat) : Nat := img / 2 ^ lo % 2 ^ w

/-- One bit of a little-endian structure. -/
def bitAt (img lo : Nat) : Bool := img / 2 ^ lo % 2 == 1

/-- A structure with the field of `w` bits at `lo` replaced by `v`. -/
def setFld (img lo w v : Nat) : Nat :=
  img % 2 ^ lo + (v % 2 ^ w) * 2 ^ lo + img / 2 ^ (lo + w) * 2 ^ (lo + w)

/-- The number that octets spell, lowest octet first (00_scope R5). -/
def le : List Byte → Nat
  | [] => 0
  | b :: bs => b.toNat + 256 * le bs

/-- The `n` lowest octets of a number, lowest first. -/
def bytesLe : Nat → Nat → List Byte
  | 0, _ => []
  | n + 1, v => BitVec.ofNat 8 v :: bytesLe n (v / 256)

/-- The number that octets spell, highest octet first (network order). -/
def be (bs : List Byte) : Nat := le bs.reverse

/-- The `n` lowest octets of a number, highest first. -/
def bytesBe (n v : Nat) : List Byte := (bytesLe n v).reverse

/-- `n` octets of a string from `off`, absent octets reading as zero. -/
def sliceAt (bs : List Byte) (off n : Nat) : List Byte :=
  let t := (bs.drop off).take n
  t ++ List.replicate (n - t.length) 0

/-- The octet at an offset, zero beyond the end. -/
def byteAt (bs : List Byte) (off : Nat) : Nat := (bs.getD off 0).toNat

/-- A big-endian number of `n` octets at an offset. -/
def beAt (bs : List Byte) (off n : Nat) : Nat := be (sliceAt bs off n)

/-- A little-endian number of `n` octets at an offset. -/
def leAt (bs : List Byte) (off n : Nat) : Nat := le (sliceAt bs off n)

/-- A string with the octets from `off` replaced by `new`, keeping its length. -/
def patch (bs : List Byte) (off : Nat) (new : List Byte) : List Byte :=
  (bs.take off ++ new ++ bs.drop (off + new.length)).take bs.length

/-- A string cut or filled with zeros to `n` octets. -/
def fit (n : Nat) (bs : List Byte) : List Byte := sliceAt bs 0 n

/-- A string padded with zeros to a multiple of `m` octets. -/
def padTo (m : Nat) (bs : List Byte) : List Byte :=
  bs ++ List.replicate ((m - bs.length % m) % m) 0

/-- 1 for a set bit, 0 for a clear one. -/
def b1 (b : Bool) : Nat := if b then 1 else 0

/-- The signed value of a two's complement field of `w` bits. -/
def sgn (w v : Nat) : Int := if v % 2 ^ w < 2 ^ (w - 1) then ((v % 2 ^ w : Nat) : Int) else (v % 2 ^ w : Nat) - (2 ^ w : Nat)

/-- The two's complement field of `w` bits of a signed number. -/
def unsgn (w : Nat) (v : Int) : Nat := (v % (2 ^ w : Nat)).toNat

/-- Division rounded up. -/
def ceilDiv (a b : Nat) : Nat := (a + b - 1) / b

/-- The value of a sparse table at a key; `d` is what an unlisted key reads as. -/
def tget {α : Type} (d : α) (t : Tbl α) (k : Nat) : α :=
  match t with
  | [] => d
  | (j, v) :: r => if j = k then v else tget d r k

/-- Insertion at a key, keys rising. -/
def tput {α : Type} (t : Tbl α) (k : Nat) (v : α) : Tbl α :=
  match t with
  | [] => [(k, v)]
  | (j, u) :: r => if k < j then (k, v) :: (j, u) :: r else if k = j then (k, v) :: r else (j, u) :: tput r k v

/-- Removal of a key. -/
def tdel {α : Type} (t : Tbl α) (k : Nat) : Tbl α :=
  match t with
  | [] => []
  | (j, u) :: r => if j = k then r else (j, u) :: tdel r k

/-- A sparse table with a key written; writing what an unlisted key reads as removes the entry. -/
def tset {α : Type} [DecidableEq α] (d : α) (t : Tbl α) (k : Nat) (v : α) : Tbl α :=
  if v = d then tdel t k else tput t k v

/-- A sparse table with a key's value changed by a function. -/
def tmod {α : Type} [DecidableEq α] (d : α) (t : Tbl α) (k : Nat) (f : α → α) : Tbl α := tset d t k (f (tget d t k))

/-- The canonical form of a sparse table: keys strictly rising, no entry equal to the default. -/
def twf {α : Type} [DecidableEq α] (d : α) : Tbl α → Bool
  | [] => true
  | [(_, v)] => v != d
  | (j, v) :: (k, u) :: r => v != d && decide (j < k) && twf d ((k, u) :: r)

/-- The canonical form of an octet memory: addresses strictly rising, and no entry equal to what an unlisted address reads as,
zero (log entry 4). -/
def Memory.wf (m : List (Nat × BitVec 8)) : Bool := twf 0 m

/-- Octets of a sparse octet memory (an unlisted octet reads as zero; log entry 4). -/
def memRead (m : List (Nat × BitVec 8)) (a : Nat) : Byte := tget 0 m a

/-- `n` octets from an address. -/
def memReadN (m : List (Nat × BitVec 8)) (a n : Nat) : List Byte :=
  (List.range n).map fun i => memRead m (a + i)

/-- Octets written from an address on. -/
def memWrite (m : List (Nat × BitVec 8)) (a : Nat) (bs : List Byte) : List (Nat × BitVec 8) :=
  match bs with
  | [] => m
  | b :: r => memWrite (tset 0 m a b) (a + 1) r

/-- A bit of a mark list. -/
def marked (l : List Nat) (k : Nat) : Bool := l.contains k

/-- A mark set, marks kept without repeats. -/
def mark (l : List Nat) (k : Nat) : List Nat := if l.contains k then l else k :: l

/-- A mark cleared. -/
def unmark (l : List Nat) (k : Nat) : List Nat := l.filter (· != k)

/-- The first `n` numbers for which a test holds, in order. -/
def firstWhere (n : Nat) (p : Nat → Bool) : Option Nat := (List.range n).find? p

/-- Is every octet of a string zero? -/
def allZero (bs : List Byte) : Bool := bs.all (· == 0)

/-- The number of set bits among the `n` lowest. -/
def popCount (n v : Nat) : Nat := ((List.range n).filter (bitAt v)).length

/-- One's complement sum of a number's 16-bit halves folded to 16 bits. -/
def fold16 (v : Nat) : Nat :=
  let a := v % 65536 + v / 65536
  let b := a % 65536 + a / 65536
  b % 65536 + b / 65536

/-- The sum of an octet string's big-endian 16-bit words, a last odd octet counting as the high half. -/
def sum16 : List Byte → Nat
  | [] => 0
  | [a] => a.toNat * 256
  | a :: b :: r => a.toNat * 256 + b.toNat + sum16 r

end Sys2Proof.Machine
end

