-- ==== Sys2Proof/Machine/Crypto.lean ====
section
/-!
DEFINITION. The published functions that the spec names: SHA-256 and HMAC-SHA-256 (15_commands R369, R370; 13_cabinet
R328), CRC-32 (04_line; 15_commands R364), CRC-32C (08_tables R226; 10_buffer R273; 19_pair R459) and the AES-256 key
unwrap (15_commands R376). Their algorithms come from their own standards (log entry 7).
-/

namespace Sys2Proof.Machine

/-- The 64 round constants of SHA-256. -/
def sha256K : List (BitVec 32) :=
  [0x428a2f98, 0x71374491, 0xb5c0fbcf, 0xe9b5dba5, 0x3956c25b, 0x59f111f1, 0x923f82a4, 0xab1c5ed5] ++
  [0xd807aa98, 0x12835b01, 0x243185be, 0x550c7dc3, 0x72be5d74, 0x80deb1fe, 0x9bdc06a7, 0xc19bf174] ++
  [0xe49b69c1, 0xefbe4786, 0x0fc19dc6, 0x240ca1cc, 0x2de92c6f, 0x4a7484aa, 0x5cb0a9dc, 0x76f988da] ++
  [0x983e5152, 0xa831c66d, 0xb00327c8, 0xbf597fc7, 0xc6e00bf3, 0xd5a79147, 0x06ca6351, 0x14292967] ++
  [0x27b70a85, 0x2e1b2138, 0x4d2c6dfc, 0x53380d13, 0x650a7354, 0x766a0abb, 0x81c2c92e, 0x92722c85] ++
  [0xa2bfe8a1, 0xa81a664b, 0xc24b8b70, 0xc76c51a3, 0xd192e819, 0xd6990624, 0xf40e3585, 0x106aa070] ++
  [0x19a4c116, 0x1e376c08, 0x2748774c, 0x34b0bcb5, 0x391c0cb3, 0x4ed8aa4a, 0x5b9cca4f, 0x682e6ff3] ++
  [0x748f82ee, 0x78a5636f, 0x84c87814, 0x8cc70208, 0x90befffa, 0xa4506ceb, 0xbef9a3f7, 0xc67178f2]

/-- The starting hash value of SHA-256. -/
def sha256H0 : List (BitVec 32) :=
  [0x6a09e667, 0xbb67ae85, 0x3c6ef372, 0xa54ff53a, 0x510e527f, 0x9b05688c, 0x1f83d9ab, 0x5be0cd19]

/-- The message schedule, newest word first, extended `n` times. -/
def sha256Schedule : Nat → List (BitVec 32) → List (BitVec 32)
  | 0, w => w
  | n + 1, w =>
    let w2 := w.getD 1 0
    let w7 := w.getD 6 0
    let w15 := w.getD 14 0
    let w16 := w.getD 15 0
    let s0 := w15.rotateRight 7 ^^^ w15.rotateRight 18 ^^^ (w15 >>> 3)
    let s1 := w2.rotateRight 17 ^^^ w2.rotateRight 19 ^^^ (w2 >>> 10)
    sha256Schedule n ((w16 + s0 + w7 + s1) :: w)

/-- One round of SHA-256 on the working variables a to h. -/
def sha256Round (v : List (BitVec 32)) (kw : BitVec 32 × BitVec 32) : List (BitVec 32) :=
  match v with
  | [a, b, c, d, e, f, g, h] =>
    let s1 := e.rotateRight 6 ^^^ e.rotateRight 11 ^^^ e.rotateRight 25
    let ch := (e &&& f) ^^^ (~~~e &&& g)
    let t1 := h + s1 + ch + kw.1 + kw.2
    let s0 := a.rotateRight 2 ^^^ a.rotateRight 13 ^^^ a.rotateRight 22
    let mj := (a &&& b) ^^^ (a &&& c) ^^^ (b &&& c)
    [t1 + (s0 + mj), a, b, c, d + t1, e, f, g]
  | _ => v

/-- The 32-bit words of a block, highest octet first. -/
def sha256Words : Nat → List Byte → List (BitVec 32)
  | 0, _ => []
  | n + 1, bs => BitVec.ofNat 32 (beAt bs 0 4) :: sha256Words n (bs.drop 4)

/-- One 64-octet block. -/
def sha256Block (h : List (BitVec 32)) (blk : List Byte) : List (BitVec 32) :=
  let w := (sha256Schedule 48 (sha256Words 16 blk).reverse).reverse
  List.zipWith (· + ·) h ((sha256K.zip w).foldl sha256Round h)

/-- The blocks of a padded message. -/
def sha256Blocks : Nat → List (BitVec 32) → List Byte → List (BitVec 32)
  | 0, h, _ => h
  | n + 1, h, bs => sha256Blocks n (sha256Block h (bs.take 64)) (bs.drop 64)

/-- SHA-256 of an octet string. -/
def sha256 (m : List Byte) : List Byte :=
  let z := (119 - m.length % 64) % 64
  let p := m ++ [0x80] ++ List.replicate z 0 ++ bytesBe 8 (8 * m.length)
  ((sha256Blocks (p.length / 64) sha256H0 p).map fun w => bytesBe 4 w.toNat).flatten

/-- HMAC-SHA-256. -/
def hmac256 (key m : List Byte) : List Byte :=
  let k := fit 64 (if key.length ≤ 64 then key else sha256 key)
  sha256 (k.map (· ^^^ 0x5c) ++ sha256 (k.map (· ^^^ 0x36) ++ m))

/-- One bit of a reflected 32-bit cyclic redundancy check. -/
def crcBit (poly : BitVec 32) (c : BitVec 32) : BitVec 32 :=
  if c.getLsbD 0 then (c >>> 1) ^^^ poly else c >>> 1

/-- One octet of it. -/
def crcByte (poly c : BitVec 32) (b : Byte) : BitVec 32 :=
  let f := crcBit poly
  f (f (f (f (f (f (f (f (c ^^^ b.setWidth 32))))))))

/-- A reflected 32-bit check, started at all ones and complemented at the end. -/
def crc32With (poly : BitVec 32) (bs : List Byte) : BitVec 32 :=
  ~~~ (bs.foldl (crcByte poly) 0xFFFFFFFF)

/-- The CRC-32 of an Ethernet frame check sequence. -/
def crc32 (bs : List Byte) : BitVec 32 := crc32With 0xEDB88320 bs

/-- CRC-32C. -/
def crc32c (bs : List Byte) : BitVec 32 := crc32With 0x82F63B78 bs

/-- Doubling in the AES field. -/
def xtime (b : Byte) : Byte := if b.getLsbD 7 then (b <<< 1) ^^^ 0x1b else b <<< 1

/-- Multiplication in the AES field, on the `n` low bits of the multiplier. -/
def gmul : Nat → Byte → Byte → Byte
  | 0, _, _ => 0
  | n + 1, a, b => (if b.getLsbD 0 then a else 0) ^^^ gmul n (xtime a) (b >>> 1)

/-- The inverse in the AES field: the 254th power. -/
def ginv (a : Byte) : Byte :=
  let sq (x : Byte) := gmul 8 x x
  let a2 := sq a
  let a4 := sq a2
  let a8 := sq a4
  let a16 := sq a8
  let a32 := sq a16
  let a64 := sq a32
  let a128 := sq a64
  gmul 8 a128 (gmul 8 a64 (gmul 8 a32 (gmul 8 a16 (gmul 8 a8 (gmul 8 a4 a2)))))

/-- The AES substitution of an octet. -/
def sbox (a : Byte) : Byte :=
  let b := ginv a
  b ^^^ b.rotateLeft 1 ^^^ b.rotateLeft 2 ^^^ b.rotateLeft 3 ^^^ b.rotateLeft 4 ^^^ 0x63

/-- The inverse substitution of an octet. -/
def invSbox (a : Byte) : Byte :=
  ginv (a.rotateLeft 1 ^^^ a.rotateLeft 3 ^^^ a.rotateLeft 6 ^^^ 0x05)

/-- The AES-256 key schedule, newest word first, extended from `i` words by `n`. -/
def aesExpand : Nat → Nat → Byte → List (List Byte) → List (List Byte)
  | 0, _, _, w => w
  | n + 1, i, rcon, w =>
    let t := w.getD 0 []
    let t' :=
      if i % 8 = 0 then
        match t.map sbox with
        | [a, b, c, d] => [b ^^^ rcon, c, d, a]
        | l => l
      else if i % 8 = 4 then t.map sbox
      else t
    aesExpand n (i + 1) (if i % 8 = 0 then xtime rcon else rcon) (List.zipWith (· ^^^ ·) (w.getD 7 []) t' :: w)

/-- The four-octet words of a key. -/
def words4 : Nat → List Byte → List (List Byte)
  | 0, _ => []
  | n + 1, bs => bs.take 4 :: words4 n (bs.drop 4)

/-- The 60 words of the AES-256 key schedule. -/
def aesSchedule (key : List Byte) : List (List Byte) := (aesExpand 52 8 1 (words4 8 key).reverse).reverse

/-- The 16-octet round key of a round. -/
def aesRoundKey (ks : List (List Byte)) (r : Nat) : List Byte := ((ks.drop (4 * r)).take 4).flatten

/-- The inverse row shift of a 16-octet state in column order. -/
def invShiftRows (s : List Byte) : List Byte :=
  [0, 13, 10, 7, 4, 1, 14, 11, 8, 5, 2, 15, 12, 9, 6, 3].map fun i => s.getD i 0

/-- The inverse column mix of a state. -/
def invMixColumns : Nat → List Byte → List Byte
  | 0, _ => []
  | n + 1, s =>
    let a := s.getD 0 0
    let b := s.getD 1 0
    let c := s.getD 2 0
    let d := s.getD 3 0
    let m (x : Byte) (k : Byte) := gmul 8 x k
    [m a 14 ^^^ m b 11 ^^^ m c 13 ^^^ m d 9, m a 9 ^^^ m b 14 ^^^ m c 11 ^^^ m d 13,
     m a 13 ^^^ m b 9 ^^^ m c 14 ^^^ m d 11, m a 11 ^^^ m b 13 ^^^ m c 9 ^^^ m d 14] ++ invMixColumns n (s.drop 4)

/-- The inner rounds of AES-256 decryption, from round `r` down to 1. -/
def aesDecRounds (ks : List (List Byte)) : Nat → List Byte → List Byte
  | 0, s => s
  | r + 1, s =>
    let t := List.zipWith (· ^^^ ·) ((invShiftRows s).map invSbox) (aesRoundKey ks (r + 1))
    aesDecRounds ks r (invMixColumns 4 t)

/-- AES-256 decryption of one block. -/
def aesDec (key blk : List Byte) : List Byte :=
  let ks := aesSchedule key
  let s := aesDecRounds ks 13 (List.zipWith (· ^^^ ·) blk (aesRoundKey ks 14))
  List.zipWith (· ^^^ ·) ((invShiftRows s).map invSbox) (aesRoundKey ks 0)

/-- The steps of the key unwrap: `t` counts down over 6 n steps; `r` holds the n registers. -/
def unwrapSteps (key : List Byte) (n : Nat) : Nat → List Byte → List (List Byte) → List Byte × List (List Byte)
  | 0, a, r => (a, r)
  | t + 1, a, r =>
    let i := t % n
    let x := bytesBe 8 (be a ^^^ (t + 1))
    let b := aesDec key (x ++ r.getD i [])
    unwrapSteps key n t (b.take 8) (r.set i (b.drop 8))

/-- The AES-256 key unwrap of 40 octets: the 32-octet key, or nothing when its integrity check fails. -/
def keyUnwrap (key wrapped : List Byte) : Option (List Byte) :=
  let r := [(wrapped.drop 8).take 8, (wrapped.drop 16).take 8, (wrapped.drop 24).take 8, (wrapped.drop 32).take 8]
  let x := unwrapSteps key 4 24 (wrapped.take 8) r
  if x.1 = List.replicate 8 0xA6 then some x.2.flatten else none

end Sys2Proof.Machine
end

