-- ==== Sys2Proof/Machine/State.lean ====
section
/-!
DEFINITION. The state of the block: every register, table, queue, buffer, counter, mode and pin that the spec gives the
device, as plain data; the reasons a step can stop; and the state right after reset. A docstring that begins `@state`
gives a field's name, its width, the file and rule that name it, and its value at reset.

Sparse tables (`Tbl`) list only what differs from the reset value of an entry (`X.init` below); instants are counted in ps
from the start of round 0.
-/

namespace Sys2Proof.Machine

/-- The reasons a command stops with a fault. Safe: the spec gives every command of the block an effect, and no command
of the model raises this one; it names the place where a stop would be reported. -/
inductive Fault where
  /-- Raised by no command (safe): the spec describes no condition on which the block itself stops. -/
  | stopped
deriving DecidableEq, Repr

/-- The reasons a command is refused. -/
inductive Refusal where
  /-- Raised by `exec` for a command whose meaning is not written yet (safe). -/
  | notModelled (mnemonic : String)
deriving DecidableEq, Repr


/-- A command that has replied PENDING and waits for its final reply (15_commands R379): where the reply goes, and what
its audit record says (13_cabinet Table 13.6). -/
structure Waiter where
  port : CmdPort
  inst : Fin 64
  opcode : BitVec 16
  tag : BitVec 64
  keySlot : BitVec 3
  trailer : Bool
  counter : BitVec 64
  check : BitVec 128
  digest : List Byte
  src : BitVec 48
  vlan : Option (BitVec 16)
  mirror : Option (BitVec 64)
deriving DecidableEq, Repr

/-! ### The timetable (02_timetable) -/

/-- The four states of the shadow image (02_timetable R62). -/
inductive ShadowState where
  | empty | loading | checked | failed
deriving DecidableEq, Repr

/-- The three phases of an activation (02_timetable R66). -/
inductive ActPhase where
  | armed | committed | draining
deriving DecidableEq, Repr

/-- An activation under way (02_timetable R65, R66): its phase, its round `n`, its mode, and the command that waits for
its final reply. -/
structure Activation where
  phase : ActPhase
  n : BitVec 64
  warm : Bool
  waiter : Waiter
  headsDrained : Bool
deriving DecidableEq, Repr

/-- The timetable unit. -/
structure TTState where
  /-- @state round number | 64 bits | 02_timetable R30 | 0 -/
  round : BitVec 64
  /-- @state active timetable image (none, or its bytes) | up to 1 MiB | 02_timetable R62, R51 | none active (22_board R526) -/
  active : Option (List Byte)
  /-- @state old image during a transition, for ports before their switch position | up to 1 MiB | 02_timetable R67, R68 | none -/
  old : Option (List Byte)
  /-- @state shadow image | up to 1 MiB | 02_timetable R62 | empty -/
  shadow : List Byte
  /-- @state shadow state (EMPTY, LOADING, CHECKED, FAILED) | 2 bits | 02_timetable R62 | EMPTY -/
  shadowState : ShadowState
  /-- @state activation armed, committed or draining | one at most | 02_timetable R66 | none -/
  act : Option Activation
  /-- @state round N of the last activation, in which and after which withheld slots stay unfilled | 64 bits | 02_timetable R67 | none -/
  switchRound : Option (BitVec 64)
  /-- @state pipelines whose forwarding results the active image, or the transition to it, makes unpredictable | 16 marks | 02_timetable R74 (the model's own account) | none -/
  broken : List Nat
  /-- @state ports named by conflicting buffer windows | 512 marks | 02_timetable R74 (the model's own account) | none -/
  brokenPorts : List Nat
  /-- @state changed ports that have not reached their switch position | 512 marks | 02_timetable R68 | none -/
  unswitched : List (Fin 512)
  /-- @state ports inside a transition window | 512 marks | 02_timetable R68 | none -/
  inWindow : List (Fin 512)
  /-- @state islands powered down (macro islands) | 64 marks | 03_islands R88 | every port island down: no port is up and every port is DISABLED (04_line R116) -/
  islandsDown : List (Fin 64)
  /-- @state islands whose PLL has lost lock | 108 islands, by number of Table 3.1 order | 03_islands R89 | none -/
  pllLost : List (Fin 112)
deriving DecidableEq, Repr

/-! ### Line ports (04_line) -/

/-- The port states of 04_line Table 4.3 (R94). -/
inductive PortState where
  | disabled | lowPower | waking | an | training | align | up | modeBlocked | islandFault
deriving DecidableEq, Repr

/-- One kind of pause on one port: PAUSE, or PFC of one priority (04_line R111 to R114). Instants are in ps from the
start of round 0. -/
structure PauseState where
  /-- @state pause in force until | instant | 04_line R111, R112 | none -/
  until_ : Option Nat
  /-- @state received pauses that have not taken effect: instant of effect and quanta | 20.48 ns behind the FCS | 04_line R111 | none -/
  coming : List (Nat × BitVec 16)
  /-- @state watchdog: since when the pause has held without a break | instant | 04_line R113 | none -/
  heldSince : Option Nat
  /-- @state watchdog hold-off until | instant | 04_line R113 | none -/
  holdoff : Option Nat
  /-- @state pause transmission: condition in force, and instant of the last frame sent | Bool, instant | 04_line R114 | not in force -/
  txOn : Bool
  txLast : Option Nat
deriving DecidableEq, Repr

/-- A port's stored calibration (05_time R141). -/
structure Calibration where
  valid : Bool
  rxPs : BitVec 32
  txPs : BitVec 32
  temp : BitVec 16
  round : BitVec 64
deriving DecidableEq, Repr

/-- A frame at the receive side of a port, from its FCS to its slot. -/
structure Port where
  /-- @state port state | code of Table 4.3 | 04_line R94 | DISABLED (R98) -/
  st : PortState
  /-- @state round number of the port's last change of state | 64 bits | 04_line R99 (PORT_STATUS) | 0 -/
  lastChange : BitVec 64
  /-- @state the port's lanes are powered up | 1 bit | 04_line Table 4.3 (WAKING), R99, R116 | down -/
  lanesUp : Bool
  /-- @state instant at which the port entered ALIGN | ps | 04_line Table 4.3 | 0 -/
  alignAt : Nat
  /-- @state port configuration block | 128 bytes | 04_line Table 4.5, R97 | 0 in every field (R98) -/
  cfg : Image
  /-- @state lanes with alignment lock | 8 bits | 04_line R99 | 0 -/
  locked : BitVec 8
  /-- @state wake detector: armed, and fired | 1 bit each | 04_line R117 | not armed, not fired -/
  wakeArmed : Bool
  wakeFired : Bool
  /-- @state a LOW_POWER port that its wake detector brought up | 1 bit | 04_line R117 | clear -/
  woken : Bool
  /-- @state pause state per kind: PFC priorities 0 to 7 and PAUSE (8) | 9 of PauseState | 04_line R111 to R114 | no pause, no hold-off -/
  pause : Tbl PauseState
  /-- @state degrade event given in the last interval | 1 bit | 04_line R96 | clear -/
  degraded : Bool
  /-- @state statistics counters of Table 4.8, by offset / 8 | 64 of 64 bits | 04_line R115 | 0 -/
  stats : Tbl (BitVec 64)
  /-- @state statistics snapshot and its number | 64 of 64 bits, 8 bits | 04_line R115; 03_islands R86 | 0 -/
  statsSnap : Tbl (BitVec 64)
  statsSnapNo : BitVec 8
  /-- @state stored calibration | valid bit, 32, 32, 16, 64 bits | 05_time R141 | not valid, 0 -/
  cal : Calibration
  /-- @state TS_CALIBRATE RUN in progress: the waiting command and the state to return to | one per macro at most | 05_time R140 | none -/
  calRun : Option (Waiter × PortState)
deriving DecidableEq, Repr

/-- One port macro (04_line R90, R97). -/
structure Macro where
  /-- @state macro mode | 2 bits | 04_line Table 4.1, R98 | 0 -/
  mode : BitVec 2
  /-- @state receive lane polarity | 8 bits | 04_line R91, Table 4.4 | 0 -/
  rxPol : BitVec 8
  /-- @state transmit lane polarity | 8 bits | 04_line R91, Table 4.4 | 0 -/
  txPol : BitVec 8
  /-- @state containment: PLL fault or thermal shed in force | 1 bit each | 04_line Table 4.3; 20_faults R494 | clear -/
  pllFault : Bool
  shed : Bool
  /-- @state SerDes of the macro's group brought up | 1 bit | 03_islands R87 | clear -/
  serdesUp : Bool
deriving DecidableEq, Repr

/-- The management port (04_line R118 to R120). -/
structure MgmtState where
  /-- @state management station address | 48 bits | 04_line R118 (boot configuration) | 0 until the boot configuration is read -/
  station : BitVec 48
  /-- @state management group address | 48 bits | 04_line R118 (boot configuration) | 0 until the boot configuration is read -/
  group : BitVec 48
  /-- @state management island powered | 1 bit | 03_islands R88; 22_board (STRAP_MGMT_EN) | down -/
  powered : Bool
  /-- @state management port counters of Table 4.8, by offset / 8 | 64 of 64 bits | 04_line R120 | 0 -/
  stats : Tbl (BitVec 64)
  /-- @state discarded frames and queue-full drops of the management port | 64 bits each | 04_line R119 | 0 -/
  discarded : BitVec 64
  queueFull : BitVec 64
  /-- @state management-port snapshot copy | 64 of 64 bits, 8 bits | 03_islands R86; 04_line R120 | 0 -/
  statsSnap : Tbl (BitVec 64)
  snapNo : BitVec 8
deriving DecidableEq, Repr

/-! ### The time base (05_time) -/

/-- A device time (05_time R121) is carried as a count of 2^-16 ns units: `sec` seconds of 10^9 ns, `ns` and `frac`. -/
abbrev DevTime := Nat

/-- The kind of a pending step (05_time R129, R132). -/
inductive StepKind where
  | immediate | atPps | atTime | adjust | mirrored
deriving DecidableEq, Repr

/-- A pending step (05_time R129, R130): its kind, the time or the offset it sets, the instant on the residence counter
from which the elapsed time is measured, its boundary once known, and the command that waits for it. -/
structure PendingStep where
  kind : StepKind
  newTime : DevTime
  trigger : DevTime
  offset : Int
  fromRes : Option Nat
  execRes : Nat
  b : Option (BitVec 64)
  waiter : Option Waiter
deriving DecidableEq, Repr

/-- A slew in progress (05_time R133): 2^-48 ns per cycle, cycles left, and the residue of the final cycle. -/
structure Slew where
  perCycle : Int
  cyclesLeft : Nat
  residue : Int
deriving DecidableEq, Repr

/-- The 1PPS output (05_time R136). -/
structure PpsOut where
  /-- @state 1PPS output offset | signed 32 bits, ns | 05_time R136 | 0 (DESIGN CHOICE 3: the spec gives none) -/
  offset : Int
  /-- @state 1PPS output enable | 1 bit | 05_time R136 | 0 -/
  enable : Bool
  /-- @state 1PPS output emit_unset | 1 bit | 05_time R136 | 0 (DESIGN CHOICE 3) -/
  emitUnset : Bool
  /-- @state 1PPS output width | µs | 05_time R136 | 100000 -/
  widthUs : Nat
  /-- @state 1PPS output level: high until the given instant | ps | 05_time R136 | low -/
  highUntil : Option Nat
  /-- @state number of pulses driven (observable on PPS_OUT) | count | 05_time R136 | 0 -/
  pulses : Nat
  /-- @state second of the last pulse, so that a second pulses once | sec | 05_time R136 | none -/
  lastSec : Option Nat
deriving DecidableEq, Repr

/-- The time island. -/
structure TimeState where
  /-- @state device time with its fractional accumulator, in 2^-48 ns, at the time island's last cycle | 96 + 32 bits | 05_time R121, R123 | 0 -/
  t48 : Int
  /-- @state residence counter with its fraction, in 2^-48 ns, at the same cycle | 64 bits above a 32-bit fraction | 05_time R124 | 0 (DESIGN CHOICE 3: advances with the device time) -/
  res48 : Nat
  /-- @state freq_adj | signed 40 bits, 2^-48 ns per cycle | 05_time R123 | 0 -/
  freqAdj : Int
  /-- @state rate change waiting for its round boundary | 40 bits, round | 05_time R132 | none -/
  freqNext : List (Int × BitVec 64)
  /-- @state slew in progress | Table 5.5 | 05_time R133 | none -/
  slew : Option Slew
  /-- @state slew waiting for its round boundary | Table 5.5, round | 05_time R132 | none -/
  slewNext : List (Slew × BitVec 64)
  /-- @state frequency source of Table 5.2 | 2 bits | 05_time R126 | 0 (HOST) -/
  source : BitVec 2
  /-- @state step pending | at most one | 05_time R130 | none -/
  step : Option PendingStep
  /-- @state time_set | 1 bit | 05_time Table 5.8 | 0 -/
  timeSet : Bool
  /-- @state step_count | 8 bits | 05_time Table 5.8 | 0 -/
  stepCount : BitVec 8
  /-- @state ref10m_present | 1 bit | 05_time Table 5.8 | 0 -/
  refPresent : Bool
  /-- @state ref10m_holdover | 1 bit | 05_time Table 5.8, R127 | 0 -/
  refHoldover : Bool
  /-- @state consecutive good 10 MHz counts | 2 bits | 05_time R127 | 0 -/
  refGood : Nat
  /-- @state last 16 one-second values of freq_adj under REF10M | 16 of 40 bits | 05_time R127 | empty -/
  refHist : List Int
  /-- @state integral of the REF10M loop | signed | 05_time R126 (Table 5.2) | 0 (DESIGN CHOICE 3) -/
  refInteg : Int
  /-- @state ref10m_offset | signed 32 bits, 0.001 ppb; 0x8000_0000 absent | 05_time R127, R150 | absent -/
  refOffset : BitVec 32
  /-- @state cal_drift | 1 bit | 05_time Table 5.8, R142 | 0 -/
  calDrift : Bool
  /-- @state dovetail_locked | 1 bit | 05_time Table 5.8; 19_pair R470 | 0 -/
  dovetailLocked : Bool
  /-- @state declared host_state | 4 bits | 05_time Table 5.8 | 0 -/
  hostState : BitVec 4
  /-- @state declared host_source | 4 bits | 05_time Table 5.8 | 0 -/
  hostSource : BitVec 4
  /-- @state declared host_accuracy | 8 bits | 05_time Table 5.8 | 0xFF -/
  hostAccuracy : BitVec 8
  /-- @state pps_in_present | 1 bit | 05_time Table 5.8, R134 | 0 -/
  ppsPresent : Bool
  /-- @state pps_in_count | 32 bits | 05_time R134 | 0 -/
  ppsCount : BitVec 32
  /-- @state ignored 1PPS edges | count | 05_time R134 | 0 -/
  ppsIgnored : BitVec 64
  /-- @state residence counter at the last accepted edge | 2^-16 ns | 05_time R134 | none -/
  ppsLastRes : Option Nat
  /-- @state TIME_PPS_IN: device time at the last accepted edge | 96 bits | 05_time R134, Table 5.10 | 0 -/
  ppsTime : DevTime
  /-- @state pps_offset | signed 16 bits, ns | 05_time R135 | 0 -/
  ppsOffset : Int
  /-- @state 1PPS output | PpsOut | 05_time R136 | disabled -/
  ppsOut : PpsOut
  /-- @state att_seq, the last attestation sequence number | 32 bits | 05_time R150 | 0 (DESIGN CHOICE 3) -/
  attSeq : BitVec 32
  /-- @state sum of steps since the last attestation made | signed 64 bits, 2^-16 ns | 05_time R150 | 0 -/
  attSum : Int
  /-- @state device time at the boundary of the last step in that sum | 96 bits | 05_time R150 | 0 -/
  attLastB : DevTime
  /-- @state second last attested, and an attestation owed after a step | sec, 1 bit | 05_time R150 | 0, none -/
  attSec : Nat
  attOwed : Bool
  /-- @state TIME_LATCHED | 96 bits | 05_time R152 | 0 -/
  latched : DevTime
  /-- @state latch_busy and the latch in progress: the instant whose device time it takes and the instant at which it is in place (ps), and the value once taken | 1 bit, 96 bits | 05_time R152 | not busy -/
  latch : Option (Nat × Nat × Option DevTime)
deriving DecidableEq, Repr

/-! ### Tables, learning and updates in flight (06_templates to 08_tables)

Every configured entry is an image in one sparse table keyed by `tkey code gen index`, with the table codes of
15_commands. An unlisted entry reads as the reset image that `tblReset` gives. -/

/-- A learning candidate (08_tables R214); `frame` names a frame whose FCS outcome is still open (R215). -/
structure Candidate where
  addr : BitVec 48
  vlan : BitVec 12
  lp : Fin 512
  sec : BitVec 16
  frame : Option Nat
  fcsOk : Option Bool
deriving DecidableEq, Repr

/-- What the search of a learning slot found, and so what its conditional write checks (08_tables R215). -/
structure LearnPlan where
  cand : Candidate
  row : Nat
  oldKey : Nat
  oldRec : Nat
  newKey : Nat
  newRec : Nat
  isNew : Bool
deriving DecidableEq, Repr

/-- A write of one replica entry in a maintenance slot: the pipeline cycle, counted from round 0, at whose end it takes effect
(02_timetable R40), the entry, and what the entry held before it. -/
structure RepWrite where
  cycle : Nat
  key : Nat
  old : Nat
deriving DecidableEq, Repr

/-- One quad (08_tables). -/
structure Quad where
  /-- @state quad replica of the configured tables, templates, rules, automata store, learning control block, and the learned station rows | 08_tables and 15_commands table codes | 08_tables R220, R206 to R213; 06_templates R153; 07_match R178, R194 | every row invalid or zero, every prefix unit a shim (07_match R189, 08_tables R213) -/
  rep : Tbl Nat
  /-- @state replica writes whose maintenance slot is still to come or that a pass under way may have begun before, newest first | list | 02_timetable R37, R40, R69 | none -/
  hist : List RepWrite
  /-- @state first pipeline cycle that each table's service port still has free for a command write (index table × 8 + 1) and for a replica repair (+ 5), counted from round 0 | 8 numbers | 02_timetable R40, R41 (the model's own account) | 0 -/
  svc : Tbl Nat
  /-- @state current-generation register | 1 bit | 08_tables R229 | A (0) -/
  gen : Bool
  /-- @state blocks marked for repair by the scrubber | one mark per block | 08_tables R225, R226 | none -/
  marked : List Nat
  /-- @state recent-source filter, oldest first | 1024 entries | 08_tables R214 | empty -/
  filter : List (BitVec 48 × BitVec 12 × Fin 512 × BitVec 16)
  /-- @state learning queue | 64 candidates | 08_tables R214 | empty -/
  lqueue : List Candidate
  /-- @state learning write waiting for its slot | one | 08_tables R215 | none -/
  plan : Option LearnPlan
  /-- @state ageing removals waiting for a learning slot: row, key, last_seen, lp | list | 08_tables R218 | empty -/
  removals : List (Nat × Nat × BitVec 16)
  /-- @state second of the last FULL notice | 16 bits | 08_tables R215 (Table 8.8) | none -/
  lastFull : Option Nat
deriving DecidableEq, Repr

/-- An AGE_SCAN under way (08_tables R218, R219). -/
structure AgeScan where
  waiter : Waiter
  limit : Nat
  remove : Bool
  next : Tbl Nat
  quads : List (Fin 4)
  rowsRead : Nat
  rowsRemoved : Nat
deriving DecidableEq, Repr

/-- A generation swap (08_tables R230). -/
structure GenSwapState where
  s : BitVec 64
  newGen : Bool
  waiter : Option Waiter
  draining : Bool
  loose : Bool
deriving DecidableEq, Repr

/-- The tables. -/
structure TablesState where
  /-- @state master copies in D0 of every configured table, and of the buffer-island and arbiter configuration | 15_commands table codes | 08_tables R220, R226; 01_structure R25 | as the reset images (07_match R189; 08_tables R213; 10_buffer R259; 12_egress R297) -/
  master : Tbl Nat
  /-- @state working copies of the tables held outside the quads (buffer island, arbiter) | 15_commands table codes | 09_feeds R237; 10_buffer R259; 12_egress R297 | as the reset images -/
  work : Tbl Nat
  /-- @state the four quads | 4 of Quad | 01_structure R25 | see Quad -/
  quads : List Quad
  /-- @state pair_rows | even, 0 to 131,072 | 07_match R189 | 32768 -/
  pairRows : Nat
  /-- @state shim_interval | 8, 16, 32, 64 or 128 | 07_match R189 | 32 -/
  shimInterval : Nat
  /-- @state zone spans of the pair region, first unit and unit past the last, /128 first | 64 zones | 07_match R188 | all units in the last zone -/
  pairZones : List (Nat × Nat)
  /-- @state zone spans of the single region, IPv6 /64 to /0 then IPv4 /32 to /0 | 98 zones | 07_match R188 | all units in the last zone -/
  singleZones : List (Nat × Nat)
  /-- @state damaged master blocks, and the entries rewritten since | marks | 08_tables R228 | none -/
  damaged : List (Nat × List Nat)
  /-- @state generation swap pending or draining | one | 08_tables R230 | none -/
  swap : Option GenSwapState
  /-- @state AGE_SCAN running | one | 08_tables R219 | none -/
  scan : Option AgeScan
deriving DecidableEq, Repr

/-! ### Frames in flight (01_structure, 02_timetable, 06_templates)

A frame is followed from its last byte at the MAC to its slot, its pass, its hand-off and the arbiter. -/

/-- The source of a head (06_templates Table 6.6). -/
inductive Source where
  | port | inject | replay
deriving DecidableEq, Repr

/-- Injection metadata of a frame from the host or from the replay server (17_host Table 17.9; 05_time R147, R148). -/
structure InjectMeta where
  ring : Nat
  ptpOp : Nat
  ptpOffset : Nat
  report : Bool
  refTime : DevTime
  desc : BitVec 32
  requester : Nat
deriving DecidableEq, Repr

/-- The carriage word (06_templates Table 6.6), field by field; reserved fields read as zero and are not held. -/
structure CarriageWord where
  /-- @state carriage word of each head in flight | 1,024 bits | 06_templates R170, Table 6.6 | no head in flight -/
  fields : Nat := 0
  templateId : Nat := 0
  cls : Nat := 0
  l3Type : Nat := 0
  l4Type : Nat := 0
  layoutKnown : Bool := false
  ipv4Csum : Nat := 0
  l4Csum : Nat := 0
  lengthLate : Bool := false
  l4HeadSum : Nat := 0
  stationHit : Bool := false
  stationRow : Nat := 0
  stationRecord : Nat := 0
  prefixHit : Bool := false
  prefixLength : Nat := 0
  prefixRow : Nat := 0
  prefixData : Nat := 0
  sessionEntry : Nat := 0
  ruleAction : Nat := 0
  ruleHit : Bool := false
  ruleRow : Nat := 0
  automataValid : Bool := false
  patternHits : Nat := 0
  firstPattern : Nat := 0
  firstEnd : Nat := 0
  lengthExpect : Nat := 0
  lengthMode : Bool := false
  dest : Nat := 0
  destIsGroup : Bool := false
  colour : Nat := 0
  evidenceMark : Bool := false
  evidenceClass : Nat := 0
  feedMark : Bool := false
  feedId : Nat := 0
  rewriteProg : Nat := 0
  ptpOp : Nat := 0
  ptpReport : Bool := false
  ptpOffset : Nat := 0
  drop : Bool := false
  recirculate : Bool := false
  slowPath : Bool := false
  code : Nat := 0
deriving DecidableEq, Repr

/-- What a pass has still to do when its intake is done (02_timetable R37; 06_templates R165): the class whose depth it has, the
template, the failure of intake (its reason, and whether it drops), the banks of its rule window, whether the image breaks a
guarantee of Table 2.15 for its pipeline (R74), and the upsets that fall on it. -/
structure PassWork where
  eff : Nat
  tmpl : Option Image
  fail : Option (Nat × Bool)
  banks : Nat
  broken : Bool
  up : Upsets
deriving DecidableEq, Repr

/-- A frame between its MAC (or its injection) and admission: head bytes and intake record (06_templates R175), the
pass it makes, and its carriage word. `data` runs from the destination address to the last byte before the FCS. -/
structure Frame where
  id : Nat
  source : Source
  lp : Fin 512
  data : List Byte
  len : Nat
  fcsOk : Bool
  stomped : Bool
  tsIn : DevTime
  resIn : Nat
  slotWait : Nat
  gen : Option Bool
  pass2 : Bool
  parityCause : Bool
  recircTag : Nat
  /-- what a pass of the frame has counted already: bit 0 the IPv4 check, 1 the L4 check, 2 tmpl_depth, 3 tmpl_length
  (04_line R104; 06_templates R160, R162) -/
  counted : Nat := 0
  /-- lookups, rules and actions that the pass under way has still to make, and the class of its depth (02_timetable R37) -/
  work : Option PassWork := none
  depth : Nat := 0
  /-- instant of the first byte at the port, in ps from round 0, and whether the MAC cut the frame at max_frame (02_timetable R34;
  04_line Table 4.6) -/
  rxAt : Nat := 0
  tooLong : Bool := false
  /-- the port's configuration block at the frame's start: receive fields change at frame boundaries (04_line R99) -/
  rxCfg : Image := 0
  inj : Option InjectMeta
  cw : CarriageWord
  /-- injected while no image was active: its ring starts no other frame until this one has entered a slot (02_timetable R46) -/
  held : Bool := false
  /-- cells of the frame already in the store, first first (for a port frame: body cells written ahead of the head) -/
  cells : List Nat
  /-- all cells behind the head are stored and the late checks are made -/
  lastIn : Bool
  lateFail : Bool
  /-- the intake of the pass ended in a drop or in the slow path, or the frame was marked by parity -/
  intakeDrop : Bool
  parityMark : Bool
  oldImage : Bool
  /-- instance that owns the frame: of its ingress port at the decision, of the injecting ring, or 0 (17_host R429) -/
  owner : Nat
  /-- feed decision taken: feed, first number, count, reset epoch, and whether it set seen bits -/
  feed : Option (Nat × BitVec 64 × Nat × Nat)
  /-- admission has refused the frame on every target, so later cells are not written (10_buffer R251) -/
  refused : Bool
  /-- the FCS as received, the first octet lowest -/
  fcs : BitVec 32 := 0
  /-- the template's l3_offset and l4_offset, and where the IP length ends the L4 segment, for the late check and the egress MAC -/
  l3Off : Nat := 0
  l4Off : Nat := 0
  ipEnd : Nat := 0
deriving DecidableEq, Repr

/-- A head in the feed arbiter's stage (09_feeds R235): its pipeline, the buffer cycle of its hand-off, the decision window that a feed
frame waits for (both counted from round 0), the frame, and whether its decision is made. -/
structure StageHead where
  pipe : Nat
  cycle : Nat
  window : Option Nat
  frame : Frame
  decided : Bool
deriving DecidableEq, Repr

/-- Frames in flight, oldest first in each list. -/
structure FlowState where
  /-- @state number the next frame takes (the model's own name of a frame) | count | model (DESIGN CHOICE 2) | 0 -/
  nextId : Nat
  /-- @state frames received and held for their release time | list per port | 02_timetable R34; 04_line R100 | empty -/
  rx : List Frame
  /-- @state released heads waiting for their slot, with crossing cycle; the transition FIFO of a changed port is part of it | list per port, 4 KiB in a window | 02_timetable R35, R68 | empty -/
  waiting : List (Frame × Nat)
  /-- @state heads in a pipeline pass: pipeline, slot and frame | 16 pipelines | 02_timetable R37 | empty -/
  inPass : List (Nat × Nat × Frame)
  /-- @state recirculation queues: pipeline and frame | 32 heads per pipeline | 02_timetable R45 | empty -/
  recirc : List (Nat × Frame)
  /-- @state injection heads waiting for an injection slot: pipeline and frame | list | 02_timetable R46 | empty -/
  inject : List (Nat × Frame)
  /-- @state INJECT ring that each pipeline served last | 16 ring numbers | 17_host R425 | none -/
  injectLast : Tbl Nat
  /-- @state heads in the feed arbiter's stage, in the order in which they leave it | list | 09_feeds R235; 10_buffer R253 | empty -/
  arb : List StageHead
  /-- @state long frames of ports whose body is still arriving after their head went on: frame | list | 10_buffer R251 | empty -/
  body : List Frame
  /-- @state slow-path frames waiting for a slow-path ring | list | 06_templates R173; 17_host R429 | empty -/
  slow : List Frame
deriving DecidableEq, Repr

/-! ### Feed arbitration (09_feeds) -/

/-- An open gap (09_feeds R240). -/
structure Gap where
  first : BitVec 64
  last : BitVec 64
  openedRes : Nat
deriving DecidableEq, Repr

/-- One feed's runtime state (09_feeds R237, Table 9.3). -/
structure FeedState where
  /-- @state tracking flag | 1 bit per feed | 09_feeds R238 | clear -/
  tracking : Bool
  /-- @state N | 64 bits per feed | 09_feeds R238 | 0 -/
  n : BitVec 64
  /-- @state seen window, bit q mod 1024 | 1,024 bits per feed | 09_feeds Table 9.3 | 0 -/
  seen : BitVec 1024
  /-- @state open gaps, oldest first | up to 4 per feed | 09_feeds R240 | none -/
  gaps : List Gap
  /-- @state feed counters first_copy, duplicate, late_fill, stale, over_rate, revoked, gaps_opened, gaps_filled, gaps_reported, messages_lost, resync | 11 of 64 bits | 09_feeds Table 9.3 | 0 -/
  counters : Tbl (BitVec 64)
  /-- @state reset_state writes seen (orders revocations against them; the model's own) | count | 09_feeds R243, R247 (DESIGN CHOICE 2) | 0 -/
  epoch : Nat
deriving DecidableEq, Repr

/-- A revocation on its way to the arbiter (09_feeds R243). -/
structure RevocationReq where
  feed : Nat
  first : BitVec 64
  count : Nat
  epoch : Nat
deriving DecidableEq, Repr

/-- The arbiter. -/
structure ArbState where
  /-- @state feed runtime state | 4,096 feeds | 09_feeds R237, Table 9.3 | see FeedState -/
  feeds : Tbl FeedState
  /-- @state next feed of the scan windows | 12 bits | 09_feeds R241 | 0 (DESIGN CHOICE 3) -/
  scanNext : Fin 4096
  /-- @state revocations waiting for a service window | list | 09_feeds R243 | empty -/
  revs : List RevocationReq
  /-- @state last decision window taken per pipeline, counted from round 0 | 16 numbers | 09_feeds R235 | none -/
  lastWin : Tbl Nat
  /-- @state scan window and service window that come next, counted from round 0 | 2 numbers | 09_feeds R234 | 0 -/
  scanWin : Nat
  serviceWin : Nat
deriving DecidableEq, Repr

/-! ### Shared cell buffer and queues (10_buffer), cell pool (11_pool), egress scheduler (12_egress) -/

/-- One cell: its data and its tag (10_buffer R249). -/
structure CellRec where
  data : List Byte
  count : Nat
  next : Nat
  last : Bool
  crc : BitVec 32
deriving DecidableEq, Repr

/-- The charges that an admitted frame's entries record (10_buffer R257, R260, R262). -/
structure Charges where
  requester : Nat
  pool : Fin 4
  poolCells : Nat
  minQueue : Nat
  minCells : Nat
  group : Option Nat
  headCells : Nat
  sharedCells : Nat
deriving DecidableEq, Repr

/-- A stored frame: what the buffer island and the egress MAC keep of it; `pipe` is the pipeline of its
pass, `ipEnd` the end of its L4 segment. -/
structure Stored where
  id : Nat
  first : Nat
  cells : Nat
  len : Nat
  lenKnown : Bool
  source : Source
  lp : Fin 512
  tsIn : DevTime
  resIn : Nat
  slotWait : Nat
  pass2 : Bool
  fcsOk : Bool
  lastIn : Bool
  lateFail : Bool
  cw : CarriageWord
  pipe : Nat
  inj : Option InjectMeta
  charges : Charges
  feed : Option (Nat × BitVec 64 × Nat × Nat)
  sentGood : Bool
  headCrc : BitVec 32
  l3Off : Nat
  l4Off : Nat
  ipEnd : Nat
deriving DecidableEq, Repr

/-- A queue entry: one copy of a stored frame (10_buffer R252). `freshAt` is the instant of its linking when it is cut-through and found its
port idle and its queue empty (12_egress R295). -/
structure QEntry where
  frame : Nat
  cutThrough : Bool
  freshAt : Option Nat
  ecnMark : Bool
  isGroup : Bool
deriving DecidableEq, Repr

/-- One egress queue: buffer state and scheduler state. -/
structure QueueState where
  /-- @state queue entries in order | first-in first-out list | 10_buffer R252 | empty -/
  entries : List QEntry
  /-- @state occupancy Q | 20 bits | 10_buffer Table 10.9 | 0 -/
  occ : Nat
  /-- @state average A with 16 fraction bits | 36 bits | 10_buffer R265 | 0 (DESIGN CHOICE 3) -/
  avg : Nat
  /-- @state enqueued, refused, ecn_marked | 3 of 64 bits | 10_buffer Table 10.9 | 0 -/
  enqueued : BitVec 64
  refused : BitVec 64
  ecnMarked : BitVec 64
  /-- @state queue credit, 16 fraction bits | signed 48 bits | 12_egress R300, Table 12.7 | 0 -/
  credit : Int
  /-- @state deficit in bytes | 32 bits | 12_egress R299 | 0 -/
  deficit : Int
  /-- @state turn open | 1 bit | 12_egress R299 | clear -/
  turnOpen : Bool
  /-- @state gate-blocked | 1 bit | 12_egress R308 | clear -/
  gateBlocked : Bool
  /-- @state tx_started, gate_waits | 2 of 64 bits | 12_egress Table 12.7 | 0 -/
  txStarted : BitVec 64
  gateWaits : BitVec 64
deriving DecidableEq, Repr

/-- One ingress group (10_buffer R262). -/
structure GroupState where
  /-- @state g_shared | 20 bits | 10_buffer R262 | 0 -/
  shared : Nat
  /-- @state g_head | 20 bits | 10_buffer R262 | 0 -/
  head : Nat
  /-- @state congested | 1 bit | 10_buffer R262 | clear -/
  congested : Bool
deriving DecidableEq, Repr

/-- A picked frame on its way to the wire or on it: the instant of its first bit at the balls, in ps, and the device time that the
scheduler predicted for it (12_egress R307); its timestamps once its stamping point has crossed (05_time R138), with the free value of
their error; the length that was charged, and what it was charged to (12_egress R298); and the max_frame in force as it started
(04_line R99, R106). -/
structure TxFrame where
  frame : Nat
  queue : Nat
  stomp : Bool
  start : Nat
  t0 : DevTime
  stamped : Bool
  ts : DevTime
  res : Nat
  free : Nat
  estimate : Nat
  onDeficit : Bool
  onQueue : Bool
  onPort : Bool
  maxFrame : Nat
  cutThrough : Bool
  ecnMark : Bool
  heldIn : Option Nat
deriving DecidableEq, Repr

/-- The buffer-island side of one logical port. -/
structure EgressPort where
  /-- @state mc_partial_drop, flush_drop, headroom_drop, late_drop | 4 of 64 bits | 10_buffer Table 10.10 | 0 -/
  mcPartialDrop : BitVec 64
  flushDrop : BitVec 64
  headroomDrop : BitVec 64
  lateDrop : BitVec 64
  /-- @state port credit, 16 fraction bits | signed 48 bits | 12_egress R302, Table 12.8 | 0 -/
  credit : Int
  /-- @state rotation pointer of each level | 16 queue numbers | 12_egress R299 | tc 0 of the port (DESIGN CHOICE 3) -/
  ptr : Tbl Nat
  /-- @state gate control list in force | 544 bytes | 12_egress R305, R306 | none: every gate open -/
  gates : Option Image
  /-- @state pending gate list and its switch time X | 544 bytes, 96 bits | 12_egress R306 | none -/
  gatesNext : Option (Image × DevTime)
  /-- @state pending gate list with gate_enable clear comes in at a round | round | 12_egress R306 | none -/
  gatesNextRound : Option (BitVec 64)
  /-- @state round at whose boundary the X of the pending list is computed | round | 12_egress R306 | none -/
  gatesArm : Option (BitVec 64)
  /-- @state entry in force | 6 bits | 12_egress Table 12.8 | 0 -/
  entry : Nat
  /-- @state cycle_start | 96 bits | 12_egress Table 12.8 | 0 -/
  cycleStart : DevTime
  /-- @state port gate_blocked, gate_overrun | 2 of 64 bits | 12_egress Table 12.8 | 0 -/
  gateBlocked : BitVec 64
  gateOverrun : BitVec 64
  /-- @state frames picked that have not left the wire, in order | list | 12_egress R295, R298; 05_time R138 | none -/
  wire : List TxFrame
  /-- @state instant at which the wire is free behind what has left or is being sent by the MAC itself | ps | 12_egress R295; 04_line R114 | 0 -/
  freeAt : Nat
  /-- @state flush in progress (port left UP with entries linked) | 1 bit | 10_buffer R255 | clear -/
  flushing : Bool
deriving DecidableEq, Repr

/-- The buffer island. -/
structure BufState where
  /-- @state cells: data and tag | 1,048,576 of 256 bytes and tag | 10_buffer R249 | unlisted: the pointer cells of the lists as built at cold reset (11_pool R281, log entry 8), else zero (DESIGN CHOICE 4) -/
  cells : Tbl CellRec
  /-- @state link table | 1,048,576 of 20 bits | 11_pool R281 | 0 (DESIGN CHOICE 4) -/
  links : Tbl Nat
  /-- @state egress queues | 8,192 | 10_buffer R252 | see QueueState -/
  queues : Tbl QueueState
  /-- @state ingress groups, index lp × 8 + k | 4,096 | 10_buffer R261, R262 | see GroupState -/
  groups : Tbl GroupState
  /-- @state egress side of each logical port | 512 | 10_buffer Table 10.10; 12_egress Table 12.8 | see EgressPort -/
  egress : Tbl EgressPort
  /-- @state stored frames by number | list | 10_buffer R252, R268 | empty -/
  stored : List Stored
  /-- @state queue entries in use, of 2,097,152 | 22 bits | 10_buffer R252 | 0 -/
  entriesUsed : Nat
  /-- @state cells charged to each service pool | 4 of 20 bits | 10_buffer R259, R260 | 0 -/
  poolUse : Tbl Nat
  /-- @state cells charged to the global headroom pool | 20 bits | 10_buffer R262 | 0 -/
  headUse : Nat
  /-- @state cells charged to the arrival reserve, by bank | 64 of 11 bits | 10_buffer R251; 11_pool R280, Table 11.4 | 0 -/
  reserve : Tbl Nat
  /-- @state drop-profile generator | 32 bits | 10_buffer R265, R259 | 0x0000_0001 -/
  lfsr : BitVec 32
  /-- @state scheduling entries in force since the last refill | tables 12.1 and 12.2 | 12_egress R310 | as the reset images -/
  schedInForce : Tbl Nat
  /-- @state refill counter within the round | 3 bits | 12_egress R300 | 0 -/
  refill : Nat
deriving DecidableEq, Repr

/-- One bank's free list (11_pool R278, R279, R281): the cache, the cells that came back in the latest buffer cycle, and the registers of
the list, whose pointer cells stand in the store. -/
structure Bank where
  /-- @state free-cell cache of a bank | up to 256 cell numbers | 11_pool R279 | empty -/
  cache : List Nat
  /-- @state cells of the cache that came back in one buffer cycle, and that cycle: they can be taken from the next one on | numbers, cycle | 11_pool R281 | none -/
  back : List Nat
  backAt : Nat
  /-- @state head of the free list: its first pointer cell, or 0xFFFF_FFFF | 32 bits | 11_pool R278 | the bank's cell of row 0 (log entry 8) -/
  head : Nat
  /-- @state count of free cells on the list | 15 bits | 11_pool R278 | 16,384 -/
  count : Nat
deriving DecidableEq, Repr

/-- One requester (11_pool R282). -/
structure Requester where
  /-- @state requester quota | 21 bits | 11_pool R282 | 983,040 for requester 0, else 0 -/
  quota : Nat
  /-- @state requester charge counter | 21 bits | 11_pool R282 | 0 -/
  charge : Nat
  /-- @state quota_underflow | 1 bit, sticky | 11_pool R284 | clear -/
  underflow : Bool
  /-- @state refused allocations | 64 bits | 11_pool R283, R293 | 0 -/
  refused : BitVec 64
deriving DecidableEq, Repr

/-- One entry of the pool log (11_pool Table 11.4). -/
structure PoolLog where
  pointer : BitVec 28
  requester : Nat
  reason : Nat
  round : BitVec 32
deriving DecidableEq, Repr

/-- A hold of a chain (11_pool R283). -/
structure Hold where
  first : Nat
  requester : Nat
  cells : Nat
deriving DecidableEq, Repr

/-- A recount under way (11_pool R292). -/
structure Recount where
  reqs : List Nat
  waiters : List Waiter
  /-- @state scanner's start: it is at place 16 × (buffer cycles since) of the queue-entry store and then of the hold store | buffer cycle | 11_pool R292 | no recount -/
  start : Nat
  /-- @state shadow counters of a recount, as the difference to the charges of the records still present | one per requester | 11_pool R292 | no recount -/
  shadow : Tbl Int
deriving DecidableEq, Repr

/-- The cell pool manager. -/
structure PoolState where
  /-- @state free lists | 64 banks | 11_pool R278, R279 | every cell free, on its bank's list (R281) -/
  banks : Tbl Bank
  /-- @state reference counts | 10 bits per cell | 11_pool R285 | 0 -/
  refs : Tbl Nat
  /-- @state requesters 0 to 64 | 65 of Requester | 11_pool R282 | see Requester -/
  reqs : Tbl Requester
  /-- @state holds | up to 65,536 | 11_pool R283 | empty -/
  holds : List Hold
  /-- @state chains being walked or waiting, in order: first cell and cells left | 64 walking, more waiting | 11_pool R287 | empty -/
  walks : List (Nat × Nat)
  /-- @state pool_ptr_rejected, pool_zero_count, pool_quota_underflow | 3 of 64 bits | 11_pool Table 11.4 | 0 -/
  ptrRejected : BitVec 64
  zeroCount : BitVec 64
  quotaUnderflow : BitVec 64
  /-- @state pool log | 16 entries | 11_pool Table 11.4 | 0 -/
  log : Tbl PoolLog
  /-- @state log_next | 8 bits | 11_pool Table 11.4 | 0 -/
  logNext : Nat
  /-- @state log_lost | 56 bits | 11_pool Table 11.4 | 0 -/
  logLost : Nat
  /-- @state log entries written since 0x30 was read (to count log_lost) | count | 11_pool Table 11.4 | 0 -/
  logUnread : Nat
  /-- @state frames whose chain a pointer free returned before they were done with it: their contents are unpredictable | frame numbers | 11_pool R289 | none -/
  stolen : List Nat
  /-- @state recount running | one of Recount | 11_pool R291, R292 | none -/
  recount : Option Recount
  /-- @state bank from which the next cell of an injected frame is taken | 6 bits | 11_pool R280 | 0 (DESIGN CHOICE 3) -/
  rot : Nat
deriving DecidableEq, Repr

/-! ### The Cabinet (13_cabinet) and its channels (14_dram) -/

/-- Drawer states (13_cabinet R314). -/
inductive DrawerSt where
  | empty | opened | closed | erasing
deriving DecidableEq, Repr

/-- One drawer D1 to D63 (13_cabinet R314 to R318, R327 to R330). -/
structure Drawer where
  /-- @state drawer state | 2 bits | 13_cabinet R314, Table 13.10 | EMPTY -/
  st : DrawerSt
  /-- @state drawer type | 2 bits | 13_cabinet R314, Table 13.10 | 0 (none) -/
  typ : Nat
  /-- @state full_mode WRAP | 1 bit | 13_cabinet Table 13.1 | 0 -/
  wrap : Bool
  /-- @state policy mask given at opening | 8 bits | 13_cabinet Table 13.1 | 0 -/
  policy : BitVec 8
  /-- @state seal key slot | 2 bits | 13_cabinet Table 13.1 | 0 -/
  sealKey : Nat
  /-- @state base and size | 64 bits each | 13_cabinet Table 13.1 | 0 -/
  base : Nat
  size : Nat
  /-- @state open_label | 128 bits | 13_cabinet Table 13.1 | 0 -/
  label : BitVec 128
  /-- @state write_pos (CAB_DRW_WPOS) | 64 bits | 13_cabinet R329, Table 13.9 | 0 -/
  wpos : Nat
  /-- @state sealed_pos (CAB_DRW_SPOS) | 64 bits | 13_cabinet R329, Table 13.9 | 0 -/
  spos : Nat
  /-- @state read_pos (CAB_DRW_RPOS) | 64 bits | 13_cabinet R330, Table 13.9 | 0 -/
  rpos : Nat
  /-- @state rpos_rejected | 1 bit W1C | 13_cabinet Table 13.10 | 0 -/
  rejected : Bool
  /-- @state index of the last seal written | 64 bits | 13_cabinet R327, Table 13.4 | 0 -/
  sealIndex : Nat
  /-- @state mac of the last seal | 256 bits | 13_cabinet R328 | 0 -/
  mac : List Byte
  /-- @state residence counter at the last seal | 2^-16 ns | 13_cabinet R327 | 0 -/
  sealRes : Nat
  /-- @state records since the last seal, which the next seal covers, in position order | up to 4,096 of 64 bytes | 13_cabinet R327, R328 | empty -/
  run : List (List Byte)
  /-- @state waiting DRAWER_CLOSE or DRAWER_ERASE command | one | 13_cabinet R317 | none -/
  waiter : Option Waiter
deriving DecidableEq, Repr

/-- A record in staging (13_cabinet R323): its drawer, its evidence class when it is a frame or drop record, and its
bytes from offset 0x08 on; the header is formed at its position (R319). `kept` marks a record whose space was held at the
pick. -/
structure Staged where
  drawer : Nat
  typ : Nat
  cls : Option (Fin 8)
  body : List Byte
  tsIn : DevTime
  kept : Bool
deriving DecidableEq, Repr

/-- One evidence class (13_cabinet R316, R324). -/
structure EvClass where
  /-- @state drawer that the class is mapped to | 6 bits or none | 13_cabinet R316, Table 13.8 | unmapped -/
  drawer : Option Nat
  /-- @state policy of the class is DROP_UNRECORDED | 1 bit | 13_cabinet R316 | clear -/
  dropUnrec : Bool
  /-- @state CAB_CLASS_LOST | 64 bits | 13_cabinet Table 13.9 | 0 -/
  lost : BitVec 64
  /-- @state loss count since the last gap record, unrecorded drops of it, and ts_in of the first and the last lost | 64, 64, 96, 96 bits | 13_cabinet R324, Table 13.3 | 0 -/
  pendLost : Nat
  pendUnrec : Nat
  firstTs : DevTime
  lastTs : DevTime
deriving DecidableEq, Repr

/-- A retransmission request in the replay server's queue (13_cabinet R335); `done` numbers of it are handled. -/
structure ReplayReq where
  pipe : Nat
  tmpl : Nat
  l3 : Nat
  feed : Nat
  m0 : BitVec 64
  count : Nat
  udp : BitVec 16
  mac : BitVec 48
  ip : Nat
  done : Nat
deriving DecidableEq, Repr

/-- Channel states (14_dram Table 14.4). -/
inductive ChanSt where
  | training | initialising | inService | outOfService
deriving DecidableEq, Repr

/-- Settings of one lane: reference level and delay step, for reads and for writes (14_dram R344). -/
structure LaneSet where
  rdLevel : Nat
  rdDelay : Nat
  wrLevel : Nat
  wrDelay : Nat
deriving DecidableEq, Repr

/-- One DRAM channel (14_dram Tables 14.4, 14.5). -/
structure Chan where
  /-- @state channel state | 2 bits | 14_dram Table 14.4 | 0 (TRAINING) -/
  st : ChanSt
  /-- @state self_refresh | 1 bit | 14_dram Table 14.4 | 0 -/
  selfRefresh : Bool
  /-- @state hot | 1 bit | 14_dram Table 14.4, R347 | 0 -/
  hot : Bool
  /-- @state channel island powered down | 1 bit | 03_islands R88 | clear -/
  down : Bool
  /-- @state dimm_temp | 8 bits | 14_dram Table 14.4 | 0 -/
  temp : BitVec 8
  /-- @state cause | 4 bits | 14_dram Table 14.4 | 0 -/
  cause : BitVec 4
  /-- @state capacity_gib | 9 bits | 14_dram Table 14.4 | 0 -/
  cap : Nat
  /-- @state ranks | 3 bits | 14_dram Table 14.4 | 0 -/
  ranks : Nat
  /-- @state lanes of the DIMM found: 10 of ×8 devices, 20 of ×4 | count | 14_dram R343 | 0 -/
  laneCount : Nat
  /-- @state read_eye, write_eye | 8 bits each | 14_dram Table 14.4 | 0 -/
  readEye : Nat
  writeEye : Nat
  /-- @state trained lane settings | 10 or 20 lanes | 14_dram R343, R344, R346 | none -/
  lanes : List LaneSet
  /-- @state CAB_CH_CORR | 64 bits | 14_dram Table 14.5 | 0 -/
  corr : BitVec 64
  /-- @state CAB_CH_UNCORR | 64 bits | 14_dram Table 14.5 | 0 -/
  uncorr : BitVec 64
  /-- @state CAB_CH_LAST_UNCORR addr and valid | 42 bits, 1 bit W1C | 14_dram Table 14.5 | 0, 0 -/
  lastAddr : BitVec 42
  lastValid : Bool
  /-- @state instants of the uncorrectable reads of the last second | up to 16 instants (ps) | 14_dram R354 | none -/
  errTimes : List Nat
  /-- @state a re-sweep has passed during this pause | 1 bit | 14_dram R357 | clear -/
  resweepOk : Bool
  /-- @state refresh commands issued | count | 14_dram R347 | 0 -/
  refreshes : Nat
  /-- @state instants of the last ZQ calibration and of the last read-strobe tracking | ps | 14_dram R348 | 0 -/
  zqAt : Nat
  trackAt : Nat
  /-- @state next unit of the patrol scrub | unit number | 14_dram R355 | 0 (DESIGN CHOICE 3) -/
  patrol : Nat
  /-- @state requests that wait, by source: the 64 KiB write queue of the real-time port (0), and the request queues of the host (1),
  replay (2), capture (3) and D0 service (4); each 64-byte request by its number in the order of acceptance | 1,024 requests; open | 14_dram
  R349, R351 | empty -/
  queues : Tbl (List Nat)
  /-- @state 1 µs intervals of the channel's clock that have been served | count | 14_dram R349 | 0 -/
  servedTo : Nat
deriving DecidableEq, Repr

/-- The Cabinet. -/
structure CabState where
  /-- @state Cabinet bytes outside D0's master content (drawers and free space) | up to 4 TiB | 13_cabinet; 14_dram R340, R345 | every byte 0 (14_dram R345) -/
  mem : List Host.Cell
  /-- @state units found uncorrectable and not written since | unit numbers | 14_dram R353 | none -/
  bad : List Nat
  /-- @state drawers D1 to D63 | 63 of Drawer | 13_cabinet R314 | every one EMPTY -/
  drawers : Tbl Drawer
  /-- @state evidence classes | 8 of EvClass | 13_cabinet R316, R324 | unmapped, no loss -/
  classes : Tbl EvClass
  /-- @state staging buffer, oldest first | 524,288 records | 13_cabinet R323 | empty -/
  staging : List Staged
  /-- @state staging entries held at the pick for copies under DROP_UNRECORDED, per drawer | 64 counts | 13_cabinet R323 | 0 -/
  held : Tbl Nat
  /-- @state CAB_UNRECORDED_DROP, CAB_UNMAPPED, CAB_SYSTEM_LOST | 3 of 64 bits | 13_cabinet Table 13.9 | 0 -/
  unrecorded : BitVec 64
  unmapped : BitVec 64
  systemLost : BitVec 64
  /-- @state CAB_STATUS.paused | 1 bit | 13_cabinet Table 13.8; 14_dram R359 | 0 -/
  paused : Bool
  /-- @state start-up pause until every channel has zeroed its DIMM | 1 bit | 14_dram R345 | 0 -/
  initialising : Bool
  /-- @state CABINET_PAUSE or RESUME waiting for its end: the command, and whether it is a RESUME | one | 14_dram R359 | none -/
  pauseWait : Option (Waiter × Bool)
  /-- @state CAB_STATUS.panic | 1 bit | 13_cabinet Table 13.8; 14_dram R350 | 0 -/
  panic : Bool
  /-- @state CAB_STATUS.safe_sealed | 1 bit | 13_cabinet Table 13.8 | 0 -/
  safeSealed : Bool
  /-- @state installed Cabinet in GiB | 16 times the smallest DIMM | 14_dram R339 | 0 -/
  installedGib : Nat
  /-- @state DRAM channels DC0 to DC15 | 16 of Chan | 14_dram | see Chan -/
  chans : Tbl Chan
  /-- @state replay server queue | 256 requests | 13_cabinet R334 | empty -/
  replayQ : List ReplayReq
  /-- @state capture buffer used, bytes | 2 MiB | 13_cabinet R332 | 0 -/
  captureBuf : Nat
  /-- @state requests accepted so far: the one order of all sources | count | 14_dram R351 | 0 -/
  accepted : Nat
  /-- @state frames in the device that CAB_UNMAPPED has counted already | frame numbers | 13_cabinet R316 | none -/
  unmappedFrames : List Nat
deriving DecidableEq, Repr

/-! ### Command engine: ports, keys (15_commands) -/

/-- A reply (15_commands R367): header fields and result bytes. -/
structure Reply where
  opcode : BitVec 16
  status : BitVec 8
  detail : BitVec 8
  tag : BitVec 64
  results : List Byte
deriving DecidableEq, Repr

/-- A key slot (15_commands R369): owner, K1 to K4, S1, S2 by number 0 to 6. -/
structure KeySlot where
  /-- @state key of the slot | 256 bits, or empty | 15_commands R369 | empty (the owner key: from its fuses, R370) -/
  key : Option (List Byte)
  /-- @state epoch of the slot (K1 to K4) | 128 bits | 15_commands R369 | 0 -/
  epoch : BitVec 128
  /-- @state last accepted counter of the slot (owner, K1 to K4) | 64 bits | 15_commands R369, R373 | 0 -/
  counter : BitVec 64
deriving DecidableEq, Repr

/-- One host command ring with its reply ring (15_commands R362, R363, Tables 15.2 and 15.3; 18_instances R448). -/
structure CmdRing where
  /-- @state HOST_CMD_CTRL.enable | 1 bit | 15_commands Table 15.2 | 0 -/
  enable : Bool
  /-- @state HOST_CMD_CTRL.reset_busy | 1 bit | 15_commands Table 15.2 | 0 -/
  resetBusy : Bool
  /-- @state HOST_CMD_CTRL.tail_rejected | 1 bit W1C | 15_commands Table 15.2 | 0 -/
  tailRejected : Bool
  /-- @state HOST_CMD_CTRL.cmd_log2 and rpl_log2 | 4 bits each | 15_commands Table 15.2 | 0 -/
  cmdLog2 : BitVec 4
  rplLog2 : BitVec 4
  /-- @state HOST_CMD_BASE | 64 bits | 15_commands Table 15.3 | 0 -/
  cmdBase : BitVec 64
  /-- @state HOST_RPL_BASE | 64 bits | 15_commands Table 15.3 | 0 -/
  rplBase : BitVec 64
  /-- @state HOST_CMD_TAIL | 16 bits | 15_commands Table 15.3 | 0 -/
  cmdTail : BitVec 16
  /-- @state HOST_CMD_HEAD | 16 bits | 15_commands Table 15.3 | 0 -/
  cmdHead : BitVec 16
  /-- @state HOST_RPL_HEAD | 16 bits | 15_commands Table 15.3 | 0 -/
  rplHead : BitVec 16
  /-- @state HOST_RPL_TAIL | 16 bits | 15_commands Table 15.3 | 0 -/
  rplTail : BitVec 16
  /-- @state HOST_CMD_AUTH_FAIL | 64 bits RC | 15_commands Table 15.3 | 0 -/
  authFail : BitVec 64
  /-- @state replies held because the reply ring is full | list | 15_commands R362 | empty -/
  held : List Reply
deriving DecidableEq, Repr

/-- A reply that CP1 keeps (15_commands R382); no reply yet while the command awaits its final reply. -/
structure Kept where
  slot : BitVec 3
  counter : BitVec 64
  check : BitVec 128
  reply : Option Reply
deriving DecidableEq, Repr

/-- A packet waiting in the CP1 or CP3 queue. -/
structure Queued where
  opcode : BitVec 16
  pkt : Pkt
deriving DecidableEq, Repr

/-- The command engine's ports and keys. -/
structure CmdState where
  /-- @state key slots owner, K1 to K4, S1, S2 | 7 of KeySlot | 15_commands R369 | empty, counters 0 -/
  keys : Tbl KeySlot
  /-- @state boot_nonce | 128 bits | 15_commands R372 | 0 until the random generator forms it at cold reset -/
  bootNonce : BitVec 128
  /-- @state auth_all of the boot configuration | 1 bit | 15_commands R374; 22_board | 0 until the boot configuration is read -/
  authAll : Bool
  /-- @state host command rings of the manager (0) and of instances 1 to 63 | 64 of CmdRing | 15_commands R361, R362 | see CmdRing -/
  rings : Tbl CmdRing
  /-- @state instance whose ring the CP0 context served last | 6 bits | 15_commands R361 | 63, so that the manager's ring comes first (DESIGN CHOICE 3) -/
  lastRing : Nat
  /-- @state CP1 queue | 16 packets | 04_line R119; 15_commands Table 15.1 | empty -/
  cp1Q : List Queued
  /-- @state CP3 queue | 4 packets | 15_commands Table 15.1 | empty -/
  cp3Q : List Queued
  /-- @state kept CP1 replies, newest first | 16 | 15_commands R382 | empty -/
  kept : List Kept
  /-- @state cp1_repeat | 64 bits | 15_commands R382, R387 | 0 -/
  cp1Repeat : BitVec 64
  /-- @state discarded CP3 frames | 64 bits | 15_commands R364, R387 | 0 -/
  cp3Discards : BitVec 64
  /-- @state commands executed since cold reset | 64 bits | 15_commands R387 | 0 -/
  executed : BitVec 64
  /-- @state AUTH_FAIL and COUNTER_STALE replies per port | 4 of 64 bits | 15_commands R375, R387 | 0 -/
  authFails : Tbl (BitVec 64)
  /-- @state commands awaiting a final reply | 32 bits | 15_commands R387 | 0 -/
  awaiting : Nat
deriving DecidableEq, Repr

/-! ### Command engine microcode (16_microcode) -/

/-- How a context stands (16_microcode R393, Table 16.6). -/
inductive CtxSt where
  | idle | running | slice | waiting
deriving DecidableEq, Repr

/-- One command context (16_microcode R393, R402, Table 16.9). -/
structure Ctx where
  /-- @state context: idle, running, saved by a slice, or waiting | per command port | 16_microcode R393 | idle -/
  st : CtxSt
  /-- @state micro-PC | 14 bits | 16_microcode Table 16.9 | 0 -/
  upc : BitVec 14
  /-- @state micro-stack, newest first | 8 entries of 14 bits | 16_microcode R398 | empty -/
  stack : List (BitVec 14)
  /-- @state work registers w0 to w15 | 16 of 64 bits | 16_microcode Table 16.9 | 0 -/
  w : Tbl (BitVec 64)
  /-- @state flags word: Z, N, C, V and the loop counter | 32 bits | 16_microcode R394 | 0 -/
  flags : BitVec 32
  /-- @state units count | 64 bits | 16_microcode R404 | 0 -/
  units : BitVec 64
  /-- @state PARAM pointer | 12 bits | 16_microcode Table 16.9 | 0 -/
  paramPtr : BitVec 12
  /-- @state SCRATCH pointer | 16 bits | 16_microcode Table 16.9 | 0 -/
  scratchPtr : BitVec 16
  /-- @state issued bit | 1 bit | 16_microcode R400, Table 16.9 | 0 -/
  issued : Bool
  /-- @state cause of the last micro-trap | 4 bits | 16_microcode Table 16.6, 16.9 | 0 -/
  cause : BitVec 4
  /-- @state context timer: expiry instant (ps), and expired | instant, 1 bit | 16_microcode Table 16.8, R400 | not running, not expired -/
  timer : Option Nat
  timerDone : Bool
  /-- @state unit error of the previous word | 1 bit | 16_microcode Table 16.4 | 0 -/
  unitErr : Bool
  /-- @state entry read by READ_ENTRY, bytes not yet fetched, for D0 and for SVC | bytes | 16_microcode Table 16.8 | empty -/
  fetchD0 : List Byte
  fetchSvc : List Byte
  /-- @state parameters of the command in the context | up to 4,080 bytes | 16_microcode Table 16.7 | empty -/
  params : List Byte
  /-- @state results appended | up to 4,080 bytes | 16_microcode Table 16.8 | empty -/
  results : List Byte
  /-- @state final reply sent | 1 bit | 16_microcode R399 | clear -/
  finalSent : Bool
  /-- @state cycles spent and cycle limit | 25 bits each | 16_microcode R410 | 0 -/
  cycles : Nat
  limit : Nat
  /-- @state instant at which the routine of a UCODE_CALL started | ps | 16_microcode R410 | 0 -/
  startedAt : Nat
  /-- @state register writes and unit error of a waiting word's units, which take effect when it completes | list, 1 bit | 16_microcode R400 | none -/
  late : List (Nat × Nat)
  lateErr : Bool
  /-- @state MASKED words in a row | 7 bits | 16_microcode R403 | 0 -/
  masked : Nat
  /-- @state cancel pending | 1 bit | 15_commands R381; 16_microcode Table 16.4 | clear -/
  cancel : Bool
  /-- @state round number when the context began to wait | 64 bits | 16_microcode Table 16.5 | 0 -/
  waitRound : BitVec 64
  /-- @state cycles of the present slice | 11 bits | 16_microcode R393 | 0 -/
  sliceCycles : Nat
  /-- @state command in the context | one | 16_microcode R393 | none -/
  cmd : Option Waiter
  /-- @state the context stops at its next commit point, the device being safe | 1 bit | 16_microcode R406 | clear -/
  stopping : Bool
deriving DecidableEq, Repr

/-- The microcode engine. -/
structure UcodeState where
  /-- @state control store | 16,384 words of 144 bits | 16_microcode R390 | base words 0 until the boot ROM writes them; user words 0 (R391) -/
  words : Tbl Nat
  /-- @state ucode_version | 32 bits | 16_microcode R391; 15_commands Table 15.13 | 0 until the boot ROM sets it -/
  version : BitVec 32
  /-- @state the four command contexts with their trap save areas, CP0 to CP3 | 4 of Ctx | 16_microcode R393 | idle -/
  ctxs : Tbl Ctx
  /-- @state engine scratch memory | 64 KiB | 16_microcode Table 16.7 | 0 (DESIGN CHOICE 4) -/
  scratch : List Host.Cell
  /-- @state ucode_user_trap | 64 bits | 16_microcode R405 | 0 -/
  userTrap : BitVec 64
  /-- @state the context that left the sequencer last | 2 bits | 16_microcode R393 | CP3, so that CP0 comes first (DESIGN CHOICE 3) -/
  lastCtx : CmdPort
deriving DecidableEq, Repr

/-! ### Host endpoint, DMA (17_host) and instances (18_instances) -/

/-- What an outstanding read request serves. -/
inductive ReadFor where
  | ring (r : Nat)
  | barrier (r : Nat)
  | command (inst : Nat)
  | dirtyLog (inst : Nat)
deriving DecidableEq, Repr

/-- An outstanding read request (17_host R437 to R439): tag, purpose, function, instant of issue, its completion timeout, and
whether a fence or a port reset has orphaned it (18_instances R454; 15_commands R381). -/
structure ReadReq where
  tag : BitVec 14
  purpose : ReadFor
  fn : Nat
  issued : Nat
  tct : Nat
  fenced : Bool
  relaxed : Bool
deriving DecidableEq, Repr

/-- A chain in progress (17_host R422, R427, R435): index of its first descriptor; its descriptors, as the engine has read them, less those
carried out, and these as they are to be completed; the first of its cells; whether report space is reserved for it; the bytes that its
bursts have moved (of the descriptor in turn for COPY, else of the frame); whether any of them came from a bad Cabinet unit; and whether a
pointer free has returned its cells (11_pool R289). -/
structure ChainProg where
  first : BitVec 32
  descs : List (List Byte)
  done : List (List Byte) := []
  hold : Option Nat
  report : Bool
  moved : Nat := 0
  bad : Bool := false
  loose : Bool := false
deriving DecidableEq, Repr

/-- One DMA ring (17_host Tables 17.9, 17.10). -/
structure DmaRing where
  /-- @state DMA_CTRL.enable | 1 bit | 17_host Table 17.9 | 0 -/
  enable : Bool
  /-- @state DMA_CTRL.reset_busy | 1 bit | 17_host Table 17.9 | 0 -/
  resetBusy : Bool
  /-- @state DMA_CTRL.tail_rejected | 1 bit W1C | 17_host Table 17.9 | 0 -/
  tailRejected : Bool
  /-- @state DMA_CTRL.type | 3 bits | 17_host Table 17.9 | 0 -/
  typ : BitVec 3
  /-- @state DMA_CTRL.ring_log2 | 5 bits | 17_host Table 17.9 | 0 -/
  log2 : BitVec 5
  /-- @state DMA_CTRL.pipe | 4 bits | 17_host Table 17.9 | 0 -/
  pipe : BitVec 4
  /-- @state DMA_CTRL.relaxed_data | 1 bit | 17_host Table 17.9 | 0 -/
  relaxed : Bool
  /-- @state DMA_CTRL.owner | 6 bits | 17_host Table 17.9; 18_instances R444 | 0 -/
  owner : Fin 64
  /-- @state DMA_CTRL.circ_log2 | 6 bits | 17_host Table 17.9 | 0 -/
  circLog2 : BitVec 6
  /-- @state DMA_BASE | 64 bits | 17_host Table 17.10 | 0 -/
  base : BitVec 64
  /-- @state DMA_TAIL | 32 bits | 17_host Table 17.10 | 0 -/
  tail : BitVec 32
  /-- @state DMA_HEAD | 32 bits | 17_host Table 17.10 | 0 -/
  head : BitVec 32
  /-- @state DMA_CIRC_BASE | 64 bits | 17_host Table 17.10 | 0 -/
  circBase : BitVec 64
  /-- @state DMA_CIRC_WPOS | 64 bits | 17_host Table 17.10 | 0 -/
  wpos : BitVec 64
  /-- @state DMA_CIRC_RPOS | 64 bits | 17_host Table 17.10 | 0 -/
  rpos : BitVec 64
  /-- @state DMA_STATUS halted, halt_code, frozen | 1, 8, 1 bits | 17_host Table 17.10 | 0 -/
  halted : Bool
  haltCode : BitVec 8
  frozen : Bool
  /-- @state DMA_STATUS wait_quota, wait_cabinet, wait_report | 3 bits | 17_host Table 17.10 | 0 -/
  waitQuota : Bool
  waitCab : Bool
  waitReport : Bool
  /-- @state DMA_STATUS halt_index | 16 bits | 17_host Table 17.10 | 0 -/
  haltIndex : BitVec 16
  /-- @state DMA_STATUS dropped | 32 bits RC | 17_host Table 17.10 | 0 -/
  dropped : BitVec 32
  /-- @state report_seq: reports of the ring since enable | 64 bits | 17_host Table 17.13 | 0 -/
  reportSeq : BitVec 64
  /-- @state reports reserved in the circular buffer and not yet written | count | 17_host R428 | 0 -/
  reserved : Nat
  /-- @state delivery backlog | 64 frames | 17_host R429 | empty -/
  backlog : List Frame
  /-- @state chain in progress | one | 17_host R422, R427 | none -/
  chain : Option ChainProg
  /-- @state descriptors whose completion waits for a barrier: index, and its 32 bytes as they are to be written | up to 64 | 17_host R424 | none -/
  barrierWait : List (BitVec 32 × List Byte)
  /-- @state instant of the last NOTICE ring event | ps | 17_host R434 | none -/
  lastEvent : Option Nat
deriving DecidableEq, Repr

/-- One function's configuration space and MSI-X table (17_host R411 to R414, R441). -/
structure FnCfg where
  /-- @state Bus Master Enable | 1 bit per function | 17_host R420 (standard) | 0 (PRESUMED 5: PCIe) -/
  busMaster : Bool
  /-- @state Memory Space Enable | 1 bit per function | 17_host R414 (standard) | 0 (PRESUMED 5: PCIe) -/
  memSpace : Bool
  /-- @state Enable Relaxed Ordering | 1 bit per function | 17_host R418 (standard) | 1 (PRESUMED 5: PCIe) -/
  relaxed : Bool
  /-- @state MSI-X function mask | 1 bit per function | 17_host R441 (standard) | 0 (PRESUMED 5: PCIe) -/
  fnMask : Bool
  /-- @state MSI-X vectors unmasked | 536 or 24 marks | 17_host R441 (standard: masked after reset) | every vector masked (PRESUMED 5: PCIe) -/
  unmasked : List Nat
  /-- @state MSI-X pending bits | 536 or 24 marks | 17_host R441 | clear -/
  pendingVec : List Nat
  /-- @state logs under advanced error reporting: Completion Timeout, Unexpected Completion | 1 bit each | 17_host R437, R438 | 0 (PRESUMED 5: PCIe) -/
  aerTimeout : Bool
  aerUnexpected : Bool
deriving DecidableEq, Repr

/-- A Cabinet window (17_host R416, Table 17.6). -/
structure Window where
  /-- @state WIN_STAGE_LO, WIN_STAGE_HI | base bits [41:30] | 17_host Table 17.6 | 0 -/
  stage : BitVec 42
  /-- @state WIN_ACTIVE | 42 bits | 17_host Table 17.6 | 0 -/
  active : BitVec 42
deriving DecidableEq, Repr

/-- The host endpoint. -/
structure HostState where
  /-- @state HOST_LINK gen, width, flit | 4, 5, 1 bits | 17_host Table 17.5 | 0 -/
  gen : BitVec 4
  width : BitVec 5
  flit : Bool
  /-- @state HOST_LINK.frozen | 1 bit | 17_host Table 17.5 | 0 -/
  frozen : Bool
  /-- @state HOST_LATE_CPL | 64 bits RC | 17_host Table 17.5 | 0 -/
  lateCpl : BitVec 64
  /-- @state HOST_CPL_TIMEOUT | 64 bits RC | 17_host Table 17.5 | 0 -/
  cplTimeout : BitVec 64
  /-- @state tags in quarantine, until when, and the function of the request (HOST_QUARANTINED counts them) | up to 4,096 | 17_host R438, Table 17.5 | none -/
  quarantine : List (BitVec 14 × Nat × Nat)
  /-- @state HOST_WIN_DISCARD | 64 bits RC | 17_host Table 17.5 | 0 -/
  winDiscard : BitVec 64
  /-- @state HOST_FREEZES | 32 bits | 17_host Table 17.5 | 0 -/
  freezes : BitVec 32
  /-- @state HOST_SP_DROP | 64 bits RC | 17_host Table 17.5 | 0 -/
  spDrop : BitVec 64
  /-- @state Completion Timeout Value | 4 bits | 17_host R412 | 0 -/
  ctVal : BitVec 4
  /-- @state BAR2 size of the physical function, log2 | 30 to 42 | 17_host R414 | 30 -/
  barLog2 : Nat
  /-- @state VF Enable | 1 bit | 17_host R413 | 0 -/
  vfEnable : Bool
  /-- @state PERST_N asserted; PCIe link training started | 1 bit each | 22_board R524, R523 | asserted, not started -/
  perstLow : Bool
  training : Bool
  /-- @state configuration space and MSI-X of each function | 64 of FnCfg | 17_host R411, R441 | see FnCfg -/
  fns : Tbl FnCfg
  /-- @state learning notices waiting for the NOTICE ring | list of 16 bytes | 08_tables R217; 17_host R434 | empty -/
  notices : List (List Byte)
  /-- @state read requests outstanding | up to 4,096 | 17_host R439 | none -/
  reads : List ReadReq
  /-- @state DMA rings | 1,024 of DmaRing | 17_host | see DmaRing -/
  rings : Tbl DmaRing
  /-- @state ring that the engine served last | 10 bits | 17_host R435 | 1,023: ring 0 has the first turn (DESIGN CHOICE 3) -/
  turn : Nat
  /-- @state host memory (outside the device) as the device sees it | 2^64 bytes | environment | unlisted: 0 (DESIGN CHOICE 4) -/
  mem : List Host.Cell
  /-- @state peer memory (outside the device) as the device sees it | 2^64 bytes | environment | unlisted: 0 (DESIGN CHOICE 4) -/
  peer : List Host.Cell
deriving DecidableEq, Repr

/-- Instance states (18_instances Table 18.4). -/
inductive InstSt where
  | absent | active | quiescing | quiesced | fencing
deriving DecidableEq, Repr

/-- A dirty-page log (18_instances R456, R457). -/
structure DirtyLog where
  base : BitVec 64
  log2 : Nat
  count : Nat
  overflow : Bool
deriving DecidableEq, Repr

/-- One instance (18_instances Table 18.1, Table 18.4). -/
structure Inst where
  /-- @state INST_STATUS.state | 3 bits | 18_instances Table 18.4 | 0 (ABSENT); 1 for instance 0 -/
  st : InstSt
  /-- @state INST_RINGS ring_first, ring_count | 10 bits each | 18_instances Table 18.4 | 0 -/
  ringFirst : Nat
  ringCount : Nat
  /-- @state INST_DRAWERS (drawer_mask) | 64 bits | 18_instances Table 18.4 | 0 -/
  drawerMask : BitVec 64
  /-- @state opcode_mask | 16 bits | 18_instances Table 18.1 | 0 -/
  opcodeMask : BitVec 16
  /-- @state window registers of the instance page (of BAR0 for instance 0) | Window | 17_host Table 17.6; 18_instances Table 18.3 | 0 -/
  win : Window
  /-- @state INST_WIN_DENIED | 64 bits RC | 18_instances Table 18.4 | 0 -/
  winDenied : BitVec 64
  /-- @state INST_FENCES | 32 bits | 18_instances Table 18.4 | 0 -/
  fences : BitVec 32
  /-- @state active dirty-page log (INST_STATUS.dirty_log) | one | 18_instances R456 | none -/
  dirty : Option DirtyLog
  /-- @state dirty-page filter, newest first | 64 pages | 18_instances R456 | empty -/
  dirtyFilter : List Nat
  /-- @state log swap or stop in progress: the old log and its command | one | 18_instances R457 | none -/
  swap : Option (DirtyLog × Waiter)
  /-- @state INST_QUIESCE or INST_RESET waiting | commands | 18_instances R450, R451 | none -/
  quiesceWait : Option Waiter
  resetWait : Option Waiter
  /-- @state the INST_RESET that waits was applied to work in flight: the instance's ranges of host memory | list of address and length | 18_instances R451 | none -/
  resetLoose : Option (List (Nat × Nat))
deriving DecidableEq, Repr

/-! ### The mirror pair (19_pair) -/

/-- A mirrored command of the PRIMARY that awaits first replies (19_pair R467); `outcome` is that of its audit record when its own first
reply is final too (13_cabinet R322). -/
structure MirroredCmd where
  seq : BitVec 64
  own : Option Reply
  outcome : Option Nat := none
  waiter : Waiter
  peerSeen : Bool
deriving DecidableEq, Repr

/-- A command message waiting in the CP2 queue (19_pair R468, R469). -/
structure Cp2Msg where
  seq : BitVec 64
  opcode : BitVec 16
  pkt : Pkt
  tN : Nat
deriving DecidableEq, Repr

/-- A digest that waits for the standby's applied mirror_seq (19_pair R473). -/
structure HeldDigest where
  region : Fin 19
  seq : BitVec 64
  digest : BitVec 32
deriving DecidableEq, Repr

/-- The mirror unit. -/
structure MirrorState where
  /-- @state link_enable | 1 bit | 19_pair R462, Table 19.4 | 0 -/
  linkEnable : Bool
  /-- @state takeover_mode | 2 bits | 19_pair R462, Table 19.4 | 1 (PEER_FAULT) -/
  takeoverMode : BitVec 2
  /-- @state interface | 1 bit | 19_pair Table 19.4 | 0 -/
  iface : Bool
  /-- @state lt_enable | 1 bit | 19_pair Table 19.4 | 0 -/
  ltEnable : Bool
  /-- @state takeover_hold_us | 16 bits | 19_pair Table 19.4 | 0 -/
  holdUs : BitVec 16
  /-- @state takeover_source | 2 bits | 19_pair Table 19.4 | 0 -/
  takeoverSource : BitVec 2
  /-- @state digest_cycle_ms | 16 bits | 19_pair Table 19.4 | 100 -/
  digestCycle : BitVec 16
  /-- @state pair_id | 128 bits | 19_pair Table 19.4 | 0 -/
  pairId : BitVec 128
  /-- @state module_eq | 256 bits | 19_pair Table 19.4 | 0 -/
  moduleEq : BitVec 256
  /-- @state role | 2 bits | 19_pair R463, Table 19.5 | SOLO -/
  role : Role
  /-- @state peer's role, pair_id, mirror_seq and step_count of its last STATE message | 2, 128, 64, 8 bits, or unknown | 19_pair R463, Table 19.2, Table 19.10 | unknown -/
  peer : Option (Role × BitVec 128 × BitVec 64 × BitVec 8)
  /-- @state link up | 1 bit | 19_pair R461, Table 19.10 | 0 -/
  linkUp : Bool
  /-- @state instant of the last link down | ps | 19_pair R475, Table 19.9 | none -/
  downAt : Option Nat
  /-- @state traversal_ps, D | 32 bits | 19_pair R461, Table 19.10 | 0 (DESIGN CHOICE 3) -/
  dPs : Nat
  /-- @state next link_seq expected by the receiver | 48 bits | 19_pair R460 | 0 (DESIGN CHOICE 3) -/
  rxSeq : BitVec 48
  /-- @state receiver waits for a resent unit | 1 bit | 19_pair R460 | clear -/
  rxWaiting : Bool
  /-- @state resend requests received in succession | 5 bits | 19_pair R460 | 0 (DESIGN CHOICE 3) -/
  resendRun : Nat
  /-- @state link_resends | 64 bits | 19_pair R460, Table 19.10 | 0 -/
  resends : BitVec 64
  /-- @state link_down_events | 64 bits | 19_pair Table 19.10 | 0 -/
  downEvents : BitVec 64
  /-- @state mirror_seq: last sent (PRIMARY), last applied (STANDBY) | 64 bits | 19_pair R467, Table 19.10 | 0 -/
  seq : BitVec 64
  /-- @state mirror_refused | 64 bits | 19_pair R468, Table 19.10 | 0 -/
  refused : BitVec 64
  /-- @state mirrored command in progress on the PRIMARY | one | 19_pair R467 | none -/
  inProgress : Option MirroredCmd
  /-- @state final replies of the standby | count | 19_pair R467 | 0 -/
  finals : BitVec 64
  /-- @state region states: 0 equal, 1 divergent, 2 pulling, 3 not yet compared | 19 of 8 bits | 19_pair Table 19.10 | 3 -/
  regions : Tbl Nat
  /-- @state digests held by the standby | list | 19_pair R473 | empty -/
  held : List HeldDigest
  /-- @state a pull of R465 or R472 is running (syncing); of it, the feed pull | 1 bit each | 19_pair R465, R472 | clear -/
  syncing : Bool
  feedPull : Bool
  /-- @state role_conflict | 1 bit | 19_pair R478, Table 19.10 | 0 -/
  conflict : Bool
  /-- @state CP2 queue | 16 packets | 19_pair R468 | empty -/
  cp2Q : List Cp2Msg
  /-- @state full pull in progress: the next region to ask for | 5 bits | 19_pair R465 | none -/
  pullNext : Option Nat
  /-- @state MIRROR_ROLE command that waits for its pull | one | 19_pair R464, R465 | none -/
  roleWait : Option Waiter
  /-- @state MIRROR_CHECK command that waits, and the regions it waits for | one | 19_pair R479 | none -/
  checkWait : Option (Waiter × List (Fin 19))
  /-- @state handover: the PRIMARY becomes STANDBY at the next STATE message | 1 bit | 19_pair R464 (Table 19.6) | clear -/
  handover : Bool
  /-- @state consecutive offsets within ±2.0 ns, and outside ±10.0 ns | 11 and 5 bits | 19_pair R470 | 0 -/
  good : Nat
  bad : Nat
  /-- @state last 16 outputs of the lock loop, newest first | 16 of 40 bits | 19_pair R471 | empty -/
  outputs : List Int
  /-- @state step_count of the primary up to which the standby's time has followed | 8 bits, or none | 19_pair R471 | none -/
  primarySteps : Option (BitVec 8)
  /-- @state step_count of a step that the standby has armed and not yet followed | 8 bits, or none | 19_pair R471 | none -/
  stepWait : Option (BitVec 8)
  /-- @state the standby has acknowledged the barrier of the MIRROR_CHECK that waits | 1 bit | 19_pair R479 | clear -/
  checkAck : Bool
  /-- @state integral of the lock loop | signed | 19_pair R470 | 0 (DESIGN CHOICE 3) -/
  integ : Int
  /-- @state generation to apply at the next swap round (region 18) | 1 bit, or none | 19_pair R474 | none -/
  genPull : Option Bool
  /-- @state instant at which the last unit passed its check | ps | 19_pair R460 | 0 (DESIGN CHOICE 3) -/
  heard : Nat
  /-- @state round in which the last acknowledgement was sent, and the last TIME message | 64 bits each, or none | 19_pair R460, R470 | none -/
  ackRound : Option (BitVec 64)
  timeRound : Option (BitVec 64)
  /-- @state instant at which each region's digest was sent last in its cycle | 19 of ps, or none | 19_pair R473 | none -/
  digestAt : Tbl (Option Nat)
deriving DecidableEq, Repr

/-! ### Faults, events, monitors (20_faults) -/

/-- One fault line (20_faults Tables 20.1 to 20.3). -/
structure FltLine where
  /-- @state FLT_STATUS bit of the line | 1 bit | 20_faults Table 20.3 | 0 -/
  latched : Bool
  /-- @state FLT_STICKY_n (lines 24 to 47) | 64 bits W1C | 20_faults Table 20.3 | 0 -/
  sticky : BitVec 64
  /-- @state FLT_COUNT_n | 64 bits | 20_faults Table 20.3 | 0 -/
  count : BitVec 64
  /-- @state FLT_CFG_n severity | 2 bits | 20_faults Tables 20.1, 20.3 | default severity of Table 20.1 -/
  severity : Nat
  /-- @state FLT_CFG_n counted | 1 bit | 20_faults R484, Table 20.3 | 1 for AUTH, else 0 -/
  counted : Bool
  /-- @state FLT_CFG_n count_n | 8 bits | 20_faults R484, Table 20.3 | 4 -/
  countN : Nat
  /-- @state FLT_CFG_n window_ms | 16 bits | 20_faults R484, Table 20.3 | 100 -/
  windowMs : Nat
  /-- @state FLT_CFG_n grace_us | 20 bits | 20_faults R484, Table 20.3 | 10000 -/
  graceUs : Nat
  /-- @state window: instant it opened and occurrences in it | ps, 8 bits | 20_faults R483 | none -/
  window : Option (Nat × Nat)
  /-- @state counted on account of a FAULT_RELEASE until | ps | 20_faults R484 | none -/
  countedUntil : Option Nat
  /-- @state sources under containment | sources of the line | 20_faults R481, R487 | none -/
  contained : List Nat
deriving DecidableEq, Repr

/-- The fault collector. -/
structure FltState where
  /-- @state fault lines 0 to 47 | 48 of FltLine | 20_faults Tables 20.1, 20.3 | see FltLine -/
  lines : Tbl FltLine
  /-- @state FLT_STATUS overflow | 1 bit | 20_faults R482, Table 20.3 | 0 -/
  overflow : Bool
  /-- @state FLT_FIRST line, source, valid | 6, 13, 1 bits | 20_faults R482, Table 20.3 | 0 -/
  firstLine : Nat
  firstSrc : BitVec 13
  firstValid : Bool
  /-- @state FLT_FIRST_ROUND | 64 bits | 20_faults R482, Table 20.3 | 0 -/
  firstRound : BitVec 64
  /-- @state FLT_GRACE line | 6 bits | 20_faults Table 20.3 | 0 -/
  graceLine : Nat
  /-- @state source that started the grace timer | 13 bits | 20_faults R486, R490 (MON_LAST_GASP source) | 0 -/
  graceSrc : BitVec 13
  /-- @state FLT_GRACE running and remaining (FLT_STATUS handler_active), as the instant of expiry | 1, 20 bits | 20_faults R486, Table 20.3 | not running -/
  graceEnd : Option Nat
  /-- @state FLT_SAFE_DISCARD | 64 bits RC | 20_faults Table 20.3 | 0 -/
  safeDiscard : BitVec 64
  /-- @state FLT_FENCED_PKTS | 64 bits RC | 20_faults Table 20.3 | 0 -/
  fencedPkts : BitVec 64
  /-- @state safe state | 1 bit | 20_faults R488, R489 | 0 -/
  safe : Bool
  /-- @state MON_LAST_GASP valid, cause, line, source, round | 1, 8, 6, 13, 32 bits | 20_faults Table 20.6, R490 | 0 -/
  gaspValid : Bool
  gaspCause : Nat
  gaspLine : Nat
  gaspSrc : BitVec 13
  gaspRound : BitVec 32
  /-- @state FAULT_N driven low | 1 bit | 20_faults R488; 22_board R524 | not driven -/
  faultN : Bool
  /-- @state THERMTRIP_N driven low | 1 bit | 22_board Table 22.4 | not driven -/
  thermtripN : Bool
  /-- @state PEER_FAULT_N seen asserted (a fault line 40 condition) | 1 bit | 20_faults Table 20.1; 19_pair R475 | clear -/
  peerFault : Bool
  /-- @state next shed check (under alarm) | ps | 20_faults R494 | none -/
  shedAt : Option Nat
deriving DecidableEq, Repr

/-- One event source (20_faults R492, Table 20.5). -/
structure EvtSrc where
  /-- @state EVT_ROUTE_s enable | 1 bit | 20_faults Table 20.5 | 0 -/
  enable : Bool
  /-- @state EVT_ROUTE_s vector | 10 bits | 20_faults Table 20.5 | 0 -/
  vector : BitVec 10
  /-- @state EVT_ROUTE_s holdoff_us | 10 bits | 20_faults Table 20.5 | 0 -/
  holdoff : BitVec 10
  /-- @state EVT_ROUTE_s route_rejected | 1 bit W1C | 20_faults Table 20.5 | 0 -/
  rejected : Bool
  /-- @state EVT_PENDING bit of the source | 1 bit RC | 20_faults Table 20.5 | 0 -/
  pending : Bool
  /-- @state holdoff running until, and a raise within it | ps, 1 bit | 20_faults R492 | not running -/
  until_ : Option Nat
  owed : Bool
deriving DecidableEq, Repr

/-- One temperature sensor (20_faults R493, R494). -/
structure Sensor where
  /-- @state MON_TEMP_k reading | signed 16 bits | 20_faults Table 20.6 | 0 -/
  reading : BitVec 16
  /-- @state MON_TEMP_k maximum | signed 16 bits | 20_faults Table 20.6 | 0 -/
  maximum : BitVec 16
  /-- @state thresholds in force: warning, alarm, trip | 1 bit each | 20_faults R493, R494 | clear -/
  warn : Bool
  alarm : Bool
  trip : Bool
deriving DecidableEq, Repr

/-- One voltage monitor (20_faults R495). -/
structure Volt where
  /-- @state MON_VOLT_k reading | 16 bits | 20_faults Table 20.6 | 0 -/
  mv : BitVec 16
  /-- @state consecutive samples beyond ±3 % and beyond ±6 % | up to 4 each | 20_faults R495 | 0 -/
  run3 : Nat
  run6 : Nat
  /-- @state MON_VOLT_k warn, fail | 1 bit each | 20_faults Table 20.6 | 0 -/
  warn : Bool
  fail : Bool
deriving DecidableEq, Repr

/-- The health monitors. -/
structure MonState where
  /-- @state sensors 0 to 31 | 32 of Sensor | 20_faults R493 | see Sensor -/
  sensors : Tbl Sensor
  /-- @state voltage monitors 0 to 23 | 24 of Volt | 20_faults R495 | see Volt -/
  volts : Tbl Volt
  /-- @state process counts | 16 of 16 bits | 20_faults R496, R497 | 0 until phase 2 reads them -/
  process : List (BitVec 16)
  /-- @state AVS target | 16 bits, mV | 20_faults R496, R497 | 0 until phase 2 sets it -/
  avsMv : BitVec 16
  /-- @state MON_STATUS.shed | 8 bits | 20_faults Table 20.6 | 0 -/
  shed : BitVec 8
deriving DecidableEq, Repr

/-- A running SELFTEST (20_faults R498). -/
structure SelftestRun where
  op : Nat
  target : BitVec 64
  waiter : Waiter
deriving DecidableEq, Repr

/-! ### Performance counters (21_counters) -/

/-- A sample record (21_counters Table 21.6). -/
structure Sample where
  /-- @state sample record of a pipeline | 512 bits | 21_counters R510, R511, Table 21.6 | 0 -/
  valid : Bool
  tagged : Bool
  counter : Nat
  slot : Nat
  round : BitVec 32
  templateId : Nat
  cls : Nat
  source : Nat
  lp : Nat
  reason : Nat
  outcome : Nat
  dropReason : Nat
  ruleRow : Nat
  ruleHit : Bool
  dest : Nat
  tsIn : DevTime
  lost : BitVec 32
  /-- @state capture owed by a wrap: SAMPLE and its last slot since round 0, or TAG, and the counter | one each | 21_counters R510, R511 | none -/
  armSample : Option (Nat × Nat)
  armTag : Option Nat
  /-- @state tagged head followed to its outcome | frame number | 21_counters R511 | none -/
  following : Option Nat
deriving DecidableEq, Repr

/-- The performance counters. -/
structure PmcState where
  /-- @state PMC_CTR_k | 256 of 48 bits | 21_counters R499, R500 | 0 -/
  ctr : Tbl (BitVec 48)
  /-- @state PMC_CFG_k as written | 252 of 24 bits | 21_counters Table 21.3 | 0 -/
  cfg : Tbl (BitVec 64)
  /-- @state PMC_CFG_k in force since the last round boundary | 252 of 24 bits | 21_counters R505 | 0 -/
  inForce : Tbl (BitVec 64)
  /-- @state PMC_SNAP_k copy and number | 256 of 48 and 8 bits | 21_counters R508 | 0 -/
  snap : Tbl (BitVec 48)
  snapNo : Tbl (BitVec 8)
  /-- @state PMC_MARK number, pair, busy, mark_rejected, pair_missed | 8, 1, 1, 1, 1 bits | 21_counters Table 21.5 | 0 -/
  markNo : BitVec 8
  markPair : Bool
  markBusy : Bool
  markRejected : Bool
  pairMissed : Bool
  /-- @state PMC_SWEEP first, last, busy, sweep_rejected | 8, 8, 1, 1 bits | 21_counters Table 21.5 | 0 -/
  sweepFirst : Nat
  sweepLast : Nat
  sweepBusy : Bool
  sweepRejected : Bool
  /-- @state range of the sweep that runs | first and last | 21_counters R507 | none -/
  sweeping : Option (Nat × Nat)
  /-- @state PMC_SWEEP_k | 256 of 64 bits | 21_counters R507 | 0 -/
  sweep : Tbl (BitVec 64)
  /-- @state PMC_OVF | 256 bits W1C | 21_counters Table 21.5 | 0 -/
  ovf : List Nat
  /-- @state sample records | 16 of Sample | 21_counters Table 21.6 | 0 -/
  samples : Tbl Sample
  /-- @state slots begun in the current round, per pipeline (R502's account) | 16 of 11 bits | 21_counters R501, R502 | 0 -/
  slotsBegun : Tbl Nat
  /-- @state a command context held a command in the current round (R503's account) | 1 bit | 21_counters R503 | clear -/
  engineUsed : Bool
deriving DecidableEq, Repr

/-! ### Start-up and fuses (22_board) -/

/-- What is fixed in the part or in its fuses (22_board R521, R529). -/
structure EnvState where
  /-- @state owner key fuses | 256 bits | 22_board R529; 15_commands R370 | kept by the fuses; not blown (DESIGN CHOICE 6) -/
  ownerFuse : Option (BitVec 256)
  /-- @state lock fuse | 1 bit | 22_board R529 | kept by the fuses; not blown (DESIGN CHOICE 6) -/
  lockFuse : Bool
  /-- @state revoked public-key hashes (fuses) | 2 bits | 22_board R521 | kept by the fuses; none (DESIGN CHOICE 6) -/
  revoked : List (Fin 2)
  /-- @state device_id | 128 bits | 15_commands Table 15.13; 13_cabinet R328 | fixed per part; 0 (DESIGN CHOICE 6) -/
  deviceId : BitVec 128
deriving DecidableEq, Repr

/-- Start-up and HOST_BOOT (22_board R524, R527). -/
structure BootState where
  /-- @state HOST_BOOT.phase | 4 bits | 22_board Table 22.13 | 0 -/
  phase : Nat
  /-- @state HOST_BOOT.slot | 2 bits | 22_board Table 22.13 | 0 -/
  slot : Nat
  /-- @state HOST_BOOT.config_source | 2 bits | 22_board Table 22.13 | 0 -/
  configSource : Nat
  /-- @state HOST_BOOT.startup_done | 1 bit | 22_board Table 22.13 | 0 -/
  done : Bool
  /-- @state HOST_BOOT.cabinet_ready | 1 bit | 22_board Table 22.13 | 0 -/
  cabinetReady : Bool
  /-- @state HOST_BOOT.warm | 1 bit | 22_board Table 22.13 | 0 -/
  warm : Bool
  /-- @state HOST_BOOT.owner_key | 1 bit | 22_board Table 22.13 | 0 -/
  ownerKey : Bool
  /-- @state HOST_BOOT.serdes_enabled | 8 bits | 22_board Table 22.13 | 0 -/
  serdesEnabled : BitVec 8
  /-- @state HOST_BOOT.serdes_up | 8 bits | 22_board Table 22.13 | 0 -/
  serdesUp : BitVec 8
  /-- @state HOST_BOOT.dram_trained | 16 bits | 22_board Table 22.13 | 0 -/
  dramTrained : BitVec 16
  /-- @state channels whose training has ended, passed or not | 16 marks | 22_board R524 (phase 6) | none -/
  dramDone : BitVec 16
  /-- @state HOST_BOOT.straps | 6 bits | 22_board R517, Table 22.13 | 0 -/
  straps : BitVec 6
  /-- @state BOOT_DONE | 1 bit (pin) | 22_board R524, Table 22.4 | low -/
  bootDone : Bool
  /-- @state boot failed: no image slot passed | 1 bit | 22_board R524 | clear -/
  failed : Bool
  /-- @state warm reset: WARM_RESET_N held low, sealing done | 1 bit | 22_board R525 | clear -/
  warmLow : Bool
  /-- @state DIMMs found on the channels | 16 of Dimm | 14_dram R338, R339 | none found before phase 6 -/
  dimms : List Dimm
  /-- @state TDO: what the test port shifted out last, first bit first | bits | 22_board R528, R529 | empty -/
  tdo : List Bool
deriving DecidableEq, Repr

/-- What leaves the device, newest first: what an outside observer sees (15_commands R367; 04_line; 17_host R441;
19_pair Table 19.2). -/
inductive Out where
  /-- a reply on a command port of an instance -/
  | reply (port : CmdPort) (inst : Nat) (r : Reply)
  /-- a frame transmitted on a logical port, with its FCS -/
  | frame (lp : Nat) (data : List Byte) (stomped : Bool)
  /-- a frame transmitted on the management port, with its FCS -/
  | mgmtFrame (data : List Byte)
  /-- an MSI-X message of a function -/
  | msix (fn : Nat) (vec : Nat)
  /-- a unit kind sent on the Dovetail link: message code and content words -/
  | link (code : Nat) (content : List Nat)
  /-- a mirrored packet sent on the Dovetail link -/
  | linkCommand (seq : BitVec 64) (opcode : BitVec 16) (p : Pkt) (tN : Nat)
  /-- a feed change sent on the Dovetail link -/
  | linkFeed (feed : Nat) (change : FeedChange)
  /-- a PULL_DATA message sent on the Dovetail link -/
  | linkPull (data : PullData)
  /-- a PULL_REQ message sent on the Dovetail link -/
  | linkReq (req : PullReq)
  /-- data returned to a read through a Cabinet window, poisoned or not -/
  | windowData (inst : Nat) (data : List Byte) (poisoned : Bool)
  /-- a read answered with Unsupported Request -/
  | unsupported (inst : Nat)
deriving DecidableEq, Repr

/-! ### The machine -/

/-- The whole state of the block. -/
structure State where
  /-- @state commands that wait, first in first out | list | model (the block's queue) | empty -/
  pending : List Instr
  /-- @state counter that names the next free value (the model's own, DESIGN CHOICE 1) | count | model | 0 -/
  freeCtr : Nat
  /-- @state instant inside the round in force that the block has reached, in units of 0.125 ns (the model's own clock hand: an event's `at8` moves it forward) | count | model (DESIGN CHOICE 2) | 0 -/
  off8 : Nat
  env : EnvState
  boot : BootState
  tt : TTState
  ports : Tbl Port
  macros : Tbl Macro
  mgmt : MgmtState
  time : TimeState
  tables : TablesState
  flow : FlowState
  arb : ArbState
  buf : BufState
  pool : PoolState
  cab : CabState
  cmd : CmdState
  ucode : UcodeState
  host : HostState
  insts : Tbl Inst
  /-- @state owner of each logical port (INST_PORT_OWNER) | 512 of 6 bits | 18_instances R444, Table 18.4 | 0 -/
  portOwner : Tbl Nat
  mirror : MirrorState
  flt : FltState
  evts : Tbl EvtSrc
  mon : MonState
  /-- @state SELFTEST running | one | 20_faults R498 | none -/
  selftest : Option SelftestRun
  pmc : PmcState
  /-- @state what has left the device, newest first (replies, frames, messages) | list | observable output | empty -/
  out : List Out
deriving DecidableEq, Repr


/-! ### Reset -/

/-- A pause kind at reset. -/
def PauseState.init : PauseState :=
  { until_ := none, coming := [], heldSince := none, holdoff := none, txOn := false, txLast := none }

/-- A port at reset (04_line R98). -/
def Port.init : Port :=
  { st := .disabled, lastChange := 0, lanesUp := false, alignAt := 0, cfg := 0, locked := 0, wakeArmed := false, wakeFired := false, woken := false,
    pause := [], degraded := false, stats := [], statsSnap := [], statsSnapNo := 0,
    cal := { valid := false, rxPs := 0, txPs := 0, temp := 0, round := 0 }, calRun := none }

/-- A macro at reset (04_line R98). -/
def Macro.init : Macro :=
  { mode := 0, rxPol := 0, txPol := 0, pllFault := false, shed := false, serdesUp := false }

/-- The management port at reset. -/
def MgmtState.init : MgmtState :=
  { station := 0, group := 0, powered := false, stats := [], discarded := 0, queueFull := 0,
    statsSnap := [], snapNo := 0 }

/-- The timetable unit at reset (22_board R526: no image is active). -/
def TTState.init : TTState :=
  { round := 0, active := none, old := none, shadow := [], shadowState := .empty, act := none, switchRound := none,
    broken := [], brokenPorts := [], unswitched := [],
    inWindow := [], islandsDown := List.finRange 64, pllLost := [] }

/-- The 1PPS output at reset (05_time R136). -/
def PpsOut.init : PpsOut :=
  { offset := 0, enable := false, emitUnset := false, widthUs := 100000, highUntil := none, pulses := 0, lastSec := none }

/-- The time island at reset (05_time R121 to R152). -/
def TimeState.init : TimeState :=
  { t48 := 0, res48 := 0, freqAdj := 0, freqNext := [], slew := none, slewNext := [], source := 0, step := none,
    timeSet := false, stepCount := 0, refPresent := false, refHoldover := false, refGood := 0, refHist := [],
    refInteg := 0, refOffset := 0x80000000, calDrift := false, dovetailLocked := false, hostState := 0, hostSource := 0,
    hostAccuracy := 0xFF, ppsPresent := false, ppsCount := 0, ppsIgnored := 0, ppsLastRes := none, ppsTime := 0,
    ppsOffset := 0, ppsOut := PpsOut.init, attSeq := 0, attSum := 0, attLastB := 0, attSec := 0, attOwed := false,
    latched := 0, latch := none }

/-- A quad at reset. -/
def Quad.init : Quad :=
  { rep := [], hist := [], svc := [], gen := false, marked := [], filter := [], lqueue := [], plan := none, removals := [], lastFull := none }

/-- The tables at reset (07_match R189; 08_tables). -/
def TablesState.init : TablesState :=
  { master := [], work := [], quads := [Quad.init, Quad.init, Quad.init, Quad.init], pairRows := 32768,
    shimInterval := 32, pairZones := (List.replicate 63 (0, 0)) ++ [(0, 16384)],
    singleZones := (List.replicate 97 (0, 0)) ++ [(0, 229376)], damaged := [], swap := none, scan := none }

/-- Frames in flight at reset: none. -/
def FlowState.init : FlowState :=
  { nextId := 0, rx := [], waiting := [], inPass := [], recirc := [], inject := [], injectLast := [], arb := [], body := [], slow := [] }

/-- A feed's runtime state at reset (09_feeds R237). -/
def FeedState.init : FeedState :=
  { tracking := false, n := 0, seen := 0, gaps := [], counters := [], epoch := 0 }

/-- The arbiter at reset. -/
def ArbState.init : ArbState := { feeds := [], scanNext := 0, revs := [], lastWin := [], scanWin := 0, serviceWin := 0 }

/-- A cell at reset. -/
def CellRec.init : CellRec := { data := [], count := 0, next := 0, last := false, crc := 0 }

/-- A queue at reset. -/
def QueueState.init : QueueState :=
  { entries := [], occ := 0, avg := 0, enqueued := 0, refused := 0, ecnMarked := 0, credit := 0, deficit := 0,
    turnOpen := false, gateBlocked := false, txStarted := 0, gateWaits := 0 }

/-- An ingress group at reset. -/
def GroupState.init : GroupState := { shared := 0, head := 0, congested := false }

/-- A logical port's egress side at reset. -/
def EgressPort.init : EgressPort :=
  { mcPartialDrop := 0, flushDrop := 0, headroomDrop := 0, lateDrop := 0, credit := 0, ptr := [], gates := none,
    gatesNext := none, gatesNextRound := none, entry := 0, cycleStart := 0, gateBlocked := 0, gateOverrun := 0,
    wire := [], freeAt := 0, gatesArm := none, flushing := false }

/-- The buffer island at reset. -/
def BufState.init : BufState :=
  { cells := [], links := [], queues := [], groups := [], egress := [], stored := [], entriesUsed := 0, poolUse := [],
    headUse := 0, reserve := [], lfsr := 1, schedInForce := [], refill := 0 }

/-- A bank at reset: every cell on its list as built (11_pool R281), whose head is its cell of row 0 (log entry 8). -/
def Bank.init (bank : Nat) : Bank := { cache := [], back := [], backAt := 0, head := bank, count := 16384 }

/-- Requester 0 at reset has the quota 983,040 (11_pool R282). -/
def Requester.init0 : Requester := { quota := 983040, charge := 0, underflow := false, refused := 0 }

/-- Any other requester at reset (11_pool R282). -/
def Requester.init : Requester := { quota := 0, charge := 0, underflow := false, refused := 0 }

/-- A pool log entry at reset. -/
def PoolLog.init : PoolLog := { pointer := 0, requester := 0, reason := 0, round := 0 }

/-- The pool manager at reset. -/
def PoolState.init : PoolState :=
  { banks := [], refs := [], reqs := [(0, Requester.init0)], holds := [], walks := [], ptrRejected := 0, zeroCount := 0,
    quotaUnderflow := 0, stolen := [], log := [], logNext := 0, logLost := 0, logUnread := 0, recount := none, rot := 0 }

/-- A drawer at reset: EMPTY (13_cabinet R314). -/
def Drawer.init : Drawer :=
  { st := .empty, typ := 0, wrap := false, policy := 0, sealKey := 0, base := 0, size := 0, label := 0, wpos := 0,
    spos := 0, rpos := 0, rejected := false, sealIndex := 0, mac := [], sealRes := 0, run := [], waiter := none }

/-- An evidence class at reset: unmapped (13_cabinet R316). -/
def EvClass.init : EvClass :=
  { drawer := none, dropUnrec := false, lost := 0, pendLost := 0, pendUnrec := 0, firstTs := 0, lastTs := 0 }

/-- A channel at reset (14_dram Table 14.4). -/
def Chan.init : Chan :=
  { st := .training, selfRefresh := false, hot := false, down := false, temp := 0, cause := 0, cap := 0, ranks := 0, laneCount := 0, readEye := 0,
    writeEye := 0, lanes := [], corr := 0, uncorr := 0, lastAddr := 0, lastValid := false, errTimes := [],
    resweepOk := false, refreshes := 0, zqAt := 0, trackAt := 0, patrol := 0,
    queues := [], servedTo := 0 }

/-- The Cabinet at reset. -/
def CabState.init : CabState :=
  { mem := [], bad := [], drawers := [], classes := [], staging := [], held := [], unrecorded := 0, unmapped := 0, systemLost := 0,
    paused := false, initialising := false, pauseWait := none, panic := false, safeSealed := false, installedGib := 0,
    chans := [], replayQ := [], captureBuf := 0, accepted := 0, unmappedFrames := [] }

/-- An empty key slot (15_commands R369). -/
def KeySlot.init : KeySlot := { key := none, epoch := 0, counter := 0 }

/-- A host command ring at reset (15_commands Tables 15.2, 15.3). -/
def CmdRing.init : CmdRing :=
  { enable := false, resetBusy := false, tailRejected := false, cmdLog2 := 0, rplLog2 := 0, cmdBase := 0, rplBase := 0,
    cmdTail := 0, cmdHead := 0, rplHead := 0, rplTail := 0, authFail := 0, held := [] }

/-- The command engine's ports at reset. -/
def CmdState.init : CmdState :=
  { keys := [], bootNonce := 0, authAll := false, rings := [], lastRing := 63, cp1Q := [], cp3Q := [], kept := [],
    cp1Repeat := 0, cp3Discards := 0, executed := 0, authFails := [], awaiting := 0 }

/-- A command context at reset. -/
def Ctx.init : Ctx :=
  { st := .idle, upc := 0, stack := [], w := [], flags := 0, units := 0, paramPtr := 0, scratchPtr := 0, issued := false,
    cause := 0, timer := none, timerDone := false, unitErr := false, fetchD0 := [], fetchSvc := [], params := [],
    results := [], finalSent := false, cycles := 0, limit := 0, startedAt := 0, late := [], lateErr := false, masked := 0, cancel := false, stopping := false, waitRound := 0,
    sliceCycles := 0, cmd := none }

/-- The microcode engine at reset. -/
def UcodeState.init : UcodeState := { words := [], version := 0, ctxs := [], scratch := [], userTrap := 0, lastCtx := .cp3 }

/-- A DMA ring at reset (17_host Tables 17.9, 17.10). -/
def DmaRing.init : DmaRing :=
  { enable := false, resetBusy := false, tailRejected := false, typ := 0, log2 := 0, pipe := 0, relaxed := false,
    owner := 0, circLog2 := 0, base := 0, tail := 0, head := 0, circBase := 0, wpos := 0, rpos := 0, halted := false,
    haltCode := 0, frozen := false, waitQuota := false, waitCab := false, waitReport := false, haltIndex := 0,
    dropped := 0, reportSeq := 0, reserved := 0, backlog := [], chain := none, barrierWait := [], lastEvent := none }

/-- A function's configuration space at reset (PRESUMED 5: the PCIe standard's values). -/
def FnCfg.init : FnCfg :=
  { busMaster := false, memSpace := false, relaxed := true, fnMask := false, unmasked := [], pendingVec := [],
    aerTimeout := false, aerUnexpected := false }

/-- A Cabinet window at reset (17_host Table 17.6). -/
def Window.init : Window := { stage := 0, active := 0 }

/-- The host endpoint at reset. -/
def HostState.init : HostState :=
  { gen := 0, width := 0, flit := false, frozen := false, lateCpl := 0, cplTimeout := 0, quarantine := [],
    winDiscard := 0, freezes := 0, spDrop := 0, ctVal := 0, barLog2 := 30, vfEnable := false, perstLow := true,
    training := false, fns := [], notices := [], reads := [], rings := [], turn := 1023, mem := [], peer := [] }

/-- An absent instance (18_instances Table 18.4). -/
def Inst.init : Inst :=
  { st := .absent, ringFirst := 0, ringCount := 0, drawerMask := 0, opcodeMask := 0, win := Window.init, winDenied := 0,
    fences := 0, dirty := none, dirtyFilter := [], swap := none, quiesceWait := none, resetWait := none, resetLoose := none }

/-- Instance 0 at reset (18_instances Table 18.4). -/
def Inst.init0 : Inst := { Inst.init with st := .active }

/-- The mirror unit at reset (19_pair R462, R463). -/
def MirrorState.init : MirrorState :=
  { linkEnable := false, takeoverMode := 1, iface := false, ltEnable := false, holdUs := 0, takeoverSource := 0,
    digestCycle := 100, pairId := 0, moduleEq := 0, role := .solo, peer := none, linkUp := false, downAt := none,
    dPs := 0, rxSeq := 0, rxWaiting := false, resendRun := 0, resends := 0, downEvents := 0,
    seq := 0, refused := 0, inProgress := none, finals := 0, regions := [], held := [], syncing := false,
    feedPull := false, conflict := false, cp2Q := [], pullNext := none, roleWait := none, checkWait := none,
    handover := false, good := 0, bad := 0, outputs := [], primarySteps := none,
    stepWait := none, checkAck := false, integ := 0, genPull := none, heard := 0, ackRound := none,
    timeRound := none, digestAt := [] }

/-- A fault line with the severity and the counted bit that Table 20.1 and R484 give it (20_faults). -/
def FltLine.init (severity : Nat) (counted : Bool) : FltLine :=
  { latched := false, sticky := 0, count := 0, severity := severity, counted := counted, countN := 4, windowMs := 100,
    graceUs := 10000, window := none, countedUntil := none, contained := [] }

/-- The fault collector at reset. -/
def FltState.init : FltState :=
  { lines := [], overflow := false, firstLine := 0, firstSrc := 0, firstValid := false, firstRound := 0, graceLine := 0,
    graceSrc := 0,
    graceEnd := none, safeDiscard := 0, fencedPkts := 0, safe := false, gaspValid := false, gaspCause := 0,
    gaspLine := 0, gaspSrc := 0, gaspRound := 0, faultN := false, thermtripN := false, peerFault := false,
    shedAt := none }

/-- An event source at reset (20_faults R492). -/
def EvtSrc.init : EvtSrc :=
  { enable := false, vector := 0, holdoff := 0, rejected := false, pending := false, until_ := none, owed := false }

/-- A sensor at reset. -/
def Sensor.init : Sensor := { reading := 0, maximum := 0, warn := false, alarm := false, trip := false }

/-- A voltage monitor at reset. -/
def Volt.init : Volt := { mv := 0, run3 := 0, run6 := 0, warn := false, fail := false }

/-- The monitors at reset. -/
def MonState.init : MonState := { sensors := [], volts := [], process := List.replicate 16 0, avsMv := 0, shed := 0 }

/-- A sample record at reset (21_counters R500). -/
def Sample.init : Sample :=
  { valid := false, tagged := false, counter := 0, slot := 0, round := 0, templateId := 0, cls := 0, source := 0, lp := 0,
    reason := 0, outcome := 0, dropReason := 0, ruleRow := 0, ruleHit := false, dest := 0, tsIn := 0, lost := 0,
    armSample := none, armTag := none, following := none }

/-- The performance counters at reset (21_counters R500). -/
def PmcState.init : PmcState :=
  { ctr := [], cfg := [], inForce := [], snap := [], snapNo := [], markNo := 0, markPair := false, markBusy := false,
    markRejected := false, pairMissed := false, sweepFirst := 0, sweepLast := 0, sweepBusy := false,
    sweepRejected := false, sweeping := none, sweep := [], ovf := [], samples := [], slotsBegun := [],
    engineUsed := false }

/-- The fuses before anything is programmed (DESIGN CHOICE 6). -/
def EnvState.init : EnvState :=
  { ownerFuse := none, lockFuse := false, revoked := [], deviceId := 0 }

/-- Start-up at reset (22_board Table 22.13). -/
def BootState.init : BootState :=
  { phase := 0, slot := 0, configSource := 0, done := false, cabinetReady := false, warm := false, ownerKey := false,
    serdesEnabled := 0, serdesUp := 0, dramTrained := 0, dramDone := 0, straps := 0, bootDone := false, failed := false,
    warmLow := false, dimms := [], tdo := [] }

/-- The machine right after reset: RESET_N low, every register at the value its Reset column gives, before the phases
of 22_board R524 run (COLD_RESET runs them). -/
def State.reset : State :=
  { pending := [], freeCtr := 0, off8 := 0, env := EnvState.init, boot := BootState.init, tt := TTState.init, ports := [],
    macros := [], mgmt := MgmtState.init, time := TimeState.init, tables := TablesState.init, flow := FlowState.init,
    arb := ArbState.init, buf := BufState.init, pool := PoolState.init, cab := CabState.init, cmd := CmdState.init,
    ucode := UcodeState.init, host := HostState.init, insts := [(0, Inst.init0)], portOwner := [],
    mirror := MirrorState.init, flt := FltState.init, evts := [], mon := MonState.init, selftest := none,
    pmc := PmcState.init, out := [] }

end Sys2Proof.Machine
end

