-- ==== Sys2Proof/Machine/Ops.lean ====
section
/-!
DEFINITION. The operations every meaning shares: one accessor and one update for each table of State, instants and device
times (05_time), performance counters (21_counters), events and messages (20_faults R491, R492; 17_host R441), replies
(15_commands R367), and reads of the timetable image in force (02_timetable).
-/

namespace Sys2Proof.Machine

/-! ### Accessors -/

/-- A logical port. -/
def State.port (s : State) (lp : Nat) : Port := tget Port.init s.ports lp
/-- A logical port changed. -/
def State.modPort (s : State) (lp : Nat) (f : Port → Port) : State := { s with ports := tmod Port.init s.ports lp f }
/-- A port macro. -/
def State.macro_ (s : State) (m : Nat) : Macro := tget Macro.init s.macros m
/-- A port macro changed. -/
def State.modMacro (s : State) (m : Nat) (f : Macro → Macro) : State := { s with macros := tmod Macro.init s.macros m f }
/-- An egress queue. -/
def State.queue (s : State) (q : Nat) : QueueState := tget QueueState.init s.buf.queues q
/-- An egress queue changed. -/
def State.modQueue (s : State) (q : Nat) (f : QueueState → QueueState) : State :=
  { s with buf := { s.buf with queues := tmod QueueState.init s.buf.queues q f } }
/-- An ingress group. -/
def State.group (s : State) (g : Nat) : GroupState := tget GroupState.init s.buf.groups g
/-- An ingress group changed. -/
def State.modGroup (s : State) (g : Nat) (f : GroupState → GroupState) : State :=
  { s with buf := { s.buf with groups := tmod GroupState.init s.buf.groups g f } }
/-- The egress side of a logical port. -/
def State.egr (s : State) (lp : Nat) : EgressPort := tget EgressPort.init s.buf.egress lp
/-- The egress side of a logical port changed. -/
def State.modEgr (s : State) (lp : Nat) (f : EgressPort → EgressPort) : State :=
  { s with buf := { s.buf with egress := tmod EgressPort.init s.buf.egress lp f } }
/-- The data of a pointer cell: 64 little-endian slots, the next pointer cell in slot 0 and free cells in the others (11_pool
R278). -/
def pointerData (next : Nat) (others : List Nat) : List Byte := (next :: others).flatMap (bytesLe 4)

/-- The end of a bank's free list (11_pool R278). -/
def listEnd : Nat := 0xFFFFFFFF

/-- A cell as the manager leaves it at cold reset (11_pool R281): of every 64 rows of a bank the first is a pointer cell that carries the
other 63, and it points to the next 64 rows (log entry 8). -/
def builtCell (c : Nat) : CellRec :=
  if c / 64 % 64 = 0 then
    let d := pointerData (if c + 4096 < 1048576 then c + 4096 else listEnd) ((List.range 63).map fun i => c + 64 * (i + 1))
    { data := d, count := 256, next := 0, last := false, crc := crc32c d }
  else CellRec.init
/-- A cell. -/
def State.cell (s : State) (c : Nat) : CellRec := tget (builtCell c) s.buf.cells c
/-- A requester. -/
def State.req (s : State) (r : Nat) : Requester := tget Requester.init s.pool.reqs r
/-- A requester changed. -/
def State.modReq (s : State) (r : Nat) (f : Requester → Requester) : State :=
  { s with pool := { s.pool with reqs := tmod Requester.init s.pool.reqs r f } }
/-- A bank's free list. -/
def State.bank (s : State) (b : Nat) : Bank := tget (Bank.init b) s.pool.banks b
/-- A bank's free list changed. -/
def State.modBank (s : State) (b : Nat) (f : Bank → Bank) : State :=
  { s with pool := { s.pool with banks := tmod (Bank.init b) s.pool.banks b f } }
/-- A feed's runtime state. -/
def State.feed (s : State) (f : Nat) : FeedState := tget FeedState.init s.arb.feeds f
/-- A feed's runtime state changed. -/
def State.modFeed (s : State) (n : Nat) (f : FeedState → FeedState) : State :=
  { s with arb := { s.arb with feeds := tmod FeedState.init s.arb.feeds n f } }
/-- A drawer. -/
def State.drawer (s : State) (d : Nat) : Drawer := tget Drawer.init s.cab.drawers d
/-- A drawer changed. -/
def State.modDrawer (s : State) (d : Nat) (f : Drawer → Drawer) : State :=
  { s with cab := { s.cab with drawers := tmod Drawer.init s.cab.drawers d f } }
/-- An evidence class. -/
def State.evClass (s : State) (c : Nat) : EvClass := tget EvClass.init s.cab.classes c
/-- An evidence class changed. -/
def State.modEvClass (s : State) (c : Nat) (f : EvClass → EvClass) : State :=
  { s with cab := { s.cab with classes := tmod EvClass.init s.cab.classes c f } }
/-- A DRAM channel. -/
def State.chan (s : State) (k : Nat) : Chan := tget Chan.init s.cab.chans k
/-- A DRAM channel changed. -/
def State.modChan (s : State) (k : Nat) (f : Chan → Chan) : State :=
  { s with cab := { s.cab with chans := tmod Chan.init s.cab.chans k f } }
/-- A key slot: 0 owner, 1 to 4 K1 to K4, 5 and 6 S1 and S2. -/
def State.key (s : State) (k : Nat) : KeySlot := tget KeySlot.init s.cmd.keys k
/-- A key slot changed. -/
def State.modKey (s : State) (k : Nat) (f : KeySlot → KeySlot) : State :=
  { s with cmd := { s.cmd with keys := tmod KeySlot.init s.cmd.keys k f } }
/-- A host command ring. -/
def State.cmdRing (s : State) (n : Nat) : CmdRing := tget CmdRing.init s.cmd.rings n
/-- A host command ring changed. -/
def State.modCmdRing (s : State) (n : Nat) (f : CmdRing → CmdRing) : State :=
  { s with cmd := { s.cmd with rings := tmod CmdRing.init s.cmd.rings n f } }
/-- The number of a command port. -/
def portNum : CmdPort → Nat
  | .cp0 => 0 | .cp1 => 1 | .cp2 => 2 | .cp3 => 3
/-- A command context. -/
def State.ctx (s : State) (p : CmdPort) : Ctx := tget Ctx.init s.ucode.ctxs (portNum p)
/-- A command context changed. -/
def State.modCtx (s : State) (p : CmdPort) (f : Ctx → Ctx) : State :=
  { s with ucode := { s.ucode with ctxs := tmod Ctx.init s.ucode.ctxs (portNum p) f } }
/-- A DMA ring. -/
def State.dma (s : State) (r : Nat) : DmaRing := tget DmaRing.init s.host.rings r
/-- A DMA ring changed. -/
def State.modDma (s : State) (r : Nat) (f : DmaRing → DmaRing) : State :=
  { s with host := { s.host with rings := tmod DmaRing.init s.host.rings r f } }
/-- A function's configuration. -/
def State.fn (s : State) (n : Nat) : FnCfg := tget FnCfg.init s.host.fns n
/-- A function's configuration changed. -/
def State.modFn (s : State) (n : Nat) (f : FnCfg → FnCfg) : State :=
  { s with host := { s.host with fns := tmod FnCfg.init s.host.fns n f } }
/-- An instance. -/
def State.inst (s : State) (n : Nat) : Inst := tget Inst.init s.insts n
/-- An instance changed. -/
def State.modInst (s : State) (n : Nat) (f : Inst → Inst) : State := { s with insts := tmod Inst.init s.insts n f }
/-- An event source. -/
def State.evt (s : State) (k : Nat) : EvtSrc := tget EvtSrc.init s.evts k
/-- An event source changed. -/
def State.modEvt (s : State) (k : Nat) (f : EvtSrc → EvtSrc) : State := { s with evts := tmod EvtSrc.init s.evts k f }
/-- A temperature sensor. -/
def State.sensor (s : State) (k : Nat) : Sensor := tget Sensor.init s.mon.sensors k
/-- A temperature sensor changed. -/
def State.modSensor (s : State) (k : Nat) (f : Sensor → Sensor) : State :=
  { s with mon := { s.mon with sensors := tmod Sensor.init s.mon.sensors k f } }
/-- A voltage monitor. -/
def State.volt (s : State) (k : Nat) : Volt := tget Volt.init s.mon.volts k
/-- A voltage monitor changed. -/
def State.modVolt (s : State) (k : Nat) (f : Volt → Volt) : State :=
  { s with mon := { s.mon with volts := tmod Volt.init s.mon.volts k f } }
/-- A sample record. -/
def State.sample (s : State) (p : Nat) : Sample := tget Sample.init s.pmc.samples p
/-- A sample record changed. -/
def State.modSample (s : State) (p : Nat) (f : Sample → Sample) : State :=
  { s with pmc := { s.pmc with samples := tmod Sample.init s.pmc.samples p f } }
/-- A quad. -/
def State.quad (s : State) (q : Nat) : Quad := s.tables.quads.getD q Quad.init
/-- A quad changed. -/
def State.modQuad (s : State) (q : Nat) (f : Quad → Quad) : State :=
  { s with tables := { s.tables with quads := s.tables.quads.modify q f } }
/-- Something that leaves the device. -/
def State.emit (s : State) (o : Out) : State := { s with out := o :: s.out }
/-- The free value that comes next, and the state with the counter advanced (log entry 1). -/
def State.takeFree (s : State) : Nat × State := (s.freeCtr, { s with freeCtr := s.freeCtr + 1 })

/-! ### Instants and device times (05_time) -/

/-- The block has reached an instant of the round: the clock hand never goes back (log entry 2). -/
def State.at_ (s : State) (at8 : Nat) : State := { s with off8 := max s.off8 at8 }

/-- ps in a round (02_timetable R30). -/
def roundPs : Nat := 409600

/-- The present instant, in ps from the start of round 0. -/
def State.nowPs (s : State) : Nat := s.tt.round.toNat * roundPs + s.off8 * 125

/-! ### Requests of the Cabinet's sources (14_dram R349 to R351) -/

/-- Units of 64 bytes that a channel serves in a 1 µs interval: from its one sixteenth of the 664 GB/s of all sources (13_cabinet Table
13.14; log entry 113). -/
def intervalUnits : Nat := 648

/-- A source's share of an interval in whole units (14_dram R349, Table 14.3): the real-time port (0), the host (1), replay (2), capture (3)
and D0 service (4). -/
def shareUnits (src : Nat) : Nat := if src = 0 then 390 else if src = 1 then 125 else if src = 4 then 7 else 62

/-- Requests that wait in a channel. -/
def Chan.waiting (c : Chan) : Nat := (c.queues.map fun q => q.2.length).sum

/-- Up to `n` requests of a source served, and what is left of a budget. -/
def Chan.serveSource (x : Chan × Nat) (src n : Nat) : Chan × Nat :=
  let q := tget [] x.1.queues src
  let k := min (min n x.2) q.length
  ({ x.1 with queues := tset [] x.1.queues src (q.drop k) }, x.2 - k)

/-- The oldest `n` requests served, whatever their source. -/
def Chan.serveOldest (c : Chan) (n : Nat) : Chan :=
  let all := (c.queues.flatMap (·.2)).insertionSort (· ≤ ·)
  match (all.take n).getLast? with
  | none => c
  | some last => { c with queues := (List.range 5).foldl (fun t k => tmod [] t k fun q => q.filter fun a => decide (last < a)) c.queues }

/-- One interval's service (14_dram R349, R350): the shares in their order, then the requests that remain in the order of acceptance; in
panic the real-time port first until its queue is empty. -/
def Chan.interval (panic : Bool) (c : Chan) : Chan :=
  let x := Chan.serveSource (c, intervalUnits) 0 (if panic then intervalUnits else shareUnits 0)
  let x := [1, 2, 3, 4].foldl (fun x k => Chan.serveSource x k (shareUnits k)) x
  x.1.serveOldest x.2

/-- The service of `n` intervals. -/
def Chan.serve (panic : Bool) : Nat → Chan → Chan
  | 0, c => c
  | n + 1, c => (c.interval panic).serve panic n

/-- A channel's service up to an instant: no interval longer than its requests last changes anything. -/
def Chan.serveTo (c : Chan) (panic : Bool) (ps : Nat) : Chan :=
  let n := ps / 10 ^ 6
  { c.serve panic (min (n - c.servedTo) c.waiting) with servedTo := n }

/-- A request of a source for one 64-byte unit accepted into its channel (14_dram R349, R351); a channel out of service takes none
(R356). A real-time write that finds its queue full has waited for the oldest one's service (log entry 113). -/
def State.request (s : State) (src a : Nat) : State :=
  let n := s.cab.accepted
  { s with cab := { s.cab with
    accepted := n + 1
    chans := tmod Chan.init s.cab.chans (a / 256 % 16) fun c =>
      if c.st = .outOfService then c
      else
        let c := c.serveTo s.cab.panic s.nowPs
        let q := tget [] c.queues src
        { c with queues := tset [] c.queues src ((if src = 0 ∧ 1024 ≤ q.length then q.drop 1 else q) ++ [n]) } } }

/-- Requests of a source for every unit of a range. -/
def State.requests (s : State) (src a len : Nat) : State :=
  (List.range ((a % 64 + len + 63) / 64)).foldl (fun (s : State) i => s.request src (a / 64 * 64 + 64 * i)) s

/-- Every channel's service up to the present instant. -/
def State.serveChans (s : State) : State :=
  (List.range 16).foldl (fun (s : State) k => s.modChan k fun c => c.serveTo s.cab.panic s.nowPs) s

/-- The real-time queue of a channel has room for a record (14_dram R349). -/
def State.realTimeRoom (s : State) (k : Nat) : Bool :=
  decide ((tget [] ((s.chan k).serveTo s.cab.panic s.nowPs).queues 0).length < 1024)

/-- Every accepted request of every channel completed (14_dram R359). -/
def State.completeRequests (s : State) : State :=
  (List.range 16).foldl (fun (s : State) k => s.modChan k fun c => { c with queues := [], servedTo := s.nowPs / 10 ^ 6 }) s

/-- The end of the round in force, in ps: an event without an instant of its own is due when its deadline lies before it. -/
def State.roundEnd (s : State) : Nat := (s.tt.round.toNat + 1) * roundPs

/-- The clock hand moved on to a deadline of this round, when an event without an instant of its own falls at it (log entry
2). -/
def State.reach (s : State) (deadline : Nat) : State :=
  { s with off8 := max s.off8 (min 3276 ((deadline - s.tt.round.toNat * roundPs + 124) / 125)) }

/-- A deadline that falls in the round in force or has passed. -/
def State.due (s : State) (deadline : Nat) : Bool := decide (deadline < s.roundEnd)

/-- The rate word's advance per cycle, in 2^-48 ns: 1 ns + freq_adj (05_time R123). -/
def State.rate48 (s : State) : Int := (2 ^ 48 : Int) + s.time.freqAdj

/-- What a slew adds over a time counted in 1/40 of a cycle; its final cycle carries the residue (05_time R133). -/
def Slew.gain48 (w : Slew) (c40 : Nat) : Int :=
  if 40 * w.cyclesLeft ≤ c40 then w.perCycle * w.cyclesLeft + w.residue else w.perCycle * c40 / 40

/-- The advance of the time base over a time from its last cycle, in 1/40 of a cycle, at the rate and under the slew in force (05_time
R123, R124, R133). -/
def State.gain48 (s : State) (c40 : Nat) : Int :=
  s.rate48 * c40 / 40 + (match s.time.slew with | some w => w.gain48 c40 | none => 0)

/-- Time-island cycles that a round contains, from boundary `n` to the next (03_islands: 409.6 cycles of 1 ns). -/
def roundCycles (n : Nat) : Nat := 2048 * (n + 1) / 5 - 2048 * n / 5

/-- The time from the time island's last cycle to the boundary that began the round in force, in 1/40 ns. -/
def State.phase40 (s : State) : Nat := 8 * (2048 * s.tt.round.toNat % 5)

/-- Time since the time island's last cycle, in units of 1/40 ns: the boundary's phase and the instant in the round. -/
def State.sinceCycle40 (s : State) : Nat := s.phase40 + 5 * s.off8

/-- The time from the time island's last cycle to an instant in ps, in 1/40 ns. -/
def State.since40 (s : State) (ps : Nat) : Nat := s.phase40 + (ps - s.tt.round.toNat * roundPs) / 25

/-- The device time that a time from the last cycle gives, in 2^-16 ns (05_time R121, R123). -/
def State.timeAfter (s : State) (c40 : Nat) : DevTime := ((s.time.t48 + s.gain48 c40) / (2 ^ 32 : Int)).toNat

/-- The residence counter that a time from the last cycle gives, in 2^-16 ns and modulo 2^64 (05_time R124). -/
def State.resAfter (s : State) (c40 : Nat) : Nat :=
  (((s.time.res48 : Int) + s.gain48 c40) % (2 ^ 96 : Int)).toNat / 2 ^ 32

/-- The device time at the present instant, in 2^-16 ns (05_time R121, R123). -/
def State.devTime (s : State) : DevTime := s.timeAfter s.sinceCycle40

/-- The residence counter at the present instant, in 2^-16 ns and modulo 2^64 (05_time R124). -/
def State.resTime (s : State) : Nat := s.resAfter s.sinceCycle40

/-- The device time at an instant of the round in force or later, in ps, as the time base now runs. -/
def State.devTimeAt (s : State) (ps : Nat) : DevTime := s.timeAfter (s.since40 ps)

/-- The residence counter at such an instant. -/
def State.resTimeAt (s : State) (ps : Nat) : Nat := s.resAfter (s.since40 ps)

/-- A captured timestamp: the resolution is 0.125 ns (05_time R122). -/
def stampOf (t : DevTime) : DevTime := t / 2 ^ 13 * 2 ^ 13

/-- The captured timestamp of the present instant. -/
def State.stamp (s : State) : DevTime := stampOf s.devTime

/-- 2^-16 ns in a second. -/
def secUnits : Nat := 10 ^ 9 * 65536

/-- The 96-bit layout of a device time (05_time Table 5.1). -/
def timeImg (t : DevTime) : Nat :=
  t % 65536 + (t / 65536 % 10 ^ 9) * 2 ^ 16 + (t / secUnits % 2 ^ 48) * 2 ^ 48

/-- The device time that a 96-bit layout holds. -/
def timeOfImg (v : Nat) : DevTime := fld v 48 48 * secUnits + fld v 16 32 * 65536 + fld v 0 16

/-- A device time as 12 octets (05_time R121). -/
def timeBytes (t : DevTime) : List Byte := bytesLe 12 (timeImg t)

/-- The seconds of a device time. -/
def secOf (t : DevTime) : Nat := t / secUnits

/-- The unapplied remainder of a slew after `cycles` more cycles, in 2^-16 ns (05_time R133). -/
def Slew.remainder (w : Slew) (cycles : Nat) : Int :=
  if w.cyclesLeft ≤ cycles then 0 else (w.perCycle * (w.cyclesLeft - cycles : Nat) + w.residue) / (2 ^ 32 : Int)

/-- The unapplied remainder of the slew in progress (05_time R133). -/
def State.slewRemainder (s : State) : Int :=
  match s.time.slew with
  | some w => w.remainder (s.sinceCycle40 / 40)
  | none => 0

/-- A slew is in progress (05_time R133, Table 5.8): its last cycle has not passed. -/
def State.slewing (s : State) : Bool :=
  match s.time.slew with
  | some w => decide (s.sinceCycle40 < 40 * w.cyclesLeft)
  | none => false

/-- The device time at the boundary that began the round in force. -/
def State.boundaryTime (s : State) : DevTime := s.timeAfter s.phase40

/-- The device time at the start of a round to come, at the rate in force (02_timetable R71; 19_pair R469). -/
def State.roundStartTime (s : State) (n : Nat) : DevTime := s.timeAfter (s.phase40 + (n - s.tt.round.toNat) * 16384)

/-- The instant of the round in force, in 0.125 ns, at which the residence counter has advanced by a span, in 2^-16 ns, since a value
(05_time R134): none when that falls in a later round. -/
def State.resHand (s : State) (since span : Nat) : Option Nat :=
  let gone := (s.resAfter s.phase40 + 2 ^ 64 - since % 2 ^ 64) % 2 ^ 64
  let rate := (s.rate48 + (match s.time.slew with | some w => w.perCycle | none => 0)).toNat
  let k := ceilDiv ((span - gone) * 2 ^ 35) (max 1 rate)
  let reached (k : Nat) : Bool := decide (span ≤ (s.resAfter (s.phase40 + 5 * k) + 2 ^ 64 - since % 2 ^ 64) % 2 ^ 64)
  (if gone < 2 ^ 63 then [k, k + 1, k + 2] else []).find? fun k => decide (k < 3277) && reached k

/-- The clock hand moved on to that instant. -/
def State.handTo (s : State) (k : Nat) : State := { s with off8 := max s.off8 (min 3276 k) }

/-! ### Ports and macros (04_line) -/

/-- The macro of a logical port. -/
def macroOf (lp : Nat) : Nat := lp / 8
/-- The pipeline that serves a logical port (01_structure Table 1.1). -/
def pipeOf (lp : Nat) : Nat := lp / 32
/-- The quad of a pipeline. -/
def quadOf (p : Nat) : Nat := p / 4
/-- Lanes per port of a macro mode (04_line Table 4.1). -/
def lanesOf (mode : Nat) : Nat := 8 / 2 ^ mode
/-- The position of a mode exists (04_line Table 4.1). -/
def positionExists (mode j : Nat) : Bool := decide (j < 2 ^ mode)
/-- The logical port of a position. -/
def lpOf (m mode j : Nat) : Nat := 8 * m + lanesOf mode * j
/-- A logical port that the configured mode defines (04_line R90). -/
def State.portExists (s : State) (lp : Nat) : Bool :=
  decide (lp < 512) && lp % 8 % lanesOf (s.macro_ (macroOf lp)).mode.toNat == 0
/-- The logical ports of a macro. -/
def State.macroPorts (s : State) (m : Nat) : List Nat :=
  (List.range (2 ^ (s.macro_ m).mode.toNat)).map (lpOf m (s.macro_ m).mode.toNat)
/-- The port is UP. -/
def State.isUp (s : State) (lp : Nat) : Bool := (s.port lp).st == .up
/-- The logical ports that are UP. -/
def State.upPorts (s : State) : List Nat := (List.range 512).filter s.isUp
/-- A macro has a port UP. -/
def State.macroUp (s : State) (m : Nat) : Bool := (List.range 8).any fun j => s.isUp (8 * m + j)
/-- A field of a port's configuration block (04_line Table 4.5). -/
def State.pcfg (s : State) (lp lo w : Nat) : Nat := fld (s.port lp).cfg lo w
/-- ps per octet of line time, times 8, at a macro's mode: 10, 20, 40, 80 ps per octet (04_line R90). -/
def psPerByte (mode : Nat) : Nat := 10 * 2 ^ mode
/-- The mode of a logical port's macro. -/
def State.modeOf (s : State) (lp : Nat) : Nat := (s.macro_ (macroOf lp)).mode.toNat
/-- One count of a port statistic (04_line Table 4.8): the offset in the table is 8 times the index. -/
def State.stat (s : State) (lp off : Nat) (n : Nat := 1) : State :=
  s.modPort lp fun p => { p with stats := tmod 0 p.stats (off / 8) (· + BitVec.ofNat 64 n) }
/-- One count of a management-port statistic (04_line R120). -/
def State.mgmtStat (s : State) (off : Nat) (n : Nat := 1) : State :=
  { s with mgmt := { s.mgmt with stats := tmod 0 s.mgmt.stats (off / 8) (· + BitVec.ofNat 64 n) } }

/-! ### Messages and events (20_faults R491, R492; 17_host R441) -/

/-- MSI-X vectors of a function (17_host Table 17.1). -/
def msixVectors (fn : Nat) : Nat := if fn = 0 then 536 else 24

/-- An MSI-X message: sent when function and vector are unmasked, and otherwise left pending (17_host R441). A message
is not sent while the host is frozen (R419). -/
def State.msix (s : State) (fn vec : Nat) : State :=
  let f := s.fn fn
  if s.host.frozen then s
  else if f.fnMask || !marked f.unmasked vec then s.modFn fn fun f => { f with pendingVec := mark f.pendingVec vec }
  else s.emit (.msix fn vec)

/-- The function that an event source is routed to (20_faults Table 20.4). -/
def State.evtFn (s : State) (src : Nat) : Nat :=
  if src < 1024 then (s.dma src).owner.val
  else if src < 1088 then src - 1024
  else 0

/-- An event is raised (20_faults R492): the pending bit is set; with enable set one message is sent, unless one was sent
within the holdoff, in which case one is owed at its end. -/
def State.raise (s : State) (src : Nat) : State :=
  let e := s.evt src
  let s := s.modEvt src fun e => { e with pending := true }
  if e.enable then
    if (match e.until_ with | some t => decide (s.nowPs < t) | none => false) then s.modEvt src fun e => { e with owed := true }
    else
      let h := e.holdoff.toNat
      let s := s.modEvt src fun e => { e with until_ := if h = 0 then none else some (s.nowPs + h * 1000000), owed := false }
      s.msix (s.evtFn src) e.vector.toNat
  else s

/-! ### Performance counters (21_counters) -/

/-- Kinds of event code (21_counters Table 21.4): 0 not an event, 1 pipeline, 2 quad, 3 device. -/
def eventKind (code : Nat) : Nat :=
  if (1 ≤ code ∧ code ≤ 8) ∨ (0x10 ≤ code ∧ code ≤ 0x14) ∨ (0x18 ≤ code ∧ code ≤ 0x1C) ∨ (0x20 ≤ code ∧ code ≤ 0x24) ∨
    (0x28 ≤ code ∧ code ≤ 0x2B) then 1
  else if (0x40 ≤ code ∧ code ≤ 0x43) ∨ (0x48 ≤ code ∧ code ≤ 0x53) ∨ (0x58 ≤ code ∧ code ≤ 0x5D) ∨
    (0x60 ≤ code ∧ code ≤ 0x62) ∨ (0x68 ≤ code ∧ code ≤ 0x6C) then 2
  else if (0x80 ≤ code ∧ code ≤ 0x82) ∨ (0x88 ≤ code ∧ code ≤ 0x8A) ∨ (0x90 ≤ code ∧ code ≤ 0x96) ∨
    (0x98 ≤ code ∧ code ≤ 0x9A) then 3
  else 0

/-- A counter that is programmable: 0 to 7 of each pipeline (21_counters Table 21.1). -/
def isPipeCtr (k : Nat) : Bool := decide (k < 192) && decide (k % 12 < 8)
/-- A global counter. -/
def isGlobalCtr (k : Nat) : Bool := decide (192 ≤ k) && decide (k < 252)

/-- The event code of a configuration is not allowed to its counter (21_counters R504): code 0 counts nothing and is no
error; a programmable counter takes pipeline and quad events; a global counter takes every event, with a unit that the
event's kind has. -/
def cfgRejected (k cfg : Nat) : Bool :=
  let kind := eventKind (fld cfg 0 10)
  if fld cfg 0 10 = 0 then false
  else if kind = 0 then true
  else if isPipeCtr k then kind == 3
  else
    let u := fld cfg 16 8
    if kind = 1 then !(u < 16 || u == 255) else if kind = 2 then !((16 ≤ u && u < 20) || u == 255) else false

/-- A counter with a configuration in force counts an event of a unit (21_counters R504, R511): a pipeline event's unit
is its pipeline, a quad event's is 16 plus its quad. -/
def counts (k cfg code unit : Nat) : Bool :=
  bitAt cfg 10 &&
    (if isPipeCtr k && fld cfg 12 2 == 2 then code == 1 && unit == k / 12
     else !cfgRejected k cfg && fld cfg 0 10 == code &&
      (if isPipeCtr k then (if eventKind code = 1 then unit == k / 12 else unit == 16 + k / 48)
       else eventKind code == 3 || fld cfg 16 8 == 255 || fld cfg 16 8 == unit))

/-- A counter counts `n` more; on a wrap its overflow bit is set, its event raised and its capture armed (21_counters
R500, R509 to R511). `slot` is the slot of the count since round 0, for the skid of R510. -/
def State.addCtr (s : State) (k n : Nat) : State :=
  let old := tget 0 s.pmc.ctr k
  let cfg := (tget 0 s.pmc.inForce k).toNat
  let s := { s with pmc := { s.pmc with ctr := tset 0 s.pmc.ctr k (old + BitVec.ofNat 48 n) } }
  if old.toNat + n < 2 ^ 48 then s
  else
    let s := { s with pmc := { s.pmc with ovf := mark s.pmc.ovf k } }
    let s := if bitAt cfg 11 && (isPipeCtr k || isGlobalCtr k) then s.raise (if k < 192 then 1336 + k / 12 else 1352) else s
    let slotNow := s.tt.round.toNat * 2048 + tget 0 s.pmc.slotsBegun (k / 12)
    if isPipeCtr k && fld cfg 12 2 == 1 then
      if (s.sample (k / 12)).valid then s.modSample (k / 12) fun r => { r with lost := r.lost + 1 }
      else s.modSample (k / 12) fun r => { r with armSample := some (slotNow + 64, k) }
    else if isPipeCtr k && fld cfg 12 2 == 2 then
      if (s.sample (k / 12)).valid then s.modSample (k / 12) fun r => { r with lost := r.lost + 1 }
      else s.modSample (k / 12) fun r => { r with armTag := some k }
    else s

/-- An event of Table 21.4 occurs `n` times in a unit: every counter that selects it counts (21_counters R504). -/
def State.tick (s : State) (code : Nat) (unit : Nat := 0) (n : Nat := 1) : State :=
  s.pmc.inForce.foldl (fun s c => if counts c.1 c.2.toNat code unit then s.addCtr c.1 n else s) s

/-! ### The timetable image in force (02_timetable) -/

/-- The image's section of a type: its offset in the image (02_timetable R52, Table 2.7). -/
def sectionOff (img : List Byte) (typ : Nat) : Option Nat :=
  ((List.range (byteAt img 0x0C)).find? fun i => byteAt img (0x40 + 16 * i) == typ).map fun i => leAt img (0x44 + 16 * i) 4

/-- A little-endian entry of `w` octets at an offset of a section; zero when the section is absent. -/
def sectionAt (img : List Byte) (typ off w : Nat) : Nat :=
  match sectionOff img typ with
  | some o => leAt img (o + off) w
  | none => 0

/-- A slot map entry (02_timetable R55, Table 2.9). -/
def slotEntry (img : List Byte) (p slot : Nat) : Nat := sectionAt img 3 ((p * 2048 + slot) * 4) 4
/-- The mode PORT_PLAN records for a macro (02_timetable R54). -/
def planMode (img : List Byte) (m : Nat) : Nat := fld (sectionAt img 2 (4 * m) 4) 0 2
/-- A rule window's bank mask (02_timetable R56). -/
def ruleBanks (img : List Byte) (q c w : Nat) : Nat := sectionAt img 4 (((q * 1024 + c) * 16 + w) * 4) 4
/-- A bank window's stream (02_timetable R57). -/
def bankWindow (img : List Byte) (c b : Nat) : Nat := sectionAt img 5 ((c * 64 + b) * 4) 4
/-- A maintenance slot's use (02_timetable R58). -/
def serviceUse (img : List Byte) (q t c : Nat) : Nat := sectionAt img 6 ((q * 4 + t) * 1024 + c) 1
/-- A bit of a TRANSITION bitmap at a section offset (02_timetable R60). -/
def transBit (img : List Byte) (off i : Nat) : Bool := bitAt (sectionAt img 7 (off + i / 8) 1) (i % 8)
/-- A port's entry of port_switch (02_timetable Table 2.11). -/
def portSwitch (img : List Byte) (lp : Nat) : Nat := sectionAt img 7 (0x2040 + 4 * lp) 4
/-- An image's identity (02_timetable Table 2.6). -/
def imageId (img : List Byte) : List Byte := sliceAt img 0x10 16

/-- The macro's mode agrees with the active image's PORT_PLAN (02_timetable R70); with no active image no port comes up. -/
def State.planAgrees (s : State) (m : Nat) : Bool :=
  match s.tt.active with
  | some img => planMode img m == (s.macro_ m).mode.toNat
  | none => false

/-! ### Configured tables (15_commands Table 15.11; 08_tables R220) -/

/-- The key of an entry in the tables of State: table code, generation (templates only) and index. -/
def tkey (code gen idx : Nat) : Nat := (code * 2 + gen) * 2 ^ 32 + idx

/-- The table code of a key. -/
def tkeyCode (k : Nat) : Nat := k / 2 ^ 33

/-- What an entry reads as after cold reset: the buffer control block (10_buffer R259), the queue configuration (R259), the
queue scheduling entries (12_egress R297), and zero for every other table. -/
def tblInit (k : Nat) : Nat :=
  let code := tkeyCode k
  if code = 0x0D then 983040 + 1 * 2 ^ 160
  else if code = 0x0E then 7 * 4
  else if code = 0x17 then k % 16 + 24 * 2 ^ 16
  else 0

/-- An entry of a table of images. -/
def ent (t : Tbl Nat) (k : Nat) : Nat := tget (tblInit k) t k
/-- A table of images with an entry written. -/
def setEnt (t : Tbl Nat) (k v : Nat) : Tbl Nat := tset (tblInit k) t k v
/-- The working copy of an entry in the buffer island or the arbiter. -/
def State.work (s : State) (code idx : Nat) : Nat := ent s.tables.work (tkey code 0 idx)
/-- The master copy of an entry in D0. -/
def State.master (s : State) (code gen idx : Nat) : Nat := ent s.tables.master (tkey code gen idx)
/-- A quad's replica of an entry. -/
def State.replica (s : State) (q code gen idx : Nat) : Nat := ent (s.quad q).rep (tkey code gen idx)
/-- The unit of D0 content that holds the master of an entry (14_dram R341; its place is open, log entry 1). -/
def d0Unit (k : Nat) : Nat := Config.d0Place k % 2 ^ 29 / 64 * 64

/-- The second copy of a unit of D0 content (14_dram R341). -/
def d0Second (a : Nat) : Nat := a ^^^ 0x20000800

/-- The service port that carries the accesses to a table (02_timetable R40): 0 station, with the learning control block, 1 prefix,
2 session, 3 rule memory, with the template store; the automata store has write ports of its own (01_structure R22). -/
def servicePort (code : Nat) : Option Nat :=
  if code = 1 ∨ code = 0x0A then some 0 else if code = 2 then some 1 else if code = 3 then some 2
  else if code = 4 ∨ code = 5 then some 3 else none

/-- The instant of a pipeline cycle of the round in force, in 0.125 ns. -/
def cycleAt8 (cycle : Nat) : Nat := cycle * 16 / 5

/-- The buffer cycle of the present instant, counted from round 0. -/
def State.nowBuffer (s : State) : Nat := s.nowPs / 800

/-- The instant of a buffer cycle of the round in force, in 0.125 ns. -/
def bufferAt8 (cycle : Nat) : Nat := cycle * 32 / 5

/-- A bank window belongs to a stream in an image (02_timetable R44, R57). -/
def windowIs (img : List Byte) (cycle bank typ idx : Nat) : Bool :=
  let w := bankWindow img cycle bank
  fld w 0 4 == typ && fld w 4 12 == idx

/-- A bank window of the round may be used by a stream: by the image in force, or by the old one while heads or ports still follow it
(02_timetable R44, R67, R68); without an image no window is assigned and any serves (log entry 111). -/
def State.windowOk (s : State) (cycle bank typ idx : Nat) : Bool :=
  match s.tt.active with
  | none => true
  | some img => windowIs img cycle bank typ idx || s.tt.old.any fun o => windowIs o cycle bank typ idx

/-- The banks of a stream's windows, in the order in which the windows come from a buffer cycle of the round on (11_pool R280). -/
def State.streamBanks (s : State) (cycle typ idx : Nat) : List Nat :=
  match s.tt.active with
  | none => []
  | some img =>
    (List.range 512).flatMap fun i => (List.range 64).filter fun b => windowIs img ((cycle + i) % 512) b typ idx

/-- A pipeline cycle of the round in force, counted from round 0. -/
def State.absCycle (s : State) (cycle : Nat) : Nat := s.tt.round.toNat * 1024 + cycle

/-- The first pipeline cycle, counted from round 0, that begins at the present instant or behind it. -/
def State.nowCycle (s : State) : Nat := (s.nowPs + 399) / 400

/-- The use of a cycle of a service port (02_timetable R41, R58): by the image in force, less the maintenance slots of round N that its
transition section withholds (R60, R67); without an active image every cycle is a command-write slot (22_board R526). -/
def State.slotUse (s : State) (q t cycle : Nat) : Nat :=
  match s.tt.active with
  | none => 1
  | some img =>
    let c := cycle % 1024
    if (s.tt.switchRound.map (·.toNat)) = some (cycle / 1024) ∧ transBit img 0x2840 ((q * 4 + t) * 1024 + c) then 0
    else serviceUse img q t c

/-- The first cycle from `c` on that has a use; `n` bounds the search. -/
def State.slotFrom (s : State) (q t use : Nat) : Nat → Nat → Nat
  | 0, c => c
  | n + 1, c => if s.slotUse q t c = use then c else s.slotFrom q t use n (c + 1)

/-- The next slot of a use that a service port still has free (02_timetable R40, R41, R69): image checks and R67 leave one in any two
rounds. -/
def State.nextSlot (s : State) (q t use : Nat) : Nat :=
  s.slotFrom q t use 2048 (max s.nowCycle (tget 0 (s.quad q).svc (8 * t + use)))

/-- An entry of a replica written so that lookups of cycles behind `cycle` find it (02_timetable R40). Where a write of a later
cycle to the same entry is on its way already, only what that write replaces changes. -/
def Quad.put (u : Quad) (cycle k v : Nat) : Quad :=
  match (u.hist.filter fun w => w.key == k && decide (cycle < w.cycle)).getLast? with
  | none => { u with rep := setEnt u.rep k v, hist := { cycle := cycle, key := k, old := ent u.rep k } :: u.hist }
  | some w =>
    { u with hist := u.hist.flatMap fun x =>
        if x = w then [{ x with old := v }, { cycle := cycle, key := k, old := w.old }] else [x] }

/-- The replica as lookups issued in a cycle find it: without the writes of that cycle and of later ones (02_timetable R37, R40). -/
def Quad.asOf (u : Quad) (cycle : Nat) : Tbl Nat :=
  u.hist.foldl (fun t w => if cycle ≤ w.cycle then setEnt t w.key w.old else t) u.rep

/-- A quad's replica as lookups issued in a cycle find it. -/
def State.repAt (s : State) (q cycle : Nat) : Tbl Nat := (s.quad q).asOf cycle

/-- A quad's replica of an entry written at a cycle. -/
def State.setReplica (s : State) (q code gen idx cycle v : Nat) : State := s.modQuad q fun u => u.put cycle (tkey code gen idx) v

/-- A quad's replica of an entry written in the next free slot of a use of its table's service port, each slot counted under the event
of that use (21_counters Table 21.4); without an active image no maintenance slot is taken (22_board R526). -/
def State.slotWrite (s : State) (q use event k v : Nat) : State :=
  match servicePort (tkeyCode k) with
  | none => s.modQuad q fun u => u.put s.nowCycle k v
  | some t =>
    let c := s.nextSlot q t use
    let s := s.modQuad q fun u => { u.put c k v with svc := tset 0 u.svc (8 * t + use) (c + 1) }
    if s.tt.active.isSome then s.tick event (16 + q) else s

/-- A maintenance slot of a use begins in a cycle of the round in force: none where the image in force gives the service port no such slot
there, or where the port has used it (02_timetable R40, R41). The answer is the state with the slot taken. -/
def State.maintenance (s : State) (q t use cycle : Nat) : Option State :=
  let c := s.absCycle cycle
  if s.tt.active.isNone ∨ s.slotUse q t c ≠ use ∨ c < tget 0 (s.quad q).svc (8 * t + use) then none
  else some ((s.at_ (cycleAt8 cycle)).modQuad q fun u => { u with svc := tset 0 u.svc (8 * t + use) (c + 1) })

/-- The next `n` slots of a use of a service port taken, each counted under the event of that use. -/
def State.spendSlots (s : State) (q t use event : Nat) : Nat → State
  | 0 => s
  | n + 1 =>
    let c := s.nextSlot q t use
    ((s.modQuad q fun u => { u with svc := tset 0 u.svc (8 * t + use) (c + 1) }).tick event (16 + q)).spendSlots q t use event n

/-- Entries of a replica written by a command, one after the other (08_tables R220). -/
def State.commandWrites (s : State) (q : Nat) (rows : List (Nat × Nat)) : State :=
  rows.foldl (fun (s : State) x => s.slotWrite q 1 0x68 x.1 x.2) s

/-- What the master keeps of a written entry: last_seen of a station record exists only in replicas (08_tables R222). -/
def masterImage (k v : Nat) : Nat := if tkeyCode k = 1 then setFld v 112 16 0 else v

/-- A write of D0 service to both copies of the unit that holds the master of an entry (14_dram R341, Table 14.3). -/
def State.d0Write (s : State) (k : Nat) : State := (s.request 4 (d0Unit k)).request 4 (d0Second (d0Unit k))

/-- Writes made in every copy of configured state: in the master at once, and in each quad's replica in its next command-write slots
(08_tables R220). `rows` gives the rows that a copy takes, in their order. -/
def State.writeCopies (s : State) (rows : Tbl Nat → List (Nat × Nat)) : State :=
  let s := (rows s.tables.master).foldl (fun (s : State) x => s.d0Write x.1) s
  let s := { s with tables := { s.tables with
    master := (rows s.tables.master).foldl (fun t x => setEnt t x.1 (masterImage x.1 x.2)) s.tables.master } }
  (List.range 4).foldl (fun (s : State) q => s.commandWrites q (rows (s.quad q).rep)) s

/-- A master written. -/
def State.setMaster (s : State) (code gen idx v : Nat) : State :=
  ({ s with tables := { s.tables with master := setEnt s.tables.master (tkey code gen idx) v } } : State).d0Write (tkey code gen idx)
/-- A working copy written. -/
def State.setWork (s : State) (code idx v : Nat) : State :=
  { s with tables := { s.tables with work := setEnt s.tables.work (tkey code 0 idx) v } }

/-! ### Replies (15_commands R367) -/

/-- A reply of a command. -/
def mkReply (opcode : BitVec 16) (status detail : Nat) (tag : BitVec 64) (results : List Byte) : Reply :=
  { opcode := opcode, status := BitVec.ofNat 8 status, detail := BitVec.ofNat 8 detail, tag := tag,
    results := padTo 8 results }

/-- A reply as it stands on its transport (15_commands Table 15.5). -/
def replyBytes (r : Reply) : List Byte :=
  bytesLe 2 r.opcode.toNat ++ bytesLe 1 r.status.toNat ++ bytesLe 1 r.detail.toNat ++
    bytesLe 2 (r.results.length / 8) ++ bytesLe 2 0 ++ bytesLe 8 r.tag.toNat ++ r.results

/-! ### Host memory as the device writes it (17_host; 18_instances R456) -/

/-- The page a write touches is placed in the active dirty-page log of its instance, unless one of its 64 most recent
pages (18_instances R456). -/
def State.logPage (s : State) (inst page : Nat) : State :=
  let i := s.inst inst
  match i.dirty with
  | none => s
  | some l =>
    if i.dirtyFilter.contains page then s.modInst inst fun i => { i with dirtyFilter := page :: unmark i.dirtyFilter page }
    else
      let s := s.modInst inst fun i => { i with dirtyFilter := (page :: i.dirtyFilter).take 64 }
      if 8 * (l.count + 1) ≤ 2 ^ l.log2 then
        let s := { s with host := { s.host with mem := memWrite s.host.mem (l.base.toNat + 8 * l.count) (bytesLe 8 (page * 4096)) } }
        s.modInst inst fun i => { i with dirty := some { l with count := l.count + 1 } }
      else s.modInst inst fun i => { i with dirty := some { l with overflow := true } }

/-- The pages that `n` octets from `a` touch. -/
def pagesOf (a n : Nat) : List Nat := if n = 0 then [] else (List.range ((a + n - 1) / 4096 + 1 - a / 4096)).map (· + a / 4096)

/-- Octets written to host memory with the requester ID of a function: nothing is issued while the host is frozen
(17_host R419), and every page is logged (18_instances R456). -/
def State.hostWrite (s : State) (inst a : Nat) (bs : List Byte) : State :=
  if s.host.frozen then s
  else
    let s := { s with host := { s.host with mem := memWrite s.host.mem a bs } }
    (pagesOf a bs.length).foldl (fun s p => s.logPage inst p) s

/-- Octets of host memory. -/
def State.hostRead (s : State) (a n : Nat) : List Byte := memReadN s.host.mem a n

end Sys2Proof.Machine
end

