-- ==== Sys2Proof/Machine/Image.lean ====
section
/-!
DEFINITION. The timetable image: its layout and its check (02_timetable R51 to R61).
-/

namespace Sys2Proof.Machine

/-! ### The image check (02_timetable R61) -/

/-- Little-endian words of four octets. -/
def words32 : List Byte → List Nat
  | a :: b :: c :: d :: r => (a.toNat + 256 * b.toNat + 65536 * c.toNat + 16777216 * d.toNat) :: words32 r
  | _ => []

/-- A list with the number of each element. -/
def numbered {α : Type} (n : Nat) : List α → List (Nat × α)
  | [] => []
  | x :: r => (n, x) :: numbered (n + 1) r

/-- A section table entry: type, offset, length, CRC and the reserved field (02_timetable Table 2.7). -/
structure SectionRow where
  typ : Nat
  off : Nat
  len : Nat
  crc : Nat
  resv : Nat
deriving DecidableEq, Repr

/-- The section table (02_timetable R52). -/
def sectionTable (b : List Byte) : List SectionRow :=
  (List.range (byteAt b 0x0C)).map fun i =>
    { typ := byteAt b (0x40 + 16 * i), resv := leAt b (0x41 + 16 * i) 3, off := leAt b (0x44 + 16 * i) 4,
      len := leAt b (0x48 + 16 * i) 4, crc := leAt b (0x4C + 16 * i) 4 }

/-- The length that a section type has (02_timetable Table 2.8). -/
def sectionLenOk (typ len : Nat) : Bool :=
  if typ = 1 then len == 512 else if typ = 2 then len == 256 else if typ = 3 then len == 131072
  else if typ = 4 then len == 262144 else if typ = 5 then len == 131072 else if typ = 6 then len == 16384
  else if typ = 7 then len == 12352 else if typ = 8 then decide (64 ≤ len) && decide (len ≤ 4096) && len % 64 == 0
  else false

/-- Sections in ascending order from `from_`, none overlapping, each within the image at a multiple of 64. -/
def sectionsPlaced (total : Nat) : Nat → List SectionRow → Bool
  | _, [] => true
  | from_, r :: rs => r.off % 64 == 0 && decide (from_ ≤ r.off) && decide (r.off + r.len ≤ total) &&
      sectionsPlaced total (r.off + r.len) rs

/-- The section table is well formed (02_timetable R52, R53; flag versus section 0x07). -/
def sectionsOk (b : List Byte) : Bool :=
  let n := byteAt b 0x0C
  let t := sectionTable b
  decide (6 ≤ n) && decide (n ≤ 8) && decide (0x40 + 16 * n ≤ b.length) &&
    (t.all fun r => sectionLenOk r.typ r.len) && sectionsPlaced b.length (0x40 + 16 * n) t &&
    decide ((t.map (·.typ)).Nodup) && ([1, 2, 3, 4, 5, 6].all fun k => t.any fun r => r.typ == k) &&
    ((t.any fun r => r.typ == 7) == bitAt (byteAt b 0x0D) 0)

/-- The octets of a section, empty when it is absent. -/
def sectionBytes (b : List Byte) (typ : Nat) : List Byte :=
  match (sectionTable b).find? fun r => r.typ == typ with
  | some r => sliceAt b r.off r.len
  | none => []

/-- Every section's CRC (02_timetable Table 2.7). -/
def sectionCrcsOk (b : List Byte) : Bool :=
  (sectionTable b).all fun r => (crc32c (sliceAt b r.off r.len)).toNat == r.crc

/-- The image_id that the content gives (02_timetable R61). -/
def computedId (b : List Byte) : List Byte :=
  (sha256 (patch (patch b 0x10 (List.replicate 16 0)) 0x3C (List.replicate 4 0))).take 16

/-- A slot map entry is legal for its pipeline under a plan (02_timetable Table 2.9, R61). -/
def slotEntryOk (plan : List Nat) (p w : Nat) : Bool :=
  let st := fld w 0 3
  let lp := fld w 3 9
  decide (1 ≤ st) && decide (st ≤ 4) && fld w 16 16 == 0 && fld w 12 2 != 3 && (fld w 14 2 == 0 || fld w 12 2 == 2) &&
    (if st = 1 then lp / 32 == p && lp % 8 % lanesOf (plan.getD (lp / 8) 0) == 0 else lp == 0)

/-- The slot counts of a pipeline under a plan (02_timetable R32, R33, Table 2.1). -/
def slotCountsOk (plan : List Nat) (p : Nat) (ws : List Nat) : Bool :=
  let n (t : Nat) := (ws.filter fun w => fld w 0 3 == t).length
  n 2 == 64 && n 3 == 16 && n 4 == 16 &&
    (List.range 4).all fun k =>
      let m := 4 * p + k
      let mode := plan.getD m 0
      (List.range (2 ^ mode)).all fun j =>
        (ws.filter fun w => fld w 0 3 == 1 && fld w 3 9 == lpOf m mode j).length == 488 / 2 ^ mode

/-- The slot map (02_timetable R55). -/
def slotMapOk (plan : List Nat) (ws : List Nat) : Bool :=
  (List.range 16).all fun p =>
    let row := (ws.drop (2048 * p)).take 2048
    row.all (slotEntryOk plan p) && slotCountsOk plan p row

/-- A bank window's entry (02_timetable R57). -/
def bankEntryOk (plan : List Nat) (i w : Nat) : Bool :=
  let st := fld w 0 4
  let x := fld w 4 12
  fld w 16 16 == 0 && decide (st ≤ 5) &&
    (if st = 1 then decide (x < 96)
     else if st = 2 ∨ st = 3 then decide (x < 512) && x % 8 % lanesOf (plan.getD (x / 8) 0) == 0
     else if st = 5 then x == i % 64
     else x == 0)

/-- A service port's maintenance slots (02_timetable R41, R58, Table 2.3). -/
def serviceOk (t : Nat) (uses : List Byte) : Bool :=
  let n (k : Nat) := (uses.filter fun b => b.toNat == k).length
  (uses.all fun b => decide (b.toNat ≤ 5)) && decide (64 ≤ n 1) && decide (16 ≤ n 3) && decide (32 ≤ n 5) &&
    (if t = 0 then decide (64 ≤ n 2) && decide (16 ≤ n 4) else n 2 == 0 && n 4 == 0)

/-- A certificate entry: the number that its 16 octets spell (02_timetable Table 2.10). -/
def certEntries (b : List Byte) : List Nat :=
  let c := sectionBytes b 1
  (List.range 30).map fun i => leAt c (16 + 16 * i) 16

/-- A certificate entry is one of the combinations of R59. -/
def certEntryOk (e : Nat) : Bool :=
  decide (fld e 0 8 ≤ 2) && decide (fld e 8 4 ≤ 3) && decide (fld e 12 4 ≤ 3) && decide (fld e 8 4 ≤ fld e 12 4) && fld e 96 32 == 0

/-- The field checks of the image (02_timetable R61). -/
def fieldsLegal (b : List Byte) : Bool :=
  let plan := words32 (sectionBytes b 2)
  let cert := sectionBytes b 1
  let svc := sectionBytes b 6
  let tr := sectionBytes b 7
  byteAt b 0x0D / 2 == 0 && leAt b 0x32 2 == 0 && leAt b 0x38 4 == 0 &&
    ((sectionTable b).all fun r => r.resv == 0) &&
    (plan.all fun w => decide (w < 4)) &&
    slotMapOk plan (words32 (sectionBytes b 3)) &&
    ((numbered 0 (words32 (sectionBytes b 5))).all fun x => bankEntryOk plan x.1 x.2) &&
    ((List.range 16).all fun k => serviceOk (k % 4) ((svc.drop (1024 * k)).take 1024)) &&
    byteAt cert 0 == 30 && allZero (sliceAt cert 1 15) && allZero (sliceAt cert 496 16) &&
    (certEntries b).all certEntryOk && decide (((certEntries b).map fun e => fld e 0 16).Nodup) &&
    (tr.isEmpty ||
      (sliceAt tr 0 16 == sliceAt b 0x20 16 && allZero (sliceAt tr 16 48) &&
        (words32 (sliceAt tr 0x2040 2048)).all fun w => fld w 12 19 == 0))

/-- Constants of Table 2.4 by speed code, in ps: rx_fec, mac_rx, W, G and tx_pcs. -/
def rxFecPs (c : Nat) : Nat := [62400, 74400, 98400, 146400].getD c 0
/-- mac_rx of Table 2.4. -/
def macRxPs (c : Nat) : Nat := [31200, 34400, 40800, 53600].getD c 0
/-- W of Table 2.4. -/
def slotWaitPs (c : Nat) : Nat := [3200, 4800, 8000, 14400].getD c 0
/-- G of Table 2.4. -/
def gearboxPs (c : Nat) : Nat := [560, 1120, 2240, 4480].getD c 0
/-- tx_pcs of Table 2.4. -/
def txPcsPs (c : Nat) : Nat := [14400, 16000, 19200, 25600].getD c 0
/-- The determinism window (02_timetable R49). -/
def windowPs (c : Nat) : Nat := 1840 + gearboxPs c
/-- The depth of a class in pipeline cycles (02_timetable Table 2.2). -/
def depthCycles (cls : Nat) : Nat := [96, 144, 272].getD cls 0
/-- The latency of a covered frame (02_timetable R48). -/
def latencyPs (cls i o : Nat) : Nat :=
  rxFecPs i + macRxPs i + slotWaitPs i + 400 * depthCycles cls + 63840 + gearboxPs o + txPcsPs o

/-- A certificate entry is no tighter than the device (02_timetable R61). -/
def certHolds (e : Nat) : Bool :=
  fld e 16 16 == depthCycles (fld e 0 8) && decide (latencyPs (fld e 0 8) (fld e 8 4) (fld e 12 4) ≤ fld e 32 32) &&
    decide (windowPs (fld e 12 4) ≤ fld e 64 32)

/-- The image check, in its order: the first failure's code of Table 2.12 (02_timetable R61). -/
def checkImage (b : List Byte) : Option Nat :=
  if leAt b 0 4 ≠ 0x54545753 then some 0x01
  else if leAt b 4 2 ≠ 3 ∨ 1 < leAt b 6 2 then some 0x02
  else if leAt b 0x0E 2 ≠ 0x5120 ∨ leAt b 0x30 2 ≠ 0x00B2 then some 0x03
  else if leAt b 8 4 ≠ b.length ∨ 2 ^ 20 < b.length ∨ b.length % 64 ≠ 0 then some 0x04
  else if !sectionsOk b then some 0x05
  else if !sectionCrcsOk b then some 0x06
  else if (crc32c (patch b 0x3C (List.replicate 4 0))).toNat ≠ leAt b 0x3C 4 then some 0x07
  else if computedId b ≠ imageId b then some 0x08
  else if !fieldsLegal b then some 0x09
  else if !(certEntries b).all certHolds then some 0x0A
  else none

end Sys2Proof.Machine
end

