-- ==== Sys2Proof/Machine/Guarantees.lean ====
section
/-!
DEFINITION. Which pipelines and ports an image makes unpredictable because it breaks a guarantee of Table 2.15 that the image check does
not look at (02_timetable R72, R74; 11_pool R279): spacing of slots, exclusive windows, pool windows, and the transition. Rule
placement is no ground: a rule outside a window's banks is not searched there, whatever set it belongs to (23_unchecked R533).
-/

namespace Sys2Proof.Machine

/-- A list cut into groups of n; the first argument bounds their number. -/
def groupsOf (n : Nat) : Nat → List Nat → List (List Nat)
  | 0, _ => []
  | k + 1, l => if l.isEmpty then [] else l.take n :: groupsOf n k (l.drop n)

/-- A pipeline's 2,048 slot map entries (02_timetable R55). -/
def slotRow (img : List Byte) (p : Nat) : List Nat := ((words32 (sectionBytes img 3)).drop (2048 * p)).take 2048

/-- The slots of an occupied row that are not occupied in truth read as none (entry 0, class A, no owner). -/
def keepSlots (keep : Nat → Nat → Bool) (row : List Nat) : List Nat :=
  (numbered 0 row).map fun x => if keep x.1 x.2 then x.2 else 0

/-- A slot's owner and class ceiling. -/
def entryPort (e : Nat) : Option Nat := if fld e 0 3 = 1 then some (fld e 3 9) else none

/-! ### Slot spacing (02_timetable R72) -/

/-- Heads released one every `d` tenths of a cycle from the cycle after any slot of the list on wait at most `w` cycles for a slot. -/
def spaced (d w : Nat) (slots : List Nat) : Bool :=
  let l := numbered 0 slots
  l.all fun x => l.all fun y => decide (y.1 ≤ x.1) || decide (y.2 ≤ x.2 + 1 + w + (y.1 - x.1 - 1) * d / 10)

/-- Tenths of a pipeline cycle between frames of 64 bytes at line rate (02_timetable Table 2.1): 0.84 ns at 800 Gb/s. -/
def releaseGap (mode : Nat) : Nat := 21 * 2 ^ mode

/-- The cycles of a port's slots in a row. -/
def portCycles (row : List Nat) (lp : Nat) : List Nat :=
  ((numbered 0 row).filter fun x => entryPort x.2 == some lp).map fun x => x.1 / 2

/-- A port of the pipeline can wait longer than W in steady state. -/
def spacingBroken (img : List Byte) (p : Nat) : Bool :=
  let row := slotRow img p
  ((row.filterMap entryPort).dedup).any fun lp =>
    let c := portCycles row lp
    let mode := planMode img (lp / 8)
    !spaced (releaseGap mode) (slotWaitPs mode / 400) (c ++ c.map (· + 1024))

/-! ### Exclusive windows (02_timetable R42, R43) -/

/-- Among the windows that start in one cycle, one of a pipeline's own (numbers that `own` names) conflicts with another. -/
def conflicts (own : Nat → Bool) (clash : Nat → Nat → Bool) (ws : List Nat) : Bool :=
  let l := numbered 0 ws
  l.any fun x => own x.1 && l.any fun y => y.1 != x.1 && clash x.2 y.2

/-- What each of a quad's four pipelines has in each cycle, joined. -/
def perQuad {α : Type} (row : Nat → List (List α)) : List (List α) :=
  List.zipWith (· ++ ·) (List.zipWith (· ++ ·) (row 0) (row 1)) (List.zipWith (· ++ ·) (row 2) (row 3))

/-- Which of a pipeline's four rule windows start in each cycle of the round, by the ceilings of the slots 72 cycles before for class B and
200 cycles before for class C (02_timetable Table 2.2, R38, R56). `before` is the row of the round before. -/
def windowsStart (before row : List (List Nat)) : List (List Bool) :=
  let back (k : Nat) := before.drop (1024 - k) ++ row.take (1024 - k)
  List.zipWith (fun b c => (List.range 2).flatMap fun l =>
    [decide (1 ≤ fld (b.getD l 0) 12 2), fld (c.getD l 0) 12 2 == 2]) (back 72) (back 200)

/-- The bank masks of a quad's rule windows that start in each cycle of the round. -/
def masksOf (img : List Byte) (q : Nat) (before row : Nat → List Nat) : List (List Nat) :=
  let masks := groupsOf 16 1024 (((words32 (sectionBytes img 4)).drop (16384 * q)).take 16384)
  let starts := perQuad fun k => windowsStart (groupsOf 2 1024 (before (4 * q + k))) (groupsOf 2 1024 (row (4 * q + k)))
  List.zipWith (List.zipWith fun m b => if b then m else 0) masks starts

/-- Two rule windows of the quad that start in one cycle name a common bank, one of them the pipeline's (02_timetable R42). -/
def banksClash (img : List Byte) (p : Nat) : Bool :=
  (masksOf img (quadOf p) (slotRow img) (slotRow img)).any (conflicts (fun i => i / 4 == p % 4) fun a b => a &&& b != 0)

/-- A slot has the ceiling C. -/
def isClassC (e : Nat) : Bool := fld e 12 2 == 2

/-- Among slots of one cycle of a quad, of which `mine` names the pipeline's, the class C work breaks R43. -/
def enginesBroken (mine : Nat → Bool) (c : List Nat) : Bool :=
  conflicts mine (fun a b => isClassC a && isClassC b && fld a 14 2 == fld b 14 2) c ||
    (decide (4 < (c.filter isClassC).length) && (numbered 0 c).any fun x => mine x.1 && isClassC x.2)

/-- A cycle of the quad starts class C work in more than four slots, or two of them name one engine, with a slot of the pipeline
among them (02_timetable R43). -/
def enginesClash (img : List Byte) (p : Nat) : Bool :=
  (perQuad fun k => groupsOf 2 1024 (slotRow img (4 * quadOf p + k))).any (enginesBroken fun i => i / 2 == p % 4)

/-! ### Pool service windows (11_pool R279) -/

/-- The bank windows of the image, by buffer cycle (02_timetable R57). -/
def imageBanks (img : List Byte) : List (List Nat) := groupsOf 64 512 (words32 (sectionBytes img 5))

/-- Some bank has fewer than 16 pool service windows in the round: the balance is broken for every stream (23_unchecked). -/
def poolShort (img : List Byte) : Bool :=
  let rows := imageBanks img
  (List.range 64).any fun b => decide ((rows.filter fun r => fld (r.getD b 0) 0 4 == 5).length < 16)

/-! ### The transition (02_timetable R60, R67, R68, R72) -/

/-- A port changes its place at a switch position of the image. -/
def switchAt (new : List Byte) (lp : Nat) : Option Nat :=
  let w := portSwitch new lp
  if bitAt w 31 then some (fld w 0 12) else none

/-- Old-image slots filled in round N + `r`: those of changed ports before their switch position. -/
def oldFilled (old new : List Byte) (r p : Nat) : List Nat :=
  keepSlots (fun s e => match entryPort e with
    | some lp => (switchAt new lp).any fun x => decide (2048 * r + s < x)
    | none => false) (slotRow old p)

/-- New-image slots filled in round N + `r`: those that are not withheld, of changed ports from their switch position on. -/
def newFilled (new : List Byte) (r p : Nat) : List Nat :=
  keepSlots (fun s e => !transBit new 0x40 (p * 4096 + 2048 * r + s) && match entryPort e with
    | some lp => (switchAt new lp).all fun x => decide (x ≤ 2048 * r + s)
    | none => true) (slotRow new p)

/-- A slot that both images fill. -/
def slotsTwice (old new : List Byte) (p : Nat) : Bool :=
  (List.range 2).any fun r => (List.zipWith (fun a b => a != 0 && b != 0) (oldFilled old new r p) (newFilled new r p)).any id

/-- What is behind a round: the slots of the old image that were filled before round N + `r`. -/
def oldBefore (old new : List Byte) : Nat → Nat → List Nat
  | 0 => slotRow old
  | r + 1 => oldFilled old new r

/-- New-image slots filled before round N + `r`: none before round N. -/
def newBefore (new : List Byte) : Nat → Nat → List Nat
  | 0 => fun _ => List.replicate 2048 0
  | r + 1 => newFilled new r

/-- A rule window of an old-image head and one of a new-image head start in one cycle and name a common bank, and one of them is the
pipeline's. -/
def transBanks (old new : List Byte) (p : Nat) : Bool :=
  let q := quadOf p
  (List.range 2).any fun r =>
    let a := masksOf old q (oldBefore old new r) (oldFilled old new r)
    let b := masksOf new q (newBefore new r) (newFilled new r)
    (List.zipWith (· ++ ·) a b).any fun ws =>
      let l := numbered 0 ws
      l.any fun x => decide (x.1 < 16) && l.any fun y =>
        decide (16 ≤ y.1) && (x.1 / 4 == p % 4 || (y.1 - 16) / 4 == p % 4) && x.2 &&& y.2 != 0

/-- Class C work of old-image and new-image slots of one cycle breaks R43 together. -/
def transEngines (old new : List Byte) (p : Nat) : Bool :=
  let q := quadOf p
  (List.range 2).any fun r =>
    let cycles (row : Nat → List Nat) := perQuad fun k => groupsOf 2 1024 (row (4 * q + k))
    (List.zipWith (· ++ ·) (cycles (oldFilled old new r)) (cycles (newFilled new r))).any
      (enginesBroken fun i => i % 8 / 2 == p % 4)

/-- The changed port's backlog exceeds its transition FIFO of 48 frames of 64 bytes: the slots it fills, from the old ones of the round
before N on, do not keep up with line rate. -/
def backlogBroken (old new : List Byte) (lp : Nat) : Bool :=
  let p := pipeOf lp
  let at_ (r : Nat) (c : Nat) := c + 1024 * r
  let c := (portCycles (slotRow old p) lp).map (at_ 0) ++
    ((List.range 2).flatMap fun r =>
      ((portCycles (oldFilled old new r p) lp ++ portCycles (newFilled new r p) lp).insertionSort (· ≤ ·)).map (at_ (r + 1))) ++
    (portCycles (slotRow new p) lp).map (at_ 3)
  let d := releaseGap (planMode new (lp / 8))
  !spaced d (48 * d / 10) c

/-- The bank windows in which heads of old-image passes are written after the boundary: those of hand-off streams in the buffer cycles
up to the depth of their class and the six cycles of the hand-off (02_timetable R44, R67), where a new-image entry of another
stream may be used. The pipelines and the ports that both entries name. -/
def transWindows (old new : List Byte) : List (Nat × Nat) :=
  ((List.zipWith (List.zipWith fun a b => (a, b)) (imageBanks old) (imageBanks new)).zipIdx.flatMap fun x =>
    x.1.filter fun w =>
      let k := fld w.1 4 12 % 6 / 2
      let used := fld w.2 0 4 != 0 && w.1 != w.2 &&
        (fld w.2 0 4 != 1 || decide (depthCycles (fld w.2 4 12 % 6 / 2) / 2 ≤ x.2))
      fld w.1 0 4 == 1 && decide (x.2 < depthCycles k / 2 + 6) && used)

/-- The pipelines that a bank window's entry names: that of the hand-off, or that of the port. -/
def windowPipe (w : Nat) : List Nat :=
  if fld w 0 4 = 1 then [fld w 4 12 / 6] else if fld w 0 4 = 2 ∨ fld w 0 4 = 3 then [pipeOf (fld w 4 12)] else []

/-- The port that a bank window's entry names. -/
def windowPort (w : Nat) : List Nat := if fld w 0 4 = 2 ∨ fld w 0 4 = 3 then [fld w 4 12] else []

/-! ### The affected pipelines and ports (02_timetable R74) -/

/-- The pipelines whose forwarding results an image makes unpredictable; `old` is the image that a WARM activation replaces. -/
def brokenPipes (old : Option (List Byte)) (new : List Byte) : List Nat :=
  (List.range 16).filter fun p =>
    spacingBroken new p || banksClash new p || enginesClash new p || poolShort new ||
      match old with
      | none => false
      | some o =>
        slotsTwice o new p || transBanks o new p || transEngines o new p ||
          ((List.range 32).any fun i => (switchAt new (32 * p + i)).isSome && backlogBroken o new (32 * p + i)) ||
          (transWindows o new).any fun w => (windowPipe w.1 ++ windowPipe w.2).contains p

/-- The ports that conflicting bank windows name. -/
def brokenPorts (old : Option (List Byte)) (new : List Byte) : List Nat :=
  match old with
  | none => []
  | some o => ((transWindows o new).flatMap fun w => windowPort w.1 ++ windowPort w.2).dedup

end Sys2Proof.Machine
end

