-- ==== Sys2Proof/Machine/Gates.lean ====
section
/-!
DEFINITION. Gate control lists: positions in a cycle of device time, open spans, the fit of a frame, pending lists and what
a step does to them (12_egress R305 to R309). Times are device times in 2^-16 ns.
-/

namespace Sys2Proof.Machine

/-- base_time (12_egress Table 12.4). -/
def gateBase (g : Image) : DevTime := timeOfImg (fld g 0 96)
/-- entry_count (12_egress Table 12.4). -/
def gateCount (g : Image) : Nat := fld g 128 7
/-- gate_enable (12_egress Table 12.4). -/
def gateEnabled (g : Image) : Bool := bitAt g 135
/-- gate_states of an entry (12_egress Table 12.5). -/
def gateStates (g : Image) (k : Nat) : Nat := fld g (256 + 64 * k) 16
/-- interval_ns of an entry (12_egress Table 12.5). -/
def gateInterval (g : Image) (k : Nat) : Nat := fld g (256 + 64 * k + 32) 32
/-- The cycle time, in ns (12_egress R305). -/
def gateCycleNs (g : Image) : Nat := ((List.range (gateCount g)).map (gateInterval g)).sum
/-- The cycle time, in 2^-16 ns. -/
def gateCycle (g : Image) : Nat := gateCycleNs g * 65536

/-- The entry in which a position of the cycle falls, and what is left of that entry. -/
def gateEntryAt (g : Image) : Nat → Nat → Nat → Nat × Nat
  | 0, k, _ => (k, 0)
  | n + 1, k, pos =>
    let w := gateInterval g k * 65536
    if pos < w then (k, w - pos) else gateEntryAt g n (k + 1) (pos - w)

/-- The position of a device time in the list's cycle (12_egress R309). -/
def gatePos (g : Image) (t : DevTime) : Nat :=
  (((t : Int) - (gateBase g : Int)) % ((max 1 (gateCycle g) : Nat) : Int)).toNat

/-- The gate of a traffic class is open at a device time. -/
def gateOpenAt (g : Image) (t : DevTime) (tc : Nat) : Bool :=
  !gateEnabled g || bitAt (gateStates g (gateEntryAt g (gateCount g) 0 (gatePos g t)).1) tc

/-- The open time of a class from an entry on, over at most `n` entries, wrapping into the next cycle. -/
def gateOpenFrom (g : Image) (tc : Nat) : Nat → Nat → Nat
  | 0, _ => 0
  | n + 1, k =>
    if bitAt (gateStates g (k % max 1 (gateCount g))) tc then
      gateInterval g (k % max 1 (gateCount g)) * 65536 + gateOpenFrom g tc n (k + 1)
    else 0

/-- How long the gate of a class stays open from a device time; none when it never closes (12_egress R307). -/
def gateOpenSpan (g : Image) (t : DevTime) (tc : Nat) : Option Nat :=
  if !gateEnabled g then none
  else if (List.range (gateCount g)).all fun k => bitAt (gateStates g k) tc then none
  else
    let e := gateEntryAt g (gateCount g) 0 (gatePos g t)
    if bitAt (gateStates g e.1) tc then some (e.2 + gateOpenFrom g tc (gateCount g) (e.1 + 1)) else some 0

/-- The gate of a class stays open over a span from a device time. -/
def gateHolds (g : Option Image) (t : DevTime) (tc span : Nat) : Bool :=
  match g with
  | none => true
  | some g => match gateOpenSpan g t tc with | none => true | some w => decide (span ≤ w)

/-- A frame fits (12_egress R307): the gate of its class stays open from t0 over the span it needs; beyond the switch time
of a pending list the test goes by that list. -/
def State.fits (s : State) (lp : Nat) (t0 : DevTime) (tc span : Nat) : Bool :=
  let e := s.egr lp
  match e.gatesNext with
  | some (g, x) =>
    let x := match e.gatesNextRound with | some r => s.roundStartTime r.toNat | none => x
    if t0 + span ≤ x then gateHolds e.gates t0 tc span
    else if t0 < x then gateHolds e.gates t0 tc (x - t0) && gateHolds (some g) x tc (t0 + span - x)
    else gateHolds (some g) t0 tc span
  | none => gateHolds e.gates t0 tc span

/-- A span is longer than every continuous open time of a class in the list in force (12_egress R308). -/
def EgressPort.blocks (e : EgressPort) (tc span : Nat) : Bool :=
  match e.gates with
  | none => false
  | some g =>
    gateEnabled g &&
      (!(List.range (gateCount g)).all fun k => bitAt (gateStates g k) tc) &&
      (List.range (gateCount g)).all fun k => decide (gateOpenFrom g tc (gateCount g) k < span)

/-- The gate of a class of a port is open now. -/
def State.gateOpen (s : State) (lp tc : Nat) : Bool :=
  match (s.egr lp).gates with
  | none => true
  | some g => gateOpenAt g s.devTime tc

/-- The entry in force and the start of its cycle, as a device time gives them. -/
def EgressPort.position (e : EgressPort) (t : DevTime) : EgressPort :=
  match e.gates with
  | none => e
  | some g =>
    if gateEnabled g then
      { e with entry := (gateEntryAt g (gateCount g) 0 (gatePos g t)).1 % 64, cycleStart := t - gatePos g t }
    else { e with entry := 0, cycleStart := 0 }

/-- The switch time X of a list for the device time at the second boundary behind its write (12_egress R306). -/
def gateX (g : Image) (t : DevTime) : DevTime :=
  if t ≤ gateBase g then gateBase g else gateBase g + ceilDiv (t - gateBase g) (gateCycle g) * gateCycle g

/-- A written list becomes the port's pending list (12_egress R306): its X is that of the second round boundary from now, foreseen at the
rate in force until that boundary comes. -/
def State.armGates (s : State) (lp : Nat) (g : Image) : State :=
  let n := s.tt.round.toNat + 2
  if gateEnabled g then
    s.modEgr lp fun e =>
      { e with gatesNext := some (g, gateX g (s.roundStartTime n)), gatesNextRound := none, gatesArm := some (BitVec.ofNat 64 n) }
  else s.modEgr lp fun e => { e with gatesNext := some (g, 0), gatesNextRound := some (BitVec.ofNat 64 n), gatesArm := none }

/-- The X of a list whose second boundary is the one that began the round in force, by the device time at that boundary (12_egress R306). -/
def EgressPort.takeX (e : EgressPort) (round : BitVec 64) (t : DevTime) : EgressPort :=
  match e.gatesNext with
  | some (g, _) => if e.gatesArm = some round then { e with gatesNext := some (g, gateX g t) } else e
  | none => e

/-- The pending lists of every port whose X the boundary of this round gives. -/
def State.settleGates (s : State) : State :=
  { s with buf := { s.buf with egress := s.buf.egress.map fun x => (x.1, x.2.takeX s.tt.round s.boundaryTime) } }

/-- A pending list whose switch time has come is in force, and its position is taken (12_egress R306). -/
def State.gateSwitch (s : State) (lp : Nat) : State :=
  let e := s.egr lp
  match e.gatesNext with
  | none => s
  | some (g, x) =>
    let known := match e.gatesArm with | some r => decide (r ≤ s.tt.round) | none => true
    let now := match e.gatesNextRound with | some r => decide (r ≤ s.tt.round) | none => known && decide (x ≤ s.devTime)
    if now then
      s.modEgr lp fun e =>
        ({ e with gates := some g, gatesNext := none, gatesNextRound := none, gatesArm := none } : EgressPort).position s.devTime
    else s

/-- A frame picked before a step at a boundary, whose gate stayed open from its first bit over its line time by the time before the step,
runs over the gate's close by the time after it (12_egress R309). -/
def gateOverruns (g : Image) (tc line : Nat) (t0 before after : DevTime) : Bool :=
  let from_ := max t0 before
  let left := t0 + line - from_
  decide (0 < left) && gateHolds (some g) t0 tc line && !gateHolds (some g) (after + (from_ - before)) tc left

/-- The line time of a picked frame, in 2^-16 ns. -/
def State.lineTime (s : State) (lp : Nat) (w : TxFrame) : Nat :=
  (w.estimate + 20) * psPerByte (s.modeOf lp) * 65536 / 1000

/-- A step at a boundary: every port's list goes on from the position of the new time, an X not yet reached is compared with it, and each
frame started before the boundary that its gate's close now overtakes is counted in gate_overrun (12_egress R309). -/
def State.stepGates (s : State) (before after : DevTime) : State :=
  (List.range 512).foldl (fun (s : State) lp =>
    let e := s.egr lp
    let n := match e.gates with
      | some g => (e.wire.filter fun w => gateOverruns g (w.queue % 16) (s.lineTime lp w) w.t0 before after).length
      | none => 0
    if e.gates.isNone then s
    else s.modEgr lp fun e => ({ e with gateOverrun := e.gateOverrun + BitVec.ofNat 64 n } : EgressPort).position after) s

end Sys2Proof.Machine
end

