-- ==== Sys2Proof/Machine/CabOps.lean ====
section
/-!
DEFINITION. What the Cabinet core does to drawers: the address map and void units (14_dram R340, R341, R356), record
positions, gap records and seals (13_cabinet R319 to R329), staging with its panic (13_cabinet R323; 14_dram R350),
system records and command audit records (13_cabinet R321, R322).
-/

namespace Sys2Proof.Machine

/-- The channel of a Cabinet byte address (14_dram R340). -/
def chanOf (a : Nat) : Nat := a / 256 % 16

/-- A channel out of service: its units are void (14_dram R356). -/
def State.chanOut (s : State) (k : Nat) : Bool := (s.chan k).st == .outOfService

/-- A unit on a channel out of service (14_dram R356). -/
def State.voidUnit (s : State) (a : Nat) : Bool := s.chanOut (chanOf a)

/-- Octets written to the Cabinet outside D0's masters, whole 64-byte units at a time; a write to a void unit is discarded
and counted in cab_void_access, and a write replaces an uncorrectable unit (14_dram R353, R356). -/
def State.cabWrite (s : State) (a : Nat) (bs : List Byte) : Nat → State
  | 0 => s
  | n + 1 =>
    if bs.isEmpty then s
    else
      let k := 64 - a % 64
      let s := if s.voidUnit a then s.tick 0x91
        else { s with cab := { s.cab with mem := memWrite s.cab.mem a (bs.take k), bad := unmark s.cab.bad (a / 64) } }
      s.cabWrite (a + k) (bs.drop k) n

/-- Octets written to the Cabinet. -/
def State.cabPut (s : State) (a : Nat) (bs : List Byte) : State := s.cabWrite a bs (bs.length / 64 + 2)

/-- The Cabinet is recording: an EVIDENCE drawer is OPEN and the device is not in its safe state (13_cabinet, after R322). -/
def State.openEvidence (s : State) : List Nat :=
  (List.range 64).filter fun d => (s.drawer d).st == .opened && (s.drawer d).typ == 1
/-- See `openEvidence`. -/
def State.recording (s : State) : Bool := !s.openEvidence.isEmpty && !s.flt.safe

/-- Classes mapped to a drawer (13_cabinet R316). -/
def State.classesOf (s : State) (d : Nat) : List Nat := (List.range 8).filter fun c => (s.evClass c).drawer == some d

/-- A drawer's capacity in records (13_cabinet, after R318). -/
def Drawer.capacity (d : Drawer) : Nat := d.size / 64

/-- The address of a drawer's position. -/
def Drawer.addr (d : Drawer) (p : Nat) : Nat := d.base + p % d.capacity * 64

/-- A STOP drawer is full when its write position reaches read_pos + C − 64 (13_cabinet R323). -/
def Drawer.full (d : Drawer) : Bool := !d.wrap && decide (d.rpos + d.capacity - 64 ≤ d.wpos)

/-- The next position whose unit is not void, among the next 64 (14_dram R356): four records to a 256-byte block and
sixteen channels, so that none is found only when every channel is out of service. -/
def State.nextPos (s : State) (d : Drawer) : Option Nat :=
  ((List.range 64).map (d.wpos + ·)).find? fun p => !s.voidUnit (d.addr p)

/-- The common header of a record (13_cabinet R319). -/
def recHeader (typ pos : Nat) : List Byte := bytesLe 8 (typ + 16 + pos % 2 ^ 56 * 256)

/-- A position may be taken: always in a WRAP drawer; in a STOP drawer up to read_pos + C for seals, gap and system
records, and while the drawer is not full for frame and drop records (13_cabinet R323). -/
def Drawer.mayTake (d : Drawer) (own : Bool) (p : Nat) : Bool :=
  d.wrap || (if own then decide (p < d.rpos + d.capacity) else decide (p < d.rpos + d.capacity - 64))

/-- A record placed at a position: accepted from the real-time port and written whole, write_pos past it, and in a WRAP drawer read_pos
moved along (13_cabinet R325, R329; 14_dram R351). -/
def State.placeAt (s : State) (d p : Nat) (bytes : List Byte) : State :=
  let s := (s.request 0 ((s.drawer d).addr p)).cabPut ((s.drawer d).addr p) bytes
  s.modDrawer d fun w => { w with wpos := p + 1, rpos := if w.wrap then max w.rpos (p + 1 - w.capacity) else w.rpos }

/-- A record other than a seal, with 56 octets after its header, placed in a drawer; nothing when it has no room. -/
def State.placeRecord (s : State) (d typ : Nat) (own : Bool) (body : List Byte) : Option State :=
  let w := s.drawer d
  match s.nextPos w with
  | none => none
  | some p =>
    if w.mayTake own p then
      let bytes := recHeader typ p ++ fit 56 body
      some ((s.placeAt d p bytes).modDrawer d fun w => { w with run := w.run ++ [bytes] })
    else none

/-- The 56 octets of a class's gap record (13_cabinet Table 13.3). -/
def gapBody (c : Nat) (e : EvClass) : List Byte :=
  timeBytes e.firstTs ++ timeBytes e.lastTs ++ bytesLe 8 e.pendLost ++ bytesLe 8 e.pendUnrec ++
    bytesLe 8 (c + 8 * b1 e.dropUnrec) ++ bytesLe 8 0

/-- One more system record lost (13_cabinet R324). -/
def State.sysLost (s : State) : State := { s with cab := { s.cab with systemLost := s.cab.systemLost + 1 } }

/-- Records in staging (13_cabinet Table 13.8). -/
def State.stagingUsed (s : State) : Nat := s.cab.staging.length

/-- Staging entries taken: records, and entries held at the pick (13_cabinet R323). -/
def State.entriesTaken (s : State) : Nat := s.cab.staging.length + (s.cab.held.map (·.2)).sum

/-- The gap record of a class with a loss, written into its drawer through an entry of staging, the system reserve among them; one without
an entry or without room is lost and counted, and its counts are kept for the next (13_cabinet R323, R324). -/
def State.writeGap (s : State) (d c : Nat) : State :=
  let e := s.evClass c
  if e.pendLost = 0 then s
  else if 524288 ≤ s.entriesTaken then s.sysLost
  else
    match s.placeRecord d 3 true (gapBody c e) with
    | some s => s.modEvClass c fun e => { e with pendLost := 0, pendUnrec := 0, firstTs := 0, lastTs := 0 }
    | none => s.sysLost

/-- A seal of a kind in an EVIDENCE drawer: the gap records of its classes first, then the seal over the records since
the last (13_cabinet R324, R327, R328). -/
def State.sealDrawer (s : State) (d kind : Nat) : State :=
  let s := (s.classesOf d).foldl (fun s c => s.writeGap d c) s
  let w := s.drawer d
  match s.nextPos w with
  | none => s
  | some p =>
    if !w.mayTake true p then s
    else
      let idx := if kind = 0 then 0 else w.sealIndex + 1
      let prev := if kind = 0 then sha256 (bytesLe 16 s.env.deviceId.toNat ++ bytesLe 16 w.label.toNat) else w.mac
      let head := recHeader 4 p ++ timeBytes s.devTime ++
        bytesLe 4 (w.run.length + kind % 8 * 2 ^ 13 + w.sealKey * 2 ^ 16 + d * 2 ^ 18) ++ bytesLe 8 idx
      let mac := hmac256 ((s.key (4 + w.sealKey)).key.getD []) (prev ++ w.run.flatten ++ head)
      (s.placeAt d p (head ++ mac)).modDrawer d fun w =>
        { w with sealIndex := idx, mac := mac, run := [], spos := p + 1, sealRes := s.resTime }

/-- Classes of a drawer whose loss awaits a gap record. -/
def State.pendingGaps (s : State) (d : Nat) : Nat := ((s.classesOf d).filter fun c => 0 < (s.evClass c).pendLost).length

/-- A COUNT seal once 4,096 records have followed the last seal, the gap records that it writes first among them
(13_cabinet R324, R327; log entry 17). -/
def State.countSeal (s : State) (d : Nat) : State :=
  if 4096 ≤ (s.drawer d).run.length + s.pendingGaps d then s.sealDrawer d 1 else s

/-- Positions from `a` up to `b` of a drawer that are not void (14_dram R356). -/
def State.usable (s : State) (d : Drawer) (a b : Nat) : Nat :=
  if b ≤ a then 0
  else
    let ok (p : Nat) : Bool := !s.voidUnit (d.base + p % 64 * 64)
    (b - a) / 64 * ((List.range 64).filter ok).length + ((List.range ((b - a) % 64)).filter fun i => ok (a + i)).length

/-- Positions of a STOP drawer that frame and drop records may still take (13_cabinet R323; 14_dram R356). -/
def State.recordRoom (s : State) (d : Nat) : Nat :=
  let w := s.drawer d
  s.usable w w.wpos (w.rpos + w.capacity - 64)

/-- Positions of a drawer that are promised: to copies picked under DROP_UNRECORDED and to their staged records (13_cabinet R323). -/
def State.promised (s : State) (d : Nat) : Nat :=
  tget 0 s.cab.held d + (s.cab.staging.filter fun r => r.drawer == d && r.kept).length

/-- A drawer has a position beside those promised (13_cabinet R323; log entry 18). -/
def State.spareRoom (s : State) (d : Nat) : Bool := (s.drawer d).wrap || decide (s.promised d < s.recordRoom d)

/-- A staging entry outside the system reserve is free (13_cabinet R323). -/
def State.entryFree (s : State) : Bool := decide (s.entriesTaken < 524288 - 4096)

/-- The overflow test of a class's drawer (13_cabinet R323): no entry outside the reserve is free, or the drawer is full. -/
def State.overflows (s : State) (d : Nat) : Bool := !s.entryFree || (s.drawer d).full

/-- A copy picked under DROP_UNRECORDED can take its staging entry, with a position for its record (13_cabinet R323). -/
def State.canHold (s : State) (d : Nat) : Bool := !s.overflows d && s.spareRoom d

/-- Panic raised at 262,144 records and cleared below 131,072 (14_dram R350), with its event and its count; up to then each channel has
served its sources by the state before. -/
def State.updatePanic (s : State) : State :=
  if !s.cab.panic && decide (262144 ≤ s.stagingUsed) then
    let s := s.serveChans
    ({ s with cab := { s.cab with panic := true } } : State).tick 0x90 |>.raise 1282
  else if s.cab.panic && decide (s.stagingUsed < 131072) then
    let s := s.serveChans
    { s with cab := { s.cab with panic := false } }
  else s

/-- A record of a class is lost: counted, kept for its gap record, and the class-loss event raised (13_cabinet R323, R324). -/
def State.classLoss (s : State) (c : Nat) (ts : DevTime) (unrec : Bool) : State :=
  (s.modEvClass c fun e =>
    { e with lost := e.lost + 1, pendLost := e.pendLost + 1, pendUnrec := e.pendUnrec + b1 unrec,
             firstTs := if e.pendLost = 0 then ts else e.firstTs, lastTs := ts }).raise 1281

/-- An evidence-marked frame of an unmapped class: counted once, however many records its copies and targets would have made
(13_cabinet R316). -/
def State.unmappedFrame (s : State) (fid : Nat) : State :=
  if s.cab.unmappedFrames.contains fid then s
  else { s with cab := { s.cab with unmapped := s.cab.unmapped + 1, unmappedFrames := mark s.cab.unmappedFrames fid } }

/-- A frame has left the device. -/
def State.forgetFrame (s : State) (fid : Nat) : State :=
  { s with cab := { s.cab with unmappedFrames := unmark s.cab.unmappedFrames fid } }

/-- The staging entry that a copy holds since its pick is given back (13_cabinet R323). -/
def State.unhold (s : State) (h : Option Nat) : State :=
  match h with
  | some d => { s with cab := { s.cab with held := tmod 0 s.cab.held d (· - 1) } }
  | none => s

/-- A frame or drop record of frame `fid`, of an evidence class, taken into staging. `heldIn` names the drawer in which the copy took its
entry at the pick (DROP_UNRECORDED): while that drawer is OPEN the record is its own, although the class may have moved since (13_cabinet
R316, R323). An overflow loses the record, and so does the safe state, which records nothing. -/
def State.stageRecord (s : State) (typ c fid : Nat) (body : List Byte) (ts : DevTime) (heldIn : Option Nat) : State :=
  let keptIn := heldIn.filter fun h => (s.drawer h).st == .opened
  let s := s.unhold heldIn
  match keptIn.or (s.evClass c).drawer with
  | none => s.unmappedFrame fid
  | some d =>
    if s.flt.safe || (keptIn.isNone && s.overflows d) then s.classLoss c ts false
    else
      let r : Staged :=
        { drawer := d, typ := typ, cls := if h : c < 8 then some ⟨c, h⟩ else none, body := body, tsIn := ts, kept := keptIn.isSome }
      ({ s with cab := { s.cab with staging := s.cab.staging ++ [r] } } : State).updatePanic

/-- One system record staged for one drawer; lost when the reserve is spent (13_cabinet R323, R324). -/
def State.stageSystemIn (s : State) (typ : Nat) (body : List Byte) (d : Nat) : State :=
  if 524288 ≤ s.entriesTaken then s.sysLost
  else
    let r : Staged := { drawer := d, typ := typ, cls := none, body := body, tsIn := 0, kept := false }
    ({ s with cab := { s.cab with staging := s.cab.staging ++ [r] } } : State).updatePanic

/-- A system record goes to every EVIDENCE drawer that is OPEN, and is lost while the Cabinet is not recording
(13_cabinet, after R322). -/
def State.systemRecord (s : State) (typ : Nat) (body : List Byte) : State :=
  if s.recording then s.openEvidence.foldl (fun s d => s.stageSystemIn typ body d) s else s.sysLost

/-- One staged record written to its drawer (13_cabinet R323, R324, R329): the class's gap record first; a frame or drop
record that finds no position but promised ones is lost as overflow, a system record is counted in cab_system_lost. -/
def State.writeStaged (s : State) (r : Staged) : State :=
  match r.cls with
  | some c =>
    let s := (s.writeGap r.drawer c.val).countSeal r.drawer
    if r.kept || s.spareRoom r.drawer then
      match s.placeRecord r.drawer r.typ false r.body with
      | some s => s.countSeal r.drawer
      | none => s.classLoss c.val r.tsIn false
    else s.classLoss c.val r.tsIn false
  | none =>
    match s.placeRecord r.drawer r.typ true r.body with
    | some s => s.countSeal r.drawer
    | none => s.sysLost

/-- The oldest record of staging written to the Cabinet. -/
def State.drainOne (s : State) : State :=
  match s.cab.staging with
  | [] => s
  | r :: rest => ({ s with cab := { s.cab with staging := rest } } : State).writeStaged r |>.updatePanic

/-- Every staged record that a test selects, written in order; the others stay. -/
def State.drainWhere (s : State) (p : Staged → Bool) : State :=
  let take := s.cab.staging.filter p
  let keep := s.cab.staging.filter fun r => !p r
  (take.foldl (fun (s : State) r => s.writeStaged r) { s with cab := { s.cab with staging := keep } }).updatePanic

/-- The command audit record of a command's final reply (13_cabinet R322, Table 13.6): outcome 0 OK, 1 PARTIAL,
2 ABANDONED. -/
def State.audit (s : State) (w : Waiter) (outcome : Nat) : State :=
  let inst := if w.port = .cp0 then w.inst.val else 0
  s.systemRecord 6 (timeBytes s.devTime ++
    bytesLe 4 (w.opcode.toNat + portNum w.port * 2 ^ 16 + w.keySlot.toNat * 2 ^ 18 + inst * 2 ^ 21 + outcome * 2 ^ 27) ++
    bytesLe 8 w.counter.toNat ++ w.digest)

/-- Opcodes that are critical (15_commands Table 15.9). -/
def critical (op : Nat) : Bool :=
  [0x0100, 0x0101, 0x0200, 0x0201, 0x0203, 0x0204, 0x0205, 0x0300, 0x0400, 0x0401, 0x0402, 0x0404, 0x0405, 0x0500, 0x0501,
   0x0600, 0x0601, 0x0700, 0x0701, 0x0800, 0x0801, 0x0803, 0x0804, 0x0900, 0x0A00].contains op

/-- Placing every EVIDENCE drawer's seal of a kind (13_cabinet R327). -/
def State.sealAll (s : State) (kind : Nat) : State := s.openEvidence.foldl (fun s d => s.sealDrawer d kind) s

/-- Every DIMM of a channel that is not out of service placed in self-refresh or brought out of it. -/
def State.selfRefresh (s : State) (on : Bool) : State :=
  (List.range 16).foldl (fun s k => if s.chanOut k then s else s.modChan k fun c => { c with selfRefresh := on }) s

/-- A lane's read delay moved by its drift once that reaches 2 steps (14_dram R348). -/
def LaneSet.track (l : LaneSet) (d : Int) : LaneSet :=
  if 2 ≤ d.natAbs then { l with rdDelay := ((l.rdDelay : Int) + d).toNat } else l

/-- A channel's lanes after a read-strobe tracking (14_dram R348). -/
def Chan.track (c : Chan) (now : Nat) (drift : List Int) : Chan :=
  { c with trackAt := now, lanes := (c.lanes.zip (List.range c.lanes.length)).map fun x => x.1.track (drift.getD x.2 0) }

/-- The calibrations of 14_dram R348 run on every rank of the channels in service: ZQ, and read-strobe tracking by the drift of each lane
(R346, R359). -/
def State.calibrateRanks (s : State) (drifts : List (Fin 16 × List Int)) : State :=
  (List.range 16).foldl (fun (s : State) k =>
    if (s.chan k).st ≠ .inService then s
    else s.modChan k fun c =>
      { c.track s.nowPs (((drifts.find? fun x => x.1.val == k).map (·.2)).getD []) with zqAt := s.nowPs }) s

/-- The Cabinet's part of the safe state (20_faults R488): out of any pause, staging flushed, a SAFE seal in every open
EVIDENCE drawer, safe_sealed set and every DIMM in self-refresh. -/
def State.cabinetSafe (s : State) : State :=
  let s := { s with cab := { s.cab with paused := false, pauseWait := none } }
  let s := (s.selfRefresh false).drainWhere fun _ => true
  let s := (s.sealAll 6).completeRequests
  ({ s with cab := { s.cab with safeSealed := true } } : State).selfRefresh true

/-- A channel goes out of service with a cause (14_dram R354, R356); its requests go with it. -/
def State.chanLeave (s : State) (k : Nat) (cause : BitVec 4) : State :=
  s.modChan k fun c => { c with st := .outOfService, cause := cause, resweepOk := false, queues := [] }

end Sys2Proof.Machine
end

