-- ==== Sys2Proof/Machine/Pool.lean ====
section
/-!
DEFINITION. The cell pool and the accounts of stored frames (10_buffer R249 to R262; 11_pool): taking and returning cells,
charges and credits, decrements of reference counts, and what happens when a stored frame's last copy is gone.
-/

namespace Sys2Proof.Machine

/-- Cells of the arrival reserve (10_buffer R251). -/
def reserveCells : Nat := 65536
/-- Cells of the store (10_buffer R249). -/
def storeCells : Nat := 1048576
/-- Rows of a bank. -/
def bankRows : Nat := 16384

/-- Numbers in a bank's cache. -/
def Bank.cached (b : Bank) : Nat := b.cache.length + b.back.length
/-- Numbers in a bank's list and cache. -/
def Bank.free (b : Bank) : Nat := b.cached + b.count

/-- The cells that came back before a buffer cycle can be taken in it (11_pool R281). -/
def Bank.settle (b : Bank) (cycle : Nat) : Bank :=
  if b.backAt < cycle then { b with cache := b.cache ++ b.back, back := [] } else b

/-- A cell written: data padded with zeros, tag and CRC-32C, and its link (10_buffer R249; 11_pool R281). -/
def State.putCell (s : State) (c : Nat) (data : List Byte) (next : Nat) (last : Bool) : State :=
  let d := fit 256 data
  { s with buf := { s.buf with
      cells := tset (builtCell c) s.buf.cells c
        { data := d, count := min 256 data.length, next := next, last := last, crc := crc32c d }
      links := tset 0 s.buf.links c next } }

/-- A spill: one cached cell is written as a pointer cell carrying 63 others and the old list head (11_pool R278, R279). -/
def State.spillBank (s : State) (bank : Nat) : State :=
  let b := s.bank bank
  match b.cache with
  | [] => s
  | p :: r =>
    let others := r.take 63
    (s.putCell p (pointerData b.head others) 0 false).modBank bank fun b =>
      { b with cache := r.drop 63, head := p, count := b.count + 1 + others.length }

/-- A fill: the head pointer cell's 63 numbers and the pointer cell itself enter the cache (11_pool R278, R279). -/
def State.fillBank (s : State) (bank : Nat) : State :=
  let h := (s.bank bank).head
  let slot (i : Nat) : Nat := leAt (s.cell h).data (4 * i) 4
  s.modBank bank fun b =>
    { b with cache := b.cache ++ (List.range 63).map (fun i => slot (i + 1)) ++ [h], head := slot 0, count := b.count - 64 }

/-- One pool service window of a bank (11_pool R279). -/
def State.poolWindow (s : State) (bank : Nat) : State :=
  let s := s.modBank bank fun b => b.settle s.nowBuffer
  let b := s.bank bank
  if 192 < b.cached then s.spillBank bank
  else if b.cached < 64 ∧ 64 ≤ b.count then s.fillBank bank
  else s

/-- A bank has pool service windows: the image gives it some, or no image is active (log entry 111). -/
def State.hasPoolWindows (s : State) (bank : Nat) : Bool :=
  match s.tt.active with
  | none => true
  | some img => (List.range 512).any fun c => windowIs img c bank 5 bank

/-- The pool service windows of a bank that have passed and that no command named: they keep its cache from being empty, and from
holding more than 256 numbers (11_pool R279, R280; log entry 111). -/
def State.passedWindows (s : State) (bank : Nat) : State :=
  let b := s.bank bank
  if (b.cache.isEmpty ∨ 256 ≤ b.cached) ∧ s.hasPoolWindows bank then s.poolWindow bank else s

/-- A cell taken from a bank's cache (11_pool R279 to R281); which number of the cache a write takes is open (log entry 1). -/
def State.takeCell (s : State) (bank : Nat) : Option Nat × State :=
  let s := (s.modBank bank fun b => b.settle s.nowBuffer).passedWindows bank
  let c := (s.bank bank).cache
  if c.isEmpty then (none, s)
  else
    let i := Config.choice s.freeCtr % c.length
    (some (c.getD i 0), ({ s with freeCtr := s.freeCtr + 1 } : State).modBank bank fun b => { b with cache := b.cache.eraseIdx i })

/-- A cell back in its bank's cache, to be taken from the next buffer cycle on (11_pool R281, R287). -/
def State.returnCell (s : State) (c : Nat) : State :=
  let t := s.nowBuffer
  let s := (s.modBank (c % 64) fun b => b.settle t).passedWindows (c % 64)
  s.modBank (c % 64) fun b => { b with back := b.back ++ [c], backAt := t }

/-- Cells of the arrival reserve in use (10_buffer R251). -/
def State.reserveUse (s : State) : Nat := (s.buf.reserve.map (·.2)).sum

/-- A cell enters the arrival reserve. -/
def State.intoReserve (s : State) (c : Nat) : State :=
  { s with buf := { s.buf with reserve := tmod 0 s.buf.reserve (c % 64) (· + 1) } }

/-- Cells leave the arrival reserve. -/
def State.outOfReserve (s : State) (cells : List Nat) : State :=
  cells.foldl (fun (s : State) c => { s with buf := { s.buf with reserve := tmod 0 s.buf.reserve (c % 64) (· - 1) } }) s

/-- Free cells in every cache and list (11_pool Table 11.4). -/
def State.freeCells (s : State) : Nat := ((List.range 64).map fun b => (s.bank b).free).sum

/-- A cell's link set to the next cell of its frame. -/
def State.linkCell (s : State) (c next : Nat) : State :=
  { s with buf := { s.buf with
      cells := tmod (builtCell c) s.buf.cells c fun r => { r with next := next, last := false }
      links := tset 0 s.buf.links c next } }

/-- The cells of a chain by the link table (11_pool R281, R287). -/
def chainCells (links : Tbl Nat) : Nat → Nat → List Nat
  | 0, _ => []
  | n + 1, c => c :: chainCells links n (tget 0 links c)

/-- The octets that a chain of `n` cells holds. -/
def State.chainData (s : State) (first n : Nat) : List Byte :=
  ((chainCells s.buf.links n first).map fun c => (s.cell c).data.take (s.cell c).count).flatten

/-- Every cell of a chain passes its CRC (10_buffer R273). -/
def State.chainCrcOk (s : State) (first n : Nat) : Bool :=
  (chainCells s.buf.links n first).all fun c => (s.cell c).crc == crc32c (fit 256 (s.cell c).data)

/-- A credit of a requester: it saturates at zero, sets quota_underflow and is counted when it would go below
(11_pool R284). -/
def State.credit (s : State) (req n : Nat) : State :=
  if n ≤ (s.req req).charge then s.modReq req fun r => { r with charge := r.charge - n }
  else
    let s := s.modReq req fun r => { r with charge := 0, underflow := true }
    { s with pool := { s.pool with quotaUnderflow := s.pool.quotaUnderflow + 1 } }

/-- A charge of a requester, whose counter has 21 bits (11_pool R282). -/
def State.charge (s : State) (req n : Nat) : State := s.modReq req fun r => { r with charge := (r.charge + n) % 2 ^ 21 }

/-- Buffer cycles that a recount takes (11_pool R292). -/
def recountCycles : Nat := 135168

/-- A recount's scanner has passed the place of a record: the place that an entry or a hold takes in its store is open (log entry
112). -/
def State.scanned (s : State) (r : Recount) (hold : Bool) (record : Nat) : Bool :=
  let place := if hold then 131072 + Config.holdPlace record % 65536 / 16 else Config.entryPlace record % 2097152 / 16
  decide (r.start + place < s.nowBuffer)

/-- A free of a record that a running recount has passed updates the shadow counters too (11_pool R292): the requester that the free
names loses what the record's own keeps. -/
def State.shadowFree (s : State) (hold : Bool) (record own req n : Nat) : State :=
  match s.pool.recount with
  | none => s
  | some r =>
    if s.scanned r hold record then
      { s with pool := { s.pool with recount := some { r with shadow := tmod 0 (tmod 0 r.shadow own (· + (n : Int))) req (· - (n : Int)) } } }
    else s

/-- One entry of the pool log, with its event (11_pool R286, R288, Table 11.4). -/
def State.poolLog (s : State) (pointer : Nat) (req reason : Nat) : State :=
  let e : PoolLog := { pointer := BitVec.ofNat 28 pointer, requester := req, reason := reason,
                       round := BitVec.ofNat 32 s.tt.round.toNat }
  ({ s with pool := { s.pool with
      log := tset PoolLog.init s.pool.log s.pool.logNext e
      logNext := (s.pool.logNext + 1) % 16
      logUnread := s.pool.logUnread + 1
      logLost := if 16 ≤ s.pool.logUnread then s.pool.logLost + 1 else s.pool.logLost } } : State).raise 1296

/-- A chain goes to the walkers: it is walked in its turn (11_pool R287). -/
def State.walkChain (s : State) (first n : Nat) : State :=
  if n = 0 then s else { s with pool := { s.pool with walks := s.pool.walks ++ [(first, n)] } }

/-- The hold of a chain ends (11_pool R283, R290). -/
def State.endHold (s : State) (first : Nat) : State :=
  { s with pool := { s.pool with holds := s.pool.holds.filter fun h => h.first != first } }

/-- The stored frame of a number. -/
def State.stored? (s : State) (id : Nat) : Option Stored := s.buf.stored.find? fun f => f.id == id
/-- A stored frame changed. -/
def State.modStored (s : State) (id : Nat) (f : Stored → Stored) : State :=
  { s with buf := { s.buf with stored := s.buf.stored.map fun x => if x.id = id then f x else x } }

/-- The pause kind that a group of a port calls for: 8 for PAUSE, to which group 0 alone belongs, k for PFC, none when the port sends no
pause (04_line R114; 10_buffer R261, R263). -/
def State.pauseKind (s : State) (lp k : Nat) : Option Nat :=
  let m := s.pcfg lp 50 2
  if m = 1 then (if k = 0 then some 8 else none) else if m = 2 then some k else none

/-- A group's lossless bit (10_buffer R261, Table 10.5). -/
def State.groupLossless (s : State) (g : Nat) : Bool := bitAt (s.work 0x0F g) 0

/-- The call for pause on a group raised or withdrawn at the port's MAC (10_buffer R263). -/
def State.pauseCall (s : State) (lp k : Nat) (on : Bool) : State :=
  match s.pauseKind lp k with
  | some kind => s.modPort lp fun p => { p with pause := tmod PauseState.init p.pause kind fun w => { w with txOn := on } }
  | none => s

/-- Congestion of a group re-examined after a credit: it ends when g_head is zero and g_shared is below xon_cells
(10_buffer R262, R263). -/
def State.groupRelief (s : State) (g : Nat) : State :=
  let st := s.group g
  if st.congested ∧ st.head = 0 ∧ st.shared < fld (s.work 0x0F g) 32 16 then
    (s.modGroup g fun x => { x with congested := false }).pauseCall (g / 8) (g % 8) false
  else s

/-- The accounts of a stored frame credited as its entries record them (10_buffer R257, R260, R262). -/
def State.creditAccounts (s : State) (c : Charges) : State :=
  let s := { s with buf := { s.buf with
      poolUse := tmod 0 s.buf.poolUse c.pool.val (· - c.poolCells)
      headUse := s.buf.headUse - c.headCells } }
  match c.group with
  | some g => (s.modGroup g fun x => { x with shared := x.shared - c.sharedCells, head := x.head - c.headCells }).groupRelief g
  | none => s

/-- Copies of a stored frame that are linked or on a wire. -/
def State.copiesLeft (s : State) (id : Nat) : Nat :=
  (s.buf.queues.map fun q => (q.2.entries.filter fun e => e.frame == id).length).sum +
    (s.buf.egress.map fun e => (e.2.wire.filter fun w => w.frame == id).length).sum

/-- A frame's chain was freed by pointer before the frame was done with it (11_pool R289). -/
def State.isStolen (s : State) (id : Nat) : Bool := s.pool.stolen.contains id

/-- The bytes of a frame as its reader finds them: unpredictable once its chain was freed by pointer (11_pool R289; log
entry 1). -/
def State.readFrame (s : State) (id : Nat) (bytes : List Byte) : List Byte :=
  if s.isStolen id then bytes.mapIdx fun i _ => BitVec.ofNat 8 (Config.value (s.freeCtr + i)) else bytes

/-- A stored frame is forgotten. -/
def State.dropStored (s : State) (id : Nat) : State :=
  { s with buf := { s.buf with stored := s.buf.stored.filter fun x => x.id != id },
           pool := { s.pool with stolen := unmark s.pool.stolen id },
           cab := { s.cab with unmappedFrames := unmark s.cab.unmappedFrames id } }

/-- No later cell of a frame is written (10_buffer R251): what still arrives of it belongs to no stored frame. -/
def State.endBody (s : State) (id : Nat) : State :=
  { s with flow := { s.flow with body := s.flow.body.map fun b => if b.id == id then { b with refused := true } else b } }

/-- A stored frame's count has reached zero: its accounts and its requester are credited, its cells go to the walkers,
and a frame that set seen bits and sent no good copy is revoked (09_feeds R243; 10_buffer R270; 11_pool R287). With copies
left, a pointer free has taken their place in the count, and the frame's contents are unpredictable from here on (R289). -/
def State.releaseStored (s : State) (f : Stored) (req : Nat) : State :=
  let s := if s.copiesLeft f.id = 0 then (s.dropStored f.id).endBody f.id
    else { s with pool := { s.pool with stolen := mark s.pool.stolen f.id } }
  let s := ((s.creditAccounts f.charges).credit req f.cells).shadowFree false f.id f.charges.requester req f.cells
  let s := (s.endHold f.first).walkChain f.first f.cells
  match f.feed with
  | some (n, first, k, e) =>
    if f.sentGood ∨ k = 0 then s
    else { s with arb := { s.arb with revs := s.arb.revs ++ [{ feed := n, first := first, count := k, epoch := e }] } }
  | none => s

/-- A decrement of a first cell's count naming a requester (11_pool R285 to R287): a zero count ignores it, logs it and
counts it; an excess is counted and logged alike; at zero the chain's cells are freed and the requester credited. -/
def State.decrement (s : State) (first req n : Nat) : State :=
  let c := tget 0 s.pool.refs first
  let short (s : State) : State :=
    ({ s with pool := { s.pool with zeroCount := s.pool.zeroCount + 1 } } : State).poolLog (first * 256) req 3
  if c = 0 then short s
  else
    let s := { s with pool := { s.pool with refs := tset 0 s.pool.refs first (c - n) } }
    let s := if c < n then short s else s
    if n < c then s
    else
      match s.buf.stored.find? fun f => f.first == first && !s.isStolen f.id with
      | some f => s.releaseStored f req
      | none =>
        match s.pool.holds.find? fun h => h.first == first with
        | some h => (((s.endHold first).credit req h.cells).shadowFree true first h.requester req h.cells).walkChain first h.cells
        | none => s

/-- The frames in flight whose chain begins at a cell. -/
def State.usersOf (s : State) (c : Nat) : List Nat :=
  let fs := s.flow.inPass.map (·.2.2) ++ s.flow.recirc.map (·.2) ++ s.flow.inject.map (·.2) ++ s.flow.arb.map (·.frame) ++ s.flow.slow ++
    (s.host.rings.map fun r => r.2.backlog).flatten
  (fs.filter fun f => f.source != .port && f.cells.head? == some c).map (·.id)

/-- A chain that an INJECT ring is still writing, begun at a cell, is free before its frame is injected (11_pool R289). -/
def State.loosenChains (s : State) (c : Nat) : State :=
  { s with host := { s.host with rings := s.host.rings.map fun x =>
      (x.1, { x.2 with chain := x.2.chain.map fun k => if k.hold = some c then { k with loose := true } else k }) } }

/-- A host pointer free of a ring's instance (11_pool R288): pointers out of range or unaligned are rejected. -/
def State.hostFree (s : State) (pointer req : Nat) : State :=
  let reject (reason : Nat) : State :=
    ({ s with pool := { s.pool with ptrRejected := s.pool.ptrRejected + 1 } } : State).poolLog pointer req reason
  if 0x10000000 ≤ pointer then reject 1
  else if pointer % 256 ≠ 0 then reject 2
  else
    let c := pointer / 256
    let s := if tget 0 s.pool.refs c = 1 then
        ({ s with pool := { s.pool with stolen := (s.usersOf c).foldl mark s.pool.stolen } } : State).loosenChains c else s
    s.decrement c req 1

/-- An allocating engine's request (11_pool R283): refused when the charge would pass the quota or when the free cells
outside the arrival reserve are too few. -/
def State.mayAllocate (s : State) (req n : Nat) : Bool :=
  decide ((s.req req).charge + n ≤ (s.req req).quota) && decide (n + (reserveCells - s.reserveUse) ≤ s.freeCells)

/-- A refused request is counted and changes nothing else (11_pool R283). -/
def State.refuseAllocation (s : State) (req : Nat) : State := s.modReq req fun r => { r with refused := r.refused + 1 }

/-- The 64 banks in rotation from one on. -/
def rotated (bank : Nat) : List Nat := (List.range 64).map fun i => (bank + i) % 64

/-- The bank from which an allocating engine takes a cell: the first of its windows' banks, or the next in rotation, that holds more free
cells than its 1,024 of the arrival reserve less those in use (11_pool R280, R283). -/
def State.engineBank (s : State) (windows : List Nat) : Nat :=
  ((windows ++ rotated s.pool.rot).find? fun b => decide (1024 < (s.bank b).free + tget 0 s.buf.reserve b)).getD 0

/-- `n` cells taken for an engine, each from the bank of its next window. -/
def State.takeCells (s : State) (windows : List Nat) : Nat → List Nat × State
  | 0 => ([], s)
  | n + 1 =>
    let b := s.engineBank windows
    let x := ({ s with pool := { s.pool with rot := (b + 1) % 64 } } : State).takeCell b
    let y := x.2.takeCells (windows.rotateLeft 1) n
    (x.1.toList ++ y.1, y.2)

/-- A chain's cells linked in order (11_pool R281). -/
def State.linkChain (s : State) : List Nat → State
  | c :: c' :: r => (s.linkCell c c').linkChain (c' :: r)
  | _ => s

/-- A granted request (11_pool R280, R281, R283): cells taken and linked, the first cell's count set to 1, a hold recorded and the
requester charged. The replay server's cells lie in the banks of its windows (02_timetable R57, type 4). -/
def State.allocate (s : State) (req n : Nat) : List Nat × State :=
  let x := s.takeCells (if req = 64 then s.streamBanks (s.nowBuffer % 512) 4 0 else []) n
  match x.1 with
  | [] => x
  | c :: _ =>
    let s := x.2.linkChain x.1
    (x.1, (({ s with pool := { s.pool with
        refs := tset 0 s.pool.refs c 1
        holds := s.pool.holds ++ [{ first := c, requester := req, cells := x.1.length }] } } : State).charge req x.1.length))

/-- Octets written into cells, 256 to a cell, linked in order. -/
def State.fillCells (s : State) : List Nat → List Byte → State
  | [], _ => s
  | [c], d => s.putCell c (d.take 256) 0 true
  | c :: c' :: r, d => (s.putCell c (d.take 256) c' false).fillCells (c' :: r) (d.drop 256)

/-- A copy of a stored frame ends, transmitted or discarded: its queue's occupancy falls, its entry is free, and the
frame's count is decremented (10_buffer R252, R255, R270). -/
def State.copyEnd (s : State) (id q : Nat) : State :=
  match s.stored? id with
  | none => s
  | some f =>
    let s := s.modQueue q fun x => { x with occ := x.occ - f.cells }
    let s := { s with buf := { s.buf with entriesUsed := s.buf.entriesUsed - 1 } }
    let gone := s.isStolen id
    let s := s.decrement f.first f.charges.requester 1
    if gone ∧ s.copiesLeft id = 0 then s.dropStored id else s

end Sys2Proof.Machine
end

