-- ==== Sys2Proof/Machine/Copies.lean ====
section
/-!
DEFINITION. What becomes of copies: frame and drop records (13_cabinet R320), and reports to injecting rings (05_time R148).
-/

namespace Sys2Proof.Machine

/-- The number of a head's source (06_templates Table 6.6: source_type). -/
def Source.num : Source → Nat
  | .port => 0 | .inject => 1 | .replay => 2

/-- The 56 octets of a frame or drop record after its header (13_cabinet Table 13.2). `out` is the egress timestamp, or
the drop reason. -/
def frameRecord (cw : CarriageWord) (src : Source) (lp : Nat) (tsIn : DevTime) (pass2 : Bool) (len : Nat)
    (headCrc : BitVec 32) (out : Nat) (outLp tc : Nat) (stomped : Bool) : List Byte :=
  let inj := src != .port
  (if inj then bytesLe 12 0 else timeBytes tsIn) ++ bytesLe 12 out ++
    bytesLe 4 ((if inj then 0 else lp) + outLp * 2 ^ 9 + tc * 2 ^ 18 + cw.evidenceClass % 8 * 2 ^ 22 + src.num * 2 ^ 25 +
      cw.cls % 4 * 2 ^ 27 + b1 stomped * 2 ^ 29 + b1 pass2 * 2 ^ 30 + b1 cw.destIsGroup * 2 ^ 31) ++
    bytesLe 2 len ++ bytesLe 1 cw.templateId ++ bytesLe 1 0 ++
    bytesLe 16 (fld cw.fields 128 128) ++ bytesLe 4 headCrc.toNat ++ bytesLe 4 0

/-- The drop record of one refused target or dropped copy of an evidence-marked frame (10_buffer R258; 13_cabinet R320). -/
def State.dropRecord (s : State) (fid : Nat) (cw : CarriageWord) (src : Source) (lp : Nat) (tsIn : DevTime) (pass2 : Bool) (len : Nat)
    (headCrc : BitVec 32) (reason outLp tc : Nat) : State :=
  if cw.evidenceMark then
    s.stageRecord 2 cw.evidenceClass fid (frameRecord cw src lp tsIn pass2 len headCrc reason outLp tc false) tsIn none
  else s

/-- The drop record of a copy of a stored frame. -/
def State.dropCopyRecord (s : State) (f : Stored) (reason q : Nat) : State :=
  s.dropRecord f.id f.cw f.source f.lp f.tsIn f.pass2 (if f.lenKnown then f.len else 0) f.headCrc reason (q / 16) (q % 16)

/-- A transmit report placed in the circular buffer of the injecting ring (05_time R148; 17_host R428, Table 17.13): its space was
reserved when the frame's chain started. After a ring reset in between, a buffer that is gone or has no room takes none (log entry 125). -/
def State.putReport (s : State) (j : InjectMeta) (lp flags : Nat) (ts : DevTime) : State :=
  let s := s.modDma j.ring fun d => { d with reserved := d.reserved - 1 }
  let d := s.dma j.ring
  if d.circLog2 = 0 ∨ d.rpos.toNat + 2 ^ d.circLog2.toNat < d.wpos.toNat + 32 then s
  else
    let a := d.circBase.toNat / 4096 * 4096 + d.wpos.toNat % 2 ^ d.circLog2.toNat
    let body := bytesLe 8 d.reportSeq.toNat ++ bytesLe 4 j.desc.toNat ++ bytesLe 4 (j.ring + lp * 2 ^ 10 + flags * 2 ^ 19) ++
      timeBytes ts ++ bytesLe 4 0
    (s.hostWrite d.owner.val a body).modDma j.ring fun d => { d with wpos := d.wpos + 32, reportSeq := d.reportSeq + 1 }

/-- The report of an injected frame that is dropped before transmit (05_time R148). -/
def State.reportDropped (s : State) (inj : Option InjectMeta) : State :=
  match inj with
  | some j => if j.report then s.putReport j 0 2 0 else s
  | none => s

/-- An injected frame's report is made. -/
def Stored.reported (f : Stored) : Stored := { f with inj := f.inj.map fun j => { j with report := false } }

/-- A copy that has left its queue or its wire without being sent ends; the frame's last one brings the report of an injected
frame (05_time R148; 10_buffer R270). -/
def State.copyLost (s : State) (id q : Nat) : State :=
  let s := match s.stored? id with
    | some f => if s.copiesLeft id = 0 then (s.reportDropped f.inj).modStored id Stored.reported else s
    | none => s
  s.copyEnd id q

end Sys2Proof.Machine
end

