-- ==== Sys2Proof/Machine/Wire.lean ====
section
/-!
DEFINITION. What the egress MAC sends (04_line R106 to R109; 05_time R137 to R148; 10_buffer R266) and how a copy ends on the wire
(01_structure R19, R20; 13_cabinet R320, R332).
-/

namespace Sys2Proof.Machine

/-! ### Incremental checksums (04_line R108, R109) -/

/-- A checksum after the changed 16-bit words of a range, by the method of RFC 1624. -/
def repairWords (hc : Nat) : List Byte → List Byte → Nat
  | [], _ => hc
  | [a], bs => if a = bs.headD 0 then hc else 65535 - fold16 (65535 - hc + (65535 - a.toNat * 256) + (bs.headD 0).toNat * 256)
  | a :: b :: r, bs =>
    let m := a.toNat * 256 + b.toNat
    let n := beAt bs 0 2
    repairWords (if m = n then hc else 65535 - fold16 (65535 - hc + (65535 - m) + n)) r (bs.drop 2)

/-- A checksum after the changed words of several ranges of a head, each from its first octet to the one past its last. -/
def repairRanges (old new : List Byte) (hc : Nat) (rs : List (Nat × Nat)) : Nat :=
  rs.foldl (fun v r => repairWords v ((old.take r.2).drop r.1) ((new.take r.2).drop r.1)) hc

/-- An octet string with a 16-bit word written at an offset that lies inside it. -/
def putWord (h : List Byte) (o v : Nat) : List Byte := if o + 2 ≤ h.length then patch h o (bytesBe 2 v) else h

/-- The IPv4 header checksum repaired. -/
def repairIpv4 (o : Nat) (old new : List Byte) : List Byte :=
  let stop := o + byteAt new o % 16 * 4
  putWord new (o + 10) (repairRanges old new (beAt new (o + 10) 2) [(o, o + 10), (o + 12, stop)])

/-- The protocol and length words of the pseudo-header that a head gives (04_line R104). -/
def pseudoWords (l3 l3Off : Nat) (h : List Byte) : List Byte :=
  if l3 = 1 then [0, h.getD (l3Off + 9) 0] ++ bytesBe 2 (beAt h (l3Off + 2) 2 - byteAt h l3Off % 16 * 4)
  else [0, h.getD (l3Off + 6) 0] ++ bytesBe 2 (beAt h (l3Off + 4) 2)

/-- The L4 checksum repaired over what it covers: its pseudo-header, and the segment as far as the IP length goes (04_line R104, R108). A
zero UDP checksum stays zero, and over IPv4 one that comes to zero is sent as 0xFFFF. -/
def repairL4 (l3 l4 l3Off l4Off ipEnd : Nat) (old new : List Byte) : List Byte :=
  let c := l4Off + (if l4 = 1 then 6 else 16)
  let hc := beAt new c 2
  let addrs := if l3 = 1 then (l3Off + 12, l3Off + 20) else (l3Off + 8, l3Off + 40)
  if l4 = 1 ∧ hc = 0 then new
  else
    let v := repairRanges old new hc [addrs, (l4Off, c), (c + 2, ipEnd)]
    let v := repairWords v (pseudoWords l3 l3Off old) (pseudoWords l3 l3Off new)
    putWord new c (if v = 0 ∧ l4 = 1 ∧ l3 = 1 then 65535 else v)

/-- The checksums of changed bytes repaired, when the layout is known (04_line R108, R109); a fragment has no L4 segment. -/
def repairSums (known : Bool) (l3 l4 l3Off l4Off ipEnd : Nat) (old new : List Byte) : List Byte :=
  if !known then new
  else
    let x := if l3 = 1 then repairIpv4 l3Off old new else new
    if (l3 = 1 ∨ l3 = 2) ∧ (l4 = 1 ∨ l4 = 2) ∧ ipEnd ≠ 0 then repairL4 l3 l4 l3Off l4Off ipEnd old x else x

/-! ### Rewrites, marks and PTP operations -/

/-- A head after its rewrite program, which the spec does not give (log entry 1). -/
def rewritten (f : Stored) (h : List Byte) : List Byte :=
  fit h.length (Config.rewrite f.cw.rewriteProg (f.cw.fields + (f.cw.prefixData + f.cw.sessionEntry * 2 ^ 32) * 2 ^ 320) h)

/-- The offset of the octet that holds the ECN field (10_buffer R266). -/
def ecnOffset (l3Off : Nat) : Nat := l3Off + 1

/-- A head with its ECN field set to 11 (10_buffer R266). -/
def ecnSet (f : Stored) (h : List Byte) : List Byte :=
  let o := ecnOffset f.l3Off
  if o < h.length then patch h o [BitVec.ofNat 8 (byteAt h o ||| (if f.cw.l3Type = 1 then 0x03 else 0x30))] else h

/-- correctionField after an addition (05_time R145). -/
def corrAdd (old : Nat) (add : Int) : Nat :=
  let v := sgn 64 old + add
  if old = 2 ^ 63 - 1 ∨ v < -(2 ^ 63 : Int) ∨ (2 ^ 63 - 1 : Int) < v then 2 ^ 63 - 1 else unsgn 64 v

/-- A PTP operation changes fields of the frame. -/
def ptpChanges (op : Nat) : Bool := op == 1 || op == 2

/-- The fields that a PTP operation changes lie within the head (05_time R144), that is within the `n` octets that the frame has of its 256;
that a shorter frame's own end bounds them is the model's choice (DESIGN CHOICE, log entry 114). -/
def ptpFits (op off n : Nat) : Bool := decide (off + (if op = 1 then 44 else 16) ≤ n)

/-- A head after its PTP operation (05_time R143, R145, R147): the egress timestamp, and the residence. -/
def ptpApply (op off : Nat) (ts : DevTime) (residence : Int) (h : List Byte) : List Byte :=
  if op = 1 then
    let h := patch (patch h (off + 34) (bytesBe 6 (ts / secUnits))) (off + 40) (bytesBe 4 (ts / 65536 % 10 ^ 9))
    patch h (off + 8) (bytesBe 8 (corrAdd (beAt h (off + 8) 8) (ts % 65536 : Nat)))
  else patch h (off + 8) (bytesBe 8 (corrAdd (beAt h (off + 8) 8) residence))

/-- The residence of a copy (05_time R147). -/
def residenceOf (f : Stored) (w : TxFrame) : Int :=
  match f.inj with
  | some j => (w.ts : Int) - (j.refTime : Int)
  | none => ((w.res + 2 ^ 64 - f.resIn) % 2 ^ 64 : Nat)

/-! ### The bytes on the wire -/

/-- The bytes of a stored frame before its FCS: of its cells, or, while the last has not come, of the frame that its port
receives; unpredictable once its chain was freed by pointer (11_pool R289). -/
def State.storedData (s : State) (f : Stored) : List Byte :=
  let whole := match s.flow.body.find? fun b => b.id == f.id with
    | some b => if f.lastIn then s.chainData f.first f.cells else b.data
    | none => s.chainData f.first f.cells
  s.readFrame f.id (whole.take (f.len - 4))

/-- What the egress MAC makes of a copy: the bytes before the FCS, and whether it stomps, truncates or pads it (04_line R106,
R107). -/
structure WireOut where
  data : List Byte
  stomp : Bool
  cut : Bool
  padded : Bool
deriving DecidableEq, Repr

/-- The bytes of a copy on the wire (04_line R106 to R109; 05_time R143 to R147; 10_buffer R266). -/
def State.wireOut (s : State) (w : TxFrame) (f : Stored) : WireOut :=
  let maxf := w.maxFrame
  let cut := decide (maxf < f.len)
  let data := if cut then (s.storedData f).take (maxf - 4) else s.storedData f
  let h := data.take 256
  let x := rewritten f h
  let x := if w.ecnMark then ecnSet f x else x
  let x := if ptpChanges f.cw.ptpOp ∧ ptpFits f.cw.ptpOp f.cw.ptpOffset x.length then
      ptpApply f.cw.ptpOp f.cw.ptpOffset w.ts (residenceOf f w) x else x
  let body := repairSums f.cw.layoutKnown f.cw.l3Type f.cw.l4Type f.l3Off f.l4Off f.ipEnd h x ++ data.drop 256
  { data := body ++ List.replicate (60 - body.length) 0, stomp := cut || w.stomp || !f.fcsOk || f.lateFail, cut := cut,
    padded := decide (body.length < 60) }

/-- The FCS of what is sent, stomped or correct (04_line R107). -/
def WireOut.fcs (o : WireOut) : BitVec 32 := if o.stomp then ~~~ crc32 o.data else crc32 o.data

/-- The PTP operations of a copy counted in the pipeline that serves its egress port (05_time R144; 21_counters Table 21.4). -/
def State.ptpCount (s : State) (lp : Nat) (f : Stored) (n : Nat) : State :=
  let op := f.cw.ptpOp
  if op = 3 then s.tick 0x2A (pipeOf lp)
  else if !ptpChanges op then s
  else if ptpFits op f.cw.ptpOffset n then s.tick (0x27 + op) (pipeOf lp)
  else s.tick 0x2B (pipeOf lp)

/-- The offset of a length's counter in Table 4.8: rx_size_64 to rx_size_max. -/
def sizeCounter (len : Nat) : Nat :=
  0x0C0 + 8 * (if len ≤ 64 then 0 else if len < 128 then 1 else if len < 256 then 2 else if len < 512 then 3
    else if len < 1024 then 4 else if len ≤ 1518 then 5 else 6)

/-- The offset of unicast, multicast and broadcast among three counters (04_line Table 4.8). -/
def castCounter (base : Nat) (data : List Byte) : Nat :=
  let da := beAt data 0 6
  if da = 2 ^ 48 - 1 then base + 16 else if da / 2 ^ 40 % 2 = 1 then base + 8 else base

/-- The counters of a frame sent (04_line Table 4.8, R106, R107). -/
def State.txCount (s : State) (lp : Nat) (o : WireOut) : State :=
  let s := ((s.stat lp 0x100).stat lp 0x108 (o.data.length + 4)).stat lp (castCounter 0x110 o.data)
  let s := if o.stomp then s.stat lp 0x128 else s
  let s := if o.cut then s.stat lp 0x130 else s
  if o.padded then s.stat lp 0x180 else s

/-! ### Timestamps (05_time R137 to R142) -/

/-- The sensor that serves a macro (20_faults R493). -/
def servingSensor (m : Nat) : Nat := 2 * (m / 8) + m % 8 / 4

/-- An UP port's distance from its calibration temperature, in units of 0.125 °C (05_time R142). -/
def State.calDistance (s : State) (lp : Nat) : Nat :=
  (sgn 16 (s.sensor (servingSensor (macroOf lp))).reading.toNat - sgn 16 (s.port lp).cal.temp.toNat).natAbs

/-- The bounds of a stamp's error below and above the device time at the crossing, in 2^-16 ns: 1.5 ns with a valid calibration and a
serving sensor within 20 °C of it, and otherwise the 8.0 ns of a port that stamps with the factory values; the capture's truncation to
0.125 ns is part of it (05_time R141, R142). -/
def State.stampBound (s : State) (lp : Nat) : Nat × Nat :=
  let c := (s.port lp).cal
  if c.valid ∧ s.calDistance lp ≤ 160 then (90112, 98304)
  else (516096, 524288)

/-- A device time as a port captures it: off by an error that the spec bounds and leaves open within the bound (05_time R122, R141, R142; log
entry 115). `n` names the free value. -/
def State.captured (s : State) (lp n : Nat) (t : DevTime) : DevTime :=
  let b := s.stampBound lp
  stampOf (((t : Int) + (Config.stampError n % (b.1 + b.2 + 1) : Nat) - (b.1 : Int)).toNat)

/-- The ingress timestamp of a frame whose timestamp point crosses the balls of a port now (05_time R137). -/
def State.rxStamp (s : State) (lp : Nat) : DevTime := s.captured lp s.freeCtr s.devTime

/-- The instant of a frame's timestamp point: 64 bit times behind its first bit (05_time R137, R139). -/
def State.stampPoint (s : State) (lp : Nat) (w : TxFrame) : Nat := w.start + 8 * psPerByte (s.modeOf lp)

/-- A frame's egress timestamp and residence counter, as the time base stands when its timestamp point crosses the balls (05_time R137,
R138, R147). -/
def State.stampTx (s : State) (lp : Nat) (w : TxFrame) : TxFrame :=
  if w.stamped then w
  else
    let at_ := s.stampPoint lp w
    { w with stamped := true, ts := s.captured lp w.free (s.devTimeAt at_), res := s.resTimeAt at_ }

/-- The frames whose timestamp points have crossed before an instant have their timestamps. -/
def State.settleStamps (s : State) (ps : Nat) : State :=
  { s with buf := { s.buf with egress := s.buf.egress.map fun x =>
      (x.1, { x.2 with wire := x.2.wire.map fun w => if s.stampPoint x.1 w < ps then s.stampTx x.1 w else w }) } }

/-! ### Captures (13_cabinet R332) -/

/-- The key of capture entries (0), request entries (1) and the replay quota (2) among the tables (13_cabinet R331). -/
def capCode : Nat := 0xF0
/-- See `capCode`. -/
def reqCode : Nat := 0xF1
/-- See `capCode`. -/
def quotaCode : Nat := 0xF2

/-- The bytes of a capture slot (13_cabinet Table 13.11). -/
def slotBytes (e : Nat) : Nat := 512 * 2 ^ fld e 8 3

/-- The capture entry of a feed (13_cabinet Table 13.11). -/
def State.captureEntry (s : State) (f : Nat) : Image := s.work capCode f

/-- The Cabinet address of a feed's slot for a sequence number (13_cabinet R332). -/
def State.slotAddr (s : State) (e : Image) (m : BitVec 64) : Nat :=
  (s.drawer (fld e 1 6)).base + (fld e 32 32 + m.toNat % 2 ^ fld e 11 5) * slotBytes e

/-- The header of a capture slot (13_cabinet Table 13.12). -/
def captureHeader (f : Stored) (m : BitVec 64) (n : Nat) : List Byte :=
  fit 64 (bytesLe 8 m.toNat ++ timeBytes f.tsIn ++ bytesLe 2 n ++ bytesLe 2 (f.cw.feedId + f.cw.l3Type * 2 ^ 12) ++
    bytesLe 1 f.l3Off ++ bytesLe 1 f.l4Off)

/-- A slot has a void unit among those that a capture writes (14_dram R356). -/
def State.voidSlot (s : State) (a need : Nat) : Bool := (List.range ((need + 63) / 64)).any fun i => s.voidUnit (a + 64 * i)

/-- A copy that its port has sent captured into the feed's ring, or counted in capture_skipped (13_cabinet R332; 14_dram R356, R359); a
ring whose drawer is no OPEN CAPTURE drawer, as after a warm reset, takes none (log entry 22). -/
def State.captureCopy (s : State) (lp : Nat) (f : Stored) (o : WireOut) : State :=
  match f.feed with
  | none => s
  | some (n, first, _, _) =>
    let e := s.captureEntry n
    let need := 64 + o.data.length
    let w := s.drawer (fld e 1 6)
    if !bitAt e 0 ∨ fld e 16 9 ≠ lp then s
    else if o.stomp ∨ f.cw.l4Type ≠ 1 ∨ !f.cw.layoutKnown ∨ slotBytes e < need ∨ 2 ^ 21 < s.cab.captureBuf + need ∨ s.cab.paused ∨
        w.st ≠ .opened ∨ w.typ ≠ 2 ∨ s.voidSlot (s.slotAddr e first) need then
      s.tick 0x92
    else
      let a := s.slotAddr e first
      let s := ((s.requests 3 a need).cabPut (a + 64) o.data).cabPut a (captureHeader f first o.data.length)
      { s with cab := { s.cab with captureBuf := s.cab.captureBuf + need } }

/-! ### The end of a copy -/

/-- The frame record of a copy that has ended on the wire (01_structure R19; 04_line R107; 13_cabinet R320). -/
def State.wireRecord (s : State) (lp : Nat) (w : TxFrame) (f : Stored) (stomp : Bool) : State :=
  if f.cw.evidenceMark then
    s.stageRecord 1 f.cw.evidenceClass f.id
      (frameRecord f.cw f.source f.lp f.tsIn f.pass2 f.len f.headCrc (timeImg w.ts) lp (w.queue % 16) stomp) f.tsIn w.heldIn
  else s

/-- The transmit report of an injected frame: that of its first copy to end on the wire; bit 2 of the flags says that others are on
their way (05_time R148; 17_host R428, Table 17.13). -/
def State.txReport (s : State) (lp : Nat) (w : TxFrame) (f : Stored) (stomp : Bool) : State :=
  match f.inj with
  | some j =>
    if j.report then (s.putReport j lp (b1 stomp + 4 * b1 (decide (1 < s.copiesLeft f.id))) w.ts).modStored f.id Stored.reported else s
  | none => s

/-- A picked frame whose charges no account holds any longer (12_egress R298, R303). -/
def TxFrame.settled (w : TxFrame) : TxFrame := { w with onDeficit := false, onQueue := false, onPort := false }

/-- The length of a copy on the wire once its frame's is known (04_line R106). -/
def TxFrame.sentLen (w : TxFrame) (f : Stored) : Nat := max 64 (min f.len w.maxFrame)

/-- The end of a picked frame's line time, in ps: its true line bytes, or those charged while its length is not known (12_egress R298). -/
def State.lineEnd (s : State) (lp : Nat) (w : TxFrame) : Nat :=
  let len := match s.stored? w.frame with
    | some f => if f.lenKnown then w.sentLen f else w.estimate
    | none => w.estimate
  w.start + (len + 20) * psPerByte (s.modeOf lp)

/-- The first of a port's picked frames leaves the wire. -/
def State.wireDone (s : State) (lp : Nat) : State :=
  s.modEgr lp fun e =>
    { e with wire := e.wire.drop 1, freeAt := match e.wire with | w :: _ => max e.freeAt (s.lineEnd lp w) | [] => e.freeAt }

/-- A copy of a port that the image in force makes unpredictable leaves as free bytes (02_timetable R74; log entry 44). -/
def State.sentData (s : State) (lp : Nat) (o : WireOut) : List Byte :=
  if s.tt.brokenPorts.contains lp then o.data.mapIdx fun i _ => BitVec.ofNat 8 (Config.value (s.freeCtr + i)) else o.data

/-- The first of a port's picked frames ends on the wire: sent, counted, recorded, reported, captured; its entry and its place in the
frame's count are free. -/
def State.finishTx (s : State) (lp : Nat) : State :=
  match (s.egr lp).wire with
  | [] => s
  | w :: _ =>
    match s.stored? w.frame with
    | none => s.wireDone lp
    | some f =>
      let w := s.stampTx lp w
      let o := s.wireOut w f
      let o := { o with data := s.sentData lp o }
      let s := (s.emit (.frame lp (o.data ++ bytesLe 4 o.fcs.toNat) o.stomp)).txCount lp o
      let s := s.ptpCount lp f (min 256 (min f.len w.maxFrame - 4))
      let s := ((s.wireRecord lp w f o.stomp).txReport lp w f o.stomp).captureCopy lp f o
      let s := s.modStored f.id fun x => { x with sentGood := x.sentGood || !o.stomp }
      (s.wireDone lp).copyEnd f.id w.queue

/-- Every picked frame of a port ends on the wire, in order. -/
def State.finishAll (s : State) (lp : Nat) : State :=
  (s.egr lp).wire.foldl (fun (s : State) _ => s.finishTx lp) s

/-- The first of a port's picked frames is lost with the link and counted in tx_frames all the same (04_line R95, Table 4.8). -/
def State.loseTx (s : State) (lp : Nat) : State :=
  match (s.egr lp).wire with
  | [] => s
  | w :: _ =>
    let s := s.stat lp 0x100
    let s := match s.stored? w.frame with
      | some f => s.stat lp (castCounter 0x110 (s.wireOut (s.stampTx lp w) f).data)
      | none => s
    ((s.wireDone lp).unhold w.heldIn).copyLost w.frame w.queue

/-- Every picked frame of a port is lost. -/
def State.loseAll (s : State) (lp : Nat) : State := (s.egr lp).wire.foldl (fun (s : State) _ => s.loseTx lp) s

end Sys2Proof.Machine
end

