-- ==== Sys2Proof/Machine/Links.lean ====
section
/-!
DEFINITION. A port's change of state, and what it does to its frames (04_line R94, R95, R99; 02_timetable R70; 10_buffer R255; 12_egress
R303).
-/

namespace Sys2Proof.Machine

/-- Any pause in force on a port is cleared (04_line R95); a pause that it sends begins anew on the next link. -/
def clearPauses (p : Port) : Port :=
  { p with pause := (List.range 9).foldl (fun t k => tmod PauseState.init t k fun w =>
      { w with until_ := none, coming := [], heldSince := none, txLast := none }) p.pause }

/-- The first state of bring-up (04_line R94): AN when an_enable is set, TRAINING when only lt_enable is set, ALIGN
otherwise. -/
def firstBringup (cfg : Image) : PortState :=
  if bitAt cfg 12 then .an else if bitAt cfg 13 then .training else .align

/-- The port macro's event (20_faults Table 20.4). -/
def State.portEvent (s : State) (lp : Nat) : State := s.raise (1088 + macroOf lp)

/-- The lanes of a logical port, one bit per lane of its macro (04_line R90, R99; log entry 16). -/
def portLanes (mode lp : Nat) : BitVec 8 := BitVec.ofNat 8 ((2 ^ lanesOf mode - 1) * 2 ^ (lp % 8))

/-- A port's state changes: the round of the change is kept, and entry to UP and exit from UP raise the macro's event
(04_line R94, R99). -/
def State.setPortState (s : State) (lp : Nat) (st : PortState) : State :=
  let old := (s.port lp).st
  if old = st then s
  else
    let s := s.modPort lp fun p =>
      { p with st := st, lastChange := s.tt.round, locked := if st = .up then portLanes (s.modeOf lp) lp else 0,
               alignAt := if st = .align then s.nowPs else p.alignAt }
    if old = .up ∨ st = .up then s.portEvent lp else s

/-! ### A receive frame in progress (04_line R95, R99) -/

/-- Octets of a frame that its MAC has at an instant (02_timetable Table 2.4; log entry 116). -/
def rxOctets (now fec perByte : Nat) (f : Frame) : Nat := (now - (f.rxAt + fec)) / perByte

/-- A frame of a port that the MAC still receives at an instant. -/
def Frame.arriving (f : Frame) (lp now fec perByte : Nat) : Bool :=
  f.source == .port && f.lp.val == lp && decide (rxOctets now fec perByte f < f.len)

/-- A frame ended where it stands, with an FCS error (04_line R95). -/
def Frame.cutShort (n : Nat) (f : Frame) : Frame :=
  { f with len := n, data := f.data.take (n - 4), fcsOk := false, stomped := false }

/-- The count of a good frame taken back: its FCS was not good after all (04_line R95, R535). -/
def State.uncount (s : State) (lp : Nat) (data : List Byte) (len : Nat) : State :=
  let less (s : State) (off n : Nat) : State :=
    s.modPort lp fun p => { p with stats := tmod 0 p.stats (off / 8) fun c => BitVec.ofNat 64 (c.toNat - n) }
  less (less (less (less s 0x000 1) 0x008 len) (castCounter 0x010 data) 1) (sizeCounter len) 1

/-- The receive frame in progress on a port ends with an FCS error (04_line R95): wherever its head is it carries the error on, and a head
that has not been released is dropped when no more than 256 octets of it have come. -/
def State.cutReceive (s : State) (lp : Nat) : State :=
  let fec := rxFecPs (s.modeOf lp)
  let per := psPerByte (s.modeOf lp)
  let now := s.nowPs
  let cut (f : Frame) : Frame := if f.arriving lp now fec per then f.cutShort (rxOctets now fec per f) else f
  let x := s.flow
  let s := match (x.body ++ x.rx).find? fun f => f.arriving lp now fec per with
    | some f => if f.fcsOk then (s.uncount lp f.data f.len).stat lp 0x028 else s
    | none => s
  { s with flow := { x with
      rx := (x.rx.filter fun f => !(f.arriving lp now fec per && decide (rxOctets now fec per f ≤ 256))).map cut
      waiting := x.waiting.map fun y => (cut y.1, y.2)
      inPass := x.inPass.map fun y => (y.1, y.2.1, cut y.2.2)
      recirc := x.recirc.map fun y => (y.1, cut y.2)
      arb := x.arb.map fun y => { y with frame := cut y.frame }
      body := (x.body.filter fun f => !(x.rx.any (·.id == f.id) && f.arriving lp now fec per &&
        decide (rxOctets now fec per f ≤ 256))).map cut } }

/-- A port that is UP leaves UP: its pauses are cleared, the exit is counted, its receive frame in progress ends with an FCS error, its
frames on the wire are lost and counted in tx_frames, its queues are flushed when they hold entries and its credits and deficits set to
zero (04_line R95; 10_buffer R255; 12_egress R303). That an exit also clears the memory of an exceeding interval, so that the degrade
event may come again in the first interval after UP, is the model's choice (R96; DESIGN CHOICE, log entry 117). -/
def State.leaveUp (s : State) (lp : Nat) (st : PortState) (completeWire : Bool) : State :=
  if !s.isUp lp then s.setPortState lp st
  else
    let s := ((s.modPort lp clearPauses).stat lp 0x1B8).cutReceive lp
    let s := s.modPort lp fun p => { p with degraded := false }
    let s := if completeWire then s else s.loseAll lp
    let linked := (List.range 16).any fun k => !(s.queue (16 * lp + k)).entries.isEmpty
    let s := s.modEgr lp fun e => { e with flushing := linked, credit := 0, wire := e.wire.map TxFrame.settled }
    let s := (List.range 16).foldl (fun (s : State) k => s.modQueue (16 * lp + k) fun q =>
      { q with credit := 0, deficit := 0, turnOpen := false, gateBlocked := false }) s
    s.setPortState lp st

/-- The macro's port island is up: a port of it is neither DISABLED nor LOW_POWER, or still completes a frame on its wire (03_islands R88;
04_line R99, R116). -/
def State.islandNeeded (s : State) (m : Nat) : Bool :=
  (s.macroPorts m).any fun lp =>
    ((s.port lp).st != .disabled && (s.port lp).st != .lowPower) || !(s.egr lp).wire.isEmpty

/-- The macro's island is powered down. -/
def State.islandDown (s : State) (m : Nat) : Bool := s.tt.islandsDown.any (·.val == m)

/-- The macro's island powered down. -/
def State.powerDown (s : State) (m : Nat) : State :=
  if s.islandDown m then s
  else if h : m < 64 then { s with tt := { s.tt with islandsDown := ⟨m, h⟩ :: s.tt.islandsDown } } else s

/-- The macro's island powered up. -/
def State.powerUp (s : State) (m : Nat) : State :=
  { s with tt := { s.tt with islandsDown := s.tt.islandsDown.filter fun k => k.val != m } }

/-- The device powers the island of a macro down when every port of it is DISABLED or LOW_POWER (04_line R116). -/
def State.settleIsland (s : State) (m : Nat) : State := if s.islandNeeded m then s else s.powerDown m

/-- A port goes to the first state of its bring-up: to WAKING while its island or its lanes are down, to MODE_BLOCKED while the macro's
mode differs from PORT_PLAN of the active image or no image is active, and otherwise to AN, TRAINING or ALIGN (04_line R94;
02_timetable R70; 03_islands R88). A macro whose containment is not lifted keeps its ports in ISLAND_FAULT. -/
def State.bringup (s : State) (lp : Nat) : State :=
  let m := macroOf lp
  let st : PortState :=
    if (s.macro_ m).pllFault ∨ (s.macro_ m).shed then .islandFault
    else if s.islandDown m ∨ !(s.macro_ m).serdesUp ∨ !(s.port lp).lanesUp then .waking
    else if !s.planAgrees m then .modeBlocked
    else firstBringup (s.port lp).cfg
  s.leaveUp lp st false

/-- The state that a port falls back to when it leaves UP or fails bring-up: LOW_POWER for a woken port, the first state of
bring-up otherwise (04_line R95, R117). -/
def State.fallBack (s : State) (lp : Nat) : State :=
  if (s.port lp).woken then
    let s := (s.leaveUp lp .lowPower false).modPort lp fun p =>
      { p with woken := false, wakeArmed := true, wakeFired := false, lanesUp := false }
    s.settleIsland (macroOf lp)
  else s.bringup lp

/-- Every port of a macro to ISLAND_FAULT (04_line Table 4.3). -/
def State.islandFault (s : State) (m : Nat) (completeWire : Bool) : State :=
  (s.macroPorts m).foldl (fun (s : State) lp =>
    if (s.port lp).st = .disabled then s
    else (s.leaveUp lp .islandFault completeWire).modPort lp fun p => { p with lanesUp := false }) s

/-- A port in AN, TRAINING or ALIGN: its bring-up is pending. -/
def PortState.pending (st : PortState) : Bool := st == .an || st == .training || st == .align

/-- Ports whose bring-up the timetable blocks or no longer blocks move accordingly (02_timetable R70; 04_line Table 4.3). That a port
amid its bring-up goes to MODE_BLOCKED at once is read from the table's "or pending" (DEDUCED, log entry 43). -/
def State.settleModes (s : State) : State :=
  (List.range 512).foldl (fun (s : State) lp =>
    let p := s.port lp
    if p.st = .modeBlocked ∧ s.planAgrees (macroOf lp) then s.bringup lp
    else if p.st.pending ∧ !s.planAgrees (macroOf lp) then s.setPortState lp .modeBlocked
    else s) s

end Sys2Proof.Machine
end

