-- ==== Sys2Proof/Machine/Replies.lean ====
section
/-!
DEFINITION. Replies on the four command ports (15_commands R361, R362, R367, R382; 04_line R120; 19_pair R467, R468).
-/

namespace Sys2Proof.Machine

/-- A reply placed in a ring of host memory (15_commands R362): held while the reply ring is full; discarded during a freeze and
during the fence of its instance (17_host R419; 18_instances R454). -/
def State.ringReply (s : State) (n : Nat) (r : Reply) : State :=
  let g := s.cmdRing n
  if s.host.frozen ∨ (s.inst n).st = .fencing then s
  else if (g.rplHead - g.rplTail).toNat = 2 ^ g.rplLog2.toNat then s.modCmdRing n fun g => { g with held := g.held ++ [r] }
  else
    let a := g.rplBase.toNat / 4096 * 4096 + g.rplHead.toNat % 2 ^ g.rplLog2.toNat * 4096
    let s := (s.hostWrite n a (replyBytes r)).emit (.reply .cp0 n r)
    (s.modCmdRing n fun g => { g with rplHead := g.rplHead + 1 }).raise (1024 + n)

/-- The kept reply of a repeated CP1 packet filled in (15_commands R382). -/
def State.keepReply (s : State) (w : Waiter) (r : Reply) : State :=
  { s with cmd := { s.cmd with kept := s.cmd.kept.map fun k =>
      if k.slot = w.keySlot ∧ k.counter = w.counter ∧ k.check = w.check then { k with reply := some r } else k } }

/-- The bytes of a CP1 reply's frame before its padding: to the source address of the command's frame, from the station address, with the
same VLAN tag (04_line R120). -/
def State.replyFrame (s : State) (w : Waiter) (r : Reply) : List Byte :=
  bytesBe 6 w.src.toNat ++ bytesBe 6 s.mgmt.station.toNat ++
    (match w.vlan with | some v => [0x81, 0x00] ++ bytesBe 2 v.toNat | none => []) ++ [0x88, 0xB5] ++ replyBytes r

/-- A CP1 reply's frame, padded to 64 bytes with its FCS, and its counts (04_line R120, Table 4.8). -/
def State.sendReplyFrame (s : State) (w : Waiter) (r : Reply) : State :=
  let x := s.replyFrame w r
  let data := fit (max 60 x.length) x
  let cast := if w.src = BitVec.allOnes 48 then 0x120 else if w.src.getLsbD 40 then 0x118 else 0x110
  let s := s.emit (.mgmtFrame (data ++ bytesLe 4 (crc32 data).toNat))
  let s := ((s.mgmtStat 0x100).mgmtStat 0x108 (data.length + 4)).mgmtStat cast
  if x.length < 60 then s.mgmtStat 0x180 else s

/-- A reply leaves on the port its command came from (15_commands R361, R367; 04_line R120; 19_pair R468). -/
def State.sendReply (s : State) (w : Waiter) (r : Reply) : State :=
  match w.port with
  | .cp0 => s.ringReply w.inst.val r
  | .cp1 => s.sendReplyFrame w r
  | .cp2 => s.emit (.link 9 [(w.mirror.getD 0).toNat, r.status.toNat, if r.status = 1 then 0 else 1])
  | .cp3 => s.emit (.reply .cp3 0 r)

/-- A reply is sent; a final one that is audited brings its audit record then (13_cabinet R322). -/
def State.sendAudited (s : State) (w : Waiter) (r : Reply) (outcome : Option Nat) : State :=
  (match outcome with | some o => s.audit w o | none => s).sendReply w r

/-- The first reply of a mirrored command in progress on a mirroring PRIMARY waits for the standby's, and its audit record with it
(13_cabinet R322; 19_pair R467). -/
def State.firstReply (s : State) (w : Waiter) (r : Reply) (outcome : Option Nat) : State :=
  match s.mirror.inProgress, w.mirror with
  | some c, some q =>
    if c.seq = q ∧ w.port ≠ .cp2 then
      if c.peerSeen ∨ !s.mirror.linkUp then
        ({ s with mirror := { s.mirror with inProgress := none } } : State).sendAudited w r outcome
      else { s with mirror := { s.mirror with inProgress := some { c with own := some r, outcome := outcome } } }
    else s.sendAudited w r outcome
  | _, _ => s.sendAudited w r outcome

/-- The final reply of a command that replied PENDING (15_commands R367): OK is audited as OK, another end as ABANDONED. -/
def State.complete (s : State) (w : Waiter) (status detail : Nat) (results : List Byte) : State :=
  let s := { s with cmd := { s.cmd with awaiting := s.cmd.awaiting - 1 } }
  let r := mkReply w.opcode status detail w.tag results
  let s := if w.port = .cp1 ∧ critical w.opcode.toNat then s.keepReply w r else s
  s.sendAudited w r (if critical w.opcode.toNat then some (if status = 0 then 0 else 2) else none)

end Sys2Proof.Machine
end

