-- ==== Sys2Proof/Machine/FaultOps.lean ====
section
/-!
DEFINITION. The fault collector's shared operations (20_faults R480 to R490): the line table, an occurrence handled at its
severity, containment, the grace timer and entry to the safe state.
-/

namespace Sys2Proof.Machine

/-- A reserved line (20_faults Table 20.1). -/
def reservedLine (n : Nat) : Bool := (decide (14 ≤ n) && decide (n < 24)) || decide (43 ≤ n)

/-- Severities that a line's Allowed column admits (20_faults Table 20.1). -/
def allowedSeverity (n : Nat) : List Nat :=
  if n = 0 ∨ n = 25 ∨ n = 31 then [2]
  else if n = 1 ∨ n = 2 ∨ n = 7 ∨ n = 8 ∨ n = 11 ∨ n = 26 ∨ n = 30 ∨ n = 36 then [3]
  else if n = 9 ∨ n = 12 then [0, 1, 2, 3]
  else if n = 24 then [1]
  else if n = 28 then [1, 3]
  else if n = 37 then [0, 1, 2]
  else if n = 13 ∨ n = 27 ∨ n = 32 ∨ n = 34 ∨ n = 38 ∨ n = 39 ∨ n = 40 ∨ n = 41 then [0, 1]
  else [0, 1, 3]

/-- A line's default severity (20_faults Table 20.1). -/
def defaultSeverity (n : Nat) : Nat :=
  if n = 0 ∨ n = 9 ∨ n = 25 ∨ n = 31 then 2
  else if n = 1 ∨ n = 2 ∨ n = 7 ∨ n = 8 ∨ n = 11 ∨ n = 26 ∨ n = 28 ∨ n = 30 ∨ n = 36 then 3
  else if n = 4 then 0
  else 1

/-- The Counted column (20_faults Table 20.1). -/
def mayCount (n : Nat) : Bool := !reservedLine n && !([11, 24, 25, 26, 36].contains n)

/-- A line of the traffic class (20_faults Table 20.1). -/
def trafficLine (n : Nat) : Bool := decide (n < 24)

/-- A line's entry after cold reset (20_faults R484). -/
def fltInit (n : Nat) : FltLine := FltLine.init (defaultSeverity n) (n = 37)

/-- A fault line. -/
def State.line (s : State) (n : Nat) : FltLine := tget (fltInit n) s.flt.lines n
/-- A fault line changed. -/
def State.modLine (s : State) (n : Nat) (f : FltLine → FltLine) : State :=
  { s with flt := { s.flt with lines := tmod (fltInit n) s.flt.lines n f } }

/-- ps in a millisecond. -/
def msPs : Nat := 10 ^ 9
/-- ps in a microsecond. -/
def usPs : Nat := 10 ^ 6

/-- A line is counted now (20_faults R484): its Counted column allows it, and it is configured so, or start-up is not
complete, or a SELFTEST of codes 2 to 5 runs or ended within window_ms, or a FAULT_RELEASE of it fell within window_ms. -/
def State.lineCounted (s : State) (n : Nat) : Bool :=
  let l := s.line n
  mayCount n && (l.counted || !s.boot.done ||
    (match s.selftest with | some r => decide (2 ≤ r.op) | none => false) ||
    (match l.countedUntil with | some t => decide (s.nowPs < t) | none => false))

/-- An occurrence is captured (20_faults R482): the line is latched; a traffic-class line latches FLT_FIRST or sets the
overflow bit; a management-class line sets its source's sticky bit. -/
def State.capture (s : State) (n : Nat) (src : BitVec 13) : State :=
  let s := s.modLine n fun l => { l with latched := true }
  if trafficLine n then
    if s.flt.firstValid then { s with flt := { s.flt with overflow := true } }
    else { s with flt := { s.flt with firstLine := n, firstSrc := src, firstValid := true, firstRound := s.tt.round } }
  else s.modLine n fun l => { l with sticky := l.sticky ||| (1 <<< (src.toNat % 64)) }

/-- MON_LAST_GASP records the cause of an entry to the safe state (20_faults R490, Table 20.6). -/
def State.gasp (s : State) (cause line : Nat) (src : BitVec 13) : State :=
  { s with flt := { s.flt with gaspValid := true, gaspCause := cause, gaspLine := line, gaspSrc := src,
                               gaspRound := BitVec.ofNat 32 s.tt.round.toNat } }

/-- Every MAC completes the frames on their way to its wire and then sends idles: those copies end, with their records and captures
(20_faults R488; 22_board R525). -/
def State.stopTransmit (s : State) : State := (List.range 512).foldl (fun (s : State) lp => s.finishAll lp) s

/-- A waiting context stops at once and replies INTERNAL with its units count; one that runs or is ready stops as the sequencer serves it on
(16_microcode R406). -/
def State.stopContext (s : State) (p : CmdPort) : State :=
  let c := s.ctx p
  match c.st with
  | .idle => s
  | .waiting =>
    let s := s.modCtx p fun c => { c with st := .idle, cmd := none, cause := 7 }
    match c.cmd with
    | some w => if c.finalSent then s else s.sendReply w (mkReply w.opcode 0x30 0 w.tag (bytesLe 8 c.units.toNat))
    | none => s
  | _ => s.modCtx p fun c => { c with stopping := true }

/-- Every command context stops (16_microcode R406; 20_faults R488). -/
def State.stopContexts (s : State) : State :=
  [CmdPort.cp0, .cp1, .cp2, .cp3].foldl (fun (s : State) p => s.stopContext p) s

/-- Entry to the safe state (20_faults R488): FAULT_N asserted, SAFE sent to the peer ahead of every other message, every
context stopped, transmit stopped, the Cabinet flushed and sealed. Under THERMAL_TRIP every port island and DRAM channel
island is then powered down and THERMTRIP_N held low. An entry while already safe changes nothing. -/
def State.enterSafe (s : State) (cause line : Nat) (src : BitVec 13) (thermal : Bool) : State :=
  if s.flt.safe then s
  else
    let s := s.gasp cause line src
    let s := { s with flt := { s.flt with faultN := true } }
    let s := if s.mirror.linkUp then s.emit (.link 2 []) else s
    let s := s.stopContexts.stopTransmit.cabinetSafe
    let s := { s with flt := { s.flt with safe := true } }
    if thermal then
      let s := (List.range 64).foldl (fun (s : State) m => s.powerDown m) s
      let s := (List.range 16).foldl (fun (s : State) k => s.modChan k fun c => { c with down := true }) s
      { s with flt := { s.flt with thermtripN := true } }
    else s

/-- A change of a feed's state goes to the standby while the Dovetail link is up and the device is primary (09_feeds R248). -/
def State.sendFeed (s : State) (f : Nat) (c : FeedChange) : State :=
  if s.mirror.linkUp ∧ s.mirror.role = .primary then s.emit (.linkFeed f c) else s

/-- A feed's runtime state cleared as by reset_state: the containment of line 9 (09_feeds R247; 20_faults Table 20.1). -/
def State.clearFeed (s : State) (f : Nat) : State := s.modFeed f fun x => { FeedState.init with epoch := x.epoch + 1 }

/-- A line's containment applied to a source (20_faults Table 20.1, R481). The severity-1 occurrence that a containment
itself causes (DRAM_CHANNEL on a PLL loss) is raised by the caller. -/
def State.contain (s : State) (n : Nat) (src : Nat) : State :=
  let s := s.modLine n fun l => { l with contained := mark l.contained src }
  if n = 0 then (s.modMacro (src % 64) fun m => { m with pllFault := true }).islandFault (src % 64) false
  else if n = 9 then (s.clearFeed (src % 4096)).sendFeed (src % 4096) .reset
  else if n = 25 then
    match s.flt.shedAt with
    | some _ => s
    | none => { s with flt := { s.flt with shedAt := some (s.nowPs + (s.line 25).graceUs * usPs) } }
  else if n = 31 then (s.chanLeave (src % 16) 5)
  else s

/-- The grace timer started by a severity-3 occurrence when it does not run (20_faults R486). -/
def State.startGrace (s : State) (n : Nat) (src : BitVec 13) : State :=
  match s.flt.graceEnd with
  | some _ => s
  | none => { s with flt := { s.flt with graceLine := n, graceSrc := src, graceEnd := some (s.nowPs + (s.line n).graceUs * usPs) } }

/-- An occurrence acts at a severity (20_faults R481): captured and reported from 1 on, contained at 2, the grace timer or
the safe state at 3. -/
def State.actAt (s : State) (n : Nat) (src : BitVec 13) (sev : Nat) : State :=
  if sev = 0 then s
  else
    let s := (s.capture n src).raise (1152 + n)
    if s.flt.safe then s
    else if sev = 2 then s.contain n src.toNat
    else if sev = 3 then
      if n = 26 ∨ n = 11 ∨ n = 36 then s.enterSafe 2 n src (n = 26) else s.startGrace n src
    else s

/-- A command port is no longer fenced (20_faults, after Table 20.1): a port reset of it lifts the fence (15_commands R381). -/
def State.unfence (s : State) (p : Nat) : State := s.modLine 37 fun l => { l with contained := l.contained.filter (· != p) }

/-- An occurrence of a line by a source (20_faults R480 to R483, R486): counted always; a counted line acts at its severity
only on the count_n-th occurrence within its window, and at severity 1 before. In the safe state it is captured and counted alone. -/
def State.occur (s : State) (n : Nat) (src : BitVec 13) : State :=
  if reservedLine n ∨ 48 ≤ n then s
  else
    let s := s.modLine n fun l => { l with count := l.count + 1 }
    let l := s.line n
    if s.flt.safe then s.capture n src
    else if s.lineCounted n then
      let w :=
        match l.window with
        | some (t, k) => if s.nowPs < t + l.windowMs * msPs then (t, k + 1) else (s.nowPs, 1)
        | none => (s.nowPs, 1)
      if l.countN ≤ w.2 then
        (s.modLine n fun l => { l with window := none }).actAt n src l.severity
      else (s.modLine n fun l => { l with window := some w }).actAt n src 1
    else s.actAt n src l.severity

/-- A channel leaves service with its fault (14_dram R354; 20_faults Table 20.1 line 32). -/
def State.chanFail (s : State) (k : Nat) (cause : BitVec 4) : State :=
  if s.chanOut k then s else (s.chanLeave k cause).occur 32 (BitVec.ofNat 13 k)

end Sys2Proof.Machine
end

