-- ==== Sys2Proof/Machine/Operands.lean ====
section
/-!
DEFINITION. The operand forms of commands: the packet header as it is authenticated (15_commands Table 15.4), little-endian
parameter fields, reserved fields, the table header of Table 15.10 and the ports that queries name (R388).
-/

namespace Sys2Proof.Machine

/-- The 16-byte header of a packet (15_commands Table 15.4). -/
def headerBytes (op : Nat) (p : Pkt) : List Byte :=
  bytesLe 2 op ++ bytesLe 2 (p.keySlot.toNat + 8 * b1 p.trailer + 16 * (p.resv.toNat % 4096)) ++
    bytesLe 2 p.length.toNat ++ bytesLe 2 (p.resv.toNat / 4096) ++ bytesLe 8 p.tag.toNat

/-- What an accepted command leaves to its final reply and its audit record. -/
def mkWaiter (op : Nat) (p : Pkt) (mirror : Option (BitVec 64)) : Waiter :=
  { port := p.port, inst := p.inst, opcode := BitVec.ofNat 16 op, tag := p.tag, keySlot := p.keySlot, trailer := p.trailer,
    counter := p.counter, check := p.check, digest := sha256 (headerBytes op p ++ p.params), src := p.src, vlan := p.vlan,
    mirror := mirror }

/-- The parameters as one little-endian number. -/
def img (ps : List Byte) : Nat := le ps

/-- Every bit of the parameters that the mask leaves clear is zero: reserved fields (00_scope R8). -/
def onlyBits (ps : List Byte) (mask : Nat) : Bool := decide (le ps % 2 ^ (8 * ps.length) &&& mask = le ps)

/-- Bits `lo` to `lo + w − 1` as a mask. -/
def bits (lo w : Nat) : Nat := (2 ^ w - 1) * 2 ^ lo

/-- The parameters with the op field of a sub-operation row as that row fixes it: the field of `w` bits at bit `lo`. -/
def forceOp (p : Pkt) (lo w v : Nat) : Pkt :=
  { p with params := bytesLe p.params.length (setFld (le p.params) lo w v) }

/-- The table header of 15_commands Table 15.10. -/
structure TblHeader where
  table : Nat
  source : Nat
  gen : Nat
  form : Nat
  reserved : Bool
  index : Nat
  aux : Nat
deriving DecidableEq, Repr

/-- The table header that parameters begin with. -/
def tblHeader (ps : List Byte) : TblHeader :=
  let v := le (sliceAt ps 0 16)
  { table := fld v 0 8, source := fld v 8 3, gen := fld v 11 1, form := fld v 12 2,
    reserved := fld v 14 18 != 0 || fld v 96 32 != 0, index := fld v 32 32, aux := fld v 64 32 }

/-- The port that PORT_STATUS and STATS_READ name (15_commands R388): 0 to 511, or 512 for the management port. -/
def queryPort (ps : List Byte) : Nat := fld (img ps) 0 10

end Sys2Proof.Machine
end

