-- ==== Sys2Proof/Machine/CmdOps.lean ====
section
/-!
DEFINITION. The command engine's shared path (15_commands R361 to R382; 19_pair R466 to R468; 18_instances R447; 20_faults
R489): replies and the rings they go to, audits, key checks, acceptance in the order of R374, and the frame around every
command's own work.
-/

namespace Sys2Proof.Machine

/-- What a command's own work answers: the state, the status and detail of its reply, its results, and, when it is applied
in part, that its audit says PARTIAL. Status 1 is PENDING; status 0x100 stands for a routine that sends its own replies. -/
structure Done where
  st : State
  status : Nat
  detail : Nat := 0
  results : List Byte := []
  part : Bool := false

/-- A command's own work: the waiting command, its packet, its parameters and the state. -/
abbrev Handler := Waiter → Pkt → List Byte → State → Done

/-- OK. -/
def ok (s : State) (results : List Byte := []) : Done := { st := s, status := 0x00, results := results }
/-- PENDING. -/
def pendingReply (s : State) : Done := { st := s, status := 0x01 }
/-- BAD_LENGTH. -/
def badLength (s : State) (detail : Nat := 0) : Done := { st := s, status := 0x11, detail := detail }
/-- BUSY. -/
def busy (s : State) (detail : Nat := 0) : Done := { st := s, status := 0x14, detail := detail }
/-- NO_RESOURCE. -/
def noResource (s : State) : Done := { st := s, status := 0x16 }

/-- An AUTH_FAIL or COUNTER_STALE reply: counted on its port and on its ring, its event raised, and an occurrence of AUTH
(15_commands R375; 20_faults Table 20.1). -/
def State.authFail (s : State) (w : Waiter) : State :=
  let p := portNum w.port
  let s := { s with cmd := { s.cmd with authFails := tmod 0 s.cmd.authFails p (· + 1) } }
  let s := if w.port = .cp0 then s.modCmdRing w.inst.val fun g => { g with authFail := g.authFail + 1 } else s
  (s.raise (1328 + p)).occur 37 (BitVec.ofNat 13 p)

/-- A final reply that is the command's first: audit of a critical command that was applied, wholly or in part
(01_structure R24; 13_cabinet R322). -/
def finishCmd (w : Waiter) (d : Done) : State :=
  let s := d.st
  let outcome := if !critical w.opcode.toNat then none else if d.status = 0 then some 0 else if d.part then some 1 else none
  let r := mkReply w.opcode d.status d.detail w.tag d.results
  let s := if w.port = .cp1 ∧ critical w.opcode.toNat then s.keepReply w r else s
  let s := if d.status = 0x12 ∨ d.status = 0x13 then s.authFail w else s
  s.firstReply w r outcome

/-! ### Acceptance (15_commands R374) -/

/-- An opcode the device implements (15_commands Table 15.9). -/
def knownOp (op : Nat) : Bool :=
  critical op || [0x0001, 0x0002, 0x0003, 0x0010, 0x0011, 0x0102, 0x0202, 0x0206, 0x0301, 0x0302, 0x0403, 0x0502, 0x0503,
    0x0602, 0x0702, 0x0802, 0x0805, 0x0901, 0x0A01].contains op

/-- The opcode group of 18_instances Table 18.2. -/
def opGroup (op : Nat) : Option Nat :=
  if op = 1 ∨ op = 2 then some 0
  else if op = 3 ∨ op = 0x0702 ∨ op = 0x0011 then some 1
  else if op = 0x0301 ∨ op = 0x0302 then some 2
  else if op = 0x0202 then some 3
  else if op = 0x0502 then some 4
  else if op = 0x0403 then some 5
  else if op = 0x0A01 then some 6
  else none

/-- The owner of a logical port (18_instances R444). -/
def State.ownerOf (s : State) (lp : Nat) : Nat := tget 0 s.portOwner lp

/-- The limits of 18_instances Table 18.2 on what an instance's request names. -/
def State.withinLimits (s : State) (n op : Nat) (ps : List Byte) : Bool :=
  let h := tblHeader ps
  if op = 0x0301 ∨ op = 0x0302 then decide (queryPort ps < 512) && s.ownerOf (queryPort ps) == n
  else if op = 0x0202 then
    (([0x12, 0x1A].contains h.table) && s.ownerOf (h.index / 16) == n && decide (h.index < 8192)) ||
    (([0x13, 0x1B].contains h.table) && s.ownerOf h.index == n && decide (h.index < 512)) ||
    (h.table == 0x16 && h.index == n)
  else if op = 0x0403 then
    let d := fld (img ps) 0 6
    d != 0 && bitAt (s.inst n).drawerMask.toNat d
  else true

/-- An opcode allowed to the port and instance (18_instances R447): instance 0 may submit every opcode. -/
def State.opAllowed (s : State) (p : Pkt) (op : Nat) : Bool :=
  if p.port = .cp0 ∧ p.inst.val ≠ 0 then
    match opGroup op with
    | some g => bitAt (s.inst p.inst.val).opcodeMask.toNat g && s.withinLimits p.inst.val op p.params
    | none => false
  else true

/-- The key slots permitted for an opcode (15_commands R371). -/
def slotPermitted (op slot : Nat) : Bool :=
  if op = 0x0700 ∨ op = 0x0701 then slot == 0
  else if critical op then decide (1 ≤ slot) && decide (slot ≤ 4)
  else decide (slot ≤ 4)

/-- The key that checks packets under a slot (15_commands R369, R372). -/
def State.checkKey (s : State) (slot : Nat) : Option (List Byte) :=
  match (s.key slot).key with
  | some k => some (if slot = 0 then hmac256 k [0x61, 0x75, 0x74, 0x68] else k)
  | none => none

/-- The keyed check of a packet under a slot that holds a key (15_commands R372). -/
def State.keyedCheck (s : State) (key : List Byte) (op : Nat) (p : Pkt) : List Byte :=
  let slot := p.keySlot.toNat
  let binding := if slot = 0 then s.cmd.bootNonce.toNat else (s.key slot).epoch.toNat
  (hmac256 key (bytesLe 16 binding ++ headerBytes op p ++ p.params ++ bytesLe 8 p.counter.toNat)).take 16

/-- A refusal of acceptance: status and detail. -/
abbrev Refused := Nat × Nat

/-- The checks of R374 up to the counter, in order; nothing when the packet passes. -/
def State.authCheck (s : State) (op : Nat) (p : Pkt) : Option Refused :=
  let slot := p.keySlot.toNat
  if 510 < p.length.toNat ∨ p.params.length ≠ 8 * p.length.toNat ∨ (p.port = .cp3 ∧ p.pad ≠ 0) then some (0x11, 0)
  else if p.resv ≠ 0 ∨ (!p.trailer ∧ slot ≠ 0) then some (0x11, 0)
  else if !knownOp op ∨ !s.opAllowed p op then some (0x10, 0)
  else if !p.trailer then
    if critical op ∨ (s.cmd.authAll ∧ (p.port = .cp1 ∨ p.port = .cp3)) then some (0x12, 0x01) else none
  else if (p.port = .cp0 ∧ p.inst.val ≠ 0) ∨ !slotPermitted op slot then some (0x12, 0x02)
  else
    match s.checkKey slot with
    | none => some (0x12, 0x03)
    | some k =>
      if bytesLe 16 p.check.toNat ≠ s.keyedCheck k op p then some (0x12, 0x04)
      else if p.counter ≤ (s.key slot).counter then some (0x13, 0x05)
      else none

/-- The mirrored set of 19_pair Table 19.7. -/
def mirroredOp (op : Nat) (ps : List Byte) : Bool :=
  [0x0100, 0x0101, 0x0201, 0x0203, 0x0204, 0x0205, 0x0300].contains op || (op == 0x0200 && byteAt ps 0 != 0x14)

/-- The commands a standby refuses on CP0, CP1 and CP3 (19_pair R466, Table 19.7). -/
def primaryOnly (op : Nat) (ps : List Byte) : Bool :=
  mirroredOp op ps || op == 0x0500 || (op == 0x0501 && byteAt ps 0 != 5)

/-- The commands accepted in the safe state (20_faults R489). -/
def safeOp (op : Nat) : Bool :=
  [0x0001, 0x0002, 0x0003, 0x0011, 0x0102, 0x0202, 0x0301, 0x0302, 0x0502, 0x0702, 0x0602, 0x0901].contains op

/-- The device mirrors (19_pair R463). -/
def State.mirroring (s : State) : Bool :=
  s.mirror.linkUp &&
    (match s.mirror.peer with
     | some (r, id, _, _) => id == s.mirror.pairId &&
        ((s.mirror.role == .primary && r == .standby) || (s.mirror.role == .standby && r == .primary))
     | none => false)

/-- A packet leaves the place where it waited: the ring slot, or the head of its port's queue. -/
def State.unqueue (s : State) (op : Nat) (p : Pkt) : State :=
  match p.port with
  | .cp0 =>
    let g := s.cmdRing p.inst.val
    if g.cmdHead = g.cmdTail then s else s.modCmdRing p.inst.val fun g => { g with cmdHead := g.cmdHead + 1 }
  | .cp1 =>
    match s.cmd.cp1Q with
    | q :: r => if q.opcode.toNat = op ∧ q.pkt = p then { s with cmd := { s.cmd with cp1Q := r } } else s
    | [] => s
  | .cp3 =>
    match s.cmd.cp3Q with
    | q :: r => if q.opcode.toNat = op ∧ q.pkt = p then { s with cmd := { s.cmd with cp3Q := r } } else s
    | [] => s
  | .cp2 => s

/-- A kept CP1 reply that a packet repeats (15_commands R382). -/
def State.keptReply (s : State) (p : Pkt) : Option Kept :=
  if p.port = .cp1 ∧ p.trailer then
    s.cmd.kept.find? fun k => k.slot == p.keySlot && k.counter == p.counter && k.check == p.check
  else none

/-- The port is fenced: its packets are discarded without reply (20_faults, after Table 20.1). -/
def State.fenced (s : State) (p : CmdPort) : Bool := marked (s.line 37).contained (portNum p)

/-- A mirrored command that has sent no first reply holds its port's context (15_commands R379), and keeps every other mirrored command of
a PRIMARY from starting (19_pair R467). -/
def State.mirrorBusy (s : State) (op : Nat) (p : Pkt) : Bool :=
  match s.mirror.inProgress with
  | some c => p.port != .cp2 && (c.waiter.port == p.port || mirroredOp op p.params)
  | none => false

/-- A packet waits on its port: CP1 and CP3 queue it, CP0's ring still holds it. -/
def State.holdPacket (s : State) (op : Nat) (p : Pkt) : State :=
  let q : Queued := { opcode := BitVec.ofNat 16 op, pkt := p }
  match p.port with
  | .cp1 => if s.cmd.cp1Q.contains q ∨ 16 ≤ s.cmd.cp1Q.length then s else { s with cmd := { s.cmd with cp1Q := s.cmd.cp1Q ++ [q] } }
  | .cp3 => if s.cmd.cp3Q.contains q ∨ 4 ≤ s.cmd.cp3Q.length then s else { s with cmd := { s.cmd with cp3Q := s.cmd.cp3Q ++ [q] } }
  | _ => s

/-- The next mirror_seq given to a mirrored command of a PRIMARY, and its COMMAND message while it mirrors (19_pair R467,
R469): with TT_ACTIVATE goes the device time of the start of the resolved round. -/
def State.mirrorOut (s : State) (op : Nat) (p : Pkt) (tN : Nat) (w : Waiter) : State :=
  match w.mirror with
  | none => s
  | some q =>
    let s := { s with mirror := { s.mirror with seq := q } }
    if s.mirroring then
      ({ s with mirror := { s.mirror with inProgress := some { seq := q, own := none, waiter := w, peerSeen := false } } } : State).emit
        (.linkCommand q (BitVec.ofNat 16 op) p tN)
    else s

/-- The round that a TT_ACTIVATE resolves to (02_timetable R65). -/
def State.resolveRound (s : State) (ps : List Byte) : Nat :=
  let n := leAt ps 8 8
  if n = 0 then s.tt.round.toNat + 5 else n

/-- A command context holds a command in this round (21_counters R503). -/
def State.engineUse (s : State) : State := { s with pmc := { s.pmc with engineUsed := true } }

/-- A command packet run through R374 and executed. `wf` is its parameter check and `h` its own work. The packet is not
taken before the end of phase 4 (22_board R524), and waits while its context runs a routine (15_commands R361); a fenced port
discards it (20_faults); a repeat on CP1 is answered from its kept reply (R382); a mirrored command of a PRIMARY waits while another has sent no first reply (19_pair R467). -/
def State.runCommand (s : State) (op : Nat) (p : Pkt) (wf : List Byte → State → Bool) (h : Handler) : State :=
  let s := s.at_ p.at8.val
  if s.boot.phase < 4 ∨ s.boot.failed then s
  else if s.mirrorBusy op p ∨ (s.ctx p.port).st ≠ .idle then s.holdPacket op p
  else
    let s := (s.unqueue op p).engineUse
    if s.fenced p.port then { s with flt := { s.flt with fencedPkts := s.flt.fencedPkts + 1 } }
    else
      match s.keptReply p with
      | some k =>
        let s := { s with cmd := { s.cmd with cp1Repeat := s.cmd.cp1Repeat + 1 } }
        match k.reply with
        | some r => s.sendReply (mkWaiter op p none) r
        | none => s
      | none =>
        let w0 := mkWaiter op p (if p.port = .cp2 then some s.mirror.seq else none)
        match s.authCheck op p with
        | some (st, de) => finishCmd w0 { st := s, status := st, detail := de }
        | none =>
          let s := if p.trailer then s.modKey p.keySlot.toNat fun k => { k with counter := p.counter } else s
          if !wf p.params s then finishCmd w0 (badLength s)
          else if s.mirror.role = .standby ∧ p.port ≠ .cp2 ∧ primaryOnly op p.params then
            finishCmd w0 { st := s, status := 0x17 }
          else
            let s := { s with cmd := { s.cmd with executed := s.cmd.executed + 1 } }
            let kept : Kept := { slot := p.keySlot, counter := p.counter, check := p.check, reply := none }
            let s := if p.port = .cp1 ∧ critical op then { s with cmd := { s.cmd with kept := (kept :: s.cmd.kept).take 16 } }
              else s
            if s.flt.safe ∧ !safeOp op then finishCmd w0 (busy s (if op = 0x0101 then 0x0A else 0))
            else
              let w := if s.mirror.role = .primary ∧ mirroredOp op p.params then { w0 with mirror := some (s.mirror.seq + 1) } else w0
              let s := s.mirrorOut op p (if op = 0x0101 then s.roundStartTime (s.resolveRound p.params) else 0) w
              let d := h w p p.params s
              if d.status = 0x100 then d.st
              else if d.status = 1 then
                let s := { d.st with cmd := { d.st.cmd with awaiting := d.st.cmd.awaiting + 1 } }
                s.firstReply w (mkReply w.opcode 1 d.detail w.tag []) none
              else finishCmd w d

end Sys2Proof.Machine
end

