-- ==== Sys2Proof/Machine/Flags.lean ====
section
/-!
DEFINITION. The status words of the device as its registers and records show them: the time-quality word (05_time Table 5.8),
FLT_STATUS (20_faults Table 20.3), MON_STATUS (Table 20.6), CAB_STATUS and CAB_DRW_STATE (13_cabinet Tables 13.8, 13.10),
CAB_CH_STATUS (14_dram Table 14.4), HOST_BOOT (22_board Table 22.13) and HOST_LINK (17_host Table 17.5).
-/

namespace Sys2Proof.Machine

/-- A calibrated UP port lies beyond ±20 °C of its calibration temperature (05_time R142, Table 5.8). -/
def State.drifted (s : State) : Bool :=
  s.upPorts.any fun lp => (s.port lp).cal.valid && decide (160 < s.calDistance lp)

/-- UP ports with a valid calibration, or without one. -/
def State.upCalibrated (s : State) (valid : Bool) : Nat := (s.upPorts.filter fun lp => (s.port lp).cal.valid == valid).length

/-- The time-quality word (05_time Table 5.8). -/
def State.timeQuality (s : State) : Nat :=
  let t := s.time
  b1 t.timeSet + b1 t.ppsPresent * 2 + b1 t.refPresent * 4 + b1 t.refHoldover * 8 + b1 t.dovetailLocked * 16 +
    b1 s.drifted * 32 + b1 (decide (0 < s.upCalibrated false)) * 64 + b1 s.slewing * 128 + t.source.toNat * 256 +
    t.stepCount.toNat * 2 ^ 16 + t.hostState.toNat * 2 ^ 24 + t.hostSource.toNat * 2 ^ 28 + t.hostAccuracy.toNat * 2 ^ 32 +
    unsgn 16 t.ppsOffset * 2 ^ 40

/-- FLT_STATUS (20_faults Table 20.3). -/
def State.fltStatus (s : State) : Nat :=
  ((List.range 48).map fun n => b1 (s.line n).latched * 2 ^ n).sum + b1 s.flt.overflow * 2 ^ 62 +
    b1 s.flt.graceEnd.isSome * 2 ^ 63

/-- The hottest sensor and its reading: the first of equals (20_faults Table 20.6; log entry 9). -/
def State.hottest (s : State) : Nat :=
  (List.range 32).foldl (fun h k =>
    if sgn 16 (s.sensor h).reading.toNat < sgn 16 (s.sensor k).reading.toNat then k else h) 0

/-- MON_STATUS (20_faults Table 20.6). -/
def State.monStatus (s : State) : Nat :=
  (s.sensor s.hottest).reading.toNat + s.hottest * 2 ^ 16 + b1 ((List.range 32).any fun k => (s.sensor k).warn) * 2 ^ 21 +
    b1 ((List.range 32).any fun k => (s.sensor k).alarm) * 2 ^ 22 + s.mon.shed.toNat * 2 ^ 24

/-- CAB_STATUS (13_cabinet Table 13.8). -/
def State.cabStatus (s : State) : Nat :=
  b1 s.recording + b1 s.cab.paused * 2 + b1 s.cab.panic * 4 + b1 s.cab.safeSealed * 8 + s.stagingUsed * 16 +
    ((List.range 8).map fun c => b1 (s.evClass c).drawer.isSome * 2 ^ (32 + c)).sum +
    ((List.range 8).map fun c => b1 (decide (0 < (s.evClass c).pendLost)) * 2 ^ (40 + c)).sum

/-- The code of a drawer's state (13_cabinet Table 13.10). -/
def DrawerSt.code : DrawerSt → Nat
  | .empty => 0 | .opened => 1 | .closed => 2 | .erasing => 3

/-- CAB_DRW_STATE of a drawer (13_cabinet Table 13.10). -/
def State.drawerState (s : State) (d : Nat) : Nat :=
  let w := s.drawer d
  w.st.code + w.typ * 4 + b1 w.wrap * 16 + b1 (w.typ == 1 && w.full) * 32 + b1 w.rejected * 64 +
    ((s.classesOf d).map fun c => 2 ^ (8 + c)).sum + w.sealKey * 2 ^ 16 + w.sealIndex % 2 ^ 32 * 2 ^ 32

/-- The code of a channel's state (14_dram Table 14.4). -/
def ChanSt.code : ChanSt → Nat
  | .training => 0 | .initialising => 1 | .inService => 2 | .outOfService => 3

/-- CAB_CH_STATUS (14_dram Table 14.4). -/
def State.chanStatus (s : State) (k : Nat) : Nat :=
  let c := s.chan k
  c.st.code + b1 c.selfRefresh * 4 + b1 c.hot * 8 + c.temp.toNat * 16 + c.cause.toNat * 2 ^ 12 + c.cap * 2 ^ 16 +
    c.ranks * 2 ^ 25 + c.readEye * 2 ^ 28 + c.writeEye * 2 ^ 36

/-- HOST_BOOT (22_board Table 22.13). -/
def State.hostBoot (s : State) : Nat :=
  let b := s.boot
  b.phase + b.slot * 16 + b.configSource * 64 + b1 b.done * 2 ^ 8 + b1 b.cabinetReady * 2 ^ 9 + b1 b.warm * 2 ^ 10 +
    b1 b.ownerKey * 2 ^ 11 + b.serdesEnabled.toNat * 2 ^ 16 + b.serdesUp.toNat * 2 ^ 24 + b.dramTrained.toNat * 2 ^ 32 +
    b.straps.toNat * 2 ^ 48

/-- HOST_LINK.release_ready (17_host Table 17.5). -/
def State.releaseReady (s : State) : Bool := s.host.gen != 0 && (s.fn 0).busMaster

/-- HOST_LINK (17_host Table 17.5). -/
def State.hostLink (s : State) : Nat :=
  s.host.gen.toNat + s.host.width.toNat * 16 + b1 s.host.flit * 2 ^ 9 + b1 s.host.frozen * 2 ^ 10 + b1 s.releaseReady * 2 ^ 11

/-- The code of a port's state (04_line Table 4.3). -/
def PortState.code : PortState → Nat
  | .disabled => 0 | .lowPower => 1 | .waking => 2 | .an => 3 | .training => 4 | .align => 5 | .up => 6
  | .modeBlocked => 7 | .islandFault => 8

end Sys2Proof.Machine
end

