-- ==== Sys2Proof/Machine/Training.lean ====
section
/-!
DEFINITION. The sweeps of a DRAM channel's training: eyes, the settings they give, and whether they pass (14_dram R342 to R344).
-/

namespace Sys2Proof.Machine

/-- One step of a scan for the longest run of passing delays: present run's start and length, best start and length. -/
def runStep (m : BitVec 128) (x : Nat × Nat × Nat × Nat) (i : Nat) : Nat × Nat × Nat × Nat :=
  let (cs, cl, bs, bl) := x
  if m.getLsbD i then
    let cs' := if cl = 0 then i else cs
    if bl < cl + 1 then (cs', cl + 1, cs', cl + 1) else (cs', cl + 1, bs, bl)
  else (0, 0, bs, bl)

/-- The longest run of consecutive passing delay steps at a level, the first of equals: start and width (14_dram R344; log
entry 24). -/
def longestRun (m : BitVec 128) : Nat × Nat :=
  let x := (List.range 128).foldl (runStep m) (0, 0, 0, 0)
  (x.2.2.1, x.2.2.2)

/-- The eye of a lane in one direction (14_dram R344): level, delay and width. The level is the middle one of those with the
greatest width, the lower of two middle ones; the delay is the centre of its run. -/
def chooseEye (w : Sweep) : Nat × Nat × Nat :=
  let runs := (List.range 32).map fun l => longestRun (w.getD l 0)
  let best := runs.foldl (fun m r => max m r.2) 0
  let ties := (List.range 32).filter fun l => (runs.getD l (0, 0)).2 == best
  let level := ties.getD ((ties.length - 1) / 2) 0
  let r := runs.getD level (0, 0)
  (level, r.1 + (r.2 - 1) / 2, r.2)

/-- The eyes of a channel's lanes in one direction. -/
def eyesOf (ws : List Sweep) : List (Nat × Nat × Nat) := ws.map chooseEye

/-- The narrowest of the eyes. -/
def narrowest (es : List (Nat × Nat × Nat)) : Nat := es.foldl (fun m e => min m e.2.2) 128

/-- A training passes: its steps, a sweep of each of the channel's lanes, and every lane at least 16 steps wide in both directions (14_dram
R342 to R344). -/
def trainingPasses (lanes : Nat) (t : Training) : Bool :=
  t.stepsOk && t.read.length == lanes && t.write.length == lanes &&
    (eyesOf t.read ++ eyesOf t.write).all fun e => decide (16 ≤ e.2.2)

/-- A channel's settings and narrowest eyes after its sweeps, passed or not (14_dram R344). -/
def Chan.settle (c : Chan) (t : Training) : Chan :=
  let r := eyesOf t.read
  let w := eyesOf t.write
  { c with
    readEye := narrowest r, writeEye := narrowest w
    lanes := (r.zip w).map fun x => { rdLevel := x.1.1, rdDelay := x.1.2.1, wrLevel := x.2.1, wrDelay := x.2.2.1 } }

end Sys2Proof.Machine
end

