-- ==== Sys2Proof/Machine/System.lean ====
section
/-!
DEFINITION. NOP, IDENTIFY, READ_STATE, MONITOR_READ, COUNTER_READ, KEY_INSTALL, KEY_RETIRE and the six SELFTEST operations
with SELFTEST_COMPLETE (15_commands R376 to R387; 20_faults R497, R498; 14_dram R360).
-/

namespace Sys2Proof.Machine

/-- The answer of a command. -/
abbrev Ans := Host.Outcome State Fault Refusal

/-- The parameters have exactly `n` bytes. -/
def lenIs (n : Nat) (ps : List Byte) (_ : State) : Bool := ps.length == n
/-- The parameters are `n` reserved bytes. -/
def lenZero (n : Nat) (ps : List Byte) (_ : State) : Bool := ps.length == n && allZero ps

/-- NOP replies OK (15_commands R383). -/
def doNop : Handler := fun _ _ _ s => ok s
/-- `NOP`. -/
def execNop (p : Pkt) (s : State) : Ans := .next (s.runCommand 0x0001 p (lenIs 0) doNop)

/-- The IDENTIFY results (15_commands Table 15.13). -/
def identifyBytes (s : State) : List Byte :=
  bytesLe 16 s.env.deviceId.toNat ++ bytesLe 2 0x5120 ++ bytesLe 2 0x00B2 ++ bytesLe 4 s.ucode.version.toNat ++
    bytesLe 16 s.cmd.bootNonce.toNat ++ bytesLe 8 0
/-- IDENTIFY (15_commands Table 15.13). -/
def doIdentify : Handler := fun _ _ _ s => ok s (identifyBytes s)
/-- `IDENTIFY`. -/
def execIdentify (p : Pkt) (s : State) : Ans := .next (s.runCommand 0x0002 p (lenIs 0) doIdentify)

/-- The contexts now running a command: the one that executes, and those in the middle of a routine (15_commands R387). -/
def runningBits (s : State) (own : CmdPort) : Nat :=
  ([CmdPort.cp0, .cp1, .cp2, .cp3].map fun c => b1 (c == own || (s.ctx c).st != .idle) * 2 ^ portNum c).sum
/-- The READ_STATE results (15_commands R387). -/
def readStateBytes (s : State) (own : CmdPort) : List Byte :=
  bytesLe 1 (runningBits s own) ++ bytesLe 1 s.cmd.cp1Q.length ++ bytesLe 1 s.cmd.cp3Q.length ++ bytesLe 1 0 ++
    bytesLe 4 s.cmd.awaiting ++ bytesLe 8 s.cmd.executed.toNat ++
    bytesLe 8 ((List.range 4).map fun p => (tget 0 s.cmd.authFails p).toNat).sum ++ bytesLe 8 s.cmd.cp1Repeat.toNat ++
    bytesLe 8 s.cmd.cp3Discards.toNat
/-- READ_STATE (15_commands R387). -/
def doReadState : Handler := fun w _ _ s => ok s (readStateBytes s w.port)
/-- `READ_STATE`. -/
def execReadState (p : Pkt) (s : State) : Ans := .next (s.runCommand 0x0003 p (lenIs 0) doReadState)

/-- The MONITOR_READ results (20_faults R497). -/
def monitorBytes (s : State) : List Byte :=
  fit 256 (((List.range 32).map fun k => bytesLe 2 (s.sensor k).reading.toNat).flatten ++
    ((List.range 32).map fun k => bytesLe 2 (s.sensor k).maximum.toNat).flatten ++
    ((List.range 24).map fun k => bytesLe 2 (s.volt k).mv.toNat).flatten ++
    ((List.range 16).map fun k => bytesLe 2 (s.mon.process.getD k 0).toNat).flatten ++ bytesLe 2 s.mon.avsMv.toNat)
/-- MONITOR_READ (20_faults R497). -/
def doMonitorRead : Handler := fun _ _ _ s => ok s (monitorBytes s)
/-- `MONITOR_READ`. -/
def execMonitorRead (p : Pkt) (s : State) : Ans := .next (s.runCommand 0x0011 p (lenZero 8) doMonitorRead)

/-- One slot's entry of COUNTER_READ (15_commands R378). -/
def counterEntry (s : State) (k : Nat) : List Byte :=
  bytesLe 8 (b1 (s.key k).key.isSome) ++ bytesLe 8 (if k < 5 then (s.key k).counter.toNat else 0) ++
    bytesLe 16 (if 1 ≤ k ∧ k ≤ 4 then (s.key k).epoch.toNat else 0)
/-- The COUNTER_READ results (15_commands R378). -/
def counterBytes (s : State) : List Byte :=
  bytesLe 16 s.cmd.bootNonce.toNat ++ ((List.range 7).map (counterEntry s)).flatten
/-- COUNTER_READ (15_commands R378). -/
def doCounterRead : Handler := fun _ _ _ s => ok s (counterBytes s)
/-- `COUNTER_READ`. -/
def execCounterRead (p : Pkt) (s : State) : Ans := .next (s.runCommand 0x0702 p (lenIs 0) doCounterRead)

/-- The wrap key (15_commands R369): HMAC of the owner key over "wrap". -/
def State.wrapKey (s : State) : List Byte := hmac256 ((s.key 0).key.getD []) [0x77, 0x72, 0x61, 0x70]

/-- The format of KEY_INSTALL (15_commands R376, Table 15.8). -/
def wfKeyInstall (ps : List Byte) (_ : State) : Bool :=
  ps.length == 64 && onlyBits (ps.take 8) (bits 0 3) && decide (1 ≤ fld (img ps) 0 3) && decide (fld (img ps) 0 3 ≤ 6) &&
    (decide (fld (img ps) 0 3 ≤ 4) || leAt ps 8 16 == 0)
/-- KEY_INSTALL (15_commands R376). -/
def doKeyInstall : Handler := fun _ _ ps s =>
  let k := fld (img ps) 0 3
  match keyUnwrap s.wrapKey (sliceAt ps 24 40) with
  | none => { st := s, status := 0x12, detail := 0x06 }
  | some key =>
    if (s.key k).key.isSome then busy s 0x07
    else ok (s.modKey k fun x => { x with key := some key, epoch := if k ≤ 4 then BitVec.ofNat 128 (leAt ps 8 16) else 0, counter := 0 })
/-- `KEY_INSTALL`. -/
def execKeyInstall (p : Pkt) (s : State) : Ans := .next (s.runCommand 0x0700 p wfKeyInstall doKeyInstall)

/-- A seal slot that an OPEN or CLOSED drawer names (13_cabinet R318). -/
def State.sealKeyNamed (s : State) (k : Nat) : Bool :=
  (List.range 64).any fun d => (s.drawer d).typ == 1 && (s.drawer d).sealKey + 4 == k &&
    ((s.drawer d).st == .opened || (s.drawer d).st == .closed)
/-- The format of KEY_RETIRE (15_commands R377). -/
def wfKeyRetire (ps : List Byte) (_ : State) : Bool :=
  ps.length == 8 && onlyBits ps (bits 0 3) && decide (1 ≤ img ps) && decide (img ps ≤ 6)
/-- KEY_RETIRE (15_commands R377). -/
def doKeyRetire : Handler := fun _ _ ps s =>
  let k := fld (img ps) 0 3
  if 5 ≤ k ∧ s.sealKeyNamed k then busy s 0x08 else ok (s.modKey k fun _ => KeySlot.init)
/-- `KEY_RETIRE`. -/
def execKeyRetire (p : Pkt) (s : State) : Ans := .next (s.runCommand 0x0701 p wfKeyRetire doKeyRetire)

/-! ### SELFTEST (20_faults R498) -/

/-- The format of SELFTEST: an op of Table 20.7, reserved bytes zero, and a target within its meaning (log entry 10). -/
def wfSelftest (ps : List Byte) (_ : State) : Bool :=
  let op := byteAt ps 0
  let t := leAt ps 8 8
  ps.length == 16 && decide (op ≤ 5) && allZero (sliceAt ps 1 7) &&
    (if op = 0 then t == 0 else if op = 1 then decide (t < 48) && !reservedLine t
     else if op = 4 then true else decide (t < 2 ^ 16))

/-- A SELFTEST operation may start (20_faults Table 20.7). -/
def State.selftestAllowed (s : State) (op t : Nat) : Bool :=
  if op = 2 ∨ op = 3 then s.cab.paused && s.cab.pauseWait.isNone
  else if op = 4 then
    (List.range 64).all fun m => !bitAt t m ||
      (s.macroPorts m).all fun lp =>
        ((s.port lp).st == .disabled || (s.port lp).st == .lowPower) && (s.port lp).calRun.isNone
  else if op = 5 then
    (List.range 16).all fun p => !bitAt t p ||
      ((List.range 32).all fun i => !s.isUp (32 * p + i)) &&
      (s.host.rings.all fun r => !(r.2.enable && r.2.pipe.toNat == p && (r.2.typ == 1 || r.2.typ == 2 || r.2.typ == 3)))
  else true

/-- SELFTEST (20_faults R498): one at a time, PENDING, and its final reply by SELFTEST_COMPLETE. FAULT_INJECT makes one
occurrence of the line, source 0, handled at severity 1. -/
def doSelftest : Handler := fun w _ ps s =>
  let op := byteAt ps 0
  let t := leAt ps 8 8
  if s.selftest.isSome ∨ !s.selftestAllowed op t then busy s
  else
    let s := { s with selftest := some { op := op, target := BitVec.ofNat 64 t, waiter := w } }
    pendingReply (if op = 1 then (s.modLine t fun l => { l with count := l.count + 1 }).actAt t 0 1 else s)

/-- SELFTEST run with the op of its row. -/
def State.selftestRow (s : State) (op : Nat) (p : Pkt) : State := s.runCommand 0x0010 (forceOp p 0 8 op) wfSelftest doSelftest
/-- `SELFTEST_MONITORS`. -/
def execSelftestMonitors (p : Pkt) (s : State) : Ans := .next (s.selftestRow 0 p)
/-- `SELFTEST_FAULT_INJECT`. -/
def execSelftestFaultInject (p : Pkt) (s : State) : Ans := .next (s.selftestRow 1 p)
/-- `SELFTEST_DRAM_RESWEEP`. -/
def execSelftestDramResweep (p : Pkt) (s : State) : Ans := .next (s.selftestRow 2 p)
/-- `SELFTEST_DRAM_BIST`. -/
def execSelftestDramBist (p : Pkt) (s : State) : Ans := .next (s.selftestRow 3 p)
/-- `SELFTEST_SERDES_PRBS`. -/
def execSelftestSerdesPrbs (p : Pkt) (s : State) : Ans := .next (s.selftestRow 4 p)
/-- `SELFTEST_PIPELINE`. -/
def execSelftestPipeline (p : Pkt) (s : State) : Ans := .next (s.selftestRow 5 p)

/-- The targets of an operation as a mask: bit 0 for MONITORS, the line's bit for FAULT_INJECT, else the mask given. -/
def selftestMask (op t : Nat) : Nat := if op = 0 then 1 else if op = 1 then 2 ^ (t % 64) else t

/-- The re-sweep of a channel by its sweeps, none when it came to none; it passes as a training does (14_dram R342 to R344, R360). -/
def State.resweepPasses (s : State) (sweeps : List (Fin 16 × Training)) (k : Nat) : Bool :=
  match sweeps.find? fun x => x.1.val == k with
  | some x => trainingPasses (s.chan k).laneCount x.2
  | none => false

/-- A re-swept channel: its settings and eyes are those of the sweeps; passed, it may return at the next RESUME; failed, it leaves service
with cause TRAINING (14_dram R342, R344, R357, R360); a sweep runs only on a locked PLL. -/
def State.resweepEnd (s : State) (k : Nat) (sweeps : List (Fin 16 × Training)) : State :=
  let passed := s.resweepPasses sweeps k
  let s := match sweeps.find? fun x => x.1.val == k with
    | some x => s.modChan k fun c => c.settle x.2
    | none => s
  if passed then
    ({ s with tt := { s.tt with pllLost := s.tt.pllLost.filter fun i => i.val != 86 + k } } : State).modChan k fun c =>
      { c with resweepOk := true }
  else s.chanFail k 3

/-- The targets that a SELFTEST passes: of a re-sweep by the sweeps, of the others as its own checks find. -/
def State.selftestPass (s : State) (op : Nat) (pass : Nat) (sweeps : List (Fin 16 × Training)) : Nat :=
  if op = 2 then ((List.range 16).map fun k => b1 (s.resweepPasses sweeps k) * 2 ^ k).sum else pass

/-- The end of the SELFTEST that runs (20_faults R498): OK with a pass and a fail mask over its targets; counting lasts
window_ms more after codes 2 to 5 (R484). -/
def State.selftestEnd (s : State) (pass : Nat) (sweeps : List (Fin 16 × Training)) : State :=
  match s.selftest with
  | none => s
  | some r =>
    let mask := selftestMask r.op r.target.toNat
    let pass := s.selftestPass r.op pass sweeps
    let s := { s with selftest := none }
    let s := if r.op = 2 then
        (List.range 16).foldl (fun (s : State) k => if bitAt mask k then s.resweepEnd k sweeps else s) s
      else s
    let s := if 2 ≤ r.op then
        (List.range 48).foldl (fun (s : State) n =>
          s.modLine n fun l => { l with countedUntil := some (s.nowPs + l.windowMs * msPs) }) s
      else s
    s.complete r.waiter 0 0 (bytesLe 8 (mask &&& pass) ++ bytesLe 8 (mask &&& (mask ^^^ (mask &&& pass))))
/-- `SELFTEST_COMPLETE`. -/
def execSelftestComplete (pass : BitVec 64) (sweeps : List (Fin 16 × Training)) (s : State) : Ans :=
  .next (s.selftestEnd pass.toNat sweeps)

end Sys2Proof.Machine
end

