-- ==== Sys2Proof/Machine/Faults.lean ====
section
/-!
DEFINITION. The fault collector's and the event unit's commands: FAULT_CONFIG, FAULT_RELEASE, occurrences, timers, losses
of lock and clock, holdoffs and unmasked vectors (20_faults R480 to R492; 03_islands R89; 17_host R441).
-/

namespace Sys2Proof.Machine

/-- The format of FAULT_CONFIG (20_faults R485, Table 20.2). -/
def wfFaultConfig (ps : List Byte) (_ : State) : Bool :=
  let v := img ps
  let n := fld v 0 6
  ps.length == 16 && onlyBits ps (bits 0 6 + bits 8 3 + bits 16 8 + bits 32 16 + bits 64 20) &&
    decide (n < 48) && !reservedLine n && (allowedSeverity n).contains (fld v 8 2) && (!bitAt v 10 || mayCount n) &&
    decide (1 ≤ fld v 16 8) && decide (1 ≤ fld v 32 16) && decide (fld v 32 16 ≤ 10000) &&
    decide (1 ≤ fld v 64 20) && decide (fld v 64 20 ≤ 1000000)

/-- FAULT_CONFIG (20_faults R485): it stops no grace timer and lifts no containment. -/
def doFaultConfig : Handler := fun _ _ ps s =>
  let v := img ps
  ok (s.modLine (fld v 0 6) fun l =>
    { l with severity := fld v 8 2, counted := bitAt v 10, countN := fld v 16 8, windowMs := fld v 32 16,
             graceUs := fld v 64 20 })
/-- `FAULT_CONFIG`. -/
def execFaultConfig (p : Pkt) (s : State) : Ans := .next (s.runCommand 0x0900 p wfFaultConfig doFaultConfig)

/-- The island code of a core island, by its number in the order of 03_islands Table 3.1 (20_faults, first table). -/
def islandCode (i : Nat) : Nat :=
  if i < 16 then i else if 80 ≤ i ∧ i < 84 then i - 64 else if i = 84 then 20 else if i = 85 then 21 else i - 80

/-- A region of the standby stands divergent, or is being pulled (19_pair R474). -/
def State.regionApart (s : State) (r : Nat) : Bool :=
  s.mirror.role == .standby && (tget 3 s.mirror.regions r == 1 || tget 3 s.mirror.regions r == 2)

/-- The sources of a line that still assert, as far as State shows it (20_faults R487): PLLs without lock, thresholds in
force, channels at 95 °C, the peer's fault signal and regions that differ (log entry 136). -/
def State.asserting (s : State) (n : Nat) : List Nat :=
  if n = 1 then (s.tt.pllLost.filter fun i => i.val < 16 || (80 ≤ i.val && i.val < 86) || 102 ≤ i.val).map fun i => islandCode i.val
  else if n = 26 then (List.range 32).filter fun k => (s.sensor k).trip
  else if n = 41 then (List.range 19).filter s.regionApart
  else if n = 0 then (List.range 64).filter fun m => s.tt.pllLost.any (·.val == 16 + m)
  else if n = 31 then (List.range 16).filter fun k => s.tt.pllLost.any (·.val == 86 + k)
  else if n = 24 then (List.range 32).filter fun k => (s.sensor k).warn
  else if n = 25 then (List.range 32).filter fun k => (s.sensor k).alarm
  else if n = 27 then (List.range 24).filter fun k => (s.volt k).warn
  else if n = 28 then (List.range 24).filter fun k => (s.volt k).fail
  else if n = 33 then (List.range 16).filter fun k => decide (95 ≤ (s.chan k).temp.toNat)
  else if n = 40 then (if s.flt.peerFault then [0] else [])
  else []

/-- A severity-3 line's condition still holds (20_faults R487). -/
def State.conditionHolds (s : State) (n : Nat) : Bool := (s.line n).severity == 3 && !(s.asserting n).isEmpty

/-- A line's containment lifted from every source (20_faults R487): ports stay in ISLAND_FAULT until PORT_CONFIG brings
them up, and a shed group may come up again. -/
def State.liftContainment (s : State) (n : Nat) : State :=
  let srcs := (s.line n).contained
  let s := s.modLine n fun l => { l with contained := [] }
  if n = 0 then srcs.foldl (fun (s : State) m => s.modMacro (m % 64) fun x => { x with pllFault := false }) s
  else if n = 25 then
    let s := (List.range 64).foldl (fun (s : State) m => s.modMacro m fun x => { x with shed := false }) s
    { s with mon := { s.mon with shed := 0 }, flt := { s.flt with shedAt := none } }
  else s

/-- The grace timer stops when no severity-3 line remains latched (20_faults R486). -/
def State.settleGrace (s : State) : State :=
  if (List.range 48).any fun n => (s.line n).latched && (s.line n).severity == 3 then s
  else { s with flt := { s.flt with graceEnd := none } }

/-- One occurrence, with the channel that line 31 takes out of service reported on line 32 (20_faults Table 20.1). -/
def State.occurAt (s : State) (n : Nat) (src : BitVec 13) : State :=
  if n = 31 ∧ !s.chanOut (src.toNat % 16) then
    let s := s.occur 31 src
    if s.chanOut (src.toNat % 16) then s.occur 32 (BitVec.ofNat 13 (src.toNat % 16)) else s
  else s.occur n src

/-- The format of FAULT_RELEASE (20_faults R487); a reserved line has no status to release (log entry 12). -/
def wfFaultRelease (ps : List Byte) (_ : State) : Bool :=
  ps.length == 8 && onlyBits ps (bits 0 6 + bits 8 2) && decide (fld (img ps) 0 6 < 48) && !reservedLine (fld (img ps) 0 6)

/-- FAULT_RELEASE (20_faults R484, R486, R487). -/
def doFaultRelease : Handler := fun _ _ ps s =>
  let n := fld (img ps) 0 6
  if s.conditionHolds n then busy s
  else
    let s := s.liftContainment n
    let s := s.modLine n fun l =>
      { l with latched := false, sticky := if bitAt (img ps) 9 then 0 else l.sticky,
               countedUntil := some (s.nowPs + l.windowMs * msPs) }
    let s := if bitAt (img ps) 8 then
        { s with flt := { s.flt with firstLine := 0, firstSrc := 0, firstValid := false, firstRound := 0, overflow := false } }
      else s
    ok ((s.asserting n).foldl (fun (s : State) k => s.occurAt n (BitVec.ofNat 13 k)) s.settleGrace)
/-- `FAULT_RELEASE`. -/
def execFaultRelease (p : Pkt) (s : State) : Ans := .next (s.runCommand 0x0901 p wfFaultRelease doFaultRelease)

/-- The oldest staged record lost to an uncorrectable entry: counted as overflow (20_faults Table 20.1 line 10). -/
def State.stagedLost (s : State) : State :=
  match s.cab.staging with
  | [] => s
  | r :: rest =>
    let s := { s with cab := { s.cab with staging := rest } }
    match r.cls with
    | some c => (s.classLoss c.val r.tsIn false).updatePanic
    | none => s.sysLost.updatePanic

/-- A counted line's window closes short of count_n (20_faults R483). -/
def State.windowClose (s : State) (n : Nat) : State :=
  match (s.line n).window with
  | some (t, _) => if s.due (t + (s.line n).windowMs * msPs) then
      (s.reach (t + (s.line n).windowMs * msPs)).modLine n fun l => { l with window := none }
    else s
  | none => s
/-- `FAULT_WINDOW_CLOSE`. -/
def execFaultWindowClose (line : Fin 48) (s : State) : Ans := .next (s.windowClose line.val)

/-- The grace timer expires (20_faults R486, R490). -/
def State.graceExpires (s : State) : State :=
  match s.flt.graceEnd with
  | some t => if t ≤ s.nowPs then s.enterSafe 1 s.flt.graceLine s.flt.graceSrc false else s
  | none => s
/-- `GRACE_TIMER_EXPIRY`. -/
def execGraceTimerExpiry (at8 : Fin 3277) (s : State) : Ans := .next (s.at_ at8.val).graceExpires

/-- A command that has sent no reply stays 1 s on one word (20_faults Table 20.1 line 42): a context in the middle of a
routine, the wait for the reply path (cause 4 of 16_microcode Table 16.6) excepted. -/
def State.cmdWatchdog (s : State) (p : CmdPort) : State :=
  let c := s.ctx p
  if c.cmd.isSome && c.st != .idle && !c.finalSent && c.cause != 4 then s.occur 42 (BitVec.ofNat 13 (portNum p)) else s
/-- `CMD_WATCHDOG`. -/
def execCmdWatchdog (ctx : CmdPort) (s : State) : Ans := .next (s.cmdWatchdog ctx)

/-- What the lines' latches and the overflow bit of FLT_STATUS hold after a fault of the collector itself is open (20_faults R490; log entry
135). -/
def State.looseStatus (s : State) : State :=
  let v := Config.value s.freeCtr
  let s := (List.range 48).foldl (fun (s : State) n => s.modLine n fun l => { l with latched := bitAt v n })
    { s with freeCtr := s.freeCtr + 1 }
  { s with flt := { s.flt with overflow := bitAt v 62 } }

/-- A fault of the collector's own registers, or the loss of the monitor island's clock: the safe state at once, recorded in MON_LAST_GASP
alone (20_faults R490). -/
def State.collectorFault (s : State) (cause : Nat) : State := (s.enterSafe cause 0 0 false).looseStatus
/-- `MONITOR_CLOCK_LOSS` (20_faults R490): no line and no source. -/
def execMonitorClockLoss (at8 : Fin 3277) (s : State) : Ans := .next ((s.at_ at8.val).collectorFault 4)
/-- `COLLECTOR_REGISTER_FAULT` (20_faults R490). -/
def execCollectorRegisterFault (at8 : Fin 3277) (s : State) : Ans := .next ((s.at_ at8.val).collectorFault 3)

/-- A source's holdoff ends: one message for the raises within it, which begins a new holdoff (20_faults R492). -/
def State.holdoffEnd (s : State) (k : Nat) : State :=
  let e := s.evt k
  match e.until_ with
  | some t =>
    if !s.due t then s
    else if e.owed then
      ((s.reach t).modEvt k fun e => { e with until_ := if e.holdoff = 0 then none else some (t + e.holdoff.toNat * usPs), owed := false }).msix
        (s.evtFn k) e.vector.toNat
    else (s.reach t).modEvt k fun e => { e with until_ := none }
  | none => s
/-- `EVENT_HOLDOFF_END`. -/
def execEventHoldoffEnd (src : Fin 1536) (s : State) : Ans := .next (s.holdoffEnd src.val)

/-- The pending messages of a function that its masks no longer hold are sent (17_host R441). -/
def State.sendPending (s : State) (fn : Nat) : State :=
  let f := s.fn fn
  if f.fnMask || s.host.frozen then s
  else
    let go := f.pendingVec.filter fun v => marked f.unmasked v
    go.foldl (fun (s : State) v => s.emit (.msix fn v))
      (s.modFn fn fun f => { f with pendingVec := f.pendingVec.filter fun v => !marked f.unmasked v })

/-- A vector or function mask clears (17_host R441). -/
def State.msixUnmask (s : State) (fn : Nat) (vec : Option (Fin 536)) : State :=
  match vec with
  | none => (s.modFn fn fun f => { f with fnMask := false }).sendPending fn
  | some v =>
    if v.val < msixVectors fn then (s.modFn fn fun f => { f with unmasked := mark f.unmasked v.val }).sendPending fn else s
/-- `MSIX_UNMASK`. -/
def execMsixUnmask (fn : Fin 64) (vec : Option (Fin 536)) (s : State) : Ans := .next (s.msixUnmask fn.val vec)

/-- An island's PLL loses lock (03_islands R89): a port island on line 0, a channel island on line 31, the monitor island as
the loss of its clock (20_faults R490), every other island on line 1. An island that is powered down has no lock to lose. -/
def State.pllLoss (s : State) (i : Fin 112) : State :=
  if 108 ≤ i.val then s
  else if 16 ≤ i.val ∧ i.val < 80 ∧ s.islandDown (i.val - 16) then s
  else if 86 ≤ i.val ∧ i.val < 102 ∧ (s.chan (i.val - 86)).down then s
  else if i.val = 105 ∧ !s.mgmt.powered then s
  else if i.val = 107 then s.collectorFault 4
  else
    let s := { s with tt := { s.tt with pllLost := if s.tt.pllLost.contains i then s.tt.pllLost else i :: s.tt.pllLost } }
    if 16 ≤ i.val ∧ i.val < 80 then s.occurAt 0 (BitVec.ofNat 13 (i.val - 16))
    else if 86 ≤ i.val ∧ i.val < 102 then s.occurAt 31 (BitVec.ofNat 13 (i.val - 86))
    else s.occurAt 1 (BitVec.ofNat 13 (islandCode i.val))
/-- `PLL_LOCK_LOSS`. -/
def execPllLockLoss (island : Fin 112) (s : State) : Ans := .next (s.pllLoss island)

end Sys2Proof.Machine
end

