-- ==== Sys2Proof/Machine/Monitors.lean ====
section
/-!
DEFINITION. The health monitors: sensors, the shedding of port macro groups, voltage monitors and DIMM sensors (20_faults
R493 to R495; 22_board R519; 14_dram R347).
-/

namespace Sys2Proof.Machine

/-- A threshold in units of 0.125 °C: crossed upward when a reading reaches it, left 2 °C below it (20_faults R493). -/
def threshold (limit : Int) (was : Bool) (r : Int) : Bool := if was then decide (limit - 16 < r) else decide (limit ≤ r)

/-- The calibration-drift bit kept up to date, with event 1,203 as it rises (05_time Table 5.8; 20_faults Table 20.4). -/
def State.settleDrift (s : State) : State :=
  let d := s.drifted
  let was := s.time.calDrift
  let s := { s with time := { s.time with calDrift := d } }
  if d && !was then s.raise 1203 else s

/-- A sensor is read (20_faults R493, R494). -/
def State.sensorRead (s : State) (k : Nat) (reading : BitVec 16) : State :=
  let r := sgn 16 reading.toNat
  let u := s.sensor k
  let v : Sensor := { reading := reading, maximum := if sgn 16 u.maximum.toNat < r then reading else u.maximum,
                      warn := threshold 760 u.warn r, alarm := threshold 840 u.alarm r, trip := threshold 920 u.trip r }
  let s := s.modSensor k fun _ => v
  let src := BitVec.ofNat 13 k
  let s := if v.warn && !u.warn then s.occur 24 src else s
  let s := if v.alarm && !u.alarm then s.occur 25 src else s
  let s := if v.trip && !u.trip then s.occur 26 src else s
  s.settleDrift
/-- `SENSOR_READ`. -/
def execSensorRead (k : Fin 32) (reading : BitVec 16) (at8 : Fin 3277) (s : State) : Ans :=
  .next ((s.at_ at8.val).sensorRead k.val reading)

/-- A port macro group has a port UP. -/
def State.groupUp (s : State) (g : Nat) : Bool := (List.range 8).any fun j => s.macroUp (8 * g + j)

/-- The hottest edge sensor: the first of equals (log entry 9). -/
def State.hottestEdge (s : State) : Nat :=
  (List.range 16).foldl (fun h k =>
    if sgn 16 (s.sensor h).reading.toNat < sgn 16 (s.sensor k).reading.toNat then k else h) 0

/-- The group that a shed takes: that of the hottest edge sensor when it has a port UP, else the highest-numbered group
with a port UP (20_faults R494). -/
def State.shedGroup (s : State) : Option Nat :=
  if s.groupUp (s.hottestEdge / 2) then some (s.hottestEdge / 2)
  else (List.range 8).reverse.find? fun g => s.groupUp g

/-- One port macro group shed (20_faults R494): its ports end their frames, go to ISLAND_FAULT and their islands down. -/
def State.shedOne (s : State) : State :=
  match s.shedGroup with
  | none => s
  | some g =>
    let s := (List.range 8).foldl (fun (s : State) j =>
      ((s.islandFault (8 * g + j) true).modMacro (8 * g + j) fun m => { m with shed := true }).powerDown (8 * g + j)) s
    { s with mon := { s.mon with shed := s.mon.shed ||| BitVec.ofNat 8 (2 ^ g) } }

/-- The end of a shed interval (20_faults R494). -/
def State.shedCheck (s : State) : State :=
  match s.flt.shedAt with
  | none => s
  | some t =>
    if !s.due t then s
    else
      let s := s.reach t
      let s := { s with flt := { s.flt with shedAt := some (t + (s.line 25).graceUs * usPs) } }
      if (List.range 32).any fun k => decide (840 ≤ sgn 16 (s.sensor k).reading.toNat) then s.shedOne else s
/-- `THERMAL_SHED_CHECK`. -/
def execThermalShedCheck (s : State) : Ans := .next s.shedCheck

/-- The target in mV of the rail that a voltage monitor watches (22_board Table 22.7). -/
def State.railTarget (s : State) (k : Nat) : Nat :=
  if k = 1 then 1800 else if 2 ≤ k ∧ k ≤ 9 then s.mon.avsMv.toNat else if 13 ≤ k ∧ k ≤ 17 then 750
  else if 18 ≤ k ∧ k ≤ 21 then 1200 else if 22 ≤ k then 1100 else 800

/-- A reading lies beyond ±p % of a target. -/
def beyond (p target mv : Nat) : Bool := decide (100 * mv < (100 - p) * target) || decide ((100 + p) * target < 100 * mv)

/-- A voltage monitor samples its rail (20_faults R495): four consecutive samples beyond ±3 % raise VOLT_WARN, beyond ±6 %
VOLT_FAIL. -/
def State.voltageSample (s : State) (k : Nat) (mv : BitVec 16) : State :=
  let u := s.volt k
  let t := s.railTarget k
  let r3 := if beyond 3 t mv.toNat then min 4 (u.run3 + 1) else 0
  let r6 := if beyond 6 t mv.toNat then min 4 (u.run6 + 1) else 0
  let s := s.modVolt k fun _ => { mv := mv, run3 := r3, run6 := r6, warn := r3 == 4, fail := r6 == 4 }
  let src := BitVec.ofNat 13 k
  let s := if r3 == 4 && u.run3 != 4 then s.occur 27 src else s
  if r6 == 4 && u.run6 != 4 then s.occur 28 src else s
/-- `VOLTAGE_SAMPLE`. -/
def execVoltageSample (k : Fin 24) (mv : BitVec 16) (s : State) : Ans := .next (s.voltageSample k.val mv)

/-- A DIMM's thermal sensor is read (14_dram R347): the refresh interval is halved above 85 °C, and a reading that reaches
95 °C is an occurrence of DIMM_TEMP. -/
def State.dimmSensorRead (s : State) (k celsius : Nat) : State :=
  let c := s.chan k
  if c.cause = 1 then s
  else
    let s := s.modChan k fun c => { c with temp := BitVec.ofNat 8 (min 255 celsius), hot := decide (85 < celsius) }
    if c.temp.toNat < 95 ∧ 95 ≤ celsius then s.occur 33 (BitVec.ofNat 13 k) else s
/-- `DIMM_SENSOR_READ`. -/
def execDimmSensorRead (ch : Fin 16) (celsius : Nat) (s : State) : Ans := .next (s.dimmSensorRead ch.val celsius)

end Sys2Proof.Machine
end

