-- ==== Sys2Proof/Machine/Time.lean ====
section
/-!
DEFINITION. The time base: TIME_SET, TIME_ADJUST, TIME_READ, TS_CALIBRATE, TIME_LATCH and the events of the time island
(05_time R121 to R152; 15_commands R534; 13_cabinet R321).
-/

namespace Sys2Proof.Machine

/-! ### Rate, slews and the advance at a round boundary -/

/-- The time island's cycles up to the next round boundary (05_time R123, R124, R133): the device time and the residence counter gain the
same, the residue of a slew's final cycle with it, and a slew whose last cycle lies in the round is over. -/
def State.advanceTime (s : State) : State :=
  let c := roundCycles s.tt.round.toNat
  let gain := s.gain48 (40 * c)
  { s with time := { s.time with
      t48 := s.time.t48 + gain
      res48 := (((s.time.res48 : Int) + gain) % (2 ^ 96 : Int)).toNat
      slew := match s.time.slew with
        | some w => if w.cyclesLeft ≤ c then none else some { w with cyclesLeft := w.cyclesLeft - c }
        | none => none } }

/-- The rate changes whose boundary has come, in order (05_time R125, R132). -/
def State.applyRates (s : State) : State :=
  let t := s.time
  let f := t.freqNext.filter fun x => x.2 ≤ s.tt.round
  let w := t.slewNext.filter fun x => x.2 ≤ s.tt.round
  { s with time := { t with
      freqAdj := (f.getLast?.map (·.1)).getD t.freqAdj
      freqNext := t.freqNext.filter fun x => !(x.2 ≤ s.tt.round)
      slew := match w.getLast? with | some x => some x.1 | none => t.slew
      slewNext := t.slewNext.filter fun x => !(x.2 ≤ s.tt.round) } }

/-- The latch in progress (05_time R152; log entry 13): its value is the device time at its instant, once the instant has come or lies before
`ps`, and it is in place, with latch_busy clear, 100 ns behind the acceptance of the write. -/
def State.latchTo (s : State) (ps : Nat) : State :=
  match s.time.latch with
  | some (t, done, v) =>
    let v := v.or (if t < ps then some (s.devTimeAt t) else none)
    if done ≤ s.nowPs then { s with time := { s.time with latched := v.getD (s.devTimeAt t), latch := none } }
    else { s with time := { s.time with latch := some (t, done, v) } }
  | none => s

/-- The latched device time as it stands now. -/
def State.settleLatch (s : State) : State := s.latchTo (s.nowPs + 1)

/-- What crosses before the round's boundary takes the time base of the round: egress timestamps and a latch in progress (05_time R138,
R152). -/
def State.settleRound (s : State) : State := (s.settleStamps s.roundEnd).latchTo s.roundEnd

/-- The range of freq_adj (05_time R123). -/
def rateInRange (v : Int) : Bool := decide (-(2 ^ 39 : Int) ≤ v) && decide (v < (2 ^ 39 : Int))

/-- freq_adj as last set. -/
def State.freqSet (s : State) : Int := (s.time.freqNext.getLast?.map (·.1)).getD s.time.freqAdj

/-- A slew of an offset in 2^-16 ns over a duration in ms (05_time R133). -/
def slewOf (offset : Int) (ms : Nat) : Slew :=
  let cycles := ms * 1000000
  let per := (offset * (2 ^ 32 : Int)) / (cycles : Int)
  { perCycle := per, cyclesLeft := cycles, residue := offset * (2 ^ 32 : Int) - per * (cycles : Int) }

/-- The unapplied remainder of the slew that a new one replaces at the second boundary from now (05_time R133; 15_commands
Table 15.14). -/
def State.replacedRemainder (s : State) : Int :=
  let r := s.tt.round.toNat
  match s.time.slewNext.getLast? with
  | some (w, b) => w.remainder (if b.toNat ≤ r + 1 then roundCycles (r + 1) else 0)
  | none =>
    match s.time.slew with
    | some w => w.remainder (roundCycles r + roundCycles (r + 1))
    | none => 0

/-! ### TIME_SET and TIME_ADJUST -/

/-- A command that ends with a time error (05_time Table 5.4). -/
def timeError (s : State) (code : Nat) : Done := { st := s, status := 0x14, detail := code }

/-- The format of TIME_SET (05_time R128, Table 5.3). -/
def wfTimeSet (ps : List Byte) (_ : State) : Bool :=
  let v := img ps
  ps.length == 40 && onlyBits ps (bits 0 8 + bits 64 96 + bits 192 96) && decide (fld v 0 8 ≤ 2) &&
    decide (fld v 80 32 < 10 ^ 9) && decide (fld v 208 32 < 10 ^ 9) && (fld v 0 8 == 2 || fld v 192 96 == 0)

/-- TIME_SET (05_time R129, R130). Where two errors of Table 5.4 hold at once, LATE is tested before STEP_PENDING (DESIGN CHOICE, log entry
119). -/
def doTimeSet : Handler := fun w _ ps s =>
  let v := img ps
  let mode := fld v 0 8
  let trigger := timeOfImg (fld v 192 96)
  if mode = 2 ∧ trigger ≤ s.devTime then timeError s 2
  else if s.time.step.isSome then timeError s 3
  else
    let st : PendingStep :=
      { kind := if mode = 0 then .immediate else if mode = 1 then .atPps else .atTime
        newTime := timeOfImg (fld v 64 96), trigger := trigger, offset := 0, fromRes := none, execRes := s.resTime
        b := if mode = 0 then some (s.tt.round + 2) else none, waiter := some w }
    pendingReply { s with time := { s.time with step := some st } }
/-- `TIME_SET`. -/
def execTimeSet (p : Pkt) (s : State) : Ans := .next (s.runCommand 0x0500 p wfTimeSet doTimeSet)

/-- value_a as a signed number (05_time R132). -/
def valueA (ps : List Byte) : Int := sgn 64 (leAt ps 8 8)
/-- value_b (05_time R132). -/
def valueB (ps : List Byte) : Nat := leAt ps 16 8

/-- The format of TIME_ADJUST (05_time R132, R133, Table 5.5). -/
def wfTimeAdjust (ps : List Byte) (s : State) : Bool :=
  let op := byteAt ps 0
  let a := leAt ps 8 8
  let b := valueB ps
  ps.length == 24 && allZero (sliceAt ps 1 7) && decide (op ≤ 5) &&
    (if op = 0 then rateInRange (valueA ps) && b == 0
     else if op = 1 then
       decide ((valueA ps).natAbs ≤ 2 ^ 46) && decide (1 ≤ b) && decide (b ≤ 100000) &&
         rateInRange (s.freqSet + (slewOf (valueA ps) b).perCycle)
     else if op = 2 then decide ((valueA ps).natAbs < 2 ^ 62) && b == 0
     else if op = 3 then decide (a ≤ 2) && b == 0
     else if op = 4 then
       decide ((sgn 32 (a % 2 ^ 32)).natAbs ≤ 500000000) && decide (a < 2 ^ 34) && decide (1 ≤ b) && decide (b ≤ 500000)
     else decide (a < 2 ^ 16) && b == 0)

/-- TIME_ADJUST FREQ. -/
def adjustFreq (ps : List Byte) (s : State) : Done :=
  if s.time.source ≠ 0 then timeError s 5
  else ok { s with time := { s.time with freqNext := s.time.freqNext ++ [(valueA ps, s.tt.round + 2)] } }

/-- TIME_ADJUST SLEW (05_time R133). -/
def adjustSlew (ps : List Byte) (s : State) : Done :=
  if s.time.source = 2 then timeError s 5
  else
    ok { s with time := { s.time with slewNext := s.time.slewNext ++ [(slewOf (valueA ps) (valueB ps), s.tt.round + 2)] } }
      (bytesLe 8 (unsgn 64 s.replacedRemainder))

/-- TIME_ADJUST STEP (05_time R132). Where two errors of Table 5.4 hold at once, SOURCE is tested before STEP_PENDING (DESIGN CHOICE, log
entry 119). -/
def adjustStep (w : Waiter) (ps : List Byte) (s : State) : Done :=
  if s.time.source = 2 then timeError s 5
  else if s.time.step.isSome then timeError s 3
  else
    let st : PendingStep :=
      { kind := .adjust, newTime := 0, trigger := 0, offset := valueA ps, fromRes := none, execRes := s.resTime,
        b := some (s.tt.round + 2), waiter := some w }
    pendingReply { s with time := { s.time with step := some st } }

/-- The frequency source selected: holdover and the lock belong to the source that is left (05_time R126, R127). -/
def State.setSource (s : State) (src : BitVec 2) : State :=
  if s.time.source = src then s
  else { s with time := { s.time with
    source := src, refHoldover := false, refGood := 0, refHist := [], refInteg := 0, dovetailLocked := false } }

/-- TIME_ADJUST SOURCE (05_time Tables 5.4, 5.5). -/
def adjustSource (ps : List Byte) (s : State) : Done :=
  let a := leAt ps 8 8
  if a = 2 ∨ (a = 1 ∧ !s.time.refPresent) then timeError s 5 else ok (s.setSource (BitVec.ofNat 2 a))

/-- TIME_ADJUST PPS_OUT (05_time R136): the pulses go by the new offset, also in a second that has had one at another offset. -/
def adjustPpsOut (ps : List Byte) (s : State) : Done :=
  let a := leAt ps 8 8
  let o := s.time.ppsOut
  let offset := sgn 32 (a % 2 ^ 32)
  ok { s with time := { s.time with ppsOut := { o with
    offset := offset, enable := bitAt a 32, emitUnset := bitAt a 33, widthUs := valueB ps,
    lastSec := if offset = o.offset then o.lastSec else none } } }

/-- TIME_ADJUST DECLARE (05_time R149). -/
def adjustDeclare (ps : List Byte) (s : State) : Done :=
  let a := leAt ps 8 8
  ok { s with time := { s.time with
    hostState := BitVec.ofNat 4 a, hostSource := BitVec.ofNat 4 (a / 16), hostAccuracy := BitVec.ofNat 8 (a / 256) } }

/-- TIME_ADJUST (05_time R132). -/
def doTimeAdjust : Handler := fun w _ ps s =>
  let op := byteAt ps 0
  if op = 0 then adjustFreq ps s else if op = 1 then adjustSlew ps s else if op = 2 then adjustStep w ps s
  else if op = 3 then adjustSource ps s else if op = 4 then adjustPpsOut ps s else adjustDeclare ps s

/-- TIME_ADJUST run with the op of its row. -/
def State.timeAdjust (s : State) (op : Nat) (p : Pkt) : State :=
  s.runCommand 0x0501 (forceOp p 0 8 op) wfTimeAdjust doTimeAdjust
/-- `TIME_ADJUST_FREQ`. -/
def execTimeAdjustFreq (p : Pkt) (s : State) : Ans := .next (s.timeAdjust 0 p)
/-- `TIME_ADJUST_SLEW`. -/
def execTimeAdjustSlew (p : Pkt) (s : State) : Ans := .next (s.timeAdjust 1 p)
/-- `TIME_ADJUST_STEP`. -/
def execTimeAdjustStep (p : Pkt) (s : State) : Ans := .next (s.timeAdjust 2 p)
/-- `TIME_ADJUST_SOURCE`. -/
def execTimeAdjustSource (p : Pkt) (s : State) : Ans := .next (s.timeAdjust 3 p)
/-- `TIME_ADJUST_PPS_OUT`. -/
def execTimeAdjustPpsOut (p : Pkt) (s : State) : Ans := .next (s.timeAdjust 4 p)
/-- `TIME_ADJUST_DECLARE`. -/
def execTimeAdjustDeclare (p : Pkt) (s : State) : Ans := .next (s.timeAdjust 5 p)

/-! ### TIME_READ, TS_CALIBRATE, TIME_LATCH -/

/-- The code of a pending step (15_commands Table 15.14); a step mirrored from the primary shows as the adjustment it is. -/
def StepKind.code : StepKind → Nat
  | .immediate => 1 | .atPps => 2 | .atTime => 3 | .adjust => 4 | .mirrored => 4

/-- The round of a pending step's boundary B, once it is known (05_time R129, R151): that of an AT_TIME step from the instant at which the
device time has reached trigger_time. -/
def State.stepRound (s : State) (st : PendingStep) : Option (BitVec 64) :=
  if st.kind = .atTime then
    if st.trigger ≤ s.boundaryTime then some s.tt.round
    else if st.trigger ≤ s.devTime then some (s.tt.round + 1)
    else none
  else st.b

/-- The TIME_READ results (15_commands Table 15.14). -/
def timeReadBytes (s : State) : List Byte :=
  let pend := match s.time.step with
    | none => bytesLe 16 0
    | some st => bytesLe 8 (st.kind.code + 8 * b1 (s.stepRound st).isSome) ++ bytesLe 8 ((s.stepRound st).getD 0).toNat
  fit 96 (timeBytes s.devTime ++ bytesLe 4 0 ++ bytesLe 8 s.resTime ++ bytesLe 8 (unsgn 64 s.time.freqAdj) ++
    bytesLe 8 (unsgn 64 s.slewRemainder) ++ bytesLe 8 s.timeQuality ++ timeBytes s.time.ppsTime ++
    bytesLe 4 s.time.ppsCount.toNat ++ bytesLe 8 s.time.attSeq.toNat ++ pend)
/-- TIME_READ (05_time R151). -/
def doTimeRead : Handler := fun _ _ _ s => ok s (timeReadBytes s)
/-- `TIME_READ`. -/
def execTimeRead (p : Pkt) (s : State) : Ans := .next (s.runCommand 0x0502 p (lenZero 8) doTimeRead)

/-- The results of TS_CALIBRATE (15_commands Table 15.14). That the fields of a port without a valid calibration read zero is the model's
choice (05_time R141; DESIGN CHOICE, log entry 120). -/
def calibrationBytes (c : Calibration) : List Byte :=
  bytesLe 8 (b1 c.valid) ++ bytesLe 4 c.rxPs.toNat ++ bytesLe 4 c.txPs.toNat ++ bytesLe 8 c.temp.toNat ++
    bytesLe 8 c.round.toNat

/-- The format of TS_CALIBRATE (05_time R140). -/
def wfTsCalibrate (ps : List Byte) (s : State) : Bool :=
  let v := img ps
  ps.length == 8 && onlyBits ps (bits 0 9 + bits 16 8) && decide (fld v 16 8 ≤ 1) && s.portExists (fld v 0 9)

/-- A TS_CALIBRATE runs on a macro. -/
def State.calibrating (s : State) (m : Nat) : Bool := (s.macroPorts m).any fun lp => (s.port lp).calRun.isSome

/-- TS_CALIBRATE (05_time R140, R141): RUN powers the macro's island and suspends the wake detector. -/
def doTsCalibrate : Handler := fun w _ ps s =>
  let lp := fld (img ps) 0 9
  if fld (img ps) 16 8 = 1 then ok s (calibrationBytes (s.port lp).cal)
  else
    let st := (s.port lp).st
    if (st ≠ .disabled ∧ st ≠ .lowPower) ∨ s.calibrating (macroOf lp) then busy s
    else pendingReply ((s.powerUp (macroOf lp)).modPort lp fun p => { p with calRun := some (w, st), wakeArmed := false })

/-- TS_CALIBRATE run with the op of its row. -/
def State.tsCalibrate (s : State) (op : Nat) (p : Pkt) : State :=
  s.runCommand 0x0503 (forceOp p 16 8 op) wfTsCalibrate doTsCalibrate
/-- `TS_CALIBRATE_RUN`. -/
def execTsCalibrateRun (p : Pkt) (s : State) : Ans := .next (s.tsCalibrate 0 p)
/-- `TS_CALIBRATE_READ`. -/
def execTsCalibrateRead (p : Pkt) (s : State) : Ans := .next (s.tsCalibrate 1 p)

/-- A TS_CALIBRATE RUN ends (05_time R140, R141): the calibration is stored, the port is in its prior state again, a
low-power port's wake detector re-arms, and the command replies OK. -/
def State.calibrationComplete (s : State) (lp : Nat) (rxPs txPs : BitVec 32) : State :=
  match (s.port lp).calRun with
  | none => s
  | some (w, st) =>
    let cal : Calibration :=
      { valid := true, rxPs := rxPs, txPs := txPs, temp := (s.sensor (servingSensor (macroOf lp))).reading, round := s.tt.round }
    let s := s.modPort lp fun p =>
      { p with cal := cal, calRun := none, st := st, wakeArmed := decide (st = .lowPower) }
    (s.settleIsland (macroOf lp)).complete w 0 0 (calibrationBytes cal)
/-- `CALIBRATION_COMPLETE`. -/
def execCalibrationComplete (lp : Fin 512) (rxPs txPs : BitVec 32) (s : State) : Ans :=
  .next (s.calibrationComplete lp.val rxPs txPs)

/-- A write of TIME_LATCH (05_time R152): the device time when the write reaches the time island, `delay8` later; a write
while latch_busy is set is ignored. -/
def State.timeLatch (s : State) (v : BitVec 64) (delay8 : Nat) : State :=
  let s := s.settleLatch
  if v.getLsbD 0 && s.time.latch.isNone then
    { s with time := { s.time with latch := some (s.nowPs + delay8 * 125, s.nowPs + 100000, none) } }
  else s
/-- `TIME_LATCH`. -/
def execTimeLatch (v : BitVec 64) (delay8 : Fin 161) (at8 : Fin 3277) (s : State) : Ans :=
  .next ((s.at_ at8.val).timeLatch v delay8.val)

/-! ### Steps -/

/-- The time that a pending step sets at the boundary that has come (05_time R129, R132): none while its boundary has not. -/
def State.stepTarget (s : State) (st : PendingStep) : Option Int :=
  let before := s.boundaryTime
  let come := match st.b with | some b => decide (b ≤ s.tt.round) | none => false
  match st.kind with
  | .immediate => if come then some (st.newTime : Int) else none
  | .atPps =>
    match st.fromRes with
    | some r => if come then
        some (st.newTime + (s.resAfter s.phase40 + 2 ^ 64 - r) % 2 ^ 64 : Nat)
      else none
    | none => none
  | .atTime => if st.trigger ≤ before then some (st.newTime + (before - st.trigger) : Nat) else none
  | .adjust => if come then some (before + st.offset) else none
  | .mirrored => if come then some (before + st.offset) else none

/-- What the slew in progress has added between the time island's last cycle and the boundary behind it. -/
def State.slewPart (s : State) : Int := match s.time.slew with | some w => w.gain48 s.phase40 | none => 0

/-- A step takes the device time at a boundary from `before` to `after` (05_time R131): the slew in progress is dropped, while one accepted
that has not begun stays (DESIGN CHOICE, log entry 121); step_count and the steps of the next attestation move, every port's gates take
their new position (12_egress R309), the primary tells its standby (19_pair R471), and an attestation is
owed while the Cabinet is recording (05_time R150). -/
def State.applyStep (s : State) (kind : StepKind) (before after : DevTime) : State :=
  let delta : Int := (after : Int) - (before : Int)
  let t : TimeState := s.time
  let set : Bool := match kind with | .adjust => false | .mirrored => false | _ => true
  let t : TimeState :=
    { t with
      t48 := t.t48 + s.slewPart + delta * (2 ^ 32 : Int), res48 := (((t.res48 : Int) + s.slewPart) % (2 ^ 96 : Int)).toNat
      slew := none, stepCount := t.stepCount + 1, timeSet := t.timeSet || set, step := none
      attSum := t.attSum + delta, attLastB := after, attOwed := s.recording, attSec := secOf after,
      ppsOut := { t.ppsOut with lastSec := none } }
  let s := (({ s with time := t } : State).stepGates before after).settleGates.raise 1202
  if s.mirror.role = .primary ∧ s.mirroring then s.emit (.link 5 [unsgn 64 delta, s.time.stepCount.toNat]) else s

/-- The results of an applied step (15_commands Table 15.14). -/
def stepBytes (before after : DevTime) : List Byte := timeBytes before ++ bytesLe 4 0 ++ timeBytes after ++ bytesLe 4 0

/-- A pending step whose boundary has come is applied, or ends with RANGE (05_time R129 to R132). -/
def State.stepApply (s : State) : State :=
  match s.time.step with
  | none => s
  | some st =>
    match s.stepTarget st with
    | none => s
    | some n =>
      let before := s.boundaryTime
      if n < 0 ∨ (2 ^ 48 * secUnits : Nat) ≤ n then
        let s := { s with time := { s.time with step := none } }
        match st.waiter with
        | some w => s.complete w 0x14 4 []
        | none => s
      else
        let s := s.applyStep st.kind before n.toNat
        match st.waiter with
        | some w => s.complete w 0 0 (stepBytes before n.toNat)
        | none => s
/-- `STEP_APPLY`. -/
def execStepApply (s : State) : Ans := .next s.stepApply

/-- An AT_PPS TIME_SET without an accepted edge within 2.0 s of its execution (05_time Table 5.4). -/
def State.noPpsTimeout (s : State) : State :=
  match s.time.step with
  | none => s
  | some st =>
    if st.kind = .atPps ∧ st.fromRes.isNone then
      match s.resHand st.execRes (2 * secUnits) with
      | none => s
      | some k =>
        let s := { s.handTo k with time := { s.time with step := none } }
        match st.waiter with
        | some w => s.complete w 0x14 1 []
        | none => s
    else s
/-- `NO_PPS_TIMEOUT`. -/
def execNoPpsTimeout (s : State) : Ans := .next s.noPpsTimeout

/-- A slew whose last cycle lies in this round ends with that cycle (05_time R133): the clock hand reaches it, and behind it the slew adds
nothing more. -/
def State.slewEnd (s : State) : State :=
  match s.time.slew with
  | some w => if w.cyclesLeft ≤ roundCycles s.tt.round.toNat then s.handTo ((40 * w.cyclesLeft - s.phase40 + 4) / 5) else s
  | none => s
/-- `SLEW_END`. -/
def execSlewEnd (s : State) : Ans := .next s.slewEnd

/-! ### 1PPS and 10 MHz -/

/-- The signed difference between an edge and the nearest whole second, in ns, saturated (05_time R135). That its fraction of a nanosecond is
dropped toward zero, and that an edge half a second away counts as behind its second, are the model's choices (DESIGN CHOICE, log entry
14). -/
def ppsOffsetOf (t : DevTime) : Int :=
  let r := t % secUnits
  let d : Int := if 2 * r ≤ secUnits then (r : Int) else (r : Int) - (secUnits : Int)
  max (-32767) (min 32767 (d.tdiv 65536))

/-- A rising edge of PPS_IN (05_time R134, R135): ignored and counted within 500 ms of the last accepted one; a TIME_SET
AT_PPS that waits has its edge (R129). -/
def State.ppsInEdge (s : State) : State :=
  let t := s.time
  let res := s.resTime
  let gap := fun r => (res + 2 ^ 64 - r) % 2 ^ 64
  let soon := match t.ppsLastRes with | some r => decide (2 * gap r < secUnits) | none => false
  if soon then { s with time := { t with ppsIgnored := t.ppsIgnored + 1 } }
  else
    let present := match t.ppsLastRes with
      | some r => decide (999 * secUnits ≤ 1000 * gap r) && decide (1000 * gap r ≤ 1001 * secUnits)
      | none => false
    let stamp := s.stamp
    let step := t.step.map fun st =>
      if st.kind = .atPps ∧ st.fromRes.isNone then { st with fromRes := some res, b := some (s.tt.round + 1) } else st
    ({ s with time := { t with ppsCount := t.ppsCount + 1, ppsTime := stamp, ppsLastRes := some res, ppsPresent := present,
                               ppsOffset := ppsOffsetOf stamp, step := step } } : State).raise 1200
/-- `PPS_IN_EDGE`. -/
def execPpsInEdge (at8 : Fin 3277) (s : State) : Ans := .next (s.at_ at8.val).ppsInEdge

/-- 1,500 ms, in 2^-16 ns (05_time R134). -/
def ppsGap : Nat := 98304000000000

/-- 1,500 ms without an accepted edge (05_time R134). -/
def State.ppsAbsent (s : State) : State :=
  match s.time.ppsLastRes.bind fun r => s.resHand r ppsGap with
  | some k => { s.handTo k with time := { s.time with ppsPresent := false } }
  | none => s
/-- `PPS_ABSENT`. -/
def execPpsAbsent (s : State) : Ans := .next s.ppsAbsent

/-- The 1PPS output rises when the device time reaches a whole second plus the offset (05_time R136): the instant is the
first 0.125 ns step at or after it, and one second gives one pulse. -/
def State.ppsOutEdge (s : State) : State :=
  let o := s.time.ppsOut
  let t : Int := (s.devTime : Int) - o.offset * 65536
  let k := t / (secUnits : Int)
  let into := t - k * (secUnits : Int)
  if o.enable && (s.time.timeSet || o.emitUnset) && decide (0 ≤ k) && decide (into < 16384) && o.lastSec != some k.toNat then
    { s with time := { s.time with ppsOut := { o with
      highUntil := some (s.nowPs + o.widthUs * 1000000), pulses := o.pulses + 1, lastSec := some k.toNat } } }
  else s
/-- `PPS_OUT_EDGE`. -/
def execPpsOutEdge (at8 : Fin 3277) (s : State) : Ans := .next (s.at_ at8.val).ppsOutEdge

/-- ref10m_offset of a count, in 0.001 ppb (05_time R127, R150): one edge in 10,000,000 is 100 ppb. -/
def refOffsetOf (edges : Nat) : BitVec 32 := BitVec.ofInt 32 (((edges : Int) - 10000000) * 100000)

/-- freq_adj within its range. -/
def clampRate (v : Int) : Int := max (-(2 ^ 39 : Int)) (min ((2 ^ 39 : Int) - 1) v)

/-- The mean of a list, rounded down; of an empty list the value given. -/
def meanOr (d : Int) (l : List Int) : Int := if l.isEmpty then d else l.foldl (· + ·) 0 / (l.length : Int)

/-- A rate that takes effect at the next boundary (05_time R125). -/
def State.setRate (s : State) (v : Int) : State :=
  { s with time := { s.time with freqNext := s.time.freqNext ++ [(v, s.tt.round + 1)] } }

/-- A one-second count of the 10 MHz input (05_time R126, R127): lost beyond 1,000 edges, back after three good counts; the
loop's gains are open (log entry 1). -/
def State.refCount (s : State) (edges : Nat) : State :=
  let good := decide (((edges : Int) - 10000000).natAbs ≤ 1000)
  let t := s.time
  let s := { s with time := { t with refPresent := good, refOffset := if good then refOffsetOf edges else 0x80000000 } }
  if t.source ≠ 1 then s
  else if t.refHoldover then
    if !good then { s with time := { s.time with refGood := 0 } }
    else if t.refGood + 1 < 3 then { s with time := { s.time with refGood := t.refGood + 1 } }
    else ({ s with time := { s.time with refGood := 0, refHoldover := false } } : State).raise 1201
  else if good then
    let x := Config.refStep ((edges : Int) - 10000000) t.refInteg
    let v := clampRate (s.freqSet + x.1)
    ({ s with time := { s.time with refInteg := x.2, refHist := (v :: t.refHist).take 16 } } : State).setRate v
  else
    (({ s with time := { s.time with refHoldover := true, refGood := 0 } } : State).setRate (meanOr s.freqSet t.refHist)).raise 1201
/-- `REF10M_COUNT`. -/
def execRef10mCount (edges : Nat) (s : State) : Ans := .next (s.refCount edges)

/-! ### Attestation -/

/-- The largest distance of a calibrated UP port from its calibration temperature, in °C, saturating (05_time R150). That a fraction of a
degree is dropped is the model's choice (DESIGN CHOICE, log entry 122). -/
def State.calWorst (s : State) : Nat :=
  min 255 (((s.upPorts.filter fun lp => (s.port lp).cal.valid).map s.calDistance).foldl max 0 / 8)

/-- The 56 octets of a clock attestation record (13_cabinet Table 13.5). -/
def attestation (s : State) (sec : Nat) : List Byte :=
  let t := s.time
  bytesLe 4 t.attSeq.toNat ++ bytesLe 6 sec ++ bytesLe 2 t.ppsCount.toNat ++ bytesLe 7 s.timeQuality ++
    bytesLe 5 (unsgn 40 t.freqAdj) ++ bytesLe 6 (unsgn 48 s.slewRemainder) ++ bytesLe 8 (unsgn 64 t.attSum) ++
    bytesLe 6 (timeImg t.attLastB % 2 ^ 48) ++
    bytesLe 8 (t.ppsTime / 2 ^ 13 % 8 + (t.ppsTime / 65536 % 10 ^ 9) * 8 + min 1023 (s.upCalibrated true) * 2 ^ 35 +
      min 1023 (s.upCalibrated false) * 2 ^ 45 + s.calWorst * 2 ^ 55) ++
    bytesLe 4 t.refOffset.toNat

/-- A clock attestation is written when sec advances or after a step, and made only while the Cabinet is recording (05_time
R150; 13_cabinet R321). -/
def State.attest (s : State) : State :=
  let now := secOf s.devTime
  if s.time.attOwed ∨ s.time.attSec < now then
    let sec := if s.time.attOwed then secOf s.time.attLastB else now
    let s := { s with time := { s.time with attOwed := false, attSec := max s.time.attSec sec } }
    if s.recording then
      let s := { s with time := { s.time with attSeq := s.time.attSeq + 1 } }
      let s := s.systemRecord 5 (attestation s sec)
      { s with time := { s.time with attSum := 0, attLastB := 0 } }
    else s
  else s
/-- `CLOCK_ATTESTATION`. -/
def execClockAttestation (at8 : Fin 3277) (s : State) : Ans := .next (s.at_ at8.val).attest

end Sys2Proof.Machine
end

