-- ==== Sys2Proof/Machine/Timetable.lean ====
section
/-!
DEFINITION. TT_LOAD, TT_ACTIVATE, TT_QUERY and the events of an activation (02_timetable R62 to R71; 15_commands Table 15.12,
R386).
-/

namespace Sys2Proof.Machine

/-! ### TT_LOAD, TT_ACTIVATE, TT_QUERY -/

/-- The format of TT_LOAD (15_commands Table 15.12). -/
def wfTtLoad (ps : List Byte) (_ : State) : Bool :=
  decide (16 ≤ ps.length) && decide (ps.length ≤ 4072) && decide (leAt ps 4 4 < 2)

/-- The shadow with a chunk taken in (02_timetable R62, R63). -/
def State.setShadow (s : State) (b : List Byte) (st : ShadowState) : State :=
  { s with tt := { s.tt with shadow := b, shadowState := st } }

/-- A chunk has been taken: on the final one the image is checked (02_timetable R62). -/
def State.chunkTaken (s : State) (b : List Byte) (final : Bool) : Done :=
  if final then
    match checkImage b with
    | none => ok (s.setShadow b .checked)
    | some e => badLength (s.setShadow b .failed) e
  else ok (s.setShadow b .loading)

/-- TT_LOAD (02_timetable R62 to R64). -/
def doTtLoad : Handler := fun _ _ ps s =>
  let off := leAt ps 0 4
  let data := ps.drop 8
  if s.tt.act.isSome then busy s
  else if off = 0 then s.chunkTaken data (bitAt (leAt ps 4 4) 0)
  else if s.tt.shadowState ≠ .loading then badLength s 0x0B
  else if off ≠ s.tt.shadow.length then badLength (s.setShadow s.tt.shadow .failed) 0x0B
  else s.chunkTaken (s.tt.shadow ++ data) (bitAt (leAt ps 4 4) 0)
/-- `TT_LOAD`. -/
def execTtLoad (p : Pkt) (s : State) : Ans := .next (s.runCommand 0x0100 p wfTtLoad doTtLoad)

/-- The format of TT_ACTIVATE (15_commands Table 15.12). -/
def wfTtActivate (ps : List Byte) (_ : State) : Bool :=
  let mode := fld (img ps) 0 2
  ps.length == 32 && decide (leAt ps 0 8 < 4) && mode != 3 && (mode != 2 || allZero (ps.drop 8))

/-- The checks of Table 2.13 for WARM and COLD, in their order (02_timetable R65). -/
def State.activationError (s : State) (warm : Bool) (n : Nat) (id : List Byte) : Option Nat :=
  let sh := s.tt.shadow
  let r := s.tt.round.toNat
  if s.flt.safe ∨ s.flt.graceEnd.isSome then some 0x0A
  else if s.tt.shadowState ≠ .checked then some 0x01
  else if imageId sh ≠ id then some 0x02
  else if warm ∧ s.tt.active.isNone then some 0x04
  else if warm ∧ ((sectionOff sh 7).isNone ∨ some (sliceAt sh 0x20 16) ≠ s.tt.active.map imageId) then some 0x03
  else if !warm ∧ !s.upPorts.isEmpty then some 0x05
  else if (List.range 64).any fun m => s.macroUp m && planMode sh m != (s.macro_ m).mode.toNat then some 0x06
  else if s.tt.act.isSome then some 0x07
  else if n < r + 5 then some 0x08
  else if r + 2 ^ 22 < n then some 0x09
  else none

/-- TT_ACTIVATE CANCEL (02_timetable R65, R66): from the boundary of round N − 4 the activation is committed. -/
def State.cancelActivation (s : State) : Done :=
  if s.flt.safe ∨ s.flt.graceEnd.isSome then busy s 0x0A
  else
    match s.tt.act with
    | none => busy s 0x0D
    | some a =>
      if a.phase ≠ .armed ∨ a.n.toNat ≤ s.tt.round.toNat + 4 then busy s 0x0B
      else ok (({ s with tt := { s.tt with act := none } } : State).complete a.waiter 0x14 0x0C [])

/-- TT_ACTIVATE (02_timetable R65, R66); `tn` is the round that a mirrored command's device time gives (19_pair R469). -/
def doTtActivateAt (tn : Option Nat) : Handler := fun w _ ps s =>
  let mode := fld (img ps) 0 2
  if mode = 2 then s.cancelActivation
  else
    let n := tn.getD (s.resolveRound ps)
    match s.activationError (mode = 0) n (sliceAt ps 16 16) with
    | some e => busy s e
    | none =>
      let a : Activation :=
        { phase := .armed, n := BitVec.ofNat 64 n, warm := decide (mode = 0), waiter := w, headsDrained := false }
      pendingReply { s with tt := { s.tt with act := some a } }

/-- TT_ACTIVATE run with the mode of its row. -/
def State.ttActivate (s : State) (mode : Nat) (p : Pkt) : State :=
  s.runCommand 0x0101 (forceOp p 0 2 mode) wfTtActivate (doTtActivateAt none)
/-- `TT_ACTIVATE_WARM`. -/
def execTtActivateWarm (p : Pkt) (s : State) : Ans := .next (s.ttActivate 0 p)
/-- `TT_ACTIVATE_COLD`. -/
def execTtActivateCold (p : Pkt) (s : State) : Ans := .next (s.ttActivate 1 p)
/-- `TT_ACTIVATE_CANCEL`. -/
def execTtActivateCancel (p : Pkt) (s : State) : Ans := .next (s.ttActivate 2 p)

/-- The code of the shadow's state (15_commands R386). -/
def ShadowState.code : ShadowState → Nat
  | .empty => 0 | .loading => 1 | .checked => 2 | .failed => 3
/-- The code of an activation's phase (15_commands R386). -/
def ActPhase.code : ActPhase → Nat
  | .armed => 1 | .committed => 2 | .draining => 3

/-- The TT_QUERY results (15_commands R386). -/
def ttQueryBytes (s : State) : List Byte :=
  let id (b : List Byte) := sliceAt b 0x10 16
  let act := (s.tt.act.map (·.phase.code)).getD 0
  fit 128 (id (s.tt.active.getD []) ++ id s.tt.shadow ++ bytesLe 8 (s.tt.shadowState.code + 4 * act) ++
      bytesLe 8 s.tt.round.toNat ++ timeBytes s.boundaryTime ++ bytesLe 4 0 ++
      bytesLe 8 ((s.tt.act.map (·.n.toNat)).getD 0)) ++
    sliceAt (match s.tt.active with | some b => sectionBytes b 1 | none => []) 16 480
/-- TT_QUERY (02_timetable R71). -/
def doTtQuery : Handler := fun _ _ _ s => ok s (ttQueryBytes s)
/-- `TT_QUERY`. -/
def execTtQuery (p : Pkt) (s : State) : Ans := .next (s.runCommand 0x0102 p (lenIs 0) doTtQuery)

/-! ### Activation events -/

/-- The armed activation is committed at the boundary of round N − 4 (02_timetable R66). -/
def State.activationCommit (s : State) : State :=
  match s.tt.act with
  | some a =>
    if a.phase = .armed ∧ a.n.toNat ≤ s.tt.round.toNat + 4 then
      { s with tt := { s.tt with act := some { a with phase := .committed } } }
    else s
  | none => s
/-- `ACTIVATION_COMMIT`. -/
def execActivationCommit (s : State) : Ans := .next s.activationCommit

/-- The head entered its slot under the image that an activation replaces. -/
def markOld (f : Frame) : Frame := { f with oldImage := true }

/-- Every island switches to the new image at the boundary of round N (02_timetable R67, R68, R70): heads in flight go on in
the old one, and the ports whose changed bit is set have not switched yet. What the image makes unpredictable is settled here
(R74; log entry 44). -/
def State.activationSwitch (s : State) : State :=
  match s.tt.act with
  | some a =>
    if a.phase ≠ .draining ∧ a.n.toNat ≤ s.tt.round.toNat then
      let new := s.tt.shadow
      let changed := (List.finRange 512).filter fun lp => bitAt (portSwitch new lp.val) 31
      let s : State := { s with
        tt := { s.tt with
          old := s.tt.active, active := some new, act := some { a with phase := .draining }, switchRound := some a.n,
          broken := brokenPipes (if a.warm then s.tt.active else none) new,
          brokenPorts := brokenPorts (if a.warm then s.tt.active else none) new,
          unswitched := changed, inWindow := changed }
        flow := { s.flow with
          inPass := s.flow.inPass.map fun x => (x.1, x.2.1, markOld x.2.2)
          arb := s.flow.arb.map fun x => { x with frame := markOld x.frame } } }
      s.settleModes
    else s
  | none => s
/-- `ACTIVATION_SWITCH`. -/
def execActivationSwitch (s : State) : Ans := .next s.activationSwitch

/-- An old-image head remains in a pass, a hand-off or a buffer-island stage up to its linking (02_timetable R66). -/
def State.oldHeads (s : State) : Bool :=
  (s.flow.inPass.any fun x => x.2.2.oldImage) || (s.flow.arb.any fun x => x.frame.oldImage)

/-- The activation replies OK once no old-image head remains and every changed port has passed its switch position
(02_timetable R66). -/
def State.activationDrained (s : State) : State :=
  match s.tt.act with
  | some a =>
    if a.phase = .draining ∧ !s.oldHeads ∧ s.tt.unswitched.isEmpty then
      ({ s with tt := { s.tt with act := none, old := none } } : State).complete a.waiter 0 0 []
    else s
  | none => s
/-- `ACTIVATION_DRAINED`. -/
def execActivationDrained (s : State) : Ans := .next s.activationDrained

/-- The port's transition FIFO is empty. -/
def State.fifoEmpty (s : State) (lp : Fin 512) : Bool := !s.flow.waiting.any fun x => x.1.lp == lp

/-- The instant of a changed port's switch position, in ps from round 0: the start of its slot, counted from round N on (02_timetable R60,
R68). -/
def State.switchInstant (s : State) (lp : Nat) : Nat :=
  match s.tt.switchRound, s.tt.active with
  | some n, some img => (n.toNat * 1024 + fld (portSwitch img lp) 0 12 / 2) * 400
  | _, _ => 0

/-- A changed port reaches its switch position in the round in force or has reached it (02_timetable R68). -/
def State.switchReached (s : State) (lp : Fin 512) : Bool :=
  s.tt.switchRound.isSome && s.tt.active.isSome && s.due (s.switchInstant lp.val)

/-- A changed port has passed its switch position: its transition window closes there when its FIFO is empty (02_timetable R68). -/
def State.endSwitch (s : State) (lp : Fin 512) : State :=
  let s := { s with tt := { s.tt with unswitched := s.tt.unswitched.filter (· != lp) } }
  if s.fifoEmpty lp then { s with tt := { s.tt with inWindow := s.tt.inWindow.filter (· != lp) } } else s

/-- A changed port reaches its switch position (02_timetable R68). -/
def State.switchPosition (s : State) (lp : Fin 512) : State :=
  if s.tt.unswitched.contains lp ∧ s.switchReached lp then (s.reach (s.switchInstant lp.val)).endSwitch lp else s
/-- `PORT_SWITCH_POSITION`. -/
def execPortSwitchPosition (lp : Fin 512) (s : State) : Ans := .next (s.switchPosition lp)

/-- A changed port's FIFO is empty after its switch position: its transition window closes (02_timetable R68). -/
def State.windowClosed (s : State) (lp : Fin 512) : State :=
  if s.tt.inWindow.contains lp ∧ !s.tt.unswitched.contains lp ∧ s.fifoEmpty lp then
    { s with tt := { s.tt with inWindow := s.tt.inWindow.filter (· != lp) } }
  else s
/-- `TRANSITION_WINDOW_CLOSE`. -/
def execTransitionWindowClose (lp : Fin 512) (s : State) : Ans := .next (s.windowClosed lp)

end Sys2Proof.Machine
end

