-- ==== Sys2Proof/Machine/Line.lean ====
section
/-!
DEFINITION. Line ports: PORT_CONFIG, PORT_STATUS, STATS_READ, bring-up and loss of the link, low power, PAUSE and PFC
(04_line R90 to R120; 03_islands R88; 15_commands R388).
-/

namespace Sys2Proof.Machine

/-! ### Commands with units (16_microcode R404; 15_commands R381) -/

/-- The units that complete when a command of `n` units runs, and whether a cancel stops it: a cancel that falls with `k`
commit points passed stops it at the next one. -/
def unitsDone (cancelAt : Option Nat) (n : Nat) : Nat × Bool :=
  match cancelAt with
  | some k => if k < n then (k + 1, true) else (n, false)
  | none => (n, false)

/-- PARTIAL with the count of completed units (15_commands R367). -/
def partialReply (s : State) (n : Nat) : Done := { st := s, status := 0x20, results := bytesLe 8 n, part := true }

/-- D0 can be written (08_tables R221; 14_dram R341, R345): the Cabinet is not paused, and of each pair of channels that
hold a unit's two copies one is in service. -/
def State.d0Writable (s : State) : Bool :=
  !s.cab.paused && (List.range 8).all fun k => !(s.chanOut k && s.chanOut (k + 8))

/-- How a command of `n` units that writes D0 ends: its units done, and 0 when all are, 1 when a cancel stops it (R404),
2 when D0 stops accepting writes after that many acknowledged units (08_tables R221). -/
def d0Units (p : Pkt) (n : Nat) : Nat × Nat :=
  let u := unitsDone p.cancelAt n
  match p.d0StopAt with
  | some j => if j < u.1 then (j, 2) else (u.1, b1 u.2)
  | none => (u.1, b1 u.2)

/-- BUSY of a command that D0 stopped after `n` units (08_tables R221; 15_commands R367). -/
def d0Busy (s : State) (n : Nat) : Done :=
  { st := s, status := 0x14, results := if n = 0 then [] else bytesLe 8 n, part := decide (0 < n) }

/-! ### PORT_CONFIG -/

/-- The fields of a port block that are not reserved (04_line Table 4.5). -/
def portBlockBits : Nat :=
  bits 0 3 + bits 8 6 + bits 16 16 + bits 32 3 + bits 40 3 + bits 48 4 + bits 56 8 + bits 64 48 + bits 128 64 +
    bits 192 48 + bits 256 768

/-- A port block is legal (04_line R93, R97, Table 4.5). -/
def portBlockOk (b : List Byte) : Bool :=
  let v := le b
  let wd := fld v 128 16
  let ho := fld v 144 16
  onlyBits b portBlockBits && fld v 0 2 != 3 && decide (fld v 8 4 ≤ 1) &&
    (fld v 8 4 == 0 || (!bitAt v 12 && !bitAt v 13)) && decide (1518 ≤ fld v 16 16) && decide (fld v 16 16 ≤ 10240) &&
    fld v 40 2 != 3 && fld v 48 2 != 3 && fld v 50 2 != 3 && decide (wd ≤ 10000) &&
    (wd == 0 || (decide (1 ≤ ho) && decide (ho ≤ 10000)))

/-- The positions that a port_mask selects, ascending. -/
def maskPositions (mask : Nat) : List Nat := (List.range 8).filter (bitAt mask)

/-- The port blocks of the parameters, with their positions. -/
def portBlocks (ps : List Byte) : List (Nat × List Byte) :=
  (numbered 0 (maskPositions (byteAt ps 2))).map fun x => (x.2, sliceAt ps (8 + 128 * x.1) 128)

/-- The format of PORT_CONFIG (04_line R97, Table 4.4). -/
def wfPortConfig (ps : List Byte) (_ : State) : Bool :=
  let mask := byteAt ps 2
  decide (8 ≤ ps.length) && onlyBits (ps.take 8) (bits 0 6 + bits 8 2 + bits 16 24) &&
    decide (mask < 2 ^ (2 ^ fld (le (ps.take 8)) 8 2)) && ps.length == 8 + 128 * (maskPositions mask).length &&
    (portBlocks ps).all fun x => portBlockOk x.2

/-- A pause kind of a port changed. -/
def State.modPause (s : State) (lp k : Nat) (f : PauseState → PauseState) : State :=
  s.modPort lp fun p => { p with pause := tmod PauseState.init p.pause k f }

/-- Pauses that a port no longer honours are cleared (04_line R99). -/
def State.dropPauses (s : State) (lp : Nat) : State :=
  let m := s.pcfg lp 48 2
  let en := s.pcfg lp 56 8
  (List.range 9).foldl (fun (s : State) k =>
    if (if k = 8 then m == 1 else m == 2 && bitAt en k) then s
    else s.modPause lp k fun w => { w with until_ := none, coming := [], heldSince := none }) s

/-- The calls for pause of a port go by its new pause_tx_mode (04_line R114; 10_buffer R263, R276): those of the old mode are withdrawn, and
every congested lossless group that the new mode carries calls. -/
def State.recallPauses (s : State) (lp : Nat) : State :=
  let s := (List.range 9).foldl (fun (s : State) k =>
    if (tget PauseState.init (s.port lp).pause k).txOn then s.modPause lp k fun w => { w with txOn := false } else s) s
  (List.range 8).foldl (fun (s : State) k =>
    if (s.group (8 * lp + k)).congested && s.groupLossless (8 * lp + k) then s.pauseCall lp k true else s) s

/-- A port goes to LOW_POWER with its wake detector armed, or to DISABLED: its receive frame in progress ends, and what is on its wire
completes (04_line R99, R116). -/
def State.powerOff (s : State) (lp : Nat) (st : PortState) : State :=
  if (s.port lp).st = st then s
  else (s.leaveUp lp st true).modPort lp fun p =>
    { p with woken := false, wakeArmed := decide (st = .lowPower), wakeFired := false, lanesUp := false }

/-- The macro's containment is in force (04_line Table 4.3, ISLAND_FAULT). -/
def State.contained (s : State) (m : Nat) : Bool := (s.macro_ m).pllFault || (s.macro_ m).shed

/-- A port block applied (04_line R94, R97, R99; 05_time R141). -/
def State.applyBlock (s : State) (lp : Nat) (new : Image) : State :=
  let old := (s.port lp).cfg
  let s := s.modPort lp fun p =>
    { p with cfg := new, cal := if fld old 8 4 = fld new 8 4 then p.cal else { valid := false, rxPs := 0, txPs := 0, temp := 0, round := 0 } }
  let s := s.dropPauses lp
  let s := if fld old 50 2 = fld new 50 2 then s else s.recallPauses lp
  let st := (s.port lp).st
  let admin := fld new 0 2
  let restart := fld old 8 6 != fld new 8 6 || fld old 256 256 != fld new 256 256
  if st = .islandFault ∧ s.contained (macroOf lp) then s
  else if admin = 0 then s.powerOff lp .disabled
  else if admin = 2 then s.powerOff lp .lowPower
  else
    let s := s.modPort lp fun p => { p with woken := false, wakeArmed := false, wakeFired := false }
    if st = .disabled ∨ st = .lowPower ∨ st = .islandFault ∨ restart then s.bringup lp else s

/-- The macro header applied (04_line R97, R98): a change of mode clears the macro's calibrations, the ports that the new
mode lacks cease to exist (R90; log entry 15), and a change of mode or of a lane's polarity restarts a port's bring-up. -/
def State.applyHeader (s : State) (m mode : Nat) (rx tx : BitVec 8) : State :=
  let old := s.macro_ m
  let s := s.modMacro m fun x => { x with mode := BitVec.ofNat 2 mode, rxPol := rx, txPol := tx }
  let live (st : PortState) : Bool := st != .disabled && st != .lowPower && st != .islandFault
  if old.mode.toNat = mode then
    let flipped := ((old.rxPol ^^^ rx) ||| (old.txPol ^^^ tx))
    (s.macroPorts m).foldl (fun (s : State) lp =>
      if live (s.port lp).st ∧ (flipped &&& portLanes mode lp) ≠ 0 then s.bringup lp else s) s
  else
    (List.range 8).foldl (fun (s : State) k =>
      let lp := 8 * m + k
      let s := s.modPort lp fun p => { p with cal := { valid := false, rxPs := 0, txPs := 0, temp := 0, round := 0 } }
      if s.portExists lp then (if live (s.port lp).st then s.bringup lp else s)
      else ((s.setPortState lp .disabled).modPort lp fun p =>
        { p with cfg := 0, woken := false, wakeArmed := false, wakeFired := false, pause := [] })) s

/-- PORT_CONFIG (04_line R97 to R99; 02_timetable R70; 05_time R140): its units are its port blocks, the header applied with
the first, or the header alone (16_microcode Table 16.10). -/
def doPortConfig : Handler := fun _ p ps s =>
  let m := fld (le (ps.take 8)) 0 6
  let mode := fld (le (ps.take 8)) 8 2
  let change := mode != (s.macro_ m).mode.toNat
  if (change && (s.macroUp m || s.tt.act.isSome)) || s.calibrating m then busy s
  else
    let blocks := portBlocks ps
    let u := unitsDone p.cancelAt (max 1 blocks.length)
    let s := s.applyHeader m mode (BitVec.ofNat 8 (byteAt ps 3)) (BitVec.ofNat 8 (byteAt ps 4))
    let s := (blocks.take u.1).foldl (fun (s : State) x => s.applyBlock (lpOf m mode x.1) (le x.2)) s
    let s := s.settleIsland m
    if u.2 then partialReply s u.1 else ok s
/-- `PORT_CONFIG`. -/
def execPortConfig (p : Pkt) (s : State) : Ans := .next (s.runCommand 0x0300 p wfPortConfig doPortConfig)

/-! ### PORT_STATUS and STATS_READ -/

/-- A pause kind is in force on a port. -/
def State.pauseInForce (s : State) (lp k : Nat) : Bool :=
  match (tget PauseState.init (s.port lp).pause k).until_ with
  | some t => decide (s.nowPs < t)
  | none => false
/-- A pause kind is in its watchdog hold-off on a port. -/
def State.inHoldoff (s : State) (lp k : Nat) : Bool :=
  match (tget PauseState.init (s.port lp).pause k).holdoff with
  | some t => decide (s.nowPs < t)
  | none => false

/-- The format of PORT_STATUS (15_commands R388). -/
def wfPortStatus (ps : List Byte) (s : State) : Bool := ps.length == 8 && onlyBits ps (bits 0 10) && s.portExists (queryPort ps)

/-- The PORT_STATUS results (15_commands, after R388). -/
def portStatusBytes (s : State) (lp : Nat) : List Byte :=
  let p := s.port lp
  bytesLe 1 (p.st.code + b1 (s.pauseInForce lp 8) * 16 + b1 (s.inHoldoff lp 8) * 32 + b1 p.wakeFired * 64) ++
    bytesLe 1 ((List.range 8).map fun k => b1 (s.pauseInForce lp k) * 2 ^ k).sum ++
    bytesLe 1 ((List.range 8).map fun k => b1 (s.inHoldoff lp k) * 2 ^ k).sum ++ bytesLe 1 p.locked.toNat ++
    bytesLe 4 0 ++ bytesLe 8 p.lastChange.toNat
/-- PORT_STATUS (04_line R99). -/
def doPortStatus : Handler := fun _ _ ps s => ok s (portStatusBytes s (queryPort ps))
/-- `PORT_STATUS`. -/
def execPortStatus (p : Pkt) (s : State) : Ans := .next (s.runCommand 0x0301 p wfPortStatus doPortStatus)

/-- The format of STATS_READ (15_commands R388). -/
def wfStatsRead (ps : List Byte) (s : State) : Bool :=
  ps.length == 8 && onlyBits ps (bits 0 10 + bits 16 1) && (s.portExists (queryPort ps) || queryPort ps == 512)

/-- 64 counters as they stand in a reply (15_commands R388). -/
def statsBytes (t : Tbl (BitVec 64)) (no : Nat) : List Byte :=
  ((List.range 64).map fun k => bytesLe 8 (tget 0 t k).toNat).flatten ++ bytesLe 8 no

/-- STATS_READ (04_line R115): the counters cleared as they are read, or the copy of the last mark. -/
def doStatsRead : Handler := fun _ _ ps s =>
  let lp := queryPort ps
  let snap := bitAt (img ps) 16
  if lp = 512 then
    if snap then ok s (statsBytes s.mgmt.statsSnap s.mgmt.snapNo.toNat)
    else ok { s with mgmt := { s.mgmt with stats := [] } } (statsBytes s.mgmt.stats 0)
  else if snap then ok s (statsBytes (s.port lp).statsSnap (s.port lp).statsSnapNo.toNat)
  else ok (s.modPort lp fun p => { p with stats := [] }) (statsBytes (s.port lp).stats 0)
/-- `STATS_READ`. -/
def execStatsRead (p : Pkt) (s : State) : Ans := .next (s.runCommand 0x0302 p wfStatsRead doStatsRead)

/-! ### Bring-up and loss -/

/-- The lanes of a waking port are up, and its bring-up begins (04_line Table 4.3). -/
def State.lanesOn (s : State) (lp : Nat) : State := (s.modPort lp fun p => { p with lanesUp := true }).bringup lp

/-- A step of bring-up ends (04_line Table 4.3): with success the next state, MODE_BLOCKED in place of UP while the mode
differs from PORT_PLAN (02_timetable R70); on failure of training AN or TRAINING again, and LOW_POWER for a woken port. -/
def State.bringupDone (s : State) (lp : Nat) (ok : Bool) : State :=
  let p := s.port lp
  let m := macroOf lp
  match p.st with
  | .waking => if ok ∧ !s.islandDown m ∧ (s.macro_ m).serdesUp then s.lanesOn lp else s
  | .an =>
    if ok then s.setPortState lp (if bitAt p.cfg 13 then .training else .align)
    else if p.woken then s.fallBack lp else s
  | .training => if ok then s.setPortState lp .align else s.fallBack lp
  | .align => if ok then s.setPortState lp (if s.planAgrees m then .up else .modeBlocked) else s
  | _ => s
/-- `PORT_BRINGUP_DONE`. -/
def execPortBringupDone (lp : Fin 512) (ok : Bool) (s : State) : Ans := .next (s.bringupDone lp.val ok)

/-- 10 ms in ALIGN without lock (04_line Table 4.3); a port whose first state is ALIGN begins it anew. -/
def State.alignTimeout (s : State) (lp : Nat) : State :=
  let t := (s.port lp).alignAt + 10 * msPs
  if (s.port lp).st = .align ∧ s.due t then
    let s := (s.reach t).fallBack lp
    s.modPort lp fun p => { p with lastChange := s.tt.round, alignAt := s.nowPs }
  else s
/-- `ALIGN_TIMEOUT`. -/
def execAlignTimeout (lp : Fin 512) (s : State) : Ans := .next (s.alignTimeout lp.val)

/-- An UP port loses marker or codeword lock (04_line R95). -/
def State.linkLoss (s : State) (lp : Nat) : State := if s.isUp lp then s.fallBack lp else s
/-- `LINK_LOSS`. -/
def execLinkLoss (lp : Fin 512) (s : State) : Ans := .next (s.linkLoss lp.val)

/-- One 1 ms interval of an UP port's FEC counts (04_line R96, Table 4.8). -/
def State.fecCheck (s : State) (lp symbols cw bad blocks : Nat) : State :=
  if !s.isUp lp then s
  else
    let s := (((s.stat lp 0x1A8 symbols).stat lp 0x198 cw).stat lp 0x1A0 bad).stat lp 0x1B0 blocks
    let limit := s.pcfg lp 176 16 * 1024
    let above := decide (0 < limit) && decide (limit < symbols)
    let was := (s.port lp).degraded
    let s := s.modPort lp fun p => { p with degraded := above }
    if above && !was then s.portEvent lp else s
/-- `FEC_DEGRADE_CHECK`. -/
def execFecDegradeCheck (lp : Fin 512) (correctedSymbols correctedCw uncorrectableCw blockErrors : Nat) (s : State) : Ans :=
  .next (s.fecCheck lp.val correctedSymbols correctedCw uncorrectableCw blockErrors)

/-- The wake detector fires (04_line R117). -/
def State.wakeDetect (s : State) (lp : Nat) : State :=
  let p := s.port lp
  if p.st = .lowPower ∧ p.wakeArmed ∧ p.calRun.isNone then
    let s := (s.modPort lp fun p => { p with wakeArmed := false, wakeFired := true }).portEvent lp
    if bitAt p.cfg 2 then (s.modPort lp fun p => { p with woken := true }).bringup lp else s
  else s
/-- `WAKE_DETECT`. -/
def execWakeDetect (lp : Fin 512) (s : State) : Ans := .next (s.wakeDetect lp.val)

/-- The energy has been absent for 10 µs at a port that stayed in LOW_POWER as its detector fired, under wake_action 0 (04_line
R117). -/
def State.wakeRearm (s : State) (lp : Nat) : State :=
  let p := s.port lp
  if p.st = .lowPower ∧ p.wakeFired ∧ p.calRun.isNone then
    s.modPort lp fun p => { p with wakeArmed := true, wakeFired := false }
  else s
/-- `WAKE_DETECTOR_REARM`. -/
def execWakeDetectorRearm (lp : Fin 512) (s : State) : Ans := .next (s.wakeRearm lp.val)

/-- The waking ports of a macro whose island and lanes are up begin their bring-up (04_line Table 4.3). -/
def State.wakePorts (s : State) (m : Nat) : State :=
  (s.macroPorts m).foldl (fun (s : State) lp =>
    if (s.port lp).st = .waking ∧ !s.islandDown m ∧ (s.macro_ m).serdesUp then s.lanesOn lp else s) s

/-- A port island locks, aligns its round and sets its joint read points (03_islands R88); one that no port needs stays
down, and so does every one in the safe state of THERMAL_TRIP. -/
def State.islandUp (s : State) (m : Nat) : State :=
  if (s.flt.safe ∧ s.flt.thermtripN) ∨ (!s.islandNeeded m ∧ !s.calibrating m) then s
  else
    let s := (s.powerUp m)
    ({ s with tt := { s.tt with pllLost := s.tt.pllLost.filter fun i => i.val != 16 + m } } : State).wakePorts m
/-- `ISLAND_POWER_UP`. -/
def execIslandPowerUp (m : Fin 64) (s : State) : Ans := .next (s.islandUp m.val)

/-! ### PAUSE and PFC -/

/-- A pause quantum in ps: 512 bit times (04_line, before R110). -/
def quantumPs (mode : Nat) : Nat := 640 * 2 ^ mode

/-- A pause of a kind received: ignored and counted in its hold-off, otherwise on its way (04_line R111, R113). -/
def State.pauseArrive (s : State) (lp k : Nat) (quanta : BitVec 16) (endPs : Nat) : State :=
  if s.inHoldoff lp k then s.stat lp 0x190
  else s.modPause lp k fun w => { w with coming := w.coming ++ [(endPs + 20480, quanta)] }

/-- A MAC control frame to 01-80-C2-00-00-01 whose FCS ended at an instant (04_line R110). -/
def State.pauseFrame (s : State) (lp op classes : Nat) (quanta : List (BitVec 16)) (endPs : Nat) : State :=
  let m := s.pcfg lp 48 2
  if op = 0x0001 ∧ m = 1 then
    if s.inHoldoff lp 8 then s.stat lp 0x190
    else (s.stat lp 0x050).pauseArrive lp 8 (quanta.headD 0) endPs
  else if op = 0x0101 ∧ m = 2 ∧ classes % 256 ≠ 0 then
    (List.range 8).foldl (fun (s : State) k =>
      if bitAt classes k then
        let s := s.stat lp (0x080 + 8 * k)
        if bitAt (s.pcfg lp 56 8) k then s.pauseArrive lp k (quanta.getD k 0) endPs else s
      else s) s
  else s.stat lp 0x058

/-- A received PAUSE or PFC frame (04_line R110); only an UP port receives, and in the safe state the MAC discards it
(20_faults R488). -/
def State.pauseReceive (s : State) (lp : Nat) (op : BitVec 16) (classes : BitVec 8) (quanta : List (BitVec 16)) : State :=
  if !s.isUp lp then s
  else if s.flt.safe then { s with flt := { s.flt with safeDiscard := s.flt.safeDiscard + 1 } }
  else s.pauseFrame lp op.toNat classes.toNat quanta s.nowPs
/-- `PAUSE_RECEIVE`. -/
def execPauseReceive (lp : Fin 512) (opcode : BitVec 16) (classes : BitVec 8) (quanta : List (BitVec 16)) (at8 : Fin 3277)
    (s : State) : Ans := .next ((s.at_ at8.val).pauseReceive lp.val opcode classes quanta)

/-- One received pause takes effect (04_line R111, R112): its time runs from the end of its frame; zero quanta, or a time
already over, end the pause; a pause that it extends is held without a break (R113). -/
def PauseState.take (w : PauseState) (q : Nat) (x : Nat × BitVec 16) : PauseState :=
  let stop := x.1 - 20480 + x.2.toNat * q
  let held := match w.until_ with | some t => decide (x.1 ≤ t) | none => false
  if stop ≤ x.1 then { w with until_ := none, heldSince := none }
  else { w with until_ := some stop, heldSince := if held then w.heldSince else some x.1 }

/-- The received pauses of a port whose effect falls due take it (04_line R111). -/
def State.pauseTake (s : State) (lp : Nat) : State :=
  let q := quantumPs (s.modeOf lp)
  (List.range 9).foldl (fun (s : State) k =>
    let due := (tget PauseState.init (s.port lp).pause k).coming.filter fun x => s.due x.1
    due.foldl (fun (s : State) x =>
      (s.reach x.1).modPause lp k fun w => { w.take q x with coming := w.coming.filter fun y => y != x }) s) s
/-- `PAUSE_TAKE_EFFECT`. -/
def execPauseTakeEffect (lp : Fin 512) (s : State) : Ans := .next (s.pauseTake lp.val)

/-- A pause's time runs out (04_line R111). -/
def State.pauseExpire (s : State) (lp k : Nat) : State :=
  match (tget PauseState.init (s.port lp).pause k).until_ with
  | some t => if s.due t then (s.reach t).modPause lp k fun w => { w with until_ := none, heldSince := none } else s
  | none => s
/-- `PAUSE_EXPIRY`. -/
def execPauseExpiry (lp : Fin 512) (kind : Fin 9) (s : State) : Ans := .next (s.pauseExpire lp.val kind.val)

/-- The watchdog breaks a pause held for watchdog_ms without a break (04_line R113). That pauses received before the trip and not yet in
effect go with it is the model's choice (DESIGN CHOICE, log entry 123). -/
def State.pauseTrip (s : State) (lp k : Nat) : State :=
  let wd := s.pcfg lp 128 16
  let w := tget PauseState.init (s.port lp).pause k
  match w.until_, w.heldSince with
  | some u, some h =>
    let t := h + wd * msPs
    if wd ≠ 0 ∧ s.due t ∧ t ≤ u then
      (((s.reach t).modPause lp k fun w =>
        { w with until_ := none, heldSince := none, coming := [], holdoff := some (t + s.pcfg lp 144 16 * msPs) }).stat lp
          0x188).portEvent lp
    else s
  | _, _ => s
/-- `PAUSE_WATCHDOG_TRIP`. -/
def execPauseWatchdogTrip (lp : Fin 512) (kind : Fin 9) (s : State) : Ans := .next (s.pauseTrip lp.val kind.val)

/-- The watchdog hold-off ends (04_line R113). -/
def State.holdoffOver (s : State) (lp k : Nat) : State :=
  match (tget PauseState.init (s.port lp).pause k).holdoff with
  | some t => if s.due t then (s.reach t).modPause lp k fun w => { w with holdoff := none } else s
  | none => s
/-- `PAUSE_HOLDOFF_END`. -/
def execPauseHoldoffEnd (lp : Fin 512) (kind : Fin 9) (s : State) : Ans := .next (s.holdoffOver lp.val kind.val)

/-- The octets of a PAUSE (kind 8) or PFC frame before its FCS (04_line R114): to 01-80-C2-00-00-01 from station_address, padded to 60. -/
def State.pauseBytes (s : State) (lp k quanta : Nat) : List Byte :=
  fit 60 (bytesBe 6 0x0180C2000001 ++ bytesBe 6 (s.pcfg lp 192 48) ++ [0x88, 0x08] ++
    (if k = 8 then bytesBe 2 0x0001 ++ bytesBe 2 quanta
     else bytesBe 2 0x0101 ++ bytesBe 2 (2 ^ k) ++ (List.range 8).flatMap fun i => bytesBe 2 (if i = k then quanta else 0)))

/-- The frames of a port whose first bits have not crossed by an instant start behind the wire that is free from then on, each behind the
one before it. -/
def State.pushBack (s : State) (lp now : Nat) : List TxFrame → Nat → List TxFrame
  | [], _ => []
  | w :: r, free =>
    if w.start ≤ now then w :: s.pushBack lp now r free
    else
      let w := { w with start := max w.start free }
      w :: s.pushBack lp now r (s.lineEnd lp w)

/-- The transmit frame boundary of a port at an instant: the end of the frame on its wire, or the instant itself (04_line R114). -/
def State.frameBoundary (s : State) (lp now : Nat) : Nat :=
  (s.egr lp).wire.foldl (fun m w => if w.start ≤ now then max m (s.lineEnd lp w) else m) (max now (s.egr lp).freeAt)

/-- A PAUSE or PFC frame sent with its quanta at the next transmit frame boundary, ahead of every frame that has not started, each of which
its 84 line bytes delay; and counted (04_line R114, R115, Table 4.8; 12_egress R295, R307). -/
def State.pauseSend (s : State) (lp k quanta : Nat) (last : Option Nat) : State :=
  let data := s.pauseBytes lp k quanta
  let free := s.frameBoundary lp s.nowPs + 84 * psPerByte (s.modeOf lp)
  let s := s.modEgr lp fun e => { e with wire := s.pushBack lp s.nowPs e.wire free, freeAt := free }
  let s := s.emit (.frame lp (data ++ bytesLe 4 (crc32 data).toNat) false)
  let s := (((s.stat lp 0x100).stat lp 0x108 64).stat lp 0x118).stat lp (if k = 8 then 0x138 else 0x140 + 8 * k)
  s.modPause lp k fun w => { w with txLast := last }

/-- The MAC sends a PAUSE or PFC frame: on a call, on each half of pause_tx_quanta while the call lasts, and with zero quanta on its
withdrawal (04_line R114). -/
def State.pauseTx (s : State) (lp k : Nat) : State :=
  let w := tget PauseState.init (s.port lp).pause k
  let q := s.pcfg lp 160 16
  let kindOn := if k = 8 then s.pcfg lp 50 2 == 1 else s.pcfg lp 50 2 == 2
  if !s.isUp lp ∨ s.flt.safe then s
  else if w.txOn ∧ kindOn then
    match w.txLast with
    | none => s.pauseSend lp k q (some s.nowPs)
    | some t =>
      let t' := t + q * quantumPs (s.modeOf lp) / 2
      if s.due t' then (s.reach t').pauseSend lp k q (some (max t' s.nowPs)) else s
  else if w.txLast.isSome then s.pauseSend lp k 0 none
  else s

/-- A PAUSE or PFC frame of a kind is called for now (04_line R114). -/
def State.pauseOwed (s : State) (lp k : Nat) : Bool :=
  let w := tget PauseState.init (s.port lp).pause k
  let kindOn := if k = 8 then s.pcfg lp 50 2 == 1 else s.pcfg lp 50 2 == 2
  if w.txOn && kindOn then
    match w.txLast with
    | none => true
    | some t => decide (t + s.pcfg lp 160 16 * quantumPs (s.modeOf lp) / 2 ≤ s.nowPs)
  else w.txLast.isSome

/-- The frames called for go ahead of any queued frame (04_line R114). -/
def State.sendPauses (s : State) (lp : Nat) : State :=
  (List.range 9).foldl (fun (s : State) k => if s.pauseOwed lp k then s.pauseTx lp k else s) s
/-- `PAUSE_TX`. -/
def execPauseTx (lp : Fin 512) (kind : Fin 9) (s : State) : Ans := .next (s.pauseTx lp.val kind.val)

end Sys2Proof.Machine
end

