-- ==== Sys2Proof/Machine/Cabinet.lean ====
section
/-!
DEFINITION. The Cabinet's commands: drawers, seals, capture and request entries, pause and resume, the seal timer, the drain
of staging and read positions (13_cabinet R314 to R331; 14_dram R357 to R359).
-/

namespace Sys2Proof.Machine

/-! ### DRAWER_OPEN, DRAWER_CLOSE, DRAWER_ERASE -/

/-- 64 MiB, the grain of drawers (13_cabinet R315). -/
def drawerGrain : Nat := 2 ^ 26

/-- The format of DRAWER_OPEN (13_cabinet R315, Table 13.1). -/
def wfDrawerOpen (ps : List Byte) (_ : State) : Bool :=
  let v := img ps
  let typ := fld v 8 2
  let base := fld v 64 64
  let size := fld v 128 64
  ps.length == 40 && onlyBits ps (bits 0 6 + bits 8 3 + bits 16 16 + bits 32 2 + bits 64 256) && fld v 0 6 != 0 && typ != 0 &&
    (if typ = 1 then fld v 32 2 == 1 || fld v 32 2 == 2 else fld v 32 2 == 0 && fld v 16 16 == 0) &&
    base % drawerGrain == 0 && size % drawerGrain == 0 && decide (drawerGrain ≤ size) && (typ != 2 || bitAt v 10)

/-- The extent of a drawer that is not EMPTY overlaps a range. -/
def State.overlaps (s : State) (lo hi : Nat) : Bool :=
  (List.range 64).any fun d =>
    let w := s.drawer d
    w.st != .empty && decide (lo < w.base + w.size) && decide (w.base < hi)

/-- Bytes of the installed Cabinet (14_dram R339). -/
def State.installed (s : State) : Nat := s.cab.installedGib * 2 ^ 30

/-- DRAWER_OPEN (13_cabinet R315, R316, R327, R328; 15_commands R534): the opening seal first, then the mapping of classes. -/
def doDrawerOpen : Handler := fun _ _ ps s =>
  let v := img ps
  let d := fld v 0 6
  let typ := fld v 8 2
  let base := fld v 64 64
  let size := fld v 128 64
  let key := fld v 32 2
  if (s.drawer d).st != .empty || s.cab.paused then busy s
  else if s.installed < base + size || base < 2 ^ 30 || s.overlaps base (base + size) ||
      (typ == 1 && ((s.key (4 + key)).key.isNone || 8 ≤ s.openEvidence.length)) then noResource s
  else
    let s := s.modDrawer d fun _ =>
      { Drawer.init with
        st := .opened, typ := typ, wrap := bitAt v 10, policy := BitVec.ofNat 8 (fld v 24 8), sealKey := key,
        base := base, size := size, label := BitVec.ofNat 128 (fld v 192 128) }
    let s := if typ = 1 then s.sealDrawer d 0 else s
    let s := (List.range 8).foldl (fun (s : State) c =>
      if bitAt v (16 + c) then s.modEvClass c fun e => { e with drawer := some d, dropUnrec := bitAt v (24 + c) } else s) s
    ok s (bytesLe 16 s.env.deviceId.toNat ++ bytesLe 16 (fld v 192 128))
/-- `DRAWER_OPEN`. -/
def execDrawerOpen (p : Pkt) (s : State) : Ans := .next (s.runCommand 0x0400 p wfDrawerOpen doDrawerOpen)

/-- The 8-byte parameters that name a drawer (13_cabinet R317). -/
def wfDrawer (ps : List Byte) (_ : State) : Bool := ps.length == 8 && onlyBits ps (bits 0 6)

/-- The feeds whose capture entry names a drawer (13_cabinet R317). -/
def State.capturesOf (s : State) (d : Nat) : List Nat :=
  (s.tables.work.filter fun x => tkeyCode x.1 == capCode && bitAt x.2 0 && fld x.2 1 6 == d).map fun x => x.1 % 2 ^ 32

/-- The work of a DRAWER_CLOSE (13_cabinet R317): pending gap records, staged records and the CLOSE seal, while the classes
are still the drawer's; then its classes and captures go and it is CLOSED. -/
def State.closeDrawer (s : State) (d : Nat) : State :=
  let evid := (s.drawer d).typ == 1
  let cs := s.classesOf d
  let s := if evid then (s.drainWhere fun r => r.drawer == d).sealDrawer d 4 else s
  let s := cs.foldl (fun (s : State) c => s.modEvClass c fun e => { e with drawer := none, dropUnrec := false }) s
  let s := (s.capturesOf d).foldl (fun (s : State) f =>
    (s.setWork capCode f (setFld (s.work capCode f) 0 1 0)).setMaster capCode 0 f (setFld (s.master capCode 0 f) 0 1 0)) s
  s.modDrawer d fun w => { w with st := .closed }

/-- The DRAWER_CLOSE commands that wait are carried out while the Cabinet is not paused, each with its final reply (13_cabinet
R317; log entry 19). -/
def State.settleCloses (s : State) : State :=
  if s.cab.paused ∨ s.flt.safe then s
  else
    (List.range 64).foldl (fun (s : State) d =>
      match (s.drawer d).waiter with
      | some w =>
        if (s.drawer d).st = .opened then
          let s := (s.closeDrawer d).modDrawer d fun x => { x with waiter := none }
          s.complete w 0 0 (bytesLe 8 (s.drawer d).wpos)
        else s
      | none => s) s

/-- DRAWER_CLOSE (13_cabinet R317). -/
def doDrawerClose : Handler := fun w _ ps s =>
  let d := fld (img ps) 0 6
  if (s.drawer d).st != .opened || (s.drawer d).waiter.isSome then busy s
  else pendingReply (s.modDrawer d fun x => { x with waiter := some w })
/-- `DRAWER_CLOSE`. -/
def execDrawerClose (p : Pkt) (s : State) : Ans := .next (s.runCommand 0x0401 p wfDrawer doDrawerClose).settleCloses

/-- DRAWER_ERASE (13_cabinet R317). -/
def doDrawerErase : Handler := fun w _ ps s =>
  let d := fld (img ps) 0 6
  if (s.drawer d).st != .closed then busy s
  else pendingReply (s.modDrawer d fun x => { x with st := .erasing, waiter := some w })
/-- `DRAWER_ERASE`. -/
def execDrawerErase (p : Pkt) (s : State) : Ans := .next (s.runCommand 0x0402 p wfDrawer doDrawerErase)

/-- Zeros over a range of the Cabinet, except on channels out of service, whose units are counted in cab_void_access
(13_cabinet R317; 14_dram R356). -/
def State.zeroRange (s : State) (base size : Nat) : State :=
  let s := { s with cab := { s.cab with
    mem := s.cab.mem.filter fun c => !(decide (base ≤ c.1) && decide (c.1 < base + size) && !s.chanOut (chanOf c.1))
    bad := s.cab.bad.filter fun u => !(decide (base ≤ 64 * u) && decide (64 * u < base + size) && !s.chanOut (chanOf (64 * u))) } }
  let void := ((List.range 16).filter s.chanOut).length * (size / 1024)
  if void = 0 then s else s.tick 0x91 0 void

/-- An erase ends (13_cabinet R317): the extent is zero and free, and the drawer is EMPTY. -/
def State.eraseDone (s : State) (d : Nat) : State :=
  let w := s.drawer d
  if w.st != .erasing || s.cab.paused || s.flt.safe then s
  else
    let s := (s.zeroRange w.base w.size).modDrawer d fun _ => Drawer.init
    match w.waiter with
    | some x => s.complete x 0 0 []
    | none => s
/-- `DRAWER_ERASE_DONE`. -/
def execDrawerEraseDone (drawer : Fin 64) (s : State) : Ans := .next (s.eraseDone drawer.val)

/-! ### Seals -/

/-- A REQUEST seal in a drawer, with its position when it was written (13_cabinet R327; 15_commands R534). -/
def sealStep (x : State × List (Nat × Nat)) (d : Nat) : State × List (Nat × Nat) :=
  let t := x.1.sealDrawer d 3
  (t, if (t.drawer d).sealIndex = (x.1.drawer d).sealIndex then x.2 else x.2 ++ [(d, (t.drawer d).spos - 1)])

/-- SEAL_NOW (13_cabinet R317, R327; 15_commands R534; log entry 20). -/
def doSealNow : Handler := fun _ _ ps s =>
  let d := fld (img ps) 0 6
  if s.cab.paused || (d != 0 && !s.openEvidence.contains d) then busy s
  else
    let x := (if d = 0 then s.openEvidence else [d]).foldl sealStep (s, [])
    ok x.1 (bytesLe 8 x.2.length ++ (x.2.map fun y => bytesLe 8 y.1 ++ bytesLe 8 y.2).flatten)
/-- `SEAL_NOW`. -/
def execSealNow (p : Pkt) (s : State) : Ans := .next (s.runCommand 0x0403 p wfDrawer doSealNow)

/-- 1 ms of the residence counter (13_cabinet R327). -/
def sealSpan : Nat := 10 ^ 6 * 65536

/-- The seal timer of a drawer (13_cabinet R327): no seal can be written while the DIMMs are in self-refresh. -/
def State.sealTimer (s : State) (d : Nat) : State :=
  if s.openEvidence.contains d && !s.cab.paused && !s.flt.safe &&
      decide (sealSpan ≤ (s.resTime + 2 ^ 64 - (s.drawer d).sealRes) % 2 ^ 64) then s.sealDrawer d 2 else s
/-- `SEAL_TIMER`. -/
def execSealTimer (drawer : Fin 64) (at8 : Fin 3277) (s : State) : Ans := .next ((s.at_ at8.val).sealTimer drawer.val)

/-! ### The drain of staging and read positions -/

/-- The channel that takes the oldest staged record has room in its real-time queue (14_dram R349). -/
def State.drainRoom (s : State) : Bool :=
  match s.cab.staging with
  | [] => true
  | r :: _ =>
    match s.nextPos (s.drawer r.drawer) with
    | some p => s.realTimeRoom (chanOf ((s.drawer r.drawer).addr p))
    | none => true

/-- The oldest staged record is written, once its channel's real-time queue has room; with none left the capture buffer drains behind it
(13_cabinet R326, R329, R332, R337; 14_dram R349; log entry 21). -/
def State.evidenceDrain (s : State) : State :=
  if s.cab.paused || s.flt.safe || (List.range 16).all s.chanOut then s
  else if s.cab.staging.isEmpty then { s with cab := { s.cab with captureBuf := 0 } }
  else if s.drainRoom then s.drainOne
  else s
/-- `EVIDENCE_DRAIN`. -/
def execEvidenceDrain (at8 : Fin 3277) (s : State) : Ans := .next (s.at_ at8.val).evidenceDrain

/-- A write of CAB_DRW_RPOS, from BAR0 or from an instance page that exposes the drawer (13_cabinet R330; 18_instances Table
18.3). -/
def State.rposWrite (s : State) (n d : Nat) (v : BitVec 64) : State :=
  let w := s.drawer d
  if d = 0 then s
  else if n ≠ 0 ∧ ((s.inst n).st = .absent ∨ (s.inst n).st = .fencing ∨ !bitAt (s.inst n).drawerMask.toNat d) then s
  else if v.toNat < w.rpos ∨ w.wpos < v.toNat then s.modDrawer d fun w => { w with rejected := true }
  else s.modDrawer d fun w => { w with rpos := v.toNat }
/-- `CAB_DRW_RPOS_WRITE`. -/
def execCabDrwRposWrite (inst : Fin 64) (drawer : Fin 64) (v : BitVec 64) (s : State) : Ans :=
  .next (s.rposWrite inst.val drawer.val v)

/-! ### REPLAY_CONFIG (13_cabinet R331) -/

/-- The op of REPLAY_CONFIG. -/
def replayOp (ps : List Byte) : Nat := byteAt ps 0
/-- The index of REPLAY_CONFIG. -/
def replayIndex (ps : List Byte) : Nat := leAt ps 2 2

/-- A capture entry's fields in range (13_cabinet Table 13.11). -/
def captureOk (e : Nat) : Bool :=
  decide (e &&& (bits 0 7 + bits 8 8 + bits 16 9 + bits 32 32) = e) && decide (fld e 8 3 ≤ 5) &&
    decide (10 ≤ fld e 11 5) && decide (fld e 11 5 ≤ 30)

/-- A request entry's fields in range (13_cabinet Table 13.13). -/
def requestOk (e : Nat) : Bool :=
  decide (e &&& (bits 0 9 + bits 16 11 + bits 32 64 + bits 128 128) = e) && decide (1 ≤ fld e 16 11) &&
    decide (fld e 16 11 ≤ 1024)

/-- The format of REPLAY_CONFIG (13_cabinet R331, Tables 13.11, 13.13). -/
def wfReplayConfig (ps : List Byte) (_ : State) : Bool :=
  let e := le (ps.drop 8)
  byteAt ps 1 == 0 && leAt ps 4 4 == 0 &&
    (if replayOp ps = 0 then ps.length == 24 && decide (replayIndex ps < 4096) && captureOk e
     else if replayOp ps = 1 then ps.length == 40 && decide (replayIndex ps < 16) && requestOk e
     else ps.length == 16 && replayOp ps == 2 && replayIndex ps == 0 && decide (e < 2 ^ 21))

/-- A capture ring lies within an OPEN CAPTURE drawer (13_cabinet R331). -/
def State.ringFits (s : State) (e : Nat) : Bool :=
  let w := s.drawer (fld e 1 6)
  w.st == .opened && w.typ == 2 && decide ((fld e 32 32 + 2 ^ fld e 11 5) * slotBytes e ≤ w.size)

/-- An entry of REPLAY_CONFIG written, master and working copy (13_cabinet R331; 08_tables R220); the quota is requester 64's
(11_pool Table 11.1). -/
def State.setReplay (s : State) (op idx e : Nat) : State :=
  let s := (s.setMaster (capCode + op) 0 idx e).setWork (capCode + op) idx e
  if op = 2 then s.modReq 64 fun r => { r with quota := e } else s

/-- REPLAY_CONFIG (13_cabinet R331; 08_tables R220, R221). -/
def doReplayConfig : Handler := fun _ p ps s =>
  let e := le (ps.drop 8)
  if !s.d0Writable then busy s
  else if replayOp ps = 0 ∧ !s.ringFits e then noResource s
  else if (d0Units p 1).1 = 0 then d0Busy s 0
  else ok (s.setReplay (replayOp ps) (replayIndex ps) e)

/-- REPLAY_CONFIG with the op of its row. -/
def State.replayConfig (s : State) (op : Nat) (p : Pkt) : State :=
  s.runCommand 0x0404 (forceOp p 0 8 op) wfReplayConfig doReplayConfig
/-- `REPLAY_CONFIG_CAPTURE`. -/
def execReplayConfigCapture (p : Pkt) (s : State) : Ans := .next (s.replayConfig 0 p)
/-- `REPLAY_CONFIG_REQUEST`. -/
def execReplayConfigRequest (p : Pkt) (s : State) : Ans := .next (s.replayConfig 1 p)
/-- `REPLAY_CONFIG_QUOTA`. -/
def execReplayConfigQuota (p : Pkt) (s : State) : Ans := .next (s.replayConfig 2 p)

/-! ### CABINET_PAUSE and RESUME (14_dram R358, R359) -/

/-- The format of CABINET_PAUSE (14_dram R358). -/
def wfCabinetPause (ps : List Byte) (_ : State) : Bool := ps.length == 8 && onlyBits ps (bits 0 1)

/-- A SELFTEST of the channels runs (14_dram R360). -/
def State.channelTest (s : State) : Bool := match s.selftest with | some r => r.op == 2 || r.op == 3 | none => false

/-- PAUSE and RESUME (14_dram R345, R358, R359; log entry 23). -/
def doCabinetPause : Handler := fun w _ ps s =>
  if fld (img ps) 0 8 = 0 then
    if s.cab.paused || s.cab.pauseWait.isSome then busy s
    else
      let s := s.sealAll 5
      pendingReply { s with cab := { s.cab with paused := true, pauseWait := some (w, false) } }
  else if !s.cab.paused || s.cab.initialising || s.cab.pauseWait.isSome || s.channelTest then busy s
  else pendingReply { s with cab := { s.cab with pauseWait := some (w, true) } }

/-- CABINET_PAUSE with the op of its row. -/
def State.cabinetPause (s : State) (op : Nat) (p : Pkt) : State := s.runCommand 0x0405 (forceOp p 0 8 op) wfCabinetPause doCabinetPause
/-- `CABINET_PAUSE`. -/
def execCabinetPause (p : Pkt) (s : State) : Ans := .next (s.cabinetPause 0 p)
/-- `CABINET_RESUME`. -/
def execCabinetResume (p : Pkt) (s : State) : Ans := .next (s.cabinetPause 1 p)

/-- A pause is complete: every accepted request completed, every DIMM in self-refresh, OK (14_dram R359). -/
def State.pauseDone (s : State) : State :=
  match s.cab.pauseWait with
  | some (w, false) =>
    (({ s with cab := { s.cab with pauseWait := none } } : State).completeRequests.selfRefresh true).complete w 0 0 []
  | _ => s
/-- `CABINET_PAUSE_DONE`. -/
def execCabinetPauseDone (s : State) : Ans := .next s.pauseDone

/-- A channel that a RESUME returns to service (14_dram R357). -/
def Chan.admitted (c : Chan) : Bool :=
  c.st == .outOfService && c.resweepOk && (c.cause == 3 || c.cause == 4 || c.cause == 5)

/-- A RESUME is complete (14_dram R357, R359): every DIMM out of self-refresh and calibrated, re-swept channels back in service, staging
drained again, OK; the closes that waited are carried out. `drifts` gives what the strobe oscillators show per channel and lane. -/
def State.resumeDone (s : State) (drifts : List (Fin 16 × List Int)) : State :=
  match s.cab.pauseWait with
  | some (w, true) =>
    let s := ({ s with cab := { s.cab with pauseWait := none, paused := false } } : State).selfRefresh false
    let s := (List.range 16).foldl (fun (s : State) k =>
      if (s.chan k).admitted then
        s.modChan k fun c =>
          { c with st := .inService, cause := 0, errTimes := [], resweepOk := false, down := false, selfRefresh := false }
      else s) s
    ((s.calibrateRanks drifts).complete w 0 0 []).settleCloses
  | _ => s
/-- `CABINET_RESUME_DONE`. -/
def execCabinetResumeDone (drifts : List (Fin 16 × List Int)) (s : State) : Ans := .next (s.resumeDone drifts)

end Sys2Proof.Machine
end

