-- ==== Sys2Proof/Machine/Dram.lean ====
section
/-!
DEFINITION. The DRAM channels: training and its sweeps, initialisation, refresh with its calibrations, uncorrectable reads and
the patrol scrub (14_dram R338 to R357).
-/

namespace Sys2Proof.Machine

/-! ### Training (14_dram R342 to R344) -/

/-- A channel completes or fails training at cold start (14_dram R342; 22_board R524 phase 6). -/
def State.trainingDone (s : State) (k : Nat) (t : Training) : State :=
  if s.boot.phase < 4 ∨ (s.chan k).st ≠ .training then s
  else
    let s := { s with boot := { s.boot with dramDone := s.boot.dramDone ||| (1 <<< k) } }
    let s := s.modChan k fun c => c.settle t
    if trainingPasses (s.chan k).laneCount t then
      let s := { s with boot := { s.boot with dramTrained := s.boot.dramTrained ||| (1 <<< k) } }
      s.modChan k fun c => { c with st := .initialising }
    else s.chanFail k 3
/-- `DRAM_TRAINING_DONE`. -/
def execDramTrainingDone (ch : Fin 16) (result : Training) (s : State) : Ans := .next (s.trainingDone ch.val result)

/-- Every channel has zeroed its DIMM (14_dram R345; 22_board R524 phase 9, R527): the channels are in service and the
start-up pause ends. -/
def State.cabinetInitialised (s : State) : State :=
  if !s.cab.initialising || (List.range 16).any (fun k => (s.chan k).st == .training) then s
  else
    let s := { s with cab := { s.cab with mem := s.cab.mem.filter fun c => s.chanOut (chanOf c.1), bad := [] } }
    let s := (List.range 16).foldl (fun (s : State) k =>
      if (s.chan k).st = .initialising then s.modChan k fun c => { c with st := .inService } else s) s
    { s with
      cab := { s.cab with initialising := false, paused := false }
      boot := { s.boot with cabinetReady := true, phase := if s.boot.done then 10 else 9 } }
/-- `CABINET_INITIALISED`. -/
def execCabinetInitialised (s : State) : Ans := .next s.cabinetInitialised

/-! ### In service -/

/-- Intervals of the calibrations of 14_dram R348, in ps. -/
def zqPs : Nat := 128 * 10 ^ 9
/-- See `zqPs`. -/
def trackPs : Nat := 16 * 10 ^ 9

/-- A channel issues a refresh; ZQ calibration and read-strobe tracking run within it when they are due (14_dram R347,
R348). -/
def State.dramRefresh (s : State) (k : Nat) (drift : List Int) : State :=
  let c := s.chan k
  if (c.st ≠ .inService ∧ c.st ≠ .initialising) ∨ c.selfRefresh then s
  else
    let s := s.modChan k fun c => { c with refreshes := c.refreshes + 1 }
    let s := if c.zqAt + zqPs ≤ s.nowPs then s.modChan k fun c => { c with zqAt := s.nowPs } else s
    if c.trackAt + trackPs ≤ s.nowPs then s.modChan k fun c => c.track s.nowPs drift else s
/-- `DRAM_REFRESH`. -/
def execDramRefresh (ch : Fin 16) (drift : List Int) (s : State) : Ans := .next (s.dramRefresh ch.val drift)

/-- ps in a second. -/
def secPs : Nat := 10 ^ 12

/-- An uncorrectable read of the unit at a Cabinet byte address (14_dram R353, R354): counted, recorded, its event raised, and
the channel out of service after 16 within one second. The unit stays as it is until a write replaces it. -/
def State.uncorrectable (s : State) (a : Nat) : State :=
  let k := chanOf a
  let s := (s.modChan k fun c =>
    { c with
      uncorr := c.uncorr + 1, lastAddr := BitVec.ofNat 42 (a / 64 * 64), lastValid := true
      errTimes := s.nowPs :: (c.errTimes.filter fun t => decide (s.nowPs < t + secPs)) }).raise 1284
  let s := { s with cab := { s.cab with bad := mark s.cab.bad (a / 64) } }
  if 16 ≤ (s.chan k).errTimes.length then s.chanFail k 4 else s

/-- What a read finds when some DRAM devices of its burst are in error (14_dram R352): the code corrects what one device holds and detects
what two hold; what it makes of more is open (log entry 124). -/
def State.readFinding (s : State) (devices : Nat) : ScrubFinding :=
  if devices = 0 then .clean else if devices = 1 then .corrected else if devices = 2 then .uncorrectable
  else if Config.choice s.freeCtr % 3 = 0 then .clean else if Config.choice s.freeCtr % 3 = 1 then .corrected else .uncorrectable

/-- A read of a unit as the controller's code finds it (14_dram R352, R353): a corrected read is counted and written back. -/
def State.eccRead (s : State) (a devices : Nat) : State :=
  let f := s.readFinding devices
  let s := if devices < 3 then s else { s with freeCtr := s.freeCtr + 1 }
  match f with
  | .clean => s
  | .corrected => s.modChan (chanOf a) fun c => { c with corr := c.corr + 1 }
  | .uncorrectable => s.uncorrectable a

/-- A read finds errors in a unit (14_dram R353); on a channel out of service the unit is void (R356), and a channel in
self-refresh is not read. -/
def State.dramRead (s : State) (a devices : Nat) : State :=
  let c := s.chan (chanOf a)
  if c.selfRefresh ∨ c.st = .training then s
  else if s.chanOut (chanOf a) then s.tick 0x91
  else s.eccRead a devices
/-- `DRAM_UNCORRECTABLE`. -/
def execDramUncorrectable (unit : BitVec 36) (devices : Nat) (s : State) : Ans := .next (s.dramRead (unit.toNat * 64) devices)

/-- The Cabinet byte address of a channel's unit (14_dram R340). -/
def unitAddr (k u : Nat) : Nat := (u / 4 * 16 + k) * 256 + u % 4 * 64

/-- The patrol scrub reads its next unit of a channel (14_dram R353, R355). -/
def State.patrolScrub (s : State) (k devices : Nat) : State :=
  let c := s.chan k
  if c.st ≠ .inService ∨ c.selfRefresh then s
  else
    let units := max 1 (s.installed / 1024)
    (s.modChan k fun c => { c with patrol := (c.patrol + 1) % units }).eccRead (unitAddr k c.patrol) devices
/-- `PATROL_SCRUB`. -/
def execPatrolScrub (ch : Fin 16) (devices : Nat) (s : State) : Ans := .next (s.patrolScrub ch.val devices)

end Sys2Proof.Machine
end

