-- ==== Sys2Proof/Machine/HostOps.lean ====
section
/-!
DEFINITION. What the host endpoint's commands share (17_host R412 to R442; 18_instances R448 to R455): reads of the Cabinet,
tags, read requests and their timeouts, the halt, the reset and the freeze of rings, port resets of CP0, and the in-flight
count of an instance.
-/

namespace Sys2Proof.Machine

/-! ### Cabinet units as readers find them (14_dram R353, R356; 17_host Table 17.7) -/

/-- A unit reads as zeros, poisoned: void, or uncorrectable. -/
def State.unitBad (s : State) (a : Nat) : Bool := s.voidUnit a || s.cab.bad.contains (a / 64)

/-- A byte of the Cabinet as stored: the upper half of D0 holds the second copies (14_dram R341); the layout of the masters in D0 is
open (log entry 1). -/
def State.cabByte (s : State) (a : Nat) : Byte :=
  if a < 2 ^ 29 then Config.d0Byte s.tables.master a
  else if a < 2 ^ 30 then Config.d0Byte s.tables.master (d0Second a)
  else memRead s.cab.mem a

/-- `n` bytes of the Cabinet, zeros from bad units, and whether any unit was bad. -/
def State.cabRead (s : State) (a n : Nat) : List Byte × Bool :=
  ((List.range n).map fun i => if s.unitBad (a + i) then 0 else s.cabByte (a + i),
   (List.range ((a + n + 63) / 64 - a / 64)).any fun i => decide (0 < n) && s.unitBad ((a / 64 + i) * 64))

/-- The requests and the accounts of such a read by a source: a void unit in cab_void_access, an uncorrectable one by R353 (14_dram R349,
R353, R356). -/
def State.cabTouch (s : State) (src a n : Nat) : State :=
  if n = 0 then s
  else (List.range ((a + n + 63) / 64 - a / 64)).foldl (fun (s : State) i =>
    let u := (a / 64 + i) * 64
    let s := s.request src u
    if s.voidUnit u then s.tick 0x91 else if s.cab.bad.contains (u / 64) then s.uncorrectable u else s) s

/-- A unit of D0 content read (14_dram R341): the first copy, and the second when the first is uncorrectable or void; the answer says
whether one of them could be read. -/
def State.d0Read (s : State) (a : Nat) : State × Bool :=
  let again := s.unitBad a
  let s := s.cabTouch 4 a 64
  if !again then (s, true)
  else
    let lost := s.unitBad (d0Second a)
    (s.cabTouch 4 (d0Second a) 64, !lost)

/-- A master block found uncorrectable (08_tables R228): marked, counted and its event raised, once. -/
def State.markDamaged (s : State) (block : Nat) : State :=
  if s.tables.damaged.any fun d => d.1 == block then s
  else (({ s with tables := { s.tables with damaged := s.tables.damaged ++ [(block, [])] } } : State).tick 0x98).occur 34 0

/-- The master of an entry read in D0 (08_tables R228; 14_dram R341): none in a damaged block, and a unit that neither copy yields
damages its block. -/
def State.readMaster (s : State) (code gen idx : Nat) : State × Option Image :=
  if s.tables.damaged.any fun d => d.1 == tkey code gen (idx / 64) then (s, none)
  else
    let x := s.d0Read (d0Unit (tkey code gen idx))
    if x.2 then (x.1, some (s.master code gen idx)) else (x.1.markDamaged (tkey code gen (idx / 64)), none)

/-- The drawer whose extent holds an address, EMPTY drawers having none. -/
def State.drawerAt (s : State) (a : Nat) : Option Nat :=
  (List.range 64).find? fun d =>
    let w := s.drawer d
    w.st != .empty && decide (w.base ≤ a) && decide (a < w.base + w.size)

/-- An address whose writes from the host are discarded with an event: D0, and EVIDENCE or CAPTURE drawers (17_host Table
17.7; 13_cabinet R318). -/
def State.hostLocked (s : State) (a : Nat) : Bool :=
  decide (a < 2 ^ 30) || (match s.drawerAt a with | some d => (s.drawer d).typ == 1 || (s.drawer d).typ == 2 | none => false)

/-- A range of an instance other than 0 lies within drawers of its drawer_mask that are not EMPTY (18_instances R453). -/
def State.inDrawers (s : State) (n a len : Nat) : Bool :=
  n == 0 || (List.range ((a + len + 63) / 64 - a / 64)).all fun i =>
    match s.drawerAt ((a / 64 + i) * 64) with
    | some d => bitAt (s.inst n).drawerMask.toNat d
    | none => false

/-! ### Read requests, tags and timeouts (17_host R411, R412, R437 to R439) -/

/-- T_ct in ps (17_host Table 17.2). -/
def State.tct (s : State) : Nat :=
  let v := s.host.ctVal.toNat
  if v = 1 then 10 ^ 8 else if v = 2 then 10 ^ 10 else if v = 5 then 55 * 10 ^ 9 else if v = 6 then 210 * 10 ^ 9
  else if v = 9 then 900 * 10 ^ 9 else if v = 10 then 3500 * 10 ^ 9 else 50 * 10 ^ 9

/-- Tags in use: 14 bits in FLIT mode, 10 otherwise (17_host Table 17.1). -/
def State.tagCount (s : State) : Nat := if s.host.flit then 16384 else 1024

/-- A tag is outstanding or in quarantine. -/
def State.tagTaken (s : State) (t : Nat) : Bool :=
  s.host.reads.any (fun r => r.tag.toNat == t) || s.host.quarantine.any fun q => q.1.toNat == t

/-- The limits on read requests leave room for one more of a function (17_host R439). -/
def State.mayRead (s : State) (fn : Nat) : Bool :=
  decide (s.host.reads.length + s.host.quarantine.length < 4096) &&
    decide (s.host.reads.length + s.host.quarantine.length < s.tagCount) &&
    (s.host.flit || decide ((s.host.reads.filter fun r => r.fn == fn).length + (s.host.quarantine.filter fun q => q.2.2 == fn).length < 768))

/-- The requests that the device issues upstream, as Table 17.8 of 17_host tells them apart. -/
inductive HostRequest where
  | dataRead (ring : Nat) | dataWrite (ring : Nat) | descriptorRead | statusWrite | reportOrReply | barrierRead | msixWrite
deriving DecidableEq, Repr

/-- A request of a function carries Relaxed Ordering (17_host R418, Table 17.8): data of a ring whose relaxed_data is set, while Enable Relaxed
Ordering is set in the function. -/
def State.relaxes (s : State) (fn : Nat) (q : HostRequest) : Bool :=
  (s.fn fn).relaxed &&
    match q with
    | .dataRead r => (s.dma r).relaxed
    | .dataWrite r => (s.dma r).relaxed
    | _ => false

/-- What a read request is for, in the terms of Table 17.8: an INJECT or COPY ring reads data; a DELIVER or LEASE ring, a command ring and a log
read nothing that may be relaxed. -/
def State.readRequest (s : State) (why : ReadFor) : HostRequest :=
  match why with
  | .ring r => if (s.dma r).typ = 1 ∨ (s.dma r).typ = 4 then .dataRead r else .descriptorRead
  | .barrier _ => .barrierRead
  | .command _ => .descriptorRead
  | .dirtyLog _ => .barrierRead

/-- A read request issued under a free tag, which of them is open (log entry 1). -/
def State.issueRead (s : State) (fn : Nat) (why : ReadFor) : State :=
  let start := Config.choice s.freeCtr % s.tagCount
  let tag := ((List.range s.tagCount).map fun i => (start + i) % s.tagCount).find? fun t => !s.tagTaken t
  match tag with
  | none => s
  | some t =>
    let r : ReadReq :=
      { tag := BitVec.ofNat 14 t, purpose := why, fn := fn, issued := s.nowPs, tct := s.tct, fenced := false
        relaxed := s.relaxes fn (s.readRequest why) }
    { s with freeCtr := s.freeCtr + 1, host := { s.host with reads := s.host.reads ++ [r] } }

/-- A read request ends and its tag is free. -/
def State.endRead (s : State) (t : BitVec 14) : State :=
  { s with host := { s.host with reads := s.host.reads.filter fun r => r.tag != t } }

/-- A read serves a ring, with its data, its descriptors or its barrier. -/
def ReadFor.ofRing (w : ReadFor) (r : Nat) : Bool := match w with | .ring k => k == r | .barrier k => k == r | _ => false

/-! ### Rings (17_host R419 to R440) -/

/-- The held cells of a ring's chain in progress are freed and the chain is abandoned (17_host R419, R437, R440; 11_pool
Table 11.2). -/
def State.dropChain (s : State) (r : Nat) : State :=
  let d := s.dma r
  let s := match d.chain with
    | some c =>
      let s := match c.hold with | some first => s.decrement first d.owner.val 1 | none => s
      if c.report then s.modDma r fun d => { d with reserved := d.reserved - 1 } else s
    | none => s
  s.modDma r fun d => { d with chain := none, barrierWait := [] }

/-- A ring halts with a code: its chain in progress is abandoned and its event raised (17_host R423, R437). -/
def State.haltRing (s : State) (r code : Nat) : State :=
  let i := match (s.dma r).chain with | some c => c.first | none => (s.dma r).head
  ((s.dropChain r).modDma r fun d =>
    { d with halted := true, haltCode := BitVec.ofNat 8 code, haltIndex := BitVec.ofNat 16 i.toNat }).raise r

/-- The cells of a frame in flight freed: counts of zero let its first cell stand for none; a body cell of the arrival reserve
is credited there (10_buffer R251; 11_pool R287). -/
def State.freeFrameCells (s : State) (f : Frame) : State :=
  if f.source = .port then
    let s := s.outOfReserve f.cells
    match f.cells with
    | [] => s
    | c :: _ => s.walkChain c f.cells.length
  else
    match f.cells with
    | [] => s
    | c :: _ =>
      let req := match f.inj with | some j => j.requester | none => 0
      s.decrement c req 1

/-- The frames of a ring's delivery backlog dropped. -/
def State.dropBacklog (s : State) (r : Nat) : State :=
  let fs := (s.dma r).backlog
  let s := s.modDma r fun d => { d with backlog := [] }
  fs.foldl (fun (s : State) f => s.freeFrameCells f) s

/-- A ring's registers after its reset (17_host R440): DMA_HEAD, DMA_TAIL and the circular positions zero, enable, halted,
halt_code and frozen clear. The reports of its frames in flight stay promised (05_time R148; log entry 125). -/
def DmaRing.afterReset (d : DmaRing) : DmaRing :=
  { d with
    head := 0, tail := 0, wpos := 0, rpos := 0, enable := false, halted := false, haltCode := 0, frozen := false,
    resetBusy := false, waitQuota := false, waitCab := false, waitReport := false, chain := none, barrierWait := [] }

/-- A ring's reset ends once its requests in flight have completed or timed out (17_host R440). -/
def State.settleRing (s : State) (r : Nat) : State :=
  if (s.dma r).resetBusy && !(s.host.reads.any fun q => q.purpose.ofRing r) then s.modDma r DmaRing.afterReset else s

/-- A ring's reset begins (17_host R440). -/
def State.resetRing (s : State) (r : Nat) : State :=
  (((s.dropChain r).dropBacklog r).modDma r fun d => { d with resetBusy := true }).settleRing r

/-- The rings that an instance owns and that have left their reset values. -/
def State.ringsOf (s : State) (n : Nat) : List Nat := (s.host.rings.filter fun x => x.2.owner.val == n).map (·.1)

/-- A ring can be served: enabled, not halted, frozen, waiting or in reset, with no barrier outstanding (17_host R421 to R424, R427 to
R433). -/
def DmaRing.live (d : DmaRing) : Bool :=
  d.enable && !d.halted && !d.frozen && !d.resetBusy && !d.waitQuota && !d.waitCab && !d.waitReport && d.barrierWait.isEmpty

/-- A ring may start work: live, no chain in progress, its owner ACTIVE (17_host R422; 18_instances R450, R454). -/
def State.ringReady (s : State) (r : Nat) : Bool :=
  (s.dma r).live && (s.dma r).chain.isNone && !s.host.frozen && (s.inst (s.dma r).owner.val).st == .active

/-- A frame that an INJECT ring passed on while no image was active waits for its slot: the ring starts no other (02_timetable R46). -/
def State.frameWaits (s : State) (r : Nat) : Bool :=
  s.flow.inject.any fun x => x.2.held && (match x.2.inj with | some j => j.ring == r | none => false)

/-- A ring has work for the engine (17_host R425 to R435): a chain in progress with no read outstanding, whose owner is not in a fence, or
descriptors posted that it may start on. -/
def State.hasWork (s : State) (r : Nat) : Bool :=
  let d := s.dma r
  s.mayRead d.owner.val &&
    (if d.chain.isSome then
      d.live && !s.host.frozen && !(s.host.reads.any fun q => q.purpose.ofRing r) && (s.inst d.owner.val).st != .fencing
    else
      s.ringReady r && d.head != d.tail &&
        (if d.typ = 1 then !s.frameWaits r else if d.typ = 2 ∨ d.typ = 3 then !d.backlog.isEmpty else d.typ == 4))

/-! ### CP0 rings (15_commands R381; 18_instances R448) -/

/-- The command in the CP0 context belongs to an instance. -/
def State.cp0Runs (s : State) (n : Nat) : Bool :=
  (s.ctx .cp0).st != .idle && (match (s.ctx .cp0).cmd with | some w => w.inst.val == n | none => false)

/-- A port reset ends on a ring: posted packets are discarded and reset_busy clears (15_commands R381). -/
def State.flushCmdRing (s : State) (n : Nat) : State :=
  s.modCmdRing n fun g => { g with cmdHead := g.cmdTail, resetBusy := false }

/-- The port resets that waited for the command of the CP0 context are completed once it is idle (15_commands R381). -/
def State.settlePortReset (s : State) : State :=
  if (s.ctx .cp0).st = .idle then
    (List.range 64).foldl (fun (s : State) n => if (s.cmdRing n).resetBusy then s.flushCmdRing n else s) s
  else s

/-- A port reset of one ring: its command is cancelled at the next commit point, and a read of its slot is orphaned
(15_commands R381; 18_instances R448). -/
def State.portResetRing (s : State) (n : Nat) : State :=
  let s := { s with host := { s.host with reads := s.host.reads.map fun (q : ReadReq) => if q.purpose = ReadFor.command n then { q with fenced := true } else q } }
  let s := if s.cp0Runs n then s.modCtx .cp0 fun c => { c with cancel := true } else s
  (s.modCmdRing n fun g => { g with resetBusy := true })

/-- A port reset of CP0: the command of the context is cancelled at its next commit point, and every ring's packets are
discarded (15_commands R381); it lifts the port's fence (20_faults, after Table 20.1; log entry 134). -/
def State.portResetCp0 (s : State) : State :=
  ((List.range 64).foldl (fun (s : State) n => s.portResetRing n) (s.unfence 0)).settlePortReset

/-! ### Host freeze (17_host R419) -/

/-- Entry to host freeze (17_host R419, R420): requests in flight are abandoned with their tags, rings stop with frozen set and
their chains are freed, slow-path frames are counted in HOST_SP_DROP, notices discarded, CP0 reset, configuration space reset.
VF Enable is cleared with the configuration space without a fence, since the rings keep DMA_HEAD (log entry 25). -/
def State.hostFreeze (s : State) : State :=
  let rs := s.host.rings.map (·.1)
  let spd := (s.host.rings.map fun x => x.2.backlog.length).sum
  let s := rs.foldl (fun (s : State) r => ((s.dropChain r).dropBacklog r).modDma r fun d => { d with frozen := true }) s
  let s := { s with host := { s.host with
    frozen := true, freezes := s.host.freezes + 1, reads := [], notices := [], spDrop := s.host.spDrop + BitVec.ofNat 64 spd
    fns := [], ctVal := 0, barLog2 := 30, vfEnable := false } }
  let s := rs.foldl (fun (s : State) r => s.settleRing r) s.portResetCp0
  s.occur 38 0

/-! ### Instances: in-flight count, recount (18_instances R449; 11_pool R292) -/

/-- An instance's in-flight count (18_instances R449). -/
def State.inFlight (s : State) (n : Nat) : Nat :=
  ((s.ringsOf n).filter fun r => (s.dma r).chain.isSome).length +
    (s.host.reads.filter fun q => q.fn == n).length + b1 (s.cp0Runs n)

/-- The charges that queue entries and holds record for a requester (11_pool R292). -/
def State.recordedCharge (s : State) (n : Nat) : Nat :=
  ((s.buf.stored.filter fun f => f.charges.requester == n).map (·.cells)).sum +
    ((s.pool.holds.filter fun h => h.requester == n).map (·.cells)).sum

/-- A recount's shadow replaces the live counter, and quota_underflow clears (11_pool R292). -/
def State.recountReq (s : State) (n : Nat) : State :=
  let skew := match s.pool.recount with | some r => tget 0 r.shadow n | none => 0
  let c := ((s.recordedCharge n : Int) + skew).toNat % 2 ^ 21
  s.modReq n fun r => { r with charge := c, underflow := false }

/-- A recount starts for requesters, with the commands that it answers (11_pool R292). While one runs a further one waits for its end: an
INST_RESET's, by its resetWait. -/
def State.startRecount (s : State) (ns : List Nat) (ws : List Waiter) : State :=
  if s.pool.recount.isSome then s
  else { s with pool := { s.pool with recount := some { reqs := ns, waiters := ws, start := s.nowBuffer, shadow := [] } } }

/-- Every hold of a requester freed (18_instances R451, R454). -/
def State.freeHolds (s : State) (n : Nat) : State :=
  (s.pool.holds.filter fun h => h.requester == n).foldl (fun (s : State) h => s.decrement h.first n 1) s

/-- Instances that quiesce with nothing left in flight are QUIESCED, and their command replies OK (18_instances R450). -/
def State.settleInst (s : State) : State :=
  (List.range 64).foldl (fun (s : State) n =>
    if (s.inst n).st = .quiescing ∧ s.inFlight n = 0 then
      let w := (s.inst n).quiesceWait
      let s := s.modInst n fun i => { i with st := .quiesced, quiesceWait := none }
      match w with
      | some w => s.complete w 0 0 []
      | none => s
    else s) s

end Sys2Proof.Machine
end

