-- ==== Sys2Proof/Machine/Dma.lean ====
section
/-!
DEFINITION. The DMA rings: their registers (17_host R420, R421, R440), chains and descriptors (R422 to R436), the five ring
types, and the ends of their read requests (R437 to R439).
-/

namespace Sys2Proof.Machine

/-! ### Ring registers -/

/-- Instance `n` may write a ring's registers: the owner through its page, the manager through any page; not while the host is
frozen, nor while the owner is FENCING (17_host R420; 18_instances R448, R454). -/
def State.ringWritable (s : State) (r n : Nat) : Bool :=
  let o := (s.dma r).owner.val
  !s.host.frozen && (n == 0 || n == o) && (s.inst o).st != .fencing

/-- A write of DMA_CTRL that sets enable leaves it clear (17_host R421). -/
def State.enableRefused (s : State) (r : Nat) (d : DmaRing) : Bool :=
  let k := d.log2.toNat
  let c := d.circLog2.toNat
  let t := d.typ.toNat
  let others (p : DmaRing → Bool) : Bool := s.host.rings.any fun x => x.1 != r && x.2.enable && p x.2
  !(decide (6 ≤ k) && decide (k ≤ 16)) || !(c == 0 || (decide (12 ≤ c) && decide (c ≤ 40))) ||
    (t == 5 && (c == 0 || d.owner.val != 0 || others fun x => x.typ == 5)) ||
    ((t == 2 || t == 3) && others fun x => (x.typ == 2 || x.typ == 3) && x.owner == d.owner && x.pipe == d.pipe)

/-- The fields of DMA_CTRL after a write of its low or whole value (17_host Table 17.9, R421). -/
def State.ctrlWritten (s : State) (r v : Nat) (d : DmaRing) : DmaRing :=
  let d := { d with tailRejected := d.tailRejected && !bitAt v 3, relaxed := bitAt v 16 }
  if d.enable then { d with enable := bitAt v 0 }
  else
    let d := { d with typ := BitVec.ofNat 3 (fld v 4 3), log2 := BitVec.ofNat 5 (fld v 7 5), pipe := BitVec.ofNat 4 (fld v 12 4),
                      circLog2 := BitVec.ofNat 6 (fld v 24 6) }
    if bitAt v 0 && !s.enableRefused r d then { d with enable := true, wpos := 0, reportSeq := 0 } else d

/-- A write of DMA_CTRL (17_host Table 17.9, R421, R440). -/
def State.dmaCtrl (s : State) (r n v : Nat) : State :=
  if s.ringWritable r n then
    let s := s.modDma r (s.ctrlWritten r v)
    if bitAt v 1 then s.resetRing r else s
  else s
/-- `DMA_CTRL_ENABLE`. -/
def execDmaCtrlEnable (ring : Fin 1024) (by_ : Fin 64) (v : BitVec 64) (s : State) : Ans :=
  .next (s.dmaCtrl ring.val by_.val (setFld v.toNat 0 2 1))
/-- `DMA_CTRL_RESET`. -/
def execDmaCtrlReset (ring : Fin 1024) (by_ : Fin 64) (s : State) : Ans :=
  .next (if s.ringWritable ring.val by_.val then s.resetRing ring.val else s)

/-- What software has stored in host memory before it posts: its own writes, not the device's. -/
def State.softStore (s : State) (mem : List (BitVec 64 × List Byte)) : State :=
  { s with host := { s.host with mem := mem.foldl (fun m x => memWrite m x.1.toNat x.2) s.host.mem } }

/-- A write of DMA_TAIL (17_host R421). -/
def State.dmaTail (s : State) (r n : Nat) (v : BitVec 32) : State :=
  let d := s.dma r
  if !s.ringWritable r n then s
  else if 2 ^ d.log2.toNat < (v - d.head).toNat then s.modDma r fun d => { d with tailRejected := true }
  else s.modDma r fun d => { d with tail := v }
/-- `DMA_TAIL_WRITE`. -/
def execDmaTailWrite (ring : Fin 1024) (by_ : Fin 64) (v : BitVec 32) (mem : List (BitVec 64 × List Byte)) (s : State) : Ans :=
  .next ((s.softStore mem).dmaTail ring.val by_.val v)

/-- A write of DMA_CIRC_RPOS (17_host R421). -/
def State.circRpos (s : State) (r n : Nat) (v : BitVec 64) : State :=
  let d := s.dma r
  if !s.ringWritable r n then s
  else if v < d.rpos ∨ d.wpos < v then s.modDma r fun d => { d with tailRejected := true }
  else s.modDma r fun d => { d with rpos := v }
/-- `DMA_CIRC_RPOS_WRITE`. -/
def execDmaCircRposWrite (ring : Fin 1024) (by_ : Fin 64) (v : BitVec 64) (s : State) : Ans :=
  .next (s.circRpos ring.val by_.val v)

/-! ### Descriptors and chains (17_host R422, R423, R436) -/

/-- The host address of a descriptor. -/
def DmaRing.descAddr (d : DmaRing) (i : BitVec 32) : Nat :=
  d.base.toNat / 32 * 32 + i.toNat % 2 ^ d.log2.toNat * 32

/-- A descriptor as it stands in host memory. -/
def State.desc (s : State) (r : Nat) (i : BitVec 32) : List Byte := s.hostRead ((s.dma r).descAddr i) 32

/-- The own bit, the link bit, the barrier bit and the irq bit of a descriptor (17_host Table 17.11). -/
def ownBit (d : List Byte) : Bool := bitAt (byteAt d 0x1F) 7
/-- See `ownBit`. -/
def linkBit (d : List Byte) : Bool := bitAt (byteAt d 0x1E) 0
/-- See `ownBit`. -/
def barrierBit (d : List Byte) : Bool := bitAt (byteAt d 0x1E) 1
/-- See `ownBit`. -/
def irqBit (d : List Byte) : Bool := bitAt (byteAt d 0x1E) 2
/-- The trailer's reserved bits are zero. -/
def trailerOk (d : List Byte) : Bool := decide (byteAt d 0x1E < 8) && byteAt d 0x1F % 128 == 0

/-- What the gathering of descriptors finds. -/
inductive Gathered where
  | incomplete | notOwned | tooLong
  | bad (ds : List (List Byte))
  | chain (ds : List (List Byte))

/-- The chain from a descriptor on, with `n` links at most (17_host R422, R436). -/
def State.gather (s : State) (r : Nat) (i : BitVec 32) (acc : List (List Byte)) : Nat → Gathered
  | 0 => if i = (s.dma r).tail then .incomplete else .tooLong
  | n + 1 =>
    if i = (s.dma r).tail then .incomplete
    else
      let d := s.desc r i
      if !ownBit d then .notOwned
      else if linkBit d then s.gather r (i + 1) (acc ++ [d]) n
      else .chain (acc ++ [d])

/-- One descriptor completed: its result, status and detail, then own clear; DMA_HEAD past it; its event (17_host R423). -/
def State.completeDesc (s : State) (r : Nat) (i : BitVec 32) (d : List Byte) : State :=
  let a := (s.dma r).descAddr i
  let own := (s.dma r).owner.val
  let s := (s.hostWrite own a d).hostWrite own (a + 0x1F) [BitVec.ofNat 8 (byteAt d 0x1F % 128)]
  let s := s.modDma r fun x => { x with head := i + 1 }
  if irqBit d then s.raise r else s

/-- A descriptor's 32 bytes with a status and a detail. -/
def withStatus (d : List Byte) (status detail : Nat) : List Byte :=
  patch d 0x1C [BitVec.ofNat 8 status, BitVec.ofNat 8 detail]

/-- Numbered descriptors from an index on. -/
def descRun (i : BitVec 32) : List (List Byte) → List (BitVec 32 × List Byte)
  | [] => []
  | d :: r => (i, d) :: descRun (i + 1) r

/-- Descriptors completed in order. -/
def State.completeRun (s : State) (r : Nat) (xs : List (BitVec 32 × List Byte)) : State :=
  xs.foldl (fun (s : State) x => s.completeDesc r x.1 x.2) s

/-- A chain completed with one status and detail. -/
def State.completeChain (s : State) (r : Nat) (ds : List (List Byte)) (status detail : Nat) : State :=
  (s.completeRun r (descRun (s.dma r).head (ds.map fun d => withStatus d status detail))).modDma r fun d => { d with chain := none }

/-- Descriptors whose data writes went to host or peer memory completed: from the first that has barrier set they wait for the
zero-length read of the last address written (17_host R424). -/
def State.completeWrites (s : State) (r : Nat) (xs : List (BitVec 32 × List Byte)) (wrote : Bool) : State :=
  let now := if wrote then xs.takeWhile fun x => !barrierBit x.2 else xs
  let rest := xs.drop now.length
  let s := (s.completeRun r now).modDma r fun d => { d with chain := none, barrierWait := rest }
  if rest.isEmpty then s else s.issueRead (s.dma r).owner.val (.barrier r)

/-- The descriptors that wait for a barrier complete (17_host R424). -/
def State.finishBarrier (s : State) (r : Nat) : State :=
  let xs := (s.dma r).barrierWait
  (s.modDma r fun d => { d with barrierWait := [] }).completeRun r xs

/-! ### INJECT (17_host R425 to R428, R433) -/

/-- The space that a link names, and its length. -/
def linkSpace (d : List Byte) : Nat := byteAt d 0x0A % 4
/-- See `linkSpace`. -/
def linkLen (d : List Byte) : Nat := leAt d 8 2

/-- A ring's descriptor asks for a transmit report. -/
def wantsReport (ds : List (List Byte)) : Bool := bitAt (byteAt (ds.headD []) 0x0A) 4

/-- The bytes of an INJECT frame. -/
def chainLen (ds : List (List Byte)) : Nat := (ds.map linkLen).sum

/-- A Cabinet range of an instance's ring lies within its bounds (18_instances R453). -/
def State.cabRangeOk (s : State) (r a n : Nat) : Bool := s.inDrawers (s.dma r).owner.val a n

/-- An INJECT chain breaks a rule of the chapter (17_host R423, R425, R428; 18_instances R453). Fields of the first link
only are not read in later links (log entry 27). -/
def State.injectBad (s : State) (r : Nat) (ds : List (List Byte)) : Bool :=
  (ds.any fun d =>
    !trailerOk d || bitAt (byteAt d 0x0A) 6 || bitAt (byteAt d 0x0A) 7 || leAt d 0x0C 4 != 0 ||
      (if linkSpace d = 3 then linkLen d != 0 || decide (1 < ds.length)
       else bitAt (byteAt d 0x0A) 5 || linkLen d == 0 || decide (10236 < linkLen d)) ||
      (linkSpace d == 2 && !s.cabRangeOk r (leAt d 0 8) (linkLen d))) ||
    (linkSpace (ds.headD []) != 3 && !(decide (14 ≤ chainLen ds) && decide (chainLen ds ≤ 10236))) ||
    (wantsReport ds && !bitAt (byteAt (ds.headD []) 0x0A) 5 && (s.dma r).circLog2 == 0)

/-- 32 bytes are free in a ring's circular buffer beside the reports reserved there (17_host R428). -/
def State.reportRoom (s : State) (r : Nat) : Bool :=
  let d := s.dma r
  decide (d.wpos.toNat + 32 * d.reserved + 32 ≤ d.rpos.toNat + 2 ^ d.circLog2.toNat)

/-- Cells of a frame of `n` bytes before its FCS. -/
def cellsFor (n : Nat) : Nat := ceilDiv (n + 4) 256

/-- Bytes read in a space, and whether any Cabinet unit of them is bad; a Cabinet range beyond the installed Cabinet reads as bad units
(17_host R433; log entry 28). -/
def State.spaceRead (s : State) (space a n : Nat) : List Byte × Bool :=
  if space = 0 then (s.hostRead a n, false)
  else if space = 1 then (memReadN s.host.peer a n, false)
  else
    let x := s.cabRead a n
    (x.1.mapIdx fun i b => if s.installed ≤ a + i then 0 else b, x.2 || decide (s.installed < a + n))

/-- The pieces of a frame's links from byte `o` on, `n` bytes in all: space, address and length of each. -/
def linkPieces : List (List Byte) → Nat → Nat → List (Nat × Nat × Nat)
  | [], _, _ => []
  | d :: r, o, n =>
    if linkLen d ≤ o then linkPieces r (o - linkLen d) n
    else
      let k := min n (linkLen d - o)
      (linkSpace d, leAt d 0 8 + o, k) :: (if k < n then linkPieces r 0 (n - k) else [])

/-- An injected frame with the metadata of its first link (06_templates Table 6.6; 17_host Table 17.12, R425). -/
def State.injectFrame (s : State) (r : Nat) (d : List Byte) (data : List Byte) (cells : List Nat) : Frame :=
  let g := s.dma r
  { id := s.flow.nextId, source := .inject, lp := 0, data := data, len := data.length + 4, fcsOk := true, stomped := false,
    tsIn := 0, resIn := 0, slotWait := 0, gen := none, pass2 := false, parityCause := false, recircTag := 0,
    inj := some
      { ring := r, ptpOp := byteAt d 0x0A / 4 % 4, ptpOffset := byteAt d 0x0B, report := bitAt (byteAt d 0x0A) 4,
        refTime := timeOfImg (leAt d 0x10 12), desc := g.head, requester := g.owner.val },
    cw := {}, cells := cells, lastIn := true, lateFail := false, intakeDrop := false, parityMark := false, oldImage := false,
    owner := g.owner.val, feed := none, refused := false, fcs := crc32 data }

/-- A frame waits for an injection slot of a ring's pipeline (17_host R425). -/
def State.pushInject (s : State) (r : Nat) (f : Frame) : State :=
  { s with flow := { s.flow with
      nextId := s.flow.nextId + 1, inject := s.flow.inject ++ [((s.dma r).pipe.toNat, { f with held := s.tt.active.isNone })] } }

/-- Report space reserved for a frame (17_host R428). -/
def State.reserveReport (s : State) (r : Nat) (on : Bool) : State :=
  if on then s.modDma r fun d => { d with reserved := d.reserved + 1 } else s

/-- A space-3 descriptor (17_host R426): a host pointer free, or the injection of a leased chain as it stands. -/
def State.injectLeased (s : State) (r : Nat) (d : List Byte) : State :=
  let ptr := leAt d 0 8
  let own := (s.dma r).owner.val
  let bad (k : Nat) : State := s.completeChain r [d] 0x11 k
  if bitAt (byteAt d 0x0A) 5 then
    let detail := if 0x10000000 ≤ ptr then 1 else if ptr % 256 ≠ 0 then 2 else if tget 0 s.pool.refs (ptr / 256) = 0 then 3 else 0
    (s.hostFree ptr own).completeChain r [d] (if detail = 0 then 0 else 0x11) detail
  else if 0x10000000 ≤ ptr ∨ ptr % 256 ≠ 0 then bad 4
  else
    match s.pool.holds.find? fun h => h.first == ptr / 256 && h.requester == own with
    | none => bad 4
    | some h =>
      if tget 0 s.pool.refs (ptr / 256) = 0 then bad 4
      else
        if wantsReport [d] && !s.reportRoom r then s.modDma r fun d => { d with waitReport := true }
        else
          let bytes := s.chainData h.first h.cells
          let f := s.injectFrame r d (bytes.take (bytes.length - 4)) (chainCells s.buf.links h.cells h.first)
          ((s.reserveReport r (wantsReport [d])).completeChain r [d] 0 0).pushInject r f

/-- Bytes that the engine moves for a ring in one turn (17_host R435). -/
def burstBytes : Nat := 4096

/-- The last burst of an INJECT frame is in its cells, with the FCS (17_host R425, R427, R433): the chain completes and the frame waits for
its slot; INTERNAL when a Cabinet unit was bad, its cells then freed. A frame whose cells a pointer free returned meanwhile has
unpredictable contents (11_pool R289). -/
def State.injectEnd (s : State) (r : Nat) (c : ChainProg) (cells : List Nat) (data : List Byte) : State :=
  if c.bad then (s.dropChain r).completeChain r c.descs 0x30 0
  else
    let s := s.fillCells (cells.drop (c.moved / 256)) (data.drop c.moved ++ bytesLe 4 (crc32 data).toNat)
    let f := s.injectFrame r (c.descs.headD []) data cells
    let s := if c.loose then { s with pool := { s.pool with stolen := mark s.pool.stolen f.id } } else s
    (s.completeChain r c.descs 0 0).pushInject r f

/-- One burst of an INJECT frame read and written to its cells (17_host R427, R435). -/
def State.injectBurst (s : State) (r : Nat) (c : ChainProg) : State :=
  let ps := linkPieces c.descs c.moved burstBytes
  let xs := ps.map fun p => s.spaceRead p.1 p.2.1 p.2.2
  let s := ps.foldl (fun (s : State) p => if p.1 = 2 then s.cabTouch 1 p.2.1 p.2.2 else s) s
  let part := (xs.map (·.1)).flatten
  let cells := chainCells s.buf.links (cellsFor (chainLen c.descs)) (c.hold.getD 0)
  let c := { c with bad := c.bad || xs.any (·.2) }
  if c.moved + burstBytes < chainLen c.descs then
    (s.fillCells (cells.drop (c.moved / 256)) part).modDma r fun d => { d with chain := some { c with moved := c.moved + burstBytes } }
  else
    s.injectEnd r c cells (((cells.take (c.moved / 256)).map fun k => (s.cell k).data).flatten ++ part)

/-- An INJECT frame may start: the Cabinet, report space and the allocation are waited for in this order (17_host R427, R428, R433). Then
its chain is in progress. -/
def State.injectStart (s : State) (r : Nat) (ds : List (List Byte)) : State :=
  let own := (s.dma r).owner.val
  let n := cellsFor (chainLen ds)
  if (ds.any fun d => linkSpace d == 2) && s.cab.paused then s.modDma r fun d => { d with waitCab := true }
  else if wantsReport ds && !s.reportRoom r then s.modDma r fun d => { d with waitReport := true }
  else if !s.mayAllocate own n then (s.refuseAllocation own).modDma r fun d => { d with waitQuota := true }
  else
    let x := s.allocate own n
    let c : ChainProg := { first := (s.dma r).head, descs := ds, hold := x.1.head?, report := wantsReport ds }
    (x.2.modDma r fun d => { d with chain := some c }).reserveReport r (wantsReport ds)

/-- The next frame of an INJECT ring taken up, or its halt (17_host R422 to R428, R436; 20_faults R488). -/
def State.injectTake (s : State) (r : Nat) (rd : HostRead) : State :=
  match s.gather r (s.dma r).head [] 64 with
  | .incomplete => s
  | .tooLong => s.haltRing r 0x21
  | .notOwned => s.haltRing r 0x11
  | .bad ds => s.completeChain r ds 0x11 0
  | .chain ds =>
    if rd = .error ∨ rd = .poisoned then s.haltRing r 0x30
    else if s.flt.safe then s.completeChain r ds 0x30 0
    else if s.injectBad r ds then s.completeChain r ds 0x11 0
    else if linkSpace (ds.headD []) = 3 then s.injectLeased r (ds.headD [])
    else s.injectStart r ds

/-! ### Slow-path frames, DELIVER and LEASE (17_host R429, R430) -/

/-- The enabled DELIVER or LEASE ring of a pipeline and an owner. -/
def State.slowRing (s : State) (pipe owner : Nat) : Option Nat :=
  (s.host.rings.find? fun x =>
    x.2.enable && (x.2.typ == 2 || x.2.typ == 3) && x.2.pipe.toNat == pipe && x.2.owner.val == owner).map (·.1)

/-- One more frame in HOST_SP_DROP, its cells freed. -/
def State.slowDrop (s : State) (f : Frame) : State :=
  ({ s with host := { s.host with spDrop := s.host.spDrop + 1 } } : State).freeFrameCells f

/-- A slow-path frame whose last cell is stored and whose checks are made comes to its ring (17_host R419, R429; 18_instances
R450): no ring, host freeze or a failed check drops it to HOST_SP_DROP; a full backlog, no descriptor, or an owner that takes no
new frame drops it to the ring's count. -/
def State.slowArrive (s : State) (pipe : Nat) (f : Frame) : State :=
  match s.slowRing pipe f.owner with
  | none => s.slowDrop f
  | some r =>
    if s.host.frozen ∨ !f.fcsOk ∨ f.lateFail then s.slowDrop f
    else
      let d := s.dma r
      if 64 ≤ d.backlog.length ∨ d.head = d.tail ∨ (s.inst d.owner.val).st ≠ .active then
        (s.modDma r fun d => { d with dropped := d.dropped + 1 }).freeFrameCells f
      else s.modDma r fun d => { d with backlog := d.backlog ++ [f] }

/-- The buffers that a frame of `need` bytes takes, from a descriptor on (17_host R429, R430). -/
def State.gatherBufs (s : State) (r : Nat) (i : BitVec 32) (need : Nat) (acc : List (List Byte)) : Nat → Gathered
  | 0 => .incomplete
  | n + 1 =>
    if i = (s.dma r).tail then .incomplete
    else
      let d := s.desc r i
      let len := leAt d 8 2
      if !ownBit d then .notOwned
      else if len < 256 ∨ len % 64 ≠ 0 ∨ 2 ^ 22 ≤ leAt d 0x0C 4 ∨ !trailerOk d then .bad (acc ++ [d])
      else if len < need then s.gatherBufs r (i + 1) (need - len) (acc ++ [d]) n
      else .chain (acc ++ [d])

/-- The result fields of a delivered frame's descriptor (17_host Table 17.14); `first` marks the frame's first, `more` sets
link. -/
def deliverDesc (f : Frame) (d : List Byte) (first more : Bool) : List Byte :=
  let port := f.source == .port
  let d := patch d 0x0C (bytesLe 4 (f.cw.code % 32 + f.cw.templateId % 256 * 2 ^ 5 + (if port then f.lp.val else 0) * 2 ^ 13))
  let fl := if first then f.len % 2 ^ 14 else leAt d 0x0A 2 % 2 ^ 14
  let d := patch d 0x0A (bytesLe 2 (fl + f.source.num * 2 ^ 14))
  let d := if first then patch d 0x10 (if port then timeBytes f.tsIn else bytesLe 12 0) else d
  withStatus (patch d 0x1E [BitVec.ofNat 8 (byteAt d 0x1E / 2 * 2 + b1 more)]) 0 0

/-- A delivered frame's descriptors as they complete (17_host R430). -/
def deliverDescs (f : Frame) (first : Bool) (n : Nat) : List (List Byte) → List (List Byte)
  | [] => []
  | d :: r =>
    let k := min n (leAt d 8 2)
    patch (deliverDesc f d first (!r.isEmpty)) 8 (bytesLe 2 k) :: deliverDescs f false (n - k) r

/-- A part of a frame, from its byte `o` on, written into the frame's buffers (17_host R430). -/
def State.spread (s : State) (own o : Nat) (part : List Byte) : List (List Byte) → State
  | [] => s
  | d :: r =>
    let n := leAt d 8 2
    if n ≤ o then s.spread own (o - n) part r
    else (s.hostWrite own (leAt d 0 8 + o) (part.take (n - o))).spread own 0 (part.drop (n - o)) r

/-- The lease of a frame's chain to a ring's owner: its cells are the owner's, held (17_host R430; 11_pool R283). -/
def State.leaseChain (s : State) (own : Nat) (f : Frame) : State :=
  match f.cells with
  | [] => s
  | c :: _ =>
    let n := f.cells.length
    let h : Hold := { first := c, requester := own, cells := n }
    if f.source = .port then
      let s := s.outOfReserve f.cells
      ({ s with pool := { s.pool with refs := tset 0 s.pool.refs c 1, holds := s.pool.holds ++ [h] } } : State).charge own n
    else
      let req := match f.inj with | some j => j.requester | none => 0
      let s := if req = own then s else (s.credit req n).charge own n
      let s := s.endHold c
      { s with pool := { s.pool with holds := s.pool.holds ++ [h] } }

/-- The first frame of a ring's backlog taken up: a cell that fails its CRC drops it, else its descriptors are gathered and its chain is in
progress (17_host R422, R423, R429, R430, R437; 10_buffer R273). -/
def State.deliverTake (s : State) (r : Nat) (rd : HostRead) (cellBad : Bool) : State :=
  let d := s.dma r
  match d.backlog with
  | [] => s
  | f :: rest =>
    if cellBad then ((s.modDma r fun d => { d with backlog := rest }).slowDrop f).tick 0x89
    else
      match s.gatherBufs r d.head (if d.typ = 3 then 1 else f.data.length) [] 64 with
      | .chain ds =>
        if rd = .error ∨ rd = .poisoned then s.haltRing r 0x30
        else s.modDma r fun x => { x with chain := some { first := d.head, descs := ds, hold := none, report := false } }
      | .bad ds => s.completeChain r ds 0x11 0
      | .notOwned => s.haltRing r 0x11
      | _ => s

/-- One burst of the first frame of a ring's backlog: a LEASE descriptor takes its head and hands over its chain; DELIVER writes it on into
its buffers, and completes them with the last burst (17_host R430, R435). -/
def State.deliverBurst (s : State) (r : Nat) (c : ChainProg) : State :=
  let d := s.dma r
  let own := d.owner.val
  match d.backlog with
  | [] => s.modDma r fun x => { x with chain := none }
  | f :: rest =>
    let data := s.readFrame f.id f.data
    if d.typ = 3 then
      let b := c.descs.headD []
      let s := ((s.modDma r fun x => { x with backlog := rest }).hostWrite own (leAt b 0 8) (data.take 256)).leaseChain own f
      s.completeWrites r (descRun d.head [patch (deliverDesc f b true false) 0 (bytesLe 8 (f.cells.headD 0 * 256))]) true
    else
      let s := s.spread own c.moved ((data.drop c.moved).take burstBytes) c.descs
      if c.moved + burstBytes < data.length then
        s.modDma r fun x => { x with chain := some { c with moved := c.moved + burstBytes } }
      else
        ((s.modDma r fun x => { x with backlog := rest }).freeFrameCells f).completeWrites r
          (descRun d.head (deliverDescs f true data.length c.descs)) true

/-! ### COPY (17_host R431 to R433) -/

/-- The fields of a COPY descriptor (17_host Table 17.15). -/
structure CopyDesc where
  src : Nat
  dst : Nat
  len : Nat
  srcSpace : Nat
  dstSpace : Nat
  circ : Nat

/-- A COPY descriptor read. -/
def copyDesc (d : List Byte) : CopyDesc :=
  { src := leAt d 0 8, dst := leAt d 8 8, len := leAt d 0x10 4, srcSpace := byteAt d 0x14 % 4, dstSpace := byteAt d 0x14 / 4 % 4,
    circ := byteAt d 0x15 % 64 }

/-- The pieces of the destination of `n` bytes from byte `o` on: address and length, in the order of the bytes (17_host R431). -/
def CopyDesc.piecesFrom (c : CopyDesc) (o n : Nat) : List (Nat × Nat) :=
  if c.circ = 0 then [(c.dst + o, n)]
  else
    let size := 2 ^ c.circ
    let at_ := (c.dst + o) % size
    let k := min n (size - at_)
    [(c.dst / size * size + at_, k), (c.dst / size * size, n - k)].filter fun p => 0 < p.2

/-- The pieces of the whole destination. -/
def CopyDesc.pieces (c : CopyDesc) : List (Nat × Nat) := c.piecesFrom 0 c.len

/-- Every 64-byte unit of a range satisfies a test. -/
def allUnits (a n : Nat) (p : Nat → Bool) : Bool :=
  n == 0 || (List.range ((a + n + 63) / 64 - a / 64)).all fun i => p ((a / 64 + i) * 64)

/-- A COPY descriptor breaks a rule (17_host R423, R431; 18_instances R453). -/
def State.copyBad (s : State) (r : Nat) (d : List Byte) : Bool :=
  let c := copyDesc d
  let srcCab := c.srcSpace == 2
  let dstCab := c.dstSpace == 2
  !trailerOk d || decide (16 ≤ byteAt d 0x14) || decide (64 ≤ byteAt d 0x15) || leAt d 0x16 6 != 0 || c.len == 0 ||
    c.srcSpace == 3 || c.dstSpace == 3 || !(c.circ == 0 || (decide (12 ≤ c.circ) && decide (c.circ ≤ 40))) ||
    (c.circ != 0 && decide (2 ^ c.circ < c.len)) ||
    (srcCab && (decide (s.installed < c.src + c.len) || !s.cabRangeOk r c.src c.len)) ||
    (dstCab && c.pieces.any fun p =>
      decide (s.installed < p.1 + p.2) || !allUnits p.1 p.2 (fun u => !s.hostLocked u) || !s.cabRangeOk r p.1 p.2)

/-- Bytes written into a space. -/
def State.spaceWrite (s : State) (space own a : Nat) (bs : List Byte) : State :=
  if space = 0 then s.hostWrite own a bs
  else if space = 1 then
    (if s.host.frozen then s else { s with host := { s.host with peer := memWrite s.host.peer a bs } })
  else (s.requests 1 a bs.length).cabPut a bs

/-- Bytes written into the pieces of a destination. -/
def State.piecesWrite (s : State) (space own : Nat) (bs : List Byte) : List (Nat × Nat) → State
  | [] => s
  | p :: r => (s.spaceWrite space own p.1 (bs.take p.2)).piecesWrite space own (bs.drop p.2) r

/-- Source and destination lie in one space and overlap (17_host R432). -/
def CopyDesc.overlaps (c : CopyDesc) : Bool :=
  c.srcSpace == c.dstSpace && c.pieces.any fun p => decide (c.src < p.1 + p.2) && decide (p.1 < c.src + c.len)

/-- `n` bytes of a COPY descriptor copied, from byte `o` on, and whether a Cabinet unit read was bad (17_host R431 to R433). Overlapping host
or peer ranges leave the destination unpredictable (log entry 1). -/
def State.copyPart (s : State) (own : Nat) (c : CopyDesc) (o n : Nat) : State × Bool :=
  let x := if c.srcSpace = 2 then s.cabRead (c.src + o) n
    else if c.srcSpace = 0 then (s.hostRead (c.src + o) n, false)
    else (memReadN s.host.peer (c.src + o) n, false)
  let s := if c.srcSpace = 2 then s.cabTouch 1 (c.src + o) n else s
  if c.overlaps && c.srcSpace != 2 then
    let free := (List.range n).map fun i => BitVec.ofNat 8 (Config.value (s.freeCtr + i))
    (({ s with freeCtr := s.freeCtr + n } : State).piecesWrite c.dstSpace own free (c.piecesFrom o n), false)
  else (s.piecesWrite c.dstSpace own x.1 (c.piecesFrom o n), x.2)

/-- One burst of a COPY descriptor. Overlapping Cabinet ranges are copied as if the whole source had been read first: all of them in the
first burst, and the others move nothing (17_host R432, R435; log entry 126). -/
def State.copyBytes (s : State) (own : Nat) (c : CopyDesc) (moved : Nat) : State × Bool :=
  if c.overlaps && c.srcSpace == 2 then (if moved = 0 then s.copyPart own c 0 c.len else (s, false))
  else s.copyPart own c moved (min burstBytes (c.len - moved))

/-- A COPY descriptor touches the Cabinet. -/
def touchesCab (d : List Byte) : Bool := (copyDesc d).srcSpace == 2 || (copyDesc d).dstSpace == 2

/-- The descriptors of a COPY transfer that are carried out complete, their barriers behind their writes (17_host R423, R424). -/
def State.copyDone (s : State) (r : Nat) (c : ChainProg) : State :=
  s.completeWrites r (descRun (s.dma r).head c.done) (c.done.any fun d => (copyDesc d).dstSpace != 2)

/-- One burst of a COPY transfer (17_host R431 to R433, R435): while the Cabinet is paused a descriptor that touches it waits, and those
before it complete. -/
def State.copyBurst (s : State) (r : Nat) (c : ChainProg) : State :=
  match c.descs with
  | [] => s.copyDone r c
  | d :: rest =>
    if s.cab.paused && touchesCab d then
      (s.copyDone r c).modDma r fun x =>
        { x with waitCab := true, chain := if c.moved = 0 then none else some { c with done := [] } }
    else
      let x := s.copyBytes (s.dma r).owner.val (copyDesc d) c.moved
      let bad := c.bad || x.2
      if c.moved + burstBytes < (copyDesc d).len then
        x.1.modDma r fun x => { x with chain := some { c with moved := c.moved + burstBytes, bad := bad } }
      else
        let c := { c with descs := rest, done := c.done ++ [withStatus d (if bad then 0x30 else 0) 0], moved := 0, bad := false }
        if rest.isEmpty then x.1.copyDone r c else x.1.modDma r fun x => { x with chain := some c }

/-- The next transfer of a COPY ring taken up, or its halt (17_host R422, R423, R431, R436, R437). -/
def State.copyTake (s : State) (r : Nat) (rd : HostRead) : State :=
  match s.gather r (s.dma r).head [] 64 with
  | .incomplete => s
  | .chain ds =>
    if rd = .error ∨ rd = .poisoned then s.haltRing r 0x30
    else if ds.any fun d => s.copyBad r d then s.completeChain r ds 0x11 0
    else s.modDma r fun x => { x with chain := some { first := x.head, descs := ds, hold := none, report := false } }
  | .tooLong => s.haltRing r 0x21
  | _ => s.haltRing r 0x11

/-! ### The commands of the engine -/

/-- The next burst of a ring's chain in progress reads on PCIe: data of host or peer memory, or the descriptors of a delivery. -/
def DmaRing.overBus (d : DmaRing) (c : ChainProg) : Bool :=
  if d.typ = 1 then (linkPieces c.descs c.moved burstBytes).any fun p => p.1 != 2
  else if d.typ = 4 then (copyDesc (c.descs.headD [])).srcSpace != 2
  else c.moved == 0

/-- One burst of a ring's chain in progress (17_host R433, R435). An INJECT chain that comes to a paused Cabinet waits; in the safe state it
injects nothing and completes with INTERNAL (20_faults R488). -/
def State.burst (s : State) (r : Nat) (c : ChainProg) : State :=
  let d := s.dma r
  if d.typ = 4 then s.copyBurst r c
  else if d.typ ≠ 1 then s.deliverBurst r c
  else if s.flt.safe then (s.dropChain r).completeChain r c.descs 0x30 0
  else if s.cab.paused && (linkPieces c.descs c.moved burstBytes).any fun p => p.1 == 2 then s.modDma r fun x => { x with waitCab := true }
  else s.injectBurst r c

/-- A burst of the chain in progress, its reads ending as `rd` says: outstanding reads leave the ring to their end (17_host R437). -/
def State.burstOf (s : State) (r : Nat) (rd : HostRead) : State :=
  match (s.dma r).chain with
  | none => s
  | some c =>
    if rd = .error ∨ rd = .poisoned then s.haltRing r 0x30
    else if rd = .outstanding ∧ (s.dma r).overBus c then s.issueRead (s.dma r).owner.val (.ring r)
    else s.burst r c

/-- One turn of a ring: it takes up its next work when it has none in progress, and moves one burst (17_host R435). -/
def State.ringTurn (s : State) (r : Nat) (rd : HostRead) (cellBad : Bool) : State :=
  let d := s.dma r
  let s := { s with host := { s.host with turn := r } }
  let s := if d.chain.isSome then s
    else if d.typ = 1 then s.injectTake r rd
    else if d.typ = 4 then s.copyTake r rd
    else s.deliverTake r rd cellBad
  (s.burstOf r rd).settleInst

/-- The ring whose turn comes next: the first with work, in ascending order, behind the ring served last (17_host R435). -/
def State.nextTurn (s : State) : Option Nat :=
  let ks := s.host.rings.map (·.1)
  (ks.filter (fun k => decide (s.host.turn < k)) ++ ks.filter fun k => decide (k ≤ s.host.turn)).find? s.hasWork

/-- The engine serves rings with work until ring `r` has done a piece of its work, to the end of its chain: each turn is one burst, and the
rings whose turn lies between have theirs, with reads that end in data (17_host R435; log entry 127). -/
def State.engine (s : State) (r : Nat) (rd : HostRead) (cellBad : Bool) : Nat → State
  | 0 => s
  | n + 1 =>
    if !s.hasWork r then s
    else
      match s.nextTurn with
      | none => s
      | some k =>
        if k ≠ r then (s.ringTurn k .data false).engine r rd cellBad n
        else
          let u := s.ringTurn r rd cellBad
          if (u.dma r).chain.isSome then u.engine r rd cellBad n else u

/-- More turns than a chain of 64 links of any length takes with every other ring between. -/
def engineTurns : Nat := 2 ^ 38

/-- A ring of some types has its next work done. -/
def State.ringWork (s : State) (r : Nat) (types : List Nat) (rd : HostRead) (cellBad : Bool) : State :=
  if types.contains (s.dma r).typ.toNat then s.engine r rd cellBad engineTurns else s
/-- `INJECT_DESCRIPTOR`. -/
def execInjectDescriptor (ring : Fin 1024) (rd : HostRead) (s : State) : Ans := .next (s.ringWork ring.val [1] rd false)
/-- `DELIVER_FRAME`. -/
def execDeliverFrame (ring : Fin 1024) (rd : HostRead) (cellBad : Bool) (s : State) : Ans :=
  .next (s.ringWork ring.val [2] rd cellBad)
/-- `LEASE_FRAME`. -/
def execLeaseFrame (ring : Fin 1024) (rd : HostRead) (cellBad : Bool) (s : State) : Ans :=
  .next (s.ringWork ring.val [3] rd cellBad)
/-- `COPY_DESCRIPTOR`. -/
def execCopyDescriptor (ring : Fin 1024) (rd : HostRead) (s : State) : Ans := .next (s.ringWork ring.val [4] rd false)

/-- A notice discarded (17_host R434; 08_tables R217). -/
def State.noticeLost (s : State) (r : Option Nat) : State :=
  let s := s.tick 0x99
  match r with
  | some r => s.modDma r fun d => { d with dropped := d.dropped + 1 }
  | none => s

/-- The oldest learning notice written to the NOTICE ring's circular buffer (17_host R434): discarded without a ring, or without
room; its event at most once every 1 µs. -/
def State.noticeWrite (s : State) : State :=
  match s.host.notices with
  | [] => s
  | x :: rest =>
    let s := { s with host := { s.host with notices := rest } }
    match s.host.rings.find? fun y => y.2.enable && y.2.typ == 5 && !y.2.halted && !y.2.resetBusy with
    | none => if s.host.frozen then s else s.noticeLost none
    | some (r, d) =>
      if s.host.frozen then s
      else if d.rpos.toNat + 2 ^ d.circLog2.toNat < d.wpos.toNat + x.length then s.noticeLost (some r)
      else
        let a := d.circBase.toNat / 4096 * 4096 + d.wpos.toNat % 2 ^ d.circLog2.toNat
        let s := (s.hostWrite d.owner.val a x).modDma r fun d => { d with wpos := d.wpos + BitVec.ofNat 64 x.length }
        let soon := match d.lastEvent with | some t => decide (s.nowPs < t + usPs) | none => false
        if soon then s else (s.modDma r fun d => { d with lastEvent := some s.nowPs }).raise r
/-- `NOTICE_WRITE`. -/
def execNoticeWrite (s : State) : Ans := .next s.noticeWrite

/-- The barrier read of a ring completes (17_host R424). -/
def State.barrierDone (s : State) (r : Nat) : State :=
  match s.host.reads.find? fun q => q.purpose == .barrier r && !q.fenced with
  | some q => (((s.endRead q.tag).finishBarrier r).settleRing r).settleInst
  | none => s
/-- `BARRIER_DONE`. -/
def execBarrierDone (ring : Fin 1024) (s : State) : Ans := .next (s.barrierDone ring.val)

/-- A ring whose wait is over goes on (17_host R427, R428, R433), unless its instance takes no new work (18_instances R450); an allocation
asked for again and refused is counted (11_pool R283). -/
def State.waitResume (s : State) (r : Nat) : State :=
  let d := s.dma r
  let need := match s.gather r d.head [] 64 with | .chain ds => cellsFor (chainLen ds) | _ => 0
  let refused := d.waitQuota && !s.mayAllocate d.owner.val need
  if s.host.frozen ∨ (s.inst d.owner.val).st ≠ .active then s
  else
    let s := if refused then s.refuseAllocation d.owner.val else s
    s.modDma r fun x =>
      { x with waitCab := x.waitCab && s.cab.paused, waitReport := x.waitReport && !s.reportRoom r, waitQuota := refused }
/-- `RING_WAIT_RESUME`. -/
def execRingWaitResume (ring : Fin 1024) (s : State) : Ans := .next (s.waitResume ring.val)

/-! ### Ends of read requests (17_host R412, R437, R438; 18_instances R454, R457) -/

/-- A DIRTY_LOG_SWAP or STOP whose old log is complete replies with its base, its count and its overflow bit (18_instances R457; log
entry 29). -/
def State.swapEnd (s : State) (n : Nat) : State :=
  match (s.inst n).swap with
  | some (l, w) =>
    (s.modInst n fun i => { i with swap := none }).complete w 0 0
      (bytesLe 8 l.base.toNat ++ bytesLe 8 l.count ++ bytesLe 8 (b1 l.overflow))
  | none => s

/-- Log swaps whose read has not been issued, for want of a tag or of the host, have it issued (18_instances R457). -/
def State.settleSwaps (s : State) : State :=
  (List.range 64).foldl (fun (s : State) n =>
    if (s.inst n).swap.isSome ∧ !s.host.frozen ∧ !(s.host.reads.any fun q => q.purpose == .dirtyLog n) then
      s.issueRead 0 (.dirtyLog n)
    else s) s

/-- What waits for a read's end once it is gone: a ring's reset, a port reset, a log swap, a quiesce. -/
def State.settleReads (s : State) (q : ReadReq) : State :=
  let s := match q.purpose with
    | .ring r => s.settleRing r
    | .barrier r => s.settleRing r
    | _ => s.settlePortReset
  s.settleSwaps.settleInst

/-- A command slot that could not be read: HOST_TIMEOUT with tag zero, and the slot is passed (15_commands R363). -/
def State.slotUnread (s : State) (n : Nat) : State :=
  (s.modCmdRing n fun g => { g with cmdHead := g.cmdHead + 1 }).ringReply n (mkReply 0 0x22 0 0 [])

/-- A read request is not completed in time (17_host R412, R437, R438; 18_instances R454). -/
def State.readTimeout (s : State) (t : BitVec 14) : State :=
  match s.host.reads.find? fun q => q.tag == t with
  | none => s
  | some q =>
    if !s.due (q.issued + q.tct) then s
    else
      let s := (s.reach (q.issued + q.tct)).endRead t
      let s := { s with host := { s.host with cplTimeout := s.host.cplTimeout + 1 } }
      let s := s.modFn q.fn fun f => { f with aerTimeout := true }
      if q.fenced then s.settleReads q
      else
        let s := { s with host := { s.host with quarantine := s.host.quarantine ++ [(t, s.nowPs + 2 * q.tct, q.fn)] } }
        (match q.purpose with
          | .ring r => s.haltRing r 0x22
          | .barrier r => s.haltRing r 0x22
          | .command n => s.slotUnread n
          | .dirtyLog _ => s).settleReads q
/-- `COMPLETION_TIMEOUT`. -/
def execCompletionTimeout (tag : BitVec 14) (s : State) : Ans := .next (s.readTimeout tag)

/-- A completion after its timeout (17_host R438). -/
def State.lateCompletion (s : State) (t : BitVec 14) : State :=
  match s.host.quarantine.find? fun q => q.1 == t with
  | some q =>
    ({ s with host := { s.host with lateCpl := s.host.lateCpl + 1 } } : State).modFn q.2.2 fun f => { f with aerUnexpected := true }
  | none => s
/-- `LATE_COMPLETION`. -/
def execLateCompletion (tag : BitVec 14) (s : State) : Ans := .next (s.lateCompletion tag)

/-- A tag's quarantine ends (17_host R438). -/
def State.quarantineEnd (s : State) (t : BitVec 14) : State :=
  match s.host.quarantine.find? fun q => q.1 == t with
  | some q =>
    if s.due q.2.1 then
      let s := s.reach q.2.1
      { s with host := { s.host with quarantine := s.host.quarantine.filter fun x => x.1 != t } }
    else s
  | none => s
/-- `TAG_QUARANTINE_END`. -/
def execTagQuarantineEnd (tag : BitVec 14) (s : State) : Ans := .next (s.quarantineEnd tag)

/-- A ring's read has ended: with data its burst is moved, otherwise it halts with INTERNAL (17_host R437). -/
def State.ringReadEnd (s : State) (r : Nat) (rd : HostRead) : State :=
  if rd ≠ HostRead.data then s.haltRing r 0x30 else s.burstOf r .data

/-- A read completion arrives (17_host R437; 18_instances R454): for a fenced request it is discarded; `run` takes the command of
a slot that was read. -/
def State.readEnd (s : State) (t : BitVec 14) (rd : HostRead) (run : Nat → State → State) : State :=
  match s.host.reads.find? fun q => q.tag == t with
  | none => s
  | some q =>
    if rd = .outstanding then s
    else
      let s := s.endRead t
      if q.fenced then ({ s with host := { s.host with lateCpl := s.host.lateCpl + 1 } } : State).settleReads q
      else
        (match q.purpose with
          | .ring r => s.ringReadEnd r rd
          | .barrier r => if rd = HostRead.data then s.finishBarrier r else s.haltRing r 0x30
          | .command n => if rd = HostRead.data then run n s else s.slotUnread n
          | .dirtyLog n => s.swapEnd n).settleReads q

end Sys2Proof.Machine
end

