-- ==== Sys2Proof/Machine/Instances.lean ====
section
/-!
DEFINITION. Virtual instances: INST_CREATE to INST_REMOVE, dirty-page logs, fences and the recount that an INST_RESET waits for
(18_instances R443 to R457; 11_pool R292), with the function level resets and VF Enable (17_host R413).
-/

namespace Sys2Proof.Machine

/-! ### The instance block -/

/-- Fields of the instance block (18_instances Table 18.1). -/
def blkInst (ps : List Byte) : Nat := byteAt ps 0 % 64
/-- See `blkInst`. -/
def blkFirst (ps : List Byte) : Nat := leAt ps 2 2
/-- See `blkInst`. -/
def blkCount (ps : List Byte) : Nat := leAt ps 4 2
/-- See `blkInst`. -/
def blkQuota (ps : List Byte) : Nat := leAt ps 8 8 % 2 ^ 21
/-- See `blkInst`. -/
def blkDrawers (ps : List Byte) : Nat := leAt ps 0x10 8
/-- See `blkInst`. -/
def blkOpcodes (ps : List Byte) : Nat := leAt ps 0x18 2
/-- See `blkInst`. -/
def blkQuantum (ps : List Byte) (tc : Nat) : Nat := leAt ps (0x20 + 2 * tc) 2
/-- The logical ports that the block names. -/
def blkPorts (ps : List Byte) : List Nat := (List.range 512).filter (bitAt (leAt ps 0x40 64))

/-- The format of an instance block (18_instances R443, Tables 18.1, 18.2). -/
def blkOk (create : Bool) (ps : List Byte) : Bool :=
  ps.length == 128 &&
    onlyBits ps (bits 0 6 + bits 8 4 + bits 16 32 + bits 64 21 + bits 128 64 + bits 192 7 + bits 256 768) &&
    !bitAt (blkDrawers ps) 0 &&
    (if create then
      blkInst ps != 0 && byteAt ps 1 == 0 && decide (blkFirst ps < 1024) && decide (1 ≤ blkCount ps) && decide (blkCount ps ≤ 512) &&
        decide (blkFirst ps + blkCount ps ≤ 1024)
     else true)

/-- Any quantum of the block is not zero. -/
def anyQuantum (ps : List Byte) : Bool := (List.range 16).any fun tc => blkQuantum ps tc != 0

/-- The ports that an instance owns. -/
def State.portsOf (s : State) (n : Nat) : List Nat := (List.range 512).filter fun lp => s.ownerOf lp == n

/-- The quantum of one queue written, in the master and in the buffer island (18_instances R446; 12_egress R310, R311). -/
def State.setQuantum (s : State) (q v : Nat) : State :=
  (s.setMaster 0x17 0 q (setFld (s.master 0x17 0 q) 16 16 v)).setWork 0x17 q (setFld (s.work 0x17 q) 16 16 v)

/-- The groups of the block that the change bits select (18_instances R446; 10_buffer R274). -/
def State.resize (s : State) (n change : Nat) (ps : List Byte) : State :=
  let s := if bitAt change 0 then s.modReq n fun r => { r with quota := blkQuota ps } else s
  let s := if bitAt change 1 then
      (s.portsOf n).foldl (fun (s : State) lp =>
        (List.range 16).foldl (fun (s : State) tc =>
          if blkQuantum ps tc = 0 then s else s.setQuantum (16 * lp + tc) (blkQuantum ps tc)) s) s
    else s
  let s := if bitAt change 2 then s.modInst n fun i => { i with drawerMask := BitVec.ofNat 64 (blkDrawers ps) } else s
  if bitAt change 3 then s.modInst n fun i => { i with opcodeMask := BitVec.ofNat 16 (blkOpcodes ps) } else s

/-- INST_CREATE (18_instances R444; 08_tables R221). -/
def doInstCreate : Handler := fun _ p ps s =>
  let n := blkInst ps
  let rings := (List.range (blkCount ps)).map (· + blkFirst ps)
  if (s.inst n).st != .absent then busy s
  else if (rings.any fun r => (s.dma r).owner.val != 0) || (blkPorts ps).any fun lp => s.ownerOf lp != 0 then noResource s
  else if (rings.any fun r => (s.dma r).enable) || (anyQuantum ps && !s.d0Writable) then busy s
  else if anyQuantum ps && (d0Units p 1).1 = 0 then d0Busy s 0
  else
    let s := rings.foldl (fun (s : State) r =>
      s.modDma r fun d => { d with owner := if h : n < 64 then ⟨n, h⟩ else 0 }) s
    let s := (blkPorts ps).foldl (fun (s : State) lp => { s with portOwner := tset 0 s.portOwner lp n }) s
    let s := s.modInst n fun i => { i with st := .active, ringFirst := blkFirst ps, ringCount := blkCount ps }
    ok (s.resize n 15 ps)
/-- `INST_CREATE`. -/
def execInstCreate (p : Pkt) (s : State) : Ans := .next (s.runCommand 0x0800 p (fun ps _ => blkOk true ps) doInstCreate)

/-- INST_RESIZE (18_instances R446, R455; 08_tables R221). -/
def doInstResize : Handler := fun _ p ps s =>
  let n := blkInst ps
  let change := byteAt ps 1
  let d0 := bitAt change 1 && anyQuantum ps
  if (s.inst n).st == .absent || (s.inst n).st == .fencing || (d0 && !s.d0Writable) then busy s
  else if d0 && (d0Units p 1).1 = 0 then d0Busy s 0
  else ok (s.resize n change ps)
/-- `INST_RESIZE`. -/
def execInstResize (p : Pkt) (s : State) : Ans := .next (s.runCommand 0x0801 p (fun ps _ => blkOk false ps) doInstResize)

/-! ### INST_QUIESCE -/

/-- The format of INST_QUIESCE (18_instances R450). -/
def wfQuiesce (ps : List Byte) (_ : State) : Bool := ps.length == 8 && onlyBits ps (bits 0 6 + bits 8 1) && blkInst ps != 0

/-- INST_QUIESCE (18_instances R450): QUIESCE waits for the in-flight count; RESUME ends it, and an INST_QUIESCE that still waits
replies OK (log entry 30). -/
def doQuiesce : Handler := fun w _ ps s =>
  let n := blkInst ps
  let st := (s.inst n).st
  if byteAt ps 1 = 0 then
    if st != .active then busy s else pendingReply (s.modInst n fun i => { i with st := .quiescing, quiesceWait := some w })
  else if st != .quiescing && st != .quiesced then busy s
  else
    let q := (s.inst n).quiesceWait
    let s := s.modInst n fun i => { i with st := .active, quiesceWait := none }
    ok (match q with | some x => s.complete x 0 0 [] | none => s)

/-- INST_QUIESCE with the op of its row. -/
def State.quiesceRow (s : State) (op : Nat) (p : Pkt) : State := (s.runCommand 0x0802 (forceOp p 8 8 op) wfQuiesce doQuiesce).settleInst
/-- `INST_QUIESCE`. -/
def execInstQuiesce (p : Pkt) (s : State) : Ans := .next (s.quiesceRow 0 p)
/-- `INST_QUIESCE_RESUME`. -/
def execInstQuiesceResume (p : Pkt) (s : State) : Ans := .next (s.quiesceRow 1 p)

/-! ### INST_RESET and INST_REMOVE -/

/-- The format of INST_RESET and INST_REMOVE (18_instances R451). -/
def wfInstReset (ps : List Byte) (_ : State) : Bool := ps.length == 8 && onlyBits ps (bits 0 6) && blkInst ps != 0

/-- A number that the spec leaves unpredictable, the `k`-th of a command (log entry 1). -/
def State.stray (s : State) (k : Nat) : Nat := Config.value (s.freeCtr + k)

/-- Ranges of host memory that are an instance's own: its rings, the buffers that their posted descriptors name, their circular buffers and
its command ring and reply ring (18_instances R451; 00_scope R10). -/
def State.hostBuffers (s : State) (n : Nat) : List (Nat × Nat) :=
  let g := s.cmdRing n
  ((s.ringsOf n).flatMap fun r =>
    let d := s.dma r
    let posted := (List.range (min (d.tail - d.head).toNat (2 ^ d.log2.toNat))).map fun i => s.desc r (d.head + BitVec.ofNat 32 i)
    [(d.base.toNat / 32 * 32, 32 * 2 ^ d.log2.toNat), (d.circBase.toNat / 4096 * 4096, if d.circLog2 = 0 then 0 else 2 ^ d.circLog2.toNat)] ++
      posted.flatMap fun x =>
        if d.typ = 2 ∨ d.typ = 3 then [(leAt x 0 8, leAt x 8 2)]
        else if d.typ = 4 ∧ (copyDesc x).dstSpace = 0 then (copyDesc x).pieces
        else []) ++
    [(g.cmdBase.toNat / 8192 * 8192, 8192 * 2 ^ g.cmdLog2.toNat), (g.rplBase.toNat / 4096 * 4096, 4096 * 2 ^ g.rplLog2.toNat)]

/-- A write into host memory of which only what lies in some ranges is made. -/
def writeWithin (ranges : List (Nat × Nat)) (mem : List Host.Cell) (a : Nat) (bs : List Byte) : List Host.Cell :=
  (bs.zip (List.range bs.length)).foldl (fun m x =>
    if ranges.any fun g => decide (g.1 ≤ a + x.2) && decide (a + x.2 < g.1 + g.2) then memWrite m (a + x.2) [x.1] else m) mem

/-- An instance reset with work in flight (18_instances R451): its rings' registers, its host buffers, its held chains and its
charge are unpredictable, and nothing else (00_scope R10). `ranges` are its host buffers. -/
def State.scramble (s : State) (n : Nat) (ranges : List (Nat × Nat)) : State :=
  let s := (s.ringsOf n).foldl (fun (s : State) r =>
    ({ s with freeCtr := s.freeCtr + 8 } : State).modDma r fun d =>
      { d with
        tail := BitVec.ofNat 32 (s.stray 0), head := BitVec.ofNat 32 (s.stray 1), wpos := BitVec.ofNat 64 (s.stray 2)
        rpos := BitVec.ofNat 64 (s.stray 3), haltCode := BitVec.ofNat 8 (s.stray 4), halted := s.stray 5 % 2 == 1
        dropped := BitVec.ofNat 32 (s.stray 6), enable := s.stray 7 % 2 == 1 }) s
  let s := { s with host := { s.host with
    mem := (Config.strayWrites s.freeCtr).foldl (fun m (x : Nat × List Byte) => writeWithin ranges m x.1 x.2) s.host.mem } }
  ({ s with freeCtr := s.freeCtr + 2 } : State).modReq n fun r => { r with charge := s.stray 1 % 2 ^ 21 }

/-- The first steps of INST_RESET: rings, command ring, holds, and the recount that it waits for (18_instances R451). -/
def State.beginReset (s : State) (n : Nat) (w : Waiter) : State :=
  let loose := (s.inst n).st != .quiesced
  let ranges := if loose then s.hostBuffers n else []
  let s := (s.ringsOf n).foldl (fun (s : State) r => s.resetRing r) s
  let s := ((s.portResetRing n).settlePortReset).freeHolds n
  let s := if loose then s.scramble n ranges else s
  (s.startRecount [n] []).modInst n fun i => { i with resetWait := some w, resetLoose := if loose then some ranges else none }

/-- INST_RESET and INST_REMOVE (18_instances R451, R452, R455). -/
def doInstReset (remove : Bool) : Handler := fun w _ ps s =>
  let n := blkInst ps
  let st := (s.inst n).st
  if st == .absent || st == .fencing || (remove && st != .quiesced) || (s.inst n).resetWait.isSome then busy s
  else pendingReply (s.beginReset n w)
/-- `INST_RESET`. -/
def execInstReset (p : Pkt) (s : State) : Ans := .next (s.runCommand 0x0803 p wfInstReset (doInstReset false))
/-- `INST_REMOVE`. -/
def execInstRemove (p : Pkt) (s : State) : Ans := .next (s.runCommand 0x0804 p wfInstReset (doInstReset true))

/-- An instance is removed (18_instances R452, R445): its rings and ports go to instance 0, and its block to zero. -/
def State.removeInst (s : State) (n : Nat) : State :=
  let s := (s.ringsOf n).foldl (fun (s : State) r => s.modDma r fun d => { d with owner := 0 }) s
  let s := (s.portsOf n).foldl (fun (s : State) lp => { s with portOwner := tset 0 s.portOwner lp 0 }) s
  (s.modReq n fun r => { r with quota := 0 }).modInst n fun i =>
    { i with st := .absent, ringFirst := 0, ringCount := 0, drawerMask := 0, opcodeMask := 0, dirty := none, dirtyFilter := [] }

/-- The end of an INST_RESET or INST_REMOVE: the window at zero, ACTIVE or removed, OK (18_instances R451, R452). -/
def State.finishReset (s : State) (n : Nat) : State :=
  match (s.inst n).resetWait with
  | none => s
  | some w =>
    let s := match (s.inst n).resetLoose with | some ranges => s.scramble n ranges | none => s
    let s := s.modInst n fun i => { i with win := Window.init, st := .active, resetWait := none, resetLoose := none }
    (if w.opcode = 0x0804 then s.removeInst n else s).complete w 0 0 []

/-- The recount scan ends, 135,168 buffer cycles behind its start (11_pool R292): shadows become live counters, its event is raised, and the
commands that waited reply OK. An instance in a fence waits for the fence (18_instances R455). Resets that came in while the scan ran have
theirs next. -/
def State.recountEnd (s : State) : State :=
  match s.pool.recount with
  | none => s
  | some r =>
    if !s.due ((r.start + recountCycles) * 800) then s
    else
      let s := s.reach ((r.start + recountCycles) * 800)
      let s := r.reqs.foldl (fun (s : State) n => s.recountReq n) s
      let s := ({ s with pool := { s.pool with recount := none } } : State).raise 1298
      let s := r.waiters.foldl (fun (s : State) w => s.complete w 0 0 []) s
      let s := r.reqs.foldl (fun (s : State) n => if (s.inst n).st = .fencing then s else s.finishReset n) s
      let next := (List.range 64).filter fun n => (s.inst n).resetWait.isSome && (s.inst n).st != .fencing
      if next.isEmpty then s else s.startRecount next []
/-- `RECOUNT_COMPLETE`. -/
def execRecountComplete (s : State) : Ans := .next s.recountEnd

/-! ### Dirty-page logs -/

/-- The format of DIRTY_LOG_SWAP (18_instances R457; log entry 31). -/
def wfDirtyLog (ps : List Byte) (_ : State) : Bool :=
  let size := byteAt ps 0x10
  ps.length == 24 && onlyBits ps (bits 0 6 + bits 8 2 + bits 76 52 + bits 128 6) && decide (byteAt ps 1 < 2) &&
    (byteAt ps 1 == 1 || (decide (12 ≤ size) && decide (size ≤ 30)))

/-- DIRTY_LOG_SWAP (18_instances R457): the log changes at once; the reply waits for a read behind the old log's writes. -/
def doDirtyLog : Handler := fun w _ ps s =>
  let n := blkInst ps
  let i := s.inst n
  if i.swap.isSome || (byteAt ps 1 == 1 && i.dirty.isNone) then busy s
  else
    let new : Option DirtyLog :=
      if byteAt ps 1 = 1 then none
      else some { base := BitVec.ofNat 64 (leAt ps 8 8), log2 := byteAt ps 0x10, count := 0, overflow := false }
    let old : DirtyLog := match i.dirty with | some l => l | none => { base := 0, log2 := 0, count := 0, overflow := false }
    pendingReply (s.modInst n fun i => { i with dirty := new, dirtyFilter := [], swap := some (old, w) })

/-- DIRTY_LOG_SWAP with the op of its row. -/
def State.dirtyRow (s : State) (op : Nat) (p : Pkt) : State := (s.runCommand 0x0805 (forceOp p 8 8 op) wfDirtyLog doDirtyLog).settleSwaps
/-- `DIRTY_LOG_SWAP`. -/
def execDirtyLogSwap (p : Pkt) (s : State) : Ans := .next (s.dirtyRow 0 p)
/-- `DIRTY_LOG_STOP`. -/
def execDirtyLogStop (p : Pkt) (s : State) : Ans := .next (s.dirtyRow 1 p)

/-! ### Fences (18_instances R454, R455; 17_host R413) -/

/-- A read of the manager's, for a log swap. -/
def ReadFor.forLog (w : ReadFor) : Bool := match w with | .dirtyLog _ => true | _ => false

/-- The fence of an instance begins: nothing new is taken, its reads are orphaned, its command is cancelled. -/
def State.startFence (s : State) (n : Nat) : State :=
  if (s.inst n).st = .absent ∨ (s.inst n).st = .fencing then s
  else
    let s := { s with host := { s.host with reads := s.host.reads.map fun (q : ReadReq) =>
      if q.fn = n ∧ !q.purpose.forLog then { q with fenced := true } else q } }
    let s := if s.cp0Runs n then s.modCtx .cp0 fun c => { c with cancel := true } else s
    s.modInst n fun i => { i with st := .fencing }

/-- A ring at its reset values, still its owner's; the frames of its backlog are dropped. -/
def State.fenceRing (s : State) (r : Nat) : State :=
  ((s.dropChain r).dropBacklog r).modDma r fun d => { DmaRing.init with owner := d.owner, reserved := d.reserved }

/-- A fence ends (18_instances R454, R455). -/
def State.fenceEnd (s : State) (n : Nat) : State :=
  if (s.inst n).st ≠ .fencing then s
  else
    let s := if s.cp0Runs n then s.modCtx .cp0 fun _ => Ctx.init else s
    let s := (s.ringsOf n).foldl (fun (s : State) r => s.fenceRing r) s
    let s := (s.modCmdRing n fun _ => CmdRing.init).freeHolds n |>.recountReq n
    let q := (s.inst n).quiesceWait
    let s := (s.modInst n fun i =>
      { i with st := .active, win := Window.init, fences := i.fences + 1, quiesceWait := none }).raise (1354 + n)
    let s := match q with | some w => s.complete w 0 0 [] | none => s
    s.finishReset n
/-- `FENCE_COMPLETE`. -/
def execFenceComplete (n : Fin 64) (s : State) : Ans := .next (s.fenceEnd n.val)

/-- Fences of every instance from 1 to 63. -/
def State.fenceGuests (s : State) : State := (List.range 63).foldl (fun (s : State) k => s.startFence (k + 1)) s

/-- A function level reset of a virtual function (17_host R413; 18_instances R454): its configuration space is reset. -/
def State.flrVf (s : State) (n : Nat) : State :=
  if n = 0 ∨ !s.host.vfEnable then s
  else ({ s with host := { s.host with fns := tdel s.host.fns n } } : State).startFence n
/-- `FLR_VF`. -/
def execFlrVf (n : Fin 64) (s : State) : Ans := .next (s.flrVf n.val)

/-- VF Enable is cleared (17_host R413). -/
def State.vfClear (s : State) : State :=
  if s.host.vfEnable then ({ s with host := { s.host with vfEnable := false } } : State).fenceGuests else s
/-- `VF_ENABLE_CLEAR`. -/
def execVfEnableClear (s : State) : Ans := .next s.vfClear

/-- A function level reset of the physical function (17_host R413). -/
def State.flrPf (s : State) : State :=
  let s := { s with host := { s.host with fns := tdel s.host.fns 0, ctVal := 0, barLog2 := 30, vfEnable := false } }
  (s.fenceGuests.startFence 0).portResetCp0
/-- `FLR_PF`. -/
def execFlrPf (s : State) : Ans := .next s.flrPf

end Sys2Proof.Machine
end

