-- ==== Sys2Proof/Machine/Host.lean ====
section
/-!
DEFINITION. The host endpoint's link, configuration space, freeze and release (17_host R411 to R414, R419, R420; 22_board R523,
R524) and the Cabinet windows (17_host R416, R417; 18_instances R453).
-/

namespace Sys2Proof.Machine

/-! ### Link, freeze and release -/

/-- The fastest generation that the straps allow (22_board Table 22.5). -/
def State.strapGen (s : State) : Nat :=
  let v := s.boot.straps.toNat % 4
  if v = 1 then 5 else if v = 2 then 4 else 6

/-- The device enters host freeze, unless it is frozen already (17_host R419); the link is down. -/
def State.linkLost (s : State) : State :=
  let s := { s with host := { s.host with gen := 0, width := 0, flit := false } }
  if s.host.frozen then { s with host := { s.host with fns := [], ctVal := 0, barLog2 := 30, vfEnable := false } } else s.hostFreeze

/-- Link down, a hot reset or a link disable (17_host R419). -/
def State.pcieDown (s : State) : State := if s.host.gen = 0 then s else s.linkLost
/-- `PCIE_LINK_DOWN`. -/
def execPcieLinkDown (s : State) : Ans := .next s.pcieDown

/-- The number of a PCIe generation. -/
def genNum : PcieGen → Nat
  | .g4 => 4 | .g5 => 5 | .g6 => 6
/-- The lanes of a width. -/
def widthNum : PcieWidth → Nat
  | .x4 => 4 | .x8 => 8 | .x16 => 16

/-- Link training completes (17_host R411, Table 17.5): FLIT mode at 64 GT/s only, and no faster than the straps allow. -/
def State.pcieUp (s : State) (g w : Nat) : State :=
  if s.host.training && !s.host.perstLow && s.host.gen == 0 && decide (g ≤ s.strapGen) then
    { s with host := { s.host with gen := BitVec.ofNat 4 g, width := BitVec.ofNat 5 w, flit := decide (g = 6) } }
  else s
/-- `PCIE_LINK_UP`. -/
def execPcieLinkUp (gen : PcieGen) (width : PcieWidth) (s : State) : Ans := .next (s.pcieUp (genNum gen) (widthNum width))

/-- PERST_N falls (22_board R523): the PCIe island and every configuration space are reset, and the device freezes. -/
def State.perst (s : State) : State :=
  if s.host.perstLow then s
  else ({ s with host := { s.host with perstLow := true, training := false } } : State).linkLost
/-- `PERST`. -/
def execPerst (s : State) : Ans := .next s.perst

/-- Link training starts once phase 4 has ended and PERST_N is high (22_board R524). -/
def State.startTraining (s : State) : State :=
  if 4 ≤ s.boot.phase ∧ !s.host.perstLow ∧ !s.boot.failed then
    { s with host := { s.host with training := true }, boot := { s.boot with phase := max s.boot.phase 5 } }
  else s
/-- `PERST_RELEASE`. -/
def execPerstRelease (s : State) : Ans :=
  .next ({ s with host := { s.host with perstLow := false } } : State).startTraining

/-- A write of 1 to HOST_LINK.release (17_host R420): the rings that were enabled become halted. -/
def State.release (s : State) : State :=
  if s.host.frozen && s.releaseReady then
    let rs := s.host.rings.map (·.1)
    let s := { s with host := { s.host with frozen := false } }
    (rs.foldl (fun (s : State) r => s.modDma r fun d =>
      { d with frozen := false, halted := d.halted || d.enable, haltCode := if d.enable then 0 else d.haltCode }) s).settleSwaps
  else s
/-- `HOST_LINK_RELEASE`. -/
def execHostLinkRelease (s : State) : Ans := .next s.release

/-! ### Configuration space -/

/-- A function that the link reaches: the physical one, and the virtual ones while VF Enable is set (17_host R411, R413). -/
def State.fnPresent (s : State) (n : Nat) : Bool := s.host.gen != 0 && (n == 0 || s.host.vfEnable)

/-- A write of one field of a function's configuration space (17_host R412 to R414, R418, R420; log entry 5). -/
def State.cfgWrite (s : State) (n : Nat) (f : CfgField) (v : Nat) : State :=
  if !s.fnPresent n then s
  else
    match f with
    | .completionTimeout => if n = 0 then { s with host := { s.host with ctVal := BitVec.ofNat 4 v } } else s
    | .barSize =>
      if n = 0 ∧ !(s.fn 0).memSpace ∧ 10 ≤ v % 64 ∧ v % 64 ≤ 22 then { s with host := { s.host with barLog2 := v % 64 + 20 } } else s
    | .busMasterEnable => s.modFn n fun x => { x with busMaster := bitAt v 0 }
    | .vfEnable =>
      if n ≠ 0 then s
      else if bitAt v 0 then { s with host := { s.host with vfEnable := true } }
      else s.vfClear
    | .relaxedOrdering => s.modFn n fun x => { x with relaxed := bitAt v 0 }
    | .memorySpaceEnable => s.modFn n fun x => { x with memSpace := bitAt v 0 }
/-- `CONFIG_SPACE_WRITE`. -/
def execConfigSpaceWrite (fn : Fin 64) (field : CfgField) (v : BitVec 16) (s : State) : Ans :=
  .next (s.cfgWrite fn.val field v.toNat)

/-! ### Cabinet windows (17_host R416, R417) -/

/-- An instance's page takes writes: instance 0's always; another's unless it is ABSENT or FENCING (18_instances R452, R454). -/
def State.pageLive (s : State) (n : Nat) : Bool :=
  (s.inst n).st != .fencing && (n == 0 || (s.inst n).st != .absent)

/-- A write of 1 to WIN_COMMIT.commit (17_host R416). -/
def State.winCommit (s : State) (n : Nat) : State :=
  if s.pageLive n then s.modInst n fun i => { i with win := { i.win with active := i.win.stage } } else s
/-- `WIN_COMMIT`. -/
def execWinCommit (inst : Fin 64) (s : State) : Ans := .next (s.winCommit inst.val)

/-- The function of an instance answers on its BAR2 at an offset (17_host R414, Table 17.3). -/
def State.barHit (s : State) (n off len : Nat) : Bool :=
  s.fnPresent n && (s.fn n).memSpace && decide (off + len ≤ if n = 0 then 2 ^ s.host.barLog2 else 2 ^ 30)

/-- The Cabinet address of a window request (17_host R416). -/
def State.winAddr (s : State) (n off : Nat) : Nat := (s.inst n).win.active.toNat + off

/-- A request refused on an instance's window (18_instances R453). -/
def State.winDenied (s : State) (n : Nat) : State := s.modInst n fun i => { i with winDenied := i.winDenied + 1 }

/-- A read through a window (17_host Table 17.7; 18_instances R453). -/
def State.winRead (s : State) (n off len : Nat) : State :=
  let a := s.winAddr n off
  if !s.barHit n off len then s.emit (.unsupported n)
  else if !s.inDrawers n a len then (s.winDenied n).emit (.windowData n (List.replicate len 0) true)
  else if s.cab.paused then s.emit (.windowData n (List.replicate len 0) true)
  else
    let inside := min len (s.installed - a)
    let x := s.cabRead a inside
    (s.cabTouch 1 a inside).emit (.windowData n (x.1 ++ List.replicate (len - inside) 0) (x.2 || decide (inside < len)))
/-- `WINDOW_READ`. -/
def execWindowRead (inst : Fin 64) (off : BitVec 42) (len : Nat) (s : State) : Ans := .next (s.winRead inst.val off.toNat len)

/-- The bytes that a write leaves in a unit: those written, and elsewhere those stored; of an uncorrectable unit nothing is known
elsewhere (17_host R417; 14_dram R353; log entry 1). -/
def State.merge (s : State) (a : Nat) (data : List (Option Byte)) : List Byte :=
  data.mapIdx fun i b =>
    match b with
    | some v => v
    | none => if s.unitBad (a + i) then BitVec.ofNat 8 (Config.value (s.freeCtr + (a + i) % 64)) else s.cabByte (a + i)

/-- The part of a request that lies in one unit: its offset in the request and its bytes. -/
def unitParts (a : Nat) (data : List (Option Byte)) : List (Nat × List (Option Byte)) :=
  (List.range ((a + data.length + 63) / 64 - a / 64)).map fun i =>
    let lo := max a ((a / 64 + i) * 64)
    let hi := min (a + data.length) ((a / 64 + i + 1) * 64)
    (lo, (data.drop (lo - a)).take (hi - lo))

/-- A write to one unit: the state, and whether it was discarded, and whether it was discarded with an event (17_host Table 17.7). -/
def State.winUnit (x : State × Bool × Bool) (part : Nat × List (Option Byte)) : State × Bool × Bool :=
  let s := x.1
  let a := part.1
  if s.cab.paused ∨ s.installed ≤ a then (s, true, x.2.2)
  else if s.voidUnit a then (s.tick 0x91, x.2)
  else if s.hostLocked a then (s, true, true)
  else
    let u := a / 64 * 64
    let whole : List (Option Byte) :=
      List.replicate (a - u) none ++ part.2 ++ List.replicate (64 - (a - u) - part.2.length) none
    (if part.2.all (·.isNone) then s
      else (({ s with freeCtr := s.freeCtr + 64 } : State).request 1 u).cabPut u (s.merge u whole), x.2)

/-- A write through a window (17_host Table 17.7; 18_instances R453). -/
def State.winWrite (s : State) (n off : Nat) (data : List (Option Byte)) (poisoned : Bool) : State :=
  let a := s.winAddr n off
  let discard (s : State) : State := { s with host := { s.host with winDiscard := s.host.winDiscard + 1 } }
  if !s.barHit n off data.length then s
  else if !s.inDrawers n a data.length then s.winDenied n
  else if poisoned then discard s
  else
    let x := (unitParts a data).foldl State.winUnit (s, false, false)
    let s := if x.2.1 then discard x.1 else x.1
    if x.2.2 then s.raise 1280 else s
/-- `WINDOW_WRITE`. -/
def execWindowWrite (inst : Fin 64) (off : BitVec 42) (data : List (Option Byte)) (poisoned : Bool) (s : State) : Ans :=
  .next (s.winWrite inst.val off.toNat data poisoned)

end Sys2Proof.Machine
end

