-- ==== Sys2Proof/Machine/Prefix.lean ====
section
/-!
DEFINITION. The prefix table: its rows and units, its zones and shims, the insert and delete algorithms and the re-layout
(07_match R188 to R193; 08_tables R206 to R209, R223).

A single-region row holds the image of its entry. Of a pair unit, row 2u holds prefix bits [127:64] and row 2u + 1 the rest
of the entry; each has its pair_stamp in bit 256 and a mark that it was written in bit 257. A zone is a half-open span of
units of its region.
-/

namespace Sys2Proof.Machine

/-- Rows of a prefix table. -/
def prefixRows : Nat := 262144

/-- length (08_tables Table 8.3). -/
def pfxLength (e : Image) : Nat := fld e 128 8
/-- family: IPv6 (08_tables Table 8.3). -/
def pfxV6 (e : Image) : Bool := bitAt e 136
/-- valid (08_tables Table 8.3). -/
def pfxValid (e : Image) : Bool := bitAt e 137
/-- The bit of a generation (08_tables Table 8.3). -/
def pfxGen (e : Image) (gen : Bool) : Bool := bitAt e (138 + b1 gen)
/-- The entry goes to the pair region: IPv6 longer than /64 (07_match R188). -/
def pfxPair (e : Image) : Bool := pfxV6 e && decide (64 < pfxLength e)
/-- prefix, length, family, gen_a and gen_b: what makes two entries equal (07_match R190). -/
def pfxKey (e : Image) : Nat := fld e 0 137 + fld e 138 2 * 2 ^ 138

/-- The zone of an entry in its region (07_match R188): /128 to /65; IPv6 /64 to /0, then IPv4 /32 to /0. -/
def pfxZone (e : Image) : Nat :=
  if pfxPair e then 128 - pfxLength e else if pfxV6 e then 64 - pfxLength e else 97 - pfxLength e

/-- Zones of a region. -/
def zoneCount (pair : Bool) : Nat := if pair then 64 else 98

/-- A row of the prefix table in a copy. -/
def pfxRow (t : Tbl Nat) (row : Nat) : Nat := ent t (tkey 2 0 row)

/-- A pair unit is whole: both rows are written and their stamps are equal (08_tables R207). -/
def pairWhole (t : Tbl Nat) (u : Nat) : Bool :=
  bitAt (pfxRow t (2 * u)) 257 && bitAt (pfxRow t (2 * u + 1)) 257 &&
    bitAt (pfxRow t (2 * u)) 256 == bitAt (pfxRow t (2 * u + 1)) 256

/-- The entry that a unit of a copy holds. -/
def unitEntry (t : Tbl Nat) (pair : Bool) (pairRows u : Nat) : Image :=
  if pair then pfxRow t (2 * u + 1) % 2 ^ 256 + fld (pfxRow t (2 * u)) 0 64 * 2 ^ 64 else pfxRow t (pairRows + u)

/-- A unit is no shim: its valid bit is set (07_match R188). -/
def unitTaken (t : Tbl Nat) (pair : Bool) (pairRows u : Nat) : Bool :=
  pfxValid (if pair then pfxRow t (2 * u + 1) else pfxRow t (pairRows + u))

/-- The control row of a pair unit, or a single row, as a copy takes it: the pair_stamp is left as it stands (08_tables R207; 07_match
R190). -/
def controlRows (t : Tbl Nat) (pair : Bool) (pairRows u : Nat) (e : Image) : List (Nat × Nat) :=
  if pair then
    [(tkey 2 0 (2 * u + 1),
      e % 2 ^ 64 + fld e 128 128 * 2 ^ 128 + b1 (bitAt (pfxRow t (2 * u + 1)) 256) * 2 ^ 256 + 2 ^ 257)]
  else [(tkey 2 0 (pairRows + u), e)]

/-- The rows of a unit as a copy takes them (08_tables R209): of a pair unit row 2u first, with the inverse of the stamp that row
2u + 1 holds, then row 2u + 1 with the same stamp. -/
def unitWrites (t : Tbl Nat) (pair : Bool) (pairRows u : Nat) (e : Image) : List (Nat × Nat) :=
  if pair then
    let stamp := b1 (!bitAt (pfxRow t (2 * u + 1)) 256)
    [(tkey 2 0 (2 * u), fld e 64 64 + stamp * 2 ^ 256 + 2 ^ 257),
      (tkey 2 0 (2 * u + 1), e % 2 ^ 64 + fld e 128 128 * 2 ^ 128 + stamp * 2 ^ 256 + 2 ^ 257)]
  else [(tkey 2 0 (pairRows + u), e)]

/-- The rows that a unit takes. -/
def unitRows (pair : Bool) (pairRows u : Nat) : List Nat := if pair then [2 * u, 2 * u + 1] else [pairRows + u]

/-! ### Every copy of configured state -/

/-- Entries of a table, and so of its last repair block (15_commands Table 15.11). -/
def tableSize (code : Nat) : Nat :=
  [0, 65536, 262144, 1048576, 32768, 256, 256, 16, 8192, 16384, 1, 4096, 4096, 1, 8192, 4096, 16, 65536, 8192, 512, 1, 1, 65,
   8192, 512, 512, 8192, 512].getD code 0

/-- The repair block of an entry (08_tables R226). -/
def blockKey (code gen idx : Nat) : Nat := tkey code gen (idx / 64)

/-- A master entry has been written, to both of its copies in D0, which replaces what was uncorrectable there (14_dram R341, R353): the
mark of a damaged block clears when all of its entries have been rewritten (08_tables R228). -/
def State.rewritten (s : State) (code gen idx : Nat) : State :=
  let b := blockKey code gen idx
  let a := d0Unit (tkey code gen idx)
  let all (l : List Nat) : Bool := min 64 (tableSize code - idx / 64 * 64) ≤ l.length
  { s with
    cab := { s.cab with bad := unmark (unmark s.cab.bad (a / 64)) (d0Second a / 64) }
    tables := { s.tables with
      damaged := (s.tables.damaged.map fun d => if d.1 = b then (d.1, mark d.2 idx) else d).filter fun d => !(d.1 == b && all d.2) } }

/-- A write to what the old generation reads, between the execution of a GEN_SWAP and its OK reply: forwarding results of
frames pinned to that generation are unpredictable from here on (08_tables R231). -/
def State.loosen (s : State) (hits : Bool → Bool) : State :=
  match s.tables.swap with
  | some w => if hits (!w.newGen) then { s with tables := { s.tables with swap := some { w with loose := true } } } else s
  | none => s

/-! ### Zones -/

/-- The zone spans of a region. -/
def State.zones (s : State) (pair : Bool) : List (Nat × Nat) := if pair then s.tables.pairZones else s.tables.singleZones

/-- The zone spans of a region replaced. -/
def State.setZones (s : State) (pair : Bool) (z : List (Nat × Nat)) : State :=
  if pair then { s with tables := { s.tables with pairZones := z } } else { s with tables := { s.tables with singleZones := z } }

/-- A unit of a region written in every copy; R209 gives its slots. -/
def State.writeUnit (s : State) (pair : Bool) (u : Nat) (e : Image) : State :=
  let s := s.writeCopies fun t => unitWrites t pair s.tables.pairRows u e
  (unitRows pair s.tables.pairRows u).foldl (fun (s : State) r => s.rewritten 2 0 r) s

/-- A control row or single row written in every copy. -/
def State.writeControl (s : State) (pair : Bool) (u : Nat) (e : Image) : State :=
  let s := s.writeCopies fun t => controlRows t pair s.tables.pairRows u e
  (unitRows pair s.tables.pairRows u).foldl (fun (s : State) r => s.rewritten 2 0 r) s

/-- The entry of a unit in the master, by which the command engine runs its algorithm (07_match R190). -/
def State.unitOf (s : State) (pair : Bool) (u : Nat) : Image := unitEntry s.tables.master pair s.tables.pairRows u

/-- A unit of a region is no shim, by the master. -/
def State.taken (s : State) (pair : Bool) (u : Nat) : Bool := unitTaken s.tables.master pair s.tables.pairRows u

/-- The first shim from a unit on, before an end; `n` bounds the search. -/
def State.shimFrom (s : State) (pair : Bool) (u hi : Nat) : Nat → Option Nat
  | 0 => none
  | n + 1 => if hi ≤ u then none else if s.taken pair u then s.shimFrom pair (u + 1) hi n else some u

/-- The lowest shim of a zone: no more units than listed rows can be taken (07_match R190: shim_in). -/
def State.shimIn (s : State) (pair : Bool) (z : Nat) : Option Nat :=
  let span := (s.zones pair).getD z (0, 0)
  s.shimFrom pair span.1 span.2 (s.tables.master.length + 1)

/-- The valid unit of an entry's zone that equals it (07_match R190: equal_unit), by the rows that are listed. -/
def State.equalUnit (s : State) (e : Image) : Option Nat :=
  let pair := pfxPair e
  let span := (s.zones pair).getD (pfxZone e) (0, 0)
  let us := (s.tables.master.filter fun x => tkeyCode x.1 == 2).map fun x =>
    if pair then x.1 % 2 ^ 32 / 2 else x.1 % 2 ^ 32 - s.tables.pairRows
  us.find? fun u => decide (span.1 ≤ u) && decide (u < span.2) && s.taken pair u && pfxKey (s.unitOf pair u) == pfxKey e

/-- One turn of the loop of R190: the shim at unit `h` of zone `z` passes to the neighbouring zone toward `t`. The answer
is the unit at the zone's edge and the new spans. -/
def passShim (zones : List (Nat × Nat)) (t z : Nat) : Nat × List (Nat × Nat) :=
  let span := zones.getD z (0, 0)
  if t < z then
    let s := span.1
    (s, (zones.set z (s + 1, span.2)).set (z - 1) ((zones.getD (z - 1) (0, 0)).1, s + 1))
  else
    let s := span.2 - 1
    (s, (zones.set z (span.1, s)).set (z + 1) (s, (zones.getD (z + 1) (0, 0)).2))

/-- The zone after one turn. -/
def nextZone (t z : Nat) : Nat := if t < z then z - 1 else z + 1

/-- A turn moves the edge entry: the edge is taken and is not the unit that the shim stands at. -/
def State.turnMoves (s : State) (pair : Bool) (edge h : Nat) : Bool := edge != h && s.taken pair edge

/-- The moves that an insertion needs with the shim of zone `z` (07_match R190, R192). -/
def State.movesFrom (s : State) (pair : Bool) (t : Nat) : Nat → List (Nat × Nat) → Nat → Nat → Nat
  | 0, _, _, _ => 0
  | n + 1, zones, z, h =>
    if z = t then 0
    else
      let x := passShim zones t z
      b1 (s.turnMoves pair x.1 h) + s.movesFrom pair t n x.2 (nextZone t z) x.1

/-- The zone whose shim costs the fewest moves, its shim and those moves; on a tie the zone at lower rows (07_match R190:
nearest_shim_zone). -/
def State.nearestShim (s : State) (pair : Bool) (t : Nat) : Option (Nat × Nat × Nat) :=
  (List.range (zoneCount pair)).foldl (fun (best : Option (Nat × Nat × Nat)) z =>
    match s.shimIn pair z with
    | none => best
    | some h =>
      let c := s.movesFrom pair t (zoneCount pair) (s.zones pair) z h
      match best with
      | some (_, _, b) => if c < b then some (z, h, c) else best
      | none => some (z, h, c)) none

/-- The loop of R190 carried out: to its end, or, when `part` is set, until `k` moves are completed, each of which is a
commit point (R193). The answer is the unit to which the shim has come. -/
def State.walkShim (s : State) (pair : Bool) (t : Nat) (part : Bool) : Nat → Nat → Nat → Nat → State × Nat
  | 0, _, h, _ => (s, h)
  | n + 1, z, h, k =>
    if z = t ∨ (part ∧ k = 0) then (s, h)
    else
      let x := passShim (s.zones pair) t z
      if s.turnMoves pair x.1 h then
        ((s.writeUnit pair h (s.unitOf pair x.1)).setZones pair x.2).walkShim pair t part n (nextZone t z) x.1 (k - 1)
      else (s.setZones pair x.2).walkShim pair t part n (nextZone t z) x.1 k

/-- How an insertion goes: the unit rewritten in place; or the zone and unit of the shim used, and its moves; or no shim. -/
inductive InsertPlan where
  | inPlace (u : Nat)
  | withShim (z h moves : Nat)
  | full
deriving DecidableEq, Repr

/-- The plan of an insertion (07_match R190). -/
def State.insertPlan (s : State) (e : Image) : InsertPlan :=
  let pair := pfxPair e
  match s.equalUnit e with
  | some u => .inPlace u
  | none =>
    match s.shimIn pair (pfxZone e) with
    | some h => .withShim (pfxZone e) h 0
    | none =>
      match s.nearestShim pair (pfxZone e) with
      | some (z, h, m) => .withShim z h m
      | none => .full

/-- The final write of an insertion. -/
def State.insertAll (s : State) (e : Image) (z h : Nat) : State :=
  let pair := pfxPair e
  let x := s.walkShim pair (pfxZone e) false (zoneCount pair) z h 0
  x.1.writeUnit pair x.2 e

/-- An insertion stopped after `k` completed moves (07_match R193). -/
def State.insertPart (s : State) (e : Image) (z h k : Nat) : State :=
  (s.walkShim (pfxPair e) (pfxZone e) true (zoneCount (pfxPair e)) z h k).1

/-- A prefix entry that commands may not carry (08_tables R204, R206). -/
def pfxBad (e : Image) : Bool :=
  let w := if pfxV6 e then 128 else 32
  decide (w < pfxLength e) || fld e 0 128 / 2 ^ w != 0 || fld e 0 (w - min w (pfxLength e)) != 0 ||
    (!bitAt e 161 && decide (511 < fld e 162 16)) || fld e 140 20 != 0 || fld e 192 64 != 0

/-! ### Re-layout (07_match R189; 08_tables R223) -/

/-- A row was written as part of a pair unit. -/
def rowOfPair (t : Tbl Nat) (row : Nat) : Bool := bitAt (pfxRow t row) 257

/-- The entry that a valid row of the master ends, with the first row of its unit: a single row, or the control row of a whole pair
unit. -/
def rowEntry (t : Tbl Nat) (row : Nat) : Option (Bool × Nat × Image) :=
  if !pfxValid (pfxRow t row) then none
  else if !rowOfPair t row then some (false, row, pfxRow t row)
  else if row % 2 = 1 ∧ pairWhole t (row / 2) then some (true, row - 1, unitEntry t true 0 (row / 2))
  else none

/-- The rows of the prefix table that a copy lists, rising. -/
def prefixListed (t : Tbl Nat) : List Nat := (t.filter fun x => tkeyCode x.1 == 2).map fun x => x.1 % 2 ^ 32

/-- The units of the master that hold entries, in ascending row order: pair or single, first row and entry. -/
def State.listed (s : State) : List (Bool × Nat × Image) := (prefixListed s.tables.master).filterMap (rowEntry s.tables.master)

/-- The first of each run of equal entries: another copy is a stale duplicate. -/
def firstCopies : List (Bool × Nat × Image) → List Nat → List (Bool × Nat × Image)
  | [], _ => []
  | x :: r, seen => if seen.contains (pfxKey x.2.2) then firstCopies r seen else x :: firstCopies r (pfxKey x.2.2 :: seen)

/-- The units that the entries of one zone take from a unit on, one shim after every `k` entries; `i` counts the entries
since the last shim. The answer ends with the unit after the zone. -/
def layZone (k : Nat) : Nat → Nat → Nat → List Nat × Nat
  | 0, _, u => ([], u)
  | n + 1, i, u =>
    if i + 1 = k then
      let x := layZone k n 0 (u + 2)
      (u :: x.1, x.2)
    else
      let x := layZone k n (i + 1) (u + 1)
      (u :: x.1, x.2)

/-- The new places of a region's entries and its new zone spans, from the number of entries of each zone. -/
def layRegion (k : Nat) : List Nat → Nat → List Nat × List (Nat × Nat)
  | [], _ => ([], [])
  | n :: r, u =>
    let x := layZone k n 0 u
    let y := layRegion k r x.2
    (x.1 ++ y.1, (u, x.2) :: y.2)

/-- The last zone of a region reaches to its end. -/
def lastZone (zones : List (Nat × Nat)) (units : Nat) : List (Nat × Nat) :=
  zones.set (zones.length - 1) ((zones.getD (zones.length - 1) (0, 0)).1, units)

/-- One unit write of a re-layout: a move of an entry to a new row, the write of an entry whose row stays, or a clear of a row that
holds a stale duplicate. -/
inductive LayStep where
  | move (pair : Bool) (row : Nat) (e : Image)
  | stay (pair : Bool) (row : Nat) (e : Image)
  | clear (row : Nat)
deriving DecidableEq, Repr

/-- A re-layout planned: the new zone spans and the unit writes in their order, or nothing when the entries do not fit. -/
structure Layout where
  pairZones : List (Nat × Nat)
  singleZones : List (Nat × Nat)
  steps : List LayStep

/-- The first row of a unit under a pair_rows value. -/
def unitRow (pair : Bool) (pairRows u : Nat) : Nat := if pair then 2 * u else pairRows + u

/-- An entry that a re-layout places: its old first row, its new one, its region and itself. -/
abbrev Place := Nat × Nat × Bool × Image

/-- The write that brings an entry to its place (08_tables R223): an entry whose row stays is rewritten as an insertion rewrites one
in place (07_match R190), so that its unit stays whole. -/
def placeStep (x : Place) : LayStep := if x.1 = x.2.1 then .stay x.2.2.1 x.2.1 x.2.2.2 else .move x.2.2.1 x.2.1 x.2.2.2

/-- The plan of a re-layout (08_tables R223): entries whose new row lies at or below the old one in ascending order, then the others in
descending order, then the clears. -/
def State.layout (s : State) (pairRows interval : Nat) : Option Layout :=
  let kept := firstCopies s.listed []
  let zoned (pair : Bool) (z : Nat) : List (Bool × Nat × Image) := kept.filter fun x => x.1 == pair && pfxZone x.2.2 == z
  let counts (pair : Bool) : List Nat := (List.range (zoneCount pair)).map fun z => (zoned pair z).length
  let lp := layRegion (interval - 1) (counts true) 0
  let ls := layRegion (interval - 1) (counts false) 0
  let pu := pairRows / 2
  let su := prefixRows - pairRows
  if pu < (lp.2.getD 63 (0, 0)).2 ∨ su < (ls.2.getD 97 (0, 0)).2 then none
  else
    let placed (pair : Bool) (units : List Nat) : List Place :=
      (((List.range (zoneCount pair)).flatMap (zoned pair)).zip units).map fun x =>
        (x.1.2.1, unitRow pair pairRows x.2, pair, x.1.2.2)
    let places := placed true lp.1 ++ placed false ls.1
    let down := places.filter fun x => decide (x.2.1 ≤ x.1)
    let up := (places.filter fun x => decide (x.1 < x.2.1)).reverse
    let targets := places.flatMap fun x => if x.2.2.1 then [x.2.1, x.2.1 + 1] else [x.2.1]
    let stale := (prefixListed s.tables.master).filter fun r => pfxValid (pfxRow s.tables.master r) && !targets.contains r
    some {
      pairZones := lastZone lp.2 pu
      singleZones := lastZone ls.2 su
      steps := (down ++ up).map placeStep ++ stale.map LayStep.clear }

/-- One unit write of a re-layout in every copy. -/
def State.layStep (s : State) (x : LayStep) : State :=
  match x with
  | .move pair row e =>
    let s := s.writeCopies fun t => unitWrites t pair 0 (if pair then row / 2 else row) e
    (if pair then [row, row + 1] else [row]).foldl (fun (s : State) r => s.rewritten 2 0 r) s
  | .stay pair row e =>
    let s := s.writeCopies fun t => controlRows t pair 0 (if pair then row / 2 else row) e
    (if pair then [row, row + 1] else [row]).foldl (fun (s : State) r => s.rewritten 2 0 r) s
  | .clear r => (s.writeCopies fun t => [(tkey 2 0 r, setFld (pfxRow t r) 137 1 0)]).rewritten 2 0 r

/-- The zone spans of a region that follow from where its entries stand (zone and unit of each): a zone runs from the lowest unit of its
own and of later zones' entries to the next zone's start, and what lies behind the last entry is the last zone's. -/
def spansOf (zones units : Nat) (at_ : List (Nat × Nat)) : List (Nat × Nat) :=
  let behind := (at_.map fun x => x.2 + 1).max?.getD 0
  let start (z : Nat) : Nat := if z = 0 then 0 else ((at_.filter fun x => decide (z ≤ x.1)).map (·.2)).min?.getD behind
  (List.range zones).map fun z => (start z, if z + 1 = zones then units else start (z + 1))

/-- A re-layout that stopped between its units (08_tables R223; log entry 109): the table is sound, and pair_rows, as near to what was
asked as the entries' rows allow, and the zones follow from where the entries stand. -/
def State.partLaid (s : State) (pairRows : Nat) : State :=
  let l := s.listed
  let low := ((l.filter (·.1)).map fun x => x.2.1 + 2).max?.getD 0
  let high := ((l.filter fun x => !x.1).map fun x => x.2.1 / 2 * 2).min?.getD prefixRows
  let p := max low (min pairRows high)
  { s with tables := { s.tables with
    pairRows := p
    pairZones := spansOf 64 (p / 2) ((l.filter (·.1)).map fun x => (pfxZone x.2.2, x.2.1 / 2))
    singleZones := spansOf 98 (prefixRows - p) ((l.filter fun x => !x.1).map fun x => (pfxZone x.2.2, x.2.1 - p)) } }

end Sys2Proof.Machine
end

