-- ==== Sys2Proof/Machine/TblChecks.lean ====
section
/-!
DEFINITION. The table commands' formats: the header rules of 15_commands R384 with Table 15.11, and the content rules of each
table's owning chapter (06_templates R156, R167, R168; 07_match R182, R195 to R197; 08_tables R204, R206, R210 to R213;
09_feeds R237; 10_buffer R259 to R264; 11_pool R291; 12_egress R297, R305).
-/

namespace Sys2Proof.Machine

/-- A reserved field that is not zero: a bit outside the mask is set. -/
def hasReserved (e mask : Nat) : Bool := e &&& mask != e

/-- A table destination that commands may not carry (08_tables R204). -/
def destBad (e : Nat) : Bool := !bitAt e 1 && decide (511 < fld e 2 16)

/-- An action word that commands may not carry (07_match R182). -/
def actionBad (a : Nat) : Bool :=
  decide (4 ≤ fld a 0 3) || bitAt a 24 || fld a 25 2 == 3 || fld a 52 2 == 3 || bitAt a 54 || bitAt a 63 ||
    (fld a 0 3 == 0 && !bitAt a 3 && decide (8191 < fld a 4 16)) || (fld a 55 2 == 2 && bitAt a 61)

/-! ### Templates (06_templates R156) -/

/-- A key selector: its position. -/
def keyPos (t : Image) (lo : Nat) : Nat := fld t lo 9
/-- A key selector: enabled. -/
def keyOn (t : Image) (lo : Nat) : Bool := bitAt t (lo + 15)
/-- l3_type of a template. -/
def tmplL3 (t : Image) : Nat := fld t 80 2
/-- Bits of a template's prefix key (06_templates R168). -/
def prefixKeyBits (t : Image) : Nat := if tmplL3 t = 1 then 32 else 128

/-- A term of Tables 6.2 and 6.3 is illegal; `extra` are the bits of its byte 1 that are in use. -/
def termBad (w extra : Nat) : Bool :=
  hasReserved w (bits 0 8 + bits 8 extra + bits 16 32) || fld w 0 8 == 255 || hasReserved (fld w 32 16) (fld w 16 16)

/-- A length check of Table 6.4 is illegal. -/
def lengthCheckBad (w : Nat) : Bool := hasReserved w (bits 0 13 + bits 16 16) || fld w 0 8 == 255 || decide (4 < fld w 10 3)

/-- An extraction of Table 6.5 is illegal (06_templates R167). -/
def extractBad (w : Nat) : Bool :=
  let width := fld w 11 6 + 1
  hasReserved w (bits 0 27 + bits 31 1) ||
    (bitAt w 31 && (decide (2048 < fld w 0 8 * 8 + fld w 8 3 + width) || decide (320 < fld w 18 9 + width) ||
      (bitAt w 17 && (width % 8 != 0 || fld w 8 3 != 0))))

/-- The fields of a descriptor's first 32 bytes that are not reserved (06_templates Table 6.1). -/
def tmplHeadBits : Nat := bits 0 21 + bits 24 5 + bits 32 48 + bits 80 5 + bits 88 32 + bits 128 9 + bits 143 10 + bits 159 10 +
  bits 175 81

/-- A descriptor that TBL_WRITE refuses (06_templates R156). -/
def templateBad (idx : Nat) (t : Image) : Bool :=
  fld t 0 8 != idx || fld t 9 2 == 3 || fld t 11 2 == 3 || hasReserved (fld t 0 256) tmplHeadBits ||
    decide (fld t 48 16 < fld t 32 16) || decide (511 < fld t 48 16) || decide (fld t 64 16 < 64) || decide (10240 < fld t 64 16) ||
    tmplL3 t == 3 || decide (2 ≤ fld t 104 2) || decide (2 ≤ fld t 106 2) || fld t 108 2 == 3 || fld t 110 2 == 3 ||
    ((fld t 82 2 == 1 || fld t 82 2 == 2) && tmplL3 t == 0) ||
    (keyOn t 128 && decide (320 < keyPos t 128 + 60)) ||
    (keyOn t 144 && (tmplL3 t == 0 || decide (320 < keyPos t 144 + prefixKeyBits t))) ||
    (keyOn t 160 && decide (320 < keyPos t 160 + 20)) || actionBad (fld t 192 64) ||
    ((List.range 8).any fun i => termBad (fld t (256 + 64 * i) 64) 0) ||
    ((List.range 4).any fun i => termBad (fld t (768 + 64 * i) 64) 2) ||
    ((List.range 2).any fun i => lengthCheckBad (fld t (1024 + 64 * i) 64)) || fld t 1152 896 != 0 ||
    (List.range 64).any fun i => extractBad (fld t (2048 + 32 * i) 32)

/-! ### The other tables -/

/-- A program directory entry that TBL_WRITE refuses (07_match R195). -/
def programBad (e : Image) : Bool :=
  hasReserved e (bits 0 5 + bits 16 13 + bits 32 9 + bits 48 9 + bits 64 13 + bits 80 13 + bits 96 14 + bits 112 14) ||
    decide (fld e 48 9 < fld e 32 9) || decide (fld e 80 13 < fld e 64 13) || decide (fld e 112 14 < fld e 96 14) ||
    decide (fld e 16 13 < fld e 64 13) || decide (fld e 80 13 < fld e 16 13)

/-- A state entry that TBL_WRITE refuses (07_match R197). -/
def stateBad (e : Image) : Bool :=
  decide (16320 < fld e 0 14) || bitAt e 27 != (fld e 28 12 != 0) || fld e 48 16 != 0

/-- A gate control list that TBL_WRITE refuses (12_egress R305). -/
def gatesBad (g : Image) : Bool :=
  hasReserved (fld g 0 256) (bits 0 96 + bits 128 8) || decide (10 ^ 9 ≤ fld g 16 32) ||
    ((List.range 64).any fun k =>
      fld g (256 + 64 * k + 16) 16 != 0 || (decide (gateCount g ≤ k) && fld g (256 + 64 * k) 64 != 0)) ||
    (gateEnabled g && (gateCount g == 0 || decide (64 < gateCount g) ||
      ((List.range (gateCount g)).any fun k => decide (gateInterval g k < 16) || decide (10 ^ 9 < gateInterval g k)) ||
      decide (gateCycleNs g < 1000) || decide (10 ^ 9 < gateCycleNs g)))

/-- The content of an entry's data part that a write refuses with BAD_LENGTH, table by table. -/
def contentBad (code idx : Nat) (e : Image) : Bool :=
  if code = 0x01 then destBad e || bitAt e 18 || bitAt e 47
  else if code = 0x02 then pfxBad e
  else if code = 0x03 then destBad e || fld e 28 36 != 0
  else if code = 0x04 then actionBad (fld e 0 64) || fld e 67 61 != 0
  else if code = 0x05 then templateBad idx e
  else if code = 0x06 then programBad e
  else if code = 0x07 then (List.range 256).any fun i => fld e (8 * i + 6) 2 != 0
  else if code = 0x08 then stateBad e
  else if code = 0x09 then fld e 27 37 != 0
  else if code = 0x0A then fld e 549 27 != 0 || decide (fld e 528 16 < fld e 512 16)
  else if code = 0x0B then
    hasReserved e (bits 0 7 + bits 16 9 + bits 32 24) ||
      (bitAt e 1 && (decide (fld e 16 9 < 64) || decide (320 < fld e 16 9 + (if bitAt e 2 then 16 else 8)))) ||
      (bitAt e 0 && decide (fld e 32 16 < 20)) || (decide (1 ≤ fld e 48 8) && decide (fld e 48 8 ≤ 10)) || decide (63 < fld e 48 8)
  else if code = 0x0D then
    hasReserved e (bits 0 20 + bits 32 20 + bits 64 20 + bits 96 20 + bits 128 20 + bits 160 32) || fld e 160 32 == 0
  else if code = 0x0E then hasReserved e (bits 0 13 + bits 16 36) || decide (10 < fld e 2 4)
  else if code = 0x0F then hasReserved e (bits 0 1 + bits 16 48) || decide (fld e 16 16 < fld e 32 16)
  else if code = 0x10 then
    fld e 196 60 != 0 || (List.range 3).any fun c =>
      let w := fld e (64 * c) 64
      fld w 49 15 != 0 || decide (fld w 20 20 < fld w 0 20) || decide (256 < fld w 40 9)
  else if code = 0x11 then fld e 517 123 != 0
  else if code = 0x14 then fld e 65 447 != 0
  else if code = 0x17 then
    hasReserved e (bits 0 5 + bits 16 72) || fld e 16 16 == 0 || decide (0x14000000 < fld e 32 32)
  else if code = 0x18 then hasReserved e (bits 0 1 + bits 32 56) || decide (0x14000000 < fld e 32 32)
  else if code = 0x19 then gatesBad e
  else false

/-- The commands of 15_commands R384. -/
inductive TblOp where
  | write | pair | read | move | bulk
deriving DecidableEq, Repr

/-- Entry bytes, key bytes and commands of a table (15_commands Table 15.11); no entry for an unknown code. -/
def tableSpec (code : Nat) : Option (Nat × Nat × List TblOp) :=
  let w : List TblOp := [.write, .read]
  let wb : List TblOp := [.write, .read, .bulk]
  [none, some (8, 8, [TblOp.pair, .write, .read]), some (32, 0, wb), some (16, 0, wb), some (16, 80, [.pair, .write, .move, .read]),
   some (512, 0, w), some (16, 0, w), some (256, 0, w), some (8, 0, wb), some (8, 0, wb), some (72, 0, w), some (16, 0, w),
   some (320, 0, [.read]), some (64, 0, w), some (8, 0, wb), some (8, 0, wb), some (32, 0, w), some (80, 0, wb),
   some (40, 0, [.read]), some (96, 0, [.read]), some (64, 0, [.write]), some (256, 0, [.read]), some (24, 0, [.read]),
   some (16, 0, wb), some (16, 0, w), some (544, 0, w), some (32, 0, [.read]), some (64, 0, [.read])].getD code none

/-- Tables that have replicas in each quad (15_commands Table 15.11). -/
def replicated (code : Nat) : Bool := decide (1 ≤ code) && decide (code ≤ 0x0A)

/-- The header and the length of a table command are as R384 and Table 15.10 demand. -/
def headerOk (op : TblOp) (ps : List Byte) : Bool :=
  let h := tblHeader ps
  match tableSpec h.table with
  | none => false
  | some (size, key, ops) =>
    let n := ps.length - 16
    decide (16 ≤ ps.length) && ops.contains op && !h.reserved &&
      (h.source == 0 || (op == .read && replicated h.table && decide (h.source ≤ 4))) && (h.gen == 0 || h.table == 0x05) &&
      (h.form == 0 || (h.form == 1 && h.table == 0x02 && (op == .write || op == .bulk))) &&
      decide (h.index < tableSize h.table) && (op == .move || op == .bulk || h.aux == 0) &&
      (h.table != 0x02 || op == .read || h.index == 0) &&
      (match op with
       | .write => n == size
       | .pair => n == key + size
       | .read => n == 0
       | .move => n == 0 && decide (h.aux < tableSize h.table)
       | .bulk =>
         if h.form = 1 then
           n == 0 && fld h.aux 18 6 == 0 && h.aux % 2 == 0 && decide (fld h.aux 0 18 ≤ 131072) &&
             [8, 16, 32, 64, 128].contains (fld h.aux 24 8)
         else n == h.aux * size && (h.table == 0x02 || decide (h.index + h.aux ≤ tableSize h.table)))

/-- The index of a prefix entry names a unit's first row: in the pair region it is even (15_commands Table 15.11). -/
def State.readIndexOk (s : State) (h : TblHeader) : Bool :=
  h.table != 0x02 || decide (s.tables.pairRows ≤ h.index) || h.index % 2 == 0

/-- The data part of the entry that a write carries. -/
def writtenData (ps : List Byte) : Image :=
  match tableSpec (tblHeader ps).table with
  | some (size, _, _) => le (sliceAt ps 16 size)
  | none => 0

/-- The format of TBL_WRITE, content included. -/
def wfTblWrite (ps : List Byte) (_ : State) : Bool :=
  headerOk .write ps && !contentBad (tblHeader ps).table (tblHeader ps).index (writtenData ps)

/-- The key part of a TBL_PAIR_WRITE. -/
def pairKey (ps : List Byte) : Image :=
  match tableSpec (tblHeader ps).table with
  | some (_, key, _) => le (sliceAt ps 16 key)
  | none => 0
/-- The data part of a TBL_PAIR_WRITE. -/
def pairData (ps : List Byte) : Image :=
  match tableSpec (tblHeader ps).table with
  | some (size, key, _) => le (sliceAt ps (16 + key) size)
  | none => 0

/-- The format of TBL_PAIR_WRITE, content included: the reserved bits of a station row are zero (08_tables Table 8.5). -/
def wfTblPairWrite (ps : List Byte) (_ : State) : Bool :=
  headerOk .pair ps && !contentBad (tblHeader ps).table (tblHeader ps).index (pairData ps) &&
    ((tblHeader ps).table != 0x01 || fld (pairKey ps) 60 3 == 0)

/-- The format of TBL_READ. -/
def wfTblRead (ps : List Byte) (s : State) : Bool := headerOk .read ps && s.readIndexOk (tblHeader ps)
/-- The format of TBL_MOVE. -/
def wfTblMove (ps : List Byte) (_ : State) : Bool := headerOk .move ps
/-- The format of TBL_BULK: header and length (08_tables R223). -/
def wfTblBulk (ps : List Byte) (_ : State) : Bool := headerOk .bulk ps

/-- Entry `i` of a TBL_BULK write. -/
def bulkEntry (ps : List Byte) (i : Nat) : Image :=
  match tableSpec (tblHeader ps).table with
  | some (size, _, _) => le (sliceAt ps (16 + size * i) size)
  | none => 0

end Sys2Proof.Machine
end

