-- ==== Sys2Proof/Machine/Boot.lean ====
section
/-!
DEFINITION. Start-up, warm reset and the test port (22_board R517 to R529; 03_islands R87; 14_dram R339, R346; 20_faults R496).
-/

namespace Sys2Proof.Machine

/-! ### The boot flash (22_board R521, R522) -/

/-- A slot's header passes: magic, part code and image length (22_board R521). -/
def slotHeaderOk (f : FlashSlot) : Bool :=
  f.magic == 0x4D495753 && f.partCode == 0x5120 && f.length % 18 == 0 && decide (f.length ≤ 14336 * 18)

/-- A slot's image passes: its key's hash is one of the ROM's and not revoked, and the signature verifies (22_board R521). -/
def imageOk (revoked : List (Fin 2)) (f : FlashSlot) : Bool :=
  (match f.keyHash with | some h => !revoked.contains h | none => false) && f.signatureOk

/-- The slot taken, 1 for A and 2 for B: the preferred one when it passes, and otherwise the other (22_board R521). -/
def chooseSlot (revoked : List (Fin 2)) (a b : FlashSlot) : Option (Nat × FlashSlot) :=
  let c := if slotHeaderOk b && (!slotHeaderOk a || decide (a.version < b.version)) then [(2, b), (1, a)] else [(1, a), (2, b)]
  c.find? fun x => slotHeaderOk x.2 && imageOk revoked x.2

/-- The image in the control store: words 0x0000 to 0x37FF in address order, and ILLEGAL words beyond (22_board R521). -/
def imageWords (f : FlashSlot) : Tbl Nat :=
  ((List.range (f.length / 18)).zip f.words).foldl (fun t x => tset 0 t x.1 (x.2 % 2 ^ 144)) []

/-- A copy of the boot configuration is valid (22_board R522, Table 22.10): its magic, and with a programmed owner key its
keyed check. That the magic is checked is read from the table (DEDUCED, log entry 40). -/
def bootCopyOk (owner : Option (List Byte)) (c : List Byte) : Bool :=
  leAt c 0 4 == 0x46435753 &&
    match owner with
    | some k => sliceAt c 0x30 16 == (hmac256 (hmac256 k [0x61, 0x75, 0x74, 0x68]) (sliceAt c 0 0x30)).take 16
    | none => true

/-- The boot configuration in force: its source, 1 copy A, 2 copy B or 0 the defaults, and its 64 bytes (22_board R522). -/
def chooseBoot (owner : Option (List Byte)) (a b : List Byte) : Nat × List Byte :=
  if bootCopyOk owner a then (1, fit 64 a)
  else if bootCopyOk owner b then (2, fit 64 b)
  else (0, patch (patch (List.replicate 64 0) 4 [1]) 0x16 [0xFF])

/-! ### The phases (22_board R524) -/

/-- The owner key in its slot as the fuses hold it (22_board R529; 15_commands R369). -/
def EnvState.ownerBytes (e : EnvState) : Option (List Byte) := e.ownerFuse.map fun k => bytesLe 32 k.toNat

/-- Phases 1 and 2: fuses and straps, process monitors and core voltage (22_board R517, R524; 20_faults R496). -/
def State.bootMonitors (s : State) (b : Board) : State :=
  { s with
    boot := { s.boot with straps := b.straps, ownerKey := s.env.ownerFuse.isSome, phase := 2 }
    cmd := { s.cmd with keys := tset KeySlot.init s.cmd.keys 0 { KeySlot.init with key := s.env.ownerBytes } }
    mon := { s.mon with process := (List.range 16).map fun k => b.process.getD k 0, avsMv := b.avsMv } }

/-- Phase 3: the control store and the boot configuration (22_board R521, R522, R524). -/
def State.bootFlash (s : State) (b : Board) : State :=
  match chooseSlot s.env.revoked b.slotA b.slotB with
  | none => { s with boot := { s.boot with phase := 3, failed := true }, flt := { s.flt with faultN := true } }
  | some (n, f) =>
    let c := chooseBoot s.env.ownerBytes b.bootA b.bootB
    { s with
      ucode := { s.ucode with words := imageWords f, version := f.version }
      cmd := { s.cmd with authAll := bitAt (byteAt c.2 4) 0 }
      mgmt := { s.mgmt with station := BitVec.ofNat 48 (leAt c.2 8 6), group := BitVec.ofNat 48 (leAt c.2 0x10 6) }
      boot := { s.boot with
        phase := 3, slot := n, configSource := c.1, serdesEnabled := BitVec.ofNat 8 (byteAt c.2 0x16), bootDone := true } }

/-- Phase 4: islands on, the management island with STRAP_MGMT_EN, BAR0 usable, and from its end commands are accepted and link training
may start (03_islands R88; 22_board R524). -/
def State.bootIslands (s : State) : State :=
  ({ s with
    mgmt := { s.mgmt with powered := s.boot.straps.getLsbD 4 }
    boot := { s.boot with phase := 4 } } : State).startTraining

/-- The device supports a DIMM (14_dram R338, Table 14.1): its SPD lists 6400 MT/s, and its capacity and its organisation are among those
listed. -/
def dimmSupported (d : Dimm) : Bool :=
  d.spd6400 && [64, 96, 128, 192, 256].contains d.capacityGib && [4, 8].contains d.width && [1, 2].contains d.packageRanks &&
    [1, 2, 4].contains d.dies

/-- A channel as its DIMM's SPD shows it (14_dram R339, R343): out of service with cause NO_DIMM or UNSUPPORTED and powered down, or in
training, with its 10 lanes of ×8 devices or 20 of ×4. -/
def chanOfDimm (d : Dimm) : Chan :=
  if !d.present then { Chan.init with st := .outOfService, cause := 1, down := true }
  else
    let c := { Chan.init with
      cap := d.capacityGib % 512, ranks := (d.packageRanks * d.dies - 1) % 8, laneCount := if d.width = 4 then 20 else 10 }
    if dimmSupported d then c else { c with st := .outOfService, cause := 2, down := true }

/-- The capacities of the DIMMs that are brought into service. -/
def inServiceGib (ds : List Dimm) : List Nat := (ds.filter fun d => d.present && dimmSupported d).map (·.capacityGib)

/-- The least of a list of capacities, zero for none. -/
def leastGib (l : List Nat) : Nat :=
  match l with
  | [] => 0
  | a :: r => r.foldl min a

/-- Phase 6 begins: the DIMMs found and the installed Cabinet, an event for a larger DIMM, and the Cabinet held paused until it
is initialised (14_dram R339, R345; 22_board R524). -/
def State.bootDram (s : State) (ds : List Dimm) : State :=
  let ds := (List.range 16).map fun k => ds.getD k { present := false, capacityGib := 0, width := 0, packageRanks := 0, dies := 0, spd6400 := false }
  let least := leastGib (inServiceGib ds)
  let s := (numbered 0 ds).foldl (fun (s : State) x => s.modChan x.1 fun _ => chanOfDimm x.2) s
  let s := { s with
    boot := { s.boot with dimms := ds }
    cab := { s.cab with installedGib := 16 * least, paused := true, initialising := true } }
  (inServiceGib ds).foldl (fun (s : State) g => if least < g then s.raise 1283 else s) s

/-- What a cold reset leaves of the machine before phase 1 (22_board Table 22.11): fuses, and outside the device the host's memory,
the level of PERST_N, the commands on their way and what has left; the counter of free values goes on. -/
def State.powerCycle (s : State) : State :=
  { State.reset with
    pending := s.pending, freeCtr := s.freeCtr, out := s.out, env := s.env
    host := { State.reset.host with mem := s.host.mem, peer := s.host.peer, perstLow := s.host.perstLow } }

/-- RESET_N rises: phases 1 to 4 run, and phases 5 to 9 go on by their own commands. With STRAP_TEST high the device does not boot
(22_board Table 22.5, R524). -/
def State.coldReset (s : State) (b : Board) : State :=
  let s := s.powerCycle
  if b.straps.getLsbD 5 then { s with boot := { s.boot with straps := b.straps } }
  else
    let s := (s.bootMonitors b).bootFlash b
    if s.boot.failed then s
    else (({ s with cmd := { s.cmd with bootNonce := b.nonce } } : State).bootIslands).bootDram b.dimms
/-- `COLD_RESET`. -/
def execColdReset (board : Board) (s : State) : Ans := .next (s.coldReset board)

/-- A SerDes group completes its 25 ms: the next enabled group in ascending order (03_islands R87; 22_board R524 phase 7). -/
def State.serdesGroup (s : State) (g : Nat) : State :=
  let b := s.boot
  if b.phase < 4 ∨ b.warmLow ∨ !b.serdesEnabled.getLsbD g ∨ b.serdesUp.getLsbD g ∨
      (List.range g).any (fun i => b.serdesEnabled.getLsbD i && !b.serdesUp.getLsbD i) then s
  else
    let s := { s with boot := { b with serdesUp := b.serdesUp ||| BitVec.ofNat 8 (2 ^ g) } }
    (List.range 8).foldl (fun (s : State) i => s.modMacro (8 * g + i) fun m => { m with serdesUp := true }) s
/-- `SERDES_GROUP_UP`. -/
def execSerdesGroupUp (g : Fin 8) (s : State) : Ans := .next (s.serdesGroup g.val)

/-- Phases 6, 7 and 8 have ended: startup_done is set (22_board R524). -/
def State.startupComplete (s : State) : State :=
  let b := s.boot
  if b.phase < 4 ∨ b.warmLow ∨ b.done ∨ b.serdesUp ≠ b.serdesEnabled ∨
      (List.range 16).any (fun k => (s.chan k).st == .training) then s
  else { s with boot := { b with done := true, phase := 10 } }
/-- `STARTUP_COMPLETE`. -/
def execStartupComplete (s : State) : Ans := .next s.startupComplete

/-! ### Warm reset (22_board R525) -/

/-- A channel through a warm reset: its DIMM and trained settings stand, its counts restart (14_dram R346; 22_board R525), and its
island stays powered down only where it was from start-up on (03_islands R88). -/
def Chan.warm (c : Chan) : Chan :=
  { c with
    down := c.cause == 1 || c.cause == 2, hot := false, temp := 0, corr := 0, uncorr := 0, lastAddr := 0, lastValid := false, errTimes := [], resweepOk := false,
    refreshes := 0, zqAt := 0, trackAt := 0, patrol := 0, queues := [], servedTo := 0 }

/-- A port through a warm reset: its configuration and calibration stand (22_board R525; 05_time R141). -/
def Port.warm (p : Port) : Port := { Port.init with cfg := p.cfg, cal := p.cal }

/-- A fault line through a warm reset: its records stand (20_faults Table 20.3; 22_board R525). -/
def FltLine.warm (n : Nat) (l : FltLine) : FltLine :=
  { fltInit n with latched := l.latched, sticky := l.sticky }

/-- An instance's definition through a warm reset (22_board R525; 18_instances R447). -/
def Inst.warm (n : Nat) (i : Inst) : Inst :=
  { Inst.init with
    st := if n = 0 ∨ i.st ≠ .absent then .active else .absent
    ringFirst := i.ringFirst, ringCount := i.ringCount, drawerMask := i.drawerMask, opcodeMask := i.opcodeMask }

/-- What a warm reset leaves (22_board R525): the survivors that it lists, with the straps, the image and the boot configuration in
force, which phases 1 to 3 gave; every other part at its reset value. Registers counted "since cold reset" are among these, as
time_set is (log entry 42). -/
def State.warmKeep (s : State) : State :=
  { State.reset with
    pending := s.pending, freeCtr := s.freeCtr, out := s.out, env := s.env
    boot := { s.boot with phase := 3, done := false, warm := true, warmLow := true, serdesUp := 0, tdo := [] }
    ports := s.ports.map fun x => (x.1, x.2.warm)
    macros := s.macros.map fun x => (x.1, { x.2 with pllFault := false, shed := false, serdesUp := false })
    mgmt := { State.reset.mgmt with station := s.mgmt.station, group := s.mgmt.group }
    tables := { State.reset.tables with
      master := s.tables.master, pairRows := s.tables.pairRows, shimInterval := s.tables.shimInterval,
      pairZones := s.tables.pairZones, singleZones := s.tables.singleZones, damaged := s.tables.damaged }
    cab := { State.reset.cab with
      mem := s.cab.mem, bad := s.cab.bad, installedGib := s.cab.installedGib, initialising := s.cab.initialising
      paused := s.cab.initialising, chans := s.cab.chans.map fun x => (x.1, x.2.warm) }
    cmd := { State.reset.cmd with
      keys := s.cmd.keys, bootNonce := s.cmd.bootNonce, authAll := s.cmd.authAll, executed := s.cmd.executed }
    ucode := { State.reset.ucode with words := s.ucode.words, version := s.ucode.version }
    host := { State.reset.host with
      mem := s.host.mem, peer := s.host.peer, perstLow := s.host.perstLow
      rings := s.host.rings.map fun x => (x.1, { DmaRing.init with owner := x.2.owner }) }
    insts := s.insts.map fun x => (x.1, x.2.warm x.1)
    portOwner := s.portOwner
    pool := { State.reset.pool with
      reqs := s.pool.reqs.map fun x => (x.1, { Requester.init with quota := x.2.quota }) }
    mon := { State.reset.mon with process := s.mon.process, avsMv := s.mon.avsMv }
    flt := { State.reset.flt with
      lines := s.flt.lines.map fun x => (x.1, x.2.warm x.1)
      overflow := s.flt.overflow, firstLine := s.flt.firstLine, firstSrc := s.flt.firstSrc, firstValid := s.flt.firstValid
      firstRound := s.flt.firstRound, gaspValid := s.flt.gaspValid, gaspCause := s.flt.gaspCause, gaspLine := s.flt.gaspLine
      gaspSrc := s.flt.gaspSrc, gaspRound := s.flt.gaspRound, thermtripN := s.flt.thermtripN, peerFault := s.flt.peerFault } }

/-- WARM_RESET_N falls: transmit stops, staging is flushed, every open EVIDENCE drawer is sealed with kind SAFE, the DIMMs go to
self-refresh, and the device resets (22_board R525; 20_faults R488). -/
def State.warmReset (s : State) : State :=
  if s.boot.phase < 4 ∨ s.boot.failed then s else (s.stopTransmit.cabinetSafe).warmKeep
/-- `WARM_RESET`. -/
def execWarmReset (at8 : Fin 3277) (s : State) : Ans := .next (s.at_ at8.val).warmReset

/-- Configured state written back from the D0 masters: every quad's replicas and current generation, every other table's working
copy, the drop generator's seed, and gate control lists as pending lists (22_board R525; 10_buffer R259; 12_egress R306; 13_cabinet R331). -/
def State.restoreTables (s : State) : State :=
  let rep := s.tables.master.filter fun x => replicated (tkeyCode x.1)
  let work := s.tables.master.filter fun x => !replicated (tkeyCode x.1) && tkeyCode x.1 != 0xF3
  let g := bitAt (s.master 0xF3 0 0) 0
  let s := { s with tables := { s.tables with
    quads := (List.range 4).map fun _ => { Quad.init with rep := rep, gen := g }
    work := work } }
  let s := { s with buf := { s.buf with lfsr := BitVec.ofNat 32 (fld (s.work 0x0D 0) 160 32) } }
  (work.filter fun x => tkeyCode x.1 == 0x19).foldl (fun (s : State) x => s.armGates (x.1 % 2 ^ 32) x.2) s

/-- A port takes up its admin_state again (22_board R525; 04_line R94, R116). -/
def State.restorePort (s : State) (lp : Nat) : State :=
  let a := s.pcfg lp 0 2
  if a = 1 then s.bringup lp else if a = 2 then s.powerOff lp .lowPower else s

/-- WARM_RESET_N rises: phases 4 to 8 run with the DRAM steps of 14_dram R346 in place of training: the DIMMs leave self-refresh and
every rank is calibrated, by the drifts that the strobe oscillators show (22_board R525). -/
def State.warmRelease (s : State) (drifts : List (Fin 16 × List Int)) : State :=
  if !s.boot.warmLow then s
  else
    let s := ({ s with boot := { s.boot with warmLow := false } } : State).restoreTables
    let s := ((s.selfRefresh false).calibrateRanks drifts).bootIslands
    (s.ports.map (·.1)).foldl (fun (s : State) lp => s.restorePort lp) s
/-- `WARM_RESET_RELEASE`. -/
def execWarmResetRelease (drifts : List (Fin 16 × List Int)) (s : State) : Ans := .next (s.warmRelease drifts)

/-! ### Test port (22_board R528, R529) -/

/-- The bits of octets, in order, each octet's least significant bit first (log entry 41). -/
def bitsOf (bs : List Byte) : List Bool := bs.flatMap fun b => (List.range 8).map fun i => b.getLsbD i

/-- OWNER_PROGRAM (22_board R529): with RESET_N low and VPP_FUSE applied the key fuses and then the lock fuse are blown, once. -/
def State.ownerProgram (s : State) (key : BitVec 256) (vpp resetLow : Bool) : State :=
  if vpp && resetLow && !s.env.lockFuse then { s with env := { s.env with ownerFuse := some key, lockFuse := true } } else s
/-- `OWNER_PROGRAM`. -/
def execOwnerProgram (key : BitVec 256) (vpp resetLow : Bool) (s : State) : Ans := .next (s.ownerProgram key vpp resetLow)

/-- OWNER_STATUS (22_board R529): the programmed bit, then the SHA-256 of the key; of no key the hash bits are open (log entry 1). -/
def State.ownerStatus (s : State) : State :=
  match s.env.ownerBytes with
  | some k => { s with boot := { s.boot with tdo := true :: bitsOf (sha256 k) } }
  | none =>
    let b := (List.range 256).map fun i => decide (Config.value (s.freeCtr + i) % 2 = 1)
    { s with freeCtr := s.freeCtr + 256, boot := { s.boot with tdo := false :: b } }
/-- `OWNER_STATUS`. -/
def execOwnerStatus (s : State) : Ans := .next s.ownerStatus

/-- BOOT_STATUS (22_board R528): the 64 bits of HOST_BOOT. -/
def State.bootStatus (s : State) : State := { s with boot := { s.boot with tdo := bitsOf (bytesLe 8 s.hostBoot) } }
/-- `BOOT_STATUS`. -/
def execBootStatus (s : State) : Ans := .next s.bootStatus

end Sys2Proof.Machine
end

