-- ==== Sys2Proof/Machine/Feeds.lean ====
section
/-!
DEFINITION. The feed arbiter (09_feeds R233 to R248): windows, sequence state, the decision, gaps and their reports, revocations,
and the changes that a mirroring primary sends.
-/

namespace Sys2Proof.Machine

/-- A count of a feed: 0 first_copy, 1 duplicate, 2 late_fill, 3 stale, 4 over_rate, 5 revoked, 6 gaps_opened, 7 gaps_filled,
8 gaps_reported, 9 messages_lost, 10 resync (09_feeds Table 9.3). -/
def State.countFeed (s : State) (f k : Nat) (n : Nat := 1) : State :=
  s.modFeed f fun x => { x with counters := tmod 0 x.counters k (· + BitVec.ofNat 64 n) }

/-- A feed's configuration entry as the arbiter holds it (09_feeds Table 9.1). -/
def State.feedCfg (s : State) (f : Nat) : Image := s.work 0x0B f

/-! ### The seen window (09_feeds R238, R239) -/

/-- The bits of `k` numbers from `first` on. -/
def runMask (first : BitVec 64) (k : Nat) : BitVec 1024 :=
  let m := (2 ^ min k 1024 - 1) * 2 ^ (first.toNat % 1024)
  BitVec.ofNat 1024 m ||| BitVec.ofNat 1024 (m / 2 ^ 1024)

/-- How far `a` lies ahead of `b`, when `b` lies behind it as a signed 64-bit difference; else 0. -/
def ahead (a b : BitVec 64) : Nat := if (b - a).toInt < 0 then (a - b).toNat else 0

/-- How many of `k` numbers from `first` on are clear. -/
def FeedState.clearIn (x : FeedState) (first : BitVec 64) (k : Nat) : Nat :=
  popCount 1024 ((~~~ x.seen) &&& runMask first k).toNat

/-- The numbers of a run that lie in the window below N: first and count. -/
def FeedState.inside (x : FeedState) (first : BitVec 64) (n : Nat) : BitVec 64 × Nat :=
  let k := n - ahead (first + BitVec.ofNat 64 n) x.n
  let below := min k (ahead (x.n - 1024) first)
  (first + BitVec.ofNat 64 below, k - below)

/-- N moved on to `e`, the numbers left behind clear. -/
def FeedState.advance (x : FeedState) (e : BitVec 64) : FeedState :=
  { x with n := e, seen := x.seen &&& ~~~ runMask x.n (ahead e x.n) }

/-- The bits of a run set, as far as they lie in the window. -/
def FeedState.setRun (x : FeedState) (first : BitVec 64) (n : Nat) : FeedState :=
  let r := x.inside first n
  { x with seen := x.seen ||| runMask r.1 r.2 }

/-- A run accepted: tracking set, N advanced, its bits set (09_feeds Table 9.2, R239). -/
def FeedState.accept (x : FeedState) (first : BitVec 64) (n : Nat) : FeedState :=
  let e := first + BitVec.ofNat 64 n
  if !x.tracking then ({ x with tracking := true, n := e, seen := 0 } : FeedState).setRun first n
  else if 0 < ahead e x.n then (x.advance e).setRun first n
  else x.setRun first n

/-- A resync (09_feeds Table 9.2): the window cleared, N set, the run's bits set. -/
def FeedState.resync (x : FeedState) (first : BitVec 64) (n : Nat) : FeedState :=
  ({ x with tracking := true, n := first + BitVec.ofNat 64 n, seen := 0, gaps := [] } : FeedState).setRun first n

/-- A revoked run's bits inside the window cleared (09_feeds R243). -/
def FeedState.clearRun (x : FeedState) (first : BitVec 64) (n : Nat) : FeedState :=
  let r := x.inside first n
  { x with seen := x.seen &&& ~~~ runMask r.1 r.2 }

/-! ### The pair (09_feeds R248) -/

/-- A standby reports no gaps (09_feeds R248; 19_pair Table 19.5). -/
def State.reportsGaps (s : State) : Bool := s.mirror.role != .standby

/-! ### Gaps (09_feeds R240, R242) -/

/-- The numbers of a gap. -/
def Gap.size (g : Gap) : Nat := (g.last - g.first).toNat + 1

/-- A gap report (09_feeds R242; 13_cabinet Table 13.7). -/
def State.reportGap (s : State) (f : Nat) (g : Gap) (lost reason : Nat) : State :=
  if !s.reportsGaps then s
  else
    let s := (s.countFeed f 8).countFeed f 9 lost
    let now := s.devTime
    let body := bytesLe 8 g.first.toNat ++ bytesLe 8 g.last.toNat ++
      timeBytes (now - (s.resTime + 2 ^ 64 - g.openedRes) % 2 ^ 64) ++ timeBytes now ++ bytesLe 8 lost ++
      bytesLe 8 (f + reason * 2 ^ 12)
    let s := s.systemRecord 7 body
    if bitAt (s.feedCfg f) 5 then s.raise (1216 + f % 64) else s

/-- An open gap freed with a report. -/
def State.freeGap (s : State) (f : Nat) (g : Gap) (reason : Nat) : State :=
  let lost := (s.feed f).clearIn g.first g.size
  let s := s.modFeed f fun x => { x with gaps := x.gaps.filter fun h => h != g }
  (s.reportGap f g lost reason).sendFeed f (.closeGap g.first g.last)

/-- A gap opened over a range (09_feeds R240): the oldest of four makes room. -/
def State.openGap (s : State) (f : Nat) (first last : BitVec 64) : State :=
  let s := match (s.feed f).gaps with
    | g :: r => if 4 ≤ r.length + 1 then s.freeGap f g 2 else s
    | [] => s
  let g : Gap := { first := first, last := last, openedRes := s.resTime }
  ((s.modFeed f fun x => { x with gaps := x.gaps ++ [g] }).countFeed f 6).sendFeed f (.openGap first last)

/-- Open gaps that fall below the window of a new N are reported (09_feeds R239). -/
def State.dropGapsBelow (s : State) (f : Nat) (e : BitVec 64) : State :=
  ((s.feed f).gaps.filter fun g => decide (0 < ahead (e - 1024) g.first)).foldl (fun (s : State) g => s.freeGap f g 3) s

/-- Open gaps whose every bit is set close without a report (09_feeds R240). -/
def State.closeFilled (s : State) (f : Nat) : State :=
  ((s.feed f).gaps.filter fun g => (s.feed f).clearIn g.first g.size == 0).foldl (fun (s : State) g =>
    ((s.modFeed f fun x => { x with gaps := x.gaps.filter fun h => h != g }).countFeed f 7).sendFeed f (.closeGap g.first g.last)) s

/-- A range of unseen numbers below a new N: what lies inside its window opens a gap, the rest is reported at once (09_feeds R239,
R240). The range is not empty. -/
def State.leaveBehind (s : State) (f : Nat) (first last e : BitVec 64) (reason : Nat) : State :=
  let low := e - 1024
  let size := (last - first).toNat + 1
  let below := min size (ahead low first)
  let s := if below = 0 then s
    else s.reportGap f { first := first, last := first + BitVec.ofNat 64 (below - 1), openedRes := s.resTime } below reason
  if below = size then s else s.openGap f (first + BitVec.ofNat 64 below) last

/-! ### The decision (09_feeds R238) -/

/-- The count of a frame's messages (09_feeds Table 9.1). -/
def feedCount (cfg : Image) (fields : Nat) : Nat :=
  if bitAt cfg 1 then max 1 (fld fields (fld cfg 16 9) (if bitAt cfg 2 then 16 else 8)) else 1

/-- What the arbiter answers to a frame: it passes, and it set seen bits. -/
structure FeedAnswer where
  st : State
  pass : Bool
  accepted : Bool

/-- A run accepted in place of a first copy, a late filler or a resync, with the gaps it leaves and closes. The frame carries its numbers:
those of a gap that falls below the new window count as seen in that gap's report (09_feeds R239). -/
def State.acceptRun (s : State) (f : Nat) (first : BitVec 64) (n : Nat) : State :=
  let x := s.feed f
  let e := first + BitVec.ofNat 64 n
  let missing := if x.tracking then ahead first x.n else 0
  let grows := x.tracking && decide (0 < ahead e x.n)
  let s := if grows then (s.modFeed f fun x => x.setRun first n).dropGapsBelow f e else s
  let s := (s.modFeed f fun x => x.accept first n).sendFeed f (.accept first n)
  let s := if 0 < missing then s.leaveBehind f x.n (first - 1) e 3 else s
  s.closeFilled f

/-- The decision of a feed frame (09_feeds R238, Table 9.2); a feed under containment passes as one that is not tracked
(20_faults Table 20.1, line 9). -/
def State.feedDecide (s : State) (f fields : Nat) : FeedAnswer :=
  let cfg := s.feedCfg f
  let s := s.tick 0x81
  if !bitAt cfg 0 || marked (s.line 9).contained f then { st := s.tick 0x80, pass := true, accepted := false }
  else
    let x := s.feed f
    let q := BitVec.ofNat 64 (fields % 2 ^ 64)
    let n := feedCount cfg fields
    let yes (s : State) : FeedAnswer := { st := s, pass := true, accepted := true }
    if !x.tracking then yes ((s.acceptRun f q n).countFeed f 0)
    else if 0 ≤ (q - x.n).toInt then yes ((s.acceptRun f q n).countFeed f 0)
    else if (x.n - q).toNat ≤ 1024 then
      if x.seen.getLsbD (q.toNat % 1024) then { st := s.countFeed f 1, pass := false, accepted := false }
      else yes ((s.acceptRun f q n).countFeed f 2)
    else if fld cfg 48 8 ≠ 0 ∧ 2 ^ fld cfg 48 8 ≤ (x.n - q).toNat then
      let s := x.gaps.foldl (fun (s : State) g => s.freeGap f g 4) s
      yes (((s.modFeed f fun x => x.resync q n).sendFeed f (.resync q n)).countFeed f 10)
    else { st := s.countFeed f 3, pass := bitAt cfg 3, accepted := false }

/-- A frame over rate (09_feeds R236). -/
def State.feedOverRate (s : State) (f : Nat) : FeedAnswer :=
  let s := (s.countFeed f 4).tick 0x82
  { st := s, pass := !bitAt (s.feedCfg f) 4, accepted := false }

/-! ### Windows (09_feeds R233 to R235)

Window i of a round belongs to buffer cycle i / 2: i mod 16 below 13 for decisions, 13 and 14 for scans, 15 for service. -/

/-- The number, counted from round 0, of a pipeline's decision window `w`, counted from round 0: 52 to a round. -/
def feedWindowIndex (pipe w : Nat) : Nat :=
  let j := pipe + 16 * (w % 52)
  w / 52 * 1024 + (j / 13 * 16 + j % 13)

/-- Its buffer cycle, counted from round 0. -/
def feedWindowCycle (pipe w : Nat) : Nat := feedWindowIndex pipe w / 2

/-- The buffer cycle of the round to which a scan window belongs. -/
def scanCycle (w : Nat) : Nat := (w / 2 * 16 + 13 + w % 2) / 2

/-- The buffer cycle of the round to which a service window belongs. -/
def serviceCycle (w : Nat) : Nat := (16 * w + 15) / 2

/-- The decision window that a frame handed off in a buffer cycle takes, or none within 11 cycles. -/
def State.takeWindow (s : State) (pipe cycle : Nat) : Option Nat :=
  let base := cycle / 512 * 52
  let free := tget 0 s.arb.lastWin pipe
  match ((List.range 104).map (base + ·)).find? fun w => decide (free ≤ w) && decide (cycle ≤ feedWindowCycle pipe w) with
  | some w => if feedWindowCycle pipe w ≤ cycle + 11 then some w else none
  | none => none

/-! ### Revocations and scans (09_feeds R241, R243) -/

/-- A revocation applied in a service window (09_feeds R243). -/
def State.revoke (s : State) (r : RevocationReq) : State :=
  let x := s.feed r.feed
  if x.epoch ≠ r.epoch then s
  else
    let s := s.countFeed r.feed 5
    let i := x.inside r.first r.count
    let below := min r.count (ahead (x.n - 1024) r.first)
    let s := (s.modFeed r.feed fun x => x.clearRun r.first r.count).sendFeed r.feed (.clear r.first r.count)
    let s := if below = 0 then s
      else s.reportGap r.feed
        { first := r.first, last := r.first + BitVec.ofNat 64 (below - 1), openedRes := s.resTime } below 5
    if i.2 = 0 then s else s.openGap r.feed i.1 (i.1 + BitVec.ofNat 64 (i.2 - 1))

/-- A service window: the oldest revocation is applied (09_feeds R234, R243). A window that has passed applies none. -/
def State.revocation (s : State) (window : Nat) : State :=
  let abs := s.tt.round.toNat * 64 + window
  if abs < s.arb.serviceWin then s
  else
    let s := ({ s with arb := { s.arb with serviceWin := abs + 1 } } : State).at_ (bufferAt8 (serviceCycle window))
    match s.arb.revs with
    | [] => s
    | r :: rest => ({ s with arb := { s.arb with revs := rest } } : State).revoke r
/-- `REVOCATION`. -/
def execRevocation (window : Fin 64) (s : State) : Ans := .next (s.revocation window.val)

/-- A scan window examines the next feed: gaps past their timeout are reported (09_feeds R234, R241). A window that has passed examines
none. -/
def State.gapScan (s : State) (window : Nat) : State :=
  let abs := s.tt.round.toNat * 128 + window
  if abs < s.arb.scanWin then s
  else
    let s := ({ s with arb := { s.arb with scanWin := abs + 1 } } : State).at_ (bufferAt8 (scanCycle window))
    let f := s.arb.scanNext.val
    let t := fld (s.feedCfg f) 32 16 * 1000 * 65536
    let s := { s with arb := { s.arb with scanNext := s.arb.scanNext + 1 } }
    if !s.reportsGaps then s
    else
      ((s.feed f).gaps.filter fun g => decide (t ≤ (s.resTime + 2 ^ 64 - g.openedRes) % 2 ^ 64)).foldl
        (fun (s : State) g => s.freeGap f g 1) s
/-- `FEED_GAP_SCAN`. -/
def execFeedGapScan (window : Fin 128) (s : State) : Ans := .next (s.gapScan window.val)

/-- A change of the primary's arbiter applied to a feed of the standby (09_feeds R248; 19_pair R472). -/
def State.applyFeed (s : State) (f : Nat) (c : FeedChange) : State :=
  match c with
  | .accept first n => s.modFeed f fun x => x.accept first n
  | .resync first n => s.modFeed f fun x => x.resync first n
  | .clear first n => s.modFeed f fun x => x.clearRun first n
  | .openGap first last =>
    s.modFeed f fun x =>
      { x with gaps := (x.gaps ++ [({ first := first, last := last, openedRes := s.resTime } : Gap)]).drop (x.gaps.length + 1 - 4) }
  | .closeGap first last => s.modFeed f fun x => { x with gaps := x.gaps.filter fun g => !(g.first == first && g.last == last) }
  | .reset => s.clearFeed f

end Sys2Proof.Machine
end

