-- ==== Sys2Proof/Machine/Sched.lean ====
section
/-!
DEFINITION. The egress scheduler (12_egress R294 to R312): line bytes, the predicted instant of a frame's first bit, what may
go now, strict priority and deficit weighted round robin, what a start charges, and the refills of the shapers.
-/

namespace Sys2Proof.Machine

/-- A queue's scheduling entry in force (12_egress Table 12.1, R310). -/
def State.schedQ (s : State) (q : Nat) : Image := ent s.buf.schedInForce (tkey 0x17 0 q)
/-- A port's scheduling entry in force (12_egress Table 12.2, R310). -/
def State.schedP (s : State) (lp : Nat) : Image := ent s.buf.schedInForce (tkey 0x18 0 lp)
/-- level. -/
def schedLevel (e : Image) : Nat := fld e 0 4
/-- shaper_enable of a queue. -/
def shaperOn (e : Image) : Bool := bitAt e 4
/-- port_shaper_enable. -/
def portShaperOn (e : Image) : Bool := bitAt e 0

/-- max_frame of a port (04_line Table 4.5). -/
def State.maxFrame (s : State) (lp : Nat) : Nat := s.pcfg lp 16 16

/-- The length that goes on the wire: padded to 64 octets (04_line R106). -/
def wireLen (len : Nat) : Nat := max 64 len

/-- The line bytes of a copy (12_egress R298): max_frame stands for a length that is not known. -/
def State.lineBytes (s : State) (lp : Nat) (f : Stored) : Nat := (if f.lenKnown then wireLen f.len else s.maxFrame lp) + 20

/-- The launch hold of a copy, in ps (02_timetable R36). -/
def State.launchHold (s : State) (f : Stored) : Nat :=
  if f.source == .port && !f.pass2 then slotWaitPs (s.modeOf f.lp) - 80 * f.slotWait else 0

/-- The enqueue, pick and head-cell read stage, in ps: 24 buffer cycles (02_timetable Table 2.5; 12_egress R295). -/
def stagePs : Nat := 19200

/-- From the pick to the first bit at the transmit balls but for the launch hold, in ps, every joint at its upper bound (02_timetable
Tables 2.4, 2.5): the enqueue, pick and read stage, the joint to the port island, the egress MAC, the gearbox and the PCS. -/
def State.egressPs (s : State) (lp : Nat) : Nat := stagePs + 1920 + 27520 + gearboxPs (s.modeOf lp) + txPcsPs (s.modeOf lp)

/-- From the pick to the first bit at the transmit balls, in ps, with the launch hold (02_timetable R36). -/
def State.pickToBalls (s : State) (lp : Nat) (f : Stored) : Nat := s.egressPs lp + s.launchHold f

/-- The instant at which a port's wire is free behind the frames picked so far and those of its MAC (12_egress R295; 04_line R114). -/
def State.wireFree (s : State) (lp : Nat) : Nat := (s.egr lp).wire.foldl (fun m w => max m (s.lineEnd lp w)) (s.egr lp).freeAt

/-- A port may be picked for: its wire is idle, or the frame picked last has a known end that the next first bit can follow without waiting
for more than a buffer cycle (12_egress R295). -/
def State.mayPick (s : State) (lp : Nat) : Bool :=
  match (s.egr lp).wire.getLast? with
  | none => true
  | some w =>
    (match s.stored? w.frame with | some f => f.lenKnown | none => true) && decide (s.wireFree lp ≤ s.nowPs + s.egressPs lp + 800)

/-- The predicted instant of the first bit of a copy picked now, in ps (12_egress R295, R307): behind the wire's last frame; a fresh
cut-through copy leaves its stage 24 buffer cycles behind its linking, whatever cycle its pick falls in. -/
def State.firstBit (s : State) (lp : Nat) (e : QEntry) (f : Stored) : Nat :=
  let from_ := match e.freshAt with | some t => if s.nowPs ≤ t + stagePs then t else s.nowPs | none => s.nowPs
  max (from_ + s.pickToBalls lp f) (s.wireFree lp)

/-- What a frame needs of its gate: its line time and the window (12_egress R307), in 2^-16 ns. -/
def State.gateSpan (s : State) (lp : Nat) (f : Stored) : Nat :=
  ceilDiv ((s.lineBytes lp f * psPerByte (s.modeOf lp) + windowPs (s.modeOf lp)) * 65536) 1000

/-- pfc_map of a traffic class (04_line Table 4.5, R111). -/
def State.pfcMap (s : State) (lp tc : Nat) : Nat := s.pcfg lp (64 + 3 * tc) 3

/-- A traffic class is held by a PAUSE or PFC in force (04_line R111). -/
def State.classPaused (s : State) (lp tc : Nat) : Bool := s.pauseInForce lp 8 || s.pauseInForce lp (s.pfcMap lp tc)

/-- A copy may be scheduled (10_buffer R271, R272): a cut-through copy once linked, a store-and-forward copy once its frame is
whole and has passed its checks. -/
def State.copyReady (s : State) (lp : Nat) (e : QEntry) (f : Stored) : Bool :=
  e.cutThrough || (f.lastIn && f.fcsOk && !f.lateFail && decide (f.len ≤ s.maxFrame lp))

/-- The first copy of a queue, with its frame. -/
def State.firstCopy (s : State) (q : Nat) : Option (QEntry × Stored) :=
  match (s.queue q).entries with
  | [] => none
  | e :: _ => (s.stored? e.frame).map fun f => (e, f)

/-- Everything of R294 but the time gate. -/
def State.readyButGate (s : State) (q : Nat) : Bool :=
  let lp := q / 16
  match s.firstCopy q with
  | none => false
  | some (e, f) =>
    s.isUp lp && s.copyReady lp e f && !s.classPaused lp (q % 16) &&
      !(shaperOn (s.schedQ q) && decide ((s.queue q).credit < 0)) &&
      !(portShaperOn (s.schedP lp) && decide ((s.egr lp).credit < 0))

/-- The first frame of a queue fits its gate (12_egress R307). -/
def State.frameFits (s : State) (q : Nat) : Bool :=
  match s.firstCopy q with
  | none => false
  | some (e, f) => s.fits (q / 16) (s.devTimeAt (s.firstBit (q / 16) e f)) (q % 16) (s.gateSpan (q / 16) f)

/-- The first frame of a queue is longer than every open time of its class (12_egress R308). -/
def State.frameBlocked (s : State) (q : Nat) : Bool :=
  match s.firstCopy q with
  | none => false
  | some (_, f) => (s.egr (q / 16)).blocks (q % 16) (s.gateSpan (q / 16) f)

/-- A queue is eligible (12_egress R294). -/
def State.eligible (s : State) (q : Nat) : Bool := s.readyButGate q && s.frameFits q

/-- A queue's block, looked at when its first frame or its port's list has changed: one that begins is marked, counted and reported, and
one whose cause is gone ends (12_egress R308). -/
def State.checkBlock (s : State) (q : Nat) : State :=
  if s.frameBlocked q then
    if (s.queue q).gateBlocked then s
    else
      ((s.modQueue q fun x => { x with gateBlocked := true }).modEgr (q / 16) fun e =>
        { e with gateBlocked := e.gateBlocked + 1 }).raise 1297
  else if (s.queue q).gateBlocked then s.modQueue q fun x => { x with gateBlocked := false }
  else s

/-- The blocks of a port's queues. -/
def State.markBlocked (s : State) (lp : Nat) : State :=
  (List.range 16).foldl (fun (s : State) k => s.checkBlock (16 * lp + k)) s

/-- The queues of a port that a pick passes over because their first frame does not fit are counted (12_egress Table 12.7). -/
def State.countWaits (s : State) (lp : Nat) : State :=
  (List.range 16).foldl (fun (s : State) k =>
    let q := 16 * lp + k
    if s.readyButGate q && !s.frameFits q then s.modQueue q fun x => { x with gateWaits := x.gateWaits + 1 } else s) s

/-- The next traffic class of a level after `k`, ascending and wrapping (12_egress R299). -/
def State.nextOfLevel (s : State) (lp v k : Nat) : Nat :=
  (((List.range 16).map fun i => (k + 1 + i) % 16).find? fun j => schedLevel (s.schedQ (16 * lp + j)) == v).getD k

/-- The loop of R299 within a level, from traffic class `k` on: the class picked, with its line bytes off its deficit. -/
def State.rotate (s : State) (lp v : Nat) (elig : List (Nat × Nat)) : Nat → Nat → State × Option Nat
  | 0, _ => (s, none)
  | n + 1, k =>
    let q := 16 * lp + k
    let onward (s : State) : State × Option Nat :=
      (s.modQueue q fun x => { x with turnOpen := false }).rotate lp v elig n (s.nextOfLevel lp v k)
    match elig.find? fun x => x.1 == k with
    | none => onward s
    | some (_, len) =>
      let s := if (s.queue q).turnOpen then s
        else s.modQueue q fun x => { x with deficit := x.deficit + (fld (s.schedQ q) 16 16 * 64 : Nat), turnOpen := true }
      if (len : Int) ≤ (s.queue q).deficit then
        ((s.modQueue q fun x => { x with deficit := x.deficit - len }).modEgr lp fun e =>
          { e with ptr := tset 0 e.ptr v k }, some k)
      else onward s

/-- The rotation pointer of a level, at a queue of it where it has any (12_egress R299). -/
def State.levelPtr (s : State) (lp v : Nat) : Nat :=
  let p := tget 0 (s.egr lp).ptr v % 16
  if schedLevel (s.schedQ (16 * lp + p)) = v then p else s.nextOfLevel lp v p

/-- The pick of R299: the highest level that holds an eligible queue, and within it the rotation. The bound on the turns is
what the loop can need: every turn of an eligible queue adds at least 64 octets to its deficit. -/
def State.pickClass (s : State) (lp : Nat) : State × Option Nat :=
  let elig := ((List.range 16).filter fun k => s.eligible (16 * lp + k)).filterMap fun k =>
    (s.firstCopy (16 * lp + k)).map fun x => (k, s.lineBytes lp x.2)
  if elig.isEmpty then (s, none)
  else
    let v := elig.foldl (fun m x => max m (schedLevel (s.schedQ (16 * lp + x.1)))) 0
    let mine := elig.filter fun x => schedLevel (s.schedQ (16 * lp + x.1)) == v
    let need := mine.foldl (fun m x => max m ((x.2 : Int) - (s.queue (16 * lp + x.1)).deficit).toNat) 0
    s.rotate lp v mine (16 * (need / 64 + 3)) (s.levelPtr lp v)

/-- A start takes line bytes off the credits of the shapers that are enabled (12_egress R301, R302). -/
def State.chargeStart (s : State) (q n : Nat) : State :=
  let s := if shaperOn (s.schedQ q) then s.modQueue q fun x => { x with credit := x.credit - (n * 65536 : Nat) } else s
  if portShaperOn (s.schedP (q / 16)) then s.modEgr (q / 16) fun e => { e with credit := e.credit - (n * 65536 : Nat) } else s

/-- What the start of a frame charged beyond its true line bytes is added back to the accounts that it charged (12_egress R298). -/
def State.addBack (s : State) (w : TxFrame) (diff : Int) : State :=
  let s := if w.onDeficit then s.modQueue w.queue fun x => { x with deficit := x.deficit + diff } else s
  let s := if w.onQueue then s.modQueue w.queue fun x => { x with credit := x.credit + diff * 65536 } else s
  if w.onPort then s.modEgr (w.queue / 16) fun e => { e with credit := e.credit + diff * 65536 } else s

/-- The frames of a queue on its port's wire changed. -/
def State.modWire (s : State) (q : Nat) (g : TxFrame → TxFrame) : State :=
  s.modEgr (q / 16) fun e => { e with wire := e.wire.map fun w => if w.queue = q then g w else w }

/-- A queue's deficit goes to zero: nothing is added back to it (12_egress R299, R310). -/
def State.zeroDeficit (s : State) (q : Nat) : State :=
  (s.modQueue q fun x => { x with deficit := 0 }).modWire q fun w => { w with onDeficit := false }

/-- A queue's entries taken away; the block of its first ends with it, an empty queue's deficit is zero (12_egress R299, R308). -/
def State.setEntries (s : State) (q : Nat) (es : List QEntry) : State :=
  let first := (s.queue q).entries.head? == es.head?
  let s := s.modQueue q fun x => { x with entries := es, gateBlocked := x.gateBlocked && first }
  let s := if es.isEmpty then s.zeroDeficit q else s
  s.checkBlock q

/-- A queue's first entry is unlinked. -/
def State.unlinkFirst (s : State) (q : Nat) : State := s.setEntries q ((s.queue q).entries.drop 1)

/-! ### Refills (12_egress R300, R302, R310) -/

/-- A written queue entry comes into force (12_egress R310): a queue whose level changes joins its new one behind the pointer, which stays
at the queue that it would serve next; a shaper that is enabled starts from zero. -/
def State.takeSchedQ (s : State) (q : Nat) (new : Image) : State :=
  let old := s.schedQ q
  let v := schedLevel new
  let p := s.levelPtr (q / 16) v
  let s := { s with buf := { s.buf with schedInForce := setEnt s.buf.schedInForce (tkey 0x17 0 q) new } }
  let s := if schedLevel old = v then s
    else (s.zeroDeficit q).modQueue q (fun x => { x with turnOpen := false }) |>.modEgr (q / 16) fun e => { e with ptr := tset 0 e.ptr v p }
  let s := if shaperOn new && !shaperOn old then s.modWire q fun w => { w with onQueue := false } else s
  s.modQueue q fun x =>
    { x with credit := if shaperOn new && !shaperOn old then 0 else min x.credit ((fld new 64 24 * 65536 : Nat) : Int) }

/-- A written port entry comes into force (12_egress R310). -/
def State.takeSchedP (s : State) (lp : Nat) (new : Image) : State :=
  let old := s.schedP lp
  let s := { s with buf := { s.buf with schedInForce := setEnt s.buf.schedInForce (tkey 0x18 0 lp) new } }
  let fresh := portShaperOn new && !portShaperOn old
  s.modEgr lp fun x =>
    { x with credit := if fresh then 0 else min x.credit ((fld new 64 24 * 65536 : Nat) : Int)
             wire := if fresh then x.wire.map fun w => { w with onPort := false } else x.wire }

/-- Every written entry that is not in force comes into force, by the keys that either copy lists. -/
def State.takeSched (s : State) : State :=
  let keys := ((s.tables.work.map (·.1)) ++ (s.buf.schedInForce.map (·.1))).filter fun k =>
    (tkeyCode k == 0x17 || tkeyCode k == 0x18) && ent s.tables.work k != ent s.buf.schedInForce k
  keys.foldl (fun (s : State) k =>
    if tkeyCode k = 0x17 then s.takeSchedQ (k % 2 ^ 32) (ent s.tables.work k)
    else s.takeSchedP (k % 2 ^ 32) (ent s.tables.work k)) s

/-- A frame of a queue is on the wire. -/
def State.onWire (s : State) (q : Nat) : Bool :=
  (s.egr (q / 16)).wire.any fun w => w.queue == q

/-- One queue's refill (12_egress R300). -/
def State.refillQueue (s : State) (q : Nat) : State :=
  let e := s.schedQ q
  if !shaperOn e then s
  else if s.classPaused (q / 16) (q % 16) || !s.gateOpen (q / 16) (q % 16) then s
  else
    let cap : Int := if !(s.queue q).entries.isEmpty || s.onWire q then ((fld e 64 24 * 65536 : Nat) : Int) else 0
    s.modQueue q fun x => { x with credit := min (x.credit + (fld e 32 32 : Nat)) cap }

/-- One port's refill (12_egress R302). -/
def State.refillPort (s : State) (lp : Nat) : State :=
  let e := s.schedP lp
  if !portShaperOn e then s
  else
    let busy := !(s.egr lp).wire.isEmpty || (List.range 16).any fun k => !(s.queue (16 * lp + k)).entries.isEmpty
    let cap : Int := if busy then ((fld e 64 24 * 65536 : Nat) : Int) else 0
    s.modEgr lp fun x => { x with credit := min (x.credit + (fld e 32 32 : Nat)) cap }

/-- A refill, at buffer cycle 64 × k of the round (12_egress R300). -/
def State.refill (s : State) : State :=
  let s := (s.at_ (s.buf.refill * 410)).takeSched
  let s := (s.buf.schedInForce.filter fun x => tkeyCode x.1 == 0x17).foldl (fun (s : State) x => s.refillQueue (x.1 % 2 ^ 32)) s
  let s := (s.buf.schedInForce.filter fun x => tkeyCode x.1 == 0x18).foldl (fun (s : State) x => s.refillPort (x.1 % 2 ^ 32)) s
  { s with buf := { s.buf with refill := (s.buf.refill + 1) % 8 } }
/-- `SHAPER_REFILL`. -/
def execShaperRefill (s : State) : Ans := .next s.refill

/-! ### Scheduler state as TBL_READ shows it (12_egress R312) -/

/-- The 32 bytes of Table 12.7. -/
def queueSchedBytes (s : State) (q : Nat) : List Byte :=
  let x := s.queue q
  bytesLe 8 (unsgn 48 x.credit) ++
    bytesLe 8 (unsgn 32 x.deficit + b1 (s.eligible q) * 2 ^ 32 + b1 (s.gateOpen (q / 16) (q % 16)) * 2 ^ 33 +
      b1 (s.classPaused (q / 16) (q % 16)) * 2 ^ 34 + b1 x.gateBlocked * 2 ^ 35) ++
    bytesLe 8 x.txStarted.toNat ++ bytesLe 8 x.gateWaits.toNat

/-- The 64 bytes of Table 12.8. -/
def portSchedBytes (s : State) (lp : Nat) : List Byte :=
  let e := s.egr lp
  let on := match e.gates with | some g => gateEnabled g | none => false
  let x := match e.gatesNext, e.gatesNextRound with | some (_, x), none => timeImg x | _, _ => 0
  bytesLe 8 (b1 on + b1 e.gatesNext.isSome * 2 + e.entry * 256) ++ bytesLe 12 x ++ bytesLe 4 0 ++
    bytesLe 12 (timeImg e.cycleStart) ++ bytesLe 4 0 ++ bytesLe 8 (unsgn 48 e.credit) ++ bytesLe 8 e.gateBlocked.toNat ++
    bytesLe 8 e.gateOverrun.toNat

/-! ### Gates (12_egress R305, R306) -/

/-- `GATE_SWITCH`. -/
def execGateSwitch (lp : Fin 512) (at8 : Fin 3277) (s : State) : Ans :=
  .next (((s.at_ at8.val).gateSwitch lp.val).markBlocked lp.val)

/-- An entry's interval ends and the next entry's gate states apply (12_egress R305). -/
def State.gateAdvance (s : State) (lp : Nat) : State :=
  if (s.egr lp).gates.isNone then s else s.modEgr lp fun e => e.position s.devTime
/-- `GATE_ENTRY_ADVANCE`. -/
def execGateEntryAdvance (lp : Fin 512) (at8 : Fin 3277) (s : State) : Ans := .next ((s.at_ at8.val).gateAdvance lp.val)

end Sys2Proof.Machine
end

