-- ==== Sys2Proof/Machine/Tables.lean ====
section
/-!
DEFINITION. Writing and reading configured state (15_commands R384; 08_tables R220 to R223, R228 to R231; 07_match R186, R190,
R191, R202; 09_feeds R244 to R247; 10_buffer R259, R275 to R277; 11_pool R291, R293; 12_egress R306, R312): the rows TBL_WRITE,
PREFIX_INSERT, PREFIX_DELETE, TBL_PAIR_WRITE, TBL_READ, TBL_MOVE, TBL_BULK, GEN_SWAP and the swap's two events.
-/

namespace Sys2Proof.Machine

/-! ### What a write meets -/

/-- The learning control block of the master (08_tables R213). -/
def State.learnBlock (s : State) : Image := s.master 0x0A 0 0
/-- learn_low. -/
def learnLow (b : Image) : Nat := fld b 512 16
/-- learn_high. -/
def learnHigh (b : Image) : Nat := fld b 528 16
/-- learn_on. -/
def learnOn (b : Image) : Bool := bitAt b 544
/-- A row of the learning range. -/
def inLearnRange (b : Image) (row : Nat) : Bool := decide (learnLow b ≤ row) && decide (row ≤ learnHigh b)

/-- The valid bit of a station image: key, then record (08_tables Tables 8.5, 8.6). -/
def stationValid (e : Image) : Bool := bitAt e 63
/-- The learned bit of a station image. -/
def stationLearned (e : Image) : Bool := bitAt e 82

/-- The rows of the station table that a copy lists. -/
def stationRows (t : Tbl Nat) : List (Nat × Image) := (t.filter fun x => tkeyCode x.1 == 1).map fun x => (x.1 % 2 ^ 32, x.2)

/-- A configured row lies inside a block's range (08_tables R213). -/
def State.configuredInside (s : State) (b : Image) : Bool :=
  ((stationRows s.tables.master).any fun x => inLearnRange b x.1 && stationValid x.2) ||
    s.tables.quads.any fun q => (stationRows q.rep).any fun x => inLearnRange b x.1 && stationValid x.2 && !stationLearned x.2

/-- The cells that the pools, the headroom pool and every queue's min_cells name together (10_buffer R259). -/
def cellsNamed (control : Image) (minSum : Nat) : Nat :=
  ((List.range 5).map fun k => fld control (32 * k) 20).sum + minSum

/-- The sum of every queue's min_cells, less that of one queue (10_buffer R259). -/
def State.minCells (s : State) (but : Option Nat) : Nat :=
  ((s.tables.master.filter fun x => tkeyCode x.1 == 0x0E && some (x.1 % 2 ^ 32) != but).map fun x => fld x.2 16 16).sum

/-- The programs that a quad's valid class C templates name, of the current generation, and of the old one while a swap drains
(07_match R202). -/
def State.programsInUse (s : State) (q : Nat) : List Nat :=
  let old := match s.tables.swap with | some w => if w.draining then [b1 (!w.newGen)] else [] | none => []
  let gens := b1 (s.quad q).gen :: old
  (((s.quad q).rep.filter fun x => tkeyCode x.1 == 5 && gens.contains (x.1 / 2 ^ 32 % 2)).filter fun x =>
    bitAt x.2 8 && fld x.2 9 2 == 2).map fun x => fld x.2 184 8

/-- A program, with its directory entry, covers an entry of the automata store (07_match R202). -/
def programCovers (code idx prog : Nat) (d : Image) : Bool :=
  if code = 6 then idx == prog
  else if code = 7 then fld d 1 4 == idx
  else if code = 8 then decide (fld d 64 13 ≤ idx) && decide (idx ≤ fld d 80 13)
  else decide (fld d 96 14 ≤ idx) && decide (idx ≤ fld d 112 14)

/-- A write to the automata store that BUSY refuses (07_match R202). -/
def State.automataBusy (s : State) (code idx : Nat) : Bool :=
  decide (6 ≤ code) && decide (code ≤ 9) &&
    (List.range 4).any fun q => (s.programsInUse q).any fun prog => programCovers code idx prog (s.replica q 6 0 prog)

/-- The status with which a write to an entry is refused by what stands in the tables, or nothing: NO_RESOURCE of R212, R213 and
10_buffer R259, BUSY of 07_match R202. -/
def State.writeRefused (s : State) (code idx : Nat) (e : Image) : Option Nat :=
  let b := s.learnBlock
  if code = 1 ∧ learnOn b ∧ inLearnRange b idx then some 0x16
  else if code = 0x0A ∧ learnOn e ∧ s.configuredInside e then some 0x16
  else if code = 0x0D ∧ 983040 < cellsNamed e (s.minCells none) then some 0x16
  else if code = 0x0E ∧ 983040 < cellsNamed (s.master 0x0D 0 0) (s.minCells (some idx) + fld e 16 16) then some 0x16
  else if s.automataBusy code idx then some 0x14
  else none

/-! ### One entry written -/

/-- An entry changed in the master, and in each replica or in the working copy (08_tables R220). -/
def State.changeEntry (s : State) (code gen idx : Nat) (f : Image → Image) : State :=
  let k := tkey code gen idx
  let s := if replicated code then s.writeCopies fun t => [(k, f (ent t k))]
    else (s.setMaster code gen idx (f (s.master code gen idx))).setWork code idx (f (s.work code idx))
  s.rewritten code gen idx

/-- Learned rows of a replica outside a range, with their valid bit cleared. -/
def learnedOutside (b : Image) (t : Tbl Nat) : List (Nat × Nat) :=
  ((stationRows t).filter fun x => stationValid x.2 && stationLearned x.2 && !inLearnRange b x.1).map fun x =>
    (tkey 1 0 x.1, setFld x.2 63 1 0)

/-- Learned rows outside a new range lose their valid bit in each quad, in command-write slots (08_tables R213). -/
def State.dropLearned (s : State) (b : Image) : State :=
  (List.range 4).foldl (fun (s : State) q => s.commandWrites q (learnedOutside b (s.quad q).rep)) s

/-- The generation bit of a rule row (07_match Table 7.3). -/
def ruleGen (e : Image) (gen : Bool) : Bool := bitAt e (705 + b1 gen)

/-- What a written entry does beyond the tables: reset_state (09_feeds R247), the generator's seed (10_buffer R259), the call for
pause of a group (R263, R276), a gate list that becomes pending (12_egress R306), learned rows outside the range (08_tables
R213). -/
def State.afterWrite (s : State) (code idx : Nat) (old new : Image) : State :=
  if code = 0x0A then s.dropLearned new
  else if code = 0x0B then if bitAt new 6 then s.clearFeed idx else s
  else if code = 0x0D then { s with buf := { s.buf with lfsr := BitVec.ofNat 32 (fld new 160 32) } }
  else if code = 0x0F then
    if (s.group idx).congested ∧ bitAt old 0 ∧ !bitAt new 0 then s.pauseCall (idx / 8) (idx % 8) false
    else if (s.group idx).congested ∧ !bitAt old 0 ∧ bitAt new 0 then s.pauseCall (idx / 8) (idx % 8) true
    else s
  else if code = 0x19 then s.armGates idx new
  else s

/-- The stored image of a written entry: the data part beside the key part that stands (station records, 08_tables R212; action
entries, 07_match R186), or the entry; reset_state reads as zero (09_feeds Table 9.1). -/
def storedImage (code : Nat) (old e : Image) : Image :=
  if code = 1 then old % 2 ^ 64 + e * 2 ^ 64
  else if code = 4 then old % 2 ^ 640 + e * 2 ^ 640
  else if code = 0x0B then setFld e 6 1 0
  else e

/-- One entry of any table but the prefix table and the pool control block written: the new state, or the status that refuses
it. -/
def State.writeEntry (s : State) (code gen idx : Nat) (e : Image) : Except Nat State :=
  match s.writeRefused code idx e with
  | some st => .error st
  | none =>
    let old := s.master code gen idx
    let new := storedImage code old e
    let s := s.loosen fun g =>
      (code == 4 && (ruleGen old g || ruleGen new g)) || (code == 5 && gen == b1 g)
    .ok ((s.changeEntry code gen idx fun v => storedImage code v e).afterWrite code idx old e)

/-- A key row and its data part written together (07_match R186; 08_tables R212). -/
def State.writePair (s : State) (code idx : Nat) (key e : Image) : Except Nat State :=
  match s.writeRefused code idx e with
  | some st => .error st
  | none =>
    let new := if code = 1 then key + e * 2 ^ 64 else key + e * 2 ^ 640
    let s := s.loosen fun g => code == 4 && (ruleGen (s.master code 0 idx) g || ruleGen new g)
    .ok (s.changeEntry code 0 idx fun _ => new)

/-- A command of one unit that writes D0 (08_tables R221): BUSY while D0 cannot be written or when it stops before the write. -/
def oneUnit (p : Pkt) (s : State) (r : Except Nat State) : Done :=
  if !s.d0Writable then busy s
  else
    match r with
    | .error st => { st := s, status := st }
    | .ok t => if (d0Units p 1).1 = 0 then d0Busy s 0 else ok t

/-! ### Prefix entries (07_match R190, R191, R193) -/

/-- The entry of a unit with its prefix_data replaced: the rewrite in place of R190. -/
def newData (old e : Image) : Image := setFld old 160 32 (fld e 160 32)

/-- An insertion carried out whole: the state, or NO_RESOURCE. -/
def State.insertEntry (s : State) (e : Image) : Except Nat State :=
  match s.insertPlan e with
  | .full => .error 0x16
  | .inPlace u => .ok ((s.loosen (pfxGen e)).writeControl (pfxPair e) u (newData (s.unitOf (pfxPair e) u) e))
  | .withShim z h _ => .ok ((s.loosen (pfxGen e)).insertAll e z h)

/-- A deletion: the state, or NO_RESOURCE (07_match R191). -/
def State.deleteEntry (s : State) (e : Image) : Except Nat State :=
  match s.equalUnit e with
  | some u => .ok ((s.loosen (pfxGen e)).writeControl (pfxPair e) u (setFld (s.unitOf (pfxPair e) u) 137 1 0))
  | none => .error 0x16

/-- The insert form (07_match R190, R193; 08_tables R221): each completed move is a commit point, and the final write is the last
unit. -/
def doInsert (p : Pkt) (e : Image) (s : State) : Done :=
  if !s.d0Writable then busy s
  else
    match s.insertPlan e with
    | .withShim z h m =>
      let c := unitsDone p.cancelAt m
      let total := if c.2 then c.1 else m + 1
      let stop := match p.d0StopAt with | some j => if j < total then some j else none | none => none
      match stop with
      | some j => d0Busy (s.insertPart e z h j) j
      | none => if c.2 then partialReply (s.insertPart e z h c.1) c.1 else ok ((s.loosen (pfxGen e)).insertAll e z h)
    | _ => oneUnit p s (s.insertEntry e)

/-! ### The commands -/

/-- TBL_WRITE (08_tables R220): by the form for prefix entries; a recount for the pool control block (11_pool R291, R292). -/
def doTblWrite : Handler := fun w p ps s =>
  let h := tblHeader ps
  let e := writtenData ps
  if h.table = 2 then if h.form = 0 then doInsert p e s else oneUnit p s (s.deleteEntry e)
  else if h.table = 0x14 then
    let ns := (List.range 65).filter (bitAt e)
    if !s.d0Writable ∨ s.pool.recount.isSome then busy s
    else if (d0Units p 1).1 = 0 then d0Busy s 0
    else if ns.isEmpty then ok s
    else pendingReply (s.startRecount ns [w])
  else oneUnit p s (s.writeEntry h.table h.gen h.index e)
/-- `TBL_WRITE`. -/
def execTblWrite (p : Pkt) (s : State) : Ans := .next (s.runCommand 0x0200 p wfTblWrite doTblWrite)

/-- A TBL_WRITE of the prefix table in one of its forms: the row fixes table and form. -/
def State.prefixWrite (s : State) (form : Nat) (p : Pkt) : State :=
  s.runCommand 0x0200 (forceOp (forceOp p 0 8 2) 12 2 form) wfTblWrite doTblWrite
/-- `PREFIX_INSERT`. -/
def execPrefixInsert (p : Pkt) (s : State) : Ans := .next (s.prefixWrite 0 p)
/-- `PREFIX_DELETE`. -/
def execPrefixDelete (p : Pkt) (s : State) : Ans := .next (s.prefixWrite 1 p)

/-- TBL_PAIR_WRITE (07_match R186; 08_tables R212). -/
def doTblPairWrite : Handler := fun _ p ps s =>
  let h := tblHeader ps
  oneUnit p s (s.writePair h.table h.index (pairKey ps) (pairData ps))
/-- `TBL_PAIR_WRITE`. -/
def execTblPairWrite (p : Pkt) (s : State) : Ans := .next (s.runCommand 0x0201 p wfTblPairWrite doTblPairWrite)

/-- TBL_MOVE (07_match R186): the row's key row and action entry, as the master holds them, in another row. -/
def doTblMove : Handler := fun _ p ps s =>
  let h := tblHeader ps
  let row := s.master h.table 0 h.aux
  oneUnit p s (s.writePair h.table h.index (row % 2 ^ 640) (row / 2 ^ 640))
/-- `TBL_MOVE`. -/
def execTblMove (p : Pkt) (s : State) : Ans := .next (s.runCommand 0x0203 p wfTblMove doTblMove)

/-! ### TBL_READ -/

/-- Table 9.3. -/
def feedStateBytes (x : FeedState) : List Byte :=
  bytesLe 8 x.n.toNat ++ bytesLe 8 (b1 x.tracking + x.gaps.length * 2) ++
    ((List.range 4).map fun i => match x.gaps[i]? with
      | some g => bytesLe 16 (g.first.toNat + (g.last - g.first).toNat % 1024 * 2 ^ 64 + g.openedRes / 65536 % 2 ^ 48 * 2 ^ 80)
      | none => bytesLe 16 0).flatten ++
    bytesLe 128 x.seen.toNat ++ ((List.range 11).map fun k => bytesLe 8 (tget 0 x.counters k).toNat).flatten ++ bytesLe 24 0

/-- Table 10.9. -/
def queueStateBytes (x : QueueState) : List Byte :=
  bytesLe 8 (x.occ % 2 ^ 20 + x.entries.length * 2 ^ 20) ++ bytesLe 8 x.avg ++ bytesLe 8 x.enqueued.toNat ++
    bytesLe 8 x.refused.toNat ++ bytesLe 8 x.ecnMarked.toNat

/-- Table 10.10. -/
def portBufferBytes (s : State) (lp : Nat) : List Byte :=
  ((List.range 8).map fun k =>
    let g := s.group (8 * lp + k)
    bytesLe 8 (g.shared % 2 ^ 20 + g.head % 2 ^ 20 * 2 ^ 20 + b1 g.congested * 2 ^ 40)).flatten ++
    bytesLe 8 (s.egr lp).mcPartialDrop.toNat ++ bytesLe 8 (s.egr lp).flushDrop.toNat ++ bytesLe 8 (s.egr lp).headroomDrop.toNat ++
    bytesLe 8 (s.egr lp).lateDrop.toNat

/-- Table 11.4. -/
def poolStateBytes (s : State) : List Byte :=
  bytesLe 8 (s.freeCells + s.reserveUse * 2 ^ 21) ++ bytesLe 8 s.pool.ptrRejected.toNat ++ bytesLe 8 s.pool.zeroCount.toNat ++
    bytesLe 8 s.pool.quotaUnderflow.toNat ++ bytesLe 16 ((List.range 65).map fun n => b1 (s.req n).underflow * 2 ^ n).sum ++
    bytesLe 8 (s.pool.logNext + s.pool.logLost * 256) ++ bytesLe 8 0 ++
    ((List.range 16).map fun k =>
      let e := tget PoolLog.init s.pool.log k
      bytesLe 12 (e.pointer.toNat + e.requester * 2 ^ 28 + e.reason * 2 ^ 35 + e.round.toNat * 2 ^ 64)).flatten

/-- Table 15.11, code 0x16. -/
def requesterBytes (r : Requester) : List Byte :=
  bytesLe 4 r.quota ++ bytesLe 4 r.charge ++ bytesLe 8 (b1 r.underflow) ++ bytesLe 8 r.refused.toNat

/-- The state tables, which hold no configured state and read at any time (15_commands Table 15.11). -/
def stateTable (code : Nat) : Bool := [0x0C, 0x12, 0x13, 0x15, 0x16, 0x1A, 0x1B].contains code

/-- The bytes of a state table's entry. -/
def stateTableBytes (s : State) (code idx : Nat) : List Byte :=
  if code = 0x0C then feedStateBytes (s.feed idx)
  else if code = 0x12 then queueStateBytes (s.queue idx)
  else if code = 0x13 then portBufferBytes s idx
  else if code = 0x15 then poolStateBytes s
  else if code = 0x16 then requesterBytes (s.req idx)
  else if code = 0x1A then queueSchedBytes s idx
  else portSchedBytes s idx

/-- The bytes of a configured entry in one copy: key part and data part (15_commands Table 15.11). -/
def State.entryBytes (s : State) (t : Tbl Nat) (h : TblHeader) : List Byte :=
  match tableSpec h.table with
  | none => []
  | some (size, key, _) =>
    let e := if h.table = 2 then
        (if h.index < s.tables.pairRows then unitEntry t true s.tables.pairRows (h.index / 2) else ent t (tkey 2 0 h.index))
      else ent t (tkey h.table h.gen h.index)
    bytesLe (key + size) e

/-- TBL_READ (08_tables R221, R222, R228): the master unless the Cabinet is paused or its block damaged; a replica; or a state
table. -/
def doTblRead : Handler := fun _ _ ps s =>
  let h := tblHeader ps
  if stateTable h.table then
    let s' := if h.table = 0x15 then { s with pool := { s.pool with logUnread := 0 } } else s
    ok s' (stateTableBytes s h.table h.index)
  else if h.source = 0 then
    if s.cab.paused then busy s
    else
      match s.readMaster h.table h.gen h.index with
      | (t, none) => { st := t, status := 0x30 }
      | (t, some _) => ok t (s.entryBytes s.tables.master h)
  else
    ok (if s.tt.active.isSome ∧ (servicePort h.table).isSome then s.tick 0x68 (15 + h.source) else s)
      (s.entryBytes (s.quad (h.source - 1)).rep h)
/-- `TBL_READ`. -/
def execTblRead (p : Pkt) (s : State) : Ans := .next (s.runCommand 0x0202 p wfTblRead doTblRead)

/-! ### TBL_BULK (08_tables R223) -/

/-- One entry of a bulk write, as TBL_WRITE would write it. -/
def State.bulkOne (s : State) (code idx : Nat) (e : Image) : Except Nat State :=
  if contentBad code idx e then .error 0x11
  else if code = 2 then if pfxValid e then s.insertEntry e else s.deleteEntry e
  else s.writeEntry code 0 idx e

/-- Entries `i` on, `n` of them: the state, and where and with what status an entry is refused. -/
def State.bulkGo (s : State) (ps : List Byte) (code index : Nat) : Nat → Nat → State × Option (Nat × Nat)
  | 0, _ => (s, none)
  | n + 1, i =>
    match s.bulkOne code (index + i) (bulkEntry ps i) with
    | .error st => (s, some (i, st))
    | .ok t => t.bulkGo ps code index n (i + 1)

/-- The write form: each entry a commit point. -/
def doBulkWrite (p : Pkt) (ps : List Byte) (s : State) : Done :=
  let h := tblHeader ps
  if !s.d0Writable then busy s
  else
    let u := d0Units p h.aux
    let r := s.bulkGo ps h.table h.index u.1 0
    match r.2 with
    | some (i, st) => { st := r.1, status := st, results := bytesLe 8 i, part := decide (0 < i) }
    | none => if u.2 = 1 then partialReply r.1 u.1 else if u.2 = 2 then d0Busy r.1 u.1 else ok r.1

/-- The re-layout form: each move and each clear a unit and a commit point; NO_RESOURCE when the entries do not fit. -/
def doRelayout (p : Pkt) (ps : List Byte) (s : State) : Done :=
  let aux := (tblHeader ps).aux
  if !s.d0Writable then busy s
  else
    match s.layout (fld aux 0 18) (fld aux 24 8) with
    | none => noResource s
    | some l =>
      let u := d0Units p l.steps.length
      if u.1 = 0 ∧ u.2 = 2 then d0Busy s 0
      else
        let s := (l.steps.take u.1).foldl (fun (s : State) x => s.layStep x) s
        if u.2 = 0 then
          ok { s with tables := { s.tables with pairRows := fld aux 0 18, shimInterval := fld aux 24 8,
                                                pairZones := l.pairZones, singleZones := l.singleZones } }
        else
          let s := if u.1 = 0 then s else s.partLaid (fld aux 0 18)
          if u.2 = 1 then partialReply s u.1 else d0Busy s u.1

/-- TBL_BULK. -/
def doTblBulk : Handler := fun _ p ps s => if (tblHeader ps).form = 1 then doRelayout p ps s else doBulkWrite p ps s
/-- `TBL_BULK_WRITE`. -/
def execTblBulkWrite (p : Pkt) (s : State) : Ans := .next (s.runCommand 0x0205 (forceOp p 12 2 0) wfTblBulk doTblBulk)
/-- `TBL_BULK_RELAYOUT`. -/
def execTblBulkRelayout (p : Pkt) (s : State) : Ans :=
  .next (s.runCommand 0x0205 (forceOp (forceOp p 0 8 2) 12 2 1) wfTblBulk doTblBulk)

/-! ### Generations (08_tables R229 to R231) -/

/-- The generation that new first passes pin. -/
def State.currentGen (s : State) : Bool := (s.quad 0).gen

/-- A swap to a generation starts (08_tables R230): its round is two rounds on. -/
def State.startSwap (s : State) (g : Bool) (w : Option Waiter) : State :=
  let s := s.setMaster 0xF3 0 0 (b1 g)
  { s with tables := { s.tables with
      swap := some { s := s.tt.round + 2, newGen := g, waiter := w, draining := false, loose := false } } }

/-- GEN_SWAP (08_tables R230). -/
def doGenSwap : Handler := fun w p _ s =>
  if s.tables.swap.isSome ∨ !s.d0Writable then busy s
  else if (d0Units p 1).1 = 0 then d0Busy s 0
  else pendingReply (s.startSwap (!s.currentGen) (some w))
/-- `GEN_SWAP`. -/
def execGenSwap (p : Pkt) (s : State) : Ans := .next (s.runCommand 0x0204 p (lenZero 8) doGenSwap)

/-- At the boundary of round S every quad changes its current generation. -/
def State.genBoundary (s : State) : State :=
  match s.tables.swap with
  | some w =>
    if !w.draining ∧ w.s ≤ s.tt.round then
      { s with tables := { s.tables with
          quads := s.tables.quads.map fun q => { q with gen := w.newGen }
          swap := some { w with draining := true } } }
    else s
  | none => s
/-- `GEN_SWAP_BOUNDARY`. -/
def execGenSwapBoundary (s : State) : Ans := .next s.genBoundary

/-- A head pinned to a generation is in a pass or waits for recirculation. -/
def State.pinned (s : State) (gen : Bool) : Bool :=
  (s.flow.inPass.any fun x => x.2.2.gen == some gen) || s.flow.recirc.any fun x => x.2.gen == some gen

/-- The swap replies OK, with S and the new generation, once no head pinned to the old generation remains; after one that a pull brought the
standby asks for the digest of region 18 again (19_pair R474). -/
def State.genDrained (s : State) : State :=
  match s.tables.swap with
  | some w =>
    if w.draining ∧ !s.pinned (!w.newGen) then
      let s := { s with tables := { s.tables with swap := none } }
      match w.waiter with
      | some x => s.complete x 0 0 (bytesLe 8 w.s.toNat ++ bytesLe 8 (b1 w.newGen))
      | none => s.emit (.linkReq (.digest 18))
    else s
  | none => s
/-- `GEN_SWAP_DRAINED`. -/
def execGenSwapDrained (s : State) : Ans := .next s.genDrained

end Sys2Proof.Machine
end

