-- ==== Sys2Proof/Machine/Learning.lean ====
section
/-!
DEFINITION. Learning, ageing, scrubbing and replica repair (08_tables R213 to R219, R224 to R228): AGE_SCAN and the rows of the
maintenance slots. A maintenance slot exists while an image is active (02_timetable R41; 22_board R526).
-/

namespace Sys2Proof.Machine

/-! ### Candidates and notices (08_tables R214, R217) -/

/-- A candidate reaches its quad's recent-source filter and, when it is new there, the learning queue (08_tables R214). -/
def State.offerCandidate (s : State) (q : Nat) (c : Candidate) : State :=
  let x := (c.addr, c.vlan, c.lp, c.sec)
  let u := s.quad q
  if u.filter.contains x then s.tick 0x48 (16 + q)
  else
    let s := s.modQuad q fun u => { u with filter := (u.filter ++ [x]).drop (u.filter.length + 1 - 1024) }
    if 64 ≤ u.lqueue.length then s.tick 0x49 (16 + q)
    else s.modQuad q fun u => { u with lqueue := u.lqueue ++ [c] }

/-- A learning notice (08_tables Table 8.9). -/
def noticeBytes (typ q row addr vlan lp oldLp sec : Nat) : List Byte :=
  bytesLe 2 (typ + 4 * q) ++ bytesLe 2 row ++ bytesLe 6 addr ++ bytesLe 2 vlan ++
    bytesLe 4 (lp + oldLp * 2 ^ 9 + sec % 2 ^ 14 * 2 ^ 18)

/-- A notice on its way to the NOTICE ring. -/
def State.notice (s : State) (bytes : List Byte) : State := { s with host := { s.host with notices := s.host.notices ++ [bytes] } }

/-- The learning control block as a quad holds it (08_tables R213). -/
def State.quadBlock (s : State) (q : Nat) : Image := s.replica q 0x0A 0 0

/-- The low 60 bits of a station row: address and VLAN. -/
def stationKeyOf (addr : BitVec 48) (vlan : BitVec 12) : Nat := addr.toNat + vlan.toNat * 2 ^ 48

/-- The row that a station key matches: the lowest configured one, and the lowest learned one where no configured row matches, since a
learned row whose key equals a configured row at a higher number never decides (08_tables R215, which qualifies R211; log entry
110). -/
def stationSearch (t : Tbl Nat) (key : Nat) : Option (Nat × Image) :=
  let hits := (stationRows t).filter fun x => stationValid x.2 && fld x.2 0 60 == key
  (hits.find? fun x => !stationLearned x.2).or hits.head?

/-- The lowest row from `row` to `hi` whose valid bit is clear; `n` bounds the search. -/
def freeRow (t : Tbl Nat) (hi : Nat) : Nat → Nat → Option Nat
  | 0, _ => none
  | n + 1, row =>
    if hi < row then none
    else if stationValid (ent t (tkey 1 0 row)) then freeRow t hi n (row + 1) else some row

/-! ### The learning slot (08_tables R215, R218) -/

/-- A learned row's record: has_dest, target lp, learned, last_seen (08_tables Tables 8.1, 8.6). -/
def learnedRecord (lp : Nat) (sec : BitVec 16) : Nat := 1 + lp * 4 + 2 ^ 18 + sec.toNat * 2 ^ 48

/-- No free row: FULL, at most once a second and quad (08_tables Table 8.8; 20_faults Table 20.4). -/
def State.learnFull (s : State) (q : Nat) (c : Candidate) : State :=
  let s := s.tick 0x50 (16 + q)
  let sec := secOf s.devTime
  if (s.quad q).lastFull = some sec then s
  else
    ((s.modQuad q fun u => { u with lastFull := some sec }).notice
      (noticeBytes 3 q 0 c.addr.toNat c.vlan.toNat c.lp.val 0 sec)).raise (1332 + q)

/-- The search for a candidate in a cycle (08_tables Table 8.8): the write it calls for waits for the next slot. -/
def State.learnSearch (s : State) (q cycle : Nat) (c : Candidate) : State :=
  let t := s.repAt q cycle
  let b := s.quadBlock q
  let key := stationKeyOf c.addr c.vlan
  let plan (row old new : Nat) (isNew : Bool) : State :=
    s.modQuad q fun u => { u with plan := some {
      cand := c, row := row, oldKey := old % 2 ^ 64, oldRec := old / 2 ^ 64, newKey := key + 2 ^ 63, newRec := new, isNew := isNew } }
  match stationSearch t key with
  | some (row, e) =>
    let r := e / 2 ^ 64
    if !stationLearned e then s.tick 0x4C (16 + q)
    else if fld r 2 16 = c.lp.val then plan row e (setFld r 48 16 c.sec.toNat) false
    else if bitAt b 545 then plan row e (setFld (setFld r 2 16 c.lp.val) 48 16 c.sec.toNat) false
    else s.tick 0x4E (16 + q)
  | none =>
    match freeRow t (learnHigh b) (t.length + 1) (learnLow b) with
    | some row => plan row (ent t (tkey 1 0 row)) (learnedRecord c.lp.val c.sec) true
    | none => s.learnFull q c

/-- The conditional write of a plan in a cycle, with its counter and its notice (08_tables R215, R217). -/
def State.learnWrite (s : State) (q cycle : Nat) (p : LearnPlan) : State :=
  let s := s.modQuad q fun u => { u with plan := none }
  let e := ent (s.repAt q cycle) (tkey 1 0 p.row)
  let holds := if p.isNew then !stationValid e else e == p.oldKey + p.oldRec * 2 ^ 64
  if !holds then s.tick 0x51 (16 + q)
  else
    let s := s.setReplica q 1 0 p.row cycle (p.newKey + p.newRec * 2 ^ 64)
    let b := s.quadBlock q
    let c := p.cand
    let sec := secOf s.devTime
    if p.isNew then
      let s := s.tick 0x4F (16 + q)
      if bitAt b 546 then s.notice (noticeBytes 0 q p.row c.addr.toNat c.vlan.toNat c.lp.val 0 sec) else s
    else if fld p.oldRec 2 16 = c.lp.val then s.tick 0x4B (16 + q)
    else
      let s := s.tick 0x4D (16 + q)
      if bitAt b 547 then s.notice (noticeBytes 1 q p.row c.addr.toNat c.vlan.toNat c.lp.val (fld p.oldRec 2 16 % 512) sec) else s

/-- An ageing removal, when the row's key and last_seen are still those read (08_tables R218). -/
def State.ageRemove (s : State) (q cycle : Nat) (x : Nat × Nat × BitVec 16) : State :=
  let s := s.modQuad q fun u => { u with removals := u.removals.drop 1 }
  let e := ent (s.repAt q cycle) (tkey 1 0 x.1)
  if stationValid e && stationLearned e && fld e 0 60 == x.2.1 && fld e 112 16 == x.2.2.toNat then
    let s := (s.setReplica q 1 0 x.1 cycle (setFld e 63 1 0)).tick 0x52 (16 + q)
    { s with tables := { s.tables with scan := s.tables.scan.map fun a => { a with rowsRemoved := a.rowsRemoved + 1 } } }
  else s

/-- What a learning slot does: an ageing removal ahead of any candidate, then the write that the last slot's search called for, then the
next candidate, once its frame's FCS outcome is known (08_tables R215, R218). -/
def State.learnIn (s : State) (q cycle : Nat) : State :=
  let u := s.quad q
  match u.removals with
  | x :: _ => (s.tick 0x69 (16 + q)).ageRemove q cycle x
  | [] =>
    if !learnOn (s.quadBlock q) then s
    else
      match u.plan with
      | some p => (s.tick 0x69 (16 + q)).learnWrite q cycle p
      | none =>
        match u.lqueue with
        | [] => s
        | c :: r =>
          let s' := s.modQuad q fun u => { u with lqueue := r }
          match c.frame, c.fcsOk with
          | some _, none => s
          | _, some false => s'.tick 0x4A (16 + q)
          | _, _ => (s'.tick 0x69 (16 + q)).learnSearch q cycle c

/-- A learning slot of a quad, in a cycle of the round whose use it is (02_timetable R41). -/
def State.learnSlot (s : State) (q cycle : Nat) : State :=
  match s.maintenance q 0 2 cycle with
  | none => s
  | some t => t.learnIn q (s.absCycle cycle)
/-- `LEARNING_SLOT`. -/
def execLearningSlot (q : Fin 4) (cycle : Fin 1024) (s : State) : Ans := .next (s.learnSlot q.val cycle.val)

/-! ### Ageing (08_tables R218, R219) -/

/-- The format of AGE_SCAN (15_commands R385). -/
def wfAgeScan (ps : List Byte) (_ : State) : Bool :=
  let limit := fld (img ps) 16 16
  ps.length == 8 && onlyBits ps (bits 0 5 + bits 16 16) && fld (img ps) 0 4 != 0 && decide (1 ≤ limit) && decide (limit ≤ 32767)

/-- AGE_SCAN: one at a time. -/
def doAgeScan : Handler := fun w _ ps s =>
  if s.tables.scan.isSome then busy s
  else
    let scan : AgeScan :=
      { waiter := w, limit := fld (img ps) 16 16, remove := bitAt (img ps) 4, next := [],
        quads := (List.finRange 4).filter fun q => bitAt (img ps) q.val, rowsRead := 0, rowsRemoved := 0 }
    pendingReply { s with tables := { s.tables with scan := some scan } }
/-- `AGE_SCAN`. -/
def execAgeScan (p : Pkt) (s : State) : Ans := .next (s.runCommand 0x0206 p wfAgeScan doAgeScan)

/-- The age of a row at a second: 32,768 or more counts as 0 (08_tables R218). -/
def ageOf (sec lastSeen : Nat) : Nat :=
  let a := (sec + 65536 - lastSeen) % 65536
  if 32768 ≤ a then 0 else a

/-- The scan's next row of a quad read in a cycle. -/
def State.ageRow (s : State) (q : Fin 4) (a : AgeScan) (cycle : Nat) : State :=
  let b := s.quadBlock q.val
  let row := learnLow b + tget 0 a.next q.val
  let s := s.tick 0x6B (16 + q.val)
  let e := ent (s.repAt q.val cycle) (tkey 1 0 row)
  let sec := secOf s.devTime
  let old := stationValid e && stationLearned e && decide (a.limit < ageOf (sec % 65536) (fld e 112 16))
  let s := if old && bitAt b 548 then
      s.notice (noticeBytes 2 q.val row (fld e 0 48) (fld e 48 12) (fld e 66 16 % 512) 0 sec) else s
  let s := if old && a.remove then
      s.modQuad q.val fun u => { u with removals := u.removals ++ [(row, fld e 0 60, BitVec.ofNat 16 (fld e 112 16))] }
    else s
  let a' := { a with
    rowsRead := a.rowsRead + 1
    next := tset 0 a.next q.val (tget 0 a.next q.val + 1)
    quads := if learnHigh b ≤ row then a.quads.filter (· != q) else a.quads }
  { s with tables := { s.tables with scan := some a' } }

/-- An ageing-read slot of a quad, in a cycle of the round whose use it is, reads the scan's next row. -/
def State.ageRead (s : State) (q : Fin 4) (cycle : Nat) : State :=
  match s.tables.scan with
  | none => s
  | some a =>
    if a.quads.contains q then
      match s.maintenance q.val 0 4 cycle with
      | none => s
      | some t => t.ageRow q a (s.absCycle cycle)
    else s
/-- `AGEING_READ`. -/
def execAgeingRead (q : Fin 4) (cycle : Fin 1024) (s : State) : Ans := .next (s.ageRead q cycle.val)

/-- Every selected quad has read its range and made its removals: OK with the counts of rows read and removed (08_tables
R219). -/
def State.ageScanDone (s : State) : State :=
  match s.tables.scan with
  | none => s
  | some a =>
    if a.quads.isEmpty ∧ s.tables.quads.all (fun u => u.removals.isEmpty) then
      ({ s with tables := { s.tables with scan := none } } : State).complete a.waiter 0 0
        (bytesLe 8 a.rowsRead ++ bytesLe 8 a.rowsRemoved)
    else s
/-- `AGE_SCAN_COMPLETE`. -/
def execAgeScanComplete (s : State) : Ans := .next s.ageScanDone

/-! ### Scrubbing (08_tables R224, R225) -/

/-- The table code, generation and index of entry `i` of a memory: the template store holds both generations, the automata store
its directory, maps, states and transitions one after the other. -/
def memEntry (t : TableId) (i : Nat) : Nat × Nat × Nat :=
  match t with
  | .station => (1, 0, i)
  | .prefixTable => (2, 0, i)
  | .session => (3, 0, i)
  | .rule => (4, 0, i)
  | .template => (5, i / 256, i % 256)
  | .automata =>
    if i < 256 then (6, 0, i) else if i < 272 then (7, 0, i - 256) else if i < 8464 then (8, 0, i - 272) else (9, 0, i - 8464)
  | .learning => (0x0A, 0, i)

/-- Entries of a memory. -/
def memSize (t : TableId) : Nat :=
  match t with
  | .station => 65536 | .prefixTable => 262144 | .session => 1048576 | .rule => 32768 | .template => 512
  | .automata => 24848 | .learning => 1

/-- A masked associative table: parity and a shadow (08_tables Table 8.10). -/
def associative (t : TableId) : Bool := t == .station || t == .prefixTable || t == .rule

/-- The block of an entry marked for repair. -/
def State.markRepair (s : State) (q code gen idx : Nat) : State :=
  s.modQuad q fun u => { u with marked := mark u.marked (blockKey code gen idx) }

/-- A valid learned station row, or a row of the learning range that holds nothing: no configured content (08_tables R212, R227). -/
def State.unconfigured (s : State) (q : Nat) (e : Image) (row : Nat) : Bool :=
  stationLearned e || (!stationValid e && inLearnRange (s.quadBlock q) row)

/-- What the scrubber does with an associative row, its parity and its shadow (08_tables R225). A configured row whose shadow cannot be
corrected holds a content that is not known until its block is repaired (log entry 1); a learned one loses its valid bit, and so does
a row of the learning range that held none. -/
def State.scrubRow (s : State) (q code i cycle : Nat) (f : ScrubFinding) : State :=
  let e := ent (s.repAt q cycle) (tkey code 0 i)
  match f with
  | .clean => s
  | .corrected => s.tick 0x60 (16 + q)
  | .uncorrectable =>
    if code = 1 ∧ s.unconfigured q e i then
      let s := s.setReplica q 1 0 i cycle (setFld e 63 1 0)
      if stationLearned e then s.tick 0x53 (16 + q) else s
    else ((s.setReplica q code 0 i cycle (Config.upsetRow (tkey code 0 i) e)).markRepair q code 0 i).tick 0x61 (16 + q)

/-- What the scrubber does with an entry under SECDED: a session entry, a template, an entry of the automata store, or the data part of an
associative row (08_tables Table 8.10, R225). An uncorrectable learned record is no configured content, and no block is marked for
it. -/
def State.scrubData (s : State) (q code gen i cycle : Nat) (f : ScrubFinding) : State :=
  let e := ent (s.repAt q cycle) (tkey code gen i)
  match f with
  | .clean => s
  | .corrected => s.tick 0x5D (16 + q)
  | .uncorrectable => if code = 1 ∧ s.unconfigured q e i then s else s.markRepair q code gen i

/-- The service port in whose slots a memory is scrubbed and repaired; the automata store is reached through the engines' write ports
(08_tables Table 8.10; 07_match R194). -/
def memPort (t : TableId) : Option Nat := servicePort (memEntry t 0).1

/-- A scrub slot of a memory taken, and the cycle in which it falls; the automata store takes no maintenance slot. -/
def State.memSlot (s : State) (q : Nat) (t : TableId) (use cycle : Nat) : Option State :=
  match memPort t with
  | some k => s.maintenance q k use cycle
  | none => if s.tt.active.isNone then none else some (s.at_ (cycleAt8 cycle))

/-- A scrub slot (08_tables R225): `key` is what the scrubber finds in an associative row, its parity and its shadow, `data` what it finds
in the entry under SECDED, which for an associative row is its data part. -/
def State.scrub (s : State) (q : Nat) (t : TableId) (i cycle : Nat) (key data : ScrubFinding) : State :=
  if memSize t ≤ i then s
  else
    match s.memSlot q t 3 cycle with
    | none => s
    | some u =>
      let k := memEntry t i
      let c := s.absCycle cycle
      let u := if t = .automata then u else u.tick 0x6A (16 + q)
      let u := if associative t then u.scrubRow q k.1 i c key else u
      u.scrubData q k.1 k.2.1 k.2.2 c data
/-- `SCRUB_SLOT`. -/
def execScrubSlot (q : Fin 4) (table : TableId) (index : Nat) (cycle : Fin 1024) (key data : ScrubFinding) (s : State) : Ans :=
  .next (s.scrub q.val table index cycle.val key data)

/-! ### Replica repair (08_tables R226 to R228) -/

/-- The bytes of an entry that a digest takes in: not last_seen, and not pair_stamp (08_tables R226, after R219). -/
def digestEntry (code : Nat) (e : Image) : List Byte :=
  if code = 1 then bytesLe 16 (setFld e 112 16 0)
  else if code = 2 then bytesLe 32 (e % 2 ^ 256)
  else match tableSpec code with | some (size, key, _) => bytesLe (key + size) e | none => []

/-- The entries of a repair block that digests and repairs take in: rows of the learning range are outside (08_tables R227). -/
def State.blockRows (s : State) (code block : Nat) : List Nat :=
  ((List.range 64).map (64 * block + ·)).filter fun i =>
    decide (i < tableSize code) && !(code == 1 && inLearnRange s.learnBlock i)

/-- The digest of a block in a copy: the CRC-32C of its configured content (08_tables R226). -/
def State.blockDigest (s : State) (t : Tbl Nat) (code gen block : Nat) : BitVec 32 :=
  crc32c ((s.blockRows code block).map fun i => digestEntry code (ent t (tkey code gen i))).flatten

/-- The blocks of a memory, by table code, generation and block number. -/
def memBlock (t : TableId) (b : Nat) : Nat × Nat × Nat :=
  match t with
  | .station => (1, 0, b)
  | .prefixTable => (2, 0, b)
  | .session => (3, 0, b)
  | .rule => (4, 0, b)
  | .template => (5, b / 4 % 2, b % 4)
  | .automata => if b < 4 then (6, 0, b) else if b < 5 then (7, 0, 0) else if b < 133 then (8, 0, b - 5) else (9, 0, b - 133)
  | .learning => (0x0A, 0, b)

/-- Repair slots of a memory spent beside the one that the command names; the automata store takes none. -/
def State.repairSlots (s : State) (q : Nat) (t : TableId) (n : Nat) : State :=
  match memPort t with
  | some k => s.spendSlots q k 5 0x6C n
  | none => s

/-- A write of a command to the block is still on its way to the quad's replica (08_tables R227). -/
def State.blockQueued (s : State) (q code gen block cycle : Nat) : Bool :=
  (s.quad q).hist.any fun w => decide (cycle ≤ w.cycle) && w.key / 2 ^ 32 == tkey code gen 0 / 2 ^ 32 &&
    w.key % 2 ^ 32 / 64 == block

/-- A block read in repair slots and compared; when its digest differs or the scrubber has marked it, every row rewritten from the master
in repair slots, one write a row, and the block checked again (08_tables R226). A master block found uncorrectable is marked damaged
(R228). -/
def State.repairBlock (s : State) (q : Nat) (t : TableId) (code gen block : Nat) (masterBad : Bool) : State :=
  let rows := s.blockRows code block
  if masterBad then s.markDamaged (tkey code gen block)
  else
    let s := s.repairSlots q t (rows.length - 1)
    let differs := s.blockDigest s.tables.master code gen block != s.blockDigest (s.quad q).rep code gen block
    if differs || marked (s.quad q).marked (tkey code gen block) then
      let s := rows.foldl (fun (s : State) i => s.slotWrite q 5 0x6C (tkey code gen i) (s.master code gen i)) s
      let s := s.modQuad q fun u => { u with marked := unmark u.marked (tkey code gen block) }
      (s.repairSlots q t rows.length).tick 0x62 (16 + q)
    else s

/-- A block of a quad's replica checked from a repair slot of the round on (08_tables R226 to R228): a block whose master is damaged, or
that a command's write is queued for, is passed over. -/
def State.repair (s : State) (q : Nat) (t : TableId) (b cycle : Nat) (masterBad : Bool) : State :=
  let k := memBlock t b
  if !s.d0Writable ∨ s.blockRows k.1 k.2.2 = [] ∨ (s.tables.damaged.any fun d => d.1 == tkey k.1 k.2.1 k.2.2) ∨
      s.blockQueued q k.1 k.2.1 k.2.2 (s.absCycle cycle) then s
  else
    match s.memSlot q t 5 cycle with
    | none => s
    | some u => ((if t = .automata then u else u.tick 0x6C (16 + q)).repairBlock q t k.1 k.2.1 k.2.2 masterBad)
/-- `REPLICA_REPAIR`. -/
def execReplicaRepair (q : Fin 4) (table : TableId) (block : Nat) (cycle : Fin 1024) (masterBad : Bool) (s : State) : Ans :=
  .next (s.repair q.val table block cycle.val masterBad)

end Sys2Proof.Machine
end

