-- ==== Sys2Proof/Machine/Pmc.lean ====
section
/-!
DEFINITION. The performance counters' registers: counts and configurations, marks and sweeps (21_counters R500 to R511;
03_islands R85, R86).
-/

namespace Sys2Proof.Machine

/-- A write of PMC_CTR_k (21_counters R500). -/
def State.pmcCtr (s : State) (k v : Nat) : State :=
  { s with pmc := { s.pmc with ctr := tset 0 s.pmc.ctr k (BitVec.ofNat 48 v) } }
/-- `PMC_CTR_WRITE`. -/
def execPmcCtrWrite (k : Fin 256) (v : BitVec 64) (s : State) : Ans := .next (s.pmcCtr k.val v.toNat)

/-- A write of PMC_CFG_k (21_counters Table 21.3, R505): the fixed slot counters have none. -/
def State.pmcCfg (s : State) (k v : Nat) : State :=
  if isPipeCtr k || isGlobalCtr k then
    { s with pmc := { s.pmc with cfg := tset 0 s.pmc.cfg k (BitVec.ofNat 64 (v &&& (bits 0 14 + bits 16 8))) } }
  else s
/-- `PMC_CFG_WRITE`. -/
def execPmcCfgWrite (k : Fin 256) (v : BitVec 64) (s : State) : Ans := .next (s.pmcCfg k.val v.toNat)

/-- A mark's arrival in the islands: every counter, the MAC statistics and their snapshot number (03_islands R86; 21_counters R508;
04_line R115, R120). -/
def State.latchMark (s : State) (no : BitVec 8) : State :=
  let s := { s with pmc := { s.pmc with
    snap := s.pmc.ctr, snapNo := (List.range 256).foldl (fun t k => tset 0 t k no) s.pmc.snapNo } }
  let s := (List.range 512).foldl (fun (s : State) lp => s.modPort lp fun p => { p with statsSnap := p.stats, statsSnapNo := no }) s
  { s with mgmt := { s.mgmt with statsSnap := s.mgmt.stats, snapNo := no } }

/-- The code of TOKEN messages (19_pair Table 19.2), with what the token is. -/
def State.sendToken (s : State) (kind v : Nat) : State := s.emit (.link 3 [kind, v])

/-- A mark issued (21_counters R508): across the pair while the device mirrors, and then in flight until the peer acknowledges. -/
def State.issueMark (s : State) (pair : Bool) (no : BitVec 8) : State :=
  if pair && s.mirroring then
    (({ s with pmc := { s.pmc with markBusy := true } } : State).sendToken 0 no.toNat).latchMark no
  else
    ({ s with pmc := { s.pmc with pairMissed := s.pmc.pairMissed || pair } } : State).latchMark no

/-- A write of PMC_MARK (21_counters Table 21.5, R508). -/
def State.pmcMark (s : State) (v : Nat) : State :=
  let busy := s.pmc.markBusy
  let s := { s with pmc := { s.pmc with
    markNo := BitVec.ofNat 8 v, markPair := bitAt v 8
    markRejected := s.pmc.markRejected && !bitAt v 11, pairMissed := s.pmc.pairMissed && !bitAt v 12 } }
  if !bitAt v 9 then s
  else if busy then { s with pmc := { s.pmc with markRejected := true } }
  else s.issueMark (bitAt v 8) (BitVec.ofNat 8 v)
/-- `PMC_MARK`. -/
def execPmcMark (v : BitVec 64) (s : State) : Ans := .next (s.pmcMark v.toNat)

/-- The latch times of a sweep's counters after its first, in ns: consecutive latches lie no more than 40 ns apart, by how much is
open (21_counters R507; log entry 1). -/
def latchTimes (free : Nat) : Nat → Nat → List Nat
  | 0, _ => []
  | n + 1, t => t :: latchTimes (free + 1) n (t + Config.choice free % 41)

/-- One entry of the sweep buffer (21_counters R507). -/
def State.sweepEntry (s : State) (k t : Nat) : State :=
  let v := (tget 0 s.pmc.ctr k).toNat + min 65535 t * 2 ^ 48
  { s with pmc := { s.pmc with sweep := tset 0 s.pmc.sweep k (BitVec.ofNat 64 v) } }

/-- A write of PMC_SWEEP (21_counters Table 21.5, R507): a start latches every counter of the range but the last. -/
def State.pmcSweep (s : State) (v : Nat) : State :=
  let busy := s.pmc.sweepBusy
  let first := fld v 0 8
  let last := fld v 8 8
  let s := { s with pmc := { s.pmc with
    sweepFirst := first, sweepLast := last, sweepRejected := s.pmc.sweepRejected && !bitAt v 18 } }
  if !bitAt v 16 then s
  else if busy then { s with pmc := { s.pmc with sweepRejected := true } }
  else
    let hi := max first last
    let n := hi - first
    let s := (((List.range n).map (· + first)).zip (latchTimes s.freeCtr n 0)).foldl
      (fun (s : State) x => s.sweepEntry x.1 x.2) s
    { s with freeCtr := s.freeCtr + n, pmc := { s.pmc with sweepBusy := true, sweeping := some (first, hi) } }
/-- `PMC_SWEEP`. -/
def execPmcSweep (v : BitVec 64) (s : State) : Ans := .next (s.pmcSweep v.toNat)

/-- A sweep latches its last counter and ends (21_counters R507). -/
def State.sweepEnd (s : State) : State :=
  match s.pmc.sweeping with
  | none => s
  | some (first, last) =>
    let before := (tget 0 s.pmc.sweep (last - 1)).toNat / 2 ^ 48
    let s := s.sweepEntry last (if last = first then 0 else before + Config.choice s.freeCtr % 41)
    { s with freeCtr := s.freeCtr + 1, pmc := { s.pmc with sweepBusy := false, sweeping := none } }
/-- `SWEEP_COMPLETE`. -/
def execSweepComplete (s : State) : Ans := .next s.sweepEnd

end Sys2Proof.Machine
end

