-- ==== Sys2Proof/Machine/MirrorOps.lean ====
section
/-!
DEFINITION. The mirror unit's own operations (19_pair R462 to R479): regions and their digests, comparison and pulls, the ends of
the link, roles and takeover, and the rows MIRROR_CONFIG, MIRROR_ROLE and MIRROR_CHECK.
-/

namespace Sys2Proof.Machine

/-- A unit of the link has passed its check now (19_pair R460): whole messages come in such units too (log entry 138). -/
def State.heardNow (s : State) : State := if s.mirror.linkUp then { s with mirror := { s.mirror with heard := s.nowPs } } else s

/-! ### Regions and digests (19_pair Table 19.8) -/

/-- The mirror unit changed. -/
def State.modMirror (s : State) (f : MirrorState → MirrorState) : State := { s with mirror := f s.mirror }

/-- A region's state (19_pair Table 19.10). -/
def State.region (s : State) (r : Nat) : Nat := tget 3 s.mirror.regions r
/-- A region's state written. -/
def State.setRegion (s : State) (r v : Nat) : State := s.modMirror fun m => { m with regions := tset 3 m.regions r v }

/-- The table codes of a region whose digest lies over block digests. -/
def regionCodes (r : Nat) : List Nat :=
  if r = 0 then [1]
  else if r ≤ 4 then [r + 1]
  else if r = 5 then [6, 7, 8, 9]
  else if r = 6 then [0x0A]
  else if r = 7 then [0x0B]
  else if r ≤ 12 then [r + 5]
  else if r ≤ 15 then [r + 10]
  else []

/-- The region of a table. -/
def regionOf (code : Nat) : Nat := ((List.range 16).find? fun r => (regionCodes r).contains code).getD 0

/-- The blocks of a region, in block order: table code, generation and block number (08_tables R226). -/
def regionBlocks (r : Nat) : List (Nat × Nat × Nat) :=
  ((regionCodes r).map fun code =>
    ((if code = 5 then [0, 1] else [0]).map fun gen =>
      (List.range ((tableSize code + 63) / 64)).map fun b => (code, gen, b)).flatten).flatten

/-- The parameters with which PORT_CONFIG would write a macro as it is configured (04_line Table 4.4). -/
def State.portParams (s : State) (m : Nat) : List Byte :=
  let x := s.macro_ m
  let n := 2 ^ x.mode.toNat
  bytesLe 8 (m + x.mode.toNat * 2 ^ 8 + (2 ^ n - 1) * 2 ^ 16 + x.rxPol.toNat * 2 ^ 24 + x.txPol.toNat * 2 ^ 32) ++
    ((List.range n).map fun j => bytesLe 128 (s.port (lpOf m x.mode.toNat j)).cfg).flatten

/-- The content of regions 16 to 18; the spec gives it no layout (log entry 33). -/
def State.regionContent (s : State) (r : Nat) : List Byte :=
  if r = 16 then ((List.range 64).map s.portParams).flatten
  else if r = 17 then
    fit 16 (match s.tt.active with | some b => imageId b | none => []) ++ fit 16 (imageId s.tt.shadow) ++ bytesLe 1 s.tt.shadowState.code
  else ((List.range 4).map fun q => bytesLe 1 (b1 (s.quad q).gen)).flatten

/-- A region's digest, from this device's masters (19_pair Table 19.8, R473). -/
def State.regionDigest (s : State) (r : Nat) : BitVec 32 :=
  if r = 6 then crc32c (digestEntry 0x0A (s.master 0x0A 0 0))
  else if r ≤ 15 then
    crc32c ((regionBlocks r).map fun b => bytesLe 4 (s.blockDigest s.tables.master b.1 b.2.1 b.2.2).toNat).flatten
  else crc32c (s.regionContent r)

/-- A region's digest can be taken: those of tables lie in D0. -/
def State.digestible (s : State) (r : Nat) : Bool := decide (16 ≤ r) || s.d0Writable

/-- A DIGEST message of a region at the present mirror_seq (19_pair R473, Table 19.2). -/
def State.sendDigest (s : State) (r : Nat) : State :=
  if s.digestible r then s.emit (.link 10 [r, s.mirror.seq.toNat, (s.regionDigest r).toNat]) else s

/-- The digests of every region (19_pair R479). -/
def State.sendDigests (s : State) : State := (List.range 19).foldl (fun (s : State) r => s.sendDigest r) s

/-! ### MIRROR_CHECK (19_pair R479) -/

/-- The 64 bytes of Table 19.10. -/
def checkBytes (s : State) : List Byte :=
  let m := s.mirror
  let code : Role → Nat := fun r => match r with | .solo => 0 | .primary => 1 | .standby => 2
  let peer := match m.peer with | some x => code x.1 | none => 3
  bytesLe 4 (code m.role + 4 * peer + 16 * b1 m.linkUp + 32 * b1 m.syncing + 64 * b1 s.time.dovetailLocked + 128 * b1 m.conflict) ++
    bytesLe 4 m.dPs ++ bytesLe 8 m.seq.toNat ++ bytesLe 8 m.refused.toNat ++ bytesLe 8 m.resends.toNat ++
    bytesLe 8 m.downEvents.toNat ++ fit 24 ((List.range 19).map fun r => BitVec.ofNat 8 (s.region r))

/-- A MIRROR_CHECK that waits replies OK. -/
def State.endCheck (s : State) : State :=
  match s.mirror.checkWait with
  | none => s
  | some x => (s.modMirror fun m => { m with checkWait := none, checkAck := false }).complete x.1 0 0 (checkBytes s)

/-- A MIRROR_CHECK that waits ends once the barrier is acknowledged and every region compared: digests are compared in the order
sent, so region 17, which is never pulled, is divergent when only it has not been reported equal (log entry 34). -/
def State.settleCheck (s : State) : State :=
  match s.mirror.checkWait with
  | none => s
  | some x =>
    if !(s.mirroring && s.mirror.role == .primary) then s.endCheck
    else if s.mirror.checkAck ∧ x.2.all (fun r => r.val == 17) then
      (x.2.foldl (fun (s : State) r => s.setRegion r.val 1) s).endCheck
    else s

/-- The standby's comparison of a region is known to the primary: equal, or divergent and being pulled. -/
def State.regionReported (s : State) (r v : Nat) : State :=
  ((s.setRegion r v).modMirror fun m =>
    { m with checkWait := m.checkWait.map fun x => (x.1, x.2.filter fun q => q.val != r) }).settleCheck

/-- MIRROR_CHECK: on a mirroring primary the pair barrier and every digest; elsewhere the state held. -/
def doMirrorCheck : Handler := fun w _ _ s =>
  if s.mirror.checkWait.isSome then busy s
  else if s.mirroring && s.mirror.role == .primary then
    if !s.d0Writable then busy s
    else
      let s := s.modMirror fun m => { m with checkWait := some (w, List.finRange 19), checkAck := false }
      pendingReply (s.sendToken 2 0).sendDigests
  else pendingReply (s.modMirror fun m => { m with checkWait := some (w, []), checkAck := true })
/-- `MIRROR_CHECK`. -/
def execMirrorCheck (p : Pkt) (s : State) : Ans := .next (s.runCommand 0x0602 p (lenZero 8) doMirrorCheck).settleCheck

/-! ### Pulls (19_pair R465, R472 to R474) -/

/-- A pull of R465 or R472 starts: every region is compared anew, in index order, and every feed pulled. What the peer sent before
its last STATE message has come, so the applied mirror_seq is the one that message names (log entry 35). -/
def State.startPull (s : State) : State :=
  let seq := match s.mirror.peer with | some x => x.2.2.1 | none => s.mirror.seq
  (s.modMirror fun m =>
    { m with syncing := true, feedPull := true, pullNext := some 0, regions := [], held := [], seq := seq }).emit (.linkReq (.digest 0))

/-- A region that the full pull need not wait for: equal, or a region 16 or 17 that R474 leaves divergent. -/
def State.regionSettled (s : State) (r : Nat) : Bool := s.region r == 0 || (s.region r == 1 && (r == 16 || r == 17))

/-- The pull goes on to the next region once the present one is settled, then to the feeds; it is complete when all are done and,
for a MIRROR_ROLE that waits, dovetail_locked is set: MIRROR_ROLE replies OK (19_pair R465). -/
def State.settlePull (s : State) : State :=
  if !s.mirror.syncing then s
  else
    match s.mirror.pullNext with
    | some r =>
      if !s.regionSettled r then s
      else if r = 18 then (s.modMirror fun m => { m with pullNext := none }).emit (.linkReq .feeds)
      else (s.modMirror fun m => { m with pullNext := some (r + 1) }).emit (.linkReq (.digest (Fin.ofNat 19 (r + 1))))
    | none =>
      if s.mirror.feedPull ∨ !(List.range 19).all s.regionSettled then s
      else
        match s.mirror.roleWait with
        | some w =>
          if s.time.dovetailLocked then
            (s.modMirror fun m => { m with syncing := false, roleWait := none }).complete w 0 0 []
          else s
        | none => s.modMirror fun m => { m with syncing := false }

/-- A region compared by the standby (19_pair R473, R474): when the digests differ, DIVERGENCE is raised and the region's block
digests, its port configuration or its generations are requested; region 17 is never pulled. -/
def State.compareRegion (s : State) (r : Fin 19) (digest : BitVec 32) : State :=
  if !s.digestible r.val then s
  else if digest = s.regionDigest r.val then (s.setRegion r.val 0).emit (.linkPull (.regionEqual r))
  else
    let s := (s.setRegion r.val (if r.val = 17 then 1 else 2)).occur 41 (BitVec.ofNat 13 r.val)
    if r.val = 17 then s
    else if r.val = 16 then s.emit (.linkReq .portConfig)
    else if r.val = 18 then s.emit (.linkReq .generation)
    else s.emit (.linkReq (.blockDigests r))

/-- The digests that wait for the present mirror_seq are compared; those below it are dropped. -/
def State.compareHeld (s : State) : State :=
  let seq := s.mirror.seq
  let now := s.mirror.held.filter fun d => d.seq == seq
  let s := s.modMirror fun m => { m with held := m.held.filter fun d => decide (seq < d.seq) }
  (now.foldl (fun (s : State) d => s.compareRegion d.region d.digest) s).settlePull

/-- A pulled entry written as a command write, master first (19_pair R473; 08_tables R220): what a digest leaves out, last_seen and
pair_stamp (08_tables R226), stays the standby's own. -/
def pulledImage (code : Nat) (old e : Image) : Image :=
  if code = 1 then setFld e 112 16 (fld old 112 16)
  else if code = 2 then e % 2 ^ 256 + old / 2 ^ 256 * 2 ^ 256
  else e
/-- One pulled entry. -/
def State.writePulled (s : State) (code gen idx : Nat) (e : Image) : State :=
  let old := s.master code gen idx
  let s := s.loosen fun g => (code == 4 && (ruleGen old g || ruleGen e g)) || (code == 5 && gen == b1 g) || (code == 2 && pfxGen e g)
  (s.changeEntry code gen idx fun v => pulledImage code v e).afterWrite code idx old e

/-- Pulled entries of a block written, and the region compared again; without D0 the region stays divergent. -/
def State.pullEntries (s : State) (r : Fin 19) (code gen : Nat) (items : List (Nat × Nat)) : State :=
  if !s.d0Writable then s.setRegion r.val 1
  else
    let rows := items.filter fun x => decide (x.1 < tableSize code) && !(code == 1 && inLearnRange s.learnBlock x.1)
    (rows.foldl (fun (s : State) x => s.writePulled code gen x.1 x.2) s).emit (.linkReq (.digest r))

/-- Block digests of the primary: the blocks that differ are requested, and when none does the region is compared again. -/
def State.pullBlocks (s : State) (r : Fin 19) (ds : List (BitVec 8 × Bool × Nat × BitVec 32)) : State :=
  let diff := ds.filter fun d => s.blockDigest s.tables.master d.1.toNat (b1 d.2.1) d.2.2.1 != d.2.2.2
  if diff.isEmpty then s.emit (.linkReq (.digest r))
  else diff.foldl (fun (s : State) d => s.emit (.linkReq (.block d.1 d.2.1 d.2.2.1))) s

/-- A command of the device itself, for what a pull applies as a command would. -/
def ownPacket (ps : List Byte) : Pkt :=
  { port := .cp2, inst := 0, keySlot := 0, trailer := false, resv := 0, length := 0, tag := 0, params := ps, counter := 0, check := 0,
    pad := 0, src := 0, vlan := none, at8 := 0, cancelAt := none, d0StopAt := none }

/-- Pulled port configuration applied as PORT_CONFIG would apply it; a change that is refused leaves region 16 divergent (19_pair
R474). -/
def State.pullPorts (s : State) (params : List (List Byte)) : State :=
  let x := params.foldl (fun (x : State × Bool) ps =>
    if ps = x.1.portParams (fld (img ps) 0 6) then x
    else if !wfPortConfig ps x.1 then (x.1, false)
    else
      let d := doPortConfig (mkWaiter 0x0300 (ownPacket ps) none) (ownPacket ps) ps x.1
      if d.status = 0 then (d.st, x.2) else (x.1, false)) (s, true)
  if x.2 then x.1.emit (.linkReq (.digest 16)) else x.1.setRegion 16 1

/-- A pulled feed replaces the standby's runtime state of it; its open gaps take the standby's own residence counter (19_pair
R472). -/
def State.pullFeed (s : State) (x : FeedImage) : State :=
  s.modFeed x.feed.val fun f =>
    { f with tracking := x.tracking, n := x.nextSeq, seen := x.seen,
             gaps := (x.gaps.take 4).map fun g => { first := g.1, last := g.2, openedRes := s.resTime } }

/-- A feed's runtime state as it is pulled. -/
def State.feedImage (s : State) (f : Fin 4096) : FeedImage :=
  let x := s.feed f.val
  { feed := f, tracking := x.tracking, nextSeq := x.n, seen := x.seen, gaps := x.gaps.map fun g => (g.first, g.last) }

/-! ### Roles and takeover (19_pair R463, R464, R475, R478) -/

/-- Both devices are PRIMARY (19_pair R478). -/
def State.bothPrimary (s : State) : Bool :=
  s.mirror.role == .primary && (match s.mirror.peer with | some (r, _, _, _) => r == .primary | none => false)

/-- The peer is PRIMARY with the same pair_id. -/
def State.peerPrimary (s : State) : Bool :=
  s.mirror.linkUp && (match s.mirror.peer with | some (r, id, _, _) => r == .primary && id == s.mirror.pairId | none => false)

/-- A MIRROR_ROLE that waits ends without its pull. -/
def State.dropRoleWait (s : State) : State :=
  match s.mirror.roleWait with
  | some w => (s.modMirror fun m => { m with roleWait := none }).complete w 0x14 0 []
  | none => s

/-- The reply that a mirrored command in progress waits to send goes out: the primary waits for its standby no longer (19_pair
R467). -/
def State.releaseMirrored (s : State) : State :=
  match s.mirror.inProgress with
  | some c =>
    let s := s.modMirror fun m => { m with inProgress := none }
    match c.own with
    | some r => s.sendAudited c.waiter r c.outcome
    | none => s
  | none => s

/-- A device becomes STANDBY: its source is DOVETAIL and its lock loop starts anew (19_pair R464, R470). -/
def State.becomeStandby (s : State) : State :=
  ((s.releaseMirrored.setSource 2).modMirror fun m =>
    { m with role := .standby, conflict := false, handover := false, outputs := [], integ := 0, good := 0, bad := 0,
             primarySteps := none, stepWait := none }).settleCheck

/-- A STANDBY becomes PRIMARY, and its source is takeover_source with freq_adj held (19_pair R475; for a handover, log entry 36). -/
def State.becomePrimary (s : State) : State :=
  (s.dropRoleWait.setSource s.mirror.takeoverSource).modMirror fun m =>
    { m with role := .primary, syncing := false, feedPull := false, pullNext := none, held := [], genPull := none }

/-- A takeover (19_pair R475): while a pull is being completed it is only reported. -/
def State.takeover (s : State) : State :=
  if s.mirror.role ≠ .standby then s
  else if s.mirror.syncing then s.raise 1312
  else s.becomePrimary.raise 1312

/-- A condition of Table 19.9 on a STANDBY: a takeover from a mode on, and an event only below it; a PRIMARY that loses its standby
raises an event (R476). -/
def State.takeoverFrom (s : State) (mode : Nat) : State :=
  match s.mirror.role with
  | .standby => if mode ≤ s.mirror.takeoverMode.toNat then s.takeover else s.raise 1312
  | .primary => if s.mirroring then s.raise 1313 else s
  | .solo => s

/-- The link goes down (19_pair R460, R461, R471, R477): the standby holds freq_adj at the mean of its last 16 outputs and clears
its lock, nothing waits for the peer, and each device keeps its role. -/
def State.linkGoDown (s : State) : State :=
  if !s.mirror.linkUp then s
  else
    let s := if s.mirroring && s.mirror.role == .primary then s.raise 1313 else s
    let s := s.releaseMirrored
    let s := if s.mirror.role = .standby then
        let t := s.setRate (meanOr s.freqSet s.mirror.outputs)
        { t with time := { t.time with dovetailLocked := false } }
      else s
    let s := s.modMirror fun m =>
      { m with linkUp := false, downAt := some s.nowPs, downEvents := m.downEvents + 1, peer := none, rxWaiting := false,
               resendRun := 0, held := [], pullNext := none, good := 0, bad := 0, handover := false, cp2Q := [] }
    let s := { s with pmc := { s.pmc with markBusy := false } }
    s.settleCheck.raise 1316

/-! ### MIRROR_CONFIG and MIRROR_ROLE -/

/-- The format of MIRROR_CONFIG (19_pair R462, Table 19.4). -/
def wfMirrorConfig (ps : List Byte) (_ : State) : Bool :=
  let v := img ps
  ps.length == 64 && onlyBits ps (bits 0 5 + bits 16 16 + bits 32 2 + bits 64 16 + bits 128 128 + bits 256 256) &&
    fld v 1 2 != 3 && decide (1 ≤ fld v 16 16) && decide (fld v 32 2 ≤ 1) && decide (10 ≤ fld v 64 16) && decide (fld v 64 16 ≤ 10000)

/-- The peer has not shown another pair_id than this device's (19_pair R463). -/
def State.peerAgrees (s : State) : Bool := match s.mirror.peer with | some x => x.2.1 == s.mirror.pairId | none => true

/-- MIRROR_CONFIG (19_pair R462); an event as the pair_id values come to differ on a link that is up (R463). -/
def doMirrorConfig : Handler := fun _ _ ps s =>
  let v := img ps
  let agreed := s.peerAgrees
  let s := s.modMirror fun m =>
    { m with linkEnable := bitAt v 0, takeoverMode := BitVec.ofNat 2 (fld v 1 2), iface := bitAt v 3, ltEnable := bitAt v 4,
             holdUs := BitVec.ofNat 16 (fld v 16 16), takeoverSource := BitVec.ofNat 2 (fld v 32 2),
             digestCycle := BitVec.ofNat 16 (fld v 64 16), pairId := BitVec.ofNat 128 (fld v 128 128),
             moduleEq := BitVec.ofNat 256 (fld v 256 256) }
  let s := if s.mirror.linkUp && agreed && !s.peerAgrees then s.raise 1315 else s
  ok (if bitAt v 0 then s else s.linkGoDown)
/-- `MIRROR_CONFIG`. -/
def execMirrorConfig (p : Pkt) (s : State) : Ans := .next (s.runCommand 0x0600 p wfMirrorConfig doMirrorConfig)

/-- The format of MIRROR_ROLE (19_pair R464). -/
def wfMirrorRole (ps : List Byte) (s : State) : Bool :=
  ps.length == 24 && onlyBits ps (bits 0 2 + bits 64 128) && fld (img ps) 0 2 != 3 &&
    fld (img ps) 64 128 == s.mirror.pairId.toNat

/-- Any role to SOLO: mirroring stops, and source DOVETAIL gives way to HOST with freq_adj held. -/
def State.becomeSolo (s : State) : State :=
  let s := s.dropRoleWait.releaseMirrored
  let s := if s.time.source = 2 then s.setSource 0 else s
  (s.modMirror fun m => { m with role := .solo, syncing := false, feedPull := false, pullNext := none, held := [], conflict := false,
                                 handover := false, genPull := none }).settleCheck

/-- MIRROR_ROLE: the transitions of Table 19.6; every other request is refused with BUSY. -/
def doMirrorRole : Handler := fun w _ ps s =>
  let role := fld (img ps) 0 2
  let peerIsPrimary := match s.mirror.peer with | some (r, _, _, _) => r == .primary | none => false
  if role = 0 then ok s.becomeSolo
  else if role = 1 then
    match s.mirror.role with
    | .solo => if s.mirror.linkUp && peerIsPrimary then busy s else ok (s.modMirror fun m => { m with role := .primary })
    | .primary => busy s
    | .standby =>
      if s.peerPrimary then ok s.becomePrimary
      else if s.mirror.syncing then busy (s.raise 1312)
      else ok s.takeover
  else
    if s.mirror.role = .standby ∨ !s.peerPrimary then busy s
    else pendingReply (s.becomeStandby.modMirror fun m => { m with roleWait := some w }).startPull
/-- `MIRROR_ROLE`. -/
def execMirrorRole (p : Pkt) (s : State) : Ans := .next (s.runCommand 0x0601 p wfMirrorRole doMirrorRole)

end Sys2Proof.Machine
end

