-- ==== Sys2Proof/Machine/Parse.lean ====
section
/-!
DEFINITION. What a pass reads out of a head: the template match, depth and length checks, checksum states and the extraction area
(06_templates R157 to R168; 04_line R103, R104), and the four lookups with the automata scan (07_match R177 to R201; 08_tables
R205 to R211).
-/

namespace Sys2Proof.Machine

/-! ### The head (06_templates R157) -/

/-- The bytes of the head: the first 256 of the frame, and zero from the FCS of a shorter frame on. -/
def Frame.head (f : Frame) : List Byte := fit 256 (if f.len ≤ 256 then f.data else f.data ++ bytesLe 4 f.fcs.toNat)

/-- The frame is longer than its head. -/
def Frame.long (f : Frame) : Bool := decide (256 < f.len)

/-- A head word. -/
def headWord (h : List Byte) (o : Nat) : Nat := beAt h o 2

/-- The pass is a recirculation pass to the templates and the rules: one that a parity detection started is processed as a new
first pass (01_structure R17). -/
def Frame.secondPass (f : Frame) : Bool := f.pass2 && !f.parityCause

/-! ### Signature match (06_templates R158, R159) -/

/-- A signature term holds. -/
def termHolds (h : List Byte) (w : Nat) : Bool := headWord h (fld w 0 8) &&& fld w 16 16 == fld w 32 16

/-- A template matches a head. -/
def templateMatches (t : Image) (f : Frame) (h : List Byte) : Bool :=
  let sel := fld t 11 2
  bitAt t 8 && bitAt t (13 + f.source.num) && (sel == 2 || (sel == 1) == f.secondPass) &&
    (!f.secondPass || f.recircTag &&& fld t 24 5 == fld t 16 5 &&& fld t 24 5) &&
    (f.source != .port || (decide (fld t 32 16 ≤ f.lp.val) && decide (f.lp.val ≤ fld t 48 16))) &&
    (f.long || decide (fld t 64 16 ≤ f.len)) && (List.range 8).all fun i => termHolds h (fld t (256 + 64 * i) 64)

/-- The matching template of the lowest identifier, in one generation of a store. -/
def templateOf (rep : Tbl Nat) (gen : Bool) (f : Frame) (h : List Byte) : Option Image :=
  ((rep.filter fun x => tkeyCode x.1 == 5 && x.1 / 2 ^ 32 % 2 == b1 gen).find? fun x => templateMatches x.2 f h).map (·.2)

/-! ### Depth and length (06_templates R160 to R163) -/

/-- An enabled depth term fails. -/
def depthFails (t : Image) (h : List Byte) : Bool :=
  (List.range 4).any fun i =>
    let w := fld t (768 + 64 * i) 64
    bitAt w 8 && ((headWord h (fld w 0 8) &&& fld w 16 16 == fld w 32 16) == bitAt w 9)

/-- The enabled length checks: mode EXACT, and the claimed length. -/
def lengthClaims (t : Image) (h : List Byte) : List (Bool × Nat) :=
  (((List.range 2).map fun i => fld t (1024 + 64 * i) 64).filter fun w => bitAt w 8).map fun w =>
    (!bitAt w 9, headWord h (fld w 0 8) * 2 ^ fld w 10 3 + fld w 16 16)

/-- The length checks contradict one another or the frame (06_templates R161). -/
def lengthFails (cs : List (Bool × Nat)) (f : Frame) : Bool :=
  let l := f.len - 4
  if f.long then
    (cs.any fun c => decide (c.2 ≤ 252) || decide (10236 < c.2)) ||
      cs.any fun a => a.1 && cs.any fun b => if b.1 then b.2 != a.2 else decide (a.2 < b.2)
  else cs.any fun c => decide (l < c.2) || (c.1 && decide (c.2 < l) && decide (60 < l))

/-- length_expect and length_mode of a frame whose checks are completed late (06_templates R161, R163): an EXACT claim, or the
larger of two AT_MOST claims. -/
def lengthLate (cs : List (Bool × Nat)) : Nat × Bool :=
  match cs.find? (·.1) with
  | some c => (c.2, false)
  | none => ((cs.map (·.2)).foldl max 0, true)

/-! ### Checksums (04_line R103 to R105; 06_templates R164) -/

/-- The IPv4 header at an offset belongs to a fragment. -/
def fragment4 (h : List Byte) (o : Nat) : Bool := headWord h (o + 6) &&& 0x3FFF != 0

/-- What the pipeline takes of a frame's L4 segment: where it begins, where the IP length ends it, and the sum of its
pseudo-header. -/
structure L4Segment where
  start : Nat
  stop : Nat
  pseudo : Nat
deriving DecidableEq, Repr

/-- The L4 segment of a template's layout when the L4 check is to be made; no check for an IPv4 fragment or a UDP checksum of
zero over IPv4 (04_line R104). -/
def l4Segment (t : Image) (h : List Byte) : Option L4Segment :=
  let l3 := tmplL3 t
  let l4 := fld t 82 2
  let o := fld t 88 8
  let u := fld t 96 8
  let proto := if l4 = 1 then 17 else 6
  if l4 ≠ 1 ∧ l4 ≠ 2 then none
  else if l3 = 1 then
    if fragment4 h o ∨ (l4 = 1 ∧ headWord h (u + 6) = 0) then none
    else
      let stop := o + headWord h (o + 2)
      some { start := u, stop := stop, pseudo := sum16 (sliceAt h (o + 12) 8) + proto + (stop - u) }
  else if l3 = 2 then
    let stop := o + 40 + headWord h (o + 4)
    some { start := u, stop := stop, pseudo := sum16 (sliceAt h (o + 8) 32) + proto + (stop - u) }
  else none

/-- Exchange of the octets of a 16-bit sum. -/
def swap16 (v : Nat) : Nat := v % 256 * 256 + v / 256 % 256

/-! ### Field extraction (06_templates R166) -/

/-- One extraction applied to the extraction area. -/
def extractOne (h : List Byte) (fields w : Nat) : Nat :=
  if bitAt w 31 then
    let width := fld w 11 6 + 1
    let v := be h / 2 ^ (2048 - (fld w 0 8 * 8 + fld w 8 3 + width)) % 2 ^ width
    setFld fields (fld w 18 9) width (if bitAt w 17 then be (bytesLe (width / 8) v) else v)
  else fields

/-- Every enabled extraction of a template, the higher index over the lower. -/
def extractAll (t : Image) (h : List Byte) : Nat :=
  (List.range 64).foldl (fun fs i => extractOne h fs (fld t (2048 + 32 * i) 32)) 0

/-! ### Lookups (06_templates R168; 07_match; 08_tables) -/

/-- The station key of a template, when it is enabled. -/
def stationKey (t fields : Nat) : Option Nat := if keyOn t 128 then some (fld fields (keyPos t 128) 60) else none
/-- The prefix key. -/
def prefixKey (t fields : Nat) : Option Nat := if keyOn t 144 then some (fld fields (keyPos t 144) (prefixKeyBits t)) else none
/-- The session index. -/
def sessionKey (t fields : Nat) : Option Nat := if keyOn t 160 then some (fld fields (keyPos t 160) 20) else none

/-- A prefix entry matches a key of a family (08_tables R208). -/
def prefixMatches (e : Image) (gen v6 : Bool) (key : Nat) : Bool :=
  let w := if v6 then 128 else 32
  pfxValid e && pfxGen e gen && pfxV6 e == v6 && key / 2 ^ (w - pfxLength e) == fld e 0 128 / 2 ^ (w - pfxLength e)

/-- The lowest unit that matches, by its first row, and its entry (08_tables R207, R208): a row stands in the pair region or the single
region as it was last written, so that a re-layout under way loses no entry (R223). -/
def prefixSearch (rep : Tbl Nat) (gen v6 : Bool) (key : Nat) : Option (Nat × Image) :=
  (prefixListed rep).findSome? fun row => (rowEntry rep row).bind fun x =>
    if prefixMatches x.2.2 gen v6 key then some (x.2.1, x.2.2) else none

/-- The rule key (07_match Table 7.1). -/
def ruleKey (cw : CarriageWord) (f : Frame) (set : Nat) : Nat :=
  fld cw.fields 64 256 + 2 ^ 256 *
    (set + (if f.source = .port then f.lp.val else 0) * 2 ^ 8 + f.source.num * 2 ^ 17 + b1 f.secondPass * 2 ^ 19 +
      (if f.secondPass then f.recircTag else 0) * 2 ^ 20 + b1 cw.stationHit * 2 ^ 25 + b1 cw.prefixHit * 2 ^ 26 + cw.prefixLength * 2 ^ 27 +
      cw.ipv4Csum * 2 ^ 35 + cw.l4Csum * 2 ^ 37 + b1 f.long * 2 ^ 39 + b1 cw.automataValid * 2 ^ 40 + cw.patternHits * 2 ^ 41 +
      cw.firstPattern * 2 ^ 49)

/-- The lowest row of the banks searched that matches (07_match R179, R180). -/
def ruleSearch (rep : Tbl Nat) (gen : Bool) (banks key : Nat) : Option (Nat × Image) :=
  ((rep.filter fun x => tkeyCode x.1 == 4).map fun x => (x.1 % 2 ^ 32, x.2)).find? fun x =>
    bitAt banks (x.1 / 1024) && bitAt x.2 704 && ruleGen x.2 gen && (key ^^^ fld x.2 0 320) &&& fld x.2 320 320 == 0

/-! ### The automata (07_match R194 to R201) -/

/-- The outcome of a scan. -/
structure Scan where
  hits : Nat
  first : Nat
  stop : Nat
deriving DecidableEq, Repr

/-- The next state from a state on a class (07_match R198). -/
def nextState (rep : Tbl Nat) (state cls : Nat) : Nat :=
  let e := ent rep (tkey 8 0 state)
  let x := ent rep (tkey 9 0 (fld e 0 14 + cls))
  if bitAt x 26 && fld x 0 13 == state then fld x 13 13 else fld e 14 13

/-- The scan of bytes from an offset on (07_match R198, R200). -/
def scanFrom (rep : Tbl Nat) (map : Nat) : Nat → Nat → Scan → List Byte → Scan
  | _, _, r, [] => r
  | state, off, r, b :: bs =>
    let n := nextState rep state (fld (ent rep (tkey 7 0 map)) (8 * b.toNat) 6)
    let e := ent rep (tkey 8 0 n)
    let r : Scan :=
      if bitAt e 27 then
        { hits := r.hits ||| fld e 40 8, first := if r.first = 0 then fld e 28 12 else r.first,
          stop := if r.first = 0 then off else r.stop }
      else r
    scanFrom rep map n (off + 1) r bs

/-- The scan of a frame by a program (07_match R199, R201); nothing when the directory entry is not valid. -/
def scanFrame (rep : Tbl Nat) (prog : Nat) (f : Frame) : Option Scan :=
  let d := ent rep (tkey 6 0 prog)
  if bitAt d 0 then
    let from_ := fld d 32 9
    let bytes := (f.data.drop from_).take (fld d 48 9 + 1 - from_)
    some (scanFrom rep (fld d 1 4) (fld d 16 13) from_ { hits := 0, first := 0, stop := 0 } bytes)
  else none

/-! ### Destinations (08_tables R204, R205; 07_match R184) -/

/-- The table destination that a governing action takes, or none (08_tables Table 8.2). -/
def tableDest (cw : CarriageWord) (f : Frame) (src : Nat) (session : Bool) : Option Nat :=
  let d := if src = 1 then (if cw.prefixHit then cw.prefixData else 0)
    else if src = 2 then (if cw.stationHit then cw.stationRecord else 0)
    else
      let e := cw.sessionEntry
      if session && (!bitAt e 18 || (f.source == .port && f.lp.val == fld e 19 9)) then e else 0
  if bitAt d 0 then some (fld d 0 18) else none

/-- A free action word with a legal destination: what forwarding does to a frame whose results are unpredictable (08_tables
R231; log entry 1). -/
def freeAction (v : Nat) : Nat :=
  let a := v % 2 ^ 64
  let a := setFld a 0 3 (fld a 0 2)
  let a := setFld (setFld (setFld a 24 1 0) 54 1 0) 63 1 0
  let a := setFld (setFld a 25 2 (fld a 25 2 % 3)) 52 2 (fld a 52 2 % 3)
  let a := if fld a 0 3 = 0 ∧ !bitAt a 3 then setFld a 4 16 (fld a 4 13) else a
  if fld a 55 2 = 2 then setFld a 61 1 0 else a

end Sys2Proof.Machine
end

