-- ==== Sys2Proof/Machine/Receive.lean ====
section
/-!
DEFINITION. The receive side of a port's MAC: the checks of 04_line Table 4.6 under the precedence of R535, the group-address
filter, the receive counters, and the release of a head toward its pipeline (02_timetable R34, R35, R68).
-/

namespace Sys2Proof.Machine

/-- The address of MAC control frames, 01-80-C2-00-00-01. -/
def ctrlAddress : Nat := 0x0180C2000001

/-- A group address is rejected by the filter or by bcast_drop (04_line Table 4.5, R101, R102). The bits [31:23] of the
CRC-32 are those of the number that the FCS gives, the spec naming no order (DESIGN CHOICE, log entry 129). -/
def State.filtered (s : State) (lp : Nat) (data : List Byte) : Bool :=
  let da := beAt data 0 6
  let mode := s.pcfg lp 40 2
  if da = 2 ^ 48 - 1 then s.pcfg lp 42 1 == 1
  else if da / 2 ^ 40 % 2 = 0 ∨ da / 16 = 0x0180C200000 then false
  else if mode = 1 then s.pcfg lp (512 + (crc32 (sliceAt data 0 6)).toNat / 2 ^ 23) 1 == 0
  else mode == 2

/-- A frame without fault counted (04_line R535, Table 4.8). -/
def State.countGood (s : State) (lp : Nat) (data : List Byte) (len : Nat) : State :=
  (((s.stat lp 0x000).stat lp 0x008 len).stat lp (castCounter 0x010 data)).stat lp (sizeCounter len)

/-- A MAC control frame with a correct FCS consumed (04_line R110, Table 4.6): with another destination than 01-80-C2-00-00-01 it
is ignored. Its FCS ends `len` octets after its timestamp point. -/
def State.macControl (s : State) (lp : Nat) (data : List Byte) (len : Nat) : State :=
  if beAt data 0 6 = ctrlAddress then
    let op := beAt data 14 2
    let quanta := if op = 1 then [BitVec.ofNat 16 (beAt data 16 2)]
      else (List.range 8).map fun k => BitVec.ofNat 16 (beAt data (18 + 2 * k) 2)
    s.pauseFrame lp op (beAt data 16 2) quanta (s.nowPs + len * psPerByte (s.modeOf lp))
  else s.stat lp 0x058

/-- What the MAC finds of a frame's end (04_line Table 4.6). -/
structure FcsCheck where
  tooLong : Bool
  ok : Bool
  stomped : Bool
deriving DecidableEq, Repr

/-- A faulty frame counted in the counters of its rows and in no other (04_line R535). -/
def State.countBad (s : State) (lp : Nat) (c : FcsCheck) : State :=
  let s := if c.tooLong then s.stat lp 0x040 else s
  let s := s.stat lp 0x028
  if c.stomped then s.stat lp 0x030 else s

/-- What a frame holds of its port's transition FIFO: the line bytes received of it so far (02_timetable R68; log entry 78). -/
def heldBytes (now perByte : Nat) (f : Frame) : Nat := min f.len ((now - f.rxAt) / perByte) + 20

/-- The transition FIFO of a changed port has no room for the head of a frame (02_timetable R68): the data of frames whose heads have not
entered a slot stand in it. -/
def State.fifoFull (s : State) (lp : Fin 512) (f : Frame) : Bool :=
  s.tt.inWindow.contains lp &&
    decide (4096 < (((s.flow.rx ++ s.flow.waiting.map (·.1)).filter fun g => g.lp == lp).map
      (heldBytes s.nowPs (psPerByte (s.modeOf lp)))).sum + min 256 f.len + 20)

/-- An accepted frame is held for its release; the body of a long one begins to arrive (02_timetable R34; 10_buffer R251). -/
def State.acceptFrame (s : State) (lp : Fin 512) (data : List Byte) (len : Nat) (c : FcsCheck) (fcs : BitVec 32) : State :=
  let f : Frame :=
    { id := s.flow.nextId, source := .port, lp := lp, data := data, len := len, fcsOk := c.ok, stomped := c.stomped,
      tsIn := s.rxStamp lp.val, resIn := s.resTime, slotWait := 0, gen := none, pass2 := false, parityCause := false,
      recircTag := 0, rxAt := s.nowPs, tooLong := c.tooLong, rxCfg := (s.port lp.val).cfg,
      inj := none, cw := {}, cells := [], lastIn := decide (len ≤ 256), lateFail := false, intakeDrop := false,
      parityMark := false, oldImage := false, owner := 0, feed := none, refused := false, fcs := fcs }
  if s.fifoFull lp f then s.stat lp.val 0x078
  else
    { s with flow := { s.flow with
        nextId := s.flow.nextId + 1, rx := s.flow.rx ++ [f], body := if 256 < len then s.flow.body ++ [f] else s.flow.body } }

/-- A frame received at a port that is UP (04_line R100, R535); in the safe state the MAC discards it (20_faults R488). -/
def State.receive (s : State) (lp : Fin 512) (wire : List Byte) : State :=
  let n := wire.length
  let maxf := s.maxFrame lp.val
  if !s.isUp lp.val then s
  else if s.flt.safe then { s with flt := { s.flt with safeDiscard := s.flt.safeDiscard + 1 } }
  else if n < 64 then s.stat lp.val 0x038
  else
    let tooLong := decide (maxf < n)
    let len := if tooLong then maxf else n
    let data := wire.take (len - 4)
    let fcs := BitVec.ofNat 32 (le ((wire.drop (len - 4)).take 4))
    let c : FcsCheck := { tooLong := tooLong, ok := !tooLong && fcs == crc32 data, stomped := !tooLong && fcs == ~~~ crc32 data }
    let count (s : State) (good : State → State) : State := if c.ok then good s else s.countBad lp.val c
    if len ≤ 256 ∧ !c.ok then s.countBad lp.val c
    else if s.filtered lp.val data then count s fun s => s.stat lp.val 0x048
    else if beAt data 12 2 = 0x8808 then count s fun s => s.macControl lp.val data len
    else (count s fun s => s.countGood lp.val data len).acceptFrame lp data len c fcs
/-- `FRAME_RECEIVE`. -/
def execFrameReceive (lp : Fin 512) (wire : List Byte) (at8 : Fin 3277) (s : State) : Ans :=
  .next ((s.at_ at8.val).receive lp wire)

/-- The first element that a test selects taken out of a list. -/
def takeFirst {α : Type} (p : α → Bool) : List α → Option α × List α
  | [] => (none, [])
  | x :: r => if p x then (some x, r) else let y := takeFirst p r; (y.1, x :: y.2)

/-- The latest instant at which a head crosses into its pipeline: its first byte, the time of Table 2.4 for FEC, MAC and head assembly, and
the joint at its upper bound (02_timetable R34, R35, Table 2.5; 03_islands R78). -/
def State.crossDue (s : State) (f : Frame) : Nat := f.rxAt + rxFecPs (s.modeOf f.lp.val) + macRxPs (s.modeOf f.lp.val)

/-- The crossing cycle of a head, counted from round 0: the cycle named where the joint's bounds allow it (a head crosses at most one
pipeline cycle early), and otherwise the latest; a joint keeps the order of its words (03_islands R78). -/
def State.crossing (s : State) (f : Frame) (cycle : Nat) : Nat :=
  let due := s.crossDue f
  let c := if due ≤ (cycle + 1) * 400 ∧ cycle * 400 ≤ due then cycle else due / 400
  (s.flow.waiting.filter fun x => x.1.lp == f.lp).foldl (fun m x => max m x.2) c

/-- The oldest held head of a port crosses into its pipeline, when it does so in the round in force or has done so (02_timetable R34,
R35). -/
def State.releaseHead (s : State) (lp : Fin 512) (cycle : Nat) : State :=
  match takeFirst (fun f => f.lp == lp) s.flow.rx with
  | (some f, rest) =>
    let c := s.crossing f (s.absCycle cycle)
    if s.due (c * 400) then
      let s := s.reach (c * 400)
      { s with flow := { s.flow with rx := rest, waiting := s.flow.waiting ++ [(f, c)] } }
    else s
  | (none, _) => s
/-- `HEAD_RELEASE`. -/
def execHeadRelease (lp : Fin 512) (cycle : Fin 1024) (s : State) : Ans := .next (s.releaseHead lp cycle.val)

end Sys2Proof.Machine
end

