-- ==== Sys2Proof/Machine/Ucode.lean ====
section
/-!
DEFINITION. User microcode (16_microcode R390 to R410): the microword, its execution in a command context, and the rows
UCODE_LOAD_USER, UCODE_CALL, CONTEXT_SLICE, CONTEXT_RESUME, CONTEXT_TIMER_EXPIRY and UCODE_LIMIT; FAULT_OCCURRENCE stands
here since a bad word ends its command. Base routines run as their
commands' meanings; the words of the control store are executed here for user routines and for the exported entries they call.
-/

namespace Sys2Proof.Machine

/-! ### The microword (16_microcode Table 16.2) -/

/-- Next-address operation. -/
def wSeq (w : Nat) : Nat := fld w 140 4
/-- Target address. -/
def wNext (w : Nat) : Nat := fld w 126 14
/-- Condition. -/
def wCond (w : Nat) : Nat := fld w 120 6
/-- Wait condition. -/
def wWait (w : Nat) : Nat := fld w 114 5
/-- Trap control: 0 OPEN, 1 MASKED, 2 YIELD. -/
def wTrap (w : Nat) : Nat := fld w 112 2
/-- ALU operation. -/
def wAlu (w : Nat) : Nat := fld w 106 5
/-- Loop-counter operation. -/
def wLc (w : Nat) : Nat := fld w 57 2
/-- Immediate value. -/
def wImm (w : Nat) : Nat := fld w 0 32

/-- A reserved code of a word (16_microcode Tables 16.2 to 16.5). -/
def wReserved (w : Nat) : Bool :=
  decide (11 < wSeq w) || decide (11 < wCond w) || decide (14 < wWait w) || wTrap w == 3 || decide (13 < wAlu w) || wLc w == 3

/-- A user address. -/
def userAddr (a : Nat) : Bool := decide (0x3800 ≤ a)
/-- An exported entry. -/
def exportedEntry (a : Nat) : Bool := decide (0x0240 ≤ a) && decide (a ≤ 0x027F)

/-- An operation open to user words (16_microcode Table 16.8). -/
def userUnitOp (u o : Nat) : Bool :=
  u == 0 || (u == 1 && (o == 1 || o == 2)) || (u == 2 && (o == 1 || o == 2)) || (u == 12 && o == 1) ||
    (u == 15 && (o == 1 || o == 2 || o == 3)) || ((u == 4 || u == 5) && (o == 8 || o == 9))

/-- A user word as UCODE_LOAD_USER accepts it (16_microcode R408). -/
def userWordOk (w : Nat) : Bool :=
  !wReserved w && wSeq w != 8 && fld w 32 25 == 0 &&
    (!([2, 3, 9].contains (wSeq w)) || userAddr (wNext w)) &&
    (!([4, 5].contains (wSeq w)) || userAddr (wNext w) || exportedEntry (wNext w)) &&
    userUnitOp (fld w 87 4) (fld w 82 5) && userUnitOp (fld w 74 4) (fld w 69 5) && !(wTrap w == 1 && wWait w != 0)

/-! ### UCODE_LOAD_USER (16_microcode R407 to R409) -/

/-- The 24-byte items that the parameters carry. -/
def userItem (ps : List Byte) (i : Nat) : Nat := leAt ps (8 + 24 * i) 24

/-- The format of UCODE_LOAD_USER (16_microcode R407, R408). -/
def wfUcodeLoad (ps : List Byte) (_ : State) : Bool :=
  let h := leAt ps 0 8
  let n := fld h 16 16
  onlyBits (ps.take 8) (bits 0 11 + bits 16 16) && decide (1 ≤ n) && decide (n ≤ 169) && ps.length == 8 + 24 * n &&
    decide (fld h 0 11 + n ≤ 2048) &&
    (List.range n).all fun i => decide (userItem ps i < 2 ^ 144) && userWordOk (userItem ps i)

/-- A context executes a user word or holds a user address (16_microcode R409). -/
def State.userInUse (s : State) : Bool :=
  [CmdPort.cp0, .cp1, .cp2, .cp3].any fun p =>
    let c := s.ctx p
    c.st != .idle && (userAddr c.upc.toNat || c.stack.any fun a => userAddr a.toNat)

/-- A control-store word written. -/
def State.setWord (s : State) (a w : Nat) : State := { s with ucode := { s.ucode with words := tset 0 s.ucode.words a w } }

/-- UCODE_LOAD_USER: each word written is a commit point (16_microcode Table 16.10). -/
def doUcodeLoad : Handler := fun _ p ps s =>
  if s.userInUse then busy s
  else
    let h := leAt ps 0 8
    let u := unitsDone p.cancelAt (fld h 16 16)
    let s := (List.range u.1).foldl (fun (s : State) i => s.setWord (0x3800 + fld h 0 11 + i) (userItem ps i)) s
    if u.2 then partialReply s u.1 else ok s
/-- `UCODE_LOAD_USER`. -/
def execUcodeLoadUser (p : Pkt) (s : State) : Ans := .next (s.runCommand 0x0A00 p wfUcodeLoad doUcodeLoad)

/-! ### The ALU (16_microcode R396, Table 16.2) -/

/-- A work register. -/
def Ctx.reg (c : Ctx) (i : Nat) : Nat := (tget 0 c.w i).toNat
/-- A work register written. -/
def Ctx.setReg (c : Ctx) (i v : Nat) : Ctx := { c with w := tset 0 c.w i (BitVec.ofNat 64 v) }

/-- The 64-bit result of an ALU operation; CMP is SUB. -/
def aluResult (op a b sh : Nat) : BitVec 64 :=
  let x := BitVec.ofNat 64 a
  let y := BitVec.ofNat 64 b
  if op = 1 then x
  else if op = 2 then x + y
  else if op = 3 ∨ op = 10 then x - y
  else if op = 4 then x &&& y
  else if op = 5 then x ||| y
  else if op = 6 then x ^^^ y
  else if op = 7 then x <<< sh
  else if op = 8 then x >>> sh
  else if op = 9 then x.sshiftRight sh
  else if op = 11 then x.rotateLeft sh
  else if op = 12 then BitVec.ofNat 64 (le (bytesLe 8 a).reverse)
  else if op = 13 then BitVec.ofNat 64 (popCount 64 a)
  else 0

/-- C of an ALU result: the carry of ADD; the spec states no C for any other operation, which is left open (log entry 37). -/
def aluCarry (op a b : Nat) : Bool := if op = 2 then decide (2 ^ 64 ≤ a % 2 ^ 64 + b % 2 ^ 64) else Config.unitOp (256 + op) a b % 2 == 1

/-- V of an ALU result: signed overflow of ADD and SUB; open for the other operations (log entry 37). -/
def aluOverflow (op a b : Nat) : Bool :=
  let x := sgn 64 (a % 2 ^ 64)
  let y := sgn 64 (b % 2 ^ 64)
  let r : Int := if op = 2 then x + y else x - y
  if op = 2 ∨ op = 3 ∨ op = 10 then decide (r < -(2 ^ 63 : Int)) || decide ((2 ^ 63 : Int) ≤ r)
  else Config.unitOp (256 + op) a b / 2 % 2 == 1

/-- The flags word with Z, N, C and V of a result. -/
def aluFlags (old : Nat) (op a b sh : Nat) : Nat :=
  let r := aluResult op a b sh
  old / 16 * 16 + b1 (r == 0) + 2 * b1 r.msb + 4 * b1 (aluCarry op a b) + 8 * b1 (aluOverflow op a b)

/-! ### Resource units (16_microcode Table 16.8) -/

/-- The entry that READ_ENTRY reads, or nothing and a unit error: a damaged master block, a table without master or replica, or an
entry that does not exist. While the Cabinet is paused no master can be read (log entry 37). -/
def State.readEntry (s : State) (q : Option Nat) (code idx : Nat) : State × Option (List Byte) :=
  let h : TblHeader := { table := code, source := 0, gen := 0, form := 0, reserved := false, index := idx, aux := 0 }
  let has := match tableSpec code with | some (_, _, ops) => ops.contains .read && !stateTable code | none => false
  if !has || decide (tableSize code ≤ idx) || !s.readIndexOk h then (s, none)
  else
    match q with
    | none =>
      if s.cab.paused then (s, none)
      else
        let x := s.readMaster code 0 idx
        (x.1, x.2.map fun _ => x.1.entryBytes x.1.tables.master h)
    | some q => (s, if replicated code then some (s.entryBytes (s.quad q).rep h) else none)

/-- The engine memory behind a SCRATCH pointer, as user words reach it. -/
def scratchAt (ptr : Nat) : Nat := 0xC000 + ptr / 8 * 8 % 0x4000

/-- One unit operation of a word in the context of a port: the register written and its value, the new state, and a unit error.
Operations that are not open to user words occur in base words only; what they read is open (log entry 37). -/
def State.unitStep (s : State) (p : CmdPort) (u o r imm : Nat) : Option (Nat × Nat) × State × Bool :=
  let c := s.ctx p
  let v := c.reg r
  if u = 1 ∧ o = 1 then (none, s.modCtx p fun c => { c with paramPtr := BitVec.ofNat 12 v }, false)
  else if u = 1 ∧ o = 2 then
    let a := c.paramPtr.toNat
    let inside := decide (a + 8 ≤ c.params.length)
    (some (r, if inside then leAt c.params a 8 else 0), s.modCtx p fun c => { c with paramPtr := c.paramPtr + 8 }, !inside)
  else if u = 2 ∧ o = 1 then
    if c.results.length + 8 ≤ 4080 then (none, s.modCtx p fun c => { c with results := c.results ++ bytesLe 8 v }, false)
    else (none, s, true)
  else if u = 2 ∧ o = 2 then
    match c.cmd with
    | some w =>
      if c.finalSent then (none, s, false)
      else
        (none, (s.modCtx p fun c => { c with finalSent := true }).sendReply w (mkReply w.opcode (imm % 256) (imm / 256 % 256) w.tag c.results),
          false)
    | none => (none, s, false)
  else if u = 12 ∧ o = 1 then
    (none, s.modCtx p fun c => { c with timer := some (s.nowPs + v % 2 ^ 32 * 1000), timerDone := false }, false)
  else if u = 15 ∧ o = 1 then (none, s.modCtx p fun c => { c with scratchPtr := BitVec.ofNat 16 (0xC000 + v % 2 ^ 14 / 8 * 8) }, false)
  else if u = 15 ∧ (o = 2 ∨ o = 3) then
    let a := scratchAt c.scratchPtr.toNat
    let s' := s.modCtx p fun c => { c with scratchPtr := BitVec.ofNat 16 (scratchAt (c.scratchPtr.toNat + 8)) }
    if o = 2 then (some (r, le (memReadN s.ucode.scratch a 8)), s', false)
    else (none, { s' with ucode := { s'.ucode with scratch := memWrite s'.ucode.scratch a (bytesLe 8 v) } }, false)
  else if u = 4 ∧ o = 8 then
    let e := s.readEntry none (imm % 256) (v % 2 ^ 32)
    (none, e.1.modCtx p fun c => { c with fetchD0 := e.2.getD (List.replicate 8 0) }, e.2.isNone)
  else if u = 5 ∧ o = 8 then
    let e := s.readEntry (some (imm / 256 % 4)) (imm % 256) (v % 2 ^ 32)
    let s := if s.tt.active.isSome then s.tick 0x68 (16 + imm / 256 % 4) else s
    (none, s.modCtx p fun c => { c with fetchSvc := e.2.getD (List.replicate 8 0) }, e.2.isNone)
  else if (u = 4 ∨ u = 5) ∧ o = 9 then
    let l := if u = 4 then c.fetchD0 else c.fetchSvc
    (some (r, leAt l 0 8),
      s.modCtx p fun c => if u = 4 then { c with fetchD0 := l.drop 8 } else { c with fetchSvc := l.drop 8 }, l.isEmpty)
  else if u = 0 then (none, s, false)
  else (some (r, Config.unitOp u o v), s, false)

/-- Both units of a word, in order: the registers they write, whether one reported an error, and the state; registers are written
when the word completes (16_microcode R396, R400). -/
def State.unitsStep (s : State) (p : CmdPort) (w : Nat) : List (Nat × Nat) × Bool × State :=
  let x := s.unitStep p (fld w 87 4) (fld w 82 5) (fld w 78 4) (wImm w)
  let y := x.2.1.unitStep p (fld w 74 4) (fld w 69 5) (fld w 65 4) (wImm w)
  (x.1.toList ++ y.1.toList, x.2.2 || y.2.2, y.2.1)

/-! ### Waits and conditions (16_microcode Tables 16.4, 16.5) -/

/-- A condition of Table 16.4. -/
def State.ucodeCond (s : State) (p : CmdPort) (k : Nat) : Bool :=
  let c := s.ctx p
  if k = 0 then true
  else if k ≤ 4 then c.flags.getLsbD (k - 1)
  else if k = 5 then c.flags.toNat / 2 ^ 16 == 0
  else if k = 6 then c.cancel
  else if k = 7 then c.unitErr
  else if k = 8 then (match c.cmd with | some w => w.trailer | none => false)
  else if k = 9 then s.mirror.role != .standby
  else if k = 10 then s.cab.paused
  else s.flt.safe

/-- A wait condition of Table 16.5 for the word at which a context stands, as user routines meet it: their units are ready, they
have issued no writes, broadcasts, requests or mirrored messages and armed no drain, and no event is theirs (log entry 37). -/
def State.waitHolds (s : State) (p : CmdPort) (k : Nat) : Bool :=
  let c := s.ctx p
  if k = 5 then c.issued && decide (c.waitRound < s.tt.round)
  else if k = 8 then c.timerDone
  else if k = 9 then
    (match c.cmd with
     | some w =>
       if w.port = .cp0 then
         let g := s.cmdRing w.inst.val
         (g.rplHead - g.rplTail).toNat != 2 ^ g.rplLog2.toNat
       else true
     | none => true)
  else if k = 11 ∨ k = 12 then false
  else true

/-! ### Ends and traps (16_microcode R399, R404, R405, R410) -/

/-- The context becomes idle, and a port reset that waited for it is completed. -/
def State.ctxIdle (s : State) (p : CmdPort) : State :=
  (s.modCtx p fun c => { c with st := .idle, cmd := none, stack := [], upc := 0, cancel := false, stopping := false, issued := false,
                                 late := [], lateErr := false, timer := none, timerDone := false }).settlePortReset.settleInst

/-- The command ends with a status, the units count and what follows it, unless it has sent its final reply. -/
def State.ctxEnd (s : State) (p : CmdPort) (status : Nat) (more : List Byte) : State :=
  let c := s.ctx p
  let s := match c.cmd with
    | some w => if c.finalSent then s else s.sendReply w (mkReply w.opcode status 0 w.tag (bytesLe 8 c.units.toNat ++ more))
    | none => s
  s.ctxIdle p

/-- A trap of cause ILLEGAL or STACK: INTERNAL; in a user routine counted with its event, in a base routine a fault of the command
engine (16_microcode R405). -/
def State.ctxTrap (s : State) (p : CmdPort) (cause : Nat) : State :=
  let user := userAddr (s.ctx p).upc.toNat
  let s := (s.modCtx p fun c => { c with cause := BitVec.ofNat 4 cause }).ctxEnd p 0x30 []
  if user then ({ s with ucode := { s.ucode with userTrap := s.ucode.userTrap + 1 } } : State).raise 1353
  else s.occur 35 (BitVec.ofNat 13 (portNum p))

/-- A double-bit error in a word that a context fetches in a base routine ends its command with INTERNAL (16_microcode R392,
R405); of a user routine it is no fault. -/
def State.wordLost (s : State) (src : Nat) : State :=
  if src < 4 then
    let p := [CmdPort.cp0, .cp1, .cp2, .cp3].getD src .cp0
    if (s.ctx p).st ≠ .idle ∧ !userAddr (s.ctx p).upc.toNat then (s.modCtx p fun c => { c with cause := 3 }).ctxEnd p 0x30 []
    else s
  else s

/-- An occurrence of a line by a source (20_faults R480 to R486): a staging error loses its record as well, and a word of the
control store its command. -/
def State.faultOccurs (s : State) (n : Nat) (src : BitVec 13) : State :=
  (if n = 10 then s.stagedLost else if n = 35 then s.wordLost src.toNat else s).occurAt n src
/-- `FAULT_OCCURRENCE`. -/
def execFaultOccurrence (line : Fin 48) (src : BitVec 13) (s : State) : Ans := .next (s.faultOccurs line.val src)

/-- The trap LIMIT: PARTIAL with the units count and the results appended so far (16_microcode R410). -/
def State.ctxLimit (s : State) (p : CmdPort) : State :=
  (s.modCtx p fun c => { c with cause := 6 }).ctxEnd p 0x20 (s.ctx p).results

/-! ### One word (16_microcode R395 to R400) -/

/-- The dispatch entry of an opcode (16_microcode Table 16.1). -/
def dispatchEntry (op : Nat) : Nat := op / 256 % 16 * 32 + op % 32

/-- Where a word goes on: an address with the micro-stack, the end of the routine, or a trap. -/
inductive NextWord where
  | goto (a : Nat) (stack : List (BitVec 14))
  | finish
  | trap (cause : Nat)
deriving DecidableEq, Repr

/-- The next address of a word (16_microcode Table 16.3, R398, R399, R409), by operand A, the condition and the loop counter. -/
def nextWord (c : Ctx) (w a : Nat) (taken : Bool) : NextWord :=
  let pc := c.upc.toNat
  let q := wSeq w
  let on : NextWord := .goto (pc + 1) c.stack
  let push : NextWord := if 8 ≤ c.stack.length then .trap 5 else .goto (wNext w) (BitVec.ofNat 14 (pc + 1) :: c.stack)
  let pop : NextWord := match c.stack with | [] => .trap 5 | x :: r => .goto x.toNat r
  if q = 1 then on
  else if q = 2 then .goto (wNext w) c.stack
  else if q = 3 then if taken then .goto (wNext w) c.stack else on
  else if q = 4 then push
  else if q = 5 then if taken then push else on
  else if q = 6 then pop
  else if q = 7 then if taken then pop else on
  else if q = 8 then (match c.cmd with | some k => .goto (dispatchEntry k.opcode.toNat) c.stack | none => .trap 4)
  else if q = 9 then if 2 ≤ c.flags.toNat / 2 ^ 16 then .goto (wNext w) c.stack else on
  else if q = 10 then if c.finalSent then .finish else .trap 4
  else
    let t := a % 2 ^ 14
    if userAddr pc && !userAddr t && !exportedEntry t then .trap 4 else .goto t c.stack

/-- What becomes of the running context after a word: it goes on, with a word that permits a trap behind it or not, or it has
left the sequencer. -/
inductive WordEnd where
  | on (permits : Bool) (yields : Bool)
  | left
deriving DecidableEq, Repr

/-- A word takes no SLICE trap (16_microcode R401, R403): a MASKED one with no wait, but for the word behind 64 of them in a row. -/
def wMasked (c : Ctx) (w : Nat) : Bool := wTrap w == 1 && wWait w == 0 && decide (c.masked < 64)

/-- A word completed: its registers, flags, loop counter, units count and next address take effect together (16_microcode R396); an
ALU result comes after the units' writes, and lc_op after LOOP's count (log entry 37). -/
def Ctx.commitWord (c : Ctx) (w next : Nat) (stack : List (BitVec 14)) (writes : List (Nat × Nat)) (err : Bool) : Ctx :=
  let a := c.reg (fld w 102 4)
  let b := if bitAt w 97 then wImm w else c.reg (fld w 98 4)
  let op := wAlu w
  let sh := fld w 59 6
  let flags := if bitAt w 91 && op != 0 then aluFlags c.flags.toNat op a b sh else c.flags.toNat
  let lc := c.flags.toNat / 2 ^ 16
  let lc := if wLc w = 1 then wImm w % 2 ^ 16 else if wLc w = 2 then a % 2 ^ 16
    else if wSeq w = 9 then lc - 1 else lc
  let c := writes.foldl (fun (c : Ctx) x => c.setReg x.1 x.2) c
  let c := if bitAt w 92 && op != 0 && op != 10 then c.setReg (fld w 93 4) (aluResult op a b sh).toNat else c
  { c with
    flags := BitVec.ofNat 32 (flags % 2 ^ 16 + lc * 2 ^ 16), upc := BitVec.ofNat 14 next, stack := stack, issued := false,
    unitErr := err, late := [], lateErr := false,
    units := if bitAt w 111 then c.units + 1 else c.units, cycles := c.cycles + 1, sliceCycles := c.sliceCycles + 1,
    masked := if wMasked c w then c.masked + 1 else 0 }

/-- One word of a context: its units, its wait, and its completion with a commit point's cancel (16_microcode R400, R404). -/
def State.execWord (s : State) (p : CmdPort) : State × WordEnd :=
  let c := s.ctx p
  let w := tget 0 s.ucode.words c.upc.toNat
  if c.limit ≤ c.cycles then (s.ctxLimit p, .left)
  else if wSeq w = 0 ∨ wReserved w then (s.ctxTrap p 4, .left)
  else
    let x := if c.issued then (c.late, c.lateErr, s) else s.unitsStep p w
    let s := x.2.2
    if wWait w != 0 && !s.waitHolds p (wWait w) then
      (s.modCtx p fun d => { d with
        st := .waiting, cause := 2, waitRound := if c.issued then c.waitRound else s.tt.round, issued := true,
        late := x.1, lateErr := x.2.1 }, .left)
    else
      let d := s.ctx p
      match nextWord d w (d.reg (fld w 102 4)) (s.ucodeCond p (wCond w) == bitAt w 119) with
      | .trap cause => (s.ctxTrap p cause, .left)
      | .finish => (s.ctxIdle p, .left)
      | .goto a stack =>
        let s := s.modCtx p fun d => d.commitWord w a stack x.1 x.2.1
        if bitAt w 111 && (s.ctx p).cancel then (s.ctxEnd p 0x20 [], .left)
        else (s, .on (!wMasked c w) (wTrap w == 2 && wWait w == 0))

/-- Another context is ready (16_microcode R393). -/
def State.otherReady (s : State) (p : CmdPort) : Bool :=
  [CmdPort.cp0, .cp1, .cp2, .cp3].any fun q => q != p && ((s.ctx q).st == .slice || (s.ctx q).st == .running)

/-- A commit point lies on the way of a context, before it ends its routine, meets a wait or spends its cycles: its words are followed with
the state as it stands (16_microcode R406; log entry 133). The first argument bounds the words followed. -/
def State.commitAhead : Nat → State → CmdPort → Bool
  | 0, _, _ => false
  | n + 1, s, p =>
    match s.execWord p with
    | (_, .left) => false
    | (t, .on _ _) => (s.ctx p).units != (t.ctx p).units || t.commitAhead n p

/-- A context that stops because the device is safe (16_microcode R406): it runs to its next commit point, or to its next OPEN word when no
commit point lies ahead, and replies INTERNAL with its units count; when it comes to wait it stops at once. The first argument bounds the
words run. -/
def State.stopWords (commits : Bool) : Nat → State → CmdPort → State
  | 0, s, _ => s
  | n + 1, s, p =>
    match s.execWord p with
    | (t, .left) => if (t.ctx p).st = .waiting then (t.modCtx p fun c => { c with cause := 7 }).ctxEnd p 0x30 [] else t
    | (t, .on permits _) =>
      if (if commits then (s.ctx p).units != (t.ctx p).units else permits) then
        (t.modCtx p fun c => { c with cause := 7 }).ctxEnd p 0x30 []
      else t.stopWords commits n p

/-- The sequencer runs a context until it leaves, or until 1,024 cycles are over and a word permits a trap, or a YIELD word gives
way to a ready context (16_microcode R393, R403). The first argument bounds the words of one slice. -/
def State.runWords : Nat → State → CmdPort → State
  | 0, s, _ => s
  | n + 1, s, p =>
    match s.execWord p with
    | (s, .left) => s
    | (s, .on permits yields) =>
      if (permits && decide (1024 ≤ (s.ctx p).sliceCycles)) || (yields && s.otherReady p) then s else s.runWords n p

/-- A context is resumed: it has the sequencer for a slice, or until it stops; cycles spent waiting or saved have counted (16_microcode R393,
R406, R410). -/
def State.resumeCtx (s : State) (p : CmdPort) : State :=
  let s := s.modCtx p fun c => { c with
    st := .running, sliceCycles := 0, cycles := max c.cycles ((s.nowPs - c.startedAt) / 1000) }
  let s := { s with ucode := { s.ucode with lastCtx := p } }
  if (s.ctx p).stopping then
    let n := (s.ctx p).limit + 1
    s.stopWords (s.commitAhead n p) n p
  else s.runWords 1100 p

/-- A context that is ready takes the sequencer when it is free, and otherwise waits its turn. -/
def State.readyCtx (s : State) (p : CmdPort) : State :=
  if s.otherReady p then s.modCtx p fun c => { c with st := .slice } else s.resumeCtx p

/-! ### UCODE_CALL and the context rows -/

/-- The format of UCODE_CALL (16_microcode R410). -/
def wfUcodeCall (ps : List Byte) (_ : State) : Bool :=
  let h := leAt ps 0 8
  decide (8 ≤ ps.length) && ps.length % 8 == 0 && decide (ps.length ≤ 4072) && onlyBits (ps.take 8) (bits 0 11 + bits 32 25) &&
    decide (1 ≤ fld h 32 25) && decide (fld h 32 25 ≤ 16777216)

/-- The context of a UCODE_CALL as its routine starts (16_microcode R410). -/
def callCtx (c : Ctx) (w : Waiter) (ps : List Byte) (now : Nat) : Ctx :=
  let h := leAt ps 0 8
  { c with
    st := .slice, upc := BitVec.ofNat 14 (0x3800 + fld h 0 11), stack := []
    w := (List.range 8).foldl (fun (t : Tbl (BitVec 64)) i => tset 0 t i (BitVec.ofNat 64 (leAt ps (8 + 8 * i) 8))) []
    flags := 0, units := 0, paramPtr := 8, issued := false, cause := 0, timer := none, timerDone := false, unitErr := false
    fetchD0 := [], fetchSvc := [], params := ps, results := [], finalSent := false, cycles := 0, limit := fld h 32 25
    startedAt := now, late := [], lateErr := false, masked := 0, cancel := false, stopping := false, waitRound := 0, sliceCycles := 0, cmd := some w }

/-- UCODE_CALL: the routine runs in the context of its port and sends its own final reply. -/
def doUcodeCall : Handler := fun w _ ps s =>
  { st := (s.modCtx w.port fun c => callCtx c w ps s.nowPs).readyCtx w.port, status := 0x100 }
/-- `UCODE_CALL`. -/
def execUcodeCall (p : Pkt) (s : State) : Ans := .next (s.runCommand 0x0A01 p wfUcodeCall doUcodeCall)

/-- The four contexts counted on from the one after a port (16_microcode R393). -/
def ctxOrder : CmdPort → List CmdPort
  | .cp0 => [.cp1, .cp2, .cp3, .cp0]
  | .cp1 => [.cp2, .cp3, .cp0, .cp1]
  | .cp2 => [.cp3, .cp0, .cp1, .cp2]
  | .cp3 => [.cp0, .cp1, .cp2, .cp3]

/-- The next ready context, counted on from the one that left the sequencer last, is resumed (16_microcode R393). -/
def State.resumeNext (s : State) (left : CmdPort) : State :=
  match (ctxOrder left).find? fun q => (s.ctx q).st == .slice with
  | some q => s.resumeCtx q
  | none => s

/-- The end of a slice: the running context is saved when another is ready, and the next ready one is resumed; with none other
ready it runs on (16_microcode R393, R402). -/
def State.ctxSlice (s : State) : State :=
  match [CmdPort.cp0, .cp1, .cp2, .cp3].find? fun p => (s.ctx p).st == .running with
  | some p => (s.modCtx p fun c => { c with st := .slice, cause := 1 }).resumeNext p
  | none => s.resumeNext s.ucode.lastCtx
/-- `CONTEXT_SLICE`. -/
def execContextSlice (s : State) : Ans := .next s.ctxSlice

/-- A waiting context whose condition holds is ready, and executes its word again (16_microcode R400). -/
def State.ctxResume (s : State) (p : CmdPort) : State :=
  let c := s.ctx p
  if c.st = .waiting ∧ s.waitHolds p (wWait (tget 0 s.ucode.words c.upc.toNat)) then s.readyCtx p else s
/-- `CONTEXT_RESUME`. -/
def execContextResume (ctx : CmdPort) (s : State) : Ans := .next (s.ctxResume ctx)

/-- The context timer expires (16_microcode Tables 16.5, 16.8). -/
def State.ctxTimer (s : State) (p : CmdPort) : State :=
  match (s.ctx p).timer with
  | some t => if s.due t then (s.reach t).modCtx p fun c => { c with timer := none, timerDone := true } else s
  | none => s
/-- `CONTEXT_TIMER_EXPIRY`. -/
def execContextTimerExpiry (ctx : CmdPort) (s : State) : Ans := .next (s.ctxTimer ctx)

/-- A UCODE_CALL has spent its cycle limit, running, waiting or saved (16_microcode R410). -/
def State.ucodeLimit (s : State) (p : CmdPort) : State :=
  let c := s.ctx p
  let t := c.startedAt + c.limit * 1000
  if c.st ≠ .idle ∧ s.due t then (s.reach t).ctxLimit p else s
/-- `UCODE_LIMIT`. -/
def execUcodeLimit (ctx : CmdPort) (s : State) : Ans := .next (s.ucodeLimit ctx)

end Sys2Proof.Machine
end

