-- ==== Sys2Proof/Machine/CmdPorts.lean ====
section
/-!
DEFINITION. The four command ports (15_commands R361 to R366, R381; 04_line R119; 19_pair R468, R469): packets as their transports
carry them, the dispatch of a packet by its opcode, and the rows CMD_RING_FETCH, HOST_CMD_TAIL_WRITE, HOST_RPL_TAIL_WRITE,
HOST_CMD_CTRL_RESET, READ_COMPLETION, CP1_FRAME_RECEIVE, CP3_FRAME_RECEIVE, CP3_BREAK and COMMAND_MESSAGE.
-/

namespace Sys2Proof.Machine

/-! ### Packets (15_commands R366, Table 15.4) -/

/-- The octets of a packet, without padding. -/
def packetLen (bs : List Byte) : Nat := 16 + 8 * leAt bs 4 2 + (if bitAt (leAt bs 2 2) 3 then 24 else 0)

/-- A packet as its octets give it. When the octets are fewer than its header demands, its parameters stand empty, which its length
check refuses (R374). -/
def parsePacket (port : CmdPort) (inst : Fin 64) (bs : List Byte) (src : BitVec 48) (vlan : Option (BitVec 16)) (at8 : Fin 3277) : Pkt :=
  let h := leAt bs 2 2
  let n := leAt bs 4 2
  let t := 16 + 8 * n
  { port := port, inst := inst, keySlot := BitVec.ofNat 3 h, trailer := bitAt h 3,
    resv := BitVec.ofNat 28 (h / 16 + leAt bs 6 2 * 4096), length := BitVec.ofNat 16 n, tag := BitVec.ofNat 64 (leAt bs 8 8),
    params := if packetLen bs ≤ bs.length ∧ n ≤ 510 then (bs.drop 16).take (8 * n) else [],
    counter := BitVec.ofNat 64 (if bitAt h 3 then leAt bs t 8 else 0),
    check := BitVec.ofNat 128 (if bitAt h 3 then leAt bs (t + 8) 16 else 0), pad := 0, src := src, vlan := vlan, at8 := at8,
    cancelAt := none, d0StopAt := none }

/-! ### Dispatch by opcode (15_commands Table 15.9) -/

/-- A packet run as its opcode says. `tn` is the round that the device time of a mirrored TT_ACTIVATE gives (19_pair R469). An
unknown opcode is refused in its acceptance. -/
def State.runPacket (s : State) (op : Nat) (p : Pkt) (tn : Option Nat := none) : State :=
  match op with
  | 0x0001 => s.runCommand op p (lenIs 0) doNop
  | 0x0002 => s.runCommand op p (lenIs 0) doIdentify
  | 0x0003 => s.runCommand op p (lenIs 0) doReadState
  | 0x0010 => s.runCommand op p wfSelftest doSelftest
  | 0x0011 => s.runCommand op p (lenZero 8) doMonitorRead
  | 0x0100 => s.runCommand op p wfTtLoad doTtLoad
  | 0x0101 => s.runCommand op p wfTtActivate (doTtActivateAt tn)
  | 0x0102 => s.runCommand op p (lenIs 0) doTtQuery
  | 0x0200 => s.runCommand op p wfTblWrite doTblWrite
  | 0x0201 => s.runCommand op p wfTblPairWrite doTblPairWrite
  | 0x0202 => s.runCommand op p wfTblRead doTblRead
  | 0x0203 => s.runCommand op p wfTblMove doTblMove
  | 0x0204 => s.runCommand op p (lenZero 8) doGenSwap
  | 0x0205 => s.runCommand op p wfTblBulk doTblBulk
  | 0x0206 => s.runCommand op p wfAgeScan doAgeScan
  | 0x0300 => s.runCommand op p wfPortConfig doPortConfig
  | 0x0301 => s.runCommand op p wfPortStatus doPortStatus
  | 0x0302 => s.runCommand op p wfStatsRead doStatsRead
  | 0x0400 => s.runCommand op p wfDrawerOpen doDrawerOpen
  | 0x0401 => (s.runCommand op p wfDrawer doDrawerClose).settleCloses
  | 0x0402 => s.runCommand op p wfDrawer doDrawerErase
  | 0x0403 => s.runCommand op p wfDrawer doSealNow
  | 0x0404 => s.runCommand op p wfReplayConfig doReplayConfig
  | 0x0405 => s.runCommand op p wfCabinetPause doCabinetPause
  | 0x0500 => s.runCommand op p wfTimeSet doTimeSet
  | 0x0501 => s.runCommand op p wfTimeAdjust doTimeAdjust
  | 0x0502 => s.runCommand op p (lenZero 8) doTimeRead
  | 0x0503 => s.runCommand op p wfTsCalibrate doTsCalibrate
  | 0x0600 => s.runCommand op p wfMirrorConfig doMirrorConfig
  | 0x0601 => s.runCommand op p wfMirrorRole doMirrorRole
  | 0x0602 => (s.runCommand op p (lenZero 8) doMirrorCheck).settleCheck
  | 0x0700 => s.runCommand op p wfKeyInstall doKeyInstall
  | 0x0701 => s.runCommand op p wfKeyRetire doKeyRetire
  | 0x0702 => s.runCommand op p (lenIs 0) doCounterRead
  | 0x0800 => s.runCommand op p (fun ps _ => blkOk true ps) doInstCreate
  | 0x0801 => s.runCommand op p (fun ps _ => blkOk false ps) doInstResize
  | 0x0802 => (s.runCommand op p wfQuiesce doQuiesce).settleInst
  | 0x0803 => s.runCommand op p wfInstReset (doInstReset false)
  | 0x0804 => s.runCommand op p wfInstReset (doInstReset true)
  | 0x0805 => (s.runCommand op p wfDirtyLog doDirtyLog).settleSwaps
  | 0x0900 => s.runCommand op p wfFaultConfig doFaultConfig
  | 0x0901 => s.runCommand op p wfFaultRelease doFaultRelease
  | 0x0A00 => s.runCommand op p wfUcodeLoad doUcodeLoad
  | 0x0A01 => s.runCommand op p wfUcodeCall doUcodeCall
  | _ => s.runCommand op p (fun _ _ => false) fun _ _ _ s => ok s

/-! ### CP0: the host command rings (15_commands R361 to R363) -/

/-- A ring whose next packet the CP0 context may take (15_commands R362; 17_host R419; 18_instances R450, R454): none while its reply ring is
full. -/
def State.ringServed (s : State) (n : Nat) : Bool :=
  let g := s.cmdRing n
  g.enable && !g.resetBusy && g.cmdHead != g.cmdTail && g.held.isEmpty &&
    (g.rplHead - g.rplTail).toNat != 2 ^ g.rplLog2.toNat && (s.inst n).st == .active && (s.fn n).busMaster &&
    s.mayRead n

/-- The next ring in ascending instance order after the one served last (15_commands R361). -/
def State.nextCmdRing (s : State) : Option Nat :=
  ((List.range 64).map fun i => (s.cmd.lastRing + 1 + i) % 64).find? s.ringServed

/-- The CP0 context is free: no routine runs in it, no mirrored command of it waits to send its first reply, and no slot is being read for it
(15_commands R379). -/
def State.cp0Free (s : State) : Bool :=
  (s.ctx .cp0).st == .idle && !(match s.mirror.inProgress with | some c => c.waiter.port == .cp0 | none => false) && !(s.host.reads.any fun q => !q.fenced && match q.purpose with | .command _ => true | _ => false)

/-- The packet of a ring's next slot executed. -/
def State.runSlot (n : Nat) (s : State) : State :=
  let g := s.cmdRing n
  let a := g.cmdBase.toNat / 8192 * 8192 + g.cmdHead.toNat % 2 ^ g.cmdLog2.toNat * 8192
  let bs := s.hostRead a 4120
  s.runPacket (leAt bs 0 2) (parsePacket .cp0 (Fin.ofNat 64 n) bs 0 none (Fin.ofNat 3277 s.off8))

/-- The CP0 context takes the next posted packet: its slot is read, at once or by a read that goes on (15_commands R362, R363). -/
def State.ringFetch (s : State) (rd : HostRead) : State :=
  if s.boot.phase < 4 ∨ s.boot.failed ∨ s.host.frozen ∨ !s.cp0Free then s
  else
    match s.nextCmdRing with
    | none => s
    | some n =>
      let s := { s with cmd := { s.cmd with lastRing := n } }
      match rd with
      | .data => State.runSlot n s
      | .outstanding => s.issueRead n (.command n)
      | _ => s.slotUnread n
/-- `CMD_RING_FETCH`. -/
def execCmdRingFetch (rd : HostRead) (at8 : Fin 3277) (s : State) : Ans := .next ((s.at_ at8.val).ringFetch rd)

/-- A read request completes (17_host R437). -/
def execReadCompletion (tag : BitVec 14) (rd : HostRead) (s : State) : Ans := .next (s.readEnd tag rd State.runSlot)

/-- The ring registers of an instance's page take writes (17_host R420; 18_instances R452, R454). -/
def State.cmdRegs (s : State) (n : Nat) : Bool := !s.host.frozen && s.pageLive n

/-- A write of HOST_CMD_TAIL (15_commands R363). -/
def State.cmdTailWrite (s : State) (n : Nat) (v : BitVec 16) : State :=
  let g := s.cmdRing n
  if !s.cmdRegs n then s
  else if 2 ^ g.cmdLog2.toNat < (v - g.cmdHead).toNat then s.modCmdRing n fun g => { g with tailRejected := true }
  else s.modCmdRing n fun g => { g with cmdTail := v }
/-- `HOST_CMD_TAIL_WRITE`. -/
def execHostCmdTailWrite (inst : Fin 64) (v : BitVec 16) (mem : List (BitVec 64 × List Byte)) (s : State) : Ans :=
  .next ((s.softStore mem).cmdTailWrite inst.val v)

/-- Held replies placed while there is room (15_commands R362). -/
def State.releaseHeld (s : State) (n : Nat) : State :=
  let rs := (s.cmdRing n).held
  rs.foldl (fun (s : State) r => s.ringReply n r) (s.modCmdRing n fun g => { g with held := [] })

/-- A write of HOST_RPL_TAIL (15_commands R362, R363). -/
def State.rplTailWrite (s : State) (n : Nat) (v : BitVec 16) : State :=
  let g := s.cmdRing n
  if !s.cmdRegs n then s
  else if (g.rplHead - g.rplTail).toNat < (v - g.rplTail).toNat then s.modCmdRing n fun g => { g with tailRejected := true }
  else (s.modCmdRing n fun g => { g with rplTail := v }).releaseHeld n
/-- `HOST_RPL_TAIL_WRITE`. -/
def execHostRplTailWrite (inst : Fin 64) (v : BitVec 16) (s : State) : Ans := .next (s.rplTailWrite inst.val v)

/-- A write of 1 to HOST_CMD_CTRL.reset (15_commands R381; 18_instances R448). -/
def State.cmdCtrlReset (s : State) (n : Nat) : State :=
  if !s.cmdRegs n then s else if n = 0 then s.portResetCp0 else (s.portResetRing n).settlePortReset
/-- `HOST_CMD_CTRL_RESET`. -/
def execHostCmdCtrlReset (inst : Fin 64) (s : State) : Ans := .next (s.cmdCtrlReset inst.val)

/-! ### CP1: the management port (04_line R119, R120) -/

/-- The command packet of a management frame, with its VLAN tag, when the port accepts the frame (04_line R119): the frame is given
with its FCS. A VLAN tag is one of TPID 0x8100, the spec naming none (DESIGN CHOICE, log entry 128). -/
def State.mgmtAccepts (s : State) (frame : List Byte) : Option (List Byte × Option (BitVec 16)) :=
  let n := frame.length
  let da := beAt frame 0 6
  let tagged := beAt frame 12 2 = 0x8100
  let off := if tagged then 18 else 14
  if n < 64 ∨ 4200 < n then none
  else if BitVec.ofNat 32 (le (frame.drop (n - 4))) ≠ crc32 (frame.take (n - 4)) then none
  else if beAt frame (off - 2) 2 ≠ 0x88B5 then none
  else if da ≠ s.mgmt.station.toNat ∧ (s.mgmt.group = 0 ∨ da ≠ s.mgmt.group.toNat) then none
  else some ((frame.take (n - 4)).drop off, if tagged then some (BitVec.ofNat 16 (beAt frame 14 2)) else none)

/-- The receive counters of the management port (04_line R120, Table 4.8). -/
def State.countMgmt (s : State) (frame : List Byte) : State :=
  let n := frame.length
  if n < 64 then s.mgmtStat 0x038
  else if 4200 < n then (s.mgmtStat 0x040).mgmtStat 0x028
  else if BitVec.ofNat 32 (le (frame.drop (n - 4))) ≠ crc32 (frame.take (n - 4)) then s.mgmtStat 0x028
  else (((s.mgmtStat 0x000).mgmtStat 0x008 n).mgmtStat (castCounter 0x010 frame)).mgmtStat (sizeCounter n)

/-- A frame at the management port, which a station address of zero keeps down (22_board Table 22.10): its packet queued
for CP1, or the frame discarded and counted, or dropped on a full queue and counted (04_line R119). -/
def State.cp1Frame (s : State) (frame : List Byte) : State :=
  if !s.mgmt.powered ∨ s.mgmt.station = 0 then s
  else
    let s := s.countMgmt frame
    match s.mgmtAccepts frame with
    | none => { s with mgmt := { s.mgmt with discarded := s.mgmt.discarded + 1 } }
    | some (bs, vlan) =>
      if 16 ≤ s.cmd.cp1Q.length then { s with mgmt := { s.mgmt with queueFull := s.mgmt.queueFull + 1 } }
      else
        let p := parsePacket .cp1 0 bs (BitVec.ofNat 48 (beAt frame 6 6)) vlan 0
        { s with cmd := { s.cmd with cp1Q := s.cmd.cp1Q ++ [{ opcode := BitVec.ofNat 16 (leAt bs 0 2), pkt := p }] } }
/-- `CP1_FRAME_RECEIVE`. -/
def execCp1FrameReceive (frame : List Byte) (at8 : Fin 3277) (s : State) : Ans := .next ((s.at_ at8.val).cp1Frame frame)

/-! ### CP3: the debug serial port (15_commands R364, R381) -/

/-- CP3 is enabled by its strap (22_board R517). -/
def State.cp3On (s : State) : Bool := s.boot.straps.getLsbD 3 && decide (4 ≤ s.boot.phase) && !s.boot.failed

/-- The octets between the flags of a serial frame, unescaped; nothing when an escape is not one of the two (15_commands R364). -/
def unescape : List Byte → Option (List Byte)
  | [] => some []
  | 0x7D :: 0x5E :: r => (unescape r).map (0x7E :: ·)
  | 0x7D :: 0x5D :: r => (unescape r).map (0x7D :: ·)
  | b :: r => if b = 0x7D ∨ b = 0x7E then none else (unescape r).map (b :: ·)

/-- The packet of a serial frame, or nothing when the device discards it (15_commands R364). -/
def serialPacket (wire : List Byte) : Option (List Byte) :=
  if wire.length < 2 ∨ wire.head? ≠ some 0x7E ∨ wire.getLast? ≠ some 0x7E then none
  else
    match unescape (wire.drop 1).dropLast with
    | none => none
    | some bs =>
      let n := bs.length - 4
      let pk := bs.take n
      if bs.length < 20 ∨ BitVec.ofNat 32 (le (bs.drop n)) ≠ crc32c pk ∨ packetLen pk ≠ n then none else some pk

/-- A serial frame: its packet queued, or the frame discarded and counted; a full queue counts as a discard (log entry 38). -/
def State.cp3Frame (s : State) (wire : List Byte) : State :=
  if !s.cp3On then s
  else
    match serialPacket wire with
    | some bs =>
      if s.cmd.cp3Q.length < 4 then
        { s with cmd := { s.cmd with cp3Q :=
            s.cmd.cp3Q ++ [{ opcode := BitVec.ofNat 16 (leAt bs 0 2), pkt := parsePacket .cp3 0 bs 0 none 0 }] } }
      else { s with cmd := { s.cmd with cp3Discards := s.cmd.cp3Discards + 1 } }
    | none => { s with cmd := { s.cmd with cp3Discards := s.cmd.cp3Discards + 1 } }
/-- `CP3_FRAME_RECEIVE`. -/
def execCp3FrameReceive (wire : List Byte) (at8 : Fin 3277) (s : State) : Ans := .next ((s.at_ at8.val).cp3Frame wire)

/-- A break of 1 ms or longer resets CP3: its command is cancelled at the next commit point and its queue emptied (15_commands
R364, R381). -/
def State.cp3Break (s : State) (us : Nat) : State :=
  if us < 1000 ∨ !s.cp3On then s
  else
    let s := if (s.ctx .cp3).st = .idle then s else s.modCtx .cp3 fun c => { c with cancel := true }
    ({ s with cmd := { s.cmd with cp3Q := [] } } : State).unfence 3
/-- `CP3_BREAK`. -/
def execCp3Break (us : Nat) (s : State) : Ans := .next (s.cp3Break us)

/-! ### CP2: the primary's command stream (15_commands R365; 19_pair R468, R469) -/

/-- The first round boundary of this device at or after a device time (19_pair R469). -/
def State.roundAtOrAfter (s : State) (t : DevTime) : Nat :=
  let need := (t - s.boundaryTime) * (10 * 2 ^ 32)
  let per := s.rate48.toNat * 4096
  s.tt.round.toNat + (need + per - 1) / per

/-- The regions that a mirrored command names (19_pair R468, Table 19.8). -/
def namedRegions (op : Nat) (ps : List Byte) : List Nat :=
  if op = 0x0100 ∨ op = 0x0101 then [17]
  else if op = 0x0204 then [18]
  else if op = 0x0300 then [16]
  else if op = 0x0200 ∨ op = 0x0201 ∨ op = 0x0203 ∨ op = 0x0205 then [regionOf (byteAt ps 0)]
  else []

/-- The status of the first reply that the standby sent for a mirror_seq. -/
def State.mirrorStatus (s : State) (seq : BitVec 64) : Option Nat :=
  s.out.findSome? fun o => match o with | .link 9 [q, st, _] => if q = seq.toNat then some st else none | _ => none

/-- A refusal of a mirrored packet raises DIVERGENCE and brings the comparison of its regions forward (19_pair R468). -/
def State.afterMirrored (s : State) (seq : BitVec 64) (op : Nat) (ps : List Byte) : State :=
  let refused := match s.mirrorStatus seq with | some st => decide (0x10 ≤ st) && st != 0x20 | none => false
  if refused then
    (namedRegions op ps).foldl (fun (s : State) r =>
      (s.occur 41 (BitVec.ofNat 13 r)).emit (.linkReq (.digest (Fin.ofNat 19 r)))) s
  else s

/-- The CP2 context takes the oldest mirrored command (19_pair R468). -/
def State.takeCp2 (s : State) : State :=
  match s.mirror.cp2Q with
  | [] => s
  | m :: rest =>
    let s := s.modMirror fun x => { x with cp2Q := rest, seq := m.seq }
    let p := { m.pkt with port := .cp2, inst := 0 }
    let tn := if m.opcode = 0x0101 then some (s.roundAtOrAfter m.tN) else none
    ((s.runPacket m.opcode.toNat p tn).afterMirrored m.seq m.opcode.toNat p.params).compareHeld

/-- A COMMAND message at the standby: queued in mirror_seq order, and taken as the CP2 context is free (19_pair R468). -/
def State.commandMessage (s : State) (m : Cp2Msg) : State :=
  if !(s.mirroring && s.mirror.role == .standby) ∨ m.seq ≤ s.mirror.seq ∨ 16 ≤ s.mirror.cp2Q.length then s
  else (s.modMirror fun x => { x with cp2Q := x.cp2Q ++ [m] }).takeCp2
/-- `COMMAND_MESSAGE`. -/
def execCommandMessage (seq : BitVec 64) (opcode : BitVec 16) (p : Pkt) (tN : Nat) (s : State) : Ans :=
  .next (s.heardNow.commandMessage { seq := seq, opcode := opcode, pkt := p, tN := tN })

end Sys2Proof.Machine
end

