-- ==== Sys2Proof/Machine/Pass.lean ====
section
/-!
DEFINITION. A head's pass through its pipeline: slots and their owners (02_timetable R31 to R38, R45, R46, R67 to R69), intake,
lookups, rules and automata, the resolve stage (06_templates R158 to R172; 07_match R177 to R185; 08_tables R205 to R214, R224,
R229), slot accounting and captures (21_counters R501, R502, R510, R511).
-/

namespace Sys2Proof.Machine

/-! ### Captures (21_counters R510, R511) -/

/-- The record's fields that a head gives (21_counters Table 21.6). -/
def sampleOf (r : Sample) (f : Frame) (slot counter : Nat) (tagged : Bool) : Sample :=
  { r with
    tagged := tagged, counter := counter, slot := slot % 2048, round := BitVec.ofNat 32 (slot / 2048), templateId := f.cw.templateId,
    cls := f.cw.cls, source := f.source.num, lp := if f.source = .port then f.lp.val else 0,
    reason := if f.cw.slowPath then f.cw.code else 0, outcome := 0, dropReason := 0,
    ruleRow := if tagged then f.cw.ruleRow else 0, ruleHit := tagged && f.cw.ruleHit, dest := if tagged then f.cw.dest else 0,
    tsIn := f.tsIn }

/-- The tag that waits for a head of this pipeline, taken by the head that enters now. -/
def State.takeTag (s : State) (p : Nat) : State × Option Nat :=
  let r := s.sample p
  match r.armTag with
  | some k => if r.following.isNone && !r.valid then (s.modSample p fun r => { r with armTag := none }, some k) else (s, none)
  | none => (s, none)

/-- The captures of a head that enters a slot: its tag followed, and a SAMPLE that its slot falls in. -/
def State.captures (s : State) (p slot : Nat) (f : Frame) (tag : Option Nat) : State :=
  let s := match tag with
    | some k => s.modSample p fun r => { sampleOf r f slot k true with following := some f.id }
    | none => s
  match (s.sample p).armSample with
  | some (limit, k) =>
    s.modSample p fun r =>
      let r := { r with armSample := none }
      if slot ≤ limit && !r.valid && r.following.isNone then { sampleOf r f slot k false with valid := true } else r
  | none => s

/-- A SAMPLE taken of a head learns at the end of its pass why it goes to the slow path (21_counters Table 21.6). -/
def State.sampleReason (s : State) (p slot : Nat) (f : Frame) : State :=
  let r := s.sample p
  if r.valid && !r.tagged && r.slot == slot % 2048 && r.round.toNat == slot / 2048 % 2 ^ 32 then
    s.modSample p fun r => { r with reason := if f.cw.slowPath then f.cw.code else 0 }
  else s

/-- A followed head reaches its outcome (21_counters R511): 0 admitted, 1 refused, 2 slow path, 3 dropped, 4 recirculated. -/
def State.tagEnd (s : State) (f : Frame) (outcome reason : Nat) : State :=
  s.pmc.samples.foldl (fun (s : State) x =>
    if x.2.following = some f.id then
      s.modSample x.1 fun r =>
        { sampleOf r f (r.round.toNat * 2048 + r.slot) r.counter true with
          following := none, valid := true, outcome := outcome, dropReason := reason }
    else s) s

/-! ### Slot accounting (21_counters R501, R502) -/

/-- A fixed slot counter of a pipeline: 0 retired, 1 wasted, 2 front_starved, 3 back_starved. -/
def State.slotCount (s : State) (p k : Nat) (n : Nat := 1) : State := if n = 0 then s else s.addCtr (12 * p + 8 + k) n

/-- A slot of a pipeline begins; slots before it that no command named carried no head. Nothing when the slot is past. -/
def State.beginSlot (s : State) (p slot : Nat) : Option State :=
  let n := tget 0 s.pmc.slotsBegun p
  if slot < n then none
  else
    let s := s.slotCount p 2 (slot - n)
    some { s with pmc := { s.pmc with slotsBegun := tset 0 s.pmc.slotsBegun p (slot + 1) } }

/-! ### Intake (06_templates R159 to R165) -/

/-- A count of a frame's pass made once: the bit of `counted` that remembers it. -/
def State.once (s : State) (f : Frame) (bit : Nat) (count : State → State) : State × Frame :=
  if bitAt f.counted bit then (s, f) else (count s, { f with counted := setFld f.counted bit 1 1 })

/-- An uncorrectable lookup in a quad (08_tables R224): counted under its code, and a fault of TABLE_UNCORR. -/
def State.badLookup (s : State) (q code : Nat) : State := (s.tick code (16 + q)).occur 5 (BitVec.ofNat 13 q)

/-- The configuration of the ingress port asks for a check of the frame; receive fields are those in force at its start (04_line R99). A
frame from injection or replay has no ingress port, and the model makes no check on it (log entry 118). -/
def Frame.portChecks (f : Frame) (bit : Nat) : Bool := f.source == .port && bitAt f.rxCfg bit

/-- A failure of intake that has an action other than flag only: its reason, and whether it drops. -/
def failure (fails : Bool) (reason action : Nat) (dropAt : Nat) : List (Nat × Bool) :=
  if fails then [(reason, action == dropAt)] else []

/-- What intake makes of a head: the frame with its carriage word, its class in force, its template, and the first failure. -/
structure Intake where
  st : State
  frame : Frame
  eff : Nat
  tmpl : Option Image
  fail : Option (Nat × Bool)

/-- The IPv4 header check of a pass (06_templates R164; 04_line R104): 0 not checked, 1 good, 2 failed. -/
def ipv4Check (t : Image) (f : Frame) (h : List Byte) : Nat :=
  let o := fld t 88 8
  if bitAt t 84 && tmplL3 t == 1 && f.portChecks 32 && !fragment4 h o then
    (if fold16 (sum16 (sliceAt h o (byteAt h o % 16 * 4))) = 65535 then 1 else 2)
  else 0

/-- The L4 check of a pass: its state, l4_head_sum, and where the IP length ends the segment. -/
def l4Check (t : Image) (f : Frame) (h : List Byte) : Nat × Nat × Nat :=
  if bitAt t 84 && f.portChecks 33 then
    match l4Segment t h with
    | none => (0, 0, 0)
    | some g =>
      if f.long then (3, fold16 (sum16 ((f.data.take 256).drop g.start) + g.pseudo), g.stop)
      else (if fold16 (sum16 ((h.take g.stop).drop g.start) + g.pseudo) = 65535 then 1 else 2, 0, g.stop)
  else (0, 0, 0)

/-- Intake of a head whose pass selected a template. -/
def State.intakeWith (s : State) (p : Nat) (t : Image) (f : Frame) (h : List Byte) (ceiling : Nat) : Intake :=
  let cls := fld t 9 2
  let above := decide (ceiling < cls)
  let claims := lengthClaims t h
  let depth := depthFails t h
  let length := lengthFails claims f
  let late := f.long && !length && !claims.isEmpty
  let v4 := ipv4Check t f h
  let l4 := l4Check t f h
  let s := if above then s.tick 0x11 p else s
  let x := if depth then s.once f 2 fun s => s.tick 0x12 p else (s, f)
  let x := if length then x.1.once x.2 3 fun s => s.tick 0x13 p else x
  let x := if v4 = 0 then x else x.1.once x.2 0 fun s => if v4 = 2 then s.stat f.lp.val 0x060 else s
  let x := if l4.1 = 0 then x else x.1.once x.2 1 fun s => if l4.1 = 2 then s.stat f.lp.val 0x068 else s
  let cw : CarriageWord :=
    { fields := extractAll t h, templateId := fld t 0 8, cls := cls, l3Type := tmplL3 t, l4Type := fld t 82 2,
      layoutKnown := bitAt t 84, ipv4Csum := v4, l4Csum := l4.1, l4HeadSum := l4.2.1, lengthLate := late,
      lengthExpect := if late then (lengthLate claims).1 % 2 ^ 14 else 0, lengthMode := late && (lengthLate claims).2 }
  let fails := failure above 2 0 1 ++ failure depth 3 (fld t 104 2) 1 ++ failure length 4 (fld t 106 2) 1 ++
    failure (v4 == 2 && fld t 108 2 != 0) 5 (fld t 108 2) 1 ++ failure (l4.1 == 2 && fld t 110 2 != 0) 6 (fld t 110 2) 1
  { st := x.1, frame := { x.2 with cw := cw, l3Off := fld t 88 8, l4Off := fld t 96 8, ipEnd := ((l4Segment t h).map (·.stop)).getD 0 },
    eff := min cls ceiling, tmpl := some t, fail := fails.head? }

/-- Intake of a head whose slot falls in a cycle (02_timetable R37; 06_templates R159, R165): an uncorrectable descriptor counts as no
match (08_tables Table 8.10). -/
def State.intake (s : State) (p cycle : Nat) (gen : Bool) (f : Frame) (ceiling : Nat) (up : Upsets) : Intake :=
  let h := f.head
  let f := { f with gen := some gen }
  let q := quadOf p
  match templateOf (s.repAt q cycle) gen f h with
  | none => { st := s.tick 0x10 p, frame := f, eff := 0, tmpl := none, fail := some (1, false) }
  | some t =>
    if up.template then { st := s.badLookup q 0x5C, frame := f, eff := 0, tmpl := none, fail := some (1, false) }
    else s.intakeWith p t f h ceiling

/-! ### Lookups -/

/-- What a search of corrupted rows gives (08_tables R224): any row of the `n` rows searched, or none, by a free value (log entry
1). -/
def State.wrongRow (s : State) (n : Nat) : Option Nat × State :=
  let v := Config.value s.freeCtr
  (if v % 2 = 0 then none else some (v / 2 % n), { s with freeCtr := s.freeCtr + 1 })

/-- The station lookup, issued 24 cycles behind the slot (02_timetable Table 2.2; 06_templates R168; 08_tables R211, R224). -/
def State.stationLookup (s : State) (q cycle : Nat) (t : Image) (cw : CarriageWord) (up : Upsets) : State × CarriageWord :=
  match stationKey t cw.fields with
  | none => (s, cw)
  | some k =>
    let rep := s.repAt q (cycle + 24)
    let x : Option Nat × State := if up.stationRow then s.wrongRow 65536 else ((stationSearch rep k).map (·.1), s)
    match x.1 with
    | none => (x.2, cw)
    | some row =>
      if up.station then (x.2.badLookup q 0x59, cw)
      else (x.2, { cw with stationHit := true, stationRow := row, stationRecord := fld (ent rep (tkey 1 0 row)) 64 47 })

/-- The prefix lookup, issued 40 cycles behind the slot (08_tables R208, R224). -/
def State.prefixLookup (s : State) (q cycle : Nat) (gen : Bool) (t : Image) (cw : CarriageWord) (up : Upsets) : State × CarriageWord :=
  match prefixKey t cw.fields with
  | none => (s, cw)
  | some k =>
    let rep := s.repAt q (cycle + 40)
    let x : Option (Nat × Image) × State :=
      if up.prefixRow then
        let w := s.wrongRow 262144
        (w.1.map fun row => (row, pfxRow rep row), w.2)
      else (prefixSearch rep gen (tmplL3 t == 2) k, s)
    match x.1 with
    | none => (x.2, cw)
    | some (row, e) =>
      if up.prefixData then (x.2.badLookup q 0x5A, cw)
      else (x.2, { cw with prefixHit := true, prefixLength := pfxLength e, prefixRow := row, prefixData := fld e 160 32 })

/-- The session lookup, issued 56 cycles behind the slot (08_tables R210, R224); the answer says whether the entry was read without an
uncorrectable error. -/
def State.sessionLookup (s : State) (q cycle : Nat) (t : Image) (cw : CarriageWord) (up : Upsets) : State × CarriageWord × Bool :=
  match sessionKey t cw.fields with
  | none => (s, cw, false)
  | some i =>
    if up.session then (s.badLookup q 0x58, { cw with sessionEntry := Config.upsetRow 3 i % 2 ^ 128 }, false)
    else (s, { cw with sessionEntry := ent (s.repAt q (cycle + 56)) (tkey 3 0 i) }, true)

/-- The automata scan of a class C pass, which begins 72 cycles behind the slot (07_match R199 to R201). -/
def State.automata (s : State) (q cycle : Nat) (t : Image) (f : Frame) (cw : CarriageWord) (up : Upsets) : State × CarriageWord :=
  let s := s.tick 0x40 (16 + q)
  if up.automata then (s.badLookup q 0x43, cw)
  else
    match scanFrame (s.repAt q (cycle + 72)) (fld t 184 8) f with
    | none => (s.tick 0x42 (16 + q), cw)
    | some r =>
      (if r.first = 0 then s else s.tick 0x41 (16 + q),
        { cw with automataValid := true, patternHits := r.hits, firstPattern := r.first, firstEnd := r.stop })

/-- Cycles from a slot to the rule search of its class (02_timetable Table 2.2). -/
def ruleOffset (eff : Nat) : Nat := if eff = 2 then 200 else 72

/-- The banks of the rule window of a slot whose pass has a class (02_timetable R42, R56). -/
def windowBanks (img : List Byte) (p slot eff : Nat) : Nat :=
  ruleBanks img (quadOf p) ((slot / 2 + ruleOffset eff) % 1024) (4 * (p % 4) + 2 * (slot % 2) + (eff - 1))

/-- The rule search of a pass in the banks of its window (07_match R179, R180; 08_tables R224). -/
def State.rules (s : State) (p cycle eff banks : Nat) (gen : Bool) (t : Image) (f : Frame) (cw : CarriageWord) (up : Upsets) :
    State × CarriageWord :=
  let q := quadOf p
  let rep := s.repAt q (cycle + ruleOffset eff)
  let x : Option (Nat × Image) × State :=
    if up.ruleRow then
      let w := s.wrongRow 32768
      ((w.1.filter fun row => bitAt banks (row / 1024)).map fun row => (row, ent rep (tkey 4 0 row)), w.2)
    else (ruleSearch rep gen banks (ruleKey cw f (fld t 176 8)), s)
  match x.1 with
  | none => (x.2.tick 0x21 p, cw)
  | some (row, e) =>
    if up.rule then ((x.2.badLookup q 0x5B).tick 0x21 p, cw)
    else (x.2.tick 0x20 p, { cw with ruleHit := true, ruleRow := row, ruleAction := fld e 640 64 })

/-- The reads of a pass behind its intake (02_timetable Table 2.2): the three lookups, in class C the scan, and in classes B and C the rule
search; errors corrected on the fly are counted (08_tables R224). The answer says whether the session entry was read without an
uncorrectable error. -/
def State.reads (s : State) (p cycle : Nat) (w : PassWork) (gen : Bool) (t : Image) (f : Frame) : State × CarriageWord × Bool :=
  let q := quadOf p
  let s := if w.up.corrected = 0 then s else s.tick 0x5D (16 + q) w.up.corrected.val
  let a := s.stationLookup q cycle t f.cw w.up
  let b := a.1.prefixLookup q cycle gen t a.2 w.up
  let c := b.1.sessionLookup q cycle t b.2 w.up
  let d := if w.eff = 2 then c.1.automata q cycle t f c.2.1 w.up else (c.1, c.2.1)
  let e := if w.eff = 0 then d else d.1.rules p cycle w.eff w.banks gen t f d.2 w.up
  (e.1, e.2, c.2.2)

/-! ### Resolve (06_templates R171; 07_match R183 to R185) -/

/-- The governing action of a pass that nothing makes unpredictable (07_match R183). -/
def governing (eff : Nat) (t : Image) (cw : CarriageWord) : Nat := if eff ≠ 0 ∧ cw.ruleHit then cw.ruleAction else fld t 192 64

/-- The forwarding result of a pass is unpredictable: the image breaks a guarantee that involves its pipeline (02_timetable R74), or the
frame is pinned to a generation that was written while its swap drained (08_tables R231). -/
def State.openResult (s : State) (w : PassWork) (gen : Bool) : Bool :=
  w.broken || match s.tables.swap with
    | some x => x.loose && gen == !x.newGen
    | none => false

/-- The destination fields that an action gives, or none when its table gives no destination (07_match R184). -/
def destOf (cw : CarriageWord) (f : Frame) (a : Nat) (session : Bool) : Option (Nat × Bool) :=
  if fld a 0 3 = 0 then some (fld a 4 16, bitAt a 3)
  else (tableDest cw f (fld a 0 3) session).map fun d => if bitAt d 1 then (fld d 2 16, true) else (fld d 2 16 * 16 + fld a 20 4, false)

/-- The decision fields filled from the governing action, with the counts of actions (07_match R184, R185; 06_templates R171). -/
def State.resolve (s : State) (p : Nat) (t : Image) (f : Frame) (cw : CarriageWord) (a : Nat) (session : Bool) : State × CarriageWord :=
  let d := destOf cw f a session
  let disp := if d.isSome then fld a 55 2 else if bitAt a 62 then 2 else 1
  let code := if d.isSome then fld a 57 5 else 15
  let cw := { cw with
    dest := (d.getD (0, false)).1, destIsGroup := (d.getD (0, false)).2, colour := fld a 25 2, evidenceMark := bitAt a 27,
    evidenceClass := fld a 28 3, feedMark := bitAt a 31, feedId := fld a 32 12, rewriteProg := fld a 44 8 }
  let cw := match f.inj with
    | some j => { cw with ptpOp := j.ptpOp, ptpOffset := j.ptpOffset, ptpReport := j.report }
    | none => { cw with ptpOp := fld a 52 2, ptpOffset := if fld a 52 2 = 0 then 0 else fld t 112 8 }
  if disp = 1 then (s.tick 0x22 p, { cw with drop := true })
  else if disp = 2 then (s.tick 0x23 p, { cw with slowPath := true, code := 0x10 + code % 16 })
  else if disp = 3 then
    if f.pass2 then (s.tick 0x24 p, { cw with slowPath := true, code := 7 })
    else (s.tick 0x24 p, { cw with recirculate := true, code := code })
  else (s, cw)

/-- The learning candidate of a pass (08_tables R214). -/
def State.candidate (s : State) (q : Nat) (t : Image) (f : Frame) (h : List Byte) : State :=
  let b := s.quadBlock q
  let addr := beAt h 6 6
  match stationKey t f.cw.fields with
  | none => s
  | some k =>
    if learnOn b ∧ f.source = .port ∧ !f.secondPass ∧ bitAt b f.lp.val ∧ addr / 2 ^ 40 % 2 = 0 ∧ addr ≠ 0 then
      s.offerCandidate q
        { addr := BitVec.ofNat 48 addr, vlan := BitVec.ofNat 12 (k / 2 ^ 48), lp := f.lp, sec := BitVec.ofNat 16 (secOf s.devTime),
          frame := if f.long then some f.id else none, fcsOk := if f.long then none else some true }
    else s

/-! ### A pass -/

/-- The intake of a head in a slot (02_timetable R37; 06_templates R165): what is left of its pass waits for its end. -/
def State.beginPass (s : State) (p slot ceiling : Nat) (img : List Byte) (f : Frame) (up : Upsets) : State × Frame :=
  let q := quadOf p
  let gen := f.gen.getD (s.quad q).gen
  let x := s.intake p (slot / 2) gen f ceiling up
  let s := x.st.tick (6 + x.eff) p
  let s := match x.tmpl, x.fail with
    | some t, none => s.candidate q t x.frame x.frame.head
    | _, _ => s
  let w : PassWork := { eff := x.eff, tmpl := x.tmpl, fail := x.fail, banks := windowBanks img p slot x.eff,
                        broken := s.tt.broken.contains p, up := up }
  (s, { x.frame with work := some w, depth := x.eff })

/-- A failed intake overrides every action of the pass (06_templates R165). -/
def Frame.failIntake (f : Frame) (reason : Nat) (drop : Bool) : Frame :=
  { f with intakeDrop := drop, cw := { f.cw with drop := drop, slowPath := !drop, code := if drop then 0 else reason } }

/-- The rest of a pass: its reads, each as its table stood in the cycle that issued it (02_timetable R37, R40; 08_tables R232), and its
outcome. A failed intake overrides the actions, but the pass runs to its end (06_templates R165). -/
def State.finishPass (s : State) (p slot : Nat) (f : Frame) (w : PassWork) : State × Frame :=
  let gen := f.gen.getD false
  let f := { f with work := none }
  let t := w.tmpl.getD 0
  let r := match w.tmpl with
    | some t => s.reads p (slot / 2) w gen t f
    | none => (s, f.cw, false)
  if r.1.openResult w gen then
    let x := r.1.takeFree
    let y := x.2.resolve p t f r.2.1 (freeAction (Config.value x.1)) r.2.2
    (y.1, { f with cw := y.2 })
  else
    match w.fail with
    | some (reason, drop) => (r.1, ({ f with cw := r.2.1 } : Frame).failIntake reason drop)
    | none =>
      let y := r.1.resolve p t f r.2.1 (governing w.eff t r.2.1) r.2.2
      (y.1, { f with cw := y.2 })

/-- The head whose intake record or bytes hold a double-bit error is dropped (06_templates R175): its cells are freed and no later
cell of it is written; an injected one is reported as dropped (05_time R148). -/
def State.bodyDrop (s : State) (f : Frame) : State :=
  let s := s.reportDropped f.inj
  match s.flow.body.find? fun b => b.id == f.id with
  | some b =>
    let s := s.freeFrameCells { f with cells := b.cells }
    let left := if b.lastIn then s.flow.body.filter fun x => x.id != f.id
      else s.flow.body.map fun x => if x.id = f.id then { x with cells := [], refused := true } else x
    { s with flow := { s.flow with body := left } }
  | none => s.freeFrameCells f

/-- A head enters a slot (02_timetable R35, R37; 06_templates R174, R175; 21_counters R510, R511). `kind` is the event code of its
source. -/
def State.enterSlot (s : State) (p slot kind ceiling : Nat) (img : List Byte) (f : Frame) (up : Upsets) : State :=
  let x := s.takeTag p
  let s := (x.1.tick 0x001 p).tick kind p
  let s := if up.intake1 then s.tick 0x1A p else s
  if up.intake2 then (((s.tick 0x1B p).occur 3 (BitVec.ofNat 13 p)).slotCount p 1).bodyDrop f
  else
    let r := s.beginPass p slot ceiling img f up
    let f := { r.2 with parityMark := up.parity }
    let s := if up.parity then (r.1.tick 0x18 p).occur 4 (BitVec.ofNat 13 p) else r.1
    let s := s.captures p slot f x.2
    { s with flow := { s.flow with inPass := s.flow.inPass ++ [(p, slot, f)] } }

/-- The cycle, counted from round 0, in which a head leaves its pipeline (02_timetable R37). -/
def passEnd (slot : Nat) (f : Frame) : Nat := slot / 2 + depthCycles f.depth

/-- The pass ends in the recirculation queue and not in a hand-off: a parity mark, or an action's request (06_templates R171,
R174). -/
def Frame.recirculates (f : Frame) : Bool :=
  f.work.isNone && (f.parityMark || (f.cw.recirculate && !f.cw.drop && !f.cw.slowPath))

/-- A head enters the recirculation queue, or is dropped on a full one or on parity in its second pass (01_structure R17;
02_timetable R45; 06_templates R172, R174; 21_counters Table 21.2). -/
def State.requeue (s : State) (p : Nat) (f : Frame) : State :=
  if f.parityMark ∧ f.pass2 then ((s.slotCount p 1).tagEnd f 3 0).bodyDrop f
  else if 32 ≤ (s.flow.recirc.filter fun x => x.1 == p).length then (((s.tick 0x1C p).slotCount p 1).tagEnd f 3 0).bodyDrop f
  else
    let s := s.slotCount p (if f.parityMark then 1 else 0)
    let s := s.tagEnd f 4 0
    let keep : CarriageWord :=
      if f.parityMark then {}
      else { templateId := f.cw.templateId, cls := f.cw.cls, l3Type := f.cw.l3Type, l4Type := f.cw.l4Type,
             layoutKnown := f.cw.layoutKnown, ipv4Csum := f.cw.ipv4Csum, l4Csum := f.cw.l4Csum, lengthLate := f.cw.lengthLate,
             l4HeadSum := f.cw.l4HeadSum }
    let g := { f with pass2 := true, parityCause := f.parityMark, recircTag := if f.parityMark then 0 else f.cw.code,
                      parityMark := false, oldImage := false, intakeDrop := false, cw := keep }
    { s with flow := { s.flow with recirc := s.flow.recirc ++ [(p, g)] } }

/-- The passes of a pipeline that have ended by a cycle are completed, in the order of their slots. -/
def State.finishPasses (s : State) (p cycle : Nat) : State :=
  s.flow.inPass.foldl (fun (s : State) x =>
    match x.2.2.work with
    | none => s
    | some w =>
      if x.1 = p ∧ passEnd x.2.1 x.2.2 ≤ cycle then
        let r := s.finishPass p x.2.1 x.2.2 w
        let s := r.1.sampleReason p x.2.1 r.2
        { s with flow := { s.flow with
            inPass := s.flow.inPass.map fun y => if y.2.2.id = x.2.2.id then (y.1, y.2.1, r.2) else y } }
      else s) s

/-- Passes of a pipeline that have ended by a cycle are completed, and those that end in a recirculation go to the queue, in their
order. -/
def State.settlePasses (s : State) (p cycle : Nat) : State :=
  let s := s.finishPasses p cycle
  let done := s.flow.inPass.filter fun x => x.1 == p && x.2.2.recirculates && decide (passEnd x.2.1 x.2.2 ≤ cycle)
  done.foldl (fun (s : State) x =>
    ({ s with flow := { s.flow with inPass := s.flow.inPass.filter fun y => y.2.2.id != x.2.2.id } } : State).requeue p x.2.2) s

/-! ### Slots -/

/-- A slot of the new image is withheld in the rounds of a switch (02_timetable R60, R67). -/
def State.withheld (s : State) (p slot : Nat) : Bool :=
  match s.tt.switchRound, s.tt.active with
  | some n, some img =>
    decide (n ≤ s.tt.round) && decide (s.tt.round.toNat < n.toNat + 2) &&
      transBit img 0x40 (p * 4096 + (s.tt.round.toNat - n.toNat) * 2048 + slot)
  | _, _ => false

/-- A slot carries no head: back_starved when its source held one that may not take it (21_counters R502). -/
def State.idleSlot (s : State) (p : Nat) (held : Bool) : State := s.slotCount p (if held then 3 else 2)

/-- The oldest head of a port that has crossed by a cycle. -/
def State.headAt (s : State) (lp cycle : Nat) : Option Frame × List (Frame × Nat) :=
  let x := takeFirst (fun x => x.1.lp.val == lp && decide (x.2 ≤ cycle)) s.flow.waiting
  (x.1.map fun y => { y.1 with slotWait := min 255 (5 * (cycle - y.2)) }, x.2)

/-- A port's head takes its slot, with its slot wait; a wait above W outside a transition window is a fault (02_timetable R35, R36;
20_faults Table 20.1). A slot of a port that is down goes unused (R33). -/
def State.portSlot (s : State) (p slot lp : Nat) (old : Bool) (img : List Byte) (up : Upsets) : State :=
  let abs := s.tt.round.toNat * 2048 + slot
  match s.headAt lp (abs / 2) with
  | (none, _) => s.idleSlot p false
  | (some f, rest) =>
    if !s.isUp lp then s.idleSlot p false
    else
      let wait := match s.flow.waiting.find? fun x => x.1.id == f.id with | some x => abs / 2 - x.2 | none => 0
      let s := { s with flow := { s.flow with waiting := rest } }
      let s := if slotWaitPs (s.modeOf lp) < 400 * wait ∧ !s.tt.inWindow.contains f.lp then s.occur 13 (BitVec.ofNat 13 lp) else s
      s.enterSlot p abs 0x002 (fld (slotEntry img p slot) 12 2) img { f with oldImage := old } up

/-- A slot, counted from round 0, lies at or behind the switch position of a port that has not passed it (02_timetable R60, R68). -/
def State.switchedAt (s : State) (lp slot : Nat) : Bool :=
  match s.tt.switchRound, s.tt.active with
  | some n, some img => decide (n.toNat * 2048 + fld (portSwitch img lp) 0 12 ≤ slot)
  | _, _ => false

/-- The port whose old-image slot this is: a changed port before its switch position (02_timetable R68). -/
def State.oldOwner (s : State) (p slot : Nat) : Option Nat :=
  match s.tt.old with
  | some o =>
    let x := slotEntry o p slot
    let lp := fld x 3 9
    if fld x 0 3 = 1 ∧ s.tt.unswitched.any (·.val == lp) ∧ !s.switchedAt lp (s.tt.round.toNat * 2048 + slot) then some lp else none
  | none => none

/-- A slot at or behind a changed port's switch position finds that the port has passed it. -/
def State.passSwitch (s : State) (lp slot : Nat) : State :=
  match s.tt.unswitched.find? fun x => x.val == lp with
  | some x => if s.switchedAt lp slot then s.endSwitch x else s
  | none => s

/-- A slot of a logical port (02_timetable R33, R67, R68): a changed port before its switch position fills its old-image slots. -/
def State.headSlot (s : State) (p slot : Nat) (up : Upsets) : State :=
  let s := s.at_ (cycleAt8 (slot / 2))
  let abs := s.tt.round.toNat * 2048 + slot
  match s.tt.active with
  | none => s
  | some img =>
    let e := slotEntry img p slot
    let lp := fld e 3 9
    if (s.oldOwner p slot).isNone ∧ fld e 0 3 ≠ 1 then s
    else
      match s.beginSlot p slot with
      | none => s
      | some s =>
        let s := s.settlePasses p (abs / 2)
        match s.oldOwner p slot, s.tt.old with
        | some old, some o => s.portSlot p slot old true o up
        | _, _ =>
          let s := s.passSwitch lp abs
          if s.flt.safe then s.idleSlot p false
          else if s.tt.unswitched.any (·.val == lp) ∨ s.withheld p slot then s.idleSlot p (s.headAt lp (abs / 2)).1.isSome
          else s.portSlot p slot lp false img up
/-- `HEAD_SLOT`. -/
def execHeadSlot (pipe : Fin 16) (slot : Fin 2048) (up : Upsets) (s : State) : Ans := .next (s.headSlot pipe.val slot.val up)

/-- A slot that the active image gives to sources of `types`: it begins, and the image and entry it has. -/
def State.ownSlot (s : State) (p slot : Nat) (types : List Nat) : Option (State × List Byte × Nat) :=
  match s.tt.active with
  | none => none
  | some img =>
    let e := slotEntry img p slot
    if types.contains (fld e 0 3) then
      (s.beginSlot p slot).map fun s => (s.settlePasses p (s.tt.round.toNat * 1024 + slot / 2), img, e)
    else none

/-- A recirculation slot: the oldest queued head of the pipeline (02_timetable R45, R69). -/
def State.recircSlot (s : State) (p slot : Nat) (up : Upsets) : State :=
  let s := s.at_ (cycleAt8 (slot / 2))
  match s.ownSlot p slot [2] with
  | none => s
  | some (s, img, e) =>
    match takeFirst (fun x => x.1 == p) s.flow.recirc with
    | (none, _) => s.idleSlot p false
    | (some x, rest) =>
      if s.flt.safe then s.idleSlot p false
      else if s.withheld p slot then s.idleSlot p true
      else
        ({ s with flow := { s.flow with recirc := rest } } : State).enterSlot p (s.tt.round.toNat * 2048 + slot) 0x003 (fld e 12 2) img
          x.2 up
/-- `RECIRC_PASS`. -/
def execRecircPass (pipe : Fin 16) (slot : Fin 2048) (up : Upsets) (s : State) : Ans := .next (s.recircSlot pipe.val slot.val up)

/-- The injection ring that a pipeline serves next: the next higher number with a head, wrapping (17_host R425). -/
def State.nextRing (s : State) (p : Nat) : Option Nat :=
  let rs := (s.flow.inject.filter fun x => x.1 == p && x.2.source == .inject).filterMap fun x => x.2.inj.map (·.ring)
  let last := tget 1024 s.flow.injectLast p
  let least (l : List Nat) : Option Nat := l.min?
  match least (rs.filter fun r => decide (last < r) && decide (last < 1024)) with
  | some r => some r
  | none => least rs

/-- The head that an injection slot takes: for a slow-path slot that of the ring served next, for a replay slot the oldest. -/
def State.injectHead (s : State) (p typ : Nat) : Option (Nat × Frame) × List (Nat × Frame) :=
  if typ = 3 then
    match s.nextRing p with
    | some r => takeFirst (fun x => x.1 == p && x.2.source == .inject && (x.2.inj.map (·.ring)) == some r) s.flow.inject
    | none => (none, s.flow.inject)
  else takeFirst (fun x => x.1 == p && x.2.source == .replay) s.flow.inject

/-- A COLD activation holds injection heads until its round begins (02_timetable R67). -/
def State.coldHold (s : State) : Bool :=
  match s.tt.act with | some a => !a.warm && a.phase != .draining | none => false

/-- An injection slot (02_timetable R46); a leased frame whose chain was freed by pointer carries unpredictable bytes (11_pool
R289). -/
def State.injectSlot (s : State) (p slot : Nat) (up : Upsets) : State :=
  let s := s.at_ (cycleAt8 (slot / 2))
  match s.ownSlot p slot [3, 4] with
  | none => s
  | some (s, img, e) =>
    match s.injectHead p (fld e 0 3) with
    | (none, _) => s.idleSlot p false
    | (some x, rest) =>
      if s.flt.safe then s.idleSlot p false
      else if s.withheld p slot ∨ s.coldHold then s.idleSlot p true
      else
        let s := { s with flow := { s.flow with
          inject := rest
          injectLast := match x.2.inj with
            | some j => if fld e 0 3 = 3 then tset 1024 s.flow.injectLast p j.ring else s.flow.injectLast
            | none => s.flow.injectLast } }
        let f := { x.2 with data := s.readFrame x.2.id x.2.data }
        s.enterSlot p (s.tt.round.toNat * 2048 + slot) (if fld e 0 3 = 3 then 0x004 else 0x005) (fld e 12 2) img f up
/-- `INJECT_SLOT`. -/
def execInjectSlot (pipe : Fin 16) (slot : Fin 2048) (up : Upsets) (s : State) : Ans := .next (s.injectSlot pipe.val slot.val up)

end Sys2Proof.Machine
end

