-- ==== Sys2Proof/Machine/Admission.lean ====
section
/-!
DEFINITION. Admission (10_buffer R256 to R272): the targets of a frame, the checks of Table 10.2 on each, what an admitted frame is
charged, and the late checks of a frame whose last cell is stored (04_line R104, R105; 06_templates R163).
-/

namespace Sys2Proof.Machine

/-! ### Configuration of the buffer island (10_buffer Tables 10.3 to 10.5, 10.7) -/

/-- The size of a service pool. -/
def State.poolSize (s : State) (p : Nat) : Nat := fld (s.work 0x0D 0) (32 * p) 20
/-- The size of the global headroom pool. -/
def State.headSize (s : State) : Nat := fld (s.work 0x0D 0) 128 20
/-- free(p): the size of a pool less the cells charged to it, zero when negative (10_buffer R260). -/
def State.freeOf (s : State) (p : Nat) : Nat := s.poolSize p - tget 0 s.buf.poolUse p
/-- A queue's configuration entry (10_buffer Table 10.4). -/
def State.qcfg (s : State) (q : Nat) : Image := s.work 0x0E q
/-- min_cells of a queue. -/
def State.minOf (s : State) (q : Nat) : Nat := fld (s.qcfg q) 16 16
/-- An ingress group's entry (10_buffer Table 10.5). -/
def State.gcfg (s : State) (g : Nat) : Image := s.work 0x0F g
/-- The drop profile of a queue (10_buffer Table 10.7). -/
def State.profile (s : State) (q : Nat) : Image := s.work 0x10 (fld (s.qcfg q) 6 4)

/-- The dynamic threshold of a queue (10_buffer R260). -/
def State.threshold (s : State) (q : Nat) : Nat :=
  let c := s.qcfg q
  let t := s.freeOf (fld c 0 2) * 2 ^ fld c 2 4 / 128
  if fld c 32 20 ≠ 0 then min t (fld c 32 20) else t

/-! ### Targets (10_buffer R267, R268) -/

/-- The requester that a frame is charged to (11_pool R282). -/
def Frame.requester (f : Frame) : Nat := match f.inj with | some j => j.requester | none => f.owner

/-- The target queues of a frame, ascending. -/
def State.targets (s : State) (f : Frame) : List Nat :=
  if f.cw.destIsGroup then
    let g := s.work 0x11 f.cw.dest
    ((List.range 512).filter fun lp => bitAt g lp && !(bitAt g 516 && f.source == .port && f.lp.val == lp)).map fun lp =>
      lp * 16 + fld g 512 4
  else [f.cw.dest]

/-- The ingress group of a frame for a target, when the frame is lossless there (10_buffer R261). -/
def State.groupOf (s : State) (f : Frame) (tc : Nat) : Option Nat :=
  let m := s.pcfg f.lp.val 50 2
  let k := if m = 2 then s.pfcMap f.lp.val tc else 0
  let g := f.lp.val * 8 + k
  if f.source = .port ∧ (m = 1 ∨ m = 2) ∧ bitAt (s.gcfg g) 0 then some g else none

/-! ### Drop profiles (10_buffer R265, R266) -/

/-- The average after an update: A + (Q − A) × 2^−w, with 16 fraction bits kept. -/
def averageAfter (a q w : Nat) : Nat := ((a : Int) + ((q * 65536 : Nat) - (a : Int)) / (2 ^ w : Nat)).toNat

/-- One step of the drop-profile generator, x^32 + x^22 + x^2 + x + 1. -/
def lfsrNext (v : BitVec 32) : BitVec 32 :=
  (v <<< 1) ||| (BitVec.ofBool ((v.getLsbD 31 ^^ v.getLsbD 21) ^^ (v.getLsbD 1 ^^ v.getLsbD 0))).setWidth 32

/-- The thresholds of a colour: min_th, max_th and max_p. -/
def profileOf (p : Image) (colour : Nat) : Nat × Nat × Nat :=
  let w := fld p (64 * colour) 64
  (fld w 0 20, fld w 20 20, fld w 40 9)

/-- The drop probability of an average, in 2^-16. -/
def dropP (a : Nat) (t : Nat × Nat × Nat) : Nat :=
  if a < t.1 * 65536 then 0
  else if a < t.2.1 * 65536 then t.2.2 * 256 * (a - t.1 * 65536) / ((t.2.1 - t.1) * 65536)
  else 65536

/-- A frame's ECN field and whether it may be marked: none without a known IP layout (10_buffer R266). -/
def ecnField (f : Frame) : Option Nat :=
  if f.cw.layoutKnown then
    if f.cw.l3Type = 1 then some (byteAt f.head (f.l3Off + 1) % 4)
    else if f.cw.l3Type = 2 then some (byteAt f.head (f.l3Off + 1) / 16 % 4)
    else none
  else none

/-- What the drop profile says of a target: not hit, hit, or hit and marked (or left at 11) in place of a drop. -/
inductive Profile where
  | miss | hit | marked (ecn : Bool)
deriving DecidableEq, Repr

/-- The generator advanced for a target decision, the queue's average updated where its profile is enabled, and what the profile says
(10_buffer R265, R266); which 16 bits of the generator are compared is open (log entry 1). -/
def State.profileTest (s : State) (f : Frame) (q : Nat) : State × Profile :=
  let c := s.qcfg q
  let r := Config.generatorBits s.buf.lfsr.toNat % 65536
  let s := { s with buf := { s.buf with lfsr := lfsrNext s.buf.lfsr } }
  if !bitAt c 10 then (s, .miss)
  else
    let p := s.profile q
    let a := averageAfter (s.queue q).avg (s.queue q).occ (fld p 192 4)
    let t := profileOf p f.cw.colour
    let s := s.modQueue q fun x => { x with avg := a }
    if r < dropP a t then
      match ecnField f with
      | some e =>
        if bitAt c 11 ∧ a < t.2.1 * 65536 ∧ e ≠ 0 then (s, .marked (e ≠ 3)) else (s, .hit)
      | none => (s, .hit)
    else (s, .miss)

/-! ### The decision of one target -/

/-- A frame's decision as it is made target by target: the instant at which it leaves the admission stage, its charges so far, whether a
copy is admitted, and the targets refused. -/
structure Deciding where
  st : State
  leaves : Nat
  charged : Option Charges
  bad : List (Nat × Nat)

/-- No charge of a frame to a pool. -/
def Charges.start (f : Frame) (pool : Nat) (group : Option Nat) : Charges :=
  { requester := f.requester, pool := ⟨pool % 4, by omega⟩, poolCells := 0, minQueue := 0, minCells := 0, group := group, headCells := 0,
    sharedCells := 0 }

/-- `n` cells charged to the pool that serves a queue, the minimum reserve of a unicast target first (10_buffer R260). -/
def State.chargePool (s : State) (f : Frame) (q n : Nat) (group : Option Nat) : State × Charges :=
  let c := Charges.start f (fld (s.qcfg q) 0 2) group
  let m := if f.cw.destIsGroup then 0 else min n (s.minOf q - (s.queue q).occ)
  let k := n - m
  let s := { s with buf := { s.buf with poolUse := tmod 0 s.buf.poolUse c.pool.val (· + k) } }
  let s := match group with | some g => s.modGroup g fun x => { x with shared := x.shared + k } | none => s
  (s, { c with poolCells := k, minQueue := q, minCells := m, sharedCells := if group.isSome then k else 0 })

/-- A group becomes congested: its port's MAC is called on for pause (10_buffer R262, R263). -/
def State.congest (s : State) (g : Nat) : State :=
  if (s.group g).congested then s
  else (s.modGroup g fun x => { x with congested := true }).pauseCall (g / 8) (g % 8) true

/-- A group whose g_shared has reached xoff_cells is congested (10_buffer R262). -/
def State.xoff (s : State) (g : Nat) : State := if fld (s.gcfg g) 16 16 ≤ (s.group g).shared then s.congest g else s

/-- The first admitted target of a frame of a port moves its cells to the requester's account, which later targets see (10_buffer R251, R257;
11_pool R282, R283). -/
def State.chargeRequester (s : State) (f : Frame) (n : Nat) : State := if f.source = .port then s.charge f.requester n else s

/-- A target admitted: its occupancy, its entry and its counts (10_buffer R252, R257, R271). A cut-through copy that finds its port idle and
its queue empty keeps the instant of its linking (12_egress R295). -/
def Deciding.grant (d : Deciding) (f : Frame) (q n : Nat) (charges : Charges) (ecn : Bool) : Deciding :=
  let s := if d.charged.isNone then d.st.chargeRequester f n else d.st
  let cut := f.source == .port && decide (s.modeOf f.lp.val ≤ s.modeOf (q / 16)) && !bitAt (s.qcfg q) 12
  let idle := (s.egr (q / 16)).wire.isEmpty && decide ((s.egr (q / 16)).freeAt ≤ d.leaves) && (s.queue q).entries.isEmpty
  let e : QEntry :=
    { frame := f.id, ecnMark := ecn, isGroup := f.cw.destIsGroup, cutThrough := cut, freshAt := if cut && idle then some d.leaves else none }
  let s := s.modQueue q fun x =>
    { x with occ := x.occ + n, enqueued := x.enqueued + 1, entries := x.entries ++ [e],
             ecnMarked := if ecn then x.ecnMarked + 1 else x.ecnMarked }
  { d with st := { s with buf := { s.buf with entriesUsed := s.buf.entriesUsed + 1 } }, charged := some charges }

/-- A target refused with a reason of Table 10.2. -/
def Deciding.refuse (d : Deciding) (q reason : Nat) : Deciding :=
  { d with st := d.st.modQueue q (fun x => { x with refused := x.refused + 1 }), bad := d.bad ++ [(q, reason)] }

/-- A lossy target that finds a free entry: threshold, then drop profile (10_buffer R260, R265). -/
def Deciding.lossy (d : Deciding) (f : Frame) (q n : Nat) (p : Profile) : Deciding :=
  let s := d.st
  let occ := (s.queue q).occ
  let free := !f.cw.destIsGroup && decide (occ < s.minOf q)
  if !free ∧ (s.threshold q : Int) ≤ (occ : Int) - s.minOf q then d.refuse q 5
  else
    match p with
    | .hit => d.refuse q 6
    | _ =>
      let x := match d.charged with
        | some c => (s, c)
        | none => s.chargePool f q n none
      ({ d with st := x.1 } : Deciding).grant f q n x.2 (p == .marked true)

/-- A lossless target that finds a free entry: the pool while its group is not congested, else headroom (10_buffer R262); a written entry acts
at the first decision behind it (R275). -/
def Deciding.lossless (d : Deciding) (f : Frame) (q n g : Nat) (p : Profile) : Deciding :=
  let s := (d.st.groupRelief g).xoff g
  let s := if s.freeOf (fld (s.qcfg q) 0 2) = 0 then s.congest g else s
  let room := decide ((s.group g).head < fld (s.gcfg g) 48 16) && decide (s.buf.headUse < s.headSize)
  if (s.group g).congested ∧ !room then
    let d := ({ d with st := s.modEgr (q / 16) fun e => { e with headroomDrop := e.headroomDrop + 1 } } : Deciding).refuse q 7
    { d with st := d.st.groupRelief g }
  else
    let x := match d.charged with
      | some c => (s, c)
      | none =>
        if (s.group g).congested then
          let s := (s.modGroup g fun x => { x with head := x.head + n })
          ({ s with buf := { s.buf with headUse := s.buf.headUse + n } },
           { Charges.start f (fld (s.qcfg q) 0 2) (some g) with headCells := n })
        else
          let y := s.chargePool f q n (some g)
          (y.1.xoff g, y.2)
    ({ d with st := x.1 } : Deciding).grant f q n x.2 (p == .marked true)

/-- A port's flush still holds copies (10_buffer R255). -/
def State.inFlush (s : State) (lp : Nat) : Bool :=
  (s.egr lp).flushing && (List.range 16).any fun k => !(s.queue (16 * lp + k)).entries.isEmpty

/-- The checks of Table 10.2 on a target, in their order; the generator goes on with every target decision (10_buffer R256, R265). -/
def Deciding.target (f : Frame) (n : Nat) (d : Deciding) (q : Nat) : Deciding :=
  let x := d.st.profileTest f q
  let s := x.1
  let d := { d with st := s }
  if !s.isUp (q / 16) ∨ s.inFlush (q / 16) then d.refuse q 1
  else if f.source = .port ∧ (s.req f.requester).quota ≤ (s.req f.requester).charge then d.refuse q 3
  else if 2097152 ≤ s.buf.entriesUsed then d.refuse q 4
  else
    match s.groupOf f (q % 16) with
    | some g => d.lossless f q n g x.2
    | none => d.lossy f q n x.2

/-! ### Late checks (04_line R104, R105; 06_templates R163; 10_buffer R272) -/

/-- The late length check fails. -/
def lateLengthFails (f : Frame) : Bool :=
  f.cw.lengthLate && (if f.cw.lengthMode then decide (f.len - 4 < f.cw.lengthExpect) else f.cw.lengthExpect != f.len - 4)

/-- The sum that completes the L4 check of a long frame: an odd start of the segment exchanges the octets of the tail sum. -/
def lateL4Sum (f : Frame) : Nat :=
  let tail := fold16 (sum16 (f.data.drop 256))
  fold16 (f.cw.l4HeadSum + (if f.l4Off % 2 = 1 then swap16 tail else tail))

/-- The late checks of a long frame whose last cell is stored, counted: the length in the pipeline `p` of its pass; the frame with their
outcome. The check's action is that of its port at the frame's start (04_line R99). -/
def State.lateChecks (s : State) (p : Nat) (f : Frame) : State × Frame :=
  let len := lateLengthFails f
  let s := if len then s.tick 0x14 p else s
  let l4 := f.cw.l4Csum == 3
  if l4 && f.ipEnd != f.len - 4 then (s.stat f.lp.val 0x070, { f with lastIn := true, lateFail := len })
  else
    let bad := l4 && lateL4Sum f != 65535
    let s := if bad then s.stat f.lp.val 0x068 else s
    (s, { f with lastIn := true, lateFail := len || (bad && bitAt f.rxCfg 34) })

/-- A copy of a queue taken out before it is sent, with its drop record (10_buffer R258, R270). -/
def State.dropCopy (s : State) (f : Stored) (q reason : Nat) : State :=
  let s := s.setEntries q ((s.queue q).entries.filter fun e => e.frame != f.id)
  (s.dropCopyRecord f reason q).copyLost f.id q

/-- The store-and-forward copy of a whole frame on a queue is dropped there when it fails a check, before it is scheduled (04_line R106;
10_buffer R272). -/
def State.settleCopy (s : State) (f : Stored) (q : Nat) : State :=
  let lp := q / 16
  let over_ := decide (s.maxFrame lp < f.len)
  if f.lastIn && ((s.queue q).entries.any fun e => e.frame == f.id && !e.cutThrough) && (!f.fcsOk || f.lateFail || over_) then
    let s := s.modEgr lp fun e => { e with lateDrop := e.lateDrop + 1 }
    (if over_ then s.stat lp 0x130 else s).dropCopy f q 9
  else s

/-- Every copy of a stored frame that fails a check is dropped. -/
def State.settleCopies (s : State) (id : Nat) : State :=
  match s.stored? id with
  | none => s
  | some f => (s.buf.queues.map (·.1)).foldl (fun (s : State) q => s.settleCopy f q) s

/-- The copies of a port's queues that a max_frame lowered since makes too long are dropped (04_line R106; 10_buffer R272). -/
def State.settlePort (s : State) (lp : Nat) : State :=
  (List.range 16).foldl (fun (s : State) k =>
    let q := 16 * lp + k
    (s.queue q).entries.foldl (fun (s : State) e =>
      match s.stored? e.frame with | some f => s.settleCopy f q | none => s) s) s

/-- A stored frame is whole: its length is known, its late checks are made, and copies that fail are dropped. -/
def State.wholeFrame (s : State) (f : Frame) : State :=
  match s.stored? f.id with
  | none => s
  | some g =>
    let x := s.lateChecks g.pipe f
    (x.1.modStored f.id fun g => { g with lastIn := true, lenKnown := true, fcsOk := f.fcsOk, len := f.len, lateFail := x.2.lateFail }).settleCopies
      f.id

/-! ### The decision of a frame -/

/-- The revocation that a frame with seen bits set asks for when it is freed (09_feeds R243). -/
def State.askRevoke (s : State) (f : Frame) : State :=
  match f.feed with
  | some (n, first, k, e) =>
    if k = 0 then s else { s with arb := { s.arb with revs := s.arb.revs ++ [{ feed := n, first := first, count := k, epoch := e }] } }
  | none => s

/-- CRC-32C of the received head bytes, FCS excluded (13_cabinet Table 13.2). -/
def Frame.headCrc (f : Frame) : BitVec 32 := crc32c (f.data.take 256)

/-- The drop records of a frame's refused targets, and mc_partial_drop when others were admitted (10_buffer R258, R269). -/
def State.refusals (s : State) (f : Frame) (bad : List (Nat × Nat)) (part : Bool) : State :=
  bad.foldl (fun (s : State) x =>
    let s := if part then s.modEgr (x.1 / 16) fun e => { e with mcPartialDrop := e.mcPartialDrop + 1 } else s
    s.dropRecord f.id f.cw f.source f.lp.val f.tsIn f.pass2 (if f.lastIn then f.len else 0) f.headCrc x.2 (x.1 / 16) (x.1 % 16)) s

/-- What the buffer island keeps of an admitted frame. -/
def Frame.store (f : Frame) (pipe : Nat) (c : Charges) : Stored :=
  { id := f.id, first := f.cells.headD 0, cells := f.cells.length, len := f.len, lenKnown := f.lastIn || f.source != .port,
    source := f.source, lp := f.lp, tsIn := f.tsIn, resIn := f.resIn, slotWait := f.slotWait, pass2 := f.pass2, fcsOk := f.fcsOk,
    lastIn := f.lastIn, lateFail := f.lateFail, cw := f.cw, inj := f.inj, charges := c, feed := f.feed, sentGood := false,
    headCrc := f.headCrc, l3Off := f.l3Off, l4Off := f.l4Off, ipEnd := f.ipEnd, pipe := pipe }

/-- An admitted frame's cells leave the arrival reserve, or the hold of their allocation; its reference count is its number of copies
(10_buffer R251, R257, R268; 11_pool R283, R285). -/
def State.adopt (s : State) (f : Frame) (copies : Nat) : State :=
  let s := { s with pool := { s.pool with refs := tset 0 s.pool.refs (f.cells.headD 0) copies } }
  if f.source = .port then s.outOfReserve f.cells else s.endHold (f.cells.headD 0)

/-- The decision of a frame (10_buffer R256 to R269): its targets, its charges, and what the buffer island keeps of it. `cycle` is the
buffer cycle of its hand-off; the arbiter and admission stage has 16 (02_timetable Table 2.5). -/
def State.admitFrame (s : State) (pipe cycle : Nat) (f : Frame) : State :=
  let ts := s.targets f
  if ts.isEmpty then
    let s := (s.tick 0x88).dropRecord f.id f.cw f.source f.lp.val f.tsIn f.pass2 (if f.lastIn then f.len else 0) f.headCrc 2 0
      (fld (s.work 0x11 f.cw.dest) 512 4)
    (s.tagEnd f 1 2).askRevoke f
  else
    let d := ts.foldl (Deciding.target f f.cells.length)
      { st := s, leaves := (cycle + 16) * 800, charged := none, bad := [] }
    let s := d.st.refusals f d.bad d.charged.isSome
    match d.charged with
    | some c =>
      let s := (s.tagEnd f 0 0).adopt f (ts.length - d.bad.length)
      let s := { s with buf := { s.buf with stored := s.buf.stored ++ [f.store pipe c] } }
      (ts.filter fun q => !d.bad.any (·.1 == q)).foldl (fun (s : State) q => s.checkBlock q) s
    | none => (s.tagEnd f 1 ((d.bad.head?.map (·.2)).getD 0)).askRevoke f

/-- What follows every decision of a buffer cycle (10_buffer R257): a frame refused on every target is freed, and one that is whole has its
checks made. -/
def State.decided (s : State) (f : Frame) : State :=
  if (s.stored? f.id).isNone then (s.bodyDrop f).forgetFrame f.id
  else if f.lastIn then s.wholeFrame f
  else s

/-- Heads that leave the arbiter's stage in one buffer cycle, in their order: each decision sees the counters as the ones before it left
them, and cells freed are credited behind the last (10_buffer R253, R257). -/
def State.grantCycle (s : State) (hs : List StageHead) : State :=
  hs.foldl (fun (s : State) h => s.decided h.frame) (hs.foldl (fun (s : State) h => s.admitFrame h.pipe h.cycle h.frame) s)

end Sys2Proof.Machine
end

