-- ==== Sys2Proof/Machine/Handoff.lean ====
section
/-!
DEFINITION. The hand-off of heads to the buffer island, the feed arbiter's decisions, retransmission requests, and the cells of long
frames as they arrive (02_timetable R44; 06_templates R163, R173, R176; 09_feeds R233 to R236; 10_buffer R251; 13_cabinet R334).
-/

namespace Sys2Proof.Machine

/-! ### Cells -/

/-- A cell of a port's frame taken from a bank and charged to the arrival reserve (10_buffer R251). -/
def State.reserveCell (s : State) (bank : Nat) : Option Nat × State :=
  match s.takeCell bank with
  | (some c, s) => (some c, (s.intoReserve c).tick 0x8A)
  | (none, s) => (none, s)

/-- The bank in which a stream writes its next cell: that of its next window, among those with a free cell (02_timetable R44, R57; 11_pool
R280); without windows the banks in rotation (log entry 111). -/
def State.arrivalBank (s : State) (windows : List Nat) : Nat :=
  ((windows ++ rotated s.pool.rot).find? fun b => decide (0 < (s.bank b).free)).getD 0

/-- The bytes that a frame puts into its cell `k`, the head's being 0: with the FCS behind its last byte. -/
def Frame.cellData (f : Frame) (k : Nat) : List Byte := ((f.data ++ bytesLe 4 f.fcs.toNat).drop (256 * k)).take 256

/-- Cells of a frame. -/
def Frame.cellCount (f : Frame) : Nat := ceilDiv f.len 256

/-- The frame whose body is arriving, changed. -/
def State.modBody (s : State) (id : Nat) (g : Frame → Frame) : State :=
  { s with flow := { s.flow with body := s.flow.body.map fun b => if b.id = id then g b else b } }

/-- The frame whose body was arriving has nothing more to come. -/
def State.bodyOver (s : State) (id : Nat) : State :=
  { s with flow := { s.flow with body := s.flow.body.filter fun b => b.id != id } }

/-- The head cell of a frame from a port written at its hand-off, before its body cells, in the next window of its hand-off stream
(02_timetable R44, R57; 10_buffer R251). A long frame's body entry becomes the whole frame. -/
def State.storeHead (s : State) (stream cycle : Nat) (f : Frame) : State × Frame :=
  if f.source ≠ .port then (s, f)
  else
    let bank := s.arrivalBank (s.streamBanks (cycle % 512) 1 stream)
    let x := ({ s with pool := { s.pool with rot := (bank + 1) % 64 } } : State).reserveCell bank
    let s := x.2
    let b := s.flow.body.find? fun b => b.id == f.id
    let cells := match b with | some b => b.cells | none => []
    let lastIn := match b with | some b => b.lastIn | none => f.lastIn
    let s := match x.1 with
      | some c => s.putCell c (f.cellData 0) (cells.headD 0) (!f.long)
      | none => s
    let f := { f with cells := x.1.toList ++ cells, lastIn := lastIn, owner := s.ownerOf f.lp.val }
    (if lastIn then s.bodyOver f.id else s.modBody f.id fun _ => f, f)

/-! ### Retransmission requests (13_cabinet R334) -/

/-- A frame whose decision is to forward is a retransmission request. -/
def State.isRequest (s : State) (f : Frame) : Bool :=
  f.source == .port && !f.cw.feedMark &&
    (List.range 16).any fun i => bitAt (s.work reqCode i) 8 && fld (s.work reqCode i) 0 8 == f.cw.templateId

/-- The request that a carriage word holds (13_cabinet R335). -/
def requestOf (p : Nat) (cw : CarriageWord) : ReplayReq :=
  { pipe := p, tmpl := cw.templateId, l3 := cw.l3Type, feed := cw.feedId, m0 := BitVec.ofNat 64 (fld cw.fields 0 64),
    count := max 1 (fld cw.fields 64 16), udp := BitVec.ofNat 16 (fld cw.fields 80 16), mac := BitVec.ofNat 48 (fld cw.fields 96 48),
    ip := if cw.l3Type = 1 then fld cw.fields 144 32 else fld cw.fields 144 128, done := 0 }

/-- A request enters the replay server's queue, or is dropped on a full one or under containment (13_cabinet R334; 20_faults Table
20.1, line 12); the frame's cells are freed. -/
def State.takeRequest (s : State) (p : Nat) (f : Frame) : State :=
  let s := if 256 ≤ s.cab.replayQ.length ∨ !(s.line 12).contained.isEmpty then s.tick 0x93
    else { s with cab := { s.cab with replayQ := s.cab.replayQ ++ [requestOf p f.cw] } }
  s.bodyDrop f

/-! ### The hand-off -/

/-- A slow-path frame is whole, or waits for its last cell (06_templates R173; 17_host R429); one that was injected is not
transmitted, and its report says so. -/
def State.slowPath (s : State) (p : Nat) (f : Frame) : State :=
  let s := (s.tagEnd f 2 0).reportDropped f.inj
  if f.lastIn then
    let x := s.lateChecks p f
    x.1.slowArrive p x.2
  else { s with flow := { s.flow with slow := s.flow.slow ++ [f] } }

/-- A frame that the arbiter discards (01_structure R18). -/
def State.feedDiscard (s : State) (f : Frame) : State := (s.tagEnd f 1 0).bodyDrop f

/-- A head enters the arbiter's stage. -/
def State.enterStage (s : State) (h : StageHead) : State := { s with flow := { s.flow with arb := s.flow.arb ++ [h] } }

/-- A feed frame takes its decision window, or is over rate (09_feeds R235, R236). -/
def State.feedFrame (s : State) (p cycle : Nat) (f : Frame) : State :=
  match s.takeWindow p cycle with
  | some w =>
    ({ s with arb := { s.arb with lastWin := tset 0 s.arb.lastWin p (w + 1) } } : State).enterStage
      { pipe := p, cycle := cycle, window := some w, frame := f, decided := false }
  | none =>
    let a := s.feedOverRate f.cw.feedId
    if a.pass then a.st.enterStage { pipe := p, cycle := cycle, window := none, frame := f, decided := true } else a.st.feedDiscard f

/-- A head's carriage word reaches the buffer island (06_templates R173, R176; 09_feeds R233; 13_cabinet R334). Every frame but those that go
another way passes the arbiter's stage. -/
def State.decideHead (s : State) (p stream cycle : Nat) (parityBad : Bool) (f : Frame) : State :=
  if parityBad then (((s.tick 0x19 p).occur 4 (BitVec.ofNat 13 p)).tagEnd f 3 0).bodyDrop f
  else if f.cw.drop then (s.tagEnd f 3 0).bodyDrop f
  else
    let x := s.storeHead stream cycle f
    if x.2.cw.slowPath then x.1.slowPath p x.2
    else if x.1.isRequest x.2 then x.1.takeRequest p x.2
    else if x.2.cw.feedMark then x.1.feedFrame p cycle x.2
    else x.1.enterStage { pipe := p, cycle := cycle, window := none, frame := x.2, decided := true }

/-! ### The arbiter's stage (09_feeds R233, R235, R238; 10_buffer R253, R257) -/

/-- A frame with the body cells that have come since its hand-off. -/
def State.withBody (s : State) (f : Frame) : Frame :=
  match s.flow.body.find? fun b => b.id == f.id with | some b => { f with cells := b.cells } | none => f

/-- A head of the stage changed, or taken out. -/
def State.modStage (s : State) (id : Nat) (g : StageHead → Option StageHead) : State :=
  { s with flow := { s.flow with arb := s.flow.arb.filterMap fun h => if h.frame.id = id then g h else some h } }

/-- A frame that waits for its decision window is decided in it. -/
def State.decideFeed (s : State) (h : StageHead) : State :=
  let f := s.withBody h.frame
  let n := f.cw.feedId
  let k := feedCount (s.feedCfg n) f.cw.fields
  let a := s.feedDecide n f.cw.fields
  let g := { f with feed := some (n, BitVec.ofNat 64 (f.cw.fields % 2 ^ 64), if a.accepted then k else 0, (a.st.feed n).epoch) }
  if a.pass then (a.st.modBody f.id fun b => { b with feed := g.feed }).modStage f.id fun h => some { h with frame := g, decided := true }
  else (a.st.modStage f.id fun _ => none).feedDiscard f

/-- The number of the decision window that a head of the stage waits for. -/
def StageHead.index (h : StageHead) : Option Nat :=
  if h.decided then none else h.window.map (feedWindowIndex h.pipe)

/-- Every decision window before a number is over: its frame is decided, in the order of the windows (09_feeds R233). -/
def State.decideUpTo (s : State) (limit : Nat) : State :=
  let due := (s.flow.arb.filterMap StageHead.index).filter fun i => decide (i < limit)
  (due.insertionSort (· ≤ ·)).foldl (fun (s : State) i =>
    match s.flow.arb.find? fun h => h.index == some i with
    | some h => s.decideFeed h
    | none => s) s

/-- The heads at the front of the stage leave it, those of one buffer cycle together, up to the first cycle with a head that still waits for
its window: no head overtakes another (09_feeds R235; 10_buffer R253). -/
def State.leaveStage (s : State) : State :=
  let groups := (s.flow.arb.splitBy fun a b => a.cycle == b.cycle).takeWhile fun g => g.all (·.decided)
  let s := { s with flow := { s.flow with arb := s.flow.arb.drop groups.flatten.length } }
  groups.foldl (fun (s : State) g => s.grantCycle (g.map fun h => { h with frame := s.withBody h.frame })) s

/-- The decision windows up to the one that the oldest waiting frame of a pipeline has taken come, when that one lies in the round in force
or before it. -/
def State.feedDecision (s : State) (p : Nat) : State :=
  match s.flow.arb.find? fun h => h.pipe == p && h.index.isSome with
  | none => s
  | some h =>
    let i := h.index.getD 0
    if s.tt.round.toNat < i / 1024 then s
    else ((s.at_ (bufferAt8 (i / 2 - s.tt.round.toNat * 512))).decideUpTo (i + 1)).leaveStage
/-- `FEED_DECISION`. -/
def execFeedDecision (pipe : Fin 16) (s : State) : Ans := .next (s.feedDecision pipe.val)

/-! ### The hand-offs of a buffer cycle (02_timetable R44; 10_buffer R253) -/

/-- The hand-off stream of a head in a pass: 6p + 2k + l for pipeline p, class k and lane l (02_timetable R57). -/
def handStream (x : Nat × Nat × Frame) : Nat := 6 * x.1 + 2 * x.2.2.depth + x.2.1 % 2

/-- The heads that have left their pipelines by the end of a buffer cycle, in the order of R253: by pipeline cycle, then by stream. -/
def State.handed (s : State) (abs : Nat) : List (Nat × Nat × Frame) :=
  let out := s.flow.inPass.filter fun x => x.2.2.work.isNone && !x.2.2.recirculates && decide (passEnd x.2.1 x.2.2 ≤ 2 * abs + 1)
  let key (x : Nat × Nat × Frame) : Nat := passEnd x.2.1 x.2.2 * 96 + handStream x
  out.insertionSort fun a b => key a ≤ key b

/-- A buffer cycle's hand-offs: every pass that has ended is completed, the decision windows before the cycle are over, and the heads that
have left their pipelines come to the buffer island in their order. `parityBad` names the streams whose head of this cycle has a carriage
word with bad parity (06_templates R176). -/
def State.handOff (s : State) (cycle : Nat) (parityBad : List Nat) : State :=
  let s := s.at_ (bufferAt8 cycle)
  let abs := s.tt.round.toNat * 512 + cycle
  let s := (List.range 16).foldl (fun (s : State) p => s.settlePasses p (2 * abs + 1)) s
  let s := (s.decideUpTo (2 * abs)).leaveStage
  let hs := s.handed abs
  let s := { s with flow := { s.flow with inPass := s.flow.inPass.filter fun x => !hs.any fun y => y.2.2.id == x.2.2.id } }
  let s := hs.foldl (fun (s : State) x =>
    let c := passEnd x.2.1 x.2.2 / 2
    let bad := c == abs && parityBad.contains (handStream x)
    (s.slotCount x.1 0).decideHead x.1 (handStream x) c bad x.2.2) s
  s.leaveStage
/-- `HEAD_HANDOFF`. -/
def execHeadHandoff (cycle : Fin 512) (parityBad : List (Fin 96)) (s : State) : Ans :=
  .next (s.handOff cycle.val (parityBad.map (·.val)))

/-! ### Body cells (10_buffer R251; 04_line R105; 06_templates R163) -/

/-- Body cells of a frame written so far; the head cell of a frame handed off stands before them. -/
def Frame.bodyCells (f : Frame) : Nat := if f.gen.isSome then f.cells.length - 1 else f.cells.length

/-- Queues that hold a copy of a frame, linked or on their port's wire. -/
def State.holders (s : State) (id : Nat) : List Nat :=
  ((s.buf.queues.filter fun x => x.2.entries.any fun e => e.frame == id).map (·.1)) ++
    s.buf.egress.flatMap fun x => (x.2.wire.filter fun w => w.frame == id).map (·.queue)

/-- A later cell of an admitted frame charged to the accounts that its entries record, even when they are full (10_buffer R251,
R257). -/
def State.chargeCell (s : State) (f : Stored) : State :=
  let c := f.charges
  let min1 := !f.cw.destIsGroup && decide (c.headCells = 0) && decide ((s.queue c.minQueue).occ < s.minOf c.minQueue)
  let head := decide (0 < c.headCells)
  let pool := !head && !min1
  let s := (s.holders f.id).foldl (fun (s : State) q => s.modQueue q fun x => { x with occ := x.occ + 1 }) s
  let s := { s with buf := { s.buf with
    headUse := s.buf.headUse + b1 head
    poolUse := tmod 0 s.buf.poolUse c.pool.val (· + b1 pool) } }
  let s := match c.group with
    | some g => s.modGroup g fun x => { x with shared := x.shared + b1 pool, head := x.head + b1 head }
    | none => s
  (s.charge c.requester 1).modStored f.id fun x =>
    { x with
      cells := x.cells + 1
      charges := { c with poolCells := c.poolCells + b1 pool, minCells := c.minCells + b1 min1, headCells := c.headCells + b1 head,
                          sharedCells := c.sharedCells + b1 (pool && c.group.isSome) } }

/-- A body cell of a frame written into a bank: linked behind the cell before it, and charged to the arrival reserve, or to the
accounts of a frame already admitted; none when the bank has no free cell: the cell waits for a later window. -/
def State.writeBody (s : State) (f : Frame) (bank : Nat) : Option State :=
  let k := f.bodyCells + 1
  let x := match s.stored? f.id with
    | some g => let y := s.takeCell bank; (y.1, y.2.chargeCell g)
    | none => s.reserveCell bank
  x.1.map fun c =>
    let s := x.2.putCell c (f.cellData k) 0 (decide (f.cellCount ≤ k + 1))
    let s := match f.cells.getLast? with | some b => s.linkCell b c | none => s
    s.modBody f.id fun b => { b with cells := b.cells ++ [c] }

/-- The frame of a port whose body is arriving. -/
def State.arriving (s : State) (lp : Nat) : Option Frame := s.flow.body.find? fun b => b.lp.val == lp && !b.lastIn

/-- A body cell other than the last arrives, in a body-write window of its port (02_timetable R44, R57, type 2). -/
def State.bodyCell (s : State) (lp cycle bank : Nat) : State :=
  let s := s.at_ (bufferAt8 cycle)
  match s.arriving lp with
  | some f =>
    if !f.refused ∧ f.bodyCells + 2 < f.cellCount ∧ s.windowOk cycle bank 2 lp then (s.writeBody f bank).getD s else s
  | none => s
/-- `BODY_CELL_WRITE`. -/
def execBodyCellWrite (lp : Fin 512) (cycle : Fin 512) (bank : Fin 64) (s : State) : Ans :=
  .next (s.bodyCell lp.val cycle.val bank.val)

/-- A learning candidate that waited for its frame's FCS has it (08_tables R214). -/
def State.resolveCandidates (s : State) (f : Frame) : State :=
  (List.range 4).foldl (fun (s : State) q => s.modQuad q fun u =>
    { u with lqueue := u.lqueue.map fun c => if c.frame = some f.id then { c with fcsOk := some f.fcsOk } else c }) s

/-- The last cell of a frame is stored: the checks that waited for it are made (04_line R105; 06_templates R163; 10_buffer R272). -/
def State.lastStored (s : State) (f : Frame) : State :=
  let g := { ((s.flow.body.find? fun b => b.id == f.id).getD f) with lastIn := true }
  if (s.stored? f.id).isSome then (s.bodyOver f.id).wholeFrame g
  else if s.flow.slow.any fun x => x.id == f.id then
    let s := ({ s with flow := { s.flow with slow := s.flow.slow.filter fun x => x.id != f.id } } : State).bodyOver f.id
    let x := s.lateChecks (pipeOf f.lp.val) g
    x.1.slowArrive (pipeOf f.lp.val) x.2
  else if f.gen.isSome then (s.bodyOver f.id).modStage f.id fun h => some { h with frame := { g with feed := h.frame.feed } }
  else s.modBody f.id fun _ => g

/-- The last cell of a frame arrives behind every other, in a body-write window of its port (10_buffer R251; 02_timetable R44). A frame that
has been refused has no cell written. -/
def State.lastCell (s : State) (lp cycle bank : Nat) : State :=
  let s := s.at_ (bufferAt8 cycle)
  match s.arriving lp with
  | none => s
  | some f =>
    if f.refused then (s.resolveCandidates f).bodyOver f.id
    else if f.cellCount ≤ f.bodyCells + 2 ∧ s.windowOk cycle bank 2 lp then
      match s.writeBody f bank with
      | some u => (u.resolveCandidates f).lastStored f
      | none => s
    else s
/-- `LAST_CELL_ARRIVAL`. -/
def execLastCellArrival (lp : Fin 512) (cycle : Fin 512) (bank : Fin 64) (s : State) : Ans :=
  .next (s.lastCell lp.val cycle.val bank.val)

end Sys2Proof.Machine
end

