-- ==== Sys2Proof/Machine/Egress.lean ====
section
/-!
DEFINITION. Copies on their way out: the pick of a port, the end of a copy on the wire, captures, the flush of a port that is not UP,
and the cell pool's own work (12_egress R294 to R302; 13_cabinet R323, R332; 10_buffer R255, R270, R273; 11_pool R279, R283, R287).
-/

namespace Sys2Proof.Machine

/-! ### The pick (12_egress R294 to R302) -/

/-- A picked copy of an evidence class under DROP_UNRECORDED must hold a staging entry: the drawer in which it does, or none when it
may not be sent (13_cabinet R323). A copy that needs no entry answers nothing. -/
def State.holdEntry (s : State) (f : Stored) : Option (Option Nat) :=
  let c := s.evClass f.cw.evidenceClass
  match c.drawer with
  | some d =>
    if f.cw.evidenceMark && c.dropUnrec then (if s.canHold d then some (some d) else none) else some none
  | none => some none

/-- A copy discarded at its pick for want of a staging entry (13_cabinet R323). -/
def State.unrecordedDrop (s : State) (f : Stored) (q : Nat) : State :=
  let s := { s with cab := { s.cab with unrecorded := s.cab.unrecorded + 1 } }
  (s.classLoss f.cw.evidenceClass f.tsIn true).copyLost f.id q

/-- A store-and-forward copy with a bad cell is dropped in the launch store (10_buffer R273). -/
def State.cellDrop (s : State) (f : Stored) (q : Nat) : State :=
  ((s.modEgr (q / 16) fun e => { e with lateDrop := e.lateDrop + 1 }).dropCopyRecord f 0x0A q).copyLost f.id q

/-- A copy is picked for the wire: the scheduler's charges, and the instant of its first bit, which the launch may bring forward from the
predicted one by as much as the determinism window and never before the frame ahead of it ends (02_timetable R49; 12_egress R295, R298, R301,
R307). -/
def State.launch (s : State) (lp q : Nat) (e : QEntry) (f : Stored) (bad : Bool) (held : Option Nat) : State :=
  let first := s.firstBit lp e f
  let early := Config.choice s.freeCtr % (windowPs (s.modeOf lp) + 1)
  let w : TxFrame :=
    { frame := f.id, queue := q, stomp := bad, start := max (first - early) (s.wireFree lp), t0 := s.devTimeAt first, stamped := false,
      ts := 0, res := 0, free := s.freeCtr + 1, estimate := s.lineBytes lp f - 20, onDeficit := !(s.queue q).entries.isEmpty,
      onQueue := shaperOn (s.schedQ q), onPort := portShaperOn (s.schedP lp), maxFrame := s.maxFrame lp, cutThrough := e.cutThrough,
      ecnMark := e.ecnMark, heldIn := held }
  let s := { s with freeCtr := s.freeCtr + 2 }
  let s := match held with
    | some d => { s with cab := { s.cab with held := tmod 0 s.cab.held d (· + 1) } }
    | none => s
  ((s.modQueue q fun x => { x with txStarted := x.txStarted + 1 }).chargeStart q (s.lineBytes lp f)).modEgr lp fun e =>
    { e with wire := e.wire ++ [w] }

/-- What becomes of the first copy of the queue picked. -/
def State.startCopy (s : State) (lp q : Nat) (cellBad : Bool) : State :=
  match s.firstCopy q with
  | none => s
  | some (e, f) =>
    let s := s.unlinkFirst q
    match s.holdEntry f with
    | none => s.unrecordedDrop f q
    | some held =>
      let s := if cellBad then (s.tick 0x89).occur 6 (BitVec.ofNat 13 (f.first % 64)) else s
      if cellBad && !e.cutThrough then s.cellDrop f q else s.launch lp q e f cellBad held

/-- The next pick of a port (12_egress R295, R296, R299): behind the PAUSE and PFC frames called for, and once the frames that became too
long for the port are dropped (04_line R106, R114; 10_buffer R272). -/
def State.pick (s : State) (lp : Nat) (cellBad : Bool) : State :=
  if !s.isUp lp || s.flt.safe || s.boot.warmLow || s.inFlush lp then s
  else
    let s := (s.sendPauses lp).settlePort lp
    if !s.mayPick lp then s
    else
      let s := (s.markBlocked lp).countWaits lp
      match s.pickClass lp with
      | (s, some k) => s.startCopy lp (16 * lp + k) cellBad
      | (s, none) => s
/-- `SCHEDULER_PICK`. -/
def execSchedulerPick (lp : Fin 512) (cellBad : Bool) (at8 : Fin 3277) (s : State) : Ans :=
  .next ((s.at_ at8.val).pick lp.val cellBad)

/-! ### The end on the wire -/

/-- The first of a port's picked frames ends (04_line R106, R107; 12_egress R298; 13_cabinet R320, R332): at the end of its line time, and a
cut-through copy only after its last cell has come. The island of a port that completed it on its way down follows (04_line R99, R116). -/
def State.transmitEnd (s : State) (lp : Nat) : State :=
  match (s.egr lp).wire with
  | [] => s
  | w :: _ =>
    match s.stored? w.frame with
    | none => s.finishTx lp
    | some f =>
      if !f.lastIn ∨ !s.due (s.lineEnd lp w) then s
      else
        let s := ((s.reach (s.lineEnd lp w)).finishTx lp).addBack w ((w.estimate : Int) - (w.sentLen f : Nat))
        if s.isUp lp then s else s.settleIsland (macroOf lp)
/-- `TRANSMIT_END`. -/
def execTransmitEnd (lp : Fin 512) (at8 : Fin 3277) (s : State) : Ans := .next ((s.at_ at8.val).transmitEnd lp.val)

/-! ### The flush of a port (10_buffer R255) -/

/-- One entry of a port that left UP unlinked, in an egress read window of the port (02_timetable R57, type 3): the first of its lowest queue
that holds one; the flush is over with the last. -/
def State.flushOne (s : State) (lp cycle bank : Nat) : State :=
  let s := s.at_ (bufferAt8 cycle)
  if !(s.egr lp).flushing ∨ !s.windowOk cycle bank 3 lp then s
  else
    let over_ (s : State) : State := s.modEgr lp fun e =>
      { e with flushing := e.flushing && (List.range 16).any fun k => !(s.queue (16 * lp + k)).entries.isEmpty }
    match (List.range 16).find? fun k => !(s.queue (16 * lp + k)).entries.isEmpty with
    | none => over_ s
    | some k =>
      let q := 16 * lp + k
      match s.firstCopy q with
      | none => over_ (s.unlinkFirst q)
      | some (_, f) =>
        let s := (s.unlinkFirst q).modEgr lp fun e => { e with flushDrop := e.flushDrop + 1 }
        over_ ((s.dropCopyRecord f 8 q).copyLost f.id q)
/-- `QUEUE_FLUSH_UNLINK`. -/
def execQueueFlushUnlink (lp : Fin 512) (cycle : Fin 512) (bank : Fin 64) (s : State) : Ans :=
  .next (s.flushOne lp.val cycle.val bank.val)

/-! ### The cell pool (11_pool R279, R283, R287) -/

/-- The oldest chain whose count has reached zero is walked in the link table, and its cells return to their banks' caches. -/
def State.walkOne (s : State) : State :=
  match s.pool.walks with
  | [] => s
  | (c, n) :: rest =>
    (chainCells s.buf.links n c).foldl (fun (s : State) c => s.returnCell c) { s with pool := { s.pool with walks := rest } }
/-- `CHAIN_FREE_WALK`. -/
def execChainFreeWalk (s : State) : Ans := .next s.walkOne

/-- A pool service window of a bank (02_timetable R57, type 5; 11_pool R279): nothing in a window that is not one. -/
def State.poolService (s : State) (cycle bank : Nat) : State :=
  let s := s.at_ (bufferAt8 cycle)
  if s.windowOk cycle bank 5 bank then s.poolWindow bank else s
/-- `POOL_SERVICE`. -/
def execPoolService (cycle : Fin 512) (bank : Fin 64) (s : State) : Ans := .next (s.poolService cycle.val bank.val)

/-- An allocating engine's request granted or refused (11_pool R283). -/
def State.poolAllocate (s : State) (req n : Nat) : State := if s.mayAllocate req n then (s.allocate req n).2 else s.refuseAllocation req
/-- `POOL_ALLOCATE`. -/
def execPoolAllocate (req : Fin 65) (cells : Nat) (s : State) : Ans := .next (s.poolAllocate req.val cells)

end Sys2Proof.Machine
end

