-- ==== Sys2Proof/Machine/Pair.lean ====
section
/-!
DEFINITION. The Dovetail link and its messages (19_pair R459 to R479; 03_islands R85; 21_counters R508): the rows LINK_UNIT_RECEIVE,
LINK_ACK, DOVETAIL_LINK_DOWN, DOVETAIL_LINK_UP, REPLY_MESSAGE, TIME_MESSAGE, TIME_MESSAGE_SEND, STEP_MESSAGE, FEED_MESSAGE,
STATE_MESSAGE, DIGEST_MESSAGE, DIGEST_SEND, PULL_REQ, PULL_DATA, TOKEN_MESSAGE, SAFE_MESSAGE, PEER_FAULT_ASSERT and
LINK_LOSS_HOLD_EXPIRY. Messages come and go whole; what units carry them is the link's own work (log entry 39).
-/

namespace Sys2Proof.Machine

/-! ### Link units (19_pair R459, R460) -/

/-- A link unit's crc holds (19_pair Table 19.1). -/
def unitCrcOk (u : BitVec 512) : Bool :=
  BitVec.ofNat 32 (u.toNat / 2 ^ 480) == crc32c (bytesLe 60 (u.toNat % 2 ^ 480))

/-- A resend request or an acknowledgement of the peer (19_pair R460): sixteen requests with no acknowledgement between them stand
in succession (log entry 39). -/
def State.linkPayload (s : State) (u : Nat) : State :=
  match Config.linkPayload (fld u 64 416) with
  | some q =>
    (s.modMirror fun m => { m with resends := m.resends + 1, resendRun := m.resendRun + 1 }).emit (.link 1 [2, q])
  | none => s.modMirror fun m => { m with resendRun := 0 }

/-- A unit arrives (19_pair R460): one that fails its CRC or is out of sequence brings a resend request, and what follows is
discarded until the requested unit arrives. -/
def State.linkUnit (s : State) (u : BitVec 512) : State :=
  if !s.mirror.linkUp then s
  else if unitCrcOk u ∧ fld u.toNat 16 48 = s.mirror.rxSeq.toNat then
    let s := s.heardNow
    let s := s.modMirror fun m => { m with rxSeq := m.rxSeq + 1, rxWaiting := false }
    if fld u.toNat 0 8 = 1 then s.linkPayload u.toNat else s
  else if s.mirror.rxWaiting then s
  else (s.modMirror fun m => { m with rxWaiting := true }).emit (.link 1 [1, s.mirror.rxSeq.toNat])
/-- `LINK_UNIT_RECEIVE`. -/
def execLinkUnitReceive (unit : BitVec 512) (s : State) : Ans := .next (s.linkUnit unit)

/-- The acknowledgement of a round: the highest link_seq received in order, once (19_pair R460). -/
def State.linkAck (s : State) : State :=
  if s.mirror.linkUp ∧ s.mirror.ackRound ≠ some s.tt.round then
    (s.modMirror fun m => { m with ackRound := some s.tt.round }).emit (.link 1 [0, (s.mirror.rxSeq - 1).toNat])
  else s
/-- `LINK_ACK`. -/
def execLinkAck (s : State) : Ans := .next s.linkAck

/-- The link goes down by one of the causes of R460: 2 µs have passed without a unit that passes its check, lock is lost, or sixteen resend
requests have come in succession; or it is disabled, with link_enable clear (R462). -/
def State.linkDownBy (s : State) (c : LinkDownCause) : State :=
  match c with
  | .silence => if s.due (s.mirror.heard + 2 * usPs) then (s.reach (s.mirror.heard + 2 * usPs)).linkGoDown else s
  | .lockLoss => s.linkGoDown
  | .resends => if 16 ≤ s.mirror.resendRun then s.linkGoDown else s
  | .disabled => if s.mirror.linkEnable then s else s.linkGoDown
/-- `DOVETAIL_LINK_DOWN`. -/
def execDovetailLinkDown (cause : LinkDownCause) (s : State) : Ans := .next (s.linkDownBy cause)

/-- The link comes up with its traversal measured (19_pair R461): beyond 1,000 ns it goes down again with its event. -/
def State.linkComesUp (s : State) (dPs : Nat) : State :=
  if s.mirror.linkUp ∨ !s.mirror.linkEnable ∨ s.boot.phase < 4 ∨ s.boot.failed then s
  else if 1000000 < dPs then (s.modMirror fun m => { m with dPs := dPs, downEvents := m.downEvents + 1 }).raise 1316
  else
    s.modMirror fun m =>
      { m with linkUp := true, downAt := none, dPs := dPs, rxSeq := 0, rxWaiting := false, resendRun := 0, peer := none,
               heard := s.nowPs, ackRound := none, timeRound := none, digestAt := [] }
/-- `DOVETAIL_LINK_UP`. -/
def execDovetailLinkUp (dPs : Nat) (s : State) : Ans := .next (s.linkComesUp dPs)

/-! ### STATE messages and roles (19_pair R463, R464, R477, R478) -/

/-- This device's STATE message (19_pair Table 19.2), sent once per round. -/
def State.sendState (s : State) : State :=
  if s.mirror.linkUp then
    s.emit (.link 7 [match s.mirror.role with | .solo => 0 | .primary => 1 | .standby => 2, s.mirror.pairId.toNat, s.mirror.seq.toNat,
      s.time.stepCount.toNat])
  else s

/-- The peer's STATE message. An event as the pair_id values come to differ (R463); the first message
of a link-up shows two primaries (R478). A peer that
turns from STANDBY to PRIMARY takes the handover of R464: this PRIMARY becomes STANDBY, without a pull, once its mirrored command
in progress is done, and the new PRIMARY compares digests at once. A standby with which the device begins to mirror compares every
region and pulls the feeds (R472, R477). -/
def State.stateMessage (s : State) (role : Role) (pairId : BitVec 128) (seq : BitVec 64) (steps : BitVec 8) : State :=
  if !s.mirror.linkUp then s
  else
    let first := s.mirror.peer.isNone
    let agreed := s.peerAgrees
    let was := s.mirroring
    let handed := s.mirror.role == .primary && was && role == .primary
    let s := s.modMirror fun m =>
      { m with peer := some (role, pairId, seq, steps), handover := m.handover || (handed && !s.flt.safe) }
    let s := if agreed && !s.peerAgrees then s.raise 1315 else s
    let s := if first && s.bothPrimary then (s.modMirror fun m => { m with conflict := true }).raise 1314
      else if s.bothPrimary then s else s.modMirror fun m => { m with conflict := false }
    if s.mirror.role = .primary then
      if s.mirror.handover ∧ role = .primary then (if s.mirror.inProgress.isNone then s.becomeStandby else s)
      else if !was ∧ !first ∧ s.mirroring then s.sendDigests
      else s
    else if s.mirror.role = .standby ∧ s.mirroring then
      if !was ∧ first then s.startPull
      else if s.mirror.cp2Q.isEmpty ∧ s.mirror.seq < seq then (s.modMirror fun m => { m with seq := seq }).compareHeld
      else s
    else s
/-- `STATE_MESSAGE`. -/
def execStateMessage (role : Role) (pairId : BitVec 128) (seq : BitVec 64) (stepCount : BitVec 8) (s : State) : Ans :=
  .next (s.heardNow.stateMessage role pairId seq stepCount)

/-! ### REPLY messages (19_pair R467, R468) -/

/-- A reply of the standby: a refusal is counted with its event, a final reply counted, and the first reply of the command in
progress lets the primary's own go out. -/
def State.replyMessage (s : State) (seq : BitVec 64) (status : Nat) (isFinal : Bool) : State :=
  if !s.mirror.linkUp ∨ s.mirror.role ≠ .primary then s
  else
    let s := if 0x10 ≤ status ∧ status ≠ 0x20 then (s.modMirror fun m => { m with refused := m.refused + 1 }).raise 1317 else s
    let s := if isFinal then s.modMirror fun m => { m with finals := m.finals + 1 } else s
    match s.mirror.inProgress with
    | some c =>
      if c.seq ≠ seq then s
      else
        match c.own with
        | some _ => s.releaseMirrored
        | none => s.modMirror fun m => { m with inProgress := some { c with peerSeen := true } }
    | none => s
/-- `REPLY_MESSAGE`. -/
def execReplyMessage (seq : BitVec 64) (status : BitVec 8) (isFinal : Bool) (s : State) : Ans :=
  .next (s.heardNow.replyMessage seq status.toNat isFinal)

/-! ### Time (19_pair R470, R471) -/

/-- 2^-16 ns in a number of ps. -/
def unitsOfPs (ps : Nat) : Nat := ps * 65536 / 1000

/-- A step of the standby armed for its second round boundary, or added to the one that waits. -/
def State.armMirrored (s : State) (amount : Int) (steps : BitVec 8) : State :=
  let st : PendingStep :=
    match s.time.step with
    | some x => if x.kind = .mirrored then { x with offset := x.offset + amount, b := some (s.tt.round + 2) } else x
    | none =>
      { kind := .mirrored, newTime := 0, trigger := 0, offset := amount, fromRes := none, execRes := s.resTime,
        b := some (s.tt.round + 2), waiter := none }
  ({ s with time := { s.time with step := some st } } : State).modMirror fun m => { m with stepWait := some steps }

/-- One step of the lock loop on an offset, with the lock's two counts (19_pair R470). -/
def State.lockLoop (s : State) (offset : Int) : State :=
  let x := Config.lockStep offset s.mirror.integ s.freqSet
  let v := clampRate x.1
  let good := if offset.natAbs ≤ 131072 then s.mirror.good + 1 else 0
  let bad := if 655360 < offset.natAbs then s.mirror.bad + 1 else 0
  let s := (s.setRate v).modMirror fun m =>
    { m with integ := x.2, outputs := (v :: m.outputs).take 16, good := min 1024 good, bad := min 16 bad }
  let lock := if 1024 ≤ good then true else if 16 ≤ bad then false else s.time.dovetailLocked
  { s with time := { s.time with dovetailLocked := lock } }

/-- The steps of the primary that this device's time has followed: one armed counts once it has been applied (19_pair R471). -/
def State.stepsReached (s : State) : Option (BitVec 8) :=
  match s.mirror.stepWait with
  | some c => if s.time.step.isSome then s.mirror.primarySteps else some c
  | none => s.mirror.primarySteps

/-- A TIME message (19_pair R470, R471): the first after the device became STANDBY brings a step when the offset exceeds 1 µs; later
ones steer the loop, unless their step_count has not been reached. -/
def State.timeMessage (s : State) (t1 : Nat) (steps : BitVec 8) : State :=
  if s.mirror.role ≠ .standby ∨ !s.mirroring then s
  else
    let offset : Int := (s.stamp : Int) - ((t1 : Int) + (unitsOfPs s.mirror.dPs : Int))
    match s.stepsReached with
    | none =>
      if s.time.step.isSome then s
      else if 65536000 < offset.natAbs then s.armMirrored (-offset) steps
      else ((s.modMirror fun m => { m with primarySteps := some steps, stepWait := none }).lockLoop offset).settlePull
    | some c =>
      let s := s.modMirror fun m => { m with primarySteps := some c, stepWait := if s.time.step.isSome then m.stepWait else none }
      if steps = c then (s.lockLoop offset).settlePull else s
/-- `TIME_MESSAGE`. -/
def execTimeMessage (t1 : Nat) (stepCount : BitVec 8) (at8 : Fin 3277) (s : State) : Ans :=
  .next ((s.at_ at8.val).heardNow.timeMessage t1 stepCount)

/-- Sixteen rounds have passed since the last TIME message (19_pair R470). -/
def State.timeDue (s : State) : Bool :=
  match s.mirror.timeRound with | some r => decide (r.toNat + 16 ≤ s.tt.round.toNat) | none => true

/-- The primary's TIME message of every 16 rounds: t1 is its device time as the message's first unit leaves (19_pair R470). -/
def State.timeMessageSend (s : State) : State :=
  if s.mirroring ∧ s.mirror.role = .primary ∧ s.timeDue then
    (s.modMirror fun m => { m with timeRound := some s.tt.round }).emit (.link 4 [s.stamp, s.time.stepCount.toNat])
  else s
/-- `TIME_MESSAGE_SEND`. -/
def execTimeMessageSend (at8 : Fin 3277) (s : State) : Ans := .next (s.at_ at8.val).timeMessageSend

/-- A STEP message at the standby (19_pair R471). -/
def State.stepMessage (s : State) (amount : Int) (steps : BitVec 8) : State :=
  if s.mirror.role = .standby ∧ s.mirroring then s.armMirrored amount steps else s
/-- `STEP_MESSAGE`. -/
def execStepMessage (amount : Int) (stepCount : BitVec 8) (s : State) : Ans := .next (s.heardNow.stepMessage amount stepCount)

/-! ### Feeds, digests and pulls (19_pair R472 to R474) -/

/-- A FEED message at the standby (19_pair R472; 09_feeds R248). -/
def State.feedMessage (s : State) (f : Nat) (c : FeedChange) : State :=
  if s.mirror.role = .standby ∧ s.mirroring then s.applyFeed f c else s
/-- `FEED_MESSAGE`. -/
def execFeedMessage (feed : Fin 4096) (change : FeedChange) (s : State) : Ans := .next (s.heardNow.feedMessage feed.val change)

/-- A DIGEST message at the standby: compared when the applied mirror_seq equals the digest's, held until then (19_pair R473). -/
def State.digestMessage (s : State) (r : Fin 19) (seq : BitVec 64) (digest : BitVec 32) : State :=
  if s.mirror.role ≠ .standby ∨ !s.mirror.linkUp then s
  else if seq = s.mirror.seq then (s.compareRegion r digest).settlePull
  else if seq < s.mirror.seq then s
  else s.modMirror fun m =>
    { m with held := (m.held.filter fun d => !(d.region == r)) ++ [{ region := r, seq := seq, digest := digest }] }
/-- `DIGEST_MESSAGE`. -/
def execDigestMessage (region : Fin 19) (seq : BitVec 64) (digest : BitVec 32) (s : State) : Ans :=
  .next (s.heardNow.digestMessage region seq digest)

/-- The instant from which a region's digest is sent again in its cycle (19_pair R473): digest_cycle_ms after the last one. -/
def State.digestDue (s : State) (r : Nat) : Nat :=
  match tget none s.mirror.digestAt r with | some t => t + s.mirror.digestCycle.toNat * msPs | none => 0

/-- The primary's digest of a region, once in every digest_cycle_ms (19_pair R473). -/
def State.digestSend (s : State) (r : Nat) : State :=
  if s.mirroring ∧ s.mirror.role = .primary ∧ s.due (s.digestDue r) then
    let s := s.reach (s.digestDue r)
    (s.modMirror fun m => { m with digestAt := tset none m.digestAt r (some s.nowPs) }).sendDigest r
  else s
/-- `DIGEST_SEND`. -/
def execDigestSend (region : Fin 19) (s : State) : Ans := .next (s.digestSend region.val)

/-- The rows of a block as PULL_DATA carries them. -/
def State.blockItems (s : State) (code gen block : Nat) : List (Nat × Nat) :=
  (s.blockRows code block).map fun i => (i, s.master code gen i)

/-- A PULL_REQ answered by the primary from its masters (19_pair R473, R474, R472); it says that the standby compares the region as
divergent and pulls it. -/
def State.pullReq (s : State) (q : PullReq) : State :=
  if !s.mirroring ∨ s.mirror.role ≠ .primary then s
  else
    match q with
    | .digest r => s.sendDigest r.val
    | .blockDigests r =>
      if !s.digestible r.val then s
      else
        (s.regionReported r.val 2).emit (.linkPull (.blockDigests r ((regionBlocks r.val).map fun b =>
          (BitVec.ofNat 8 b.1, b.2.1 == 1, b.2.2, s.blockDigest s.tables.master b.1 b.2.1 b.2.2))))
    | .block table gen block =>
      if !s.d0Writable then s
      else
        s.emit (.linkPull (.entries (Fin.ofNat 19 (regionOf table.toNat)) table gen
          (s.blockItems table.toNat (b1 gen) block)))
    | .portConfig => (s.regionReported 16 2).emit (.linkPull (.portConfig ((List.range 64).map s.portParams)))
    | .generation =>
      (s.regionReported 18 2).emit (.linkPull (.generation ((List.range 4).map fun k => (s.quad k).gen)))
    | .feeds =>
      ((List.finRange 4096).foldl (fun (s : State) f => s.emit (.linkPull (.feed (s.feedImage f)))) s).emit (.linkPull .feedsDone)
/-- `PULL_REQ`. -/
def execPullReq (req : PullReq) (s : State) : Ans := .next (s.heardNow.pullReq req)

/-- The generation that a pull of region 18 waits to apply, once no swap is draining: at the next swap round, as GEN_SWAP applies it (19_pair
R474; 08_tables R230; log entry 137). -/
def State.applyGenPull (s : State) : State :=
  match s.mirror.genPull with
  | some g =>
    if s.tables.swap.isSome ∨ !s.d0Writable then s
    else
      let s := s.modMirror fun m => { m with genPull := none }
      if g = s.currentGen then s.emit (.linkReq (.digest 18)) else s.startSwap g none
  | none => s

/-- A PULL_DATA message: at the standby what it asked for, and at the primary the standby's word that a region is equal. -/
def State.pullData (s : State) (d : PullData) : State :=
  if !s.mirroring then s
  else if s.mirror.role = .primary then
    match d with
    | .regionEqual r => s.regionReported r.val 0
    | _ => s
  else
    match d with
    | .blockDigests r ds => s.pullBlocks r ds
    | .entries r table gen items => s.pullEntries r table.toNat (b1 gen) items
    | .portConfig ps => (s.pullPorts ps).settlePull
    | .generation gens => (s.modMirror fun m => { m with genPull := gens.head? }).applyGenPull
    | .regionEqual _ => s
    | .feed x => s.pullFeed x
    | .feedsDone => (s.modMirror fun m => { m with feedPull := false }).settlePull
/-- `PULL_DATA`. -/
def execPullData (data : PullData) (s : State) : Ans := .next (s.heardNow.pullData data)

/-! ### Tokens, and the peer's failure (03_islands R85; 19_pair R475, R476, R479; 21_counters R508) -/

/-- A TOKEN message: a mark of the peer is taken and acknowledged, and so is a barrier; an acknowledgement ends the wait for it. -/
def State.tokenMessage (s : State) (t : Token) : State :=
  if !s.mirror.linkUp then s
  else
    match t with
    | .mark no => (s.latchMark no).sendToken 1 0
    | .markAck => { s with pmc := { s.pmc with markBusy := false } }
    | .barrier => s.sendToken 3 0
    | .barrierAck => (s.modMirror fun m => { m with checkAck := m.checkWait.isSome }).settleCheck
/-- `TOKEN_MESSAGE`. -/
def execTokenMessage (token : Token) (s : State) : Ans := .next (s.heardNow.tokenMessage token)

/-- `SAFE_MESSAGE`: the peer has entered its safe state (19_pair Table 19.9). -/
def execSafeMessage (s : State) : Ans := .next (if s.mirror.linkUp then s.heardNow.takeoverFrom 1 else s)

/-- PEER_FAULT_N asserted for 1 µs: the fault line, and the condition of Table 19.9. -/
def State.peerFault (s : State) : State :=
  (({ s with flt := { s.flt with peerFault := true } } : State).occur 40 0).takeoverFrom 1
/-- `PEER_FAULT_ASSERT`. -/
def execPeerFaultAssert (s : State) : Ans := .next s.peerFault

/-- The link has been down for takeover_hold_us (19_pair Table 19.9). -/
def State.holdExpiry (s : State) : State :=
  match s.mirror.downAt with
  | some t =>
    let d := t + s.mirror.holdUs.toNat * usPs
    if s.mirror.linkUp ∨ s.mirror.role ≠ .standby ∨ !s.due d then s
    else ((s.reach d).modMirror fun m => { m with downAt := none }).takeoverFrom 2
  | none => s
/-- `LINK_LOSS_HOLD_EXPIRY`. -/
def execLinkLossHoldExpiry (s : State) : Ans := .next s.holdExpiry

end Sys2Proof.Machine
end

