-- ==== Sys2Proof/Machine/Registers.lean ====
section
/-!
DEFINITION. Writes of BAR0 registers (17_host R415, Table 17.4), instance pages among them (18_instances R448, Table 18.3). The
registers that have commands of their own are written here by the same operations.
-/

namespace Sys2Proof.Machine

/-- The registers of BAR0 that a write may change, and the instance as which their page writes them. -/
inductive BarReg where
  | none
  | hostLink
  | timeLatch
  | cmdRing (n off : Nat)
  | dma (r off n : Nat)
  | evtRoute (k : Nat)
  | sticky (line : Nat)
  | pmcMark
  | pmcSweep
  | pmcOvf (j : Nat)
  | pmcCfg (k : Nat)
  | pmcCtr (k : Nat)
  | sample (p : Nat)
  | gasp
  | chanLast (k : Nat)
  | drwRpos (n d : Nat)
  | drwState (n d : Nat)
  | winLo (n : Nat)
  | winHi (n : Nat)
  | winCommit (n : Nat)
deriving DecidableEq, Repr

/-- A drawer block's register (13_cabinet Tables 13.9, 13.10). -/
def drawerReg (n d off : Nat) : BarReg := if off = 0x10 then .drwRpos n d else if off = 0x18 then .drwState n d else .none
/-- A window register (17_host Table 17.6). -/
def windowReg (n off : Nat) : BarReg :=
  if off = 0 then .winLo n else if off = 8 then .winHi n else if off = 0x10 then .winCommit n else .none

/-- The register at an offset of an instance's page (18_instances Table 18.3). -/
def State.pageReg (s : State) (n off : Nat) : BarReg :=
  let i := s.inst n
  if 0x100 ≤ off ∧ off < 0x140 then .cmdRing n (off - 0x100)
  else if 0x200 ≤ off ∧ off < 0x220 then windowReg n (off - 0x200)
  else if 0x1000 ≤ off ∧ off < 0x1800 then
    (if bitAt i.drawerMask.toNat ((off - 0x1000) / 0x20) then drawerReg n ((off - 0x1000) / 0x20) (off % 0x20) else .none)
  else if 0x8000 ≤ off ∧ off < 0x8000 + i.ringCount * 0x40 then .dma (i.ringFirst + (off - 0x8000) / 0x40) (off % 0x40) n
  else .none

/-- The register of the event unit, the fault collector, the counters or the monitors at an address (20_faults Tables 20.3, 20.5,
20.6; 21_counters Tables 21.3, 21.5, 21.6). -/
def monitorReg (a : Nat) : BarReg :=
  if 0x400000 ≤ a ∧ a < 0x403000 then .evtRoute ((a - 0x400000) / 8)
  else if 0x500100 ≤ a ∧ a < 0x5001C0 then .sticky ((a - 0x500100) / 8 + 24)
  else if a = 0x600000 then .pmcMark
  else if a = 0x600008 then .pmcSweep
  else if 0x600010 ≤ a ∧ a < 0x600030 then .pmcOvf ((a - 0x600010) / 8)
  else if 0x600800 ≤ a ∧ a < 0x601000 then .pmcCfg ((a - 0x600800) / 8)
  else if 0x601000 ≤ a ∧ a < 0x601800 then .pmcCtr ((a - 0x601000) / 8)
  else if 0x603000 ≤ a ∧ a < 0x603400 ∧ a % 0x40 = 0 then .sample ((a - 0x603000) / 0x40)
  else if a = 0x700008 then .gasp
  else .none

/-- The register at an aligned address of BAR0 (17_host Table 17.4). The ring region takes writes only for rings of instance 0
(18_instances R448). -/
def State.barReg (s : State) (a : Nat) : BarReg :=
  if a = 8 then .hostLink
  else if a = 0x2000 then .timeLatch
  else if 0x100000 ≤ a ∧ a < 0x100040 then .cmdRing 0 (a - 0x100000)
  else if 0x200000 ≤ a ∧ a < 0x210000 then
    (if (s.dma ((a - 0x200000) / 0x40)).owner.val = 0 then .dma ((a - 0x200000) / 0x40) (a % 0x40) 0 else .none)
  else if 0x400000 ≤ a ∧ a < 0x800000 then monitorReg a
  else if 0x800400 ≤ a ∧ a < 0x800600 then (if a % 0x20 = 0x18 then .chanLast ((a - 0x800400) / 0x20) else .none)
  else if 0x801000 ≤ a ∧ a < 0x801800 then drawerReg 0 ((a - 0x801000) / 0x20) (a % 0x20)
  else if 0x802000 ≤ a ∧ a < 0x802020 then windowReg 0 (a - 0x802000)
  else if 0x1000000 ≤ a ∧ a < 0x1400000 then s.pageReg ((a - 0x1000000) / 0x10000) (a % 0x10000)
  else .none

/-- DMA_CTRL as its RW fields stand. -/
def DmaRing.ctrlRw (d : DmaRing) : Nat :=
  b1 d.enable + d.typ.toNat * 2 ^ 4 + d.log2.toNat * 2 ^ 7 + d.pipe.toNat * 2 ^ 12 + b1 d.relaxed * 2 ^ 16 + d.circLog2.toNat * 2 ^ 24
/-- HOST_CMD_CTRL as its RW fields stand. -/
def CmdRing.ctrlRw (g : CmdRing) : Nat := b1 g.enable + g.cmdLog2.toNat * 2 ^ 4 + g.rplLog2.toNat * 2 ^ 8
/-- EVT_ROUTE as its RW fields stand. -/
def EvtSrc.routeRw (e : EvtSrc) : Nat := b1 e.enable * 2 ^ 7 + e.vector.toNat * 2 ^ 8 + e.holdoff.toNat * 2 ^ 20

/-- The RW fields of a register as they stand, with write-only and write-1-to-clear bits 0: what the half that a 4-byte write does not
touch keeps (17_host R415). -/
def State.regRw (s : State) (r : BarReg) : Nat :=
  match r with
  | .cmdRing n off =>
    let g := s.cmdRing n
    if off = 0 then g.ctrlRw else if off = 8 then g.cmdBase.toNat else if off = 0x10 then g.rplBase.toNat
    else if off = 0x18 then g.cmdTail.toNat else if off = 0x30 then g.rplTail.toNat else 0
  | .dma r off _ =>
    let d := s.dma r
    if off = 0 then d.ctrlRw else if off = 8 then d.base.toNat else if off = 0x10 then d.tail.toNat
    else if off = 0x20 then d.circBase.toNat else if off = 0x30 then d.rpos.toNat else 0
  | .evtRoute k => (s.evt k).routeRw
  | .pmcMark => s.pmc.markNo.toNat + b1 s.pmc.markPair * 2 ^ 8
  | .pmcSweep => s.pmc.sweepFirst + s.pmc.sweepLast * 2 ^ 8
  | .pmcCfg k => (tget 0 s.pmc.cfg k).toNat
  | .pmcCtr k => (tget 0 s.pmc.ctr k).toNat
  | .drwRpos _ d => (s.drawer d).rpos
  | .winLo n => (s.inst n).win.stage.toNat % 2 ^ 32
  | .winHi n => (s.inst n).win.stage.toNat / 2 ^ 32
  | _ => 0

/-- The fields of HOST_CMD_CTRL after a write (15_commands Table 15.2, R363). -/
def CmdRing.ctrlWritten (v : Nat) (g : CmdRing) : CmdRing :=
  let g := { g with tailRejected := g.tailRejected && !bitAt v 3 }
  if g.enable then { g with enable := bitAt v 0 }
  else
    let c := fld v 4 4
    let p := fld v 8 4
    let ok := decide (2 ≤ c) && decide (c ≤ 8) && decide (2 ≤ p) && decide (p ≤ 8)
    { g with cmdLog2 := BitVec.ofNat 4 c, rplLog2 := BitVec.ofNat 4 p, enable := bitAt v 0 && ok }

/-- A write of a register of a command ring (15_commands R363, Tables 15.2, 15.3). -/
def State.cmdRegWrite (s : State) (n off : Nat) (v : BitVec 64) : State :=
  if !s.cmdRegs n then s
  else if off = 0 then
    let s := s.modCmdRing n (CmdRing.ctrlWritten v.toNat)
    if v.getLsbD 1 then s.cmdCtrlReset n else s
  else if off = 8 then s.modCmdRing n fun g => if g.enable then g else { g with cmdBase := v }
  else if off = 0x10 then s.modCmdRing n fun g => if g.enable then g else { g with rplBase := v }
  else if off = 0x18 then s.cmdTailWrite n (v.setWidth 16)
  else if off = 0x30 then s.rplTailWrite n (v.setWidth 16)
  else s

/-- A write of a register of a DMA ring by the page of instance `n` (17_host R421, Tables 17.9, 17.10). -/
def State.dmaRegWrite (s : State) (r off n : Nat) (v : BitVec 64) : State :=
  if off = 0 then s.dmaCtrl r n v.toNat
  else if off = 0x10 then s.dmaTail r n (v.setWidth 32)
  else if off = 0x30 then s.circRpos r n v
  else if !s.ringWritable r n ∨ (s.dma r).enable then s
  else if off = 8 then s.modDma r fun d => { d with base := v }
  else if off = 0x20 then s.modDma r fun d => { d with circBase := v }
  else s

/-- A write of EVT_ROUTE_s (20_faults R492, Table 20.5). -/
def State.routeWrite (s : State) (k v : Nat) : State :=
  let vec := fld v 8 10
  let bad := decide (msixVectors (s.evtFn k) ≤ vec)
  s.modEvt k fun e =>
    { e with
      enable := bitAt v 7, holdoff := BitVec.ofNat 10 (fld v 20 10)
      vector := if bad then e.vector else BitVec.ofNat 10 vec
      rejected := (e.rejected && !bitAt v 30) || bad }

/-- A write of a staged window base (17_host R416, Table 17.6). -/
def State.stageWrite (s : State) (n lo w at_ v : Nat) : State :=
  if s.pageLive n then
    s.modInst n fun i => { i with win := { i.win with stage := BitVec.ofNat 42 (setFld i.win.stage.toNat lo w (fld v at_ w)) } }
  else s

/-- A write of a whole register. -/
def State.regPut (s : State) (r : BarReg) (v : BitVec 64) : State :=
  match r with
  | .none => s
  | .hostLink => if v.getLsbD 12 then s.release else s
  | .timeLatch =>
    let s' : State := { s with freeCtr := s.freeCtr + 1 }
    s'.timeLatch v (Config.choice s.freeCtr % 161)
  | .cmdRing n off => s.cmdRegWrite n off v
  | .dma r off n => s.dmaRegWrite r off n v
  | .evtRoute k => s.routeWrite k v.toNat
  | .sticky n => s.modLine n fun l => { l with sticky := l.sticky &&& ~~~ v }
  | .pmcMark => s.pmcMark v.toNat
  | .pmcSweep => s.pmcSweep v.toNat
  | .pmcOvf j => { s with pmc := { s.pmc with ovf := s.pmc.ovf.filter fun k => !(k / 64 == j && v.getLsbD (k % 64)) } }
  | .pmcCfg k => s.pmcCfg k v.toNat
  | .pmcCtr k => s.pmcCtr k v.toNat
  | .sample p => if v.getLsbD 0 then s.modSample p fun r => { r with valid := false } else s
  | .gasp => if v.getLsbD 0 then { s with flt := { s.flt with gaspValid := false } } else s
  | .chanLast k => if v.getLsbD 42 then s.modChan k fun c => { c with lastValid := false } else s
  | .drwRpos n d => s.rposWrite n d v
  | .drwState n d =>
    if d ≠ 0 ∧ v.getLsbD 6 ∧ s.pageLive n then s.modDrawer d fun w => { w with rejected := false } else s
  | .winLo n => s.stageWrite n 30 2 30 v.toNat
  | .winHi n => s.stageWrite n 32 10 0 v.toNat
  | .winCommit n => if v.getLsbD 0 then s.winCommit n else s

/-- A write of BAR0 (17_host R415): aligned, of 8 bytes, or of 4 bytes, which changes its half of the register. -/
def State.registerWrite (s : State) (a : Nat) (size : AccessSize) (v : BitVec 64) : State :=
  match size with
  | .other => s.emit (.unsupported 0)
  | .eight => if a % 8 ≠ 0 then s.emit (.unsupported 0) else s.regPut (s.barReg a) v
  | .four =>
    if a % 4 ≠ 0 then s.emit (.unsupported 0)
    else
      let r := s.barReg (a / 8 * 8)
      s.regPut r (BitVec.ofNat 64 (setFld (s.regRw r) (8 * (a % 8)) 32 (v.toNat % 2 ^ 32)))
/-- `REGISTER_WRITE`. -/
def execRegisterWrite (addr : BitVec 26) (size : AccessSize) (v : BitVec 64) (s : State) : Ans :=
  .next (s.registerWrite addr.toNat size v)

end Sys2Proof.Machine
end

