-- ==== Sys2Proof/Machine/Replay.lean ====
section
/-!
DEFINITION. The replay server (13_cabinet R333 to R336): it answers the retransmission request at the front of its queue.
-/

namespace Sys2Proof.Machine

/-- The enabled request entry of a template (13_cabinet Table 13.13). -/
def State.requestEntry (s : State) (tmpl : Nat) : Option Image :=
  ((List.range 16).map fun i => s.work reqCode i).find? fun e => bitAt e 8 && fld e 0 8 == tmpl

/-- A slot read for a number of a request: its bytes, when it holds that number under the request's l3_type and every unit of it can
be read (13_cabinet R336; 14_dram R353). -/
def State.slotFor (s : State) (c : Image) (r : ReplayReq) (m : BitVec 64) : Option (List Byte × List Byte) :=
  let a := s.slotAddr c m
  let h := s.cabRead a 64
  let d := s.cabRead (a + 64) (leAt h.1 0x14 2)
  if h.2 || d.2 || leAt h.1 0 8 != m.toNat || byteAt h.1 0x17 / 16 % 4 != r.l3 then none else some (h.1, d.1)

/-- The units of a slot requested by the replay server, and accounted (14_dram R349, R353, R356). -/
def State.touchSlot (s : State) (c : Image) (m : BitVec 64) : State :=
  let a := s.slotAddr c m
  s.cabTouch 2 a (64 + leAt (s.cabRead a 64).1 0x14 2)

/-- Where the IP length of a stored frame ends its segment (04_line R104). -/
def ipEndOf (l3 l3Off : Nat) (d : List Byte) : Nat :=
  if l3 = 1 then l3Off + beAt d (l3Off + 2) 2 else l3Off + 40 + beAt d (l3Off + 4) 2

/-- The response to one number (13_cabinet R336). -/
def responseOf (e : Image) (r : ReplayReq) (h d : List Byte) : List Byte :=
  let l3 := byteAt h 0x18
  let l4 := byteAt h 0x19
  let mac := bytesBe 6 r.mac.toNat ++ bytesLe 6 (fld e 48 48)
  let x := patch d 0 mac
  let x := if r.l3 = 1 then patch (patch x (l3 + 12) (bytesBe 4 (fld e 128 32))) (l3 + 16) (bytesBe 4 r.ip)
    else patch (patch x (l3 + 8) (bytesBe 16 (fld e 128 128))) (l3 + 24) (bytesBe 16 r.ip)
  let x := patch x l4 (bytesBe 2 (fld e 32 16) ++ bytesBe 2 r.udp.toNat)
  repairSums true r.l3 1 l3 l4 (ipEndOf r.l3 l3 d) d x

/-- The frame of a response: of the replay server, requester 64, in no instance's name (11_pool Table 11.1; 17_host R429). -/
def State.replayFrame (s : State) (data : List Byte) (cells : List Nat) : Frame :=
  { id := s.flow.nextId, source := .replay, lp := 0, data := data, len := data.length + 4, fcsOk := true, stomped := false,
    tsIn := 0, resIn := 0, slotWait := 0, gen := none, pass2 := false, parityCause := false, recircTag := 0,
    inj := some { ring := 1024, ptpOp := 0, ptpOffset := 0, report := false, refTime := 0, desc := 0, requester := 64 },
    cw := {}, cells := cells, lastIn := true, lateFail := false, intakeDrop := false, parityMark := false, oldImage := false,
    owner := 0, feed := none, refused := false, fcs := crc32 data }

/-- A response written into its cells and injected into the pipeline of its request (13_cabinet R336; 02_timetable R46). -/
def State.inject64 (s : State) (p : Nat) (data : List Byte) : State :=
  let x := s.allocate 64 (cellsFor data.length)
  let s := x.2.fillCells x.1 (data ++ bytesLe 4 (crc32 data).toNat)
  let f := s.replayFrame data x.1
  { s with flow := { s.flow with nextId := s.flow.nextId + 1, inject := s.flow.inject ++ [(p, f)] } }

/-- The numbers of a request that are left, in order: what is missing is counted, and the server waits, with the rest kept, while
requester 64 has no cells for a response. -/
def State.replayRun (s : State) (e c : Image) (r : ReplayReq) : Nat → State × Option ReplayReq
  | 0 => (s, none)
  | n + 1 =>
    let m := r.m0 + BitVec.ofNat 64 r.done
    let next : ReplayReq := { r with done := r.done + 1 }
    match s.slotFor c r m with
    | none => ((s.touchSlot c m).tick 0x96).replayRun e c next n
    | some (h, d) =>
      let x := responseOf e r h d
      if s.mayAllocate 64 (cellsFor x.length) then (s.inject64 r.pipe x).replayRun e c next n
      else (s.refuseAllocation 64, some r)

/-- The request at the front of the queue served (13_cabinet R335, R336); it waits while the Cabinet is paused (14_dram R359), and in
the safe state nothing is read any more. -/
def State.replayServe (s : State) : State :=
  if s.cab.paused || s.flt.safe then s
  else
    match s.cab.replayQ with
    | [] => s
    | r :: rest =>
      let s := { s with cab := { s.cab with replayQ := rest } }
      let c := s.captureEntry r.feed
      if !bitAt c 0 then s.tick 0x94
      else
        match s.requestEntry r.tmpl with
        | none => s
        | some e =>
          let long := decide (fld e 16 11 < r.count)
          let s := if long then s.tick 0x95 else s
          let r := if long then { r with count := fld e 16 11 } else r
          match s.replayRun e c r (r.count - r.done) with
          | (s, some r) => { s with cab := { s.cab with replayQ := r :: s.cab.replayQ } }
          | (s, none) => s
/-- `REPLAY_SERVE`. -/
def execReplayServe (s : State) : Ans := .next s.replayServe

end Sys2Proof.Machine
end

