-- ==== Sys2Proof/Machine/Rounds.lean ====
section
/-!
DEFINITION. The round boundary (02_timetable R30; 05_time R123 to R125, R132; 21_counters R501 to R505; 19_pair R463).
-/

namespace Sys2Proof.Machine

/-- The slots of the round that no command named carried no head: their sources had none (21_counters R502). -/
def State.closeSlots (s : State) : State :=
  let s := (List.range 16).foldl (fun (s : State) p => s.slotCount p 2 (2048 - tget 0 s.pmc.slotsBegun p)) s
  { s with pmc := { s.pmc with slotsBegun := [] } }

/-- A context holds a command now. -/
def State.ctxHeld (s : State) : Bool := [CmdPort.cp0, .cp1, .cp2, .cp3].any fun p => (s.ctx p).st != .idle

/-- The engine cycles of the round in their four classes (21_counters R503): front_starved while no context held a command; of a
round in which one did, the base routines' cycles are open, and so is the split (log entry 1). -/
def State.closeEngine (s : State) : State :=
  let c := roundCycles s.tt.round.toNat
  if s.pmc.engineUsed || s.ctxHeld then
    let f := s.freeCtr
    let a := Config.choice f % (c + 1)
    let b := Config.choice (f + 1) % (c - a + 1)
    let d := Config.choice (f + 2) % (c - a - b + 1)
    let s := { s with freeCtr := f + 3, pmc := { s.pmc with engineUsed := false } }
    (((s.addCtr 252 a).addCtr 253 b).addCtr 254 d).addCtr 255 (c - a - b - d)
  else s.addCtr 254 c

/-- The writes of a quad's replicas that no lookup to come can lie before (08_tables R232): those older than a round are forgotten. -/
def Quad.forget (u : Quad) (cycle : Nat) : Quad := { u with hist := u.hist.filter fun w => decide (cycle ≤ w.cycle + 1024) }

/-- What the round that ends owes: passes due by its end are over, timestamps and a latch take the time base of the round, and its slots and
engine cycles are accounted (02_timetable R37; 05_time R138, R152; 21_counters R502, R503). -/
def State.closeRound (s : State) : State :=
  let cycle := (s.tt.round.toNat + 1) * 1024
  let s := (List.range 16).foldl (fun (s : State) p => s.settlePasses p cycle) s
  let s := s.settleRound.closeSlots.closeEngine
  { s with tables := { s.tables with quads := s.tables.quads.map fun u => u.forget cycle } }

/-- The boundary: the round is closed, the time base has run its cycles, the round number advances, and what takes effect at a boundary
does: rates (05_time R125, R132), switch times of pending gate lists (12_egress R306), counter configurations (21_counters R505), a pulled
generation (19_pair R474). A STATE message is sent once per round (R463). Rounds run from phase 4 on (22_board R524). -/
def State.roundBoundary (s : State) : State :=
  if s.boot.phase < 4 ∨ s.boot.failed ∨ s.boot.warmLow then s
  else
    let s := s.closeRound.advanceTime
    let s := { s with off8 := 0, tt := { s.tt with round := s.tt.round + 1 }, pmc := { s.pmc with inForce := s.pmc.cfg } }
    s.applyRates.settleGates.settleLatch.applyGenPull.sendState
/-- `ROUND_BOUNDARY`. -/
def execRoundBoundary (s : State) : Ans := .next s.roundBoundary

/-! ### The islands' own copies of the round number (03_islands R77) -/

/-- The cycle of a pipeline (0 to 15), port (16 to 79), automata (80 to 83) or buffer island (84), in ps (03_islands Table 3.1). -/
def islandCyclePs (i : Nat) : Nat := if i < 16 then 400 else if i < 80 then 640 else if i < 84 then 400 else 800

/-- How far an island's round boundary lies behind the round marker: less than one cycle of its own clock (03_islands R77). -/
def islandLag (i : Nat) : Nat := Config.islandPhase i % islandCyclePs i

/-- An island's own copy of the round number at the present instant: it advances at the island's own boundary (03_islands R77; log entry
131). -/
def State.islandRound (s : State) (i : Nat) : BitVec 64 :=
  if s.off8 * 125 < islandLag i then s.tt.round - 1 else s.tt.round

end Sys2Proof.Machine
end

