-- ==== Sys2Proof/Machine/Dispatch.lean ====
section
/-!
DEFINITION. The dispatch of the block's commands to their meanings, one arm per row of spec/opcode_table.json.
-/

namespace Sys2Proof.Machine

def exec (i : Instr) (s : State) : Host.Outcome State Fault Refusal :=
  match i with
  | .nop p => Sys2Proof.Machine.execNop p s
  | .identify p => Sys2Proof.Machine.execIdentify p s
  | .readState p => Sys2Proof.Machine.execReadState p s
  | .selftestMonitors p => Sys2Proof.Machine.execSelftestMonitors p s
  | .selftestFaultInject p => Sys2Proof.Machine.execSelftestFaultInject p s
  | .selftestDramResweep p => Sys2Proof.Machine.execSelftestDramResweep p s
  | .selftestDramBist p => Sys2Proof.Machine.execSelftestDramBist p s
  | .selftestSerdesPrbs p => Sys2Proof.Machine.execSelftestSerdesPrbs p s
  | .selftestPipeline p => Sys2Proof.Machine.execSelftestPipeline p s
  | .monitorRead p => Sys2Proof.Machine.execMonitorRead p s
  | .ttLoad p => Sys2Proof.Machine.execTtLoad p s
  | .ttActivateWarm p => Sys2Proof.Machine.execTtActivateWarm p s
  | .ttActivateCold p => Sys2Proof.Machine.execTtActivateCold p s
  | .ttActivateCancel p => Sys2Proof.Machine.execTtActivateCancel p s
  | .ttQuery p => Sys2Proof.Machine.execTtQuery p s
  | .tblWrite p => Sys2Proof.Machine.execTblWrite p s
  | .prefixInsert p => Sys2Proof.Machine.execPrefixInsert p s
  | .prefixDelete p => Sys2Proof.Machine.execPrefixDelete p s
  | .tblPairWrite p => Sys2Proof.Machine.execTblPairWrite p s
  | .tblRead p => Sys2Proof.Machine.execTblRead p s
  | .tblMove p => Sys2Proof.Machine.execTblMove p s
  | .genSwap p => Sys2Proof.Machine.execGenSwap p s
  | .tblBulkWrite p => Sys2Proof.Machine.execTblBulkWrite p s
  | .tblBulkRelayout p => Sys2Proof.Machine.execTblBulkRelayout p s
  | .ageScan p => Sys2Proof.Machine.execAgeScan p s
  | .portConfig p => Sys2Proof.Machine.execPortConfig p s
  | .portStatus p => Sys2Proof.Machine.execPortStatus p s
  | .statsRead p => Sys2Proof.Machine.execStatsRead p s
  | .drawerOpen p => Sys2Proof.Machine.execDrawerOpen p s
  | .drawerClose p => Sys2Proof.Machine.execDrawerClose p s
  | .drawerErase p => Sys2Proof.Machine.execDrawerErase p s
  | .sealNow p => Sys2Proof.Machine.execSealNow p s
  | .replayConfigCapture p => Sys2Proof.Machine.execReplayConfigCapture p s
  | .replayConfigRequest p => Sys2Proof.Machine.execReplayConfigRequest p s
  | .replayConfigQuota p => Sys2Proof.Machine.execReplayConfigQuota p s
  | .cabinetPause p => Sys2Proof.Machine.execCabinetPause p s
  | .cabinetResume p => Sys2Proof.Machine.execCabinetResume p s
  | .timeSet p => Sys2Proof.Machine.execTimeSet p s
  | .timeAdjustFreq p => Sys2Proof.Machine.execTimeAdjustFreq p s
  | .timeAdjustSlew p => Sys2Proof.Machine.execTimeAdjustSlew p s
  | .timeAdjustStep p => Sys2Proof.Machine.execTimeAdjustStep p s
  | .timeAdjustSource p => Sys2Proof.Machine.execTimeAdjustSource p s
  | .timeAdjustPpsOut p => Sys2Proof.Machine.execTimeAdjustPpsOut p s
  | .timeAdjustDeclare p => Sys2Proof.Machine.execTimeAdjustDeclare p s
  | .timeRead p => Sys2Proof.Machine.execTimeRead p s
  | .tsCalibrateRun p => Sys2Proof.Machine.execTsCalibrateRun p s
  | .tsCalibrateRead p => Sys2Proof.Machine.execTsCalibrateRead p s
  | .mirrorConfig p => Sys2Proof.Machine.execMirrorConfig p s
  | .mirrorRole p => Sys2Proof.Machine.execMirrorRole p s
  | .mirrorCheck p => Sys2Proof.Machine.execMirrorCheck p s
  | .keyInstall p => Sys2Proof.Machine.execKeyInstall p s
  | .keyRetire p => Sys2Proof.Machine.execKeyRetire p s
  | .counterRead p => Sys2Proof.Machine.execCounterRead p s
  | .instCreate p => Sys2Proof.Machine.execInstCreate p s
  | .instResize p => Sys2Proof.Machine.execInstResize p s
  | .instQuiesce p => Sys2Proof.Machine.execInstQuiesce p s
  | .instQuiesceResume p => Sys2Proof.Machine.execInstQuiesceResume p s
  | .instReset p => Sys2Proof.Machine.execInstReset p s
  | .instRemove p => Sys2Proof.Machine.execInstRemove p s
  | .dirtyLogSwap p => Sys2Proof.Machine.execDirtyLogSwap p s
  | .dirtyLogStop p => Sys2Proof.Machine.execDirtyLogStop p s
  | .faultConfig p => Sys2Proof.Machine.execFaultConfig p s
  | .faultRelease p => Sys2Proof.Machine.execFaultRelease p s
  | .ucodeLoadUser p => Sys2Proof.Machine.execUcodeLoadUser p s
  | .ucodeCall p => Sys2Proof.Machine.execUcodeCall p s
  | .cmdRingFetch rd at8 => Sys2Proof.Machine.execCmdRingFetch rd at8 s
  | .hostCmdTailWrite inst v mem => Sys2Proof.Machine.execHostCmdTailWrite inst v mem s
  | .hostRplTailWrite inst v => Sys2Proof.Machine.execHostRplTailWrite inst v s
  | .hostCmdCtrlReset inst => Sys2Proof.Machine.execHostCmdCtrlReset inst s
  | .cp1FrameReceive frame at8 => Sys2Proof.Machine.execCp1FrameReceive frame at8 s
  | .cp3FrameReceive wire at8 => Sys2Proof.Machine.execCp3FrameReceive wire at8 s
  | .cp3Break us => Sys2Proof.Machine.execCp3Break us s
  | .timeLatch v delay8 at8 => Sys2Proof.Machine.execTimeLatch v delay8 at8 s
  | .hostLinkRelease => Sys2Proof.Machine.execHostLinkRelease s
  | .winCommit inst => Sys2Proof.Machine.execWinCommit inst s
  | .windowRead inst off len => Sys2Proof.Machine.execWindowRead inst off len s
  | .windowWrite inst off data poisoned => Sys2Proof.Machine.execWindowWrite inst off data poisoned s
  | .dmaCtrlEnable ring by_ v => Sys2Proof.Machine.execDmaCtrlEnable ring by_ v s
  | .dmaCtrlReset ring by_ => Sys2Proof.Machine.execDmaCtrlReset ring by_ s
  | .dmaTailWrite ring by_ v mem => Sys2Proof.Machine.execDmaTailWrite ring by_ v mem s
  | .dmaCircRposWrite ring by_ v => Sys2Proof.Machine.execDmaCircRposWrite ring by_ v s
  | .cabDrwRposWrite inst drawer v => Sys2Proof.Machine.execCabDrwRposWrite inst drawer v s
  | .pmcMark v => Sys2Proof.Machine.execPmcMark v s
  | .pmcSweep v => Sys2Proof.Machine.execPmcSweep v s
  | .pmcCtrWrite k v => Sys2Proof.Machine.execPmcCtrWrite k v s
  | .pmcCfgWrite k v => Sys2Proof.Machine.execPmcCfgWrite k v s
  | .registerWrite addr size v => Sys2Proof.Machine.execRegisterWrite addr size v s
  | .coldReset board => Sys2Proof.Machine.execColdReset board s
  | .startupComplete => Sys2Proof.Machine.execStartupComplete s
  | .cabinetInitialised => Sys2Proof.Machine.execCabinetInitialised s
  | .dramTrainingDone ch result => Sys2Proof.Machine.execDramTrainingDone ch result s
  | .serdesGroupUp g => Sys2Proof.Machine.execSerdesGroupUp g s
  | .warmReset at8 => Sys2Proof.Machine.execWarmReset at8 s
  | .perst => Sys2Proof.Machine.execPerst s
  | .pcieLinkDown => Sys2Proof.Machine.execPcieLinkDown s
  | .pcieLinkUp gen width => Sys2Proof.Machine.execPcieLinkUp gen width s
  | .flrVf n => Sys2Proof.Machine.execFlrVf n s
  | .flrPf => Sys2Proof.Machine.execFlrPf s
  | .vfEnableClear => Sys2Proof.Machine.execVfEnableClear s
  | .fenceComplete n => Sys2Proof.Machine.execFenceComplete n s
  | .ownerProgram key vpp resetLow => Sys2Proof.Machine.execOwnerProgram key vpp resetLow s
  | .ownerStatus => Sys2Proof.Machine.execOwnerStatus s
  | .bootStatus => Sys2Proof.Machine.execBootStatus s
  | .frameReceive lp wire at8 => Sys2Proof.Machine.execFrameReceive lp wire at8 s
  | .pauseReceive lp opcode classes quanta at8 => Sys2Proof.Machine.execPauseReceive lp opcode classes quanta at8 s
  | .pauseTakeEffect lp => Sys2Proof.Machine.execPauseTakeEffect lp s
  | .pauseExpiry lp kind => Sys2Proof.Machine.execPauseExpiry lp kind s
  | .pauseWatchdogTrip lp kind => Sys2Proof.Machine.execPauseWatchdogTrip lp kind s
  | .pauseHoldoffEnd lp kind => Sys2Proof.Machine.execPauseHoldoffEnd lp kind s
  | .pauseTx lp kind => Sys2Proof.Machine.execPauseTx lp kind s
  | .headRelease lp cycle => Sys2Proof.Machine.execHeadRelease lp cycle s
  | .headSlot pipe slot up => Sys2Proof.Machine.execHeadSlot pipe slot up s
  | .recircPass pipe slot up => Sys2Proof.Machine.execRecircPass pipe slot up s
  | .injectSlot pipe slot up => Sys2Proof.Machine.execInjectSlot pipe slot up s
  | .headHandoff cycle parityBad => Sys2Proof.Machine.execHeadHandoff cycle parityBad s
  | .feedDecision pipe => Sys2Proof.Machine.execFeedDecision pipe s
  | .bodyCellWrite lp cycle bank => Sys2Proof.Machine.execBodyCellWrite lp cycle bank s
  | .lastCellArrival lp cycle bank => Sys2Proof.Machine.execLastCellArrival lp cycle bank s
  | .revocation window => Sys2Proof.Machine.execRevocation window s
  | .schedulerPick lp cellBad at8 => Sys2Proof.Machine.execSchedulerPick lp cellBad at8 s
  | .transmitEnd lp at8 => Sys2Proof.Machine.execTransmitEnd lp at8 s
  | .queueFlushUnlink lp cycle bank => Sys2Proof.Machine.execQueueFlushUnlink lp cycle bank s
  | .shaperRefill => Sys2Proof.Machine.execShaperRefill s
  | .gateSwitch lp at8 => Sys2Proof.Machine.execGateSwitch lp at8 s
  | .gateEntryAdvance lp at8 => Sys2Proof.Machine.execGateEntryAdvance lp at8 s
  | .chainFreeWalk => Sys2Proof.Machine.execChainFreeWalk s
  | .poolService cycle bank => Sys2Proof.Machine.execPoolService cycle bank s
  | .poolAllocate req cells => Sys2Proof.Machine.execPoolAllocate req cells s
  | .recountComplete => Sys2Proof.Machine.execRecountComplete s
  | .learningSlot q cycle => Sys2Proof.Machine.execLearningSlot q cycle s
  | .ageingRead q cycle => Sys2Proof.Machine.execAgeingRead q cycle s
  | .ageScanComplete => Sys2Proof.Machine.execAgeScanComplete s
  | .scrubSlot q table index cycle key data => Sys2Proof.Machine.execScrubSlot q table index cycle key data s
  | .replicaRepair q table block cycle masterBad => Sys2Proof.Machine.execReplicaRepair q table block cycle masterBad s
  | .roundBoundary => Sys2Proof.Machine.execRoundBoundary s
  | .activationCommit => Sys2Proof.Machine.execActivationCommit s
  | .activationSwitch => Sys2Proof.Machine.execActivationSwitch s
  | .activationDrained => Sys2Proof.Machine.execActivationDrained s
  | .portSwitchPosition lp => Sys2Proof.Machine.execPortSwitchPosition lp s
  | .transitionWindowClose lp => Sys2Proof.Machine.execTransitionWindowClose lp s
  | .genSwapBoundary => Sys2Proof.Machine.execGenSwapBoundary s
  | .genSwapDrained => Sys2Proof.Machine.execGenSwapDrained s
  | .stepApply => Sys2Proof.Machine.execStepApply s
  | .noPpsTimeout => Sys2Proof.Machine.execNoPpsTimeout s
  | .slewEnd => Sys2Proof.Machine.execSlewEnd s
  | .ppsInEdge at8 => Sys2Proof.Machine.execPpsInEdge at8 s
  | .ppsAbsent => Sys2Proof.Machine.execPpsAbsent s
  | .ppsOutEdge at8 => Sys2Proof.Machine.execPpsOutEdge at8 s
  | .ref10mCount edges => Sys2Proof.Machine.execRef10mCount edges s
  | .clockAttestation at8 => Sys2Proof.Machine.execClockAttestation at8 s
  | .portBringupDone lp ok => Sys2Proof.Machine.execPortBringupDone lp ok s
  | .alignTimeout lp => Sys2Proof.Machine.execAlignTimeout lp s
  | .linkLoss lp => Sys2Proof.Machine.execLinkLoss lp s
  | .fecDegradeCheck lp correctedSymbols correctedCw uncorrectableCw blockErrors => Sys2Proof.Machine.execFecDegradeCheck lp correctedSymbols correctedCw uncorrectableCw blockErrors s
  | .wakeDetect lp => Sys2Proof.Machine.execWakeDetect lp s
  | .pllLockLoss island => Sys2Proof.Machine.execPllLockLoss island s
  | .islandPowerUp m => Sys2Proof.Machine.execIslandPowerUp m s
  | .feedGapScan window => Sys2Proof.Machine.execFeedGapScan window s
  | .replayServe => Sys2Proof.Machine.execReplayServe s
  | .evidenceDrain at8 => Sys2Proof.Machine.execEvidenceDrain at8 s
  | .sealTimer drawer at8 => Sys2Proof.Machine.execSealTimer drawer at8 s
  | .drawerEraseDone drawer => Sys2Proof.Machine.execDrawerEraseDone drawer s
  | .dramRefresh ch drift => Sys2Proof.Machine.execDramRefresh ch drift s
  | .dramUncorrectable unit devices => Sys2Proof.Machine.execDramUncorrectable unit devices s
  | .patrolScrub ch devices => Sys2Proof.Machine.execPatrolScrub ch devices s
  | .injectDescriptor ring rd => Sys2Proof.Machine.execInjectDescriptor ring rd s
  | .deliverFrame ring rd cellBad => Sys2Proof.Machine.execDeliverFrame ring rd cellBad s
  | .leaseFrame ring rd cellBad => Sys2Proof.Machine.execLeaseFrame ring rd cellBad s
  | .copyDescriptor ring rd => Sys2Proof.Machine.execCopyDescriptor ring rd s
  | .noticeWrite => Sys2Proof.Machine.execNoticeWrite s
  | .barrierDone ring => Sys2Proof.Machine.execBarrierDone ring s
  | .ringWaitResume ring => Sys2Proof.Machine.execRingWaitResume ring s
  | .completionTimeout tag => Sys2Proof.Machine.execCompletionTimeout tag s
  | .lateCompletion tag => Sys2Proof.Machine.execLateCompletion tag s
  | .tagQuarantineEnd tag => Sys2Proof.Machine.execTagQuarantineEnd tag s
  | .readCompletion tag rd => Sys2Proof.Machine.execReadCompletion tag rd s
  | .eventHoldoffEnd src => Sys2Proof.Machine.execEventHoldoffEnd src s
  | .msixUnmask fn vec => Sys2Proof.Machine.execMsixUnmask fn vec s
  | .faultOccurrence line src => Sys2Proof.Machine.execFaultOccurrence line src s
  | .faultWindowClose line => Sys2Proof.Machine.execFaultWindowClose line s
  | .graceTimerExpiry at8 => Sys2Proof.Machine.execGraceTimerExpiry at8 s
  | .cmdWatchdog ctx => Sys2Proof.Machine.execCmdWatchdog ctx s
  | .sensorRead k reading at8 => Sys2Proof.Machine.execSensorRead k reading at8 s
  | .thermalShedCheck => Sys2Proof.Machine.execThermalShedCheck s
  | .voltageSample k mv => Sys2Proof.Machine.execVoltageSample k mv s
  | .contextSlice => Sys2Proof.Machine.execContextSlice s
  | .contextResume ctx => Sys2Proof.Machine.execContextResume ctx s
  | .contextTimerExpiry ctx => Sys2Proof.Machine.execContextTimerExpiry ctx s
  | .ucodeLimit ctx => Sys2Proof.Machine.execUcodeLimit ctx s
  | .linkUnitReceive unit => Sys2Proof.Machine.execLinkUnitReceive unit s
  | .linkAck => Sys2Proof.Machine.execLinkAck s
  | .dovetailLinkDown cause => Sys2Proof.Machine.execDovetailLinkDown cause s
  | .dovetailLinkUp dPs => Sys2Proof.Machine.execDovetailLinkUp dPs s
  | .commandMessage seq opcode p tN => Sys2Proof.Machine.execCommandMessage seq opcode p tN s
  | .replyMessage seq status isFinal => Sys2Proof.Machine.execReplyMessage seq status isFinal s
  | .timeMessage t1 stepCount at8 => Sys2Proof.Machine.execTimeMessage t1 stepCount at8 s
  | .timeMessageSend at8 => Sys2Proof.Machine.execTimeMessageSend at8 s
  | .stepMessage amount stepCount => Sys2Proof.Machine.execStepMessage amount stepCount s
  | .feedMessage feed change => Sys2Proof.Machine.execFeedMessage feed change s
  | .stateMessage role pairId seq stepCount => Sys2Proof.Machine.execStateMessage role pairId seq stepCount s
  | .digestMessage region seq digest => Sys2Proof.Machine.execDigestMessage region seq digest s
  | .digestSend region => Sys2Proof.Machine.execDigestSend region s
  | .pullReq req => Sys2Proof.Machine.execPullReq req s
  | .pullData data => Sys2Proof.Machine.execPullData data s
  | .tokenMessage token => Sys2Proof.Machine.execTokenMessage token s
  | .safeMessage => Sys2Proof.Machine.execSafeMessage s
  | .peerFaultAssert => Sys2Proof.Machine.execPeerFaultAssert s
  | .linkLossHoldExpiry => Sys2Proof.Machine.execLinkLossHoldExpiry s
  | .calibrationComplete lp rxPs txPs => Sys2Proof.Machine.execCalibrationComplete lp rxPs txPs s
  | .selftestComplete pass sweeps => Sys2Proof.Machine.execSelftestComplete pass sweeps s
  | .cabinetPauseDone => Sys2Proof.Machine.execCabinetPauseDone s
  | .cabinetResumeDone drifts => Sys2Proof.Machine.execCabinetResumeDone drifts s
  | .warmResetRelease drifts => Sys2Proof.Machine.execWarmResetRelease drifts s
  | .perstRelease => Sys2Proof.Machine.execPerstRelease s
  | .configSpaceWrite fn field v => Sys2Proof.Machine.execConfigSpaceWrite fn field v s
  | .monitorClockLoss at8 => Sys2Proof.Machine.execMonitorClockLoss at8 s
  | .collectorRegisterFault at8 => Sys2Proof.Machine.execCollectorRegisterFault at8 s
  | .dimmSensorRead ch celsius => Sys2Proof.Machine.execDimmSensorRead ch celsius s
  | .wakeDetectorRearm lp => Sys2Proof.Machine.execWakeDetectorRearm lp s
  | .sweepComplete => Sys2Proof.Machine.execSweepComplete s

end Sys2Proof.Machine
end

