-- ==== Sys2Proof/Machine/Reads.lean ====
section
/-!
DEFINITION. Reads of BAR0 and of a VF BAR0 (17_host R415, Table 17.4; 00_scope R6; 18_instances Table 18.3): the value of every register,
and what an 8-byte read clears. No row of the command table reads a register: the operation stands here for the statements about R6.
-/

namespace Sys2Proof.Machine

/-! ### Values -/

/-- A register of a command ring (15_commands Tables 15.2, 15.3). -/
def CmdRing.value (g : CmdRing) (off : Nat) : Nat :=
  if off = 0 then g.ctrlRw + b1 g.resetBusy * 4 + b1 g.tailRejected * 8
  else if off = 8 then g.cmdBase.toNat else if off = 0x10 then g.rplBase.toNat
  else if off = 0x18 then g.cmdTail.toNat else if off = 0x20 then g.cmdHead.toNat
  else if off = 0x28 then g.rplHead.toNat else if off = 0x30 then g.rplTail.toNat
  else if off = 0x38 then g.authFail.toNat else 0

/-- DMA_STATUS (17_host Table 17.10). -/
def DmaRing.status (d : DmaRing) : Nat :=
  b1 d.halted + d.haltCode.toNat * 2 + b1 d.frozen * 2 ^ 9 + b1 d.waitQuota * 2 ^ 10 + b1 d.waitCab * 2 ^ 11 +
    b1 d.waitReport * 2 ^ 12 + d.haltIndex.toNat * 2 ^ 16 + d.dropped.toNat * 2 ^ 32

/-- A register of a DMA ring (17_host Tables 17.9, 17.10). -/
def DmaRing.value (d : DmaRing) (off : Nat) : Nat :=
  if off = 0 then d.ctrlRw + b1 d.resetBusy * 4 + b1 d.tailRejected * 8 + d.owner.val * 2 ^ 17
  else if off = 8 then d.base.toNat else if off = 0x10 then d.tail.toNat else if off = 0x18 then d.head.toNat
  else if off = 0x20 then d.circBase.toNat else if off = 0x28 then d.wpos.toNat else if off = 0x30 then d.rpos.toNat
  else if off = 0x38 then d.status else 0

/-- A window register (17_host Table 17.6). -/
def Window.value (w : Window) (off : Nat) : Nat :=
  if off = 0 then w.stage.toNat / 2 ^ 30 % 4 * 2 ^ 30 else if off = 8 then w.stage.toNat / 2 ^ 32
  else if off = 0x18 then w.active.toNat else 0

/-- A register of a drawer's block (13_cabinet Tables 13.9, 13.10); D0's block reads as zero (R330). -/
def State.drawerValue (s : State) (d off : Nat) : Nat :=
  if d = 0 then 0
  else if off = 0 then (s.drawer d).wpos else if off = 8 then (s.drawer d).spos
  else if off = 0x10 then (s.drawer d).rpos else if off = 0x18 then s.drawerState d else 0

/-- A register of a channel's block (14_dram Tables 14.4, 14.5). -/
def State.chanValue (s : State) (k off : Nat) : Nat :=
  let c := s.chan k
  if off = 0 then s.chanStatus k else if off = 8 then c.corr.toNat else if off = 0x10 then c.uncorr.toNat
  else c.lastAddr.toNat + b1 c.lastValid * 2 ^ 42

/-- A register of the Cabinet's region (13_cabinet Tables 13.8 to 13.10; 14_dram Tables 14.4, 14.5). -/
def State.cabValue (s : State) (o : Nat) : Nat :=
  if o = 0 then s.cabStatus
  else if 0x40 ≤ o ∧ o < 0x80 then (s.evClass ((o - 0x40) / 8)).lost.toNat
  else if o = 0x80 then s.cab.unrecorded.toNat else if o = 0x88 then s.cab.unmapped.toNat
  else if o = 0x90 then s.cab.systemLost.toNat
  else if 0x400 ≤ o ∧ o < 0x600 then s.chanValue ((o - 0x400) / 0x20) (o % 0x20)
  else if 0x1000 ≤ o ∧ o < 0x1800 then s.drawerValue ((o - 0x1000) / 0x20) (o % 0x20)
  else if 0x2000 ≤ o ∧ o < 0x2020 then (s.inst 0).win.value (o - 0x2000)
  else 0

/-- A register of the identity and global region (17_host Table 17.5; 05_time Tables 5.8 to 5.11; 22_board Table 22.13). -/
def State.globalValue (s : State) (a : Nat) : Nat :=
  let h := s.host
  let t := s.time
  if a = 0 then 0x5120 + 0xB2 * 2 ^ 16 else if a = 8 then s.hostLink
  else if a = 0x18 then h.lateCpl.toNat else if a = 0x20 then h.cplTimeout.toNat
  else if a = 0x28 then h.quarantine.length % 2 ^ 13 else if a = 0x30 then h.winDiscard.toNat
  else if a = 0x38 then h.freezes.toNat else if a = 0x40 then h.spDrop.toNat
  else if a = 0x100 then s.hostBoot
  else if a = 0x2000 then b1 t.latch.isSome * 2
  else if a = 0x2008 then timeImg t.latched % 2 ^ 64 else if a = 0x2010 then timeImg t.latched / 2 ^ 64
  else if a = 0x2018 then timeImg t.ppsTime % 2 ^ 64 else if a = 0x2020 then timeImg t.ppsTime / 2 ^ 64 + t.ppsCount.toNat * 2 ^ 32
  else if a = 0x2028 then s.timeQuality else 0

/-- The µs that FLT_GRACE shows, whole ones (20_faults Table 20.3; DESIGN CHOICE, log entry 130). -/
def State.graceLeft (s : State) : Nat := match s.flt.graceEnd with | some t => (t - s.nowPs) / usPs | none => 0

/-- A register of the fault collector (20_faults Table 20.3). -/
def State.faultValue (s : State) (o : Nat) : Nat :=
  let f := s.flt
  if o = 0 then s.fltStatus
  else if o = 8 then f.firstLine + b1 f.firstValid * 2 ^ 6 + f.firstSrc.toNat * 2 ^ 8
  else if o = 0x10 then f.firstRound.toNat
  else if o = 0x18 then f.graceLine + b1 f.graceEnd.isSome * 2 ^ 6 + s.graceLeft * 2 ^ 32
  else if o = 0x20 then f.safeDiscard.toNat else if o = 0x28 then f.fencedPkts.toNat
  else if 0x100 ≤ o ∧ o < 0x1C0 then (s.line ((o - 0x100) / 8 + 24)).sticky.toNat
  else if 0x200 ≤ o ∧ o < 0x380 then (s.line ((o - 0x200) / 8)).count.toNat
  else if 0x400 ≤ o ∧ o < 0x580 then
    let l := s.line ((o - 0x400) / 8)
    l.severity + b1 l.counted * 4 + l.countN * 2 ^ 8 + l.windowMs * 2 ^ 16 + l.graceUs * 2 ^ 32
  else 0

/-- A register of the health monitors (20_faults Table 20.6). -/
def State.monValue (s : State) (o : Nat) : Nat :=
  let f := s.flt
  if o = 0 then s.monStatus
  else if o = 8 then b1 f.gaspValid + f.gaspCause * 2 + f.gaspLine * 2 ^ 9 + f.gaspSrc.toNat * 2 ^ 15 + f.gaspRound.toNat * 2 ^ 32
  else if 0x100 ≤ o ∧ o < 0x200 then (s.sensor ((o - 0x100) / 8)).reading.toNat + (s.sensor ((o - 0x100) / 8)).maximum.toNat * 2 ^ 16
  else if 0x200 ≤ o ∧ o < 0x2C0 then
    let v := s.volt ((o - 0x200) / 8)
    v.mv.toNat + b1 v.warn * 2 ^ 16 + b1 v.fail * 2 ^ 17
  else 0

/-- A register of the event unit (20_faults Table 20.5). -/
def State.evtValue (s : State) (o : Nat) : Nat :=
  if o < 0x3000 then
    let e := s.evt (o / 8)
    s.evtFn (o / 8) + e.routeRw + b1 e.rejected * 2 ^ 30
  else if 0x4000 ≤ o ∧ o < 0x40C0 then ((List.range 64).map fun i => b1 (s.evt ((o - 0x4000) / 8 * 64 + i)).pending * 2 ^ i).sum
  else 0

/-- The 64 bytes of a sample record (21_counters Table 21.6). -/
def Sample.bytes (r : Sample) : List Byte :=
  bytesLe 4 (b1 r.valid + b1 r.tagged * 2 + r.counter * 4 + r.slot * 2 ^ 10) ++ bytesLe 4 r.round.toNat ++
    bytesLe 4 (r.templateId + r.cls * 2 ^ 8 + r.source * 2 ^ 10 + r.lp * 2 ^ 12) ++
    bytesLe 4 (r.reason + r.outcome * 2 ^ 5 + r.dropReason * 2 ^ 8 + r.ruleRow * 2 ^ 16 + b1 r.ruleHit * 2 ^ 31) ++
    bytesLe 4 r.dest ++ timeBytes r.tsIn ++ bytesLe 4 r.lost.toNat ++ bytesLe 28 0

/-- A register of the performance counters (21_counters Tables 21.3, 21.5, 21.6, R506 to R508). -/
def State.pmcValue (s : State) (o : Nat) : Nat :=
  let p := s.pmc
  if o = 0 then
    p.markNo.toNat + b1 p.markPair * 2 ^ 8 + b1 p.markBusy * 2 ^ 10 + b1 p.markRejected * 2 ^ 11 + b1 p.pairMissed * 2 ^ 12
  else if o = 8 then p.sweepFirst + p.sweepLast * 2 ^ 8 + b1 p.sweepBusy * 2 ^ 17 + b1 p.sweepRejected * 2 ^ 18
  else if 0x10 ≤ o ∧ o < 0x30 then ((List.range 64).map fun i => b1 (p.ovf.contains ((o - 0x10) / 8 * 64 + i)) * 2 ^ i).sum
  else if 0x800 ≤ o ∧ o < 0x1000 then
    let k := (o - 0x800) / 8
    let c := (tget 0 p.cfg k).toNat
    c + b1 (cfgRejected k c) * 2 ^ 14
  else if 0x1000 ≤ o ∧ o < 0x1800 then (tget 0 p.ctr ((o - 0x1000) / 8)).toNat
  else if 0x1800 ≤ o ∧ o < 0x2000 then (tget 0 p.snap ((o - 0x1800) / 8)).toNat + (tget 0 p.snapNo ((o - 0x1800) / 8)).toNat * 2 ^ 48
  else if 0x2000 ≤ o ∧ o < 0x2800 then (tget 0 p.sweep ((o - 0x2000) / 8)).toNat
  else if 0x3000 ≤ o ∧ o < 0x3400 then leAt (s.sample ((o - 0x3000) / 0x40)).bytes (o % 0x40) 8
  else 0

/-- The code of an instance's state (18_instances Table 18.4). -/
def InstSt.code : InstSt → Nat
  | .absent => 0 | .active => 1 | .quiescing => 2 | .quiesced => 3 | .fencing => 4

/-- A register of an instance's page (18_instances Tables 18.3, 18.4). -/
def State.pageValue (s : State) (n o : Nat) : Nat :=
  let i := s.inst n
  if o = 0 then n + i.st.code * 2 ^ 6 + b1 i.dirty.isSome * 2 ^ 9 + min 65535 (s.inFlight n) * 2 ^ 16
  else if o = 8 then i.ringFirst + i.ringCount * 2 ^ 16
  else if o = 0x10 then (s.req n).quota + (s.req n).charge % 2 ^ 21 * 2 ^ 32
  else if o = 0x18 then i.drawerMask.toNat else if o = 0x20 then i.winDenied.toNat else if o = 0x28 then i.fences.toNat
  else if 0x100 ≤ o ∧ o < 0x140 then (s.cmdRing n).value (o - 0x100)
  else if 0x200 ≤ o ∧ o < 0x220 then i.win.value (o - 0x200)
  else if o = 0x300 then s.cabStatus
  else if 0x1000 ≤ o ∧ o < 0x1800 then
    (if bitAt i.drawerMask.toNat ((o - 0x1000) / 0x20) then s.drawerValue ((o - 0x1000) / 0x20) (o % 0x20) else 0)
  else if 0x8000 ≤ o ∧ o < 0x8000 + i.ringCount * 0x40 then (s.dma (i.ringFirst + (o - 0x8000) / 0x40)).value (o % 0x40)
  else 0

/-- The value of the register at a multiple of 8 of BAR0 (17_host Table 17.4): write-only fields, reserved bits and addresses that no table
defines read as zero (00_scope R6; 17_host R415). -/
def State.barValue (s : State) (a : Nat) : Nat :=
  if a < 0x100000 then s.globalValue a
  else if 0x100000 ≤ a ∧ a < 0x100040 then (s.cmdRing 0).value (a - 0x100000)
  else if 0x200000 ≤ a ∧ a < 0x210000 then (s.dma ((a - 0x200000) / 0x40)).value (a % 0x40)
  else if 0x400000 ≤ a ∧ a < 0x500000 then s.evtValue (a - 0x400000)
  else if 0x500000 ≤ a ∧ a < 0x600000 then s.faultValue (a - 0x500000)
  else if 0x600000 ≤ a ∧ a < 0x700000 then s.pmcValue (a - 0x600000)
  else if 0x700000 ≤ a ∧ a < 0x800000 then s.monValue (a - 0x700000)
  else if 0x800000 ≤ a ∧ a < 0x900000 then s.cabValue (a - 0x800000)
  else if 0x1000000 ≤ a ∧ a < 0x1400000 then s.pageValue ((a - 0x1000000) / 0x10000) (a % 0x10000)
  else 0

/-! ### What a read clears -/

/-- A ring's dropped count cleared (17_host Table 17.10). -/
def State.clearDropped (s : State) (r off : Nat) : State := if off = 0x38 then s.modDma r fun d => { d with dropped := 0 } else s
/-- A command ring's HOST_CMD_AUTH_FAIL cleared (15_commands Table 15.3). -/
def State.clearAuthFail (s : State) (n off : Nat) : State := if off = 0x38 then s.modCmdRing n fun g => { g with authFail := 0 } else s

/-- The RC fields of a page's register cleared (18_instances Tables 18.3, 18.4). -/
def State.clearPage (s : State) (n o : Nat) : State :=
  let i := s.inst n
  if o = 0x20 then s.modInst n fun i => { i with winDenied := 0 }
  else if 0x100 ≤ o ∧ o < 0x140 then s.clearAuthFail n (o - 0x100)
  else if 0x8000 ≤ o ∧ o < 0x8000 + i.ringCount * 0x40 then s.clearDropped (i.ringFirst + (o - 0x8000) / 0x40) (o % 0x40)
  else s

/-- The RC fields of a register cleared (00_scope R6; 17_host R415). -/
def State.clearRead (s : State) (a : Nat) : State :=
  if a = 0x18 then { s with host := { s.host with lateCpl := 0 } }
  else if a = 0x20 then { s with host := { s.host with cplTimeout := 0 } }
  else if a = 0x30 then { s with host := { s.host with winDiscard := 0 } }
  else if a = 0x40 then { s with host := { s.host with spDrop := 0 } }
  else if 0x100000 ≤ a ∧ a < 0x100040 then s.clearAuthFail 0 (a - 0x100000)
  else if 0x200000 ≤ a ∧ a < 0x210000 then s.clearDropped ((a - 0x200000) / 0x40) (a % 0x40)
  else if 0x404000 ≤ a ∧ a < 0x4040C0 then
    (List.range 64).foldl (fun (s : State) i => s.modEvt ((a - 0x404000) / 8 * 64 + i) fun e => { e with pending := false }) s
  else if a = 0x500020 then { s with flt := { s.flt with safeDiscard := 0 } }
  else if a = 0x500028 then { s with flt := { s.flt with fencedPkts := 0 } }
  else if 0x1000000 ≤ a ∧ a < 0x1400000 then s.clearPage ((a - 0x1000000) / 0x10000) (a % 0x10000)
  else s

/-! ### Reads -/

/-- A read of BAR0 (17_host R415): an aligned one of 8 bytes, which clears the register's RC fields, or of 4 bytes, which returns its
half and clears nothing; any other is an Unsupported Request, with no value. A latch whose value is due is in place. -/
def State.registerRead (s : State) (a : Nat) (size : AccessSize) : State × Option Nat :=
  let s := s.settleLatch
  match size with
  | .other => (s.emit (.unsupported 0), none)
  | .eight => if a % 8 ≠ 0 then (s.emit (.unsupported 0), none) else (s.clearRead a, some (s.barValue a))
  | .four => if a % 4 ≠ 0 then (s.emit (.unsupported 0), none) else (s, some (s.barValue (a / 8 * 8) / 2 ^ (8 * (a % 8)) % 2 ^ 32))

/-- A read of a VF BAR0 (18_instances R452, Table 18.3): the page of its instance, which reads zero while that is ABSENT. -/
def State.pageRead (s : State) (n o : Nat) (size : AccessSize) : State × Option Nat :=
  if (s.inst n).st = .absent then (s, some 0) else s.registerRead (0x1000000 + n * 0x10000 + o) size

end Sys2Proof.Machine
end

