-- ==== Sys2Proof/Safety.lean ====
section
/-!
DEFINITION. What claims speak of: the invariant of the fuses, the key slots and the memories; when a command packet is executed, on
which state, and how it ends (15_commands R374).
-/

namespace Sys2Proof.Machine

/-- The invariant that every step keeps. -/
structure State.Inv (s : State) : Prop where
  /-- The lock fuse is blown exactly when the key fuses are (22_board R529). -/
  fuses : s.env.lockFuse = s.env.ownerFuse.isSome
  /-- With an empty owner slot, every other key slot is empty (15_commands R370). -/
  keys : (s.key 0).key = none → ∀ k, (s.key k).key = none
  /-- The key slots are listed in canonical form. -/
  keysWf : twf KeySlot.init s.cmd.keys = true
  /-- Host memory, the peer function's memory, the Cabinet's memory and the engine's scratchpad are in canonical form. -/
  hostWf : Memory.wf s.host.mem = true
  peerWf : Memory.wf s.host.peer = true
  cabWf : Memory.wf s.cab.mem = true
  scratchWf : Memory.wf s.ucode.scratch = true

/-! ### When a command packet is executed (15_commands R361, R374, R382; 19_pair R466, R467; 20_faults R489) -/

/-- The state on which a packet's checks are made: the packet has left its port. -/
def State.arrived (s : State) (op : Nat) (p : Pkt) : State := ((s.at_ p.at8.val).unqueue op p).engineUse

/-- The state after the check of the trailer: its counter is the key slot's last accepted one (15_commands R373). -/
def State.authed (s : State) (op : Nat) (p : Pkt) : State :=
  if p.trailer then (s.arrived op p).modKey p.keySlot.toNat fun k => { k with counter := p.counter } else s.arrived op p

/-- The state after the packet's acceptance: it is counted, and a critical command on CP1 opens a kept reply (15_commands R382). -/
def State.accepted (s : State) (op : Nat) (p : Pkt) : State :=
  let s := s.authed op p
  let s := { s with cmd := { s.cmd with executed := s.cmd.executed + 1 } }
  let kept : Kept := { slot := p.keySlot, counter := p.counter, check := p.check, reply := none }
  if p.port = .cp1 ∧ critical op then { s with cmd := { s.cmd with kept := (kept :: s.cmd.kept).take 16 } } else s

/-- What the packet leaves to its replies: on a PRIMARY, a mirrored command carries the next mirror_seq (19_pair R467). -/
def State.waiterOf (s : State) (op : Nat) (p : Pkt) : Waiter :=
  let w := mkWaiter op p (if p.port = .cp2 then some (s.arrived op p).mirror.seq else none)
  if (s.accepted op p).mirror.role = .primary ∧ mirroredOp op p.params then
    { w with mirror := some ((s.accepted op p).mirror.seq + 1) } else w

/-- The state on which the command's own work is done: a PRIMARY has forwarded it. -/
def State.running (s : State) (op : Nat) (p : Pkt) : State :=
  let u := s.accepted op p
  u.mirrorOut op p (if op = 0x0101 then u.roundStartTime (u.resolveRound p.params) else 0) (s.waiterOf op p)

/-- A packet is executed: the device takes commands and the port's context is free, the port is not fenced, the packet repeats no kept
reply, and it passes every check of R374, `wf` its own. -/
def State.admits (s : State) (op : Nat) (p : Pkt) (wf : List Byte → State → Bool) : Bool :=
  let u := s.at_ p.at8.val
  decide (4 ≤ u.boot.phase) && !u.boot.failed && !u.mirrorBusy op p && decide ((u.ctx p.port).st = .idle) &&
    !(s.arrived op p).fenced p.port && ((s.arrived op p).keptReply p).isNone && ((s.arrived op p).authCheck op p).isNone &&
    wf p.params (s.authed op p) &&
    !(decide ((s.authed op p).mirror.role = .standby) && decide (p.port ≠ .cp2) && primaryOnly op p.params) &&
    !((s.accepted op p).flt.safe && !safeOp op)

/-- The end of a command that replies PENDING: it counts as awaiting its final reply (15_commands R367, R387). -/
def pendCmd (w : Waiter) (s : State) : State :=
  ({ s with cmd := { s.cmd with awaiting := s.cmd.awaiting + 1 } } : State).firstReply w (mkReply w.opcode 1 0 w.tag []) none

/-- Nothing cuts the packet's work short: no cancel reaches it, and D0 accepts writes to its end (08_tables R221; 16_microcode R404). -/
def whole (p : Pkt) : Prop := p.cancelAt = none ∧ p.d0StopAt = none

/-- What an admitted packet that succeeds at once leaves: `t` is what its own work leaves, `r` its results. -/
def State.endsOk (s : State) (op : Nat) (p : Pkt) (t : State) (r : List Byte := []) : State := finishCmd (s.waiterOf op p) (ok t r)

/-- What an admitted packet that goes on with PENDING leaves. -/
def State.endsPending (s : State) (op : Nat) (p : Pkt) (t : State) : State := pendCmd (s.waiterOf op p) t

end Sys2Proof.Machine
end

