-- ==== Sys2Proof/Certificates/Slice0/Obligations.lean ====
section
/-!
DEFINITION. The statements for the provers.
-/

open Sys2Proof Sys2Proof.Machine

/-- The reading commands complete (15_commands R374, R378, R383, R387; 20_faults R497): each replies OK with its results. -/
def Obligations.SystemReadsComplete : Prop :=
  (∀ (s : State) (p : Pkt), s.admits 0x0001 p (lenIs 0) = true →
    exec (.nop p) s = .next (s.endsOk 0x0001 p (s.running 0x0001 p))) ∧
  (∀ (s : State) (p : Pkt), s.admits 0x0002 p (lenIs 0) = true →
    exec (.identify p) s = .next (s.endsOk 0x0002 p (s.running 0x0002 p) (identifyBytes (s.running 0x0002 p)))) ∧
  (∀ (s : State) (p : Pkt), s.admits 0x0003 p (lenIs 0) = true →
    exec (.readState p) s = .next (s.endsOk 0x0003 p (s.running 0x0003 p) (readStateBytes (s.running 0x0003 p) p.port))) ∧
  (∀ (s : State) (p : Pkt), s.admits 0x0011 p (lenZero 8) = true →
    exec (.monitorRead p) s = .next (s.endsOk 0x0011 p (s.running 0x0011 p) (monitorBytes (s.running 0x0011 p)))) ∧
  (∀ (s : State) (p : Pkt), s.admits 0x0702 p (lenIs 0) = true →
    exec (.counterRead p) s = .next (s.endsOk 0x0702 p (s.running 0x0702 p) (counterBytes (s.running 0x0702 p))))

/-- KEY_INSTALL and KEY_RETIRE complete (15_commands R376, R377). -/
def Obligations.KeySlotsComplete : Prop :=
  (∀ (s : State) (p : Pkt) (key : List Byte), s.admits 0x0700 p wfKeyInstall = true →
    keyUnwrap (s.running 0x0700 p).wrapKey (sliceAt p.params 24 40) = some key →
    ((s.running 0x0700 p).key (fld (img p.params) 0 3)).key = none →
    exec (.keyInstall p) s = .next (s.endsOk 0x0700 p ((s.running 0x0700 p).modKey (fld (img p.params) 0 3) fun k =>
      { k with key := some key
               epoch := if fld (img p.params) 0 3 ≤ 4 then BitVec.ofNat 128 (leAt p.params 8 16) else 0
               counter := 0 }))) ∧
  (∀ (s : State) (p : Pkt), s.admits 0x0701 p wfKeyRetire = true →
    (s.running 0x0701 p).sealKeyNamed (fld (img p.params) 0 3) = false →
    exec (.keyRetire p) s = .next (s.endsOk 0x0701 p ((s.running 0x0701 p).modKey (fld (img p.params) 0 3) fun _ =>
      KeySlot.init)))

/-- SELFTEST starts PENDING with each op, and ends with its pass and fail masks (20_faults R498; 14_dram R360). -/
def Obligations.SelftestsComplete : Prop :=
  (∀ (s : State) (p : Pkt) (op : Nat) (c : Instr), (op, c) ∈ [(0, Instr.selftestMonitors p), (2, .selftestDramResweep p),
      (3, .selftestDramBist p), (4, .selftestSerdesPrbs p), (5, .selftestPipeline p)] →
    s.admits 0x0010 (forceOp p 0 8 op) wfSelftest = true →
    (s.running 0x0010 (forceOp p 0 8 op)).selftest = none →
    byteAt (forceOp p 0 8 op).params 0 = op →
    (s.running 0x0010 (forceOp p 0 8 op)).selftestAllowed op (leAt (forceOp p 0 8 op).params 8 8) = true →
    exec c s =
      .next (s.endsPending 0x0010 (forceOp p 0 8 op) { s.running 0x0010 (forceOp p 0 8 op) with
        selftest := some { op := op, target := BitVec.ofNat 64 (leAt (forceOp p 0 8 op).params 8 8),
                           waiter := s.waiterOf 0x0010 (forceOp p 0 8 op) } })) ∧
  (∀ (s : State) (p : Pkt), s.admits 0x0010 (forceOp p 0 8 1) wfSelftest = true →
    (s.running 0x0010 (forceOp p 0 8 1)).selftest = none → byteAt (forceOp p 0 8 1).params 0 = 1 →
    exec (.selftestFaultInject p) s =
      .next (s.endsPending 0x0010 (forceOp p 0 8 1)
        ((({ s.running 0x0010 (forceOp p 0 8 1) with
          selftest := some { op := 1, target := BitVec.ofNat 64 (leAt (forceOp p 0 8 1).params 8 8),
                             waiter := s.waiterOf 0x0010 (forceOp p 0 8 1) } } : State).modLine
            (leAt (forceOp p 0 8 1).params 8 8) fun l => { l with count := l.count + 1 }).actAt
              (leAt (forceOp p 0 8 1).params 8 8) 0 1))) ∧
  (∀ (s : State) (r : SelftestRun) (pass : BitVec 64) (sweeps : List (Fin 16 × Training)), s.selftest = some r →
    r.op = 0 ∨ r.op = 1 →
    exec (.selftestComplete pass sweeps) s =
      .next (({ s with selftest := none } : State).complete r.waiter 0 0
        (bytesLe 8 (selftestMask r.op r.target.toNat &&& pass.toNat) ++
          bytesLe 8 (selftestMask r.op r.target.toNat &&&
            (selftestMask r.op r.target.toNat ^^^ (selftestMask r.op r.target.toNat &&& pass.toNat)))))) ∧
  (∀ (s u v : State) (r : SelftestRun) (pass : BitVec 64) (sweeps : List (Fin 16 × Training)) (m ok : Nat), s.selftest = some r →
    2 ≤ r.op → m = selftestMask r.op r.target.toNat → ok = s.selftestPass r.op pass.toNat sweeps →
    (if r.op = 2 then (List.range 16).foldl (fun (t : State) k => if bitAt m k then t.resweepEnd k sweeps else t)
      { s with selftest := none } else { s with selftest := none }) = u →
    (List.range 48).foldl (fun (t : State) n => t.modLine n fun l =>
      { l with countedUntil := some (t.nowPs + l.windowMs * msPs) }) u = v →
    exec (.selftestComplete pass sweeps) s =
      .next (v.complete r.waiter 0 0 (bytesLe 8 (m &&& ok) ++ bytesLe 8 (m &&& (m ^^^ (m &&& ok))))))

/-- TT_LOAD and TT_QUERY complete (02_timetable R62, R63, R71; 15_commands R386). -/
def Obligations.TimetableLoads : Prop :=
  (∀ (s u : State) (p : Pkt) (b : List Byte), s.admits 0x0100 p wfTtLoad = true → s.running 0x0100 p = u → u.tt.act = none →
    (leAt p.params 0 4 = 0 ∧ b = p.params.drop 8) ∨ (leAt p.params 0 4 ≠ 0 ∧ u.tt.shadowState = .loading ∧
      leAt p.params 0 4 = u.tt.shadow.length ∧ b = u.tt.shadow ++ p.params.drop 8) →
    (leAt p.params 4 4 = 0 → exec (.ttLoad p) s = .next (s.endsOk 0x0100 p (u.setShadow b .loading))) ∧
    (leAt p.params 4 4 = 1 → exec (.ttLoad p) s = .next (match checkImage b with
      | none => s.endsOk 0x0100 p (u.setShadow b .checked)
      | some e => finishCmd (s.waiterOf 0x0100 p) (badLength (u.setShadow b .failed) e)))) ∧
  (∀ (s u : State) (p : Pkt), s.admits 0x0100 p wfTtLoad = true → s.running 0x0100 p = u → u.tt.act = none →
    leAt p.params 0 4 ≠ 0 →
    (u.tt.shadowState = .loading → leAt p.params 0 4 ≠ u.tt.shadow.length →
      exec (.ttLoad p) s =
        .next (finishCmd (s.waiterOf 0x0100 p) (badLength (u.setShadow u.tt.shadow .failed) 0x0B))) ∧
    (u.tt.shadowState ≠ .loading →
      exec (.ttLoad p) s = .next (finishCmd (s.waiterOf 0x0100 p) (badLength u 0x0B)))) ∧
  (∀ (s : State) (p : Pkt), s.admits 0x0102 p (lenIs 0) = true →
    exec (.ttQuery p) s = .next (s.endsOk 0x0102 p (s.running 0x0102 p) (ttQueryBytes (s.running 0x0102 p))))

/-- TT_ACTIVATE with each mode completes (02_timetable R65, R66). -/
def Obligations.ActivationStarts : Prop :=
  (∀ (s : State) (p : Pkt) (mode : Nat) (c : Instr), (mode, c) ∈ [(0, Instr.ttActivateWarm p), (1, .ttActivateCold p)] →
    s.admits 0x0101 (forceOp p 0 2 mode) wfTtActivate = true →
    fld (img (forceOp p 0 2 mode).params) 0 2 = mode →
    (s.running 0x0101 (forceOp p 0 2 mode)).activationError (mode = 0)
      ((s.running 0x0101 (forceOp p 0 2 mode)).resolveRound (forceOp p 0 2 mode).params)
      (sliceAt (forceOp p 0 2 mode).params 16 16) = none →
    exec c s =
      .next (s.endsPending 0x0101 (forceOp p 0 2 mode)
        { s.running 0x0101 (forceOp p 0 2 mode) with
          tt := { (s.running 0x0101 (forceOp p 0 2 mode)).tt with
            act := some {
              phase := .armed
              n := BitVec.ofNat 64 ((s.running 0x0101 (forceOp p 0 2 mode)).resolveRound (forceOp p 0 2 mode).params)
              warm := decide (mode = 0)
              waiter := s.waiterOf 0x0101 (forceOp p 0 2 mode)
              headsDrained := false } } })) ∧
  (∀ (s : State) (p : Pkt) (a : Activation), s.admits 0x0101 (forceOp p 0 2 2) wfTtActivate = true →
    fld (img (forceOp p 0 2 2).params) 0 2 = 2 →
    (s.running 0x0101 (forceOp p 0 2 2)).flt.safe = false → (s.running 0x0101 (forceOp p 0 2 2)).flt.graceEnd = none →
    (s.running 0x0101 (forceOp p 0 2 2)).tt.act = some a → a.phase = .armed →
    (s.running 0x0101 (forceOp p 0 2 2)).tt.round.toNat + 4 < a.n.toNat →
    exec (.ttActivateCancel p) s =
      .next (s.endsOk 0x0101 (forceOp p 0 2 2)
        (({ s.running 0x0101 (forceOp p 0 2 2) with
          tt := { (s.running 0x0101 (forceOp p 0 2 2)).tt with act := none } } : State).complete a.waiter 0x14 0x0C [])))

/-- The events of an activation (02_timetable R66 to R68). -/
def Obligations.ActivationRuns : Prop :=
  (∀ (s : State) (a : Activation), s.tt.act = some a → a.phase = .armed → a.n.toNat ≤ s.tt.round.toNat + 4 →
    exec .activationCommit s = .next { s with tt := { s.tt with act := some { a with phase := .committed } } }) ∧
  (∀ (s : State) (a : Activation), s.tt.act = some a → a.phase ≠ .draining → a.n.toNat ≤ s.tt.round.toNat →
    ∃ t : State, exec .activationSwitch s = .next t.settleModes ∧ t.tt.active = some s.tt.shadow ∧ t.tt.old = s.tt.active ∧
      t.tt.act = some { a with phase := .draining } ∧
      t.tt.unswitched = ((List.finRange 512).filter fun lp => bitAt (portSwitch s.tt.shadow lp.val) 31) ∧
      t.tt.inWindow = t.tt.unswitched ∧
      t.flow = { s.flow with
        inPass := s.flow.inPass.map fun x => (x.1, x.2.1, { x.2.2 with oldImage := true })
        arb := s.flow.arb.map fun x => { x with frame := { x.frame with oldImage := true } } } ∧
      t = { s with tt := t.tt, flow := t.flow }) ∧
  (∀ (s : State) (a : Activation), s.tt.act = some a → a.phase = .draining → s.oldHeads = false → s.tt.unswitched = [] →
    exec .activationDrained s =
      .next (({ s with tt := { s.tt with act := none, old := none } } : State).complete a.waiter 0 0 [])) ∧
  (∀ (s u : State) (lp : Fin 512), lp ∈ s.tt.unswitched → s.switchReached lp = true → s.reach (s.switchInstant lp.val) = u →
    (s.fifoEmpty lp = true → exec (.portSwitchPosition lp) s = .next { u with tt := { u.tt with
      unswitched := u.tt.unswitched.filter (· != lp), inWindow := u.tt.inWindow.filter (· != lp) } }) ∧
    (s.fifoEmpty lp = false → exec (.portSwitchPosition lp) s = .next { u with tt := { u.tt with
      unswitched := u.tt.unswitched.filter (· != lp) } })) ∧
  (∀ (s : State) (lp : Fin 512), lp ∈ s.tt.inWindow → lp ∉ s.tt.unswitched → s.fifoEmpty lp = true →
    exec (.transitionWindowClose lp) s = .next { s with tt := { s.tt with inWindow := s.tt.inWindow.filter (· != lp) } })

/-- TBL_WRITE, TBL_PAIR_WRITE, TBL_MOVE and TBL_BULK_WRITE complete (08_tables R220, R223; 07_match R186). -/
def Obligations.TableWritesComplete : Prop :=
  (∀ (s t : State) (p : Pkt), s.admits 0x0200 p wfTblWrite = true → whole p → (s.running 0x0200 p).d0Writable = true →
    (tblHeader p.params).table ≠ 2 → (tblHeader p.params).table ≠ 0x14 →
    (s.running 0x0200 p).writeEntry (tblHeader p.params).table (tblHeader p.params).gen (tblHeader p.params).index
      (writtenData p.params) = .ok t →
    exec (.tblWrite p) s = .next (s.endsOk 0x0200 p t)) ∧
  (∀ (s t : State) (p : Pkt), s.admits 0x0201 p wfTblPairWrite = true → whole p → (s.running 0x0201 p).d0Writable = true →
    (s.running 0x0201 p).writePair (tblHeader p.params).table (tblHeader p.params).index (pairKey p.params)
      (pairData p.params) = .ok t →
    exec (.tblPairWrite p) s = .next (s.endsOk 0x0201 p t)) ∧
  (∀ (s t : State) (p : Pkt), s.admits 0x0203 p wfTblMove = true → whole p → (s.running 0x0203 p).d0Writable = true →
    (s.running 0x0203 p).writePair (tblHeader p.params).table (tblHeader p.params).index
      ((s.running 0x0203 p).master (tblHeader p.params).table 0 (tblHeader p.params).aux % 2 ^ 640)
      ((s.running 0x0203 p).master (tblHeader p.params).table 0 (tblHeader p.params).aux / 2 ^ 640) = .ok t →
    exec (.tblMove p) s = .next (s.endsOk 0x0203 p t)) ∧
  (∀ (s t : State) (p q : Pkt), q = forceOp p 12 2 0 → s.admits 0x0205 q wfTblBulk = true → whole p →
    (s.running 0x0205 q).d0Writable = true → (tblHeader q.params).form = 0 →
    (s.running 0x0205 q).bulkGo q.params (tblHeader q.params).table (tblHeader q.params).index (tblHeader q.params).aux 0 = (t, none) →
    exec (.tblBulkWrite p) s = .next (s.endsOk 0x0205 q t)) ∧
  (∀ (s u : State) (p : Pkt) (ns : List Nat), s.admits 0x0200 p wfTblWrite = true → s.running 0x0200 p = u → whole p →
    u.d0Writable = true → (tblHeader p.params).table = 0x14 → u.pool.recount = none →
    (List.range 65).filter (bitAt (writtenData p.params)) = ns →
    (ns = [] → exec (.tblWrite p) s = .next (s.endsOk 0x0200 p u)) ∧
    (ns ≠ [] → exec (.tblWrite p) s = .next (s.endsPending 0x0200 p (u.startRecount ns [s.waiterOf 0x0200 p]))))

/-- PREFIX_INSERT, PREFIX_DELETE and TBL_BULK_RELAYOUT complete (07_match R190, R191; 08_tables R223). -/
def Obligations.PrefixWritesComplete : Prop :=
  (∀ (s : State) (p q : Pkt) (c : Instr) (z h m : Nat), q = forceOp (forceOp p 0 8 2) 12 2 0 →
    c = .prefixInsert p ∨ c = .tblWrite q → s.admits 0x0200 q wfTblWrite = true → whole p →
    (s.running 0x0200 q).d0Writable = true → (tblHeader q.params).table = 2 → (tblHeader q.params).form = 0 →
    (s.running 0x0200 q).insertPlan (writtenData q.params) = .withShim z h m →
    exec c s = .next (s.endsOk 0x0200 q
      (((s.running 0x0200 q).loosen (pfxGen (writtenData q.params))).insertAll (writtenData q.params) z h))) ∧
  (∀ (s : State) (p q : Pkt) (c : Instr) (u : Nat), q = forceOp (forceOp p 0 8 2) 12 2 0 →
    c = .prefixInsert p ∨ c = .tblWrite q → s.admits 0x0200 q wfTblWrite = true → whole p →
    (s.running 0x0200 q).d0Writable = true → (tblHeader q.params).table = 2 → (tblHeader q.params).form = 0 →
    (s.running 0x0200 q).insertPlan (writtenData q.params) = .inPlace u →
    exec c s = .next (s.endsOk 0x0200 q
      (((s.running 0x0200 q).loosen (pfxGen (writtenData q.params))).writeControl (pfxPair (writtenData q.params)) u
        (newData ((s.running 0x0200 q).unitOf (pfxPair (writtenData q.params)) u) (writtenData q.params))))) ∧
  (∀ (s : State) (p q : Pkt) (c : Instr) (u : Nat), q = forceOp (forceOp p 0 8 2) 12 2 1 →
    c = .prefixDelete p ∨ c = .tblWrite q → s.admits 0x0200 q wfTblWrite = true → whole p →
    (s.running 0x0200 q).d0Writable = true → (tblHeader q.params).table = 2 → (tblHeader q.params).form = 1 →
    (s.running 0x0200 q).equalUnit (writtenData q.params) = some u →
    exec c s = .next (s.endsOk 0x0200 q
      (((s.running 0x0200 q).loosen (pfxGen (writtenData q.params))).writeControl (pfxPair (writtenData q.params)) u
        (setFld ((s.running 0x0200 q).unitOf (pfxPair (writtenData q.params)) u) 137 1 0)))) ∧
  (∀ (s : State) (p q : Pkt) (l : Layout), q = forceOp (forceOp p 0 8 2) 12 2 1 → s.admits 0x0205 q wfTblBulk = true → whole p →
    (s.running 0x0205 q).d0Writable = true → (tblHeader q.params).form = 1 →
    (s.running 0x0205 q).layout (fld (tblHeader q.params).aux 0 18) (fld (tblHeader q.params).aux 24 8) = some l →
    exec (.tblBulkRelayout p) s =
      (let t := l.steps.foldl (fun (u : State) x => u.layStep x) (s.running 0x0205 q)
       .next (s.endsOk 0x0205 q { t with tables := { t.tables with
         pairRows := fld (tblHeader q.params).aux 0 18, shimInterval := fld (tblHeader q.params).aux 24 8,
         pairZones := l.pairZones, singleZones := l.singleZones } })))

/-- TBL_READ completes from each source (08_tables R222). -/
def Obligations.TableReadsComplete : Prop :=
  (∀ (s u : State) (p : Pkt), s.admits 0x0202 p wfTblRead = true → s.running 0x0202 p = u →
    stateTable (tblHeader p.params).table = true →
    exec (.tblRead p) s = .next (s.endsOk 0x0202 p
      (if (tblHeader p.params).table = 0x15 then { u with pool := { u.pool with logUnread := 0 } } else u)
      (stateTableBytes u (tblHeader p.params).table (tblHeader p.params).index))) ∧
  (∀ (s u t : State) (p : Pkt), s.admits 0x0202 p wfTblRead = true → s.running 0x0202 p = u →
    stateTable (tblHeader p.params).table = false → (tblHeader p.params).source = 0 →
    (u.cab.paused = true → exec (.tblRead p) s = .next (finishCmd (s.waiterOf 0x0202 p) (busy u))) ∧
    (∀ e, u.cab.paused = false →
      u.readMaster (tblHeader p.params).table (tblHeader p.params).gen (tblHeader p.params).index = (t, some e) →
      exec (.tblRead p) s = .next (s.endsOk 0x0202 p t (u.entryBytes u.tables.master (tblHeader p.params)))) ∧
    (u.cab.paused = false →
      u.readMaster (tblHeader p.params).table (tblHeader p.params).gen (tblHeader p.params).index = (t, none) →
      exec (.tblRead p) s = .next (finishCmd (s.waiterOf 0x0202 p) { st := t, status := 0x30 }))) ∧
  (∀ (s u : State) (p : Pkt), s.admits 0x0202 p wfTblRead = true → s.running 0x0202 p = u →
    stateTable (tblHeader p.params).table = false → (tblHeader p.params).source ≠ 0 →
    exec (.tblRead p) s = .next (s.endsOk 0x0202 p
      (if u.tt.active.isSome ∧ (servicePort (tblHeader p.params).table).isSome then
        u.tick 0x68 (15 + (tblHeader p.params).source) else u)
      (u.entryBytes (u.quad ((tblHeader p.params).source - 1)).rep (tblHeader p.params))))

/-- A generation swap from its command to its reply (08_tables R230). -/
def Obligations.GenerationSwapRuns : Prop :=
  (∀ (s : State) (p : Pkt), s.admits 0x0204 p (lenZero 8) = true → whole p → (s.running 0x0204 p).tables.swap = none →
    (s.running 0x0204 p).d0Writable = true →
    exec (.genSwap p) s =
      (let u := (s.running 0x0204 p).setMaster 0xF3 0 0 (b1 (!(s.running 0x0204 p).currentGen))
       .next (s.endsPending 0x0204 p { u with tables := { u.tables with
         swap := some { s := u.tt.round + 2, newGen := !(s.running 0x0204 p).currentGen, waiter := some (s.waiterOf 0x0204 p),
                        draining := false, loose := false } } }))) ∧
  (∀ (s : State) (w : GenSwapState), s.tables.swap = some w → w.draining = false → w.s ≤ s.tt.round →
    ∃ t, exec .genSwapBoundary s = .next t ∧ (∀ q ∈ t.tables.quads, q.gen = w.newGen) ∧
      t = { s with tables := { s.tables with
        quads := s.tables.quads.map fun q => { q with gen := w.newGen }
        swap := some { w with draining := true } } }) ∧
  (∀ (s : State) (w : GenSwapState), s.tables.swap = some w → w.draining = true → s.pinned (!w.newGen) = false →
    (∀ x, w.waiter = some x → exec .genSwapDrained s =
      .next (({ s with tables := { s.tables with swap := none } } : State).complete x 0 0
        (bytesLe 8 w.s.toNat ++ bytesLe 8 (b1 w.newGen)))) ∧
    (w.waiter = none → exec .genSwapDrained s =
      .next (({ s with tables := { s.tables with swap := none } } : State).emit (.linkReq (.digest 18)))))

/-- Learning, ageing, scrubbing and repair (08_tables R215, R218, R219, R225, R226; 02_timetable R41). -/
def Obligations.LearningAndAgeing : Prop :=
  (∀ (s t : State) (q : Fin 4) (c : Fin 1024), s.maintenance q.val 0 2 c.val = some t →
    (∀ x r, (t.quad q).removals = x :: r →
      exec (.learningSlot q c) s = .next ((t.tick 0x69 (16 + q.val)).ageRemove q (s.absCycle c.val) x)) ∧
    (∀ p, (t.quad q).removals = [] → learnOn (t.quadBlock q) = true → (t.quad q).plan = some p →
      exec (.learningSlot q c) s = .next ((t.tick 0x69 (16 + q.val)).learnWrite q (s.absCycle c.val) p)) ∧
    (∀ x r, (t.quad q).removals = [] → learnOn (t.quadBlock q) = true → (t.quad q).plan = none → (t.quad q).lqueue = x :: r →
      x.fcsOk = some true →
      exec (.learningSlot q c) s =
        .next (((t.modQuad q fun u => { u with lqueue := r }).tick 0x69 (16 + q.val)).learnSearch q (s.absCycle c.val) x))) ∧
  (∀ (s : State) (p : Pkt), s.admits 0x0206 p wfAgeScan = true → (s.running 0x0206 p).tables.scan = none →
    exec (.ageScan p) s = .next (s.endsPending 0x0206 p { s.running 0x0206 p with tables := { (s.running 0x0206 p).tables with
      scan := some {
        waiter := s.waiterOf 0x0206 p, limit := fld (img p.params) 16 16, remove := bitAt (img p.params) 4, next := []
        quads := (List.finRange 4).filter fun q => bitAt (img p.params) q.val, rowsRead := 0, rowsRemoved := 0 } } })) ∧
  (∀ (s t : State) (q : Fin 4) (c : Fin 1024) (a : AgeScan), s.tables.scan = some a → q ∈ a.quads →
    s.maintenance q.val 0 4 c.val = some t →
    ∃ u b, exec (.ageingRead q c) s = .next u ∧ u.tables.scan = some b ∧ b.rowsRead = a.rowsRead + 1 ∧
      b.next = tset 0 a.next q.val (tget 0 a.next q.val + 1)) ∧
  (∀ (s : State) (a : AgeScan), s.tables.scan = some a → a.quads = [] → (s.tables.quads.all fun u => u.removals.isEmpty) = true →
    exec .ageScanComplete s = .next (({ s with tables := { s.tables with scan := none } } : State).complete a.waiter 0 0
      (bytesLe 8 a.rowsRead ++ bytesLe 8 a.rowsRemoved))) ∧
  (∀ (s u : State) (q : Fin 4) (t : TableId) (i : Nat) (c : Fin 1024), i < memSize t → t ≠ .automata →
    s.memSlot q.val t 3 c.val = some u →
    (associative t = true → exec (.scrubSlot q t i c .corrected .clean) s =
      .next ((u.tick 0x6A (16 + q.val)).tick 0x60 (16 + q.val))) ∧
    exec (.scrubSlot q t i c .clean .corrected) s = .next ((u.tick 0x6A (16 + q.val)).tick 0x5D (16 + q.val))) ∧
  (∀ (s u v : State) (q : Fin 4) (t : TableId) (b code gen block : Nat) (c : Fin 1024) (rows : List Nat), s.d0Writable = true →
    memBlock t b = (code, gen, block) → s.blockRows code block ≠ [] → s.tables.damaged = [] →
    s.blockQueued q.val code gen block (s.absCycle c.val) = false → s.memSlot q.val t 5 c.val = some u →
    (if t = .automata then u else u.tick 0x6C (16 + q.val)).blockRows code block = rows →
    (if t = .automata then u else u.tick 0x6C (16 + q.val)).repairSlots q.val t (rows.length - 1) = v →
    v.blockDigest v.tables.master code gen block ≠ v.blockDigest (v.quad q).rep code gen block →
    exec (.replicaRepair q t b c false) s =
      .next ((((rows.foldl (fun (x : State) i => x.slotWrite q.val 5 0x6C (tkey code gen i) (x.master code gen i)) v).modQuad q
        fun x => { x with marked := unmark x.marked (tkey code gen block) }).repairSlots q.val t rows.length).tick 0x62
          (16 + q.val)))

/-- PORT_CONFIG, PORT_STATUS and STATS_READ complete (04_line R97, R99, R115; 15_commands R388). -/
def Obligations.PortCommandsComplete : Prop :=
  (∀ (s : State) (p : Pkt), s.admits 0x0300 p wfPortConfig = true → p.cancelAt = none →
    (s.running 0x0300 p).calibrating (fld (le (p.params.take 8)) 0 6) = false →
    (fld (le (p.params.take 8)) 8 2 = ((s.running 0x0300 p).macro_ (fld (le (p.params.take 8)) 0 6)).mode.toNat ∨
      ((s.running 0x0300 p).macroUp (fld (le (p.params.take 8)) 0 6) = false ∧ (s.running 0x0300 p).tt.act = none)) →
    exec (.portConfig p) s = .next (s.endsOk 0x0300 p
      (((portBlocks p.params).foldl
        (fun (u : State) x => u.applyBlock (lpOf (fld (le (p.params.take 8)) 0 6) (fld (le (p.params.take 8)) 8 2) x.1) (le x.2))
        ((s.running 0x0300 p).applyHeader (fld (le (p.params.take 8)) 0 6) (fld (le (p.params.take 8)) 8 2)
          (BitVec.ofNat 8 (byteAt p.params 3)) (BitVec.ofNat 8 (byteAt p.params 4)))).settleIsland
            (fld (le (p.params.take 8)) 0 6)))) ∧
  (∀ (s : State) (p : Pkt), s.admits 0x0301 p wfPortStatus = true →
    exec (.portStatus p) s = .next (s.endsOk 0x0301 p (s.running 0x0301 p)
      (portStatusBytes (s.running 0x0301 p) (queryPort p.params)))) ∧
  (∀ (s : State) (p : Pkt), s.admits 0x0302 p wfStatsRead = true → queryPort p.params ≠ 512 →
    exec (.statsRead p) s = .next (if bitAt (img p.params) 16 then
      s.endsOk 0x0302 p (s.running 0x0302 p) (statsBytes ((s.running 0x0302 p).port (queryPort p.params)).statsSnap
        ((s.running 0x0302 p).port (queryPort p.params)).statsSnapNo.toNat)
    else s.endsOk 0x0302 p ((s.running 0x0302 p).modPort (queryPort p.params) fun q => { q with stats := [] })
      (statsBytes ((s.running 0x0302 p).port (queryPort p.params)).stats 0))) ∧
  (∀ (s : State) (p : Pkt), s.admits 0x0302 p wfStatsRead = true → queryPort p.params = 512 →
    exec (.statsRead p) s = .next (if bitAt (img p.params) 16 then
      s.endsOk 0x0302 p (s.running 0x0302 p) (statsBytes (s.running 0x0302 p).mgmt.statsSnap
        (s.running 0x0302 p).mgmt.snapNo.toNat)
    else s.endsOk 0x0302 p { s.running 0x0302 p with mgmt := { (s.running 0x0302 p).mgmt with stats := [] } }
      (statsBytes (s.running 0x0302 p).mgmt.stats 0)))

/-- The bring-up events (04_line R94, R95, Table 4.3; 02_timetable R70). -/
def Obligations.BringupRuns : Prop :=
  (∀ (s : State) (lp : Fin 512), (s.port lp.val).st = .waking → s.islandDown (macroOf lp.val) = false →
    (s.macro_ (macroOf lp.val)).serdesUp = true →
    exec (.portBringupDone lp true) s = .next ((s.modPort lp.val fun p => { p with lanesUp := true }).bringup lp.val)) ∧
  (∀ (s : State) (lp : Fin 512), (s.port lp.val).st = .an →
    exec (.portBringupDone lp true) s =
      .next (s.setPortState lp.val (if bitAt (s.port lp.val).cfg 13 then .training else .align))) ∧
  (∀ (s : State) (lp : Fin 512), (s.port lp.val).st = .training →
    exec (.portBringupDone lp true) s = .next (s.setPortState lp.val .align) ∧
    exec (.portBringupDone lp false) s = .next (s.fallBack lp.val)) ∧
  (∀ (s : State) (lp : Fin 512), (s.port lp.val).st = .align →
    exec (.portBringupDone lp true) s =
      .next (s.setPortState lp.val (if s.planAgrees (macroOf lp.val) then .up else .modeBlocked))) ∧
  (∀ (s u : State) (lp : Fin 512), (s.port lp.val).st = .align → s.due ((s.port lp.val).alignAt + 10 * msPs) = true →
    (s.reach ((s.port lp.val).alignAt + 10 * msPs)).fallBack lp.val = u →
    exec (.alignTimeout lp) s = .next (u.modPort lp.val fun p => { p with lastChange := u.tt.round, alignAt := u.nowPs })) ∧
  (∀ (s : State) (lp : Fin 512), s.isUp lp.val = true → exec (.linkLoss lp) s = .next (s.fallBack lp.val)) ∧
  (∀ (s : State) (lp : Nat), (s.port lp).woken = true →
    s.fallBack lp = ((s.leaveUp lp .lowPower false).modPort lp fun p =>
      { p with woken := false, wakeArmed := true, wakeFired := false, lanesUp := false }).settleIsland (macroOf lp)) ∧
  (∀ (s : State) (lp : Nat), (s.port lp).woken = false → (s.macro_ (macroOf lp)).pllFault = false →
    (s.macro_ (macroOf lp)).shed = false → s.islandDown (macroOf lp) = false → (s.macro_ (macroOf lp)).serdesUp = true →
    (s.port lp).lanesUp = true → s.planAgrees (macroOf lp) = true →
    s.fallBack lp = s.leaveUp lp (firstBringup (s.port lp).cfg) false)

/-- The FEC check, the wake detector and the power of the islands (04_line R96, R117; 03_islands R88). -/
def Obligations.PortPowerRuns : Prop :=
  (∀ (s : State) (lp : Fin 512) (sy cw bad be : Nat), s.isUp lp.val = true →
    exec (.fecDegradeCheck lp sy cw bad be) s = .next (
      let c := (((s.stat lp.val 0x1A8 sy).stat lp.val 0x198 cw).stat lp.val 0x1A0 bad).stat lp.val 0x1B0 be
      let limit := c.pcfg lp.val 176 16 * 1024
      let d := c.modPort lp.val fun q => { q with degraded := decide (0 < limit) && decide (limit < sy) }
      if 0 < limit ∧ limit < sy ∧ (c.port lp.val).degraded = false then d.portEvent lp.val else d)) ∧
  (∀ (s : State) (lp : Fin 512), (s.port lp.val).st = .lowPower → (s.port lp.val).wakeArmed = true →
    (s.port lp.val).calRun = none →
    exec (.wakeDetect lp) s = .next (
      let d := (s.modPort lp.val fun q => { q with wakeArmed := false, wakeFired := true }).portEvent lp.val
      if bitAt (s.port lp.val).cfg 2 then (d.modPort lp.val fun q => { q with woken := true }).bringup lp.val else d)) ∧
  (∀ (s : State) (lp : Fin 512), (s.port lp.val).st = .lowPower → (s.port lp.val).wakeFired = true →
    (s.port lp.val).calRun = none →
    exec (.wakeDetectorRearm lp) s = .next (s.modPort lp.val fun q => { q with wakeArmed := true, wakeFired := false })) ∧
  (∀ (s : State) (m : Fin 64), s.flt.safe = false ∨ s.flt.thermtripN = false →
    s.islandNeeded m.val = true ∨ s.calibrating m.val = true →
    exec (.islandPowerUp m) s = .next (({ s with tt := { s.tt with
      islandsDown := s.tt.islandsDown.filter fun k => k.val != m.val
      pllLost := s.tt.pllLost.filter fun i => i.val != 16 + m.val } } : State).wakePorts m.val))

/-- The pause events (04_line R110 to R114; log entry 123 for the pauses still to come at a trip). -/
def Obligations.PauseRuns : Prop :=
  (∀ (s : State) (lp : Fin 512) (classes : BitVec 8) (quanta : List (BitVec 16)) (a : Fin 3277),
    (s.at_ a.val).isUp lp.val = true → (s.at_ a.val).flt.safe = false → (s.at_ a.val).pcfg lp.val 48 2 = 1 →
    exec (.pauseReceive lp 1 classes quanta a) s =
      .next (if (s.at_ a.val).inHoldoff lp.val 8 then (s.at_ a.val).stat lp.val 0x190
        else ((s.at_ a.val).stat lp.val 0x050).modPause lp.val 8 fun w =>
          { w with coming := w.coming ++ [((s.at_ a.val).nowPs + 20480, quanta.headD 0)] })) ∧
  (∀ (s u : State) (lp : Fin 512) (classes : BitVec 8) (quanta : List (BitVec 16)) (a : Fin 3277), s.at_ a.val = u →
    u.isUp lp.val = true → u.flt.safe = false → u.pcfg lp.val 48 2 = 2 → classes ≠ 0 →
    exec (.pauseReceive lp 0x0101 classes quanta a) s =
      .next ((List.range 8).foldl (fun (t : State) k => if bitAt classes.toNat k then
        (let v := t.stat lp.val (0x080 + 8 * k)
         if bitAt (v.pcfg lp.val 56 8) k then v.pauseArrive lp.val k (quanta.getD k 0) u.nowPs else v) else t) u)) ∧
  (∀ (s : State) (lp : Fin 512) (j : Fin 9) (x : Nat × BitVec 16),
    (∀ k < 9, k ≠ j.val → (tget PauseState.init (s.port lp.val).pause k).coming = []) →
    (tget PauseState.init (s.port lp.val).pause j.val).coming = [x] → s.due x.1 = true →
    exec (.pauseTakeEffect lp) s =
      .next ((s.reach x.1).modPause lp.val j.val fun w => 
        { w.take (quantumPs (s.modeOf lp.val)) x with coming := w.coming.filter fun y => y != x })) ∧
  (∀ (s : State) (lp : Fin 512) (k : Fin 9) (t : Nat), (tget PauseState.init (s.port lp.val).pause k.val).until_ = some t →
    s.due t = true →
    exec (.pauseExpiry lp k) s =
      .next ((s.reach t).modPause lp.val k.val fun w => { w with until_ := none, heldSince := none })) ∧
  (∀ (s : State) (lp : Fin 512) (k : Fin 9) (u h : Nat), (tget PauseState.init (s.port lp.val).pause k.val).until_ = some u →
    (tget PauseState.init (s.port lp.val).pause k.val).heldSince = some h → s.pcfg lp.val 128 16 ≠ 0 →
    s.due (h + s.pcfg lp.val 128 16 * msPs) = true → h + s.pcfg lp.val 128 16 * msPs ≤ u →
    exec (.pauseWatchdogTrip lp k) s =
      .next ((((s.reach (h + s.pcfg lp.val 128 16 * msPs)).modPause lp.val k.val fun w =>
        { w with until_ := none, heldSince := none, coming := []
                 holdoff := some (h + s.pcfg lp.val 128 16 * msPs + s.pcfg lp.val 144 16 * msPs) }).stat lp.val 0x188).portEvent
          lp.val)) ∧
  (∀ (s : State) (lp : Fin 512) (k : Fin 9) (t : Nat), (tget PauseState.init (s.port lp.val).pause k.val).holdoff = some t →
    s.due t = true →
    exec (.pauseHoldoffEnd lp k) s = .next ((s.reach t).modPause lp.val k.val fun w => { w with holdoff := none })) ∧
  (∀ (s : State) (lp : Fin 512) (k : Fin 9) (w : PauseState), s.isUp lp.val = true → s.flt.safe = false →
    tget PauseState.init (s.port lp.val).pause k.val = w →
    (w.txOn = true → s.pcfg lp.val 50 2 = (if k.val = 8 then 1 else 2) → w.txLast = none →
      exec (.pauseTx lp k) s = .next (s.pauseSend lp.val k.val (s.pcfg lp.val 160 16) (some s.nowPs))) ∧
    (∀ t e, w.txOn = true → s.pcfg lp.val 50 2 = (if k.val = 8 then 1 else 2) → w.txLast = some t →
      e = t + s.pcfg lp.val 160 16 * quantumPs (s.modeOf lp.val) / 2 → s.due e = true →
      exec (.pauseTx lp k) s =
        .next ((s.reach e).pauseSend lp.val k.val (s.pcfg lp.val 160 16) (some (max e s.nowPs)))) ∧
    (w.txOn = false → w.txLast.isSome = true →
      exec (.pauseTx lp k) s = .next (s.pauseSend lp.val k.val 0 none)))

/-- The drawer commands complete (13_cabinet R315 to R317, R330). -/
def Obligations.DrawersComplete : Prop :=
  (∀ (s : State) (p : Pkt), s.admits 0x0400 p wfDrawerOpen = true →
    ((s.running 0x0400 p).drawer (fld (img p.params) 0 6)).st = .empty → (s.running 0x0400 p).cab.paused = false →
    fld (img p.params) 64 64 + fld (img p.params) 128 64 ≤ (s.running 0x0400 p).installed → 2 ^ 30 ≤ fld (img p.params) 64 64 →
    (s.running 0x0400 p).overlaps (fld (img p.params) 64 64) (fld (img p.params) 64 64 + fld (img p.params) 128 64) = false →
    (fld (img p.params) 8 2 = 1 → ((s.running 0x0400 p).key (4 + fld (img p.params) 32 2)).key.isSome = true ∧
      (s.running 0x0400 p).openEvidence.length < 8) →
    exec (.drawerOpen p) s = .next (s.endsOk 0x0400 p (
      let d := fld (img p.params) 0 6
      let o := (s.running 0x0400 p).modDrawer d fun _ =>
        { Drawer.init with
          st := .opened
          typ := fld (img p.params) 8 2
          wrap := bitAt (img p.params) 10
          policy := BitVec.ofNat 8 (fld (img p.params) 24 8)
          sealKey := fld (img p.params) 32 2
          base := fld (img p.params) 64 64
          size := fld (img p.params) 128 64
          label := BitVec.ofNat 128 (fld (img p.params) 192 128) }
      (List.range 8).foldl (fun (u : State) c => if bitAt (img p.params) (16 + c) then
        u.modEvClass c fun e => { e with drawer := some d, dropUnrec := bitAt (img p.params) (24 + c) } else u)
        (if fld (img p.params) 8 2 = 1 then o.sealDrawer d 0 else o))
      (bytesLe 16 (s.running 0x0400 p).env.deviceId.toNat ++ bytesLe 16 (fld (img p.params) 192 128)))) ∧
  (∀ (s : State) (p : Pkt), s.admits 0x0401 p wfDrawer = true →
    ((s.running 0x0401 p).drawer (fld (img p.params) 0 6)).st = .opened →
    ((s.running 0x0401 p).drawer (fld (img p.params) 0 6)).waiter = none →
    exec (.drawerClose p) s = .next (s.endsPending 0x0401 p
      ((s.running 0x0401 p).modDrawer (fld (img p.params) 0 6) fun x =>
        { x with waiter := some (s.waiterOf 0x0401 p) })).settleCloses) ∧
  (∀ (s : State) (p : Pkt), s.admits 0x0402 p wfDrawer = true →
    ((s.running 0x0402 p).drawer (fld (img p.params) 0 6)).st = .closed →
    exec (.drawerErase p) s = .next (s.endsPending 0x0402 p
      ((s.running 0x0402 p).modDrawer (fld (img p.params) 0 6) fun x =>
        { x with st := .erasing, waiter := some (s.waiterOf 0x0402 p) }))) ∧
  (∀ (s : State) (d : Fin 64) (w : Waiter), (s.drawer d.val).st = .erasing → (s.drawer d.val).waiter = some w →
    s.cab.paused = false → s.flt.safe = false →
    exec (.drawerEraseDone d) s = .next
      (((s.zeroRange (s.drawer d.val).base (s.drawer d.val).size).modDrawer d.val fun _ => Drawer.init).complete w 0 0 [])) ∧
  (∀ (s : State) (n d : Fin 64) (v : BitVec 64), d.val ≠ 0 → n.val = 0 ∨ ((s.inst n.val).st ≠ .absent ∧
      (s.inst n.val).st ≠ .fencing ∧ bitAt (s.inst n.val).drawerMask.toNat d.val = true) →
    exec (.cabDrwRposWrite n d v) s = .next (s.modDrawer d.val fun w =>
      if (s.drawer d.val).rpos ≤ v.toNat ∧ v.toNat ≤ (s.drawer d.val).wpos then { w with rpos := v.toNat }
      else { w with rejected := true })) ∧
  (∀ (s : State) (n : Fin 64) (v : BitVec 64), exec (.cabDrwRposWrite n 0 v) s = .next s)

/-- Seals, staging, the replay entries and the replay server (13_cabinet R317, R326, R327, R331, R335, R336). -/
def Obligations.SealsAndReplayComplete : Prop :=
  (∀ (s u : State) (p : Pkt) (d : Nat) (x : State × List (Nat × Nat)), s.admits 0x0403 p wfDrawer = true →
    s.running 0x0403 p = u → fld (img p.params) 0 6 = d → u.cab.paused = false → d = 0 ∨ u.openEvidence.contains d = true →
    (if d = 0 then u.openEvidence else [d]).foldl sealStep (u, []) = x →
    exec (.sealNow p) s = .next (s.endsOk 0x0403 p x.1
      (bytesLe 8 x.2.length ++ (x.2.map fun y => bytesLe 8 y.1 ++ bytesLe 8 y.2).flatten))) ∧
  (∀ (s : State) (d : Fin 64) (a : Fin 3277), (s.at_ a.val).openEvidence.contains d.val = true →
    (s.at_ a.val).cab.paused = false → (s.at_ a.val).flt.safe = false →
    sealSpan ≤ ((s.at_ a.val).resTime + 2 ^ 64 - ((s.at_ a.val).drawer d.val).sealRes) % 2 ^ 64 →
    exec (.sealTimer d a) s = .next ((s.at_ a.val).sealDrawer d.val 2)) ∧
  (∀ (s u : State) (a : Fin 3277), s.at_ a.val = u → u.cab.paused = false → u.flt.safe = false →
    (∃ k < 16, u.chanOut k = false) →
    (u.cab.staging = [] → exec (.evidenceDrain a) s = .next { u with cab := { u.cab with captureBuf := 0 } }) ∧
    (u.cab.staging ≠ [] → u.drainRoom = true → exec (.evidenceDrain a) s = .next u.drainOne)) ∧
  (∀ (s : State) (p : Pkt) (op : Nat) (c : Instr),
    (op, c) ∈ [(0, Instr.replayConfigCapture p), (1, .replayConfigRequest p), (2, .replayConfigQuota p)] →
    s.admits 0x0404 (forceOp p 0 8 op) wfReplayConfig = true → whole p →
    (s.running 0x0404 (forceOp p 0 8 op)).d0Writable = true → replayOp (forceOp p 0 8 op).params = op →
    (op = 0 → (s.running 0x0404 (forceOp p 0 8 op)).ringFits (le ((forceOp p 0 8 op).params.drop 8)) = true) →
    exec c s = .next (s.endsOk 0x0404 (forceOp p 0 8 op) ((s.running 0x0404 (forceOp p 0 8 op)).setReplay op
      (replayIndex (forceOp p 0 8 op).params) (le ((forceOp p 0 8 op).params.drop 8))))) ∧
  (∀ (s u : State) (r : ReplayReq) (rest : List ReplayReq), s.cab.paused = false → s.flt.safe = false →
    s.cab.replayQ = r :: rest → ({ s with cab := { s.cab with replayQ := rest } } : State) = u →
    (bitAt (u.captureEntry r.feed) 0 = false → exec .replayServe s = .next (u.tick 0x94)) ∧
    (bitAt (u.captureEntry r.feed) 0 = true → u.requestEntry r.tmpl = none → exec .replayServe s = .next u) ∧
    (∀ e v x, bitAt (u.captureEntry r.feed) 0 = true → u.requestEntry r.tmpl = some e → r.count ≤ fld e 16 11 →
      u.replayRun e (u.captureEntry r.feed) r (r.count - r.done) = (v, x) →
      exec .replayServe s = .next { v with cab := { v.cab with replayQ := x.toList ++ v.cab.replayQ } }) ∧
    (∀ e v x, bitAt (u.captureEntry r.feed) 0 = true → u.requestEntry r.tmpl = some e → fld e 16 11 < r.count →
      (u.tick 0x95).replayRun e (u.captureEntry r.feed) { r with count := fld e 16 11 } (fld e 16 11 - r.done) = (v, x) →
      exec .replayServe s = .next { v with cab := { v.cab with replayQ := x.toList ++ v.cab.replayQ } }))

/-- PAUSE and RESUME of the Cabinet complete (14_dram R345, R357 to R359). -/
def Obligations.CabinetPausesAndResumes : Prop :=
  (∀ (s u : State) (p q : Pkt), q = forceOp p 0 8 0 → s.admits 0x0405 q wfCabinetPause = true → s.running 0x0405 q = u →
    fld (img q.params) 0 8 = 0 → u.cab.paused = false → u.cab.pauseWait = none →
    exec (.cabinetPause p) s = .next (s.endsPending 0x0405 q { u.sealAll 5 with cab := { (u.sealAll 5).cab with
      paused := true
      pauseWait := some (s.waiterOf 0x0405 q, false) } })) ∧
  (∀ (s u : State) (p q : Pkt), q = forceOp p 0 8 1 → s.admits 0x0405 q wfCabinetPause = true → s.running 0x0405 q = u →
    fld (img q.params) 0 8 = 1 → u.cab.paused = true → u.cab.initialising = false → u.cab.pauseWait = none →
    u.channelTest = false →
    exec (.cabinetResume p) s = .next (s.endsPending 0x0405 q
      { u with cab := { u.cab with pauseWait := some (s.waiterOf 0x0405 q, true) } })) ∧
  (∀ (s : State) (w : Waiter), s.cab.pauseWait = some (w, false) →
    exec .cabinetPauseDone s = .next
      ((({ s with cab := { s.cab with pauseWait := none } } : State).completeRequests.selfRefresh true).complete w 0 0 [])) ∧
  (∀ (s u v : State) (w : Waiter) (drifts : List (Fin 16 × List Int)), s.cab.pauseWait = some (w, true) →
    ({ s with cab := { s.cab with pauseWait := none, paused := false } } : State).selfRefresh false = u →
    (List.range 16).foldl (fun (t : State) k => if (t.chan k).admitted then t.modChan k fun c =>
      { c with st := .inService, cause := 0, errTimes := [], resweepOk := false, down := false, selfRefresh := false } else t) u = v →
    exec (.cabinetResumeDone drifts) s = .next ((v.calibrateRanks drifts).complete w 0 0 []).settleCloses ∧
    ∀ k < 16, (u.chan k).admitted = true → (v.chan k).st = .inService) ∧
  (∀ (s : State) (on : Bool), ∀ k < 16, s.chanOut k = false → ((s.selfRefresh on).chan k).selfRefresh = on)

/-- The DRAM events (14_dram R342 to R355). -/
def Obligations.DramRuns : Prop :=
  (∀ (s u : State) (k : Fin 16) (t : Training), 4 ≤ s.boot.phase → (s.chan k.val).st = .training →
    ({ s with boot := { s.boot with dramDone := s.boot.dramDone ||| (1 <<< k.val) } } : State).modChan k.val (fun c => c.settle t) = u →
    (trainingPasses (u.chan k.val).laneCount t = true → exec (.dramTrainingDone k t) s =
      .next (({ u with boot := { u.boot with dramTrained := u.boot.dramTrained ||| (1 <<< k.val) } } : State).modChan k.val
        fun c => { c with st := .initialising })) ∧
    (trainingPasses (u.chan k.val).laneCount t = false → exec (.dramTrainingDone k t) s = .next (u.chanFail k.val 3))) ∧
  (∀ s : State, s.cab.initialising = true → (∀ k < 16, (s.chan k).st ≠ .training) →
    ∃ t, exec .cabinetInitialised s = .next t ∧ t.cab.initialising = false ∧ t.cab.paused = false ∧
      t.boot.cabinetReady = true ∧ (∀ k < 16, (s.chan k).st = .initialising → (t.chan k).st = .inService) ∧
      t.cab.mem = s.cab.mem.filter fun c => s.chanOut (chanOf c.1)) ∧
  (∀ (s : State) (k : Fin 16) (drift : List Int), (s.chan k.val).st = .inService → (s.chan k.val).selfRefresh = false →
    ∃ t, exec (.dramRefresh k drift) s = .next t ∧ (t.chan k.val).refreshes = (s.chan k.val).refreshes + 1) ∧
  (∀ (s : State) (u : BitVec 36), (s.chan (chanOf (u.toNat * 64))).st = .inService →
    (s.chan (chanOf (u.toNat * 64))).selfRefresh = false →
    exec (.dramUncorrectable u 0) s = .next s ∧
    exec (.dramUncorrectable u 1) s =
      .next (s.modChan (chanOf (u.toNat * 64)) fun c => { c with corr := c.corr + 1 }) ∧
    exec (.dramUncorrectable u 2) s = .next (s.uncorrectable (u.toNat * 64))) ∧
  (∀ (s u : State) (a : Nat), ((s.modChan (chanOf a) fun c => { c with
      uncorr := c.uncorr + 1
      lastAddr := BitVec.ofNat 42 (a / 64 * 64)
      lastValid := true
      errTimes := s.nowPs :: (c.errTimes.filter fun t => decide (s.nowPs < t + secPs)) }).raise 1284) = u →
    s.uncorrectable a =
      (let v : State := { u with cab := { u.cab with bad := mark u.cab.bad (a / 64) } }
       if 16 ≤ (v.chan (chanOf a)).errTimes.length then v.chanFail (chanOf a) 4 else v)) ∧
  (∀ (s u : State) (k : Fin 16), (s.chan k.val).st = .inService → (s.chan k.val).selfRefresh = false →
    s.modChan k.val (fun c => { c with patrol := (c.patrol + 1) % max 1 (s.installed / 1024) }) = u →
    exec (.patrolScrub k 0) s = .next u ∧
    exec (.patrolScrub k 1) s = .next (u.modChan (chanOf (unitAddr k.val (s.chan k.val).patrol)) fun c =>
      { c with corr := c.corr + 1 }) ∧
    exec (.patrolScrub k 2) s = .next (u.uncorrectable (unitAddr k.val (s.chan k.val).patrol))) ∧
  (∀ (s : State) (k : Fin 16) (n : Nat), (s.chan k.val).cause ≠ 1 →
    exec (.dimmSensorRead k n) s = .next (
      let u := s.modChan k.val fun c => { c with temp := BitVec.ofNat 8 (min 255 n), hot := decide (85 < n) }
      if (s.chan k.val).temp.toNat < 95 ∧ 95 ≤ n then u.occur 33 (BitVec.ofNat 13 k.val) else u))

/-- TIME_SET, TIME_ADJUST with each op and TIME_READ complete (05_time R129, R132, R133, R136, R149, R151). -/
def Obligations.TimeCommandsComplete : Prop :=
  (∀ (s u : State) (p : Pkt), s.admits 0x0500 p wfTimeSet = true → s.running 0x0500 p = u → u.time.step = none →
    (fld (img p.params) 0 8 = 2 → u.devTime < timeOfImg (fld (img p.params) 192 96)) →
    exec (.timeSet p) s = .next (s.endsPending 0x0500 p { u with time := { u.time with step := some {
      kind := if fld (img p.params) 0 8 = 0 then .immediate else if fld (img p.params) 0 8 = 1 then .atPps else .atTime
      newTime := timeOfImg (fld (img p.params) 64 96)
      trigger := timeOfImg (fld (img p.params) 192 96)
      offset := 0
      fromRes := none
      execRes := u.resTime
      b := if fld (img p.params) 0 8 = 0 then some (u.tt.round + 2) else none
      waiter := some (s.waiterOf 0x0500 p) } } })) ∧
  (∀ (s u : State) (p q : Pkt), q = forceOp p 0 8 0 → s.admits 0x0501 q wfTimeAdjust = true → s.running 0x0501 q = u →
    byteAt q.params 0 = 0 → u.time.source = 0 →
    exec (.timeAdjustFreq p) s = .next (s.endsOk 0x0501 q { u with time := { u.time with
      freqNext := u.time.freqNext ++ [(valueA q.params, u.tt.round + 2)] } })) ∧
  (∀ (s u : State) (p q : Pkt), q = forceOp p 0 8 1 → s.admits 0x0501 q wfTimeAdjust = true → s.running 0x0501 q = u →
    byteAt q.params 0 = 1 → u.time.source ≠ 2 →
    exec (.timeAdjustSlew p) s = .next (s.endsOk 0x0501 q { u with time := { u.time with
      slewNext := u.time.slewNext ++ [(slewOf (valueA q.params) (valueB q.params), u.tt.round + 2)] } }
        (bytesLe 8 (unsgn 64 u.replacedRemainder)))) ∧
  (∀ (s u : State) (p q : Pkt), q = forceOp p 0 8 2 → s.admits 0x0501 q wfTimeAdjust = true → s.running 0x0501 q = u →
    byteAt q.params 0 = 2 → u.time.source ≠ 2 → u.time.step = none →
    exec (.timeAdjustStep p) s = .next (s.endsPending 0x0501 q { u with time := { u.time with step := some {
      kind := .adjust
      newTime := 0
      trigger := 0
      offset := valueA q.params
      fromRes := none
      execRes := u.resTime
      b := some (u.tt.round + 2)
      waiter := some (s.waiterOf 0x0501 q) } } })) ∧
  (∀ (s u : State) (p q : Pkt), q = forceOp p 0 8 3 → s.admits 0x0501 q wfTimeAdjust = true → s.running 0x0501 q = u →
    byteAt q.params 0 = 3 → leAt q.params 8 8 = 0 ∨ (leAt q.params 8 8 = 1 ∧ u.time.refPresent = true) →
    exec (.timeAdjustSource p) s = .next (s.endsOk 0x0501 q (u.setSource (BitVec.ofNat 2 (leAt q.params 8 8))))) ∧
  (∀ (s u : State) (p q : Pkt), q = forceOp p 0 8 4 → s.admits 0x0501 q wfTimeAdjust = true → s.running 0x0501 q = u →
    byteAt q.params 0 = 4 →
    exec (.timeAdjustPpsOut p) s = .next (s.endsOk 0x0501 q { u with time := { u.time with ppsOut := { u.time.ppsOut with
      offset := sgn 32 (leAt q.params 8 8 % 2 ^ 32)
      enable := bitAt (leAt q.params 8 8) 32
      emitUnset := bitAt (leAt q.params 8 8) 33
      widthUs := valueB q.params
      lastSec := if sgn 32 (leAt q.params 8 8 % 2 ^ 32) = u.time.ppsOut.offset then u.time.ppsOut.lastSec else none } } })) ∧
  (∀ (s u : State) (p q : Pkt), q = forceOp p 0 8 5 → s.admits 0x0501 q wfTimeAdjust = true → s.running 0x0501 q = u →
    byteAt q.params 0 = 5 →
    exec (.timeAdjustDeclare p) s = .next (s.endsOk 0x0501 q { u with time := { u.time with
      hostState := BitVec.ofNat 4 (leAt q.params 8 8)
      hostSource := BitVec.ofNat 4 (leAt q.params 8 8 / 16)
      hostAccuracy := BitVec.ofNat 8 (leAt q.params 8 8 / 256) } })) ∧
  (∀ (s : State) (p : Pkt), s.admits 0x0502 p (lenZero 8) = true →
    exec (.timeRead p) s = .next (s.endsOk 0x0502 p (s.running 0x0502 p) (timeReadBytes (s.running 0x0502 p))))

/-- Steps and slews end (05_time R129 to R133). -/
def Obligations.StepsAndSlewsEnd : Prop :=
  (∀ (s : State) (st : PendingStep) (w : Waiter) (n : Nat), s.time.step = some st → st.waiter = some w →
    s.stepTarget st = some (n : Int) → n < 2 ^ 48 * secUnits →
    exec .stepApply s =
      .next ((s.applyStep st.kind s.boundaryTime n).complete w 0 0 (stepBytes s.boundaryTime n)) ∧
    (s.applyStep st.kind s.boundaryTime n).time.t48 =
      s.time.t48 + s.slewPart + ((n : Int) - (s.boundaryTime : Int)) * (2 ^ 32 : Int) ∧
    (s.applyStep st.kind s.boundaryTime n).time.slew = none ∧ (s.applyStep st.kind s.boundaryTime n).time.step = none ∧
    (s.applyStep st.kind s.boundaryTime n).time.stepCount = s.time.stepCount + 1) ∧
  (∀ (s : State) (st : PendingStep) (w : Waiter) (n : Int), s.time.step = some st → st.waiter = some w →
    s.stepTarget st = some n → n < 0 ∨ (2 ^ 48 * secUnits : Nat) ≤ n →
    exec .stepApply s = .next (({ s with time := { s.time with step := none } } : State).complete w 0x14 4 [])) ∧
  (∀ (s : State) (st : PendingStep) (b : BitVec 64), st.b = some b → b ≤ s.tt.round →
    (st.kind = .adjust → s.stepTarget st = some ((s.boundaryTime : Int) + st.offset)) ∧
    (st.kind = .immediate → s.stepTarget st = some (st.newTime : Int))) ∧
  (∀ (s : State) (st : PendingStep) (w : Waiter) (k : Nat), s.time.step = some st → st.kind = .atPps → st.fromRes = none →
    st.waiter = some w → s.resHand st.execRes (2 * secUnits) = some k →
    exec .noPpsTimeout s =
      .next (({ s.handTo k with time := { s.time with step := none } } : State).complete w 0x14 1 [])) ∧
  (∀ (s : State) (w : Slew), s.time.slew = some w → w.cyclesLeft ≤ roundCycles s.tt.round.toNat →
    exec .slewEnd s = .next (s.handTo ((40 * w.cyclesLeft - s.phase40 + 4) / 5)) ∧
    s.advanceTime.time.slew = none ∧
    s.advanceTime.time.t48 =
      s.time.t48 + s.rate48 * roundCycles s.tt.round.toNat + (w.perCycle * w.cyclesLeft + w.residue))

/-- The inputs and outputs of the time island (05_time R126, R127, R134 to R136, R150, R152). -/
def Obligations.TimeInputsRun : Prop :=
  (∀ (s u : State) (a : Fin 3277), s.at_ a.val = u →
    (∀ r, u.time.ppsLastRes = some r → 2 * ((u.resTime + 2 ^ 64 - r) % 2 ^ 64) < secUnits →
      exec (.ppsInEdge a) s = .next { u with time := { u.time with ppsIgnored := u.time.ppsIgnored + 1 } }) ∧
    ((∀ r, u.time.ppsLastRes = some r → secUnits ≤ 2 * ((u.resTime + 2 ^ 64 - r) % 2 ^ 64)) →
      ∃ t : State, exec (.ppsInEdge a) s = .next (t.raise 1200) ∧ t.time.ppsCount = u.time.ppsCount + 1 ∧
        t.time.ppsTime = u.stamp ∧ t.time.ppsLastRes = some u.resTime ∧ t.time.ppsOffset = ppsOffsetOf u.stamp)) ∧
  (∀ (s : State) (r k : Nat), s.time.ppsLastRes = some r → s.resHand r (3 * secUnits / 2) = some k →
    exec .ppsAbsent s = .next { s.handTo k with time := { s.time with ppsPresent := false } }) ∧
  (∀ (s u : State) (a : Fin 3277) (k : Nat), s.at_ a.val = u → u.time.ppsOut.enable = true →
    u.time.timeSet = true ∨ u.time.ppsOut.emitUnset = true →
    (k * secUnits : Nat) ≤ (u.devTime : Int) - u.time.ppsOut.offset * 65536 →
    (u.devTime : Int) - u.time.ppsOut.offset * 65536 < (k * secUnits + 16384 : Nat) → u.time.ppsOut.lastSec ≠ some k →
    exec (.ppsOutEdge a) s = .next { u with time := { u.time with ppsOut := { u.time.ppsOut with
      highUntil := some (u.nowPs + u.time.ppsOut.widthUs * 1000000)
      pulses := u.time.ppsOut.pulses + 1
      lastSec := some k } } }) ∧
  (∀ (s u : State) (n : Nat), ({ s with time := { s.time with
      refPresent := decide (((n : Int) - 10000000).natAbs ≤ 1000)
      refOffset := if ((n : Int) - 10000000).natAbs ≤ 1000 then refOffsetOf n else 0x80000000 } } : State) = u →
    (s.time.source ≠ 1 → exec (.ref10mCount n) s = .next u) ∧
    (s.time.source = 1 → s.time.refHoldover = false → 1000 < ((n : Int) - 10000000).natAbs →
      exec (.ref10mCount n) s = .next
        ((({ u with time := { u.time with refHoldover := true, refGood := 0 } } : State).setRate
          (meanOr s.freqSet s.time.refHist)).raise 1201)) ∧
    (s.time.source = 1 → s.time.refHoldover = false → ((n : Int) - 10000000).natAbs ≤ 1000 →
      ∃ v i, exec (.ref10mCount n) s = .next (({ u with time := { u.time with
        refInteg := i
        refHist := (v :: s.time.refHist).take 16 } } : State).setRate v))) ∧
  (∀ (s u v : State) (a : Fin 3277) (sec : Nat), s.at_ a.val = u →
    sec = (if u.time.attOwed then secOf u.time.attLastB else secOf u.devTime) →
    ({ u with time := { u.time with attOwed := false, attSec := max u.time.attSec sec } } : State) = v →
    (u.time.attOwed = false → secOf u.devTime ≤ u.time.attSec → exec (.clockAttestation a) s = .next u) ∧
    (u.time.attOwed = true ∨ u.time.attSec < secOf u.devTime → v.recording = false →
      exec (.clockAttestation a) s = .next v) ∧
    (u.time.attOwed = true ∨ u.time.attSec < secOf u.devTime → v.recording = true →
      ∃ w x : State, w = { v with time := { v.time with attSeq := v.time.attSeq + 1 } } ∧ x = w.systemRecord 5 (attestation w sec) ∧
        exec (.clockAttestation a) s = .next { x with time := { x.time with attSum := 0, attLastB := 0 } })) ∧
  (∀ (s u : State) (v : BitVec 64) (d : Fin 161) (a : Fin 3277), (s.at_ a.val).settleLatch = u → v.getLsbD 0 = true →
    u.time.latch = none →
    exec (.timeLatch v d a) s =
      .next { u with time := { u.time with latch := some (u.nowPs + d.val * 125, u.nowPs + 100000, none) } }) ∧
  (∀ (s : State) (t done : Nat), s.time.latch = some (t, done, none) → done ≤ s.nowPs →
    s.settleLatch = { s with time := { s.time with latched := s.devTimeAt t, latch := none } })

/-- TS_CALIBRATE and its end (05_time R140, R141). -/
def Obligations.CalibrationsComplete : Prop :=
  (∀ (s u : State) (p q : Pkt), q = forceOp p 16 8 1 → s.admits 0x0503 q wfTsCalibrate = true → s.running 0x0503 q = u →
    fld (img q.params) 16 8 = 1 →
    exec (.tsCalibrateRead p) s = .next (s.endsOk 0x0503 q u (calibrationBytes (u.port (fld (img q.params) 0 9)).cal))) ∧
  (∀ (s u : State) (p q : Pkt) (lp : Nat), q = forceOp p 16 8 0 → s.admits 0x0503 q wfTsCalibrate = true →
    s.running 0x0503 q = u → fld (img q.params) 16 8 = 0 → lp = fld (img q.params) 0 9 →
    (u.port lp).st = .disabled ∨ (u.port lp).st = .lowPower → u.calibrating (macroOf lp) = false →
    exec (.tsCalibrateRun p) s = .next (s.endsPending 0x0503 q ((u.powerUp (macroOf lp)).modPort lp fun x =>
      { x with calRun := some (s.waiterOf 0x0503 q, (u.port lp).st), wakeArmed := false }))) ∧
  (∀ (s : State) (lp : Fin 512) (rx tx : BitVec 32) (w : Waiter) (st : PortState) (cal : Calibration),
    (s.port lp.val).calRun = some (w, st) →
    cal = { valid := true, rxPs := rx, txPs := tx, temp := (s.sensor (servingSensor (macroOf lp.val))).reading, round := s.tt.round } →
    exec (.calibrationComplete lp rx tx) s =
      .next (((s.modPort lp.val fun x => { x with cal := cal, calRun := none, st := st, wakeArmed := decide (st = .lowPower) }).settleIsland
        (macroOf lp.val)).complete w 0 0 (calibrationBytes cal)))

/-- The commands of the mirror unit complete (19_pair R462, R464, R465, R475, R479). -/
def Obligations.MirrorCommandsComplete : Prop :=
  (∀ (s u : State) (p : Pkt) (v : Nat), s.admits 0x0600 p wfMirrorConfig = true → v = img p.params →
    (s.running 0x0600 p).modMirror (fun m => { m with
      linkEnable := bitAt v 0
      takeoverMode := BitVec.ofNat 2 (fld v 1 2)
      iface := bitAt v 3
      ltEnable := bitAt v 4
      holdUs := BitVec.ofNat 16 (fld v 16 16)
      takeoverSource := BitVec.ofNat 2 (fld v 32 2)
      digestCycle := BitVec.ofNat 16 (fld v 64 16)
      pairId := BitVec.ofNat 128 (fld v 128 128)
      moduleEq := BitVec.ofNat 256 (fld v 256 256) }) = u →
    (u.mirror.linkUp = false ∨ u.peerAgrees = true ∨ (s.running 0x0600 p).peerAgrees = false → exec (.mirrorConfig p) s =
      .next (s.endsOk 0x0600 p (if bitAt v 0 then u else u.linkGoDown))) ∧
    (u.mirror.linkUp = true → u.peerAgrees = false → (s.running 0x0600 p).peerAgrees = true → exec (.mirrorConfig p) s =
      .next (s.endsOk 0x0600 p (if bitAt v 0 then u.raise 1315 else (u.raise 1315).linkGoDown)))) ∧
  (∀ (s u : State) (p : Pkt), s.admits 0x0601 p wfMirrorRole = true → s.running 0x0601 p = u → fld (img p.params) 0 2 = 0 →
    exec (.mirrorRole p) s = .next (s.endsOk 0x0601 p u.becomeSolo)) ∧
  (∀ (s u : State) (p : Pkt), s.admits 0x0601 p wfMirrorRole = true → s.running 0x0601 p = u → fld (img p.params) 0 2 = 1 →
    (u.mirror.role = .solo → u.mirror.linkUp = false ∨ u.mirror.peer = none ∨
        (∃ x, u.mirror.peer = some x ∧ x.1 ≠ .primary) →
      exec (.mirrorRole p) s = .next (s.endsOk 0x0601 p (u.modMirror fun m => { m with role := .primary }))) ∧
    (∀ x, u.mirror.role = .solo → u.mirror.linkUp = true → u.mirror.peer = some x → x.1 = .primary →
      exec (.mirrorRole p) s = .next (finishCmd (s.waiterOf 0x0601 p) (busy u))) ∧
    (u.mirror.role = .primary → exec (.mirrorRole p) s = .next (finishCmd (s.waiterOf 0x0601 p) (busy u))) ∧
    (u.mirror.role = .standby → u.peerPrimary = true → exec (.mirrorRole p) s = .next (s.endsOk 0x0601 p u.becomePrimary)) ∧
    (u.mirror.role = .standby → u.peerPrimary = false → u.mirror.syncing = false →
      exec (.mirrorRole p) s = .next (s.endsOk 0x0601 p (u.becomePrimary.raise 1312))) ∧
    (u.mirror.role = .standby → u.peerPrimary = false → u.mirror.syncing = true →
      exec (.mirrorRole p) s = .next (finishCmd (s.waiterOf 0x0601 p) (busy (u.raise 1312))))) ∧
  (∀ (s u : State) (p : Pkt), s.admits 0x0601 p wfMirrorRole = true → s.running 0x0601 p = u → fld (img p.params) 0 2 = 2 →
    (u.mirror.role ≠ .standby → u.peerPrimary = true →
      exec (.mirrorRole p) s = .next (s.endsPending 0x0601 p
        (u.becomeStandby.modMirror fun m => { m with roleWait := some (s.waiterOf 0x0601 p) }).startPull)) ∧
    (u.mirror.role = .standby ∨ u.peerPrimary = false →
      exec (.mirrorRole p) s = .next (finishCmd (s.waiterOf 0x0601 p) (busy u)))) ∧
  (∀ (s u : State) (p : Pkt), s.admits 0x0602 p (lenZero 8) = true → s.running 0x0602 p = u → u.mirror.checkWait = none →
    (u.mirroring = false ∨ u.mirror.role ≠ .primary → exec (.mirrorCheck p) s = .next (s.endsPending 0x0602 p
      (u.modMirror fun m => { m with checkWait := some (s.waiterOf 0x0602 p, []), checkAck := true })).settleCheck) ∧
    (u.mirroring = true → u.mirror.role = .primary → u.d0Writable = true →
      exec (.mirrorCheck p) s = .next (s.endsPending 0x0602 p
        (((u.modMirror fun m => { m with checkWait := some (s.waiterOf 0x0602 p, List.finRange 19), checkAck := false }).sendToken
          2 0).sendDigests)).settleCheck))

/-- The Dovetail link and its messages (19_pair R460, R461, R463, R467, R479; 21_counters R508). -/
def Obligations.DovetailLinkRuns : Prop :=
  (∀ (s : State) (w : BitVec 512), s.mirror.linkUp = true →
    (unitCrcOk w = true → fld w.toNat 16 48 = s.mirror.rxSeq.toNat → fld w.toNat 0 8 ≠ 1 →
      exec (.linkUnitReceive w) s =
        .next (s.modMirror fun m => { m with rxSeq := m.rxSeq + 1, rxWaiting := false, heard := s.nowPs })) ∧
    (unitCrcOk w = false ∨ fld w.toNat 16 48 ≠ s.mirror.rxSeq.toNat → s.mirror.rxWaiting = false →
      exec (.linkUnitReceive w) s =
        .next ((s.modMirror fun m => { m with rxWaiting := true }).emit (.link 1 [1, s.mirror.rxSeq.toNat]))) ∧
    (unitCrcOk w = false ∨ fld w.toNat 16 48 ≠ s.mirror.rxSeq.toNat → s.mirror.rxWaiting = true →
      exec (.linkUnitReceive w) s = .next s)) ∧
  (∀ s : State, s.mirror.linkUp = true →
    (s.mirror.ackRound ≠ some s.tt.round → exec .linkAck s =
      .next ((s.modMirror fun m => { m with ackRound := some s.tt.round }).emit (.link 1 [0, (s.mirror.rxSeq - 1).toNat]))) ∧
    (s.mirror.ackRound = some s.tt.round → exec .linkAck s = .next s)) ∧
  (∀ (s : State) (c : LinkDownCause), (c = .silence ∧ s.due (s.mirror.heard + 2 * usPs) = true) ∨ c = .lockLoss ∨
      (c = .resends ∧ 16 ≤ s.mirror.resendRun) ∨ (c = .disabled ∧ s.mirror.linkEnable = false) → s.mirror.linkUp = true →
    ∃ t : State, exec (.dovetailLinkDown c) s = .next (t.raise 1316) ∧ t.mirror.linkUp = false) ∧
  (∀ (s : State) (d : Nat), s.mirror.linkUp = false → s.mirror.linkEnable = true → 4 ≤ s.boot.phase → s.boot.failed = false →
    (d ≤ 1000000 → exec (.dovetailLinkUp d) s = .next (s.modMirror fun m =>
      { m with linkUp := true, downAt := none, dPs := d, rxSeq := 0, rxWaiting := false, resendRun := 0, peer := none,
               heard := s.nowPs, ackRound := none, timeRound := none, digestAt := [] })) ∧
    (1000000 < d → exec (.dovetailLinkUp d) s =
      .next ((s.modMirror fun m => { m with dPs := d, downEvents := m.downEvents + 1 }).raise 1316))) ∧
  (∀ (s : State) (r : Role) (id : BitVec 128) (q : BitVec 64) (n : BitVec 8), s.mirror.linkUp = true → s.mirror.role = .solo →
    (id = s.mirror.pairId ∨ s.peerAgrees = false → exec (.stateMessage r id q n) s = .next (s.modMirror fun m =>
      { m with heard := s.nowPs, peer := some (r, id, q, n), conflict := false })) ∧
    (id ≠ s.mirror.pairId → s.peerAgrees = true → exec (.stateMessage r id q n) s = .next
      (((s.modMirror fun m => { m with heard := s.nowPs, peer := some (r, id, q, n) }).raise 1315).modMirror fun m =>
        { m with conflict := false }))) ∧
  (∀ (s v u : State) (q : BitVec 64) (st : BitVec 8), s.mirror.linkUp = true → s.mirror.role = .primary → s.heardNow = v →
    (if 0x10 ≤ st.toNat ∧ st.toNat ≠ 0x20 then (v.modMirror fun m => { m with refused := m.refused + 1 }).raise 1317 else v) = u →
    (u.mirror.inProgress = none → exec (.replyMessage q st false) s = .next u) ∧
    (∀ c, u.mirror.inProgress = some c → c.seq = q → c.own.isSome = true →
      exec (.replyMessage q st false) s = .next u.releaseMirrored) ∧
    (∀ c, u.mirror.inProgress = some c → c.seq = q → c.own = none →
      exec (.replyMessage q st false) s =
        .next (u.modMirror fun m => { m with inProgress := some { c with peerSeen := true } }))) ∧
  (∀ (s v : State) (no : BitVec 8), s.mirror.linkUp = true → s.heardNow = v →
    exec (.tokenMessage (.mark no)) s = .next ((v.latchMark no).sendToken 1 0) ∧
    exec (.tokenMessage .markAck) s = .next { v with pmc := { v.pmc with markBusy := false } } ∧
    exec (.tokenMessage .barrier) s = .next (v.sendToken 3 0) ∧
    exec (.tokenMessage .barrierAck) s =
      .next (v.modMirror fun m => { m with checkAck := m.checkWait.isSome }).settleCheck) ∧
  (∀ s : State, s.mirror.linkUp = true → s.heardNow = s.modMirror fun m => { m with heard := s.nowPs })

/-- The messages of the mirror unit (19_pair R470 to R476). -/
def Obligations.MirrorMessagesRun : Prop :=
  (∀ (s u : State) (a : Fin 3277), s.at_ a.val = u → u.mirroring = true → u.mirror.role = .primary →
    (u.timeDue = true → exec (.timeMessageSend a) s = .next
      ((u.modMirror fun m => { m with timeRound := some u.tt.round }).emit (.link 4 [u.stamp, u.time.stepCount.toNat]))) ∧
    (u.timeDue = false → exec (.timeMessageSend a) s = .next u) ∧
    ((∀ r, u.mirror.timeRound = some r → r.toNat + 16 ≤ u.tt.round.toNat) ↔ u.timeDue = true)) ∧
  (∀ (s v : State) (r : Fin 19), s.mirroring = true → s.mirror.role = .primary → s.heardNow = v →
    (v.digestible r.val = true →
      exec (.pullReq (.digest r)) s = .next (v.emit (.link 10 [r.val, v.mirror.seq.toNat, (v.regionDigest r.val).toNat]))) ∧
    exec (.pullData (.regionEqual r)) s = .next (v.regionReported r.val 0)) ∧
  (∀ (s u : State) (r : Fin 19) (at_ : Nat), s.mirroring = true → s.mirror.role = .primary →
    at_ = (match tget none s.mirror.digestAt r.val with | some t => t + s.mirror.digestCycle.toNat * msPs | none => 0) →
    (s.due at_ = false → exec (.digestSend r) s = .next s) ∧
    (s.due at_ = true →
      (s.reach at_).modMirror (fun m => { m with digestAt := tset none m.digestAt r.val (some (s.reach at_).nowPs) }) = u →
      u.digestible r.val = true →
      exec (.digestSend r) s = .next (u.emit (.link 10 [r.val, u.mirror.seq.toNat, (u.regionDigest r.val).toNat])))) ∧
  (∀ (s u : State) (t1 : Nat) (n : BitVec 8) (a : Fin 3277), (s.at_ a.val).heardNow = u → u.mirroring = true → u.mirror.role = .standby →
    u.time.step = none →
    (u.stepsReached = some n → exec (.timeMessage t1 n a) s =
      .next ((u.modMirror fun m => { m with primarySteps := some n, stepWait := none }).lockLoop
        ((u.stamp : Int) - ((t1 : Int) + (unitsOfPs u.mirror.dPs : Int)))).settlePull) ∧
    (∀ c, u.stepsReached = some c → c ≠ n → exec (.timeMessage t1 n a) s =
      .next (u.modMirror fun m => { m with primarySteps := some c, stepWait := none })) ∧
    (u.stepsReached = none → ((u.stamp : Int) - ((t1 : Int) + (unitsOfPs u.mirror.dPs : Int))).natAbs ≤ 65536000 →
      exec (.timeMessage t1 n a) s = .next ((u.modMirror fun m => { m with primarySteps := some n, stepWait := none }).lockLoop
        ((u.stamp : Int) - ((t1 : Int) + (unitsOfPs u.mirror.dPs : Int)))).settlePull) ∧
    (u.stepsReached = none → 65536000 < ((u.stamp : Int) - ((t1 : Int) + (unitsOfPs u.mirror.dPs : Int))).natAbs →
      exec (.timeMessage t1 n a) s =
        .next (u.armMirrored (-((u.stamp : Int) - ((t1 : Int) + (unitsOfPs u.mirror.dPs : Int)))) n))) ∧
  (∀ (s v : State) (d : Int) (n : BitVec 8), s.mirroring = true → s.mirror.role = .standby → s.heardNow = v →
    exec (.stepMessage d n) s = .next (v.armMirrored d n)) ∧
  (∀ (s v : State) (f : Fin 4096) (c : FeedChange), s.mirroring = true → s.mirror.role = .standby → s.heardNow = v →
    exec (.feedMessage f c) s = .next (v.applyFeed f.val c)) ∧
  (∀ (s v : State) (r : Fin 19) (q : BitVec 64) (d : BitVec 32), s.mirror.linkUp = true → s.mirror.role = .standby →
    s.heardNow = v →
    (q = s.mirror.seq → exec (.digestMessage r q d) s = .next (v.compareRegion r d).settlePull) ∧
    (q < s.mirror.seq → exec (.digestMessage r q d) s = .next v) ∧
    (s.mirror.seq < q → exec (.digestMessage r q d) s = .next (v.modMirror fun m =>
      { m with held := (m.held.filter fun x => !(x.region == r)) ++ [{ region := r, seq := q, digest := d }] }))) ∧
  (∀ s v : State, s.mirroring = true → s.mirror.role = .primary → s.heardNow = v →
    (∀ r : Fin 19, v.digestible r.val = true → exec (.pullReq (.blockDigests r)) s =
      .next ((v.regionReported r.val 2).emit (.linkPull (.blockDigests r ((regionBlocks r.val).map fun b =>
        (BitVec.ofNat 8 b.1, b.2.1 == 1, b.2.2, v.blockDigest v.tables.master b.1 b.2.1 b.2.2)))))) ∧
    (∀ (table : BitVec 8) (gen : Bool) (block : Nat), v.d0Writable = true → exec (.pullReq (.block table gen block)) s =
      .next (v.emit (.linkPull (.entries (Fin.ofNat 19 (regionOf table.toNat)) table gen
        (v.blockItems table.toNat (b1 gen) block))))) ∧
    exec (.pullReq .portConfig) s =
      .next ((v.regionReported 16 2).emit (.linkPull (.portConfig ((List.range 64).map v.portParams)))) ∧
    exec (.pullReq .generation) s =
      .next ((v.regionReported 18 2).emit (.linkPull (.generation ((List.range 4).map fun k => (v.quad k).gen)))) ∧
    exec (.pullReq .feeds) s = .next (((List.finRange 4096).foldl
      (fun (t : State) f => t.emit (.linkPull (.feed (t.feedImage f)))) v).emit (.linkPull .feedsDone))) ∧
  (∀ s v : State, s.mirroring = true → s.mirror.role = .standby → s.heardNow = v →
    exec (.pullData .feedsDone) s = .next (v.modMirror fun m => { m with feedPull := false }).settlePull ∧
    (∀ gens, exec (.pullData (.generation gens)) s =
      .next (v.modMirror fun m => { m with genPull := gens.head? }).applyGenPull) ∧
    (∀ x, exec (.pullData (.feed x)) s = .next (v.pullFeed x)) ∧
    (∀ ps, exec (.pullData (.portConfig ps)) s = .next (v.pullPorts ps).settlePull) ∧
    (∀ r ds, exec (.pullData (.blockDigests r ds)) s = .next (v.pullBlocks r ds)) ∧
    (∀ r table gen items, exec (.pullData (.entries r table gen items)) s =
      .next (v.pullEntries r table.toNat (b1 gen) items))) ∧
  (∀ s : State, s.mirror.linkUp = true → exec .safeMessage s = .next (s.heardNow.takeoverFrom 1)) ∧
  (∀ s : State, exec .peerFaultAssert s =
    .next ((({ s with flt := { s.flt with peerFault := true } } : State).occur 40 0).takeoverFrom 1)) ∧
  (∀ (s : State) (t : Nat), s.mirror.downAt = some t → s.mirror.linkUp = false → s.mirror.role = .standby →
    s.due (t + s.mirror.holdUs.toNat * usPs) = true →
    exec .linkLossHoldExpiry s = .next (((s.reach (t + s.mirror.holdUs.toNat * usPs)).modMirror fun m =>
      { m with downAt := none }).takeoverFrom 2)) ∧
  (∀ (s : State) (m : Nat),
    (s.mirror.role = .standby → m ≤ s.mirror.takeoverMode.toNat → s.takeoverFrom m = s.takeover) ∧
    (s.mirror.role = .standby → s.mirror.takeoverMode.toNat < m → s.takeoverFrom m = s.raise 1312) ∧
    (s.mirror.role = .primary → s.takeoverFrom m = if s.mirroring then s.raise 1313 else s) ∧
    (s.mirror.role = .solo → s.takeoverFrom m = s))

/-- The instance commands complete (18_instances R444 to R452). -/
def Obligations.InstanceCommandsComplete : Prop :=
  (∀ (s u : State) (p : Pkt) (n : Nat) (h : n < 64) (rings : List Nat),
    s.admits 0x0800 p (fun ps _ => blkOk true ps) = true → s.running 0x0800 p = u → whole p → blkInst p.params = n →
    rings = (List.range (blkCount p.params)).map (· + blkFirst p.params) → (u.inst n).st = .absent →
    (∀ r ∈ rings, (u.dma r).owner.val = 0 ∧ (u.dma r).enable = false) → (∀ lp ∈ blkPorts p.params, u.ownerOf lp = 0) →
    (anyQuantum p.params = true → u.d0Writable = true) →
    exec (.instCreate p) s = .next (s.endsOk 0x0800 p
      (((((blkPorts p.params).foldl (fun (t : State) lp => { t with portOwner := tset 0 t.portOwner lp n })
        (rings.foldl (fun (t : State) r => t.modDma r fun d => { d with owner := ⟨n, h⟩ }) u))).modInst n fun i =>
          { i with st := .active, ringFirst := blkFirst p.params, ringCount := blkCount p.params }).resize n 15 p.params))) ∧
  (∀ (s u : State) (p : Pkt), s.admits 0x0801 p (fun ps _ => blkOk false ps) = true → s.running 0x0801 p = u → whole p →
    (u.inst (blkInst p.params)).st ≠ .absent → (u.inst (blkInst p.params)).st ≠ .fencing →
    (bitAt (byteAt p.params 1) 1 = true → anyQuantum p.params = true → u.d0Writable = true) →
    exec (.instResize p) s = .next (s.endsOk 0x0801 p (u.resize (blkInst p.params) (byteAt p.params 1) p.params))) ∧
  (∀ (s u : State) (p q : Pkt), q = forceOp p 8 8 0 → s.admits 0x0802 q wfQuiesce = true → s.running 0x0802 q = u →
    byteAt q.params 1 = 0 → (u.inst (blkInst q.params)).st = .active →
    exec (.instQuiesce p) s = .next (s.endsPending 0x0802 q (u.modInst (blkInst q.params) fun i =>
      { i with st := .quiescing, quiesceWait := some (s.waiterOf 0x0802 q) })).settleInst) ∧
  (∀ (s u : State) (p q : Pkt), q = forceOp p 8 8 1 → s.admits 0x0802 q wfQuiesce = true → s.running 0x0802 q = u →
    byteAt q.params 1 = 1 → (u.inst (blkInst q.params)).st = .quiescing ∨ (u.inst (blkInst q.params)).st = .quiesced →
    exec (.instQuiesceResume p) s = .next (s.endsOk 0x0802 q (
      let v := u.modInst (blkInst q.params) fun i => { i with st := .active, quiesceWait := none }
      match (u.inst (blkInst q.params)).quiesceWait with
      | some x => v.complete x 0 0 []
      | none => v)).settleInst) ∧
  (∀ (s u : State) (p : Pkt), s.admits 0x0803 p wfInstReset = true → s.running 0x0803 p = u →
    (u.inst (blkInst p.params)).st ≠ .absent → (u.inst (blkInst p.params)).st ≠ .fencing →
    (u.inst (blkInst p.params)).resetWait = none →
    exec (.instReset p) s = .next (s.endsPending 0x0803 p (u.beginReset (blkInst p.params) (s.waiterOf 0x0803 p)))) ∧
  (∀ (s u : State) (p : Pkt), s.admits 0x0804 p wfInstReset = true → s.running 0x0804 p = u →
    (u.inst (blkInst p.params)).st = .quiesced → (u.inst (blkInst p.params)).resetWait = none →
    exec (.instRemove p) s = .next (s.endsPending 0x0804 p (u.beginReset (blkInst p.params) (s.waiterOf 0x0804 p))))

/-- The ends of resets and fences, the dirty-page logs and the function level resets (11_pool R292; 17_host R413; 18_instances R454 to R457). -/
def Obligations.InstanceEventsRun : Prop :=
  (∀ (s u v w : State) (r : Recount), s.pool.recount = some r → s.due ((r.start + recountCycles) * 800) = true →
    r.reqs.foldl (fun (t : State) n => t.recountReq n) (s.reach ((r.start + recountCycles) * 800)) = u →
    r.waiters.foldl (fun (t : State) x => t.complete x 0 0 []) (({ u with pool := { u.pool with recount := none } } : State).raise 1298) = v →
    r.reqs.foldl (fun (t : State) n => if (t.inst n).st = .fencing then t else t.finishReset n) v = w →
    exec .recountComplete s = .next (
      let next := (List.range 64).filter fun n => (w.inst n).resetWait.isSome && (w.inst n).st != .fencing
      if next.isEmpty then w else w.startRecount next [])) ∧
  (∀ (s u : State) (p q : Pkt), q = forceOp p 8 8 0 → s.admits 0x0805 q wfDirtyLog = true → s.running 0x0805 q = u →
    byteAt q.params 1 = 0 → (u.inst (blkInst q.params)).swap = none →
    exec (.dirtyLogSwap p) s = .next (s.endsPending 0x0805 q (u.modInst (blkInst q.params) fun i => { i with
      dirty := some { base := BitVec.ofNat 64 (leAt q.params 8 8), log2 := byteAt q.params 0x10, count := 0, overflow := false }
      dirtyFilter := []
      swap := some ((u.inst (blkInst q.params)).dirty.getD { base := 0, log2 := 0, count := 0, overflow := false },
        s.waiterOf 0x0805 q) })).settleSwaps) ∧
  (∀ (s u : State) (p q : Pkt) (l : DirtyLog), q = forceOp p 8 8 1 → s.admits 0x0805 q wfDirtyLog = true →
    s.running 0x0805 q = u → byteAt q.params 1 = 1 → (u.inst (blkInst q.params)).swap = none →
    (u.inst (blkInst q.params)).dirty = some l →
    exec (.dirtyLogStop p) s = .next (s.endsPending 0x0805 q (u.modInst (blkInst q.params) fun i =>
      { i with dirty := none, dirtyFilter := [], swap := some (l, s.waiterOf 0x0805 q) })).settleSwaps) ∧
  (∀ (s u v w : State) (n : Fin 64), (s.inst n.val).st = .fencing →
    (if s.cp0Runs n.val then s.modCtx .cp0 fun _ => Ctx.init else s) = u →
    ((((u.ringsOf n.val).foldl (fun (t : State) r => t.fenceRing r) u).modCmdRing n.val fun _ => CmdRing.init).freeHolds
      n.val).recountReq n.val = v →
    (v.modInst n.val fun i =>
      { i with st := .active, win := Window.init, fences := i.fences + 1, quiesceWait := none }).raise (1354 + n.val) = w →
    exec (.fenceComplete n) s = .next ((match (v.inst n.val).quiesceWait with
      | some x => w.complete x 0 0 []
      | none => w).finishReset n.val)) ∧
  (∀ (s : State) (n : Fin 64), n.val ≠ 0 → s.host.vfEnable = true →
    exec (.flrVf n) s = .next (({ s with host := { s.host with fns := tdel s.host.fns n.val } } : State).startFence n.val)) ∧
  (∀ s : State, s.host.vfEnable = true →
    exec .vfEnableClear s = .next (({ s with host := { s.host with vfEnable := false } } : State).fenceGuests)) ∧
  (∀ s : State, ∃ t : State, exec .flrPf s = .next t.portResetCp0 ∧
    t = (({ s with host := { s.host with
      fns := tdel s.host.fns 0
      ctVal := 0
      barLog2 := 30
      vfEnable := false } } : State).fenceGuests).startFence 0)

/-- The host link and the configuration space (17_host R411 to R420; 22_board R523, R524). -/
def Obligations.HostLinkRuns : Prop :=
  (∀ (s : State) (g : PcieGen) (w : PcieWidth), s.host.training = true → s.host.perstLow = false → s.host.gen = 0 →
    genNum g ≤ s.strapGen →
    exec (.pcieLinkUp g w) s = .next { s with host := { s.host with
      gen := BitVec.ofNat 4 (genNum g)
      width := BitVec.ofNat 5 (widthNum w)
      flit := decide (genNum g = 6) } }) ∧
  (∀ s u : State, s.host.gen ≠ 0 → ({ s with host := { s.host with gen := 0, width := 0, flit := false } } : State) = u →
    (s.host.frozen = false → exec .pcieLinkDown s = .next u.hostFreeze) ∧
    (s.host.frozen = true → exec .pcieLinkDown s =
      .next { u with host := { u.host with fns := [], ctVal := 0, barLog2 := 30, vfEnable := false } })) ∧
  (∀ s u : State, s.host.perstLow = false → ({ s with host := { s.host with
      perstLow := true
      training := false
      gen := 0
      width := 0
      flit := false } } : State) = u →
    (s.host.frozen = false → exec .perst s = .next u.hostFreeze) ∧
    (s.host.frozen = true → exec .perst s =
      .next { u with host := { u.host with fns := [], ctVal := 0, barLog2 := 30, vfEnable := false } })) ∧
  (∀ s : State, 4 ≤ s.boot.phase → s.boot.failed = false →
    exec .perstRelease s = .next { s with
      host := { s.host with perstLow := false, training := true }
      boot := { s.boot with phase := max s.boot.phase 5 } }) ∧
  (∀ s : State, s.host.frozen = true → s.releaseReady = true →
    ∃ t : State, exec .hostLinkRelease s = .next t.settleSwaps ∧ t.host.frozen = false) ∧
  (∀ (s : State) (n : Fin 64) (v : BitVec 16), s.fnPresent n.val = true →
    exec (.configSpaceWrite n .memorySpaceEnable v) s = .next (s.modFn n.val fun x => { x with memSpace := bitAt v.toNat 0 }) ∧
    exec (.configSpaceWrite n .busMasterEnable v) s = .next (s.modFn n.val fun x => { x with busMaster := bitAt v.toNat 0 }) ∧
    exec (.configSpaceWrite n .relaxedOrdering v) s = .next (s.modFn n.val fun x => { x with relaxed := bitAt v.toNat 0 })) ∧
  (∀ (s : State) (v : BitVec 16), s.fnPresent 0 = true →
    exec (.configSpaceWrite 0 .completionTimeout v) s =
      .next { s with host := { s.host with ctVal := BitVec.ofNat 4 v.toNat } } ∧
    ((s.fn 0).memSpace = false → 10 ≤ v.toNat % 64 → v.toNat % 64 ≤ 22 →
      exec (.configSpaceWrite 0 .barSize v) s = .next { s with host := { s.host with barLog2 := v.toNat % 64 + 20 } }) ∧
    (bitAt v.toNat 0 = true →
      exec (.configSpaceWrite 0 .vfEnable v) s = .next { s with host := { s.host with vfEnable := true } }) ∧
    (bitAt v.toNat 0 = false → s.host.vfEnable = true → exec (.configSpaceWrite 0 .vfEnable v) s =
      .next ({ s with host := { s.host with vfEnable := false } } : State).fenceGuests))

/-- The Cabinet windows (17_host R416, R417; 18_instances R453). -/
def Obligations.WindowsComplete : Prop :=
  (∀ (s : State) (n : Fin 64), s.pageLive n.val = true →
    exec (.winCommit n) s = .next (s.modInst n.val fun i => { i with win := { i.win with active := i.win.stage } })) ∧
  (∀ (s : State) (n : Fin 64) (off : BitVec 42) (len a k : Nat), s.barHit n.val off.toNat len = true →
    a = s.winAddr n.val off.toNat → k = min len (s.installed - a) →
    (s.inDrawers n.val a len = true → s.cab.paused = false →
      exec (.windowRead n off len) s = .next ((s.cabTouch 1 a k).emit
        (.windowData n.val ((s.cabRead a k).1 ++ List.replicate (len - k) 0) ((s.cabRead a k).2 || decide (k < len))))) ∧
    (s.inDrawers n.val a len = true → s.cab.paused = true →
      exec (.windowRead n off len) s = .next (s.emit (.windowData n.val (List.replicate len 0) true))) ∧
    (s.inDrawers n.val a len = false →
      exec (.windowRead n off len) s = .next ((s.winDenied n.val).emit (.windowData n.val (List.replicate len 0) true)))) ∧
  (∀ (s : State) (n : Fin 64) (off : BitVec 42) (data : List (Option Byte)), s.barHit n.val off.toNat data.length = true →
    s.inDrawers n.val (s.winAddr n.val off.toNat) data.length = true →
    exec (.windowWrite n off data true) s =
      .next { s with host := { s.host with winDiscard := s.host.winDiscard + 1 } } ∧
    exec (.windowWrite n off data false) s = .next (
      let x := (unitParts (s.winAddr n.val off.toNat) data).foldl State.winUnit (s, false, false)
      let t : State := if x.2.1 then { x.1 with host := { x.1.host with winDiscard := x.1.host.winDiscard + 1 } } else x.1
      if x.2.2 then t.raise 1280 else t)) ∧
  (∀ (s : State) (n : Fin 64) (off : BitVec 42) (data : List (Option Byte)) (bad : Bool),
    s.barHit n.val off.toNat data.length = true → s.inDrawers n.val (s.winAddr n.val off.toNat) data.length = false →
    exec (.windowWrite n off data bad) s = .next (s.winDenied n.val))

/-- FAULT_CONFIG and FAULT_RELEASE complete (20_faults R485 to R487). -/
def Obligations.FaultCommandsComplete : Prop :=
  (∀ (s : State) (p : Pkt), s.admits 0x0900 p wfFaultConfig = true →
    exec (.faultConfig p) s = .next (s.endsOk 0x0900 p ((s.running 0x0900 p).modLine (fld (img p.params) 0 6) fun l => { l with
      severity := fld (img p.params) 8 2
      counted := bitAt (img p.params) 10
      countN := fld (img p.params) 16 8
      windowMs := fld (img p.params) 32 16
      graceUs := fld (img p.params) 64 20 }))) ∧
  (∀ (s u v : State) (p : Pkt) (n : Nat), s.admits 0x0901 p wfFaultRelease = true → s.running 0x0901 p = u →
    n = fld (img p.params) 0 6 → u.conditionHolds n = false →
    (u.liftContainment n).modLine n (fun l => { l with
      latched := false
      sticky := if bitAt (img p.params) 9 then 0 else l.sticky
      countedUntil := some ((u.liftContainment n).nowPs + l.windowMs * msPs) }) = v →
    (bitAt (img p.params) 8 = false → exec (.faultRelease p) s = .next (s.endsOk 0x0901 p
      ((v.asserting n).foldl (fun (t : State) k => t.occurAt n (BitVec.ofNat 13 k)) v.settleGrace))) ∧
    (bitAt (img p.params) 8 = true → exec (.faultRelease p) s = .next (s.endsOk 0x0901 p (
      let w : State := { v with flt := { v.flt with
        firstLine := 0
        firstSrc := 0
        firstValid := false
        firstRound := 0
        overflow := false } }
      (w.asserting n).foldl (fun (t : State) k => t.occurAt n (BitVec.ofNat 13 k)) w.settleGrace))))

/-- The fault events (20_faults R480 to R490; 03_islands R89). -/
def Obligations.FaultEventsRun : Prop :=
  (∀ (s t u : State) (n : Fin 48) (src : BitVec 13), reservedLine n.val = false →
    (n.val ≠ 31 ∨ s.chanOut (src.toNat % 16) = true) →
    (if n.val = 10 then s.stagedLost else if n.val = 35 then s.wordLost src.toNat else s) = t →
    (t.modLine n.val fun l => { l with count := l.count + 1 }) = u →
    (u.flt.safe = true → exec (.faultOccurrence n src) s = .next (u.capture n.val src)) ∧
    (u.flt.safe = false → u.lineCounted n.val = false →
      exec (.faultOccurrence n src) s = .next (u.actAt n.val src (u.line n.val).severity)) ∧
    (u.flt.safe = false → u.lineCounted n.val = false → (u.line n.val).severity = 0 → exec (.faultOccurrence n src) s = .next u) ∧
    (∀ w, u.flt.safe = false → u.lineCounted n.val = true →
      (match (u.line n.val).window with
        | some (a, k) => if u.nowPs < a + (u.line n.val).windowMs * msPs then (a, k + 1) else (u.nowPs, 1)
        | none => (u.nowPs, 1)) = w →
      ((u.line n.val).countN ≤ w.2 → exec (.faultOccurrence n src) s =
        .next ((u.modLine n.val fun l => { l with window := none }).actAt n.val src (u.line n.val).severity)) ∧
      (w.2 < (u.line n.val).countN → exec (.faultOccurrence n src) s =
        .next ((u.modLine n.val fun l => { l with window := some w }).actAt n.val src 1)))) ∧
  (∀ (s u : State) (src : BitVec 13), s.chanOut (src.toNat % 16) = false → s.occur 31 src = u →
    (u.chanOut (src.toNat % 16) = true →
      exec (.faultOccurrence 31 src) s = .next (u.occur 32 (BitVec.ofNat 13 (src.toNat % 16)))) ∧
    (u.chanOut (src.toNat % 16) = false → exec (.faultOccurrence 31 src) s = .next u)) ∧
  (∀ (s : State) (n : Fin 48) (t k : Nat), (s.line n.val).window = some (t, k) →
    s.due (t + (s.line n.val).windowMs * msPs) = true →
    exec (.faultWindowClose n) s =
      .next ((s.reach (t + (s.line n.val).windowMs * msPs)).modLine n.val fun l => { l with window := none })) ∧
  (∀ (s : State) (a : Fin 3277) (t : Nat), (s.at_ a.val).flt.graceEnd = some t → t ≤ (s.at_ a.val).nowPs →
    (s.at_ a.val).flt.safe = false →
    ∃ u, exec (.graceTimerExpiry a) s = .next u ∧ u.flt.safe = true) ∧
  (∀ (s : State) (a : Fin 3277), (s.at_ a.val).flt.safe = false →
    (∃ u, exec (.monitorClockLoss a) s = .next u ∧ u.flt.safe = true) ∧
    ∃ u, exec (.collectorRegisterFault a) s = .next u ∧ u.flt.safe = true) ∧
  (∀ (s : State) (c : CmdPort), (s.ctx c).cmd.isSome = true → (s.ctx c).st ≠ .idle → (s.ctx c).finalSent = false →
    (s.ctx c).cause ≠ 4 → exec (.cmdWatchdog c) s = .next (s.occur 42 (BitVec.ofNat 13 (portNum c)))) ∧
  (∀ (s u : State) (i : Fin 112), i ∉ s.tt.pllLost → ({ s with tt := { s.tt with pllLost := i :: s.tt.pllLost } } : State) = u →
    (16 ≤ i.val → i.val < 80 → s.islandDown (i.val - 16) = false →
      exec (.pllLockLoss i) s = .next (u.occurAt 0 (BitVec.ofNat 13 (i.val - 16)))) ∧
    (86 ≤ i.val → i.val < 102 → (s.chan (i.val - 86)).down = false →
      exec (.pllLockLoss i) s = .next (u.occurAt 31 (BitVec.ofNat 13 (i.val - 86)))) ∧
    (i.val < 16 ∨ (80 ≤ i.val ∧ i.val < 86) ∨ (102 ≤ i.val ∧ i.val < 107 ∧ (i.val = 105 → s.mgmt.powered = true)) →
      exec (.pllLockLoss i) s = .next (u.occurAt 1 (BitVec.ofNat 13 (islandCode i.val))))) ∧
  (∀ s : State, s.flt.safe = false → ∃ u, exec (.pllLockLoss 107) s = .next u ∧ u.flt.safe = true)

/-- The event unit, the monitors and the round boundary (20_faults R492 to R495; 17_host R441; 02_timetable R30). -/
def Obligations.MonitorsAndEventsRun : Prop :=
  (∀ (s : State) (k : Fin 1536) (t : Nat), (s.evt k.val).until_ = some t → s.due t = true →
    ((s.evt k.val).owed = true → exec (.eventHoldoffEnd k) s = .next
      (((s.reach t).modEvt k.val fun e =>
        { e with until_ := if e.holdoff = 0 then none else some (t + e.holdoff.toNat * usPs), owed := false }).msix
          (s.evtFn k.val) (s.evt k.val).vector.toNat)) ∧
    ((s.evt k.val).owed = false →
      exec (.eventHoldoffEnd k) s = .next ((s.reach t).modEvt k.val fun e => { e with until_ := none }))) ∧
  (∀ (s : State) (fn : Fin 64) (v : Fin 536),
    exec (.msixUnmask fn none) s = .next ((s.modFn fn.val fun f => { f with fnMask := false }).sendPending fn.val) ∧
    (v.val < msixVectors fn.val → exec (.msixUnmask fn (some v)) s =
      .next ((s.modFn fn.val fun f => { f with unmasked := mark f.unmasked v.val }).sendPending fn.val))) ∧
  (∀ (s u x y z : State) (k : Fin 32) (r : BitVec 16) (a : Fin 3277) (v : Sensor), s.at_ a.val = u →
    v = { reading := r
          maximum := if sgn 16 (u.sensor k).maximum.toNat < sgn 16 r.toNat then r else (u.sensor k).maximum
          warn := if (u.sensor k).warn then decide (744 < sgn 16 r.toNat) else decide (760 ≤ sgn 16 r.toNat)
          alarm := if (u.sensor k).alarm then decide (824 < sgn 16 r.toNat) else decide (840 ≤ sgn 16 r.toNat)
          trip := if (u.sensor k).trip then decide (904 < sgn 16 r.toNat) else decide (920 ≤ sgn 16 r.toNat) } →
    (if v.warn && !(u.sensor k).warn then (u.modSensor k fun _ => v).occur 24 (BitVec.ofNat 13 k.val) else u.modSensor k fun _ => v) = x →
    (if v.alarm && !(u.sensor k).alarm then x.occur 25 (BitVec.ofNat 13 k.val) else x) = y →
    (if v.trip && !(u.sensor k).trip then y.occur 26 (BitVec.ofNat 13 k.val) else y) = z →
    exec (.sensorRead k r a) s = .next z.settleDrift) ∧
  (∀ (s u : State) (t : Nat), s.flt.shedAt = some t → s.due t = true →
    ({ s.reach t with flt := { (s.reach t).flt with shedAt := some (t + ((s.reach t).line 25).graceUs * usPs) } } : State) = u →
    ((∃ k < 32, 840 ≤ sgn 16 (s.sensor k).reading.toNat) → exec .thermalShedCheck s = .next u.shedOne) ∧
    ((∀ k < 32, sgn 16 (s.sensor k).reading.toNat < 840) → exec .thermalShedCheck s = .next u)) ∧
  (∀ (s u v : State) (k : Fin 24) (mv : BitVec 16) (r3 r6 : Nat),
    r3 = (if beyond 3 (s.railTarget k.val) mv.toNat then min 4 ((s.volt k).run3 + 1) else 0) →
    r6 = (if beyond 6 (s.railTarget k.val) mv.toNat then min 4 ((s.volt k).run6 + 1) else 0) →
    (s.modVolt k.val fun _ => { mv := mv, run3 := r3, run6 := r6, warn := r3 == 4, fail := r6 == 4 }) = u →
    (if r3 = 4 ∧ (s.volt k).run3 ≠ 4 then u.occur 27 (BitVec.ofNat 13 k.val) else u) = v →
    exec (.voltageSample k mv) s =
      .next (if r6 = 4 ∧ (s.volt k).run6 ≠ 4 then v.occur 28 (BitVec.ofNat 13 k.val) else v)) ∧
  (∀ s u v : State, 4 ≤ s.boot.phase → s.boot.failed = false → s.boot.warmLow = false → s.closeRound.advanceTime = u →
    ({ u with off8 := 0, tt := { u.tt with round := u.tt.round + 1 }, pmc := { u.pmc with inForce := u.pmc.cfg } } : State) = v →
    exec .roundBoundary s = .next v.applyRates.settleGates.settleLatch.applyGenPull.sendState ∧
    v.applyRates.settleGates.settleLatch.applyGenPull.sendState.tt.round = u.tt.round + 1 ∧
    v.applyRates.settleGates.settleLatch.applyGenPull.sendState.off8 = 0)

/-- User microcode and the context rows (16_microcode R393 to R410). -/
def Obligations.UserMicrocodeRuns : Prop :=
  (∀ (s u : State) (p : Pkt), s.admits 0x0A00 p wfUcodeLoad = true → s.running 0x0A00 p = u →
    let put (n : Nat) : State := (List.range n).foldl
      (fun (t : State) i => t.setWord (0x3800 + fld (leAt p.params 0 8) 0 11 + i) (userItem p.params i)) u
    (u.userInUse = true → exec (.ucodeLoadUser p) s = .next (finishCmd (s.waiterOf 0x0A00 p) (busy u))) ∧
    (u.userInUse = false → p.cancelAt = none →
      exec (.ucodeLoadUser p) s = .next (s.endsOk 0x0A00 p (put (fld (leAt p.params 0 8) 16 16)))) ∧
    (∀ k, u.userInUse = false → p.cancelAt = some k → k < fld (leAt p.params 0 8) 16 16 →
      exec (.ucodeLoadUser p) s = .next (finishCmd (s.waiterOf 0x0A00 p) (partialReply (put (k + 1)) (k + 1)))) ∧
    (∀ k, u.userInUse = false → p.cancelAt = some k → fld (leAt p.params 0 8) 16 16 ≤ k →
      exec (.ucodeLoadUser p) s = .next (s.endsOk 0x0A00 p (put (fld (leAt p.params 0 8) 16 16))))) ∧
  (∀ (s u : State) (p : Pkt), s.admits 0x0A01 p wfUcodeCall = true → s.running 0x0A01 p = u →
    exec (.ucodeCall p) s = .next ((u.modCtx p.port fun c => callCtx c (s.waiterOf 0x0A01 p) p.params u.nowPs).readyCtx p.port)) ∧
  (∀ (s t : State) (p q : CmdPort), ([CmdPort.cp0, .cp1, .cp2, .cp3].find? fun x => (s.ctx x).st == .running) = some p →
    (s.modCtx p fun c => { c with st := .slice, cause := 1 }) = t →
    (ctxOrder p).find? (fun x => (t.ctx x).st == .slice) = some q → exec .contextSlice s = .next (t.resumeCtx q)) ∧
  (∀ s : State, (∀ q, (s.ctx q).st ≠ .running) →
    (∀ p, (ctxOrder s.ucode.lastCtx).find? (fun x => (s.ctx x).st == .slice) = some p →
      exec .contextSlice s = .next (s.resumeCtx p)) ∧
    ((∀ q, (s.ctx q).st ≠ .slice) → exec .contextSlice s = .next s)) ∧
  (∀ (s : State) (c : CmdPort),
    ((s.ctx c).st = .waiting → s.waitHolds c (wWait (tget 0 s.ucode.words (s.ctx c).upc.toNat)) = true →
      exec (.contextResume c) s = .next (if s.otherReady c then s.modCtx c (fun x => { x with st := .slice }) else s.resumeCtx c)) ∧
    ((s.ctx c).st ≠ .waiting ∨ s.waitHolds c (wWait (tget 0 s.ucode.words (s.ctx c).upc.toNat)) = false →
      exec (.contextResume c) s = .next s)) ∧
  (∀ (s : State) (c : CmdPort),
    (∀ t, (s.ctx c).timer = some t → s.due t = true →
      exec (.contextTimerExpiry c) s = .next ((s.reach t).modCtx c fun x => { x with timer := none, timerDone := true })) ∧
    ((∀ t, (s.ctx c).timer = some t → s.due t = false) → exec (.contextTimerExpiry c) s = .next s)) ∧
  (∀ (s : State) (c : CmdPort),
    ((s.ctx c).st ≠ .idle → s.due ((s.ctx c).startedAt + (s.ctx c).limit * 1000) = true →
      exec (.ucodeLimit c) s = .next ((s.reach ((s.ctx c).startedAt + (s.ctx c).limit * 1000)).ctxLimit c)) ∧
    ((s.ctx c).st = .idle ∨ s.due ((s.ctx c).startedAt + (s.ctx c).limit * 1000) = false → exec (.ucodeLimit c) s = .next s))

/-- The four command ports (15_commands R361 to R364, R381; 04_line R119; 19_pair R468). That a full CP3 queue counts as a discard is the model's choice (log entry 38). -/
def Obligations.CommandPortsRun : Prop :=
  (∀ (s u : State) (n : Fin 64) (v : BitVec 16) (m : List (BitVec 64 × List Byte)), s.softStore m = u →
    (u.cmdRegs n.val = false → exec (.hostCmdTailWrite n v m) s = .next u) ∧
    (u.cmdRegs n.val = true → exec (.hostCmdTailWrite n v m) s = .next (u.modCmdRing n.val fun g =>
      if 2 ^ (u.cmdRing n.val).cmdLog2.toNat < (v - (u.cmdRing n.val).cmdHead).toNat then { g with tailRejected := true }
      else { g with cmdTail := v }))) ∧
  (∀ (s : State) (n : Fin 64) (v : BitVec 16),
    (s.cmdRegs n.val = false → exec (.hostRplTailWrite n v) s = .next s ∧ exec (.hostCmdCtrlReset n) s = .next s) ∧
    (s.cmdRegs n.val = true →
      exec (.hostRplTailWrite n v) s = .next (
        if ((s.cmdRing n.val).rplHead - (s.cmdRing n.val).rplTail).toNat < (v - (s.cmdRing n.val).rplTail).toNat then
          s.modCmdRing n.val (fun g => { g with tailRejected := true })
        else (s.modCmdRing n.val fun g => { g with rplTail := v }).releaseHeld n.val) ∧
      exec (.hostCmdCtrlReset n) s = .next (if n.val = 0 then s.portResetCp0 else (s.portResetRing n.val).settlePortReset))) ∧
  (∀ (s u : State) (a : Fin 3277), s.at_ a.val = u → 4 ≤ u.boot.phase → u.boot.failed = false →
    u.host.frozen = false → u.cp0Free = true →
    (∀ n, u.nextCmdRing = some n →
      let t : State := { u with cmd := { u.cmd with lastRing := n } }
      exec (.cmdRingFetch .data a) s = .next (State.runSlot n t) ∧
      exec (.cmdRingFetch .outstanding a) s = .next (t.issueRead n (.command n)) ∧
      exec (.cmdRingFetch .error a) s = .next (t.slotUnread n) ∧
      exec (.cmdRingFetch .poisoned a) s = .next (t.slotUnread n)) ∧
    (∀ rd, u.nextCmdRing = none → exec (.cmdRingFetch rd a) s = .next u)) ∧
  (∀ (s : State) (t : BitVec 14) (q : ReadReq) (n : Nat), s.host.reads.find? (fun q => q.tag == t) = some q → q.fenced = false →
    q.purpose = .command n →
    exec (.readCompletion t .data) s = .next ((State.runSlot n (s.endRead t)).settleReads q) ∧
    exec (.readCompletion t .error) s = .next (((s.endRead t).slotUnread n).settleReads q) ∧
    exec (.readCompletion t .poisoned) s = .next (((s.endRead t).slotUnread n).settleReads q)) ∧
  (∀ (s u v : State) (f : List Byte) (a : Fin 3277), s.at_ a.val = u → u.countMgmt f = v →
    (u.mgmt.powered = false ∨ u.mgmt.station = 0 → exec (.cp1FrameReceive f a) s = .next u) ∧
    (u.mgmt.powered = true → u.mgmt.station ≠ 0 →
      (∀ bs vlan, v.mgmtAccepts f = some (bs, vlan) →
        exec (.cp1FrameReceive f a) s = .next (if 16 ≤ v.cmd.cp1Q.length then
            { v with mgmt := { v.mgmt with queueFull := v.mgmt.queueFull + 1 } }
          else { v with cmd := { v.cmd with cp1Q := v.cmd.cp1Q ++ [{
            opcode := BitVec.ofNat 16 (leAt bs 0 2)
            pkt := parsePacket .cp1 0 bs (BitVec.ofNat 48 (beAt f 6 6)) vlan 0 }] } })) ∧
      (v.mgmtAccepts f = none →
        exec (.cp1FrameReceive f a) s = .next { v with mgmt := { v.mgmt with discarded := v.mgmt.discarded + 1 } }))) ∧
  (∀ (s u : State) (f : List Byte) (a : Fin 3277), s.at_ a.val = u →
    (u.cp3On = false → exec (.cp3FrameReceive f a) s = .next u) ∧
    (u.cp3On = true → (serialPacket f = none ∨ 4 ≤ u.cmd.cp3Q.length) →
      exec (.cp3FrameReceive f a) s = .next { u with cmd := { u.cmd with cp3Discards := u.cmd.cp3Discards + 1 } }) ∧
    (∀ bs, u.cp3On = true → serialPacket f = some bs → u.cmd.cp3Q.length < 4 →
      exec (.cp3FrameReceive f a) s = .next { u with cmd := { u.cmd with cp3Q := u.cmd.cp3Q ++ [{
        opcode := BitVec.ofNat 16 (leAt bs 0 2)
        pkt := parsePacket .cp3 0 bs 0 none 0 }] } })) ∧
  (∀ (s : State) (us : Nat),
    (us < 1000 ∨ s.cp3On = false → exec (.cp3Break us) s = .next s) ∧
    (1000 ≤ us → s.cp3On = true → (s.ctx .cp3).st = .idle →
      exec (.cp3Break us) s = .next (({ s with cmd := { s.cmd with cp3Q := [] } } : State).unfence 3)) ∧
    (∀ u : State, 1000 ≤ us → s.cp3On = true → (s.ctx .cp3).st ≠ .idle → s.modCtx .cp3 (fun c => { c with cancel := true }) = u →
      exec (.cp3Break us) s = .next (({ u with cmd := { u.cmd with cp3Q := [] } } : State).unfence 3))) ∧
  (∀ (s v : State) (q : BitVec 64) (op : BitVec 16) (p : Pkt) (tN : Nat), s.heardNow = v →
    (s.mirroring = true → s.mirror.role = .standby → s.mirror.seq < q → s.mirror.cp2Q.length < 16 →
      exec (.commandMessage q op p tN) s = .next (v.modMirror fun x =>
        { x with cp2Q := x.cp2Q ++ [{ seq := q, opcode := op, pkt := p, tN := tN }] }).takeCp2) ∧
    (s.mirroring = false ∨ s.mirror.role ≠ .standby ∨ q ≤ s.mirror.seq ∨ 16 ≤ s.mirror.cp2Q.length →
      exec (.commandMessage q op p tN) s = .next v))

/-- The registers of the performance counters (21_counters R500 to R508). -/
def Obligations.CountersRun : Prop :=
  (∀ (s : State) (k : Fin 256) (v : BitVec 64),
    ∃ t, exec (.pmcCtrWrite k v) s = .next t ∧ tget 0 t.pmc.ctr k.val = v.setWidth 48 ∧
      (∀ j, j ≠ k.val → tget 0 t.pmc.ctr j = tget 0 s.pmc.ctr j) ∧ t = { s with pmc := { s.pmc with ctr := t.pmc.ctr } }) ∧
  (∀ (s : State) (k : Fin 256) (v : BitVec 64),
    (isPipeCtr k.val = true ∨ isGlobalCtr k.val = true →
      exec (.pmcCfgWrite k v) s = .next { s with pmc := { s.pmc with
        cfg := tset 0 s.pmc.cfg k.val (BitVec.ofNat 64 (v.toNat &&& (bits 0 14 + bits 16 8))) } }) ∧
    (isPipeCtr k.val = false → isGlobalCtr k.val = false → exec (.pmcCfgWrite k v) s = .next s)) ∧
  (∀ (s u : State) (v : BitVec 64),
    { s with pmc := { s.pmc with
      markNo := v.setWidth 8
      markPair := v.getLsbD 8
      markRejected := s.pmc.markRejected && !v.getLsbD 11
      pairMissed := s.pmc.pairMissed && !v.getLsbD 12 } } = u →
    (v.getLsbD 9 = false → exec (.pmcMark v) s = .next u) ∧
    (v.getLsbD 9 = true → s.pmc.markBusy = true →
      exec (.pmcMark v) s = .next { u with pmc := { u.pmc with markRejected := true } }) ∧
    (v.getLsbD 9 = true → s.pmc.markBusy = false → v.getLsbD 8 = true → u.mirroring = true →
      exec (.pmcMark v) s = .next (({ u with
        pmc := { u.pmc with markBusy := true }
        out := .link 3 [0, (v.setWidth 8).toNat] :: u.out } : State).latchMark (v.setWidth 8))) ∧
    (v.getLsbD 9 = true → s.pmc.markBusy = false → v.getLsbD 8 = true → u.mirroring = false →
      exec (.pmcMark v) s = .next (({ u with pmc := { u.pmc with pairMissed := true } } : State).latchMark (v.setWidth 8))) ∧
    (v.getLsbD 9 = true → s.pmc.markBusy = false → v.getLsbD 8 = false →
      exec (.pmcMark v) s = .next (u.latchMark (v.setWidth 8)))) ∧
  (∀ (s u : State) (v : BitVec 64),
    { s with pmc := { s.pmc with
      sweepFirst := fld v.toNat 0 8
      sweepLast := fld v.toNat 8 8
      sweepRejected := s.pmc.sweepRejected && !v.getLsbD 18 } } = u →
    (v.getLsbD 16 = false → exec (.pmcSweep v) s = .next u) ∧
    (v.getLsbD 16 = true → s.pmc.sweepBusy = true →
      exec (.pmcSweep v) s = .next { u with pmc := { u.pmc with sweepRejected := true } }) ∧
    (v.getLsbD 16 = true → s.pmc.sweepBusy = false →
      ∃ t, exec (.pmcSweep v) s = .next t ∧ t.pmc.sweepBusy = true ∧
        t.pmc.sweeping = some (fld v.toNat 0 8, max (fld v.toNat 0 8) (fld v.toNat 8 8)) ∧
        (∀ k, fld v.toNat 0 8 ≤ k → k < max (fld v.toNat 0 8) (fld v.toNat 8 8) →
          (tget 0 t.pmc.sweep k).toNat % 2 ^ 48 = (tget 0 s.pmc.ctr k).toNat) ∧
        t = { u with
          freeCtr := t.freeCtr
          pmc := { u.pmc with sweepBusy := true, sweeping := t.pmc.sweeping, sweep := t.pmc.sweep } })) ∧
  (∀ s : State,
    (s.pmc.sweeping = none → exec .sweepComplete s = .next s) ∧
    (∀ first last, s.pmc.sweeping = some (first, last) →
      ∃ t, exec .sweepComplete s = .next t ∧ t.pmc.sweepBusy = false ∧ t.pmc.sweeping = none ∧
        (tget 0 t.pmc.sweep last).toNat % 2 ^ 48 = (tget 0 s.pmc.ctr last).toNat ∧
        t = { s with
          freeCtr := s.freeCtr + 1
          pmc := { s.pmc with sweepBusy := false, sweeping := none, sweep := t.pmc.sweep } }))

/-- Accesses to BAR0 (17_host R415; 00_scope R6). -/
def Obligations.RegisterWritesRun : Prop :=
  (∀ (s : State) (a : BitVec 26) (v : BitVec 64),
    (a.toNat % 8 = 0 → exec (.registerWrite a .eight v) s = .next (s.regPut (s.barReg a.toNat) v)) ∧
    (a.toNat % 4 = 0 → exec (.registerWrite a .four v) s = .next (s.regPut (s.barReg (a.toNat / 8 * 8))
      (BitVec.ofNat 64 (setFld (s.regRw (s.barReg (a.toNat / 8 * 8))) (8 * (a.toNat % 8)) 32 (v.toNat % 2 ^ 32))))) ∧
    (a.toNat % 8 ≠ 0 → exec (.registerWrite a .eight v) s = .next { s with out := .unsupported 0 :: s.out }) ∧
    (a.toNat % 4 ≠ 0 → exec (.registerWrite a .four v) s = .next { s with out := .unsupported 0 :: s.out }) ∧
    exec (.registerWrite a .other v) s = .next { s with out := .unsupported 0 :: s.out }) ∧
  (∀ (s u : State) (a : Nat), s.settleLatch = u →
    (a % 8 = 0 → s.registerRead a .eight = (u.clearRead a, some (u.barValue a))) ∧
    (a % 4 = 0 → s.registerRead a .four = (u, some (u.barValue (a / 8 * 8) / 2 ^ (8 * (a % 8)) % 2 ^ 32))) ∧
    (a % 8 ≠ 0 → s.registerRead a .eight = ({ u with out := .unsupported 0 :: u.out }, none)) ∧
    (a % 4 ≠ 0 → s.registerRead a .four = ({ u with out := .unsupported 0 :: u.out }, none)) ∧
    s.registerRead a .other = ({ u with out := .unsupported 0 :: u.out }, none)) ∧
  (∀ s : State, ((s.registerRead 0x18 .eight).1.registerRead 0x18 .eight).2 = some 0 ∧
    ((s.registerRead 0x30 .eight).1.registerRead 0x30 .eight).2 = some 0 ∧
    ((s.registerRead 0x40 .eight).1.registerRead 0x40 .eight).2 = some 0 ∧
    ∀ r : Fin 1024, ((s.registerRead (0x200000 + r.val * 0x40 + 0x38) .eight).1.dma r.val).dropped = 0)

/-- Resets, start-up and the test port (22_board R524 to R529). -/
def Obligations.ResetsRun : Prop :=
  (∀ (s : State) (b : Board), b.straps.getLsbD 5 = true →
    exec (.coldReset b) s = .next { State.reset with
      pending := s.pending
      freeCtr := s.freeCtr
      out := s.out
      env := s.env
      host := { State.reset.host with mem := s.host.mem, peer := s.host.peer, perstLow := s.host.perstLow }
      boot := { State.reset.boot with straps := b.straps } }) ∧
  (∀ (s u : State) (b : Board), b.straps.getLsbD 5 = false → (s.powerCycle.bootMonitors b).bootFlash b = u →
    (u.boot.failed = false → exec (.coldReset b) s = .next
      ((({ u with cmd := { u.cmd with bootNonce := b.nonce } } : State).bootIslands).bootDram b.dimms)) ∧
    (u.boot.failed = true → exec (.coldReset b) s = .next u ∧ u.boot.phase = 3)) ∧
  (∀ (s : State) (g : Fin 8), 4 ≤ s.boot.phase → s.boot.warmLow = false → s.boot.serdesEnabled.getLsbD g.val = true →
    s.boot.serdesUp.getLsbD g.val = false → (∀ i < g.val, s.boot.serdesEnabled.getLsbD i = true → s.boot.serdesUp.getLsbD i = true) →
    ∃ t, exec (.serdesGroupUp g) s = .next t ∧ t.boot.serdesUp = s.boot.serdesUp ||| BitVec.ofNat 8 (2 ^ g.val) ∧
      ∀ i < 8, (t.macro_ (8 * g.val + i)).serdesUp = true) ∧
  (∀ (s : State) (g : Fin 8), (s.boot.phase < 4 ∨ s.boot.warmLow = true ∨ s.boot.serdesEnabled.getLsbD g.val = false ∨
      s.boot.serdesUp.getLsbD g.val = true ∨
      ∃ i < g.val, s.boot.serdesEnabled.getLsbD i = true ∧ s.boot.serdesUp.getLsbD i = false) →
    exec (.serdesGroupUp g) s = .next s) ∧
  (∀ s : State, 4 ≤ s.boot.phase → s.boot.warmLow = false → s.boot.done = false → s.boot.serdesUp = s.boot.serdesEnabled →
    (∀ k < 16, (s.chan k).st ≠ .training) →
    exec .startupComplete s = .next { s with boot := { s.boot with done := true, phase := 10 } }) ∧
  (∀ s : State, (s.boot.phase < 4 ∨ s.boot.warmLow = true ∨ s.boot.done = true ∨ s.boot.serdesUp ≠ s.boot.serdesEnabled ∨
      ∃ k < 16, (s.chan k).st = .training) → exec .startupComplete s = .next s) ∧
  (∀ (s u : State) (a : Fin 3277), s.at_ a.val = u →
    (4 ≤ u.boot.phase → u.boot.failed = false → exec (.warmReset a) s = .next (u.stopTransmit.cabinetSafe).warmKeep ∧
      (u.stopTransmit.cabinetSafe).warmKeep.boot.phase = 3) ∧
    (u.boot.phase < 4 ∨ u.boot.failed = true → exec (.warmReset a) s = .next u)) ∧
  (∀ (s : State) (ds : List (Fin 16 × List Int)),
    (s.boot.warmLow = true → exec (.warmResetRelease ds) s = .next (
      let t := ((((({ s with boot := { s.boot with warmLow := false } } : State).restoreTables).selfRefresh false).calibrateRanks
        ds).bootIslands)
      (t.ports.map (·.1)).foldl (fun (u : State) lp => u.restorePort lp) t)) ∧
    (s.boot.warmLow = false → exec (.warmResetRelease ds) s = .next s)) ∧
  (∀ (s : State) (k : BitVec 256) (vpp low : Bool),
    (vpp = true → low = true → s.env.lockFuse = false →
      exec (.ownerProgram k vpp low) s = .next { s with env := { s.env with ownerFuse := some k, lockFuse := true } }) ∧
    (vpp = false ∨ low = false ∨ s.env.lockFuse = true → exec (.ownerProgram k vpp low) s = .next s)) ∧
  (∀ s : State,
    (∀ k, s.env.ownerBytes = some k →
      exec .ownerStatus s = .next { s with boot := { s.boot with tdo := true :: bitsOf (sha256 k) } }) ∧
    (s.env.ownerBytes = none → ∃ l : List Bool, l.length = 256 ∧
      exec .ownerStatus s = .next { s with freeCtr := s.freeCtr + 256, boot := { s.boot with tdo := false :: l } })) ∧
  (∀ s : State, exec .bootStatus s = .next { s with boot := { s.boot with tdo := bitsOf (bytesLe 8 s.hostBoot) } })

/-- The register writes of a DMA ring (17_host R420, R421, R440). -/
def Obligations.RingRegistersRun : Prop :=
  (∀ (s : State) (r : Fin 1024) (n : Fin 64) (v : BitVec 64), s.ringWritable r.val n.val = true →
    exec (.dmaCtrlEnable r n v) s =
      .next (s.modDma r.val (s.ctrlWritten r.val (setFld v.toNat 0 2 1))) ∧
    exec (.dmaCtrlReset r n) s = .next (s.resetRing r.val)) ∧
  (∀ (s u : State) (r : Fin 1024) (n : Fin 64) (v : BitVec 32) (m : List (BitVec 64 × List Byte)), s.softStore m = u →
    (u.ringWritable r.val n.val = true →
      exec (.dmaTailWrite r n v m) s = .next (u.modDma r.val fun d =>
        if 2 ^ (u.dma r.val).log2.toNat < (v - (u.dma r.val).head).toNat then { d with tailRejected := true }
        else { d with tail := v })) ∧
    (u.ringWritable r.val n.val = false → exec (.dmaTailWrite r n v m) s = .next u)) ∧
  (∀ (s : State) (r : Fin 1024) (n : Fin 64) (v : BitVec 64), s.ringWritable r.val n.val = true →
    exec (.dmaCircRposWrite r n v) s = .next (s.modDma r.val fun d =>
      if (s.dma r.val).rpos ≤ v ∧ v ≤ (s.dma r.val).wpos then { d with rpos := v } else { d with tailRejected := true })) ∧
  (∀ (s : State) (r : Fin 1024) (n : Fin 64) (v : BitVec 64), s.ringWritable r.val n.val = false →
    exec (.dmaCtrlEnable r n v) s = .next s ∧ exec (.dmaCtrlReset r n) s = .next s ∧ exec (.dmaCircRposWrite r n v) s = .next s)

/-- The work of the DMA rings (17_host R422 to R436). That a ring command runs the ring's piece of work to its last burst is the model's choice (log entry 127). -/
def Obligations.RingWorkCompletes : Prop :=
  (∀ (s t : State) (r : Fin 1024), s.nextTurn = some r.val → s.hasWork r.val = true →
    { s with host := { s.host with turn := r.val } } = t → (t.dma r.val).typ = 1 → (t.dma r.val).chain = none →
    (t.gather r.val (t.dma r.val).head [] 64 = .notOwned → ∀ rd,
      exec (.injectDescriptor r rd) s = .next (t.haltRing r.val 0x11).settleInst) ∧
    (t.gather r.val (t.dma r.val).head [] 64 = .tooLong → ∀ rd,
      exec (.injectDescriptor r rd) s = .next (t.haltRing r.val 0x21).settleInst) ∧
    (∀ ds, t.gather r.val (t.dma r.val).head [] 64 = .chain ds →
      exec (.injectDescriptor r .error) s = .next (t.haltRing r.val 0x30).settleInst ∧
      exec (.injectDescriptor r .poisoned) s = .next (t.haltRing r.val 0x30).settleInst ∧
      (t.flt.safe = true → exec (.injectDescriptor r .data) s = .next (t.completeChain r.val ds 0x30 0).settleInst) ∧
      (t.flt.safe = false → t.injectBad r.val ds = true →
        exec (.injectDescriptor r .data) s = .next (t.completeChain r.val ds 0x11 0).settleInst) ∧
      (t.flt.safe = false → t.injectBad r.val ds = false → linkSpace (ds.headD []) = 3 →
        exec (.injectDescriptor r .data) s = .next (t.injectLeased r.val (ds.headD [])).settleInst) ∧
      (∀ (x : List Nat × State) (u : State) (c : ChainProg), t.flt.safe = false → t.injectBad r.val ds = false →
        linkSpace (ds.headD []) ≠ 3 → t.cab.paused = false → (wantsReport ds = true → t.reportRoom r.val = true) →
        t.mayAllocate (t.dma r.val).owner.val (cellsFor (chainLen ds)) = true →
        t.allocate (t.dma r.val).owner.val (cellsFor (chainLen ds)) = x →
        c = { first := (t.dma r.val).head, descs := ds, hold := x.1.head?, report := wantsReport ds } →
        (x.2.modDma r.val fun d => { d with chain := some c }).reserveReport r.val (wantsReport ds) = u →
        chainLen ds ≤ 4096 →
        exec (.injectDescriptor r .data) s = .next (u.injectBurst r.val c).settleInst ∧
        (ds.any (fun d => linkSpace d == 2) = false →
          u.injectBurst r.val c = u.injectEnd r.val c (chainCells u.buf.links (cellsFor (chainLen ds)) (c.hold.getD 0))
            (((linkPieces ds 0 4096).map fun p => (u.spaceRead p.1 p.2.1 p.2.2).1).flatten))))) ∧
  (∀ (s t : State) (r : Fin 1024) (c : ChainProg), s.nextTurn = some r.val → s.hasWork r.val = true →
    { s with host := { s.host with turn := r.val } } = t → (t.dma r.val).chain = some c →
    ((t.dma r.val).typ = 1 → t.flt.safe = true →
      exec (.injectDescriptor r .data) s = .next ((t.dropChain r.val).completeChain r.val c.descs 0x30 0).settleInst) ∧
    ((t.dma r.val).typ = 1 → t.flt.safe = false → t.cab.paused = false → chainLen c.descs ≤ c.moved + 4096 →
      exec (.injectDescriptor r .data) s = .next (t.injectBurst r.val c).settleInst) ∧
    (∀ f rest, (t.dma r.val).typ = 2 → (t.dma r.val).backlog = f :: rest →
      (t.readFrame f.id f.data).length ≤ c.moved + 4096 →
      exec (.deliverFrame r .data false) s = .next (t.deliverBurst r.val c).settleInst) ∧
    (∀ d, (t.dma r.val).typ = 4 → t.cab.paused = false → c.descs = [d] → (copyDesc d).len ≤ c.moved + 4096 →
      exec (.copyDescriptor r .data) s = .next (t.copyBurst r.val c).settleInst)) ∧
  (∀ (s t u : State) (r : Fin 1024) (f : Frame) (rest : List Frame) (data : List Byte) (ds : List (List Byte)),
    s.nextTurn = some r.val → s.hasWork r.val = true → { s with host := { s.host with turn := r.val } } = t →
    (t.dma r.val).chain = none → (t.dma r.val).backlog = f :: rest →
    ((t.dma r.val).typ = 2 →
      exec (.deliverFrame r .data true) s =
        .next (((t.modDma r.val fun d => { d with backlog := rest }).slowDrop f).tick 0x89).settleInst) ∧
    ((t.dma r.val).typ = 3 →
      exec (.leaseFrame r .data true) s =
        .next (((t.modDma r.val fun d => { d with backlog := rest }).slowDrop f).tick 0x89).settleInst) ∧
    ((t.modDma r.val fun d => { d with
      chain := some { first := (t.dma r.val).head, descs := ds, hold := none, report := false } }) = u →
      u.readFrame f.id f.data = data →
      ((t.dma r.val).typ = 2 → t.gatherBufs r.val (t.dma r.val).head f.data.length [] 64 = .chain ds → data.length ≤ 4096 →
        exec (.deliverFrame r .data false) s = .next
          (((((u.spread (t.dma r.val).owner.val 0 (data.take 4096) ds).modDma r.val fun d => { d with backlog := rest }).freeFrameCells
            f).completeWrites r.val (descRun (t.dma r.val).head (deliverDescs f true data.length ds)) true).settleInst)) ∧
      ((t.dma r.val).typ = 3 → t.gatherBufs r.val (t.dma r.val).head 1 [] 64 = .chain ds →
        exec (.leaseFrame r .data false) s = .next
          ((((((u.modDma r.val fun d => { d with backlog := rest }).hostWrite (t.dma r.val).owner.val (leAt (ds.headD []) 0 8)
            (data.take 256)).leaseChain (t.dma r.val).owner.val f).completeWrites r.val (descRun (t.dma r.val).head
              [patch (deliverDesc f (ds.headD []) true false) 0 (bytesLe 8 (f.cells.headD 0 * 256))]) true).settleInst))))) ∧
  (∀ (s t : State) (r : Fin 1024) (ds : List (List Byte)), s.nextTurn = some r.val → s.hasWork r.val = true →
    { s with host := { s.host with turn := r.val } } = t → (t.dma r.val).chain = none → (t.dma r.val).typ = 4 →
    t.gather r.val (t.dma r.val).head [] 64 = .chain ds →
    (ds.any (fun d => t.copyBad r.val d) = true →
      exec (.copyDescriptor r .data) s = .next (t.completeChain r.val ds 0x11 0).settleInst) ∧
    (∀ (d : List Byte) (u : State) (x : State × Bool) (c : ChainProg), ds = [d] → t.copyBad r.val d = false →
      t.cab.paused = false → (copyDesc d).len ≤ 4096 →
      c = { first := (t.dma r.val).head, descs := ds, hold := none, report := false } →
      (t.modDma r.val fun y => { y with chain := some c }) = u →
      u.copyBytes (t.dma r.val).owner.val (copyDesc d) 0 = x →
      exec (.copyDescriptor r .data) s = .next (x.1.copyDone r.val
        { c with descs := [], done := [withStatus d (if x.2 then 0x30 else 0) 0] }).settleInst)) ∧
  (∀ (s : State) (r : Fin 1024) (rd : HostRead) (bad : Bool), s.hasWork r.val = false →
    exec (.injectDescriptor r rd) s = .next s ∧ exec (.deliverFrame r rd bad) s = .next s ∧
    exec (.leaseFrame r rd bad) s = .next s ∧ exec (.copyDescriptor r rd) s = .next s)

/-- The ends of read requests and waits (17_host R424 to R438). -/
def Obligations.ReadsAndWaitsEnd : Prop :=
  (∀ (s u : State) (x : List Byte) (rest : List (List Byte)), s.host.notices = x :: rest → s.host.frozen = false →
    { s with host := { s.host with notices := rest } } = u →
    (s.host.rings.find? (fun y => y.2.enable && y.2.typ == 5 && !y.2.halted && !y.2.resetBusy) = none →
      exec .noticeWrite s = .next (u.tick 0x99)) ∧
    (∀ r d, s.host.rings.find? (fun y => y.2.enable && y.2.typ == 5 && !y.2.halted && !y.2.resetBusy) = some (r, d) →
      (d.rpos.toNat + 2 ^ d.circLog2.toNat < d.wpos.toNat + x.length →
        exec .noticeWrite s = .next ((u.tick 0x99).modDma r fun d => { d with dropped := d.dropped + 1 })) ∧
      (∀ v : State, d.wpos.toNat + x.length ≤ d.rpos.toNat + 2 ^ d.circLog2.toNat →
        ((u.hostWrite d.owner.val (d.circBase.toNat / 4096 * 4096 + d.wpos.toNat % 2 ^ d.circLog2.toNat) x).modDma r fun d =>
          { d with wpos := d.wpos + BitVec.ofNat 64 x.length }) = v →
        ((∀ t, d.lastEvent = some t → t + 1000000 ≤ v.nowPs) →
          exec .noticeWrite s = .next ((v.modDma r fun d => { d with lastEvent := some v.nowPs }).raise r)) ∧
        (∀ t, d.lastEvent = some t → v.nowPs < t + 1000000 → exec .noticeWrite s = .next v)))) ∧
  (∀ (s : State) (r : Fin 1024),
    (∀ q, s.host.reads.find? (fun q => q.purpose == .barrier r.val && !q.fenced) = some q →
      exec (.barrierDone r) s = .next (((s.endRead q.tag).finishBarrier r.val).settleRing r.val).settleInst) ∧
    (s.host.reads.find? (fun q => q.purpose == .barrier r.val && !q.fenced) = none → exec (.barrierDone r) s = .next s)) ∧
  (∀ (s : State) (t : BitVec 14) (rd : HostRead),
    (s.host.reads.find? (fun q => q.tag == t) = none → exec (.readCompletion t rd) s = .next s) ∧
    (∀ q, s.host.reads.find? (fun q => q.tag == t) = some q → rd ≠ .outstanding →
      (∀ u : State, q.fenced = true → s.endRead t = u →
        exec (.readCompletion t rd) s = .next (({ u with host := { u.host with lateCpl := u.host.lateCpl + 1 } } : State).settleReads q)) ∧
      (∀ r, q.fenced = false → q.purpose = .ring r → exec (.readCompletion t rd) s = .next
        ((if rd = .data then (s.endRead t).burstOf r .data else (s.endRead t).haltRing r 0x30).settleReads q)) ∧
      (∀ r, q.fenced = false → q.purpose = .barrier r → exec (.readCompletion t rd) s = .next
        ((if rd = .data then (s.endRead t).finishBarrier r else (s.endRead t).haltRing r 0x30).settleReads q)))) ∧
  (∀ (s : State) (r : Fin 1024) (need : Nat) (refused : Bool),
    need = (match s.gather r.val (s.dma r.val).head [] 64 with | .chain ds => cellsFor (chainLen ds) | _ => 0) →
    refused = ((s.dma r.val).waitQuota && !s.mayAllocate (s.dma r.val).owner.val need) →
    (s.host.frozen = false → (s.inst (s.dma r.val).owner.val).st = .active →
      exec (.ringWaitResume r) s = .next ((if refused then s.refuseAllocation (s.dma r.val).owner.val else s).modDma r.val fun d =>
        { d with
          waitCab := d.waitCab && (if refused then s.refuseAllocation (s.dma r.val).owner.val else s).cab.paused
          waitReport := d.waitReport && !(if refused then s.refuseAllocation (s.dma r.val).owner.val else s).reportRoom r.val
          waitQuota := refused })) ∧
    (s.host.frozen = true ∨ (s.inst (s.dma r.val).owner.val).st ≠ .active → exec (.ringWaitResume r) s = .next s)) ∧
  (∀ (s : State) (t : BitVec 14),
    (s.host.reads.find? (fun q => q.tag == t) = none → exec (.completionTimeout t) s = .next s) ∧
    (∀ q, s.host.reads.find? (fun q => q.tag == t) = some q → s.due (q.issued + q.tct) = false →
      exec (.completionTimeout t) s = .next s) ∧
    (∀ (q : ReadReq) (u : State), s.host.reads.find? (fun q => q.tag == t) = some q → s.due (q.issued + q.tct) = true →
      (s.reach (q.issued + q.tct)).endRead t = u →
      ∃ v : State, v.host.cplTimeout = u.host.cplTimeout + 1 ∧ (v.fn q.fn).aerTimeout = true ∧
        v.host.quarantine = u.host.quarantine ++ (if q.fenced then [] else [(t, u.nowPs + 2 * q.tct, q.fn)]) ∧
        (q.fenced = true → exec (.completionTimeout t) s = .next (v.settleReads q)) ∧
        (∀ r, q.fenced = false → q.purpose = .ring r ∨ q.purpose = .barrier r →
          exec (.completionTimeout t) s = .next ((v.haltRing r 0x22).settleReads q)) ∧
        (∀ n, q.fenced = false → q.purpose = .command n →
          exec (.completionTimeout t) s = .next ((v.slotUnread n).settleReads q)) ∧
        (∀ n, q.fenced = false → q.purpose = .dirtyLog n → exec (.completionTimeout t) s = .next (v.settleReads q)))) ∧
  (∀ (s : State) (t : BitVec 14),
    (s.host.quarantine.find? (fun q => q.1 == t) = none →
      exec (.lateCompletion t) s = .next s ∧ exec (.tagQuarantineEnd t) s = .next s) ∧
    (∀ q, s.host.quarantine.find? (fun q => q.1 == t) = some q →
      exec (.lateCompletion t) s = .next (({ s with host := { s.host with lateCpl := s.host.lateCpl + 1 } } : State).modFn q.2.2
        fun f => { f with aerUnexpected := true }) ∧
      (s.due q.2.1 = false → exec (.tagQuarantineEnd t) s = .next s) ∧
      (∀ u : State, s.due q.2.1 = true → s.reach q.2.1 = u → exec (.tagQuarantineEnd t) s = .next
        { u with host := { u.host with quarantine := u.host.quarantine.filter fun x => x.1 != t } })))

/-- Frames up to their pass (04_line R535; 02_timetable R33 to R46, R67, R68). -/
def Obligations.FramesEnterThePasses : Prop :=
  (∀ (s u : State) (lp : Fin 512) (w : List Byte) (a : Fin 3277), s.at_ a.val = u →
    (u.isUp lp.val = false → exec (.frameReceive lp w a) s = .next u) ∧
    (u.isUp lp.val = true → u.flt.safe = true →
      exec (.frameReceive lp w a) s = .next { u with flt := { u.flt with safeDiscard := u.flt.safeDiscard + 1 } }) ∧
    (u.isUp lp.val = true → u.flt.safe = false →
      (w.length < 64 → exec (.frameReceive lp w a) s = .next (u.stat lp.val 0x038)) ∧
      (∀ (long : Bool) (len : Nat) (data : List Byte) (fcs : BitVec 32) (c : FcsCheck), 64 ≤ w.length →
        long = decide (u.maxFrame lp.val < w.length) → len = (if long then u.maxFrame lp.val else w.length) →
        data = w.take (len - 4) → fcs = BitVec.ofNat 32 (le ((w.drop (len - 4)).take 4)) →
        c = { tooLong := long, ok := !long && fcs == crc32 data, stomped := !long && fcs == ~~~ crc32 data } →
        (c.ok = true → u.filtered lp.val data = true → exec (.frameReceive lp w a) s = .next (u.stat lp.val 0x048)) ∧
        (c.ok = true → u.filtered lp.val data = false → beAt data 12 2 = 0x8808 →
          exec (.frameReceive lp w a) s = .next (u.macControl lp.val data len)) ∧
        (c.ok = true → u.filtered lp.val data = false → beAt data 12 2 ≠ 0x8808 →
          exec (.frameReceive lp w a) s = .next ((u.countGood lp.val data len).acceptFrame lp data len c fcs)) ∧
        (c.ok = false → (len ≤ 256 ∨ u.filtered lp.val data = true ∨ beAt data 12 2 = 0x8808) →
          exec (.frameReceive lp w a) s = .next (u.countBad lp.val c)) ∧
        (c.ok = false → 256 < len → u.filtered lp.val data = false → beAt data 12 2 ≠ 0x8808 →
          exec (.frameReceive lp w a) s = .next ((u.countBad lp.val c).acceptFrame lp data len c fcs))))) ∧
  (∀ (s : State) (lp : Fin 512) (cycle : Fin 1024) (f : Frame) (rest : List Frame),
    takeFirst (fun f => f.lp == lp) s.flow.rx = (some f, rest) →
    (∀ u : State, s.due (s.crossing f (s.absCycle cycle.val) * 400) = true →
      s.reach (s.crossing f (s.absCycle cycle.val) * 400) = u →
      exec (.headRelease lp cycle) s = .next { u with flow := { u.flow with
        rx := rest
        waiting := u.flow.waiting ++ [(f, s.crossing f (s.absCycle cycle.val))] } }) ∧
    (s.due (s.crossing f (s.absCycle cycle.val) * 400) = false → exec (.headRelease lp cycle) s = .next s)) ∧
  (∀ (s u v y w : State) (p : Fin 16) (slot : Fin 2048) (up : Upsets) (img : List Byte),
    s.at_ (cycleAt8 (slot.val / 2)) = u → u.tt.active = some img → u.beginSlot p.val slot.val = some v →
    v.settlePasses p.val ((u.tt.round.toNat * 2048 + slot.val) / 2) = y → y.tt = u.tt →
    (∀ lp o, u.oldOwner p.val slot.val = some lp → u.tt.old = some o →
      exec (.headSlot p slot up) s = .next (y.portSlot p.val slot.val lp true o up)) ∧
    (∀ lp, u.oldOwner p.val slot.val = none → fld (slotEntry img p.val slot.val) 0 3 = 1 →
      fld (slotEntry img p.val slot.val) 3 9 = lp → y.passSwitch lp (u.tt.round.toNat * 2048 + slot.val) = w →
      (w.flt.safe = true → exec (.headSlot p slot up) s = .next (w.idleSlot p.val false)) ∧
      (w.flt.safe = false → (w.tt.unswitched.any (·.val == lp) = true ∨ w.withheld p.val slot.val = true) →
        exec (.headSlot p slot up) s = .next (w.idleSlot p.val (w.headAt lp ((u.tt.round.toNat * 2048 + slot.val) / 2)).1.isSome)) ∧
      (w.flt.safe = false → w.tt.unswitched.any (·.val == lp) = false → w.withheld p.val slot.val = false →
        exec (.headSlot p slot up) s = .next (w.portSlot p.val slot.val lp false img up)))) ∧
  (∀ (s v : State) (p : Fin 16) (slot : Fin 2048) (up : Upsets) (img : List Byte) (e : Nat),
    (s.at_ (cycleAt8 (slot.val / 2))).ownSlot p.val slot.val [2] = some (v, img, e) →
    (∀ rest, takeFirst (fun x => x.1 == p.val) v.flow.recirc = (none, rest) →
      exec (.recircPass p slot up) s = .next (v.idleSlot p.val false)) ∧
    (∀ x rest, takeFirst (fun x => x.1 == p.val) v.flow.recirc = (some x, rest) →
      (v.flt.safe = true → exec (.recircPass p slot up) s = .next (v.idleSlot p.val false)) ∧
      (v.flt.safe = false → v.withheld p.val slot.val = true → exec (.recircPass p slot up) s = .next (v.idleSlot p.val true)) ∧
      (v.flt.safe = false → v.withheld p.val slot.val = false →
        exec (.recircPass p slot up) s = .next (({ v with flow := { v.flow with recirc := rest } } : State).enterSlot p.val
          (v.tt.round.toNat * 2048 + slot.val) 0x003 (fld e 12 2) img x.2 up)))) ∧
  (∀ (s v : State) (p : Fin 16) (slot : Fin 2048) (up : Upsets) (img : List Byte) (e : Nat),
    (s.at_ (cycleAt8 (slot.val / 2))).ownSlot p.val slot.val [3, 4] = some (v, img, e) →
    (∀ rest, v.injectHead p.val (fld e 0 3) = (none, rest) → exec (.injectSlot p slot up) s = .next (v.idleSlot p.val false)) ∧
    (∀ x rest, v.injectHead p.val (fld e 0 3) = (some x, rest) →
      (v.flt.safe = true → exec (.injectSlot p slot up) s = .next (v.idleSlot p.val false)) ∧
      (v.flt.safe = false → (v.withheld p.val slot.val = true ∨ v.coldHold = true) →
        exec (.injectSlot p slot up) s = .next (v.idleSlot p.val true)) ∧
      (∀ (t : State) (j : InjectMeta), v.flt.safe = false → v.withheld p.val slot.val = false → v.coldHold = false →
        fld e 0 3 = 3 → x.2.inj = some j →
        t = { v with flow := { v.flow with inject := rest, injectLast := tset 1024 v.flow.injectLast p j.ring } } →
        exec (.injectSlot p slot up) s = .next (t.enterSlot p.val (v.tt.round.toNat * 2048 + slot.val) 0x004 (fld e 12 2) img
          { x.2 with data := t.readFrame x.2.id x.2.data } up)) ∧
      (∀ t : State, v.flt.safe = false → v.withheld p.val slot.val = false → v.coldHold = false → fld e 0 3 = 4 →
        t = { v with flow := { v.flow with inject := rest } } →
        exec (.injectSlot p slot up) s = .next (t.enterSlot p.val (v.tt.round.toNat * 2048 + slot.val) 0x005 (fld e 12 2) img
          { x.2 with data := t.readFrame x.2.id x.2.data } up)))) ∧
  (∀ (s u : State) (p : Fin 16) (slot : Fin 2048) (up : Upsets), s.at_ (cycleAt8 (slot.val / 2)) = u →
    u.beginSlot p.val slot.val = none →
    exec (.headSlot p slot up) s = .next u ∧ exec (.recircPass p slot up) s = .next u ∧ exec (.injectSlot p slot up) s = .next u)

/-- Heads, feeds and bodies in the buffer island (02_timetable R44; 09_feeds R233 to R243; 10_buffer R251, R253). -/
def Obligations.HeadsAndBodiesAreStored : Prop :=
  (∀ (s u v : State) (cycle : Fin 512) (bad : List (Fin 96)) (abs : Nat) (hs : List (Nat × Nat × Frame)),
    s.at_ (bufferAt8 cycle.val) = u → abs = u.tt.round.toNat * 512 + cycle.val →
    ((((List.range 16).foldl (fun (t : State) p => t.settlePasses p (2 * abs + 1)) u).decideUpTo (2 * abs)).leaveStage) = v →
    v.handed abs = hs →
    exec (.headHandoff cycle bad) s = .next ((hs.foldl (fun (t : State) x =>
      (t.slotCount x.1 0).decideHead x.1 (handStream x) (passEnd x.2.1 x.2.2 / 2)
        (passEnd x.2.1 x.2.2 / 2 == abs && (bad.map (·.val)).contains (handStream x)) x.2.2)
      { v with flow := { v.flow with inPass := v.flow.inPass.filter fun x => !hs.any fun y => y.2.2.id == x.2.2.id } }).leaveStage)) ∧
  (∀ (s : State) (p : Fin 16),
    (s.flow.arb.find? (fun h => h.pipe == p.val && h.index.isSome) = none → exec (.feedDecision p) s = .next s) ∧
    (∀ h, s.flow.arb.find? (fun h => h.pipe == p.val && h.index.isSome) = some h →
      (s.tt.round.toNat < h.index.getD 0 / 1024 → exec (.feedDecision p) s = .next s) ∧
      (h.index.getD 0 / 1024 ≤ s.tt.round.toNat → exec (.feedDecision p) s = .next
        ((s.at_ (bufferAt8 (h.index.getD 0 / 2 - s.tt.round.toNat * 512))).decideUpTo (h.index.getD 0 + 1)).leaveStage))) ∧
  (∀ (s : State) (h : StageHead) (f : Frame) (a : FeedAnswer), s.withBody h.frame = f →
    s.feedDecide f.cw.feedId f.cw.fields = a →
    ∃ g : Frame, g.id = f.id ∧ g.cells = f.cells ∧ g.cw = f.cw ∧
      (a.pass = false → s.decideFeed h = (a.st.modStage f.id fun _ => none).feedDiscard g) ∧
      (a.pass = true → s.decideFeed h = (a.st.modBody f.id fun b => { b with feed := g.feed }).modStage f.id fun h =>
        some { h with frame := g, decided := true })) ∧
  (∀ (s u : State) (lp : Fin 512) (cycle : Fin 512) (bank : Fin 64), s.at_ (bufferAt8 cycle.val) = u →
    (u.arriving lp.val = none → exec (.bodyCellWrite lp cycle bank) s = .next u ∧ exec (.lastCellArrival lp cycle bank) s = .next u) ∧
    (∀ f, u.arriving lp.val = some f →
      (f.refused = true →
        exec (.bodyCellWrite lp cycle bank) s = .next u ∧
        exec (.lastCellArrival lp cycle bank) s = .next ((u.resolveCandidates f).bodyOver f.id)) ∧
      (f.refused = false → u.windowOk cycle.val bank.val 2 lp.val = false →
        exec (.bodyCellWrite lp cycle bank) s = .next u ∧ exec (.lastCellArrival lp cycle bank) s = .next u) ∧
      (f.refused = false → u.windowOk cycle.val bank.val 2 lp.val = true → f.bodyCells + 2 < f.cellCount →
        exec (.bodyCellWrite lp cycle bank) s = .next ((u.writeBody f bank.val).getD u) ∧
        exec (.lastCellArrival lp cycle bank) s = .next u) ∧
      (f.refused = false → u.windowOk cycle.val bank.val 2 lp.val = true → f.cellCount ≤ f.bodyCells + 2 →
        exec (.bodyCellWrite lp cycle bank) s = .next u ∧
        (u.writeBody f bank.val = none → exec (.lastCellArrival lp cycle bank) s = .next u) ∧
        (∀ v, u.writeBody f bank.val = some v →
          exec (.lastCellArrival lp cycle bank) s = .next ((v.resolveCandidates f).lastStored f))))) ∧
  (∀ (s : State) (k : Fin 64),
    (s.tt.round.toNat * 64 + k.val < s.arb.serviceWin → exec (.revocation k) s = .next s) ∧
    (∀ u : State, s.arb.serviceWin ≤ s.tt.round.toNat * 64 + k.val →
      ({ s with arb := { s.arb with serviceWin := s.tt.round.toNat * 64 + k.val + 1 } } : State).at_
        (bufferAt8 (serviceCycle k.val)) = u →
      (u.arb.revs = [] → exec (.revocation k) s = .next u) ∧
      (∀ r rest, u.arb.revs = r :: rest →
        exec (.revocation k) s = .next (({ u with arb := { u.arb with revs := rest } } : State).revoke r)))) ∧
  (∀ (s : State) (k : Fin 128),
    (s.tt.round.toNat * 128 + k.val < s.arb.scanWin → exec (.feedGapScan k) s = .next s) ∧
    (∀ u v : State, s.arb.scanWin ≤ s.tt.round.toNat * 128 + k.val →
      ({ s with arb := { s.arb with scanWin := s.tt.round.toNat * 128 + k.val + 1 } } : State).at_
        (bufferAt8 (scanCycle k.val)) = u →
      { u with arb := { u.arb with scanNext := u.arb.scanNext + 1 } } = v →
      (v.reportsGaps = false → exec (.feedGapScan k) s = .next v) ∧
      (v.reportsGaps = true → exec (.feedGapScan k) s = .next
        (((v.feed u.arb.scanNext.val).gaps.filter fun g =>
          decide (fld (u.feedCfg u.arb.scanNext.val) 32 16 * 1000 * 65536 ≤ (v.resTime + 2 ^ 64 - g.openedRes) % 2 ^ 64)).foldl
            (fun (t : State) g => t.freeGap u.arb.scanNext.val g 1) v))))

/-- Copies and cells (12_egress R295 to R299; 04_line R106, R114; 10_buffer R255; 11_pool R279 to R287). -/
def Obligations.CopiesLeave : Prop :=
  (∀ (s u x : State) (lp : Fin 512) (bad : Bool) (a : Fin 3277), s.at_ a.val = u → (u.sendPauses lp.val).settlePort lp.val = x →
    (u.isUp lp.val = false ∨ u.flt.safe = true ∨ u.boot.warmLow = true ∨ u.inFlush lp.val = true →
      exec (.schedulerPick lp bad a) s = .next u) ∧
    (u.isUp lp.val = true → u.flt.safe = false → u.boot.warmLow = false → u.inFlush lp.val = false →
      (x.mayPick lp.val = false → exec (.schedulerPick lp bad a) s = .next x) ∧
      (∀ v, x.mayPick lp.val = true → ((x.markBlocked lp.val).countWaits lp.val).pickClass lp.val = (v, none) →
        exec (.schedulerPick lp bad a) s = .next v) ∧
      (∀ v k, x.mayPick lp.val = true → ((x.markBlocked lp.val).countWaits lp.val).pickClass lp.val = (v, some k) →
        exec (.schedulerPick lp bad a) s = .next (v.startCopy lp.val (16 * lp.val + k) bad) ∧
        ∀ e f held, v.firstCopy (16 * lp.val + k) = some (e, f) → (v.unlinkFirst (16 * lp.val + k)).holdEntry f = some held →
          v.startCopy lp.val (16 * lp.val + k) false = (v.unlinkFirst (16 * lp.val + k)).launch lp.val (16 * lp.val + k) e f false held))) ∧
  (∀ (s u : State) (lp : Fin 512) (a : Fin 3277), s.at_ a.val = u →
    ((u.egr lp.val).wire = [] → exec (.transmitEnd lp a) s = .next u) ∧
    (∀ w rest, (u.egr lp.val).wire = w :: rest →
      (u.stored? w.frame = none → exec (.transmitEnd lp a) s = .next (u.finishTx lp.val)) ∧
      (∀ f, u.stored? w.frame = some f →
        (f.lastIn = false ∨ u.due (u.lineEnd lp.val w) = false → exec (.transmitEnd lp a) s = .next u) ∧
        (∀ v, f.lastIn = true → u.due (u.lineEnd lp.val w) = true →
          ((u.reach (u.lineEnd lp.val w)).finishTx lp.val).addBack w ((w.estimate : Int) - (w.sentLen f : Nat)) = v →
          exec (.transmitEnd lp a) s = .next (if v.isUp lp.val then v else v.settleIsland (macroOf lp.val)))))) ∧
  (∀ (s u : State) (lp : Fin 512) (c : Fin 512) (b : Fin 64), s.at_ (bufferAt8 c.val) = u →
    ((u.egr lp.val).flushing = false ∨ u.windowOk c.val b.val 3 lp.val = false →
      exec (.queueFlushUnlink lp c b) s = .next u) ∧
    ((u.egr lp.val).flushing = true → u.windowOk c.val b.val 3 lp.val = true →
      ((∀ k < 16, (u.queue (16 * lp.val + k)).entries = []) →
        exec (.queueFlushUnlink lp c b) s = .next (u.modEgr lp.val fun e => { e with flushing := false })) ∧
      (∀ k e f v, (List.range 16).find? (fun k => !(u.queue (16 * lp.val + k)).entries.isEmpty) = some k →
        u.firstCopy (16 * lp.val + k) = some (e, f) →
        ((((u.unlinkFirst (16 * lp.val + k)).modEgr lp.val fun e => { e with flushDrop := e.flushDrop + 1 }).dropCopyRecord f 8
          (16 * lp.val + k)).copyLost f.id (16 * lp.val + k)) = v →
        exec (.queueFlushUnlink lp c b) s = .next (v.modEgr lp.val fun e => { e with
          flushing := e.flushing && (List.range 16).any fun k => !(v.queue (16 * lp.val + k)).entries.isEmpty })))) ∧
  (∀ s : State,
    (s.pool.walks = [] → exec .chainFreeWalk s = .next s) ∧
    (∀ c n rest, s.pool.walks = (c, n) :: rest →
      exec .chainFreeWalk s = .next ((chainCells s.buf.links n c).foldl (fun (t : State) c => t.returnCell c)
        { s with pool := { s.pool with walks := rest } }))) ∧
  (∀ (s : State) (r : Fin 65) (n : Nat),
    exec (.poolAllocate r n) s = .next (if (s.req r.val).charge + n ≤ (s.req r.val).quota ∧
        n + (reserveCells - s.reserveUse) ≤ s.freeCells then (s.allocate r.val n).2
      else s.modReq r.val fun x => { x with refused := x.refused + 1 }))

/-- Pool windows, refills and gates (11_pool R279, R280; 12_egress R300 to R308). -/
def Obligations.WindowsAndGatesRun : Prop :=
  (∀ (s u v : State) (c : Fin 512) (b : Fin 64), s.at_ (bufferAt8 c.val) = u → u.modBank b.val (fun x => x.settle u.nowBuffer) = v →
    (u.windowOk c.val b.val 5 b.val = false → exec (.poolService c b) s = .next u) ∧
    (u.windowOk c.val b.val 5 b.val = true →
      (192 < (v.bank b.val).cached → exec (.poolService c b) s = .next (v.spillBank b.val)) ∧
      ((v.bank b.val).cached < 64 → 64 ≤ (v.bank b.val).count → exec (.poolService c b) s = .next (v.fillBank b.val)) ∧
      ((v.bank b.val).cached ≤ 192 → (64 ≤ (v.bank b.val).cached ∨ (v.bank b.val).count < 64) →
        exec (.poolService c b) s = .next v))) ∧
  (∀ s : State, ∃ t : State, exec .shaperRefill s = .next t ∧ t.buf.refill = (s.buf.refill + 1) % 8) ∧
  (∀ (s u : State) (lp : Fin 512) (a : Fin 3277), s.at_ a.val = u →
    ((u.egr lp.val).gatesNext = none → exec (.gateSwitch lp a) s = .next (u.markBlocked lp.val)) ∧
    (∀ g x, (u.egr lp.val).gatesNext = some (g, x) →
      let t : State := u.modEgr lp.val fun e => ({ e with
        gates := some g
        gatesNext := none
        gatesNextRound := none
        gatesArm := none } : EgressPort).position u.devTime
      (∀ r, (u.egr lp.val).gatesNextRound = some r → exec (.gateSwitch lp a) s = .next
        (if r ≤ u.tt.round then t.markBlocked lp.val else u.markBlocked lp.val)) ∧
      ((u.egr lp.val).gatesNextRound = none → exec (.gateSwitch lp a) s = .next
        (if (∀ r, (u.egr lp.val).gatesArm = some r → r ≤ u.tt.round) ∧ x ≤ u.devTime then t.markBlocked lp.val
          else u.markBlocked lp.val)))) ∧
  (∀ (s u : State) (lp : Fin 512) (a : Fin 3277), s.at_ a.val = u →
    ((u.egr lp.val).gates.isSome = true → exec (.gateEntryAdvance lp a) s = .next (u.modEgr lp.val fun e => e.position u.devTime)) ∧
    ((u.egr lp.val).gates = none → exec (.gateEntryAdvance lp a) s = .next u))

/-- A step takes the front command (the queue of the model); on an empty queue it idles, which is the choice of log entry 11. -/
def Obligations.StepRunsTheFrontCommand : Prop :=
  (∀ (c : Instr) (rest : List Instr) (s : State), step { s with pending := c :: rest } = exec c { s with pending := rest }) ∧
  (∀ s : State, s.pending = [] → step s = .next s)

/-- `State.Inv` holds at reset (15_commands R369, R370; 22_board R529). -/
def Obligations.ResetMeetsInv : Prop :=
  State.reset.Inv

/-- Every step keeps `State.Inv` (15_commands R369, R370: without an owner key every other slot stays empty; 22_board R529). -/
def Obligations.StepKeepsInv : Prop :=
  ∀ s t : State, s.Inv → step s = .next t → t.Inv

/-- No command changes the queue of the commands that wait (first in, first out). -/
def Obligations.StepTakesTheFrontCommand : Prop :=
  ∀ (s t : State) (c : Instr) (rest : List Instr), s.pending = c :: rest → step s = .next t → t.pending = rest

/-- No other command changes the fuses or the key of the owner slot (22_board R529; 15_commands R369). -/
def Obligations.FusesAndOwnerKeyAreForGood : Prop :=
  ∀ s t : State, s.Inv → step s = .next t →
    (t.env ≠ s.env → s.env.lockFuse = false ∧ ∃ (k : BitVec 256) (rest : List Instr), s.pending = .ownerProgram k true true :: rest) ∧
    ((t.key 0).key ≠ (s.key 0).key → ∃ (b : Board) (rest : List Instr), s.pending = .coldReset b :: rest)

/-- The checks of a packet in their order, and the counter that they leave (15_commands R373, R374). -/
def Obligations.RefusedPacketsDoNoWork : Prop :=
  ∀ (s : State) (op : Nat) (p : Pkt) (wf : List Byte → State → Bool) (h : Handler) (w : Waiter),
    4 ≤ (s.at_ p.at8.val).boot.phase → (s.at_ p.at8.val).boot.failed = false → (s.at_ p.at8.val).mirrorBusy op p = false →
    ((s.at_ p.at8.val).ctx p.port).st = .idle → (s.arrived op p).fenced p.port = false → (s.arrived op p).keptReply p = none →
    w = mkWaiter op p (if p.port = .cp2 then some (s.arrived op p).mirror.seq else none) →
    (∀ st de, (s.arrived op p).authCheck op p = some (st, de) →
      s.runCommand op p wf h = finishCmd w { st := s.arrived op p, status := st, detail := de }) ∧
    ((s.arrived op p).authCheck op p = none →
      (p.trailer = true → ((s.arrived op p).key p.keySlot.toNat).counter < p.counter ∧
        ((s.authed op p).key p.keySlot.toNat).counter = p.counter) ∧
      (wf p.params (s.authed op p) = false → s.runCommand op p wf h = finishCmd w (badLength (s.authed op p))))

/-- Writes and reads of a memory (17_host R431; 13_cabinet R329). -/
def Obligations.MemoryReadsBack : Prop :=
  ∀ (m : List (Nat × BitVec 8)) (a : Nat) (bs : List Byte), Memory.wf m = true →
    (∀ k, memRead (memWrite m a bs) k = if a ≤ k ∧ k < a + bs.length then bs.getD (k - a) 0 else memRead m k) ∧
    Memory.wf (memWrite m a bs) = true

/-- A write to the Cabinet (14_dram R353, R356). -/
def Obligations.CabinetWritesReachOnlyTheirBytes : Prop :=
  ∀ (s : State) (a : Nat) (bs : List Byte), Memory.wf s.cab.mem = true →
    (∀ k, memRead (s.cabPut a bs).cab.mem k =
      if a ≤ k ∧ k < a + bs.length ∧ s.voidUnit k = false then bs.getD (k - a) 0 else memRead s.cab.mem k) ∧
    (s.cabPut a bs).cab.chans = s.cab.chans ∧ (s.cabPut a bs).cab.drawers = s.cab.drawers ∧
    Memory.wf (s.cabPut a bs).cab.mem = true

/-- Frames of the events that store nothing (04_line R96, R110 to R117; 05_time R127, R133 to R136, R152; 21_counters R500 to R507; 19_pair R460, R470, R473; 17_host R416, R421; 13_cabinet R330). -/
def Obligations.EventFrames : Prop :=
  (∀ (s t : State) (lp : Fin 512) (k : Fin 9) (op : BitVec 16) (cl : BitVec 8) (q : List (BitVec 16)) (a : Fin 3277)
    (n1 n2 n3 n4 : Nat) (c : Instr),
    c ∈ [Instr.pauseReceive lp op cl q a, .pauseTakeEffect lp, .pauseExpiry lp k, .pauseWatchdogTrip lp k, .pauseHoldoffEnd lp k,
      .pauseTx lp k, .fecDegradeCheck lp n1 n2 n3 n4, .wakeDetectorRearm lp] →
    exec c s = .next t →
    t = { s with ports := t.ports, off8 := t.off8, evts := t.evts, out := t.out, host := { s.host with fns := t.host.fns },
                 buf := { s.buf with egress := t.buf.egress }, flt := { s.flt with safeDiscard := t.flt.safeDiscard } } ∧
    ∀ j, j ≠ lp.val → t.port j = s.port j ∧ t.egr j = s.egr j) ∧
  (∀ (s t : State) (a : Fin 3277) (n : Nat) (v : BitVec 64) (d : Fin 161) (c : Instr),
    c ∈ [Instr.ppsInEdge a, .ppsAbsent, .ppsOutEdge a, .ref10mCount n, .slewEnd, .timeLatch v d a] →
    exec c s = .next t →
    t = { s with time := t.time, off8 := t.off8, evts := t.evts, out := t.out, host := { s.host with fns := t.host.fns } }) ∧
  (∀ (s t : State) (k : Fin 256) (v : BitVec 64) (c : Instr),
    c ∈ [Instr.pmcCtrWrite k v, .pmcCfgWrite k v, .pmcSweep v, .sweepComplete] → exec c s = .next t →
    t = { s with pmc := t.pmc, freeCtr := t.freeCtr }) ∧
  (∀ (s t : State) (v : BitVec 64), exec (.pmcMark v) s = .next t →
    t = { s with pmc := t.pmc, ports := t.ports, mgmt := t.mgmt, out := t.out } ∧
    ∀ lp < 512, (t.port lp).stats = (s.port lp).stats) ∧
  (∀ (s t : State) (r : Fin 19) (a : Fin 3277) (c : Instr), c ∈ [Instr.linkAck, .timeMessageSend a, .digestSend r] →
    exec c s = .next t →
    t = { s with off8 := t.off8, out := t.out, mirror := { s.mirror with
      ackRound := t.mirror.ackRound
      timeRound := t.mirror.timeRound
      digestAt := t.mirror.digestAt } }) ∧
  (∀ (s t : State) (r : Fin 1024) (n : Fin 64) (v : BitVec 64), exec (.dmaCircRposWrite r n v) s = .next t →
    t = { s with host := { s.host with rings := t.host.rings } } ∧ ∀ j, j ≠ r.val → t.dma j = s.dma j) ∧
  (∀ (s t : State) (n d : Fin 64) (v : BitVec 64), exec (.cabDrwRposWrite n d v) s = .next t →
    t = { s with cab := { s.cab with drawers := t.cab.drawers } } ∧ ∀ j, j ≠ d.val → t.drawer j = s.drawer j) ∧
  (∀ (s t : State) (n : Fin 64), exec (.winCommit n) s = .next t →
    t = { s with insts := t.insts } ∧ ∀ j, j ≠ n.val → t.inst j = s.inst j)

/-- 02_timetable R64. -/
def Obligations.TtLoadRefusedDuringActivation : Prop :=
  ∀ (s : State) (p : Pkt) (a : Activation), s.admits 0x0100 p wfTtLoad = true → s.tt.act = some a →
    a.phase = .armed ∨ a.phase = .committed ∨ a.phase = .draining →
    ∃ t, exec (.ttLoad p) s = .next t ∧
      t = finishCmd (s.waiterOf 0x0100 p) { st := s.running 0x0100 p, status := 0x14, detail := 0 } ∧
      t.tt.shadow = s.tt.shadow ∧ t.tt.shadowState = s.tt.shadowState

/-- 04_line R98. -/
def Obligations.ModeChangeNeedsPortsDown : Prop :=
  (∀ (s : State) (p : Pkt), s.admits 0x0300 p wfPortConfig = true →
    fld (le (p.params.take 8)) 8 2 ≠ (s.macro_ (fld (le (p.params.take 8)) 0 6)).mode.toNat →
    s.macroUp (fld (le (p.params.take 8)) 0 6) = true →
    ∃ t, exec (.portConfig p) s = .next t ∧
      t = finishCmd (s.waiterOf 0x0300 p) { st := s.running 0x0300 p, status := 0x14, detail := 0 } ∧
      t.ports = s.ports ∧ t.macros = s.macros) ∧
  (∀ (s : State) (b : Board), ∃ t, exec (.coldReset b) s = .next t ∧
    ∀ m lp, (t.macro_ m).mode = 0 ∧ (t.port lp).st = .disabled ∧ (t.port lp).cfg = 0)

/-- 05_time R128. -/
def Obligations.TimeSetFormat : Prop :=
  ∀ (s : State) (p : Pkt), s.admits 0x0500 p (fun _ _ => true) = true →
    p.params.length ≠ 40 ∨ 10 ^ 9 ≤ fld (img p.params) 80 32 ∨ 10 ^ 9 ≤ fld (img p.params) 208 32 ∨ 2 < fld (img p.params) 0 8 ∨
      fld (img p.params) 8 56 ≠ 0 ∨ fld (img p.params) 160 32 ≠ 0 ∨ fld (img p.params) 288 32 ≠ 0 →
    exec (.timeSet p) s = .next (finishCmd
      (mkWaiter 0x0500 p (if p.port = .cp2 then some (s.arrived 0x0500 p).mirror.seq else none))
      { st := s.authed 0x0500 p, status := 0x11, detail := 0 })

/-- 05_time R135. A unit of the device time is 2^-16 ns. -/
def Obligations.PpsOffsetMeasured : Prop :=
  ∀ (s u : State) (a : Fin 3277) (k d : Int), s.at_ a.val = u →
    (∀ r, u.time.ppsLastRes = some r → secUnits ≤ 2 * ((u.resTime + 2 ^ 64 - r) % 2 ^ 64)) →
    (u.stamp : Int) = k * (secUnits : Int) + d → 2 * d.natAbs < secUnits →
    ∃ t, exec (.ppsInEdge a) s = .next t ∧
      (d.natAbs ≤ 32767 * 65536 → (t.time.ppsOffset * 65536 - d).natAbs < 65536) ∧
      (32767 * 65536 ≤ d → t.time.ppsOffset = 32767) ∧ (d ≤ -(32767 * 65536) → t.time.ppsOffset = -32767)

/-- 12_egress R303. -/
def Obligations.LeavingUpClearsCredits : Prop :=
  (∀ (s : State) (lp : Fin 512) (st : PortState) (c : Bool), s.isUp lp.val = true → st ≠ .up →
    ((s.leaveUp lp.val st c).port lp.val).st = st ∧ ((s.leaveUp lp.val st c).egr lp.val).credit = 0 ∧
    ∀ k < 16, ((s.leaveUp lp.val st c).queue (16 * lp.val + k)).credit = 0 ∧
      ((s.leaveUp lp.val st c).queue (16 * lp.val + k)).deficit = 0) ∧
  (∀ (s : State) (lp : Fin 512), s.isUp lp.val = true →
    ∃ t, exec (.linkLoss lp) s = .next t ∧ t.isUp lp.val = false ∧ (t.egr lp.val).credit = 0 ∧
      ∀ k < 16, (t.queue (16 * lp.val + k)).credit = 0 ∧ (t.queue (16 * lp.val + k)).deficit = 0)

/-- 05_time R145: the amount added is the sub-nanosecond part of the egress timestamp for operation 1 and the residence for operation 2. -/
def Obligations.CorrectionFieldSaturates : Prop :=
  ∀ (op off ts : Nat) (res add sum : Int) (h : List Byte), op = 1 ∨ op = 2 → ptpFits op off h.length = true →
    add = (if op = 1 then ((ts % 65536 : Nat) : Int) else res) → sum = sgn 64 (beAt h (off + 8) 8) + add →
    (beAt h (off + 8) 8 = 0x7FFFFFFFFFFFFFFF ∨ sum < -(2 ^ 63 : Int) ∨ (2 ^ 63 - 1 : Int) < sum →
      beAt (ptpApply op off ts res h) (off + 8) 8 = 0x7FFFFFFFFFFFFFFF) ∧
    (beAt h (off + 8) 8 ≠ 0x7FFFFFFFFFFFFFFF → -(2 ^ 63 : Int) ≤ sum → sum ≤ (2 ^ 63 - 1 : Int) →
      sgn 64 (beAt (ptpApply op off ts res h) (off + 8) 8) = sum) ∧
    (ptpApply op off ts res h).length = h.length ∧
    ∀ i < h.length, (i < off + 8 ∨ off + 16 ≤ i) → (op = 1 → i < off + 34 ∨ off + 44 ≤ i) →
      byteAt (ptpApply op off ts res h) i = byteAt h i
end

