-- ==== Sys2Proof/Laws/Commands.lean ====
section
/-!
SUPPORT. What a command packet does, said once: an admitted one runs its handler, and ends as the handler's status says.
-/

namespace Sys2Proof.Machine

/-- An admitted packet runs its handler on `running` and ends as the handler's status says. -/
theorem State.runCommand_admitted {s : State} {op : Nat} {p : Pkt} {wf : List Byte → State → Bool} {h : Handler}
    (ha : s.admits op p wf = true) :
    s.runCommand op p wf h =
      (let d := h (s.waiterOf op p) p p.params (s.running op p)
       if d.status = 0x100 then d.st
       else if d.status = 1 then
         ({ d.st with cmd := { d.st.cmd with awaiting := d.st.cmd.awaiting + 1 } } : State).firstReply (s.waiterOf op p)
           (mkReply (s.waiterOf op p).opcode 1 d.detail (s.waiterOf op p).tag []) none
       else finishCmd (s.waiterOf op p) d) := by
  unfold State.admits at ha
  simp only [Bool.and_eq_true, decide_eq_true_eq, Bool.not_eq_true', Option.isNone_iff_eq_none] at ha
  obtain ⟨⟨⟨⟨⟨⟨⟨⟨⟨hph, hfa⟩, hmb⟩, hid⟩, hfe⟩, hke⟩, hau⟩, hwf⟩, hro⟩, hsa⟩ := ha
  have e1 : ¬((s.at_ p.at8.val).boot.phase < 4 ∨ (s.at_ p.at8.val).boot.failed = true) := by
    rintro (h | h)
    · omega
    · exact absurd h (by rw [hfa]; decide)
  have e2 : ¬((s.at_ p.at8.val).mirrorBusy op p = true ∨ ((s.at_ p.at8.val).ctx p.port).st ≠ .idle) := by
    rintro (h | h)
    · exact absurd h (by rw [hmb]; decide)
    · exact h hid
  have e3 : ¬(s.arrived op p).fenced p.port = true := by rw [hfe]; decide
  have e4 : ¬(!wf p.params (s.authed op p)) = true := by rw [hwf]; decide
  have e5 : ¬((s.authed op p).mirror.role = .standby ∧ p.port ≠ .cp2 ∧ primaryOnly op p.params = true) := by
    rintro ⟨h1, h2, h3⟩
    rw [h3, decide_eq_true h1, decide_eq_true h2] at hro
    exact absurd hro (by decide)
  have e6 : ¬((s.accepted op p).flt.safe = true ∧ (!safeOp op) = true) := by
    rintro ⟨h1, h2⟩
    rw [h1, h2] at hsa
    exact absurd hsa (by decide)
  unfold State.runCommand
  refine (if_neg e1).trans ((if_neg e2).trans ?_)
  refine (if_neg e3).trans ?_
  change (match (s.arrived op p).keptReply p with | some _ => _ | none => _) = _
  rw [hke]
  change (match (s.arrived op p).authCheck op p with | some (_, _) => _ | none => _) = _
  rw [hau]
  exact (if_neg e4).trans ((if_neg e5).trans (if_neg e6))
/-- An admitted packet whose handler answers OK. -/
theorem State.runCommand_ok {s t : State} {op : Nat} {p : Pkt} {wf : List Byte → State → Bool} {h : Handler} {r : List Byte}
    (ha : s.admits op p wf = true) (hh : h (s.waiterOf op p) p p.params (s.running op p) = ok t r) :
    s.runCommand op p wf h = s.endsOk op p t r := by
  rw [State.runCommand_admitted ha, hh]; rfl

/-- An admitted packet whose handler answers PENDING. -/
theorem State.runCommand_pending {s t : State} {op : Nat} {p : Pkt} {wf : List Byte → State → Bool} {h : Handler}
    (ha : s.admits op p wf = true) (hh : h (s.waiterOf op p) p p.params (s.running op p) = pendingReply t) :
    s.runCommand op p wf h = s.endsPending op p t := by
  rw [State.runCommand_admitted ha, hh]; rfl

/-- An admitted packet whose handler ends at once with another status. -/
theorem State.runCommand_final {s : State} {op : Nat} {p : Pkt} {wf : List Byte → State → Bool} {h : Handler} {d : Done}
    (ha : s.admits op p wf = true) (hh : h (s.waiterOf op p) p p.params (s.running op p) = d) (h1 : d.status ≠ 1)
    (h2 : d.status ≠ 0x100) : s.runCommand op p wf h = finishCmd (s.waiterOf op p) d := by
  rw [State.runCommand_admitted ha, hh]
  exact (if_neg h2).trans (if_neg h1)

@[simp] theorem State.waiterOf_port (s : State) (op : Nat) (p : Pkt) : (s.waiterOf op p).port = p.port := by
  unfold State.waiterOf; dsimp only; split <;> (split <;> rfl)
@[simp] theorem State.waiterOf_tag (s : State) (op : Nat) (p : Pkt) : (s.waiterOf op p).tag = p.tag := by
  unfold State.waiterOf; dsimp only; split <;> (split <;> rfl)
@[simp] theorem State.waiterOf_inst (s : State) (op : Nat) (p : Pkt) : (s.waiterOf op p).inst = p.inst := by
  unfold State.waiterOf; dsimp only; split <;> (split <;> rfl)
@[simp] theorem State.waiterOf_opcode (s : State) (op : Nat) (p : Pkt) : (s.waiterOf op p).opcode = BitVec.ofNat 16 op := by
  unfold State.waiterOf; dsimp only; split <;> (split <;> rfl)

end Sys2Proof.Machine
end

