-- ==== Sys2Proof/Laws/Crypto.lean ====
section
/-!
SUPPORT. Octets and the keyed check: how long they are, and that a number's octets spell it.
-/

namespace Sys2Proof.Machine

@[simp] theorem bytesLe_length (n v : Nat) : (bytesLe n v).length = n := by
  induction n generalizing v with
  | zero => rfl
  | succ n ih => simp [bytesLe, ih]

@[simp] theorem bytesBe_length (n v : Nat) : (bytesBe n v).length = n := by simp [bytesBe]

theorem le_lt (l : List Byte) : le l < 256 ^ l.length := by
  induction l with
  | nil => simp [le]
  | cons b l ih =>
    have := b.isLt
    simp only [le, List.length_cons, Nat.pow_succ]
    omega

/-- The octets of the number that octets spell are those octets. -/
theorem bytesLe_le (l : List Byte) : bytesLe l.length (le l) = l := by
  induction l with
  | nil => rfl
  | cons b l ih =>
    have hb : b.toNat < 256 := b.isLt
    simp only [le, List.length_cons, bytesLe]
    rw [show (b.toNat + 256 * le l) / 256 = le l by omega, ih]
    congr 1
    apply BitVec.eq_of_toNat_eq
    simp only [BitVec.toNat_ofNat]
    omega

theorem le_append (a b : List Byte) : le (a ++ b) = le a + 256 ^ a.length * le b := by
  induction a with
  | nil => simp [le]
  | cons x a ih =>
    simp only [List.cons_append, le, ih, List.length_cons, Nat.pow_succ]
    ring

theorem sha256Round_length (v : List (BitVec 32)) (kw : BitVec 32 × BitVec 32) : (sha256Round v kw).length = v.length := by
  unfold sha256Round
  split <;> simp

theorem sha256Rounds_length (k : List (BitVec 32 × BitVec 32)) (v : List (BitVec 32)) :
    (k.foldl sha256Round v).length = v.length := by
  induction k generalizing v with
  | nil => rfl
  | cons x k ih => rw [List.foldl_cons, ih, sha256Round_length]

theorem sha256Blocks_length (n : Nat) (h : List (BitVec 32)) (bs : List Byte) : (sha256Blocks n h bs).length = h.length := by
  induction n generalizing h bs with
  | zero => rfl
  | succ n ih => rw [sha256Blocks, ih]; simp [sha256Block, sha256Rounds_length]

/-- A SHA-256 digest has 32 octets. -/
@[simp] theorem sha256_length (m : List Byte) : (sha256 m).length = 32 := by
  have h8 : ∀ (n : Nat) (bs : List Byte), ((sha256Blocks n sha256H0 bs).map fun w => bytesBe 4 w.toNat).flatten.length = 32 := by
    intro n bs
    have := sha256Blocks_length n sha256H0 bs
    match sha256Blocks n sha256H0 bs, this with
    | [a, b, c, d, e, f, g, i], _ => simp
  exact h8 _ _

@[simp] theorem hmac256_length (k m : List Byte) : (hmac256 k m).length = 32 := sha256_length _

/-! ### A check tells strings apart that differ in their last octet -/

theorem crcBit_inj {poly a b : BitVec 32} (hp : poly.getLsbD 31 = true) (h : crcBit poly a = crcBit poly b) : a = b := by
  have key : ∀ x : BitVec 32, (crcBit poly x).getLsbD 31 = x.getLsbD 0 := by
    intro x
    unfold crcBit
    split <;> rename_i hx
    · rw [BitVec.getLsbD_xor, BitVec.getLsbD_ushiftRight, hp, hx]; simp
    · rw [BitVec.getLsbD_ushiftRight, Bool.eq_false_iff.2 hx]; simp
  have h0 : a.getLsbD 0 = b.getLsbD 0 := by rw [← key, ← key, h]
  have hs : a >>> 1 = b >>> 1 := by
    unfold crcBit at h
    rw [h0] at h
    split at h
    · exact (BitVec.xor_left_inj _).1 h
    · exact h
  apply BitVec.eq_of_getLsbD_eq
  intro i hi
  cases i with
  | zero => exact h0
  | succ i =>
    have := congrArg (·.getLsbD i) hs
    simpa [Nat.add_comm] using this

theorem crcByte_inj {poly a b : BitVec 32} {x y : Byte} (hp : poly.getLsbD 31 = true) (h : crcByte poly a x = crcByte poly b y) :
    a ^^^ x.setWidth 32 = b ^^^ y.setWidth 32 := by
  unfold crcByte at h
  dsimp only at h
  exact crcBit_inj hp (crcBit_inj hp (crcBit_inj hp (crcBit_inj hp (crcBit_inj hp (crcBit_inj hp (crcBit_inj hp
    (crcBit_inj hp h)))))))

/-- Octet strings that differ in their last octet alone have different checks. -/
theorem crc32c_last {bs : List Byte} {x y : Byte} (h : crc32c (bs ++ [x]) = crc32c (bs ++ [y])) : x = y := by
  unfold crc32c crc32With at h
  simp only [List.foldl_append, List.foldl_cons, List.foldl_nil] at h
  have h1 := crcByte_inj (poly := 0x82F63B78) (by decide) (BitVec.not_inj.1 h)
  have h2 := (BitVec.xor_right_inj _).1 h1
  have h3 := congrArg (BitVec.setWidth 8) h2
  simpa using h3

theorem crc32c_ne {a b bs : List Byte} {x y : Byte} (ha : a = bs ++ [x]) (hb : b = bs ++ [y]) (h : x ≠ y) :
    crc32c a ≠ crc32c b := by
  rw [ha, hb]
  exact fun e => h (crc32c_last e)

end Sys2Proof.Machine
end

