-- ==== Sys2Proof/Laws/KeyWrap.lean ====
section
/-!
SUPPORT. The key unwrap is onto: every 32-octet key has a wrapping under every 32-octet wrapping key (15_commands R376). Each part of
AES-256 decryption is onto on 16-octet blocks, so each step of the unwrap is.
-/

namespace Sys2Proof.Machine

theorem xor_onto {k y : List Byte} (h : k.length = y.length) :
    ∃ x : List Byte, x.length = y.length ∧ List.zipWith (· ^^^ ·) x k = y := by
  refine ⟨List.zipWith (· ^^^ ·) y k, by simp [h], ?_⟩
  induction y generalizing k with
  | nil => rfl
  | cons a y ih =>
    match k, h with
    | b :: k, h =>
      simp only [List.zipWith_cons_cons, ih (Nat.succ.inj h)]
      congr 1
      rw [BitVec.xor_assoc, BitVec.xor_self, BitVec.xor_zero]

theorem invSbox_onto : ∀ b : Byte, ∃ a : Byte, invSbox a = b := by
  have h : ∀ b : Fin 256, invSbox (sbox (BitVec.ofFin b)) = BitVec.ofFin b := by decide +kernel
  exact fun b => ⟨sbox b, h b.toFin⟩

theorem invSboxes_onto (y : List Byte) : ∃ x : List Byte, x.length = y.length ∧ x.map invSbox = y := by
  induction y with
  | nil => exact ⟨[], rfl, rfl⟩
  | cons b y ih =>
    obtain ⟨x, hl, hx⟩ := ih
    obtain ⟨a, ha⟩ := invSbox_onto b
    exact ⟨a :: x, by simp [hl], by simp [ha, hx]⟩

theorem invShiftRows_onto {y : List Byte} (h : y.length = 16) : ∃ x : List Byte, x.length = 16 ∧ invShiftRows x = y := by
  match y, h with
  | [a0, a1, a2, a3, a4, a5, a6, a7, a8, a9, a10, a11, a12, a13, a14, a15], _ =>
    exact ⟨[a0, a5, a10, a15, a4, a9, a14, a3, a8, a13, a2, a7, a12, a1, a6, a11], rfl, rfl⟩

theorem xtime_xor (a b : Byte) : xtime (a ^^^ b) = xtime a ^^^ xtime b := by
  unfold xtime
  rw [BitVec.shiftLeft_xor_distrib, BitVec.getLsbD_xor]
  generalize a <<< 1 = x
  generalize b <<< 1 = y
  cases a.getLsbD 7 <;> cases b.getLsbD 7 <;> simp
  · ac_rfl
  · ac_rfl
  · rw [show x ^^^ 0x1b#8 ^^^ (y ^^^ 0x1b#8) = x ^^^ y ^^^ (0x1b#8 ^^^ 0x1b#8) by ac_rfl]; simp

theorem gmul_xor (n : Nat) (a b k : Byte) : gmul n (a ^^^ b) k = gmul n a k ^^^ gmul n b k := by
  induction n generalizing a b k with
  | zero => simp [gmul]
  | succ n ih =>
    simp only [gmul, xtime_xor, ih]
    split
    · ac_rfl
    · simp

/-- The columns of the inverse mix against those of the mix. -/
theorem mix_columns : ∀ y : Byte,
    (gmul 8 (gmul 8 y 2) 14 ^^^ gmul 8 (gmul 8 y 1) 11 ^^^ gmul 8 (gmul 8 y 1) 13 ^^^ gmul 8 (gmul 8 y 3) 9 = y) ∧
    (gmul 8 (gmul 8 y 3) 14 ^^^ gmul 8 (gmul 8 y 2) 11 ^^^ gmul 8 (gmul 8 y 1) 13 ^^^ gmul 8 (gmul 8 y 1) 9 = 0) ∧
    (gmul 8 (gmul 8 y 1) 14 ^^^ gmul 8 (gmul 8 y 3) 11 ^^^ gmul 8 (gmul 8 y 2) 13 ^^^ gmul 8 (gmul 8 y 1) 9 = 0) ∧
    (gmul 8 (gmul 8 y 1) 14 ^^^ gmul 8 (gmul 8 y 1) 11 ^^^ gmul 8 (gmul 8 y 3) 13 ^^^ gmul 8 (gmul 8 y 2) 9 = 0) := by
  intro y
  revert y
  have h : ∀ b : Fin 256, (fun y : Byte =>
    (gmul 8 (gmul 8 y 2) 14 ^^^ gmul 8 (gmul 8 y 1) 11 ^^^ gmul 8 (gmul 8 y 1) 13 ^^^ gmul 8 (gmul 8 y 3) 9 = y) ∧
    (gmul 8 (gmul 8 y 3) 14 ^^^ gmul 8 (gmul 8 y 2) 11 ^^^ gmul 8 (gmul 8 y 1) 13 ^^^ gmul 8 (gmul 8 y 1) 9 = 0) ∧
    (gmul 8 (gmul 8 y 1) 14 ^^^ gmul 8 (gmul 8 y 3) 11 ^^^ gmul 8 (gmul 8 y 2) 13 ^^^ gmul 8 (gmul 8 y 1) 9 = 0) ∧
    (gmul 8 (gmul 8 y 1) 14 ^^^ gmul 8 (gmul 8 y 1) 11 ^^^ gmul 8 (gmul 8 y 3) 13 ^^^ gmul 8 (gmul 8 y 2) 9 = 0)) (BitVec.ofFin b) := by
    decide +kernel
  exact fun y => h y.toFin


/-- Every column comes from the inverse mix of one. -/
theorem mixColumn_onto (a b c d : Byte) : ∃ w x y z : Byte,
    gmul 8 w 14 ^^^ gmul 8 x 11 ^^^ gmul 8 y 13 ^^^ gmul 8 z 9 = a ∧
    gmul 8 w 9 ^^^ gmul 8 x 14 ^^^ gmul 8 y 11 ^^^ gmul 8 z 13 = b ∧
    gmul 8 w 13 ^^^ gmul 8 x 9 ^^^ gmul 8 y 14 ^^^ gmul 8 z 11 = c ∧
    gmul 8 w 11 ^^^ gmul 8 x 13 ^^^ gmul 8 y 9 ^^^ gmul 8 z 14 = d := by
  refine ⟨gmul 8 a 2 ^^^ gmul 8 b 3 ^^^ gmul 8 c 1 ^^^ gmul 8 d 1,
    gmul 8 a 1 ^^^ gmul 8 b 2 ^^^ gmul 8 c 3 ^^^ gmul 8 d 1,
    gmul 8 a 1 ^^^ gmul 8 b 1 ^^^ gmul 8 c 2 ^^^ gmul 8 d 3,
    gmul 8 a 3 ^^^ gmul 8 b 1 ^^^ gmul 8 c 1 ^^^ gmul 8 d 2, ?_, ?_, ?_, ?_⟩
  all_goals simp only [gmul_xor]
  · obtain ⟨a0, a1, a2, a3⟩ := mix_columns a
    obtain ⟨b0, b1, b2, b3⟩ := mix_columns b
    obtain ⟨c0, c1, c2, c3⟩ := mix_columns c
    obtain ⟨d0, d1, d2, d3⟩ := mix_columns d
    refine Eq.trans (b := (gmul 8 (gmul 8 a 2) 14 ^^^ gmul 8 (gmul 8 a 1) 11 ^^^ gmul 8 (gmul 8 a 1) 13 ^^^ gmul 8 (gmul 8 a 3) 9) ^^^
        (gmul 8 (gmul 8 b 3) 14 ^^^ gmul 8 (gmul 8 b 2) 11 ^^^ gmul 8 (gmul 8 b 1) 13 ^^^ gmul 8 (gmul 8 b 1) 9) ^^^
        (gmul 8 (gmul 8 c 1) 14 ^^^ gmul 8 (gmul 8 c 3) 11 ^^^ gmul 8 (gmul 8 c 2) 13 ^^^ gmul 8 (gmul 8 c 1) 9) ^^^
        (gmul 8 (gmul 8 d 1) 14 ^^^ gmul 8 (gmul 8 d 1) 11 ^^^ gmul 8 (gmul 8 d 3) 13 ^^^ gmul 8 (gmul 8 d 2) 9)) ?_ ?_
    · ac_rfl
    · rw [a0, b1, c2, d3]; simp
  · obtain ⟨a0, a1, a2, a3⟩ := mix_columns a
    obtain ⟨b0, b1, b2, b3⟩ := mix_columns b
    obtain ⟨c0, c1, c2, c3⟩ := mix_columns c
    obtain ⟨d0, d1, d2, d3⟩ := mix_columns d
    refine Eq.trans (b := (gmul 8 (gmul 8 a 1) 14 ^^^ gmul 8 (gmul 8 a 1) 11 ^^^ gmul 8 (gmul 8 a 3) 13 ^^^ gmul 8 (gmul 8 a 2) 9) ^^^
        (gmul 8 (gmul 8 b 2) 14 ^^^ gmul 8 (gmul 8 b 1) 11 ^^^ gmul 8 (gmul 8 b 1) 13 ^^^ gmul 8 (gmul 8 b 3) 9) ^^^
        (gmul 8 (gmul 8 c 3) 14 ^^^ gmul 8 (gmul 8 c 2) 11 ^^^ gmul 8 (gmul 8 c 1) 13 ^^^ gmul 8 (gmul 8 c 1) 9) ^^^
        (gmul 8 (gmul 8 d 1) 14 ^^^ gmul 8 (gmul 8 d 3) 11 ^^^ gmul 8 (gmul 8 d 2) 13 ^^^ gmul 8 (gmul 8 d 1) 9)) ?_ ?_
    · ac_rfl
    · rw [a3, b0, c1, d2]; simp
  · obtain ⟨a0, a1, a2, a3⟩ := mix_columns a
    obtain ⟨b0, b1, b2, b3⟩ := mix_columns b
    obtain ⟨c0, c1, c2, c3⟩ := mix_columns c
    obtain ⟨d0, d1, d2, d3⟩ := mix_columns d
    refine Eq.trans (b := (gmul 8 (gmul 8 a 1) 14 ^^^ gmul 8 (gmul 8 a 3) 11 ^^^ gmul 8 (gmul 8 a 2) 13 ^^^ gmul 8 (gmul 8 a 1) 9) ^^^
        (gmul 8 (gmul 8 b 1) 14 ^^^ gmul 8 (gmul 8 b 1) 11 ^^^ gmul 8 (gmul 8 b 3) 13 ^^^ gmul 8 (gmul 8 b 2) 9) ^^^
        (gmul 8 (gmul 8 c 2) 14 ^^^ gmul 8 (gmul 8 c 1) 11 ^^^ gmul 8 (gmul 8 c 1) 13 ^^^ gmul 8 (gmul 8 c 3) 9) ^^^
        (gmul 8 (gmul 8 d 3) 14 ^^^ gmul 8 (gmul 8 d 2) 11 ^^^ gmul 8 (gmul 8 d 1) 13 ^^^ gmul 8 (gmul 8 d 1) 9)) ?_ ?_
    · ac_rfl
    · rw [a2, b3, c0, d1]; simp
  · obtain ⟨a0, a1, a2, a3⟩ := mix_columns a
    obtain ⟨b0, b1, b2, b3⟩ := mix_columns b
    obtain ⟨c0, c1, c2, c3⟩ := mix_columns c
    obtain ⟨d0, d1, d2, d3⟩ := mix_columns d
    refine Eq.trans (b := (gmul 8 (gmul 8 a 3) 14 ^^^ gmul 8 (gmul 8 a 2) 11 ^^^ gmul 8 (gmul 8 a 1) 13 ^^^ gmul 8 (gmul 8 a 1) 9) ^^^
        (gmul 8 (gmul 8 b 1) 14 ^^^ gmul 8 (gmul 8 b 3) 11 ^^^ gmul 8 (gmul 8 b 2) 13 ^^^ gmul 8 (gmul 8 b 1) 9) ^^^
        (gmul 8 (gmul 8 c 1) 14 ^^^ gmul 8 (gmul 8 c 1) 11 ^^^ gmul 8 (gmul 8 c 3) 13 ^^^ gmul 8 (gmul 8 c 2) 9) ^^^
        (gmul 8 (gmul 8 d 2) 14 ^^^ gmul 8 (gmul 8 d 1) 11 ^^^ gmul 8 (gmul 8 d 1) 13 ^^^ gmul 8 (gmul 8 d 3) 9)) ?_ ?_
    · ac_rfl
    · rw [a1, b2, c3, d0]; simp

theorem invMixColumns_onto {y : List Byte} (h : y.length = 16) : ∃ x : List Byte, x.length = 16 ∧ invMixColumns 4 x = y := by
  match y, h with
  | [a0, a1, a2, a3, a4, a5, a6, a7, a8, a9, a10, a11, a12, a13, a14, a15], _ =>
    obtain ⟨b0, b1, b2, b3, e0, e1, e2, e3⟩ := mixColumn_onto a0 a1 a2 a3
    obtain ⟨b4, b5, b6, b7, e4, e5, e6, e7⟩ := mixColumn_onto a4 a5 a6 a7
    obtain ⟨b8, b9, b10, b11, e8, e9, e10, e11⟩ := mixColumn_onto a8 a9 a10 a11
    obtain ⟨b12, b13, b14, b15, e12, e13, e14, e15⟩ := mixColumn_onto a12 a13 a14 a15
    refine ⟨[b0, b1, b2, b3, b4, b5, b6, b7, b8, b9, b10, b11, b12, b13, b14, b15], rfl, ?_⟩
    rw [← e0, ← e1, ← e2, ← e3, ← e4, ← e5, ← e6, ← e7, ← e8, ← e9, ← e10, ← e11, ← e12, ← e13, ← e14, ← e15]
    rfl

/-! ### The key schedule has whole words -/

theorem aesExpand_words (n i : Nat) (r : Byte) (w : List (List Byte)) (h8 : 8 ≤ w.length) (h : ∀ x ∈ w, x.length = 4) :
    (aesExpand n i r w).length = n + w.length ∧ ∀ x ∈ aesExpand n i r w, x.length = 4 := by
  induction n generalizing i r w with
  | zero => exact ⟨by simp [aesExpand], h⟩
  | succ n ih =>
    unfold aesExpand
    have hg (k : Nat) (hk : k < 8) : (w.getD k []).length = 4 := by
      rw [List.getD_eq_getElem _ _ (by omega)]; exact h _ (List.getElem_mem _)
    have := ih (i + 1) (if i % 8 = 0 then xtime r else r)
      (List.zipWith (· ^^^ ·) (w.getD 7 []) (if i % 8 = 0 then
        match (w.getD 0 []).map sbox with
        | [a, b, c, d] => [b ^^^ r, c, d, a]
        | l => l
      else if i % 8 = 4 then (w.getD 0 []).map sbox else w.getD 0 []) :: w) (by simp; omega) (by
        intro x hx
        rcases List.mem_cons.1 hx with rfl | hx
        · rw [List.length_zipWith, hg 7 (by omega)]
          have h0 := hg 0 (by omega)
          match w.getD 0 [], h0 with
          | [a, b, c, d], _ => split <;> [skip; split] <;> rfl
        · exact h x hx)
    refine ⟨this.1.trans ?_, this.2⟩
    simp only [List.length_cons]
    omega

theorem words4_words (n : Nat) (bs : List Byte) (h : bs.length = 4 * n) :
    (words4 n bs).length = n ∧ ∀ x ∈ words4 n bs, x.length = 4 := by
  induction n generalizing bs with
  | zero => exact ⟨rfl, by simp [words4]⟩
  | succ n ih =>
    have := ih (bs.drop 4) (by simp [h]; omega)
    refine ⟨by simp [words4, this.1], ?_⟩
    intro x hx
    rcases List.mem_cons.1 hx with rfl | hx
    · simp [h]
    · exact this.2 x hx

theorem aesRoundKey_length {key : List Byte} (hk : key.length = 32) {r : Nat} (hr : r ≤ 14) :
    (aesRoundKey (aesSchedule key) r).length = 16 := by
  have hw := words4_words 8 key (by omega)
  have he := aesExpand_words 52 8 1 (words4 8 key).reverse (by simp [hw.1]) (fun x hx => hw.2 x (by simpa using hx))
  have hl : (aesSchedule key).length = 60 := by
    unfold aesSchedule
    rw [List.length_reverse, he.1, List.length_reverse, hw.1]
  have h4 : ∀ x ∈ aesSchedule key, x.length = 4 := fun x hx => he.2 x (by simpa [aesSchedule] using hx)
  unfold aesRoundKey
  have hlen : (((aesSchedule key).drop (4 * r)).take 4).length = 4 := by simp [hl]; omega
  have hall : ∀ x ∈ ((aesSchedule key).drop (4 * r)).take 4, x.length = 4 :=
    fun x hx => h4 x (List.mem_of_mem_drop (List.mem_of_mem_take hx))
  match ((aesSchedule key).drop (4 * r)).take 4, hlen, hall with
  | [a, b, c, d], _, hall => simp at hall; simp [hall]

/-! ### Decryption and the unwrap -/

theorem aesDecRounds_onto {key : List Byte} (hk : key.length = 32) (r : Nat) (hr : r ≤ 13) {y : List Byte} (h : y.length = 16) :
    ∃ x : List Byte, x.length = 16 ∧ aesDecRounds (aesSchedule key) r x = y := by
  induction r generalizing y with
  | zero => exact ⟨y, h, rfl⟩
  | succ r ih =>
    obtain ⟨y1, l1, rfl⟩ := ih (by omega) h
    obtain ⟨y2, l2, rfl⟩ := invMixColumns_onto l1
    obtain ⟨y3, l3, rfl⟩ := xor_onto (k := aesRoundKey (aesSchedule key) (r + 1)) (y := y2)
      (by rw [l2]; exact aesRoundKey_length hk (by omega))
    obtain ⟨y4, l4, rfl⟩ := invSboxes_onto y3
    obtain ⟨y5, l5, rfl⟩ := invShiftRows_onto (y := y4) (by omega)
    exact ⟨y5, l5, rfl⟩

theorem aesDec_onto {key : List Byte} (hk : key.length = 32) {y : List Byte} (h : y.length = 16) :
    ∃ x : List Byte, x.length = 16 ∧ aesDec key x = y := by
  obtain ⟨y1, l1, rfl⟩ := xor_onto (k := aesRoundKey (aesSchedule key) 0) (y := y)
    (by rw [h]; exact aesRoundKey_length hk (by omega))
  obtain ⟨y2, l2, rfl⟩ := invSboxes_onto y1
  obtain ⟨y3, l3, rfl⟩ := invShiftRows_onto (y := y2) (by omega)
  obtain ⟨y4, l4, rfl⟩ := aesDecRounds_onto hk 13 (by omega) l3
  obtain ⟨y5, l5, rfl⟩ := xor_onto (k := aesRoundKey (aesSchedule key) 14) (y := y4)
    (by rw [l4]; exact aesRoundKey_length hk (by omega))
  exact ⟨y5, by omega, rfl⟩

theorem be_lt (l : List Byte) : be l < 256 ^ l.length := by
  have := le_lt l.reverse
  simpa [be] using this

theorem bytesBe_be (l : List Byte) : bytesBe l.length (be l) = l := by
  have := bytesLe_le l.reverse
  rw [List.length_reverse] at this
  simp [bytesBe, be, this]

theorem be_bytesBe {n v : Nat} (h : v < 256 ^ n) : be (bytesBe n v) = v := by
  have key : ∀ (n v : Nat), v < 256 ^ n → le (bytesLe n v) = v := by
    intro n
    induction n with
    | zero => intro v hv; simp at hv; simp [bytesLe, le, hv]
    | succ n ih =>
      intro v hv
      rw [bytesLe, le, ih (v / 256) (by rw [Nat.pow_succ] at hv; omega)]
      simp only [BitVec.toNat_ofNat]
      omega
  simp [be, bytesBe, key n v h]

/-- Four registers of eight octets. -/
def Regs (r : List (List Byte)) : Prop := r.length = 4 ∧ ∀ x ∈ r, x.length = 8

theorem unwrapSteps_onto {key : List Byte} (hk : key.length = 32) (t : Nat) (ht : t ≤ 24) {a : List Byte} {r : List (List Byte)}
    (ha : a.length = 8) (hr : Regs r) :
    ∃ (a' : List Byte) (r' : List (List Byte)), a'.length = 8 ∧ Regs r' ∧ unwrapSteps key 4 t a' r' = (a, r) := by
  induction t generalizing a r with
  | zero => exact ⟨a, r, ha, hr, rfl⟩
  | succ t ih =>
    obtain ⟨a1, r1, la1, hr1, e1⟩ := ih (by omega) ha hr
    obtain ⟨hl, hm⟩ := hr1
    have hi : t % 4 < r1.length := by omega
    have hri : (r1.getD (t % 4) []).length = 8 := by
      rw [List.getD_eq_getElem _ _ hi]; exact hm _ (List.getElem_mem _)
    obtain ⟨b, lb, eb⟩ := aesDec_onto hk (y := a1 ++ r1.getD (t % 4) [])
      (by rw [List.length_append, la1, hri])
    have hx : be (b.take 8) ^^^ (t + 1) < 256 ^ 8 := by
      have h1 := be_lt (b.take 8)
      rw [List.length_take, lb] at h1
      exact Nat.xor_lt_two_pow (n := 64) (by simpa using h1) (by omega)
    refine ⟨bytesBe 8 (be (b.take 8) ^^^ (t + 1)), r1.set (t % 4) (b.drop 8), by simp, ⟨by simp [hl], ?_⟩, ?_⟩
    · intro x hx
      rcases List.mem_or_eq_of_mem_set hx with hx | rfl
      · exact hm x hx
      · simp [lb]
    · rw [unwrapSteps]
      have e2 : be (bytesBe 8 (be (b.take 8) ^^^ (t + 1))) ^^^ (t + 1) = be (b.take 8) := by
        rw [be_bytesBe hx, Nat.xor_assoc, Nat.xor_self, Nat.xor_zero]
      have e3 : bytesBe 8 (be (b.take 8)) = b.take 8 := by
        have := bytesBe_be (b.take 8)
        rwa [List.length_take, lb] at this
      have e4 : (r1.set (t % 4) (b.drop 8)).getD (t % 4) [] = b.drop 8 := by
        rw [List.getD_eq_getElem _ _ (by simp [hi]), List.getElem_set_self]
      rw [e2, e3, e4, List.take_append_drop, eb, List.take_left' la1, List.drop_left' la1, List.set_set]
      rw [List.getD_eq_getElem _ _ hi, List.set_getElem_self]
      exact e1

/-- Every 32-octet key has a wrapping. -/
theorem keyUnwrap_onto {kek key : List Byte} (hk : kek.length = 32) (h : key.length = 32) :
    ∃ w : List Byte, w.length = 40 ∧ keyUnwrap kek w = some key := by
  have hr : Regs [key.take 8, (key.drop 8).take 8, (key.drop 16).take 8, key.drop 24] := by
    refine ⟨rfl, ?_⟩
    simp [h]
  have onto := unwrapSteps_onto hk 24 (by omega) (a := List.replicate 8 0xA6) (by simp) hr
  unfold keyUnwrap
  generalize unwrapSteps kek 4 24 = f at onto ⊢
  obtain ⟨a, r, la, ⟨lr, hm⟩, e⟩ := onto
  match r, lr, hm with
  | [r0, r1, r2, r3], _, hm =>
    simp only [List.mem_cons, List.not_mem_nil, or_false, forall_eq_or_imp, forall_eq] at hm
    obtain ⟨l0, l1, l2, l3⟩ := hm
    have hlen : (a ++ (r0 ++ (r1 ++ (r2 ++ r3)))).length = 40 := by simp [la, l0, l1, l2, l3]
    refine ⟨a ++ (r0 ++ (r1 ++ (r2 ++ r3))), hlen, ?_⟩
    clear hlen
    dsimp only
    have d1 : (a ++ (r0 ++ (r1 ++ (r2 ++ r3)))).drop 8 = r0 ++ (r1 ++ (r2 ++ r3)) := List.drop_left' la
    have d2 : (a ++ (r0 ++ (r1 ++ (r2 ++ r3)))).drop 16 = r1 ++ (r2 ++ r3) := by
      rw [show 16 = 8 + 8 from rfl, ← List.drop_drop, d1, List.drop_left' l0]
    have d3 : (a ++ (r0 ++ (r1 ++ (r2 ++ r3)))).drop 24 = r2 ++ r3 := by
      rw [show 24 = 16 + 8 from rfl, ← List.drop_drop, d2, List.drop_left' l1]
    have d4 : (a ++ (r0 ++ (r1 ++ (r2 ++ r3)))).drop 32 = r3 := by
      rw [show 32 = 24 + 8 from rfl, ← List.drop_drop, d3, List.drop_left' l2]
    rw [d1, d2, d3, d4, List.take_left' la, List.take_left' l0, List.take_left' l1, List.take_left' l2,
      List.take_of_length_le (by omega : r3.length ≤ 8), e]
    rw [if_pos rfl]
    congr 1
    have s1 : (key.drop 8).take 8 ++ (key.drop 8).drop 8 = key.drop 8 := List.take_append_drop _ _
    have s2 : (key.drop 16).take 8 ++ (key.drop 16).drop 8 = key.drop 16 := List.take_append_drop _ _
    rw [List.drop_drop] at s1 s2
    simp only [List.flatten_cons, List.flatten_nil, List.append_nil]
    rw [s2, s1, List.take_append_drop]

end Sys2Proof.Machine
end

