-- ==== Sys2Proof/Laws/Tbl.lean ====
section
/-!
SUPPORT. Laws of the sparse tables that State is made of, and of octet memories, which are such tables: what a read gives after a
write, and that every operation keeps the canonical form.
-/

namespace Sys2Proof.Machine

variable {α : Type}

/-! ### Reads after writes -/

theorem tget_tput_same (d : α) (t : Tbl α) (k : Nat) (v : α) : tget d (tput t k v) k = v := by
  induction t with
  | nil => simp [tput, tget]
  | cons h r ih =>
    obtain ⟨j, u⟩ := h
    unfold tput
    split
    · simp [tget]
    · split
      · simp [tget]
      · rename_i h
        rw [tget, if_neg (fun e => h e.symm), ih]

theorem tget_tput_other (d : α) (t : Tbl α) {k k' : Nat} (v : α) (h : k' ≠ k) : tget d (tput t k v) k' = tget d t k' := by
  induction t with
  | nil => simp [tput, tget, h.symm]
  | cons x r ih =>
    obtain ⟨j, u⟩ := x
    unfold tput
    split
    · rw [tget, if_neg h.symm]
    · split
      · rename_i e; subst e; rw [tget, if_neg h.symm, tget, if_neg h.symm]
      · rw [tget, ih, tget]

theorem tget_tdel_other (d : α) (t : Tbl α) {k k' : Nat} (h : k' ≠ k) : tget d (tdel t k) k' = tget d t k' := by
  induction t with
  | nil => rfl
  | cons x r ih =>
    obtain ⟨j, u⟩ := x
    unfold tdel
    split
    · rename_i e; subst e; rw [tget, if_neg h.symm]
    · rw [tget, ih, tget]

/-- Every key of a canonical table lies above what precedes it. -/
def tAbove (k : Nat) (t : Tbl α) : Prop := ∀ x ∈ t, k < x.1

theorem tget_above (d : α) {k : Nat} {t : Tbl α} (h : tAbove k t) : tget d t k = d := by
  induction t with
  | nil => rfl
  | cons x r ih =>
    obtain ⟨j, u⟩ := x
    have hj : k < j := h (j, u) (by simp)
    rw [tget, if_neg (by omega)]
    exact ih fun y hy => h y (by simp [hy])

theorem mem_tput {t : Tbl α} {k : Nat} {v : α} {x : Nat × α} (h : x ∈ tput t k v) : x = (k, v) ∨ x ∈ t := by
  induction t with
  | nil => simpa [tput] using h
  | cons y r ih =>
    obtain ⟨j, u⟩ := y
    unfold tput at h
    split at h
    · simpa using h
    · split at h
      · rcases List.mem_cons.1 h with h | h
        · exact .inl h
        · exact .inr (by simp [h])
      · rcases List.mem_cons.1 h with h | h
        · exact .inr (by simp [h])
        · rcases ih h with h | h
          · exact .inl h
          · exact .inr (by simp [h])

theorem mem_tdel {t : Tbl α} {k : Nat} {x : Nat × α} (h : x ∈ tdel t k) : x ∈ t := by
  induction t with
  | nil => exact h
  | cons y r ih =>
    obtain ⟨j, u⟩ := y
    unfold tdel at h
    split at h
    · simp [h]
    · rcases List.mem_cons.1 h with h | h
      · simp [h]
      · simp [ih h]

section
variable [DecidableEq α]

theorem twf_cons (d : α) (j : Nat) (v : α) (r : Tbl α) :
    twf d ((j, v) :: r) = true ↔ v ≠ d ∧ tAbove j r ∧ twf d r = true := by
  induction r generalizing j v with
  | nil => simp [twf, tAbove]
  | cons x r ih =>
    obtain ⟨k, u⟩ := x
    have hk := ih k u
    constructor
    · intro h
      simp only [twf, Bool.and_eq_true, decide_eq_true_eq, bne_iff_ne, ne_eq] at h
      refine ⟨h.1.1, ?_, h.2⟩
      intro y hy
      rcases List.mem_cons.1 hy with rfl | hy
      · exact h.1.2
      · exact lt_trans h.1.2 ((hk.1 h.2).2.1 y hy)
    · rintro ⟨hv, ha, hw⟩
      simp only [twf, Bool.and_eq_true, decide_eq_true_eq, bne_iff_ne, ne_eq]
      exact ⟨⟨hv, ha (k, u) (by simp)⟩, hw⟩

/-! ### The canonical form -/

theorem twf_tput (d : α) {t : Tbl α} (k : Nat) {v : α} (hv : v ≠ d) (h : twf d t = true) : twf d (tput t k v) = true := by
  induction t with
  | nil => simp [tput, twf, hv]
  | cons y r ih =>
    obtain ⟨j, u⟩ := y
    obtain ⟨hu, ha, hr⟩ := (twf_cons d j u r).1 h
    unfold tput
    split
    · rename_i hlt
      refine (twf_cons d k v _).2 ⟨hv, ?_, h⟩
      intro y hy
      rcases List.mem_cons.1 hy with rfl | hy
      · exact hlt
      · exact lt_trans hlt (ha y hy)
    · split
      · rename_i e; subst e; exact (twf_cons d _ v r).2 ⟨hv, ha, hr⟩
      · refine (twf_cons d j u _).2 ⟨hu, ?_, ih hr⟩
        intro y hy
        rcases mem_tput hy with rfl | hy
        · show j < k; omega
        · exact ha y hy

theorem twf_tdel (d : α) {t : Tbl α} (k : Nat) (h : twf d t = true) : twf d (tdel t k) = true := by
  induction t with
  | nil => rfl
  | cons y r ih =>
    obtain ⟨j, u⟩ := y
    obtain ⟨hu, ha, hr⟩ := (twf_cons d j u r).1 h
    unfold tdel
    split
    · exact hr
    · exact (twf_cons d j u _).2 ⟨hu, fun y hy => ha y (mem_tdel hy), ih hr⟩

theorem twf_filter (d : α) {t : Tbl α} (p : Nat × α → Bool) (h : twf d t = true) : twf d (t.filter p) = true := by
  induction t with
  | nil => rfl
  | cons y r ih =>
    obtain ⟨j, u⟩ := y
    obtain ⟨hu, ha, hr⟩ := (twf_cons d j u r).1 h
    rw [List.filter_cons]
    split
    · exact (twf_cons d j u _).2 ⟨hu, fun y hy => ha y (List.mem_filter.1 hy).1, ih hr⟩
    · exact ih hr

/-- A write keeps the canonical form: writing the value an unlisted key reads as removes the entry. -/
theorem twf_tset (d : α) {t : Tbl α} (k : Nat) (v : α) (h : twf d t = true) : twf d (tset d t k v) = true := by
  unfold tset
  split
  · exact twf_tdel d k h
  · rename_i hv; exact twf_tput d k hv h

theorem twf_tmod (d : α) {t : Tbl α} (k : Nat) (f : α → α) (h : twf d t = true) : twf d (tmod d t k f) = true :=
  twf_tset d k _ h

theorem tget_tdel_same (d : α) {t : Tbl α} (k : Nat) (h : twf d t = true) : tget d (tdel t k) k = d := by
  induction t with
  | nil => rfl
  | cons y r ih =>
    obtain ⟨j, u⟩ := y
    obtain ⟨_, ha, hr⟩ := (twf_cons d j u r).1 h
    unfold tdel
    split
    · rename_i e; subst e; exact tget_above d ha
    · rename_i e; rw [tget, if_neg e, ih hr]

/-- A read of a written key gives the value written. -/
theorem tget_tset_same (d : α) {t : Tbl α} (k : Nat) (v : α) (h : twf d t = true) : tget d (tset d t k v) k = v := by
  unfold tset
  split
  · rename_i e; rw [tget_tdel_same d k h, e]
  · exact tget_tput_same d t k v

/-- A write leaves every other key alone. -/
theorem tget_tset_other (d : α) (t : Tbl α) {k k' : Nat} (v : α) (h : k' ≠ k) : tget d (tset d t k v) k' = tget d t k' := by
  unfold tset
  split
  · exact tget_tdel_other d t h
  · exact tget_tput_other d t v h

theorem tget_tmod_same (d : α) {t : Tbl α} (k : Nat) (f : α → α) (h : twf d t = true) :
    tget d (tmod d t k f) k = f (tget d t k) :=
  tget_tset_same d k _ h

theorem tget_tmod_other (d : α) (t : Tbl α) {k k' : Nat} (f : α → α) (h : k' ≠ k) :
    tget d (tmod d t k f) k' = tget d t k' :=
  tget_tset_other d t _ h

/-- A projection of an entry that a change leaves as it is reads the same at every key, whatever the table's form, where the changed
value is no default. -/
theorem tget_tmod_proj {β : Type} (d : α) (t : Tbl α) (k k' : Nat) (f : α → α) (g : α → β) (hg : ∀ a, g (f a) = g a)
    (hd : f (tget d t k) ≠ d) : g (tget d (tmod d t k f) k') = g (tget d t k') := by
  by_cases e : k' = k
  · subst e; rw [tmod, tset, if_neg hd, tget_tput_same, hg]
  · rw [tget_tmod_other d t f e]

end

/-! ### Octet memories -/

theorem Memory.wf_nil : Memory.wf [] = true := rfl

theorem Memory.wf_write {m : List (Nat × BitVec 8)} (a : Nat) (bs : List Byte) (h : Memory.wf m = true) :
    Memory.wf (memWrite m a bs) = true := by
  induction bs generalizing m a with
  | nil => exact h
  | cons b r ih => exact ih (a + 1) (twf_tset 0 a b h)

theorem Memory.wf_filter {m : List (Nat × BitVec 8)} (p : Nat × BitVec 8 → Bool) (h : Memory.wf m = true) :
    Memory.wf (m.filter p) = true :=
  twf_filter 0 p h

/-- Writes keep every octet below them. -/
theorem memRead_write_below {m : List (Nat × BitVec 8)} {a x : Nat} (bs : List Byte) (h : x < a) :
    memRead (memWrite m a bs) x = memRead m x := by
  induction bs generalizing m a with
  | nil => rfl
  | cons b r ih =>
    rw [memWrite, ih (by omega)]
    exact tget_tset_other 0 m b (by omega)

end Sys2Proof.Machine
end

