-- ==== Sys2Proof/Laws/State.lean ====
section
/-!
SUPPORT. One lemma for each field of State under each update of Machine/Ops.lean, and what an entry of a table reads as after an
update of it or of another: no later proof unfolds a record update.
-/

namespace Sys2Proof.Machine

/-! ### `State.modPort` -/

@[simp] theorem State.modPort_pending (s : State) (lp : Nat) (f : Port → Port) : (s.modPort lp f).pending = s.pending := rfl
@[simp] theorem State.modPort_freeCtr (s : State) (lp : Nat) (f : Port → Port) : (s.modPort lp f).freeCtr = s.freeCtr := rfl
@[simp] theorem State.modPort_off8 (s : State) (lp : Nat) (f : Port → Port) : (s.modPort lp f).off8 = s.off8 := rfl
@[simp] theorem State.modPort_env (s : State) (lp : Nat) (f : Port → Port) : (s.modPort lp f).env = s.env := rfl
@[simp] theorem State.modPort_boot (s : State) (lp : Nat) (f : Port → Port) : (s.modPort lp f).boot = s.boot := rfl
@[simp] theorem State.modPort_tt (s : State) (lp : Nat) (f : Port → Port) : (s.modPort lp f).tt = s.tt := rfl
@[simp] theorem State.modPort_ports (s : State) (lp : Nat) (f : Port → Port) : (s.modPort lp f).ports = tmod Port.init s.ports lp f := rfl
@[simp] theorem State.modPort_macros (s : State) (lp : Nat) (f : Port → Port) : (s.modPort lp f).macros = s.macros := rfl
@[simp] theorem State.modPort_mgmt (s : State) (lp : Nat) (f : Port → Port) : (s.modPort lp f).mgmt = s.mgmt := rfl
@[simp] theorem State.modPort_time (s : State) (lp : Nat) (f : Port → Port) : (s.modPort lp f).time = s.time := rfl
@[simp] theorem State.modPort_tables (s : State) (lp : Nat) (f : Port → Port) : (s.modPort lp f).tables = s.tables := rfl
@[simp] theorem State.modPort_flow (s : State) (lp : Nat) (f : Port → Port) : (s.modPort lp f).flow = s.flow := rfl
@[simp] theorem State.modPort_arb (s : State) (lp : Nat) (f : Port → Port) : (s.modPort lp f).arb = s.arb := rfl
@[simp] theorem State.modPort_buf (s : State) (lp : Nat) (f : Port → Port) : (s.modPort lp f).buf = s.buf := rfl
@[simp] theorem State.modPort_pool (s : State) (lp : Nat) (f : Port → Port) : (s.modPort lp f).pool = s.pool := rfl
@[simp] theorem State.modPort_cab (s : State) (lp : Nat) (f : Port → Port) : (s.modPort lp f).cab = s.cab := rfl
@[simp] theorem State.modPort_cmd (s : State) (lp : Nat) (f : Port → Port) : (s.modPort lp f).cmd = s.cmd := rfl
@[simp] theorem State.modPort_ucode (s : State) (lp : Nat) (f : Port → Port) : (s.modPort lp f).ucode = s.ucode := rfl
@[simp] theorem State.modPort_host (s : State) (lp : Nat) (f : Port → Port) : (s.modPort lp f).host = s.host := rfl
@[simp] theorem State.modPort_insts (s : State) (lp : Nat) (f : Port → Port) : (s.modPort lp f).insts = s.insts := rfl
@[simp] theorem State.modPort_portOwner (s : State) (lp : Nat) (f : Port → Port) : (s.modPort lp f).portOwner = s.portOwner := rfl
@[simp] theorem State.modPort_mirror (s : State) (lp : Nat) (f : Port → Port) : (s.modPort lp f).mirror = s.mirror := rfl
@[simp] theorem State.modPort_flt (s : State) (lp : Nat) (f : Port → Port) : (s.modPort lp f).flt = s.flt := rfl
@[simp] theorem State.modPort_evts (s : State) (lp : Nat) (f : Port → Port) : (s.modPort lp f).evts = s.evts := rfl
@[simp] theorem State.modPort_mon (s : State) (lp : Nat) (f : Port → Port) : (s.modPort lp f).mon = s.mon := rfl
@[simp] theorem State.modPort_selftest (s : State) (lp : Nat) (f : Port → Port) : (s.modPort lp f).selftest = s.selftest := rfl
@[simp] theorem State.modPort_pmc (s : State) (lp : Nat) (f : Port → Port) : (s.modPort lp f).pmc = s.pmc := rfl
@[simp] theorem State.modPort_out (s : State) (lp : Nat) (f : Port → Port) : (s.modPort lp f).out = s.out := rfl
theorem State.port_modPort_same (s : State) (lp : Nat) (f : Port → Port) (h : twf Port.init s.ports = true) :
    (s.modPort lp f).port lp = f (s.port lp) :=
  tget_tmod_same _ _ f h
theorem State.port_modPort_other (s : State) {lp j : Nat} (f : _) (h : j ≠ lp) : (s.modPort lp f).port j = s.port j :=
  tget_tmod_other _ _ f h

/-! ### `State.modMacro` -/

@[simp] theorem State.modMacro_pending (s : State) (m : Nat) (f : Macro → Macro) : (s.modMacro m f).pending = s.pending := rfl
@[simp] theorem State.modMacro_freeCtr (s : State) (m : Nat) (f : Macro → Macro) : (s.modMacro m f).freeCtr = s.freeCtr := rfl
@[simp] theorem State.modMacro_off8 (s : State) (m : Nat) (f : Macro → Macro) : (s.modMacro m f).off8 = s.off8 := rfl
@[simp] theorem State.modMacro_env (s : State) (m : Nat) (f : Macro → Macro) : (s.modMacro m f).env = s.env := rfl
@[simp] theorem State.modMacro_boot (s : State) (m : Nat) (f : Macro → Macro) : (s.modMacro m f).boot = s.boot := rfl
@[simp] theorem State.modMacro_tt (s : State) (m : Nat) (f : Macro → Macro) : (s.modMacro m f).tt = s.tt := rfl
@[simp] theorem State.modMacro_ports (s : State) (m : Nat) (f : Macro → Macro) : (s.modMacro m f).ports = s.ports := rfl
@[simp] theorem State.modMacro_macros (s : State) (m : Nat) (f : Macro → Macro) : (s.modMacro m f).macros = tmod Macro.init s.macros m f := rfl
@[simp] theorem State.modMacro_mgmt (s : State) (m : Nat) (f : Macro → Macro) : (s.modMacro m f).mgmt = s.mgmt := rfl
@[simp] theorem State.modMacro_time (s : State) (m : Nat) (f : Macro → Macro) : (s.modMacro m f).time = s.time := rfl
@[simp] theorem State.modMacro_tables (s : State) (m : Nat) (f : Macro → Macro) : (s.modMacro m f).tables = s.tables := rfl
@[simp] theorem State.modMacro_flow (s : State) (m : Nat) (f : Macro → Macro) : (s.modMacro m f).flow = s.flow := rfl
@[simp] theorem State.modMacro_arb (s : State) (m : Nat) (f : Macro → Macro) : (s.modMacro m f).arb = s.arb := rfl
@[simp] theorem State.modMacro_buf (s : State) (m : Nat) (f : Macro → Macro) : (s.modMacro m f).buf = s.buf := rfl
@[simp] theorem State.modMacro_pool (s : State) (m : Nat) (f : Macro → Macro) : (s.modMacro m f).pool = s.pool := rfl
@[simp] theorem State.modMacro_cab (s : State) (m : Nat) (f : Macro → Macro) : (s.modMacro m f).cab = s.cab := rfl
@[simp] theorem State.modMacro_cmd (s : State) (m : Nat) (f : Macro → Macro) : (s.modMacro m f).cmd = s.cmd := rfl
@[simp] theorem State.modMacro_ucode (s : State) (m : Nat) (f : Macro → Macro) : (s.modMacro m f).ucode = s.ucode := rfl
@[simp] theorem State.modMacro_host (s : State) (m : Nat) (f : Macro → Macro) : (s.modMacro m f).host = s.host := rfl
@[simp] theorem State.modMacro_insts (s : State) (m : Nat) (f : Macro → Macro) : (s.modMacro m f).insts = s.insts := rfl
@[simp] theorem State.modMacro_portOwner (s : State) (m : Nat) (f : Macro → Macro) : (s.modMacro m f).portOwner = s.portOwner := rfl
@[simp] theorem State.modMacro_mirror (s : State) (m : Nat) (f : Macro → Macro) : (s.modMacro m f).mirror = s.mirror := rfl
@[simp] theorem State.modMacro_flt (s : State) (m : Nat) (f : Macro → Macro) : (s.modMacro m f).flt = s.flt := rfl
@[simp] theorem State.modMacro_evts (s : State) (m : Nat) (f : Macro → Macro) : (s.modMacro m f).evts = s.evts := rfl
@[simp] theorem State.modMacro_mon (s : State) (m : Nat) (f : Macro → Macro) : (s.modMacro m f).mon = s.mon := rfl
@[simp] theorem State.modMacro_selftest (s : State) (m : Nat) (f : Macro → Macro) : (s.modMacro m f).selftest = s.selftest := rfl
@[simp] theorem State.modMacro_pmc (s : State) (m : Nat) (f : Macro → Macro) : (s.modMacro m f).pmc = s.pmc := rfl
@[simp] theorem State.modMacro_out (s : State) (m : Nat) (f : Macro → Macro) : (s.modMacro m f).out = s.out := rfl
theorem State.macro_modMacro_same (s : State) (m : Nat) (f : Macro → Macro) (h : twf Macro.init s.macros = true) :
    (s.modMacro m f).macro_ m = f (s.macro_ m) :=
  tget_tmod_same _ _ f h
theorem State.macro_modMacro_other (s : State) {m j : Nat} (f : _) (h : j ≠ m) : (s.modMacro m f).macro_ j = s.macro_ j :=
  tget_tmod_other _ _ f h

/-! ### `State.modQueue` -/

@[simp] theorem State.modQueue_pending (s : State) (q : Nat) (f : QueueState → QueueState) : (s.modQueue q f).pending = s.pending := rfl
@[simp] theorem State.modQueue_freeCtr (s : State) (q : Nat) (f : QueueState → QueueState) : (s.modQueue q f).freeCtr = s.freeCtr := rfl
@[simp] theorem State.modQueue_off8 (s : State) (q : Nat) (f : QueueState → QueueState) : (s.modQueue q f).off8 = s.off8 := rfl
@[simp] theorem State.modQueue_env (s : State) (q : Nat) (f : QueueState → QueueState) : (s.modQueue q f).env = s.env := rfl
@[simp] theorem State.modQueue_boot (s : State) (q : Nat) (f : QueueState → QueueState) : (s.modQueue q f).boot = s.boot := rfl
@[simp] theorem State.modQueue_tt (s : State) (q : Nat) (f : QueueState → QueueState) : (s.modQueue q f).tt = s.tt := rfl
@[simp] theorem State.modQueue_ports (s : State) (q : Nat) (f : QueueState → QueueState) : (s.modQueue q f).ports = s.ports := rfl
@[simp] theorem State.modQueue_macros (s : State) (q : Nat) (f : QueueState → QueueState) : (s.modQueue q f).macros = s.macros := rfl
@[simp] theorem State.modQueue_mgmt (s : State) (q : Nat) (f : QueueState → QueueState) : (s.modQueue q f).mgmt = s.mgmt := rfl
@[simp] theorem State.modQueue_time (s : State) (q : Nat) (f : QueueState → QueueState) : (s.modQueue q f).time = s.time := rfl
@[simp] theorem State.modQueue_tables (s : State) (q : Nat) (f : QueueState → QueueState) : (s.modQueue q f).tables = s.tables := rfl
@[simp] theorem State.modQueue_flow (s : State) (q : Nat) (f : QueueState → QueueState) : (s.modQueue q f).flow = s.flow := rfl
@[simp] theorem State.modQueue_arb (s : State) (q : Nat) (f : QueueState → QueueState) : (s.modQueue q f).arb = s.arb := rfl
@[simp] theorem State.modQueue_buf (s : State) (q : Nat) (f : QueueState → QueueState) : (s.modQueue q f).buf = { s.buf with queues := tmod QueueState.init s.buf.queues q f } := rfl
@[simp] theorem State.modQueue_pool (s : State) (q : Nat) (f : QueueState → QueueState) : (s.modQueue q f).pool = s.pool := rfl
@[simp] theorem State.modQueue_cab (s : State) (q : Nat) (f : QueueState → QueueState) : (s.modQueue q f).cab = s.cab := rfl
@[simp] theorem State.modQueue_cmd (s : State) (q : Nat) (f : QueueState → QueueState) : (s.modQueue q f).cmd = s.cmd := rfl
@[simp] theorem State.modQueue_ucode (s : State) (q : Nat) (f : QueueState → QueueState) : (s.modQueue q f).ucode = s.ucode := rfl
@[simp] theorem State.modQueue_host (s : State) (q : Nat) (f : QueueState → QueueState) : (s.modQueue q f).host = s.host := rfl
@[simp] theorem State.modQueue_insts (s : State) (q : Nat) (f : QueueState → QueueState) : (s.modQueue q f).insts = s.insts := rfl
@[simp] theorem State.modQueue_portOwner (s : State) (q : Nat) (f : QueueState → QueueState) : (s.modQueue q f).portOwner = s.portOwner := rfl
@[simp] theorem State.modQueue_mirror (s : State) (q : Nat) (f : QueueState → QueueState) : (s.modQueue q f).mirror = s.mirror := rfl
@[simp] theorem State.modQueue_flt (s : State) (q : Nat) (f : QueueState → QueueState) : (s.modQueue q f).flt = s.flt := rfl
@[simp] theorem State.modQueue_evts (s : State) (q : Nat) (f : QueueState → QueueState) : (s.modQueue q f).evts = s.evts := rfl
@[simp] theorem State.modQueue_mon (s : State) (q : Nat) (f : QueueState → QueueState) : (s.modQueue q f).mon = s.mon := rfl
@[simp] theorem State.modQueue_selftest (s : State) (q : Nat) (f : QueueState → QueueState) : (s.modQueue q f).selftest = s.selftest := rfl
@[simp] theorem State.modQueue_pmc (s : State) (q : Nat) (f : QueueState → QueueState) : (s.modQueue q f).pmc = s.pmc := rfl
@[simp] theorem State.modQueue_out (s : State) (q : Nat) (f : QueueState → QueueState) : (s.modQueue q f).out = s.out := rfl
theorem State.queue_modQueue_same (s : State) (q : Nat) (f : QueueState → QueueState) (h : twf QueueState.init s.buf.queues = true) :
    (s.modQueue q f).queue q = f (s.queue q) :=
  tget_tmod_same _ _ f h
theorem State.queue_modQueue_other (s : State) {q j : Nat} (f : _) (h : j ≠ q) : (s.modQueue q f).queue j = s.queue j :=
  tget_tmod_other _ _ f h

/-! ### `State.modGroup` -/

@[simp] theorem State.modGroup_pending (s : State) (g : Nat) (f : GroupState → GroupState) : (s.modGroup g f).pending = s.pending := rfl
@[simp] theorem State.modGroup_freeCtr (s : State) (g : Nat) (f : GroupState → GroupState) : (s.modGroup g f).freeCtr = s.freeCtr := rfl
@[simp] theorem State.modGroup_off8 (s : State) (g : Nat) (f : GroupState → GroupState) : (s.modGroup g f).off8 = s.off8 := rfl
@[simp] theorem State.modGroup_env (s : State) (g : Nat) (f : GroupState → GroupState) : (s.modGroup g f).env = s.env := rfl
@[simp] theorem State.modGroup_boot (s : State) (g : Nat) (f : GroupState → GroupState) : (s.modGroup g f).boot = s.boot := rfl
@[simp] theorem State.modGroup_tt (s : State) (g : Nat) (f : GroupState → GroupState) : (s.modGroup g f).tt = s.tt := rfl
@[simp] theorem State.modGroup_ports (s : State) (g : Nat) (f : GroupState → GroupState) : (s.modGroup g f).ports = s.ports := rfl
@[simp] theorem State.modGroup_macros (s : State) (g : Nat) (f : GroupState → GroupState) : (s.modGroup g f).macros = s.macros := rfl
@[simp] theorem State.modGroup_mgmt (s : State) (g : Nat) (f : GroupState → GroupState) : (s.modGroup g f).mgmt = s.mgmt := rfl
@[simp] theorem State.modGroup_time (s : State) (g : Nat) (f : GroupState → GroupState) : (s.modGroup g f).time = s.time := rfl
@[simp] theorem State.modGroup_tables (s : State) (g : Nat) (f : GroupState → GroupState) : (s.modGroup g f).tables = s.tables := rfl
@[simp] theorem State.modGroup_flow (s : State) (g : Nat) (f : GroupState → GroupState) : (s.modGroup g f).flow = s.flow := rfl
@[simp] theorem State.modGroup_arb (s : State) (g : Nat) (f : GroupState → GroupState) : (s.modGroup g f).arb = s.arb := rfl
@[simp] theorem State.modGroup_buf (s : State) (g : Nat) (f : GroupState → GroupState) : (s.modGroup g f).buf = { s.buf with groups := tmod GroupState.init s.buf.groups g f } := rfl
@[simp] theorem State.modGroup_pool (s : State) (g : Nat) (f : GroupState → GroupState) : (s.modGroup g f).pool = s.pool := rfl
@[simp] theorem State.modGroup_cab (s : State) (g : Nat) (f : GroupState → GroupState) : (s.modGroup g f).cab = s.cab := rfl
@[simp] theorem State.modGroup_cmd (s : State) (g : Nat) (f : GroupState → GroupState) : (s.modGroup g f).cmd = s.cmd := rfl
@[simp] theorem State.modGroup_ucode (s : State) (g : Nat) (f : GroupState → GroupState) : (s.modGroup g f).ucode = s.ucode := rfl
@[simp] theorem State.modGroup_host (s : State) (g : Nat) (f : GroupState → GroupState) : (s.modGroup g f).host = s.host := rfl
@[simp] theorem State.modGroup_insts (s : State) (g : Nat) (f : GroupState → GroupState) : (s.modGroup g f).insts = s.insts := rfl
@[simp] theorem State.modGroup_portOwner (s : State) (g : Nat) (f : GroupState → GroupState) : (s.modGroup g f).portOwner = s.portOwner := rfl
@[simp] theorem State.modGroup_mirror (s : State) (g : Nat) (f : GroupState → GroupState) : (s.modGroup g f).mirror = s.mirror := rfl
@[simp] theorem State.modGroup_flt (s : State) (g : Nat) (f : GroupState → GroupState) : (s.modGroup g f).flt = s.flt := rfl
@[simp] theorem State.modGroup_evts (s : State) (g : Nat) (f : GroupState → GroupState) : (s.modGroup g f).evts = s.evts := rfl
@[simp] theorem State.modGroup_mon (s : State) (g : Nat) (f : GroupState → GroupState) : (s.modGroup g f).mon = s.mon := rfl
@[simp] theorem State.modGroup_selftest (s : State) (g : Nat) (f : GroupState → GroupState) : (s.modGroup g f).selftest = s.selftest := rfl
@[simp] theorem State.modGroup_pmc (s : State) (g : Nat) (f : GroupState → GroupState) : (s.modGroup g f).pmc = s.pmc := rfl
@[simp] theorem State.modGroup_out (s : State) (g : Nat) (f : GroupState → GroupState) : (s.modGroup g f).out = s.out := rfl
theorem State.group_modGroup_same (s : State) (g : Nat) (f : GroupState → GroupState) (h : twf GroupState.init s.buf.groups = true) :
    (s.modGroup g f).group g = f (s.group g) :=
  tget_tmod_same _ _ f h
theorem State.group_modGroup_other (s : State) {g j : Nat} (f : _) (h : j ≠ g) : (s.modGroup g f).group j = s.group j :=
  tget_tmod_other _ _ f h

/-! ### `State.modEgr` -/

@[simp] theorem State.modEgr_pending (s : State) (lp : Nat) (f : EgressPort → EgressPort) : (s.modEgr lp f).pending = s.pending := rfl
@[simp] theorem State.modEgr_freeCtr (s : State) (lp : Nat) (f : EgressPort → EgressPort) : (s.modEgr lp f).freeCtr = s.freeCtr := rfl
@[simp] theorem State.modEgr_off8 (s : State) (lp : Nat) (f : EgressPort → EgressPort) : (s.modEgr lp f).off8 = s.off8 := rfl
@[simp] theorem State.modEgr_env (s : State) (lp : Nat) (f : EgressPort → EgressPort) : (s.modEgr lp f).env = s.env := rfl
@[simp] theorem State.modEgr_boot (s : State) (lp : Nat) (f : EgressPort → EgressPort) : (s.modEgr lp f).boot = s.boot := rfl
@[simp] theorem State.modEgr_tt (s : State) (lp : Nat) (f : EgressPort → EgressPort) : (s.modEgr lp f).tt = s.tt := rfl
@[simp] theorem State.modEgr_ports (s : State) (lp : Nat) (f : EgressPort → EgressPort) : (s.modEgr lp f).ports = s.ports := rfl
@[simp] theorem State.modEgr_macros (s : State) (lp : Nat) (f : EgressPort → EgressPort) : (s.modEgr lp f).macros = s.macros := rfl
@[simp] theorem State.modEgr_mgmt (s : State) (lp : Nat) (f : EgressPort → EgressPort) : (s.modEgr lp f).mgmt = s.mgmt := rfl
@[simp] theorem State.modEgr_time (s : State) (lp : Nat) (f : EgressPort → EgressPort) : (s.modEgr lp f).time = s.time := rfl
@[simp] theorem State.modEgr_tables (s : State) (lp : Nat) (f : EgressPort → EgressPort) : (s.modEgr lp f).tables = s.tables := rfl
@[simp] theorem State.modEgr_flow (s : State) (lp : Nat) (f : EgressPort → EgressPort) : (s.modEgr lp f).flow = s.flow := rfl
@[simp] theorem State.modEgr_arb (s : State) (lp : Nat) (f : EgressPort → EgressPort) : (s.modEgr lp f).arb = s.arb := rfl
@[simp] theorem State.modEgr_buf (s : State) (lp : Nat) (f : EgressPort → EgressPort) : (s.modEgr lp f).buf = { s.buf with egress := tmod EgressPort.init s.buf.egress lp f } := rfl
@[simp] theorem State.modEgr_pool (s : State) (lp : Nat) (f : EgressPort → EgressPort) : (s.modEgr lp f).pool = s.pool := rfl
@[simp] theorem State.modEgr_cab (s : State) (lp : Nat) (f : EgressPort → EgressPort) : (s.modEgr lp f).cab = s.cab := rfl
@[simp] theorem State.modEgr_cmd (s : State) (lp : Nat) (f : EgressPort → EgressPort) : (s.modEgr lp f).cmd = s.cmd := rfl
@[simp] theorem State.modEgr_ucode (s : State) (lp : Nat) (f : EgressPort → EgressPort) : (s.modEgr lp f).ucode = s.ucode := rfl
@[simp] theorem State.modEgr_host (s : State) (lp : Nat) (f : EgressPort → EgressPort) : (s.modEgr lp f).host = s.host := rfl
@[simp] theorem State.modEgr_insts (s : State) (lp : Nat) (f : EgressPort → EgressPort) : (s.modEgr lp f).insts = s.insts := rfl
@[simp] theorem State.modEgr_portOwner (s : State) (lp : Nat) (f : EgressPort → EgressPort) : (s.modEgr lp f).portOwner = s.portOwner := rfl
@[simp] theorem State.modEgr_mirror (s : State) (lp : Nat) (f : EgressPort → EgressPort) : (s.modEgr lp f).mirror = s.mirror := rfl
@[simp] theorem State.modEgr_flt (s : State) (lp : Nat) (f : EgressPort → EgressPort) : (s.modEgr lp f).flt = s.flt := rfl
@[simp] theorem State.modEgr_evts (s : State) (lp : Nat) (f : EgressPort → EgressPort) : (s.modEgr lp f).evts = s.evts := rfl
@[simp] theorem State.modEgr_mon (s : State) (lp : Nat) (f : EgressPort → EgressPort) : (s.modEgr lp f).mon = s.mon := rfl
@[simp] theorem State.modEgr_selftest (s : State) (lp : Nat) (f : EgressPort → EgressPort) : (s.modEgr lp f).selftest = s.selftest := rfl
@[simp] theorem State.modEgr_pmc (s : State) (lp : Nat) (f : EgressPort → EgressPort) : (s.modEgr lp f).pmc = s.pmc := rfl
@[simp] theorem State.modEgr_out (s : State) (lp : Nat) (f : EgressPort → EgressPort) : (s.modEgr lp f).out = s.out := rfl
theorem State.egr_modEgr_same (s : State) (lp : Nat) (f : EgressPort → EgressPort) (h : twf EgressPort.init s.buf.egress = true) :
    (s.modEgr lp f).egr lp = f (s.egr lp) :=
  tget_tmod_same _ _ f h
theorem State.egr_modEgr_other (s : State) {lp j : Nat} (f : _) (h : j ≠ lp) : (s.modEgr lp f).egr j = s.egr j :=
  tget_tmod_other _ _ f h

/-! ### `State.modReq` -/

@[simp] theorem State.modReq_pending (s : State) (r : Nat) (f : Requester → Requester) : (s.modReq r f).pending = s.pending := rfl
@[simp] theorem State.modReq_freeCtr (s : State) (r : Nat) (f : Requester → Requester) : (s.modReq r f).freeCtr = s.freeCtr := rfl
@[simp] theorem State.modReq_off8 (s : State) (r : Nat) (f : Requester → Requester) : (s.modReq r f).off8 = s.off8 := rfl
@[simp] theorem State.modReq_env (s : State) (r : Nat) (f : Requester → Requester) : (s.modReq r f).env = s.env := rfl
@[simp] theorem State.modReq_boot (s : State) (r : Nat) (f : Requester → Requester) : (s.modReq r f).boot = s.boot := rfl
@[simp] theorem State.modReq_tt (s : State) (r : Nat) (f : Requester → Requester) : (s.modReq r f).tt = s.tt := rfl
@[simp] theorem State.modReq_ports (s : State) (r : Nat) (f : Requester → Requester) : (s.modReq r f).ports = s.ports := rfl
@[simp] theorem State.modReq_macros (s : State) (r : Nat) (f : Requester → Requester) : (s.modReq r f).macros = s.macros := rfl
@[simp] theorem State.modReq_mgmt (s : State) (r : Nat) (f : Requester → Requester) : (s.modReq r f).mgmt = s.mgmt := rfl
@[simp] theorem State.modReq_time (s : State) (r : Nat) (f : Requester → Requester) : (s.modReq r f).time = s.time := rfl
@[simp] theorem State.modReq_tables (s : State) (r : Nat) (f : Requester → Requester) : (s.modReq r f).tables = s.tables := rfl
@[simp] theorem State.modReq_flow (s : State) (r : Nat) (f : Requester → Requester) : (s.modReq r f).flow = s.flow := rfl
@[simp] theorem State.modReq_arb (s : State) (r : Nat) (f : Requester → Requester) : (s.modReq r f).arb = s.arb := rfl
@[simp] theorem State.modReq_buf (s : State) (r : Nat) (f : Requester → Requester) : (s.modReq r f).buf = s.buf := rfl
@[simp] theorem State.modReq_pool (s : State) (r : Nat) (f : Requester → Requester) : (s.modReq r f).pool = { s.pool with reqs := tmod Requester.init s.pool.reqs r f } := rfl
@[simp] theorem State.modReq_cab (s : State) (r : Nat) (f : Requester → Requester) : (s.modReq r f).cab = s.cab := rfl
@[simp] theorem State.modReq_cmd (s : State) (r : Nat) (f : Requester → Requester) : (s.modReq r f).cmd = s.cmd := rfl
@[simp] theorem State.modReq_ucode (s : State) (r : Nat) (f : Requester → Requester) : (s.modReq r f).ucode = s.ucode := rfl
@[simp] theorem State.modReq_host (s : State) (r : Nat) (f : Requester → Requester) : (s.modReq r f).host = s.host := rfl
@[simp] theorem State.modReq_insts (s : State) (r : Nat) (f : Requester → Requester) : (s.modReq r f).insts = s.insts := rfl
@[simp] theorem State.modReq_portOwner (s : State) (r : Nat) (f : Requester → Requester) : (s.modReq r f).portOwner = s.portOwner := rfl
@[simp] theorem State.modReq_mirror (s : State) (r : Nat) (f : Requester → Requester) : (s.modReq r f).mirror = s.mirror := rfl
@[simp] theorem State.modReq_flt (s : State) (r : Nat) (f : Requester → Requester) : (s.modReq r f).flt = s.flt := rfl
@[simp] theorem State.modReq_evts (s : State) (r : Nat) (f : Requester → Requester) : (s.modReq r f).evts = s.evts := rfl
@[simp] theorem State.modReq_mon (s : State) (r : Nat) (f : Requester → Requester) : (s.modReq r f).mon = s.mon := rfl
@[simp] theorem State.modReq_selftest (s : State) (r : Nat) (f : Requester → Requester) : (s.modReq r f).selftest = s.selftest := rfl
@[simp] theorem State.modReq_pmc (s : State) (r : Nat) (f : Requester → Requester) : (s.modReq r f).pmc = s.pmc := rfl
@[simp] theorem State.modReq_out (s : State) (r : Nat) (f : Requester → Requester) : (s.modReq r f).out = s.out := rfl
theorem State.req_modReq_same (s : State) (r : Nat) (f : Requester → Requester) (h : twf Requester.init s.pool.reqs = true) :
    (s.modReq r f).req r = f (s.req r) :=
  tget_tmod_same _ _ f h
theorem State.req_modReq_other (s : State) {r j : Nat} (f : _) (h : j ≠ r) : (s.modReq r f).req j = s.req j :=
  tget_tmod_other _ _ f h

/-! ### `State.modBank` -/

@[simp] theorem State.modBank_pending (s : State) (b : Nat) (f : Bank → Bank) : (s.modBank b f).pending = s.pending := rfl
@[simp] theorem State.modBank_freeCtr (s : State) (b : Nat) (f : Bank → Bank) : (s.modBank b f).freeCtr = s.freeCtr := rfl
@[simp] theorem State.modBank_off8 (s : State) (b : Nat) (f : Bank → Bank) : (s.modBank b f).off8 = s.off8 := rfl
@[simp] theorem State.modBank_env (s : State) (b : Nat) (f : Bank → Bank) : (s.modBank b f).env = s.env := rfl
@[simp] theorem State.modBank_boot (s : State) (b : Nat) (f : Bank → Bank) : (s.modBank b f).boot = s.boot := rfl
@[simp] theorem State.modBank_tt (s : State) (b : Nat) (f : Bank → Bank) : (s.modBank b f).tt = s.tt := rfl
@[simp] theorem State.modBank_ports (s : State) (b : Nat) (f : Bank → Bank) : (s.modBank b f).ports = s.ports := rfl
@[simp] theorem State.modBank_macros (s : State) (b : Nat) (f : Bank → Bank) : (s.modBank b f).macros = s.macros := rfl
@[simp] theorem State.modBank_mgmt (s : State) (b : Nat) (f : Bank → Bank) : (s.modBank b f).mgmt = s.mgmt := rfl
@[simp] theorem State.modBank_time (s : State) (b : Nat) (f : Bank → Bank) : (s.modBank b f).time = s.time := rfl
@[simp] theorem State.modBank_tables (s : State) (b : Nat) (f : Bank → Bank) : (s.modBank b f).tables = s.tables := rfl
@[simp] theorem State.modBank_flow (s : State) (b : Nat) (f : Bank → Bank) : (s.modBank b f).flow = s.flow := rfl
@[simp] theorem State.modBank_arb (s : State) (b : Nat) (f : Bank → Bank) : (s.modBank b f).arb = s.arb := rfl
@[simp] theorem State.modBank_buf (s : State) (b : Nat) (f : Bank → Bank) : (s.modBank b f).buf = s.buf := rfl
@[simp] theorem State.modBank_pool (s : State) (b : Nat) (f : Bank → Bank) : (s.modBank b f).pool = { s.pool with banks := tmod (Bank.init b) s.pool.banks b f } := rfl
@[simp] theorem State.modBank_cab (s : State) (b : Nat) (f : Bank → Bank) : (s.modBank b f).cab = s.cab := rfl
@[simp] theorem State.modBank_cmd (s : State) (b : Nat) (f : Bank → Bank) : (s.modBank b f).cmd = s.cmd := rfl
@[simp] theorem State.modBank_ucode (s : State) (b : Nat) (f : Bank → Bank) : (s.modBank b f).ucode = s.ucode := rfl
@[simp] theorem State.modBank_host (s : State) (b : Nat) (f : Bank → Bank) : (s.modBank b f).host = s.host := rfl
@[simp] theorem State.modBank_insts (s : State) (b : Nat) (f : Bank → Bank) : (s.modBank b f).insts = s.insts := rfl
@[simp] theorem State.modBank_portOwner (s : State) (b : Nat) (f : Bank → Bank) : (s.modBank b f).portOwner = s.portOwner := rfl
@[simp] theorem State.modBank_mirror (s : State) (b : Nat) (f : Bank → Bank) : (s.modBank b f).mirror = s.mirror := rfl
@[simp] theorem State.modBank_flt (s : State) (b : Nat) (f : Bank → Bank) : (s.modBank b f).flt = s.flt := rfl
@[simp] theorem State.modBank_evts (s : State) (b : Nat) (f : Bank → Bank) : (s.modBank b f).evts = s.evts := rfl
@[simp] theorem State.modBank_mon (s : State) (b : Nat) (f : Bank → Bank) : (s.modBank b f).mon = s.mon := rfl
@[simp] theorem State.modBank_selftest (s : State) (b : Nat) (f : Bank → Bank) : (s.modBank b f).selftest = s.selftest := rfl
@[simp] theorem State.modBank_pmc (s : State) (b : Nat) (f : Bank → Bank) : (s.modBank b f).pmc = s.pmc := rfl
@[simp] theorem State.modBank_out (s : State) (b : Nat) (f : Bank → Bank) : (s.modBank b f).out = s.out := rfl

/-! ### `State.modFeed` -/

@[simp] theorem State.modFeed_pending (s : State) (n : Nat) (f : FeedState → FeedState) : (s.modFeed n f).pending = s.pending := rfl
@[simp] theorem State.modFeed_freeCtr (s : State) (n : Nat) (f : FeedState → FeedState) : (s.modFeed n f).freeCtr = s.freeCtr := rfl
@[simp] theorem State.modFeed_off8 (s : State) (n : Nat) (f : FeedState → FeedState) : (s.modFeed n f).off8 = s.off8 := rfl
@[simp] theorem State.modFeed_env (s : State) (n : Nat) (f : FeedState → FeedState) : (s.modFeed n f).env = s.env := rfl
@[simp] theorem State.modFeed_boot (s : State) (n : Nat) (f : FeedState → FeedState) : (s.modFeed n f).boot = s.boot := rfl
@[simp] theorem State.modFeed_tt (s : State) (n : Nat) (f : FeedState → FeedState) : (s.modFeed n f).tt = s.tt := rfl
@[simp] theorem State.modFeed_ports (s : State) (n : Nat) (f : FeedState → FeedState) : (s.modFeed n f).ports = s.ports := rfl
@[simp] theorem State.modFeed_macros (s : State) (n : Nat) (f : FeedState → FeedState) : (s.modFeed n f).macros = s.macros := rfl
@[simp] theorem State.modFeed_mgmt (s : State) (n : Nat) (f : FeedState → FeedState) : (s.modFeed n f).mgmt = s.mgmt := rfl
@[simp] theorem State.modFeed_time (s : State) (n : Nat) (f : FeedState → FeedState) : (s.modFeed n f).time = s.time := rfl
@[simp] theorem State.modFeed_tables (s : State) (n : Nat) (f : FeedState → FeedState) : (s.modFeed n f).tables = s.tables := rfl
@[simp] theorem State.modFeed_flow (s : State) (n : Nat) (f : FeedState → FeedState) : (s.modFeed n f).flow = s.flow := rfl
@[simp] theorem State.modFeed_arb (s : State) (n : Nat) (f : FeedState → FeedState) : (s.modFeed n f).arb = { s.arb with feeds := tmod FeedState.init s.arb.feeds n f } := rfl
@[simp] theorem State.modFeed_buf (s : State) (n : Nat) (f : FeedState → FeedState) : (s.modFeed n f).buf = s.buf := rfl
@[simp] theorem State.modFeed_pool (s : State) (n : Nat) (f : FeedState → FeedState) : (s.modFeed n f).pool = s.pool := rfl
@[simp] theorem State.modFeed_cab (s : State) (n : Nat) (f : FeedState → FeedState) : (s.modFeed n f).cab = s.cab := rfl
@[simp] theorem State.modFeed_cmd (s : State) (n : Nat) (f : FeedState → FeedState) : (s.modFeed n f).cmd = s.cmd := rfl
@[simp] theorem State.modFeed_ucode (s : State) (n : Nat) (f : FeedState → FeedState) : (s.modFeed n f).ucode = s.ucode := rfl
@[simp] theorem State.modFeed_host (s : State) (n : Nat) (f : FeedState → FeedState) : (s.modFeed n f).host = s.host := rfl
@[simp] theorem State.modFeed_insts (s : State) (n : Nat) (f : FeedState → FeedState) : (s.modFeed n f).insts = s.insts := rfl
@[simp] theorem State.modFeed_portOwner (s : State) (n : Nat) (f : FeedState → FeedState) : (s.modFeed n f).portOwner = s.portOwner := rfl
@[simp] theorem State.modFeed_mirror (s : State) (n : Nat) (f : FeedState → FeedState) : (s.modFeed n f).mirror = s.mirror := rfl
@[simp] theorem State.modFeed_flt (s : State) (n : Nat) (f : FeedState → FeedState) : (s.modFeed n f).flt = s.flt := rfl
@[simp] theorem State.modFeed_evts (s : State) (n : Nat) (f : FeedState → FeedState) : (s.modFeed n f).evts = s.evts := rfl
@[simp] theorem State.modFeed_mon (s : State) (n : Nat) (f : FeedState → FeedState) : (s.modFeed n f).mon = s.mon := rfl
@[simp] theorem State.modFeed_selftest (s : State) (n : Nat) (f : FeedState → FeedState) : (s.modFeed n f).selftest = s.selftest := rfl
@[simp] theorem State.modFeed_pmc (s : State) (n : Nat) (f : FeedState → FeedState) : (s.modFeed n f).pmc = s.pmc := rfl
@[simp] theorem State.modFeed_out (s : State) (n : Nat) (f : FeedState → FeedState) : (s.modFeed n f).out = s.out := rfl
theorem State.feed_modFeed_same (s : State) (n : Nat) (f : FeedState → FeedState) (h : twf FeedState.init s.arb.feeds = true) :
    (s.modFeed n f).feed n = f (s.feed n) :=
  tget_tmod_same _ _ f h
theorem State.feed_modFeed_other (s : State) {n j : Nat} (f : _) (h : j ≠ n) : (s.modFeed n f).feed j = s.feed j :=
  tget_tmod_other _ _ f h

/-! ### `State.modDrawer` -/

@[simp] theorem State.modDrawer_pending (s : State) (d : Nat) (f : Drawer → Drawer) : (s.modDrawer d f).pending = s.pending := rfl
@[simp] theorem State.modDrawer_freeCtr (s : State) (d : Nat) (f : Drawer → Drawer) : (s.modDrawer d f).freeCtr = s.freeCtr := rfl
@[simp] theorem State.modDrawer_off8 (s : State) (d : Nat) (f : Drawer → Drawer) : (s.modDrawer d f).off8 = s.off8 := rfl
@[simp] theorem State.modDrawer_env (s : State) (d : Nat) (f : Drawer → Drawer) : (s.modDrawer d f).env = s.env := rfl
@[simp] theorem State.modDrawer_boot (s : State) (d : Nat) (f : Drawer → Drawer) : (s.modDrawer d f).boot = s.boot := rfl
@[simp] theorem State.modDrawer_tt (s : State) (d : Nat) (f : Drawer → Drawer) : (s.modDrawer d f).tt = s.tt := rfl
@[simp] theorem State.modDrawer_ports (s : State) (d : Nat) (f : Drawer → Drawer) : (s.modDrawer d f).ports = s.ports := rfl
@[simp] theorem State.modDrawer_macros (s : State) (d : Nat) (f : Drawer → Drawer) : (s.modDrawer d f).macros = s.macros := rfl
@[simp] theorem State.modDrawer_mgmt (s : State) (d : Nat) (f : Drawer → Drawer) : (s.modDrawer d f).mgmt = s.mgmt := rfl
@[simp] theorem State.modDrawer_time (s : State) (d : Nat) (f : Drawer → Drawer) : (s.modDrawer d f).time = s.time := rfl
@[simp] theorem State.modDrawer_tables (s : State) (d : Nat) (f : Drawer → Drawer) : (s.modDrawer d f).tables = s.tables := rfl
@[simp] theorem State.modDrawer_flow (s : State) (d : Nat) (f : Drawer → Drawer) : (s.modDrawer d f).flow = s.flow := rfl
@[simp] theorem State.modDrawer_arb (s : State) (d : Nat) (f : Drawer → Drawer) : (s.modDrawer d f).arb = s.arb := rfl
@[simp] theorem State.modDrawer_buf (s : State) (d : Nat) (f : Drawer → Drawer) : (s.modDrawer d f).buf = s.buf := rfl
@[simp] theorem State.modDrawer_pool (s : State) (d : Nat) (f : Drawer → Drawer) : (s.modDrawer d f).pool = s.pool := rfl
@[simp] theorem State.modDrawer_cab (s : State) (d : Nat) (f : Drawer → Drawer) : (s.modDrawer d f).cab = { s.cab with drawers := tmod Drawer.init s.cab.drawers d f } := rfl
@[simp] theorem State.modDrawer_cmd (s : State) (d : Nat) (f : Drawer → Drawer) : (s.modDrawer d f).cmd = s.cmd := rfl
@[simp] theorem State.modDrawer_ucode (s : State) (d : Nat) (f : Drawer → Drawer) : (s.modDrawer d f).ucode = s.ucode := rfl
@[simp] theorem State.modDrawer_host (s : State) (d : Nat) (f : Drawer → Drawer) : (s.modDrawer d f).host = s.host := rfl
@[simp] theorem State.modDrawer_insts (s : State) (d : Nat) (f : Drawer → Drawer) : (s.modDrawer d f).insts = s.insts := rfl
@[simp] theorem State.modDrawer_portOwner (s : State) (d : Nat) (f : Drawer → Drawer) : (s.modDrawer d f).portOwner = s.portOwner := rfl
@[simp] theorem State.modDrawer_mirror (s : State) (d : Nat) (f : Drawer → Drawer) : (s.modDrawer d f).mirror = s.mirror := rfl
@[simp] theorem State.modDrawer_flt (s : State) (d : Nat) (f : Drawer → Drawer) : (s.modDrawer d f).flt = s.flt := rfl
@[simp] theorem State.modDrawer_evts (s : State) (d : Nat) (f : Drawer → Drawer) : (s.modDrawer d f).evts = s.evts := rfl
@[simp] theorem State.modDrawer_mon (s : State) (d : Nat) (f : Drawer → Drawer) : (s.modDrawer d f).mon = s.mon := rfl
@[simp] theorem State.modDrawer_selftest (s : State) (d : Nat) (f : Drawer → Drawer) : (s.modDrawer d f).selftest = s.selftest := rfl
@[simp] theorem State.modDrawer_pmc (s : State) (d : Nat) (f : Drawer → Drawer) : (s.modDrawer d f).pmc = s.pmc := rfl
@[simp] theorem State.modDrawer_out (s : State) (d : Nat) (f : Drawer → Drawer) : (s.modDrawer d f).out = s.out := rfl
theorem State.drawer_modDrawer_same (s : State) (d : Nat) (f : Drawer → Drawer) (h : twf Drawer.init s.cab.drawers = true) :
    (s.modDrawer d f).drawer d = f (s.drawer d) :=
  tget_tmod_same _ _ f h
theorem State.drawer_modDrawer_other (s : State) {d j : Nat} (f : _) (h : j ≠ d) : (s.modDrawer d f).drawer j = s.drawer j :=
  tget_tmod_other _ _ f h

/-! ### `State.modEvClass` -/

@[simp] theorem State.modEvClass_pending (s : State) (c : Nat) (f : EvClass → EvClass) : (s.modEvClass c f).pending = s.pending := rfl
@[simp] theorem State.modEvClass_freeCtr (s : State) (c : Nat) (f : EvClass → EvClass) : (s.modEvClass c f).freeCtr = s.freeCtr := rfl
@[simp] theorem State.modEvClass_off8 (s : State) (c : Nat) (f : EvClass → EvClass) : (s.modEvClass c f).off8 = s.off8 := rfl
@[simp] theorem State.modEvClass_env (s : State) (c : Nat) (f : EvClass → EvClass) : (s.modEvClass c f).env = s.env := rfl
@[simp] theorem State.modEvClass_boot (s : State) (c : Nat) (f : EvClass → EvClass) : (s.modEvClass c f).boot = s.boot := rfl
@[simp] theorem State.modEvClass_tt (s : State) (c : Nat) (f : EvClass → EvClass) : (s.modEvClass c f).tt = s.tt := rfl
@[simp] theorem State.modEvClass_ports (s : State) (c : Nat) (f : EvClass → EvClass) : (s.modEvClass c f).ports = s.ports := rfl
@[simp] theorem State.modEvClass_macros (s : State) (c : Nat) (f : EvClass → EvClass) : (s.modEvClass c f).macros = s.macros := rfl
@[simp] theorem State.modEvClass_mgmt (s : State) (c : Nat) (f : EvClass → EvClass) : (s.modEvClass c f).mgmt = s.mgmt := rfl
@[simp] theorem State.modEvClass_time (s : State) (c : Nat) (f : EvClass → EvClass) : (s.modEvClass c f).time = s.time := rfl
@[simp] theorem State.modEvClass_tables (s : State) (c : Nat) (f : EvClass → EvClass) : (s.modEvClass c f).tables = s.tables := rfl
@[simp] theorem State.modEvClass_flow (s : State) (c : Nat) (f : EvClass → EvClass) : (s.modEvClass c f).flow = s.flow := rfl
@[simp] theorem State.modEvClass_arb (s : State) (c : Nat) (f : EvClass → EvClass) : (s.modEvClass c f).arb = s.arb := rfl
@[simp] theorem State.modEvClass_buf (s : State) (c : Nat) (f : EvClass → EvClass) : (s.modEvClass c f).buf = s.buf := rfl
@[simp] theorem State.modEvClass_pool (s : State) (c : Nat) (f : EvClass → EvClass) : (s.modEvClass c f).pool = s.pool := rfl
@[simp] theorem State.modEvClass_cab (s : State) (c : Nat) (f : EvClass → EvClass) : (s.modEvClass c f).cab = { s.cab with classes := tmod EvClass.init s.cab.classes c f } := rfl
@[simp] theorem State.modEvClass_cmd (s : State) (c : Nat) (f : EvClass → EvClass) : (s.modEvClass c f).cmd = s.cmd := rfl
@[simp] theorem State.modEvClass_ucode (s : State) (c : Nat) (f : EvClass → EvClass) : (s.modEvClass c f).ucode = s.ucode := rfl
@[simp] theorem State.modEvClass_host (s : State) (c : Nat) (f : EvClass → EvClass) : (s.modEvClass c f).host = s.host := rfl
@[simp] theorem State.modEvClass_insts (s : State) (c : Nat) (f : EvClass → EvClass) : (s.modEvClass c f).insts = s.insts := rfl
@[simp] theorem State.modEvClass_portOwner (s : State) (c : Nat) (f : EvClass → EvClass) : (s.modEvClass c f).portOwner = s.portOwner := rfl
@[simp] theorem State.modEvClass_mirror (s : State) (c : Nat) (f : EvClass → EvClass) : (s.modEvClass c f).mirror = s.mirror := rfl
@[simp] theorem State.modEvClass_flt (s : State) (c : Nat) (f : EvClass → EvClass) : (s.modEvClass c f).flt = s.flt := rfl
@[simp] theorem State.modEvClass_evts (s : State) (c : Nat) (f : EvClass → EvClass) : (s.modEvClass c f).evts = s.evts := rfl
@[simp] theorem State.modEvClass_mon (s : State) (c : Nat) (f : EvClass → EvClass) : (s.modEvClass c f).mon = s.mon := rfl
@[simp] theorem State.modEvClass_selftest (s : State) (c : Nat) (f : EvClass → EvClass) : (s.modEvClass c f).selftest = s.selftest := rfl
@[simp] theorem State.modEvClass_pmc (s : State) (c : Nat) (f : EvClass → EvClass) : (s.modEvClass c f).pmc = s.pmc := rfl
@[simp] theorem State.modEvClass_out (s : State) (c : Nat) (f : EvClass → EvClass) : (s.modEvClass c f).out = s.out := rfl
theorem State.evClass_modEvClass_same (s : State) (c : Nat) (f : EvClass → EvClass) (h : twf EvClass.init s.cab.classes = true) :
    (s.modEvClass c f).evClass c = f (s.evClass c) :=
  tget_tmod_same _ _ f h
theorem State.evClass_modEvClass_other (s : State) {c j : Nat} (f : _) (h : j ≠ c) : (s.modEvClass c f).evClass j = s.evClass j :=
  tget_tmod_other _ _ f h

/-! ### `State.modChan` -/

@[simp] theorem State.modChan_pending (s : State) (k : Nat) (f : Chan → Chan) : (s.modChan k f).pending = s.pending := rfl
@[simp] theorem State.modChan_freeCtr (s : State) (k : Nat) (f : Chan → Chan) : (s.modChan k f).freeCtr = s.freeCtr := rfl
@[simp] theorem State.modChan_off8 (s : State) (k : Nat) (f : Chan → Chan) : (s.modChan k f).off8 = s.off8 := rfl
@[simp] theorem State.modChan_env (s : State) (k : Nat) (f : Chan → Chan) : (s.modChan k f).env = s.env := rfl
@[simp] theorem State.modChan_boot (s : State) (k : Nat) (f : Chan → Chan) : (s.modChan k f).boot = s.boot := rfl
@[simp] theorem State.modChan_tt (s : State) (k : Nat) (f : Chan → Chan) : (s.modChan k f).tt = s.tt := rfl
@[simp] theorem State.modChan_ports (s : State) (k : Nat) (f : Chan → Chan) : (s.modChan k f).ports = s.ports := rfl
@[simp] theorem State.modChan_macros (s : State) (k : Nat) (f : Chan → Chan) : (s.modChan k f).macros = s.macros := rfl
@[simp] theorem State.modChan_mgmt (s : State) (k : Nat) (f : Chan → Chan) : (s.modChan k f).mgmt = s.mgmt := rfl
@[simp] theorem State.modChan_time (s : State) (k : Nat) (f : Chan → Chan) : (s.modChan k f).time = s.time := rfl
@[simp] theorem State.modChan_tables (s : State) (k : Nat) (f : Chan → Chan) : (s.modChan k f).tables = s.tables := rfl
@[simp] theorem State.modChan_flow (s : State) (k : Nat) (f : Chan → Chan) : (s.modChan k f).flow = s.flow := rfl
@[simp] theorem State.modChan_arb (s : State) (k : Nat) (f : Chan → Chan) : (s.modChan k f).arb = s.arb := rfl
@[simp] theorem State.modChan_buf (s : State) (k : Nat) (f : Chan → Chan) : (s.modChan k f).buf = s.buf := rfl
@[simp] theorem State.modChan_pool (s : State) (k : Nat) (f : Chan → Chan) : (s.modChan k f).pool = s.pool := rfl
@[simp] theorem State.modChan_cab (s : State) (k : Nat) (f : Chan → Chan) : (s.modChan k f).cab = { s.cab with chans := tmod Chan.init s.cab.chans k f } := rfl
@[simp] theorem State.modChan_cmd (s : State) (k : Nat) (f : Chan → Chan) : (s.modChan k f).cmd = s.cmd := rfl
@[simp] theorem State.modChan_ucode (s : State) (k : Nat) (f : Chan → Chan) : (s.modChan k f).ucode = s.ucode := rfl
@[simp] theorem State.modChan_host (s : State) (k : Nat) (f : Chan → Chan) : (s.modChan k f).host = s.host := rfl
@[simp] theorem State.modChan_insts (s : State) (k : Nat) (f : Chan → Chan) : (s.modChan k f).insts = s.insts := rfl
@[simp] theorem State.modChan_portOwner (s : State) (k : Nat) (f : Chan → Chan) : (s.modChan k f).portOwner = s.portOwner := rfl
@[simp] theorem State.modChan_mirror (s : State) (k : Nat) (f : Chan → Chan) : (s.modChan k f).mirror = s.mirror := rfl
@[simp] theorem State.modChan_flt (s : State) (k : Nat) (f : Chan → Chan) : (s.modChan k f).flt = s.flt := rfl
@[simp] theorem State.modChan_evts (s : State) (k : Nat) (f : Chan → Chan) : (s.modChan k f).evts = s.evts := rfl
@[simp] theorem State.modChan_mon (s : State) (k : Nat) (f : Chan → Chan) : (s.modChan k f).mon = s.mon := rfl
@[simp] theorem State.modChan_selftest (s : State) (k : Nat) (f : Chan → Chan) : (s.modChan k f).selftest = s.selftest := rfl
@[simp] theorem State.modChan_pmc (s : State) (k : Nat) (f : Chan → Chan) : (s.modChan k f).pmc = s.pmc := rfl
@[simp] theorem State.modChan_out (s : State) (k : Nat) (f : Chan → Chan) : (s.modChan k f).out = s.out := rfl
theorem State.chan_modChan_same (s : State) (k : Nat) (f : Chan → Chan) (h : twf Chan.init s.cab.chans = true) :
    (s.modChan k f).chan k = f (s.chan k) :=
  tget_tmod_same _ _ f h
theorem State.chan_modChan_other (s : State) {k j : Nat} (f : _) (h : j ≠ k) : (s.modChan k f).chan j = s.chan j :=
  tget_tmod_other _ _ f h

/-! ### `State.modKey` -/

@[simp] theorem State.modKey_pending (s : State) (k : Nat) (f : KeySlot → KeySlot) : (s.modKey k f).pending = s.pending := rfl
@[simp] theorem State.modKey_freeCtr (s : State) (k : Nat) (f : KeySlot → KeySlot) : (s.modKey k f).freeCtr = s.freeCtr := rfl
@[simp] theorem State.modKey_off8 (s : State) (k : Nat) (f : KeySlot → KeySlot) : (s.modKey k f).off8 = s.off8 := rfl
@[simp] theorem State.modKey_env (s : State) (k : Nat) (f : KeySlot → KeySlot) : (s.modKey k f).env = s.env := rfl
@[simp] theorem State.modKey_boot (s : State) (k : Nat) (f : KeySlot → KeySlot) : (s.modKey k f).boot = s.boot := rfl
@[simp] theorem State.modKey_tt (s : State) (k : Nat) (f : KeySlot → KeySlot) : (s.modKey k f).tt = s.tt := rfl
@[simp] theorem State.modKey_ports (s : State) (k : Nat) (f : KeySlot → KeySlot) : (s.modKey k f).ports = s.ports := rfl
@[simp] theorem State.modKey_macros (s : State) (k : Nat) (f : KeySlot → KeySlot) : (s.modKey k f).macros = s.macros := rfl
@[simp] theorem State.modKey_mgmt (s : State) (k : Nat) (f : KeySlot → KeySlot) : (s.modKey k f).mgmt = s.mgmt := rfl
@[simp] theorem State.modKey_time (s : State) (k : Nat) (f : KeySlot → KeySlot) : (s.modKey k f).time = s.time := rfl
@[simp] theorem State.modKey_tables (s : State) (k : Nat) (f : KeySlot → KeySlot) : (s.modKey k f).tables = s.tables := rfl
@[simp] theorem State.modKey_flow (s : State) (k : Nat) (f : KeySlot → KeySlot) : (s.modKey k f).flow = s.flow := rfl
@[simp] theorem State.modKey_arb (s : State) (k : Nat) (f : KeySlot → KeySlot) : (s.modKey k f).arb = s.arb := rfl
@[simp] theorem State.modKey_buf (s : State) (k : Nat) (f : KeySlot → KeySlot) : (s.modKey k f).buf = s.buf := rfl
@[simp] theorem State.modKey_pool (s : State) (k : Nat) (f : KeySlot → KeySlot) : (s.modKey k f).pool = s.pool := rfl
@[simp] theorem State.modKey_cab (s : State) (k : Nat) (f : KeySlot → KeySlot) : (s.modKey k f).cab = s.cab := rfl
@[simp] theorem State.modKey_cmd (s : State) (k : Nat) (f : KeySlot → KeySlot) : (s.modKey k f).cmd = { s.cmd with keys := tmod KeySlot.init s.cmd.keys k f } := rfl
@[simp] theorem State.modKey_ucode (s : State) (k : Nat) (f : KeySlot → KeySlot) : (s.modKey k f).ucode = s.ucode := rfl
@[simp] theorem State.modKey_host (s : State) (k : Nat) (f : KeySlot → KeySlot) : (s.modKey k f).host = s.host := rfl
@[simp] theorem State.modKey_insts (s : State) (k : Nat) (f : KeySlot → KeySlot) : (s.modKey k f).insts = s.insts := rfl
@[simp] theorem State.modKey_portOwner (s : State) (k : Nat) (f : KeySlot → KeySlot) : (s.modKey k f).portOwner = s.portOwner := rfl
@[simp] theorem State.modKey_mirror (s : State) (k : Nat) (f : KeySlot → KeySlot) : (s.modKey k f).mirror = s.mirror := rfl
@[simp] theorem State.modKey_flt (s : State) (k : Nat) (f : KeySlot → KeySlot) : (s.modKey k f).flt = s.flt := rfl
@[simp] theorem State.modKey_evts (s : State) (k : Nat) (f : KeySlot → KeySlot) : (s.modKey k f).evts = s.evts := rfl
@[simp] theorem State.modKey_mon (s : State) (k : Nat) (f : KeySlot → KeySlot) : (s.modKey k f).mon = s.mon := rfl
@[simp] theorem State.modKey_selftest (s : State) (k : Nat) (f : KeySlot → KeySlot) : (s.modKey k f).selftest = s.selftest := rfl
@[simp] theorem State.modKey_pmc (s : State) (k : Nat) (f : KeySlot → KeySlot) : (s.modKey k f).pmc = s.pmc := rfl
@[simp] theorem State.modKey_out (s : State) (k : Nat) (f : KeySlot → KeySlot) : (s.modKey k f).out = s.out := rfl
theorem State.key_modKey_same (s : State) (k : Nat) (f : KeySlot → KeySlot) (h : twf KeySlot.init s.cmd.keys = true) :
    (s.modKey k f).key k = f (s.key k) :=
  tget_tmod_same _ _ f h
theorem State.key_modKey_other (s : State) {k j : Nat} (f : _) (h : j ≠ k) : (s.modKey k f).key j = s.key j :=
  tget_tmod_other _ _ f h

/-! ### `State.modCmdRing` -/

@[simp] theorem State.modCmdRing_pending (s : State) (n : Nat) (f : CmdRing → CmdRing) : (s.modCmdRing n f).pending = s.pending := rfl
@[simp] theorem State.modCmdRing_freeCtr (s : State) (n : Nat) (f : CmdRing → CmdRing) : (s.modCmdRing n f).freeCtr = s.freeCtr := rfl
@[simp] theorem State.modCmdRing_off8 (s : State) (n : Nat) (f : CmdRing → CmdRing) : (s.modCmdRing n f).off8 = s.off8 := rfl
@[simp] theorem State.modCmdRing_env (s : State) (n : Nat) (f : CmdRing → CmdRing) : (s.modCmdRing n f).env = s.env := rfl
@[simp] theorem State.modCmdRing_boot (s : State) (n : Nat) (f : CmdRing → CmdRing) : (s.modCmdRing n f).boot = s.boot := rfl
@[simp] theorem State.modCmdRing_tt (s : State) (n : Nat) (f : CmdRing → CmdRing) : (s.modCmdRing n f).tt = s.tt := rfl
@[simp] theorem State.modCmdRing_ports (s : State) (n : Nat) (f : CmdRing → CmdRing) : (s.modCmdRing n f).ports = s.ports := rfl
@[simp] theorem State.modCmdRing_macros (s : State) (n : Nat) (f : CmdRing → CmdRing) : (s.modCmdRing n f).macros = s.macros := rfl
@[simp] theorem State.modCmdRing_mgmt (s : State) (n : Nat) (f : CmdRing → CmdRing) : (s.modCmdRing n f).mgmt = s.mgmt := rfl
@[simp] theorem State.modCmdRing_time (s : State) (n : Nat) (f : CmdRing → CmdRing) : (s.modCmdRing n f).time = s.time := rfl
@[simp] theorem State.modCmdRing_tables (s : State) (n : Nat) (f : CmdRing → CmdRing) : (s.modCmdRing n f).tables = s.tables := rfl
@[simp] theorem State.modCmdRing_flow (s : State) (n : Nat) (f : CmdRing → CmdRing) : (s.modCmdRing n f).flow = s.flow := rfl
@[simp] theorem State.modCmdRing_arb (s : State) (n : Nat) (f : CmdRing → CmdRing) : (s.modCmdRing n f).arb = s.arb := rfl
@[simp] theorem State.modCmdRing_buf (s : State) (n : Nat) (f : CmdRing → CmdRing) : (s.modCmdRing n f).buf = s.buf := rfl
@[simp] theorem State.modCmdRing_pool (s : State) (n : Nat) (f : CmdRing → CmdRing) : (s.modCmdRing n f).pool = s.pool := rfl
@[simp] theorem State.modCmdRing_cab (s : State) (n : Nat) (f : CmdRing → CmdRing) : (s.modCmdRing n f).cab = s.cab := rfl
@[simp] theorem State.modCmdRing_cmd (s : State) (n : Nat) (f : CmdRing → CmdRing) : (s.modCmdRing n f).cmd = { s.cmd with rings := tmod CmdRing.init s.cmd.rings n f } := rfl
@[simp] theorem State.modCmdRing_ucode (s : State) (n : Nat) (f : CmdRing → CmdRing) : (s.modCmdRing n f).ucode = s.ucode := rfl
@[simp] theorem State.modCmdRing_host (s : State) (n : Nat) (f : CmdRing → CmdRing) : (s.modCmdRing n f).host = s.host := rfl
@[simp] theorem State.modCmdRing_insts (s : State) (n : Nat) (f : CmdRing → CmdRing) : (s.modCmdRing n f).insts = s.insts := rfl
@[simp] theorem State.modCmdRing_portOwner (s : State) (n : Nat) (f : CmdRing → CmdRing) : (s.modCmdRing n f).portOwner = s.portOwner := rfl
@[simp] theorem State.modCmdRing_mirror (s : State) (n : Nat) (f : CmdRing → CmdRing) : (s.modCmdRing n f).mirror = s.mirror := rfl
@[simp] theorem State.modCmdRing_flt (s : State) (n : Nat) (f : CmdRing → CmdRing) : (s.modCmdRing n f).flt = s.flt := rfl
@[simp] theorem State.modCmdRing_evts (s : State) (n : Nat) (f : CmdRing → CmdRing) : (s.modCmdRing n f).evts = s.evts := rfl
@[simp] theorem State.modCmdRing_mon (s : State) (n : Nat) (f : CmdRing → CmdRing) : (s.modCmdRing n f).mon = s.mon := rfl
@[simp] theorem State.modCmdRing_selftest (s : State) (n : Nat) (f : CmdRing → CmdRing) : (s.modCmdRing n f).selftest = s.selftest := rfl
@[simp] theorem State.modCmdRing_pmc (s : State) (n : Nat) (f : CmdRing → CmdRing) : (s.modCmdRing n f).pmc = s.pmc := rfl
@[simp] theorem State.modCmdRing_out (s : State) (n : Nat) (f : CmdRing → CmdRing) : (s.modCmdRing n f).out = s.out := rfl
theorem State.cmdRing_modCmdRing_same (s : State) (n : Nat) (f : CmdRing → CmdRing) (h : twf CmdRing.init s.cmd.rings = true) :
    (s.modCmdRing n f).cmdRing n = f (s.cmdRing n) :=
  tget_tmod_same _ _ f h
theorem State.cmdRing_modCmdRing_other (s : State) {n j : Nat} (f : _) (h : j ≠ n) : (s.modCmdRing n f).cmdRing j = s.cmdRing j :=
  tget_tmod_other _ _ f h

/-! ### `State.modCtx` -/

@[simp] theorem State.modCtx_pending (s : State) (p : CmdPort) (f : Ctx → Ctx) : (s.modCtx p f).pending = s.pending := rfl
@[simp] theorem State.modCtx_freeCtr (s : State) (p : CmdPort) (f : Ctx → Ctx) : (s.modCtx p f).freeCtr = s.freeCtr := rfl
@[simp] theorem State.modCtx_off8 (s : State) (p : CmdPort) (f : Ctx → Ctx) : (s.modCtx p f).off8 = s.off8 := rfl
@[simp] theorem State.modCtx_env (s : State) (p : CmdPort) (f : Ctx → Ctx) : (s.modCtx p f).env = s.env := rfl
@[simp] theorem State.modCtx_boot (s : State) (p : CmdPort) (f : Ctx → Ctx) : (s.modCtx p f).boot = s.boot := rfl
@[simp] theorem State.modCtx_tt (s : State) (p : CmdPort) (f : Ctx → Ctx) : (s.modCtx p f).tt = s.tt := rfl
@[simp] theorem State.modCtx_ports (s : State) (p : CmdPort) (f : Ctx → Ctx) : (s.modCtx p f).ports = s.ports := rfl
@[simp] theorem State.modCtx_macros (s : State) (p : CmdPort) (f : Ctx → Ctx) : (s.modCtx p f).macros = s.macros := rfl
@[simp] theorem State.modCtx_mgmt (s : State) (p : CmdPort) (f : Ctx → Ctx) : (s.modCtx p f).mgmt = s.mgmt := rfl
@[simp] theorem State.modCtx_time (s : State) (p : CmdPort) (f : Ctx → Ctx) : (s.modCtx p f).time = s.time := rfl
@[simp] theorem State.modCtx_tables (s : State) (p : CmdPort) (f : Ctx → Ctx) : (s.modCtx p f).tables = s.tables := rfl
@[simp] theorem State.modCtx_flow (s : State) (p : CmdPort) (f : Ctx → Ctx) : (s.modCtx p f).flow = s.flow := rfl
@[simp] theorem State.modCtx_arb (s : State) (p : CmdPort) (f : Ctx → Ctx) : (s.modCtx p f).arb = s.arb := rfl
@[simp] theorem State.modCtx_buf (s : State) (p : CmdPort) (f : Ctx → Ctx) : (s.modCtx p f).buf = s.buf := rfl
@[simp] theorem State.modCtx_pool (s : State) (p : CmdPort) (f : Ctx → Ctx) : (s.modCtx p f).pool = s.pool := rfl
@[simp] theorem State.modCtx_cab (s : State) (p : CmdPort) (f : Ctx → Ctx) : (s.modCtx p f).cab = s.cab := rfl
@[simp] theorem State.modCtx_cmd (s : State) (p : CmdPort) (f : Ctx → Ctx) : (s.modCtx p f).cmd = s.cmd := rfl
@[simp] theorem State.modCtx_ucode (s : State) (p : CmdPort) (f : Ctx → Ctx) : (s.modCtx p f).ucode = { s.ucode with ctxs := tmod Ctx.init s.ucode.ctxs (portNum p) f } := rfl
@[simp] theorem State.modCtx_host (s : State) (p : CmdPort) (f : Ctx → Ctx) : (s.modCtx p f).host = s.host := rfl
@[simp] theorem State.modCtx_insts (s : State) (p : CmdPort) (f : Ctx → Ctx) : (s.modCtx p f).insts = s.insts := rfl
@[simp] theorem State.modCtx_portOwner (s : State) (p : CmdPort) (f : Ctx → Ctx) : (s.modCtx p f).portOwner = s.portOwner := rfl
@[simp] theorem State.modCtx_mirror (s : State) (p : CmdPort) (f : Ctx → Ctx) : (s.modCtx p f).mirror = s.mirror := rfl
@[simp] theorem State.modCtx_flt (s : State) (p : CmdPort) (f : Ctx → Ctx) : (s.modCtx p f).flt = s.flt := rfl
@[simp] theorem State.modCtx_evts (s : State) (p : CmdPort) (f : Ctx → Ctx) : (s.modCtx p f).evts = s.evts := rfl
@[simp] theorem State.modCtx_mon (s : State) (p : CmdPort) (f : Ctx → Ctx) : (s.modCtx p f).mon = s.mon := rfl
@[simp] theorem State.modCtx_selftest (s : State) (p : CmdPort) (f : Ctx → Ctx) : (s.modCtx p f).selftest = s.selftest := rfl
@[simp] theorem State.modCtx_pmc (s : State) (p : CmdPort) (f : Ctx → Ctx) : (s.modCtx p f).pmc = s.pmc := rfl
@[simp] theorem State.modCtx_out (s : State) (p : CmdPort) (f : Ctx → Ctx) : (s.modCtx p f).out = s.out := rfl

/-! ### `State.modDma` -/

@[simp] theorem State.modDma_pending (s : State) (r : Nat) (f : DmaRing → DmaRing) : (s.modDma r f).pending = s.pending := rfl
@[simp] theorem State.modDma_freeCtr (s : State) (r : Nat) (f : DmaRing → DmaRing) : (s.modDma r f).freeCtr = s.freeCtr := rfl
@[simp] theorem State.modDma_off8 (s : State) (r : Nat) (f : DmaRing → DmaRing) : (s.modDma r f).off8 = s.off8 := rfl
@[simp] theorem State.modDma_env (s : State) (r : Nat) (f : DmaRing → DmaRing) : (s.modDma r f).env = s.env := rfl
@[simp] theorem State.modDma_boot (s : State) (r : Nat) (f : DmaRing → DmaRing) : (s.modDma r f).boot = s.boot := rfl
@[simp] theorem State.modDma_tt (s : State) (r : Nat) (f : DmaRing → DmaRing) : (s.modDma r f).tt = s.tt := rfl
@[simp] theorem State.modDma_ports (s : State) (r : Nat) (f : DmaRing → DmaRing) : (s.modDma r f).ports = s.ports := rfl
@[simp] theorem State.modDma_macros (s : State) (r : Nat) (f : DmaRing → DmaRing) : (s.modDma r f).macros = s.macros := rfl
@[simp] theorem State.modDma_mgmt (s : State) (r : Nat) (f : DmaRing → DmaRing) : (s.modDma r f).mgmt = s.mgmt := rfl
@[simp] theorem State.modDma_time (s : State) (r : Nat) (f : DmaRing → DmaRing) : (s.modDma r f).time = s.time := rfl
@[simp] theorem State.modDma_tables (s : State) (r : Nat) (f : DmaRing → DmaRing) : (s.modDma r f).tables = s.tables := rfl
@[simp] theorem State.modDma_flow (s : State) (r : Nat) (f : DmaRing → DmaRing) : (s.modDma r f).flow = s.flow := rfl
@[simp] theorem State.modDma_arb (s : State) (r : Nat) (f : DmaRing → DmaRing) : (s.modDma r f).arb = s.arb := rfl
@[simp] theorem State.modDma_buf (s : State) (r : Nat) (f : DmaRing → DmaRing) : (s.modDma r f).buf = s.buf := rfl
@[simp] theorem State.modDma_pool (s : State) (r : Nat) (f : DmaRing → DmaRing) : (s.modDma r f).pool = s.pool := rfl
@[simp] theorem State.modDma_cab (s : State) (r : Nat) (f : DmaRing → DmaRing) : (s.modDma r f).cab = s.cab := rfl
@[simp] theorem State.modDma_cmd (s : State) (r : Nat) (f : DmaRing → DmaRing) : (s.modDma r f).cmd = s.cmd := rfl
@[simp] theorem State.modDma_ucode (s : State) (r : Nat) (f : DmaRing → DmaRing) : (s.modDma r f).ucode = s.ucode := rfl
@[simp] theorem State.modDma_host (s : State) (r : Nat) (f : DmaRing → DmaRing) : (s.modDma r f).host = { s.host with rings := tmod DmaRing.init s.host.rings r f } := rfl
@[simp] theorem State.modDma_insts (s : State) (r : Nat) (f : DmaRing → DmaRing) : (s.modDma r f).insts = s.insts := rfl
@[simp] theorem State.modDma_portOwner (s : State) (r : Nat) (f : DmaRing → DmaRing) : (s.modDma r f).portOwner = s.portOwner := rfl
@[simp] theorem State.modDma_mirror (s : State) (r : Nat) (f : DmaRing → DmaRing) : (s.modDma r f).mirror = s.mirror := rfl
@[simp] theorem State.modDma_flt (s : State) (r : Nat) (f : DmaRing → DmaRing) : (s.modDma r f).flt = s.flt := rfl
@[simp] theorem State.modDma_evts (s : State) (r : Nat) (f : DmaRing → DmaRing) : (s.modDma r f).evts = s.evts := rfl
@[simp] theorem State.modDma_mon (s : State) (r : Nat) (f : DmaRing → DmaRing) : (s.modDma r f).mon = s.mon := rfl
@[simp] theorem State.modDma_selftest (s : State) (r : Nat) (f : DmaRing → DmaRing) : (s.modDma r f).selftest = s.selftest := rfl
@[simp] theorem State.modDma_pmc (s : State) (r : Nat) (f : DmaRing → DmaRing) : (s.modDma r f).pmc = s.pmc := rfl
@[simp] theorem State.modDma_out (s : State) (r : Nat) (f : DmaRing → DmaRing) : (s.modDma r f).out = s.out := rfl
theorem State.dma_modDma_same (s : State) (r : Nat) (f : DmaRing → DmaRing) (h : twf DmaRing.init s.host.rings = true) :
    (s.modDma r f).dma r = f (s.dma r) :=
  tget_tmod_same _ _ f h
theorem State.dma_modDma_other (s : State) {r j : Nat} (f : _) (h : j ≠ r) : (s.modDma r f).dma j = s.dma j :=
  tget_tmod_other _ _ f h

/-! ### `State.modFn` -/

@[simp] theorem State.modFn_pending (s : State) (n : Nat) (f : FnCfg → FnCfg) : (s.modFn n f).pending = s.pending := rfl
@[simp] theorem State.modFn_freeCtr (s : State) (n : Nat) (f : FnCfg → FnCfg) : (s.modFn n f).freeCtr = s.freeCtr := rfl
@[simp] theorem State.modFn_off8 (s : State) (n : Nat) (f : FnCfg → FnCfg) : (s.modFn n f).off8 = s.off8 := rfl
@[simp] theorem State.modFn_env (s : State) (n : Nat) (f : FnCfg → FnCfg) : (s.modFn n f).env = s.env := rfl
@[simp] theorem State.modFn_boot (s : State) (n : Nat) (f : FnCfg → FnCfg) : (s.modFn n f).boot = s.boot := rfl
@[simp] theorem State.modFn_tt (s : State) (n : Nat) (f : FnCfg → FnCfg) : (s.modFn n f).tt = s.tt := rfl
@[simp] theorem State.modFn_ports (s : State) (n : Nat) (f : FnCfg → FnCfg) : (s.modFn n f).ports = s.ports := rfl
@[simp] theorem State.modFn_macros (s : State) (n : Nat) (f : FnCfg → FnCfg) : (s.modFn n f).macros = s.macros := rfl
@[simp] theorem State.modFn_mgmt (s : State) (n : Nat) (f : FnCfg → FnCfg) : (s.modFn n f).mgmt = s.mgmt := rfl
@[simp] theorem State.modFn_time (s : State) (n : Nat) (f : FnCfg → FnCfg) : (s.modFn n f).time = s.time := rfl
@[simp] theorem State.modFn_tables (s : State) (n : Nat) (f : FnCfg → FnCfg) : (s.modFn n f).tables = s.tables := rfl
@[simp] theorem State.modFn_flow (s : State) (n : Nat) (f : FnCfg → FnCfg) : (s.modFn n f).flow = s.flow := rfl
@[simp] theorem State.modFn_arb (s : State) (n : Nat) (f : FnCfg → FnCfg) : (s.modFn n f).arb = s.arb := rfl
@[simp] theorem State.modFn_buf (s : State) (n : Nat) (f : FnCfg → FnCfg) : (s.modFn n f).buf = s.buf := rfl
@[simp] theorem State.modFn_pool (s : State) (n : Nat) (f : FnCfg → FnCfg) : (s.modFn n f).pool = s.pool := rfl
@[simp] theorem State.modFn_cab (s : State) (n : Nat) (f : FnCfg → FnCfg) : (s.modFn n f).cab = s.cab := rfl
@[simp] theorem State.modFn_cmd (s : State) (n : Nat) (f : FnCfg → FnCfg) : (s.modFn n f).cmd = s.cmd := rfl
@[simp] theorem State.modFn_ucode (s : State) (n : Nat) (f : FnCfg → FnCfg) : (s.modFn n f).ucode = s.ucode := rfl
@[simp] theorem State.modFn_host (s : State) (n : Nat) (f : FnCfg → FnCfg) : (s.modFn n f).host = { s.host with fns := tmod FnCfg.init s.host.fns n f } := rfl
@[simp] theorem State.modFn_insts (s : State) (n : Nat) (f : FnCfg → FnCfg) : (s.modFn n f).insts = s.insts := rfl
@[simp] theorem State.modFn_portOwner (s : State) (n : Nat) (f : FnCfg → FnCfg) : (s.modFn n f).portOwner = s.portOwner := rfl
@[simp] theorem State.modFn_mirror (s : State) (n : Nat) (f : FnCfg → FnCfg) : (s.modFn n f).mirror = s.mirror := rfl
@[simp] theorem State.modFn_flt (s : State) (n : Nat) (f : FnCfg → FnCfg) : (s.modFn n f).flt = s.flt := rfl
@[simp] theorem State.modFn_evts (s : State) (n : Nat) (f : FnCfg → FnCfg) : (s.modFn n f).evts = s.evts := rfl
@[simp] theorem State.modFn_mon (s : State) (n : Nat) (f : FnCfg → FnCfg) : (s.modFn n f).mon = s.mon := rfl
@[simp] theorem State.modFn_selftest (s : State) (n : Nat) (f : FnCfg → FnCfg) : (s.modFn n f).selftest = s.selftest := rfl
@[simp] theorem State.modFn_pmc (s : State) (n : Nat) (f : FnCfg → FnCfg) : (s.modFn n f).pmc = s.pmc := rfl
@[simp] theorem State.modFn_out (s : State) (n : Nat) (f : FnCfg → FnCfg) : (s.modFn n f).out = s.out := rfl
theorem State.fn_modFn_same (s : State) (n : Nat) (f : FnCfg → FnCfg) (h : twf FnCfg.init s.host.fns = true) :
    (s.modFn n f).fn n = f (s.fn n) :=
  tget_tmod_same _ _ f h
theorem State.fn_modFn_other (s : State) {n j : Nat} (f : _) (h : j ≠ n) : (s.modFn n f).fn j = s.fn j :=
  tget_tmod_other _ _ f h

/-! ### `State.modInst` -/

@[simp] theorem State.modInst_pending (s : State) (n : Nat) (f : Inst → Inst) : (s.modInst n f).pending = s.pending := rfl
@[simp] theorem State.modInst_freeCtr (s : State) (n : Nat) (f : Inst → Inst) : (s.modInst n f).freeCtr = s.freeCtr := rfl
@[simp] theorem State.modInst_off8 (s : State) (n : Nat) (f : Inst → Inst) : (s.modInst n f).off8 = s.off8 := rfl
@[simp] theorem State.modInst_env (s : State) (n : Nat) (f : Inst → Inst) : (s.modInst n f).env = s.env := rfl
@[simp] theorem State.modInst_boot (s : State) (n : Nat) (f : Inst → Inst) : (s.modInst n f).boot = s.boot := rfl
@[simp] theorem State.modInst_tt (s : State) (n : Nat) (f : Inst → Inst) : (s.modInst n f).tt = s.tt := rfl
@[simp] theorem State.modInst_ports (s : State) (n : Nat) (f : Inst → Inst) : (s.modInst n f).ports = s.ports := rfl
@[simp] theorem State.modInst_macros (s : State) (n : Nat) (f : Inst → Inst) : (s.modInst n f).macros = s.macros := rfl
@[simp] theorem State.modInst_mgmt (s : State) (n : Nat) (f : Inst → Inst) : (s.modInst n f).mgmt = s.mgmt := rfl
@[simp] theorem State.modInst_time (s : State) (n : Nat) (f : Inst → Inst) : (s.modInst n f).time = s.time := rfl
@[simp] theorem State.modInst_tables (s : State) (n : Nat) (f : Inst → Inst) : (s.modInst n f).tables = s.tables := rfl
@[simp] theorem State.modInst_flow (s : State) (n : Nat) (f : Inst → Inst) : (s.modInst n f).flow = s.flow := rfl
@[simp] theorem State.modInst_arb (s : State) (n : Nat) (f : Inst → Inst) : (s.modInst n f).arb = s.arb := rfl
@[simp] theorem State.modInst_buf (s : State) (n : Nat) (f : Inst → Inst) : (s.modInst n f).buf = s.buf := rfl
@[simp] theorem State.modInst_pool (s : State) (n : Nat) (f : Inst → Inst) : (s.modInst n f).pool = s.pool := rfl
@[simp] theorem State.modInst_cab (s : State) (n : Nat) (f : Inst → Inst) : (s.modInst n f).cab = s.cab := rfl
@[simp] theorem State.modInst_cmd (s : State) (n : Nat) (f : Inst → Inst) : (s.modInst n f).cmd = s.cmd := rfl
@[simp] theorem State.modInst_ucode (s : State) (n : Nat) (f : Inst → Inst) : (s.modInst n f).ucode = s.ucode := rfl
@[simp] theorem State.modInst_host (s : State) (n : Nat) (f : Inst → Inst) : (s.modInst n f).host = s.host := rfl
@[simp] theorem State.modInst_insts (s : State) (n : Nat) (f : Inst → Inst) : (s.modInst n f).insts = tmod Inst.init s.insts n f := rfl
@[simp] theorem State.modInst_portOwner (s : State) (n : Nat) (f : Inst → Inst) : (s.modInst n f).portOwner = s.portOwner := rfl
@[simp] theorem State.modInst_mirror (s : State) (n : Nat) (f : Inst → Inst) : (s.modInst n f).mirror = s.mirror := rfl
@[simp] theorem State.modInst_flt (s : State) (n : Nat) (f : Inst → Inst) : (s.modInst n f).flt = s.flt := rfl
@[simp] theorem State.modInst_evts (s : State) (n : Nat) (f : Inst → Inst) : (s.modInst n f).evts = s.evts := rfl
@[simp] theorem State.modInst_mon (s : State) (n : Nat) (f : Inst → Inst) : (s.modInst n f).mon = s.mon := rfl
@[simp] theorem State.modInst_selftest (s : State) (n : Nat) (f : Inst → Inst) : (s.modInst n f).selftest = s.selftest := rfl
@[simp] theorem State.modInst_pmc (s : State) (n : Nat) (f : Inst → Inst) : (s.modInst n f).pmc = s.pmc := rfl
@[simp] theorem State.modInst_out (s : State) (n : Nat) (f : Inst → Inst) : (s.modInst n f).out = s.out := rfl
theorem State.inst_modInst_same (s : State) (n : Nat) (f : Inst → Inst) (h : twf Inst.init s.insts = true) :
    (s.modInst n f).inst n = f (s.inst n) :=
  tget_tmod_same _ _ f h
theorem State.inst_modInst_other (s : State) {n j : Nat} (f : _) (h : j ≠ n) : (s.modInst n f).inst j = s.inst j :=
  tget_tmod_other _ _ f h

/-! ### `State.modEvt` -/

@[simp] theorem State.modEvt_pending (s : State) (k : Nat) (f : EvtSrc → EvtSrc) : (s.modEvt k f).pending = s.pending := rfl
@[simp] theorem State.modEvt_freeCtr (s : State) (k : Nat) (f : EvtSrc → EvtSrc) : (s.modEvt k f).freeCtr = s.freeCtr := rfl
@[simp] theorem State.modEvt_off8 (s : State) (k : Nat) (f : EvtSrc → EvtSrc) : (s.modEvt k f).off8 = s.off8 := rfl
@[simp] theorem State.modEvt_env (s : State) (k : Nat) (f : EvtSrc → EvtSrc) : (s.modEvt k f).env = s.env := rfl
@[simp] theorem State.modEvt_boot (s : State) (k : Nat) (f : EvtSrc → EvtSrc) : (s.modEvt k f).boot = s.boot := rfl
@[simp] theorem State.modEvt_tt (s : State) (k : Nat) (f : EvtSrc → EvtSrc) : (s.modEvt k f).tt = s.tt := rfl
@[simp] theorem State.modEvt_ports (s : State) (k : Nat) (f : EvtSrc → EvtSrc) : (s.modEvt k f).ports = s.ports := rfl
@[simp] theorem State.modEvt_macros (s : State) (k : Nat) (f : EvtSrc → EvtSrc) : (s.modEvt k f).macros = s.macros := rfl
@[simp] theorem State.modEvt_mgmt (s : State) (k : Nat) (f : EvtSrc → EvtSrc) : (s.modEvt k f).mgmt = s.mgmt := rfl
@[simp] theorem State.modEvt_time (s : State) (k : Nat) (f : EvtSrc → EvtSrc) : (s.modEvt k f).time = s.time := rfl
@[simp] theorem State.modEvt_tables (s : State) (k : Nat) (f : EvtSrc → EvtSrc) : (s.modEvt k f).tables = s.tables := rfl
@[simp] theorem State.modEvt_flow (s : State) (k : Nat) (f : EvtSrc → EvtSrc) : (s.modEvt k f).flow = s.flow := rfl
@[simp] theorem State.modEvt_arb (s : State) (k : Nat) (f : EvtSrc → EvtSrc) : (s.modEvt k f).arb = s.arb := rfl
@[simp] theorem State.modEvt_buf (s : State) (k : Nat) (f : EvtSrc → EvtSrc) : (s.modEvt k f).buf = s.buf := rfl
@[simp] theorem State.modEvt_pool (s : State) (k : Nat) (f : EvtSrc → EvtSrc) : (s.modEvt k f).pool = s.pool := rfl
@[simp] theorem State.modEvt_cab (s : State) (k : Nat) (f : EvtSrc → EvtSrc) : (s.modEvt k f).cab = s.cab := rfl
@[simp] theorem State.modEvt_cmd (s : State) (k : Nat) (f : EvtSrc → EvtSrc) : (s.modEvt k f).cmd = s.cmd := rfl
@[simp] theorem State.modEvt_ucode (s : State) (k : Nat) (f : EvtSrc → EvtSrc) : (s.modEvt k f).ucode = s.ucode := rfl
@[simp] theorem State.modEvt_host (s : State) (k : Nat) (f : EvtSrc → EvtSrc) : (s.modEvt k f).host = s.host := rfl
@[simp] theorem State.modEvt_insts (s : State) (k : Nat) (f : EvtSrc → EvtSrc) : (s.modEvt k f).insts = s.insts := rfl
@[simp] theorem State.modEvt_portOwner (s : State) (k : Nat) (f : EvtSrc → EvtSrc) : (s.modEvt k f).portOwner = s.portOwner := rfl
@[simp] theorem State.modEvt_mirror (s : State) (k : Nat) (f : EvtSrc → EvtSrc) : (s.modEvt k f).mirror = s.mirror := rfl
@[simp] theorem State.modEvt_flt (s : State) (k : Nat) (f : EvtSrc → EvtSrc) : (s.modEvt k f).flt = s.flt := rfl
@[simp] theorem State.modEvt_evts (s : State) (k : Nat) (f : EvtSrc → EvtSrc) : (s.modEvt k f).evts = tmod EvtSrc.init s.evts k f := rfl
@[simp] theorem State.modEvt_mon (s : State) (k : Nat) (f : EvtSrc → EvtSrc) : (s.modEvt k f).mon = s.mon := rfl
@[simp] theorem State.modEvt_selftest (s : State) (k : Nat) (f : EvtSrc → EvtSrc) : (s.modEvt k f).selftest = s.selftest := rfl
@[simp] theorem State.modEvt_pmc (s : State) (k : Nat) (f : EvtSrc → EvtSrc) : (s.modEvt k f).pmc = s.pmc := rfl
@[simp] theorem State.modEvt_out (s : State) (k : Nat) (f : EvtSrc → EvtSrc) : (s.modEvt k f).out = s.out := rfl
theorem State.evt_modEvt_same (s : State) (k : Nat) (f : EvtSrc → EvtSrc) (h : twf EvtSrc.init s.evts = true) :
    (s.modEvt k f).evt k = f (s.evt k) :=
  tget_tmod_same _ _ f h
theorem State.evt_modEvt_other (s : State) {k j : Nat} (f : _) (h : j ≠ k) : (s.modEvt k f).evt j = s.evt j :=
  tget_tmod_other _ _ f h

/-! ### `State.modSensor` -/

@[simp] theorem State.modSensor_pending (s : State) (k : Nat) (f : Sensor → Sensor) : (s.modSensor k f).pending = s.pending := rfl
@[simp] theorem State.modSensor_freeCtr (s : State) (k : Nat) (f : Sensor → Sensor) : (s.modSensor k f).freeCtr = s.freeCtr := rfl
@[simp] theorem State.modSensor_off8 (s : State) (k : Nat) (f : Sensor → Sensor) : (s.modSensor k f).off8 = s.off8 := rfl
@[simp] theorem State.modSensor_env (s : State) (k : Nat) (f : Sensor → Sensor) : (s.modSensor k f).env = s.env := rfl
@[simp] theorem State.modSensor_boot (s : State) (k : Nat) (f : Sensor → Sensor) : (s.modSensor k f).boot = s.boot := rfl
@[simp] theorem State.modSensor_tt (s : State) (k : Nat) (f : Sensor → Sensor) : (s.modSensor k f).tt = s.tt := rfl
@[simp] theorem State.modSensor_ports (s : State) (k : Nat) (f : Sensor → Sensor) : (s.modSensor k f).ports = s.ports := rfl
@[simp] theorem State.modSensor_macros (s : State) (k : Nat) (f : Sensor → Sensor) : (s.modSensor k f).macros = s.macros := rfl
@[simp] theorem State.modSensor_mgmt (s : State) (k : Nat) (f : Sensor → Sensor) : (s.modSensor k f).mgmt = s.mgmt := rfl
@[simp] theorem State.modSensor_time (s : State) (k : Nat) (f : Sensor → Sensor) : (s.modSensor k f).time = s.time := rfl
@[simp] theorem State.modSensor_tables (s : State) (k : Nat) (f : Sensor → Sensor) : (s.modSensor k f).tables = s.tables := rfl
@[simp] theorem State.modSensor_flow (s : State) (k : Nat) (f : Sensor → Sensor) : (s.modSensor k f).flow = s.flow := rfl
@[simp] theorem State.modSensor_arb (s : State) (k : Nat) (f : Sensor → Sensor) : (s.modSensor k f).arb = s.arb := rfl
@[simp] theorem State.modSensor_buf (s : State) (k : Nat) (f : Sensor → Sensor) : (s.modSensor k f).buf = s.buf := rfl
@[simp] theorem State.modSensor_pool (s : State) (k : Nat) (f : Sensor → Sensor) : (s.modSensor k f).pool = s.pool := rfl
@[simp] theorem State.modSensor_cab (s : State) (k : Nat) (f : Sensor → Sensor) : (s.modSensor k f).cab = s.cab := rfl
@[simp] theorem State.modSensor_cmd (s : State) (k : Nat) (f : Sensor → Sensor) : (s.modSensor k f).cmd = s.cmd := rfl
@[simp] theorem State.modSensor_ucode (s : State) (k : Nat) (f : Sensor → Sensor) : (s.modSensor k f).ucode = s.ucode := rfl
@[simp] theorem State.modSensor_host (s : State) (k : Nat) (f : Sensor → Sensor) : (s.modSensor k f).host = s.host := rfl
@[simp] theorem State.modSensor_insts (s : State) (k : Nat) (f : Sensor → Sensor) : (s.modSensor k f).insts = s.insts := rfl
@[simp] theorem State.modSensor_portOwner (s : State) (k : Nat) (f : Sensor → Sensor) : (s.modSensor k f).portOwner = s.portOwner := rfl
@[simp] theorem State.modSensor_mirror (s : State) (k : Nat) (f : Sensor → Sensor) : (s.modSensor k f).mirror = s.mirror := rfl
@[simp] theorem State.modSensor_flt (s : State) (k : Nat) (f : Sensor → Sensor) : (s.modSensor k f).flt = s.flt := rfl
@[simp] theorem State.modSensor_evts (s : State) (k : Nat) (f : Sensor → Sensor) : (s.modSensor k f).evts = s.evts := rfl
@[simp] theorem State.modSensor_mon (s : State) (k : Nat) (f : Sensor → Sensor) : (s.modSensor k f).mon = { s.mon with sensors := tmod Sensor.init s.mon.sensors k f } := rfl
@[simp] theorem State.modSensor_selftest (s : State) (k : Nat) (f : Sensor → Sensor) : (s.modSensor k f).selftest = s.selftest := rfl
@[simp] theorem State.modSensor_pmc (s : State) (k : Nat) (f : Sensor → Sensor) : (s.modSensor k f).pmc = s.pmc := rfl
@[simp] theorem State.modSensor_out (s : State) (k : Nat) (f : Sensor → Sensor) : (s.modSensor k f).out = s.out := rfl
theorem State.sensor_modSensor_same (s : State) (k : Nat) (f : Sensor → Sensor) (h : twf Sensor.init s.mon.sensors = true) :
    (s.modSensor k f).sensor k = f (s.sensor k) :=
  tget_tmod_same _ _ f h
theorem State.sensor_modSensor_other (s : State) {k j : Nat} (f : _) (h : j ≠ k) : (s.modSensor k f).sensor j = s.sensor j :=
  tget_tmod_other _ _ f h

/-! ### `State.modVolt` -/

@[simp] theorem State.modVolt_pending (s : State) (k : Nat) (f : Volt → Volt) : (s.modVolt k f).pending = s.pending := rfl
@[simp] theorem State.modVolt_freeCtr (s : State) (k : Nat) (f : Volt → Volt) : (s.modVolt k f).freeCtr = s.freeCtr := rfl
@[simp] theorem State.modVolt_off8 (s : State) (k : Nat) (f : Volt → Volt) : (s.modVolt k f).off8 = s.off8 := rfl
@[simp] theorem State.modVolt_env (s : State) (k : Nat) (f : Volt → Volt) : (s.modVolt k f).env = s.env := rfl
@[simp] theorem State.modVolt_boot (s : State) (k : Nat) (f : Volt → Volt) : (s.modVolt k f).boot = s.boot := rfl
@[simp] theorem State.modVolt_tt (s : State) (k : Nat) (f : Volt → Volt) : (s.modVolt k f).tt = s.tt := rfl
@[simp] theorem State.modVolt_ports (s : State) (k : Nat) (f : Volt → Volt) : (s.modVolt k f).ports = s.ports := rfl
@[simp] theorem State.modVolt_macros (s : State) (k : Nat) (f : Volt → Volt) : (s.modVolt k f).macros = s.macros := rfl
@[simp] theorem State.modVolt_mgmt (s : State) (k : Nat) (f : Volt → Volt) : (s.modVolt k f).mgmt = s.mgmt := rfl
@[simp] theorem State.modVolt_time (s : State) (k : Nat) (f : Volt → Volt) : (s.modVolt k f).time = s.time := rfl
@[simp] theorem State.modVolt_tables (s : State) (k : Nat) (f : Volt → Volt) : (s.modVolt k f).tables = s.tables := rfl
@[simp] theorem State.modVolt_flow (s : State) (k : Nat) (f : Volt → Volt) : (s.modVolt k f).flow = s.flow := rfl
@[simp] theorem State.modVolt_arb (s : State) (k : Nat) (f : Volt → Volt) : (s.modVolt k f).arb = s.arb := rfl
@[simp] theorem State.modVolt_buf (s : State) (k : Nat) (f : Volt → Volt) : (s.modVolt k f).buf = s.buf := rfl
@[simp] theorem State.modVolt_pool (s : State) (k : Nat) (f : Volt → Volt) : (s.modVolt k f).pool = s.pool := rfl
@[simp] theorem State.modVolt_cab (s : State) (k : Nat) (f : Volt → Volt) : (s.modVolt k f).cab = s.cab := rfl
@[simp] theorem State.modVolt_cmd (s : State) (k : Nat) (f : Volt → Volt) : (s.modVolt k f).cmd = s.cmd := rfl
@[simp] theorem State.modVolt_ucode (s : State) (k : Nat) (f : Volt → Volt) : (s.modVolt k f).ucode = s.ucode := rfl
@[simp] theorem State.modVolt_host (s : State) (k : Nat) (f : Volt → Volt) : (s.modVolt k f).host = s.host := rfl
@[simp] theorem State.modVolt_insts (s : State) (k : Nat) (f : Volt → Volt) : (s.modVolt k f).insts = s.insts := rfl
@[simp] theorem State.modVolt_portOwner (s : State) (k : Nat) (f : Volt → Volt) : (s.modVolt k f).portOwner = s.portOwner := rfl
@[simp] theorem State.modVolt_mirror (s : State) (k : Nat) (f : Volt → Volt) : (s.modVolt k f).mirror = s.mirror := rfl
@[simp] theorem State.modVolt_flt (s : State) (k : Nat) (f : Volt → Volt) : (s.modVolt k f).flt = s.flt := rfl
@[simp] theorem State.modVolt_evts (s : State) (k : Nat) (f : Volt → Volt) : (s.modVolt k f).evts = s.evts := rfl
@[simp] theorem State.modVolt_mon (s : State) (k : Nat) (f : Volt → Volt) : (s.modVolt k f).mon = { s.mon with volts := tmod Volt.init s.mon.volts k f } := rfl
@[simp] theorem State.modVolt_selftest (s : State) (k : Nat) (f : Volt → Volt) : (s.modVolt k f).selftest = s.selftest := rfl
@[simp] theorem State.modVolt_pmc (s : State) (k : Nat) (f : Volt → Volt) : (s.modVolt k f).pmc = s.pmc := rfl
@[simp] theorem State.modVolt_out (s : State) (k : Nat) (f : Volt → Volt) : (s.modVolt k f).out = s.out := rfl
theorem State.volt_modVolt_same (s : State) (k : Nat) (f : Volt → Volt) (h : twf Volt.init s.mon.volts = true) :
    (s.modVolt k f).volt k = f (s.volt k) :=
  tget_tmod_same _ _ f h
theorem State.volt_modVolt_other (s : State) {k j : Nat} (f : _) (h : j ≠ k) : (s.modVolt k f).volt j = s.volt j :=
  tget_tmod_other _ _ f h

/-! ### `State.modSample` -/

@[simp] theorem State.modSample_pending (s : State) (p : Nat) (f : Sample → Sample) : (s.modSample p f).pending = s.pending := rfl
@[simp] theorem State.modSample_freeCtr (s : State) (p : Nat) (f : Sample → Sample) : (s.modSample p f).freeCtr = s.freeCtr := rfl
@[simp] theorem State.modSample_off8 (s : State) (p : Nat) (f : Sample → Sample) : (s.modSample p f).off8 = s.off8 := rfl
@[simp] theorem State.modSample_env (s : State) (p : Nat) (f : Sample → Sample) : (s.modSample p f).env = s.env := rfl
@[simp] theorem State.modSample_boot (s : State) (p : Nat) (f : Sample → Sample) : (s.modSample p f).boot = s.boot := rfl
@[simp] theorem State.modSample_tt (s : State) (p : Nat) (f : Sample → Sample) : (s.modSample p f).tt = s.tt := rfl
@[simp] theorem State.modSample_ports (s : State) (p : Nat) (f : Sample → Sample) : (s.modSample p f).ports = s.ports := rfl
@[simp] theorem State.modSample_macros (s : State) (p : Nat) (f : Sample → Sample) : (s.modSample p f).macros = s.macros := rfl
@[simp] theorem State.modSample_mgmt (s : State) (p : Nat) (f : Sample → Sample) : (s.modSample p f).mgmt = s.mgmt := rfl
@[simp] theorem State.modSample_time (s : State) (p : Nat) (f : Sample → Sample) : (s.modSample p f).time = s.time := rfl
@[simp] theorem State.modSample_tables (s : State) (p : Nat) (f : Sample → Sample) : (s.modSample p f).tables = s.tables := rfl
@[simp] theorem State.modSample_flow (s : State) (p : Nat) (f : Sample → Sample) : (s.modSample p f).flow = s.flow := rfl
@[simp] theorem State.modSample_arb (s : State) (p : Nat) (f : Sample → Sample) : (s.modSample p f).arb = s.arb := rfl
@[simp] theorem State.modSample_buf (s : State) (p : Nat) (f : Sample → Sample) : (s.modSample p f).buf = s.buf := rfl
@[simp] theorem State.modSample_pool (s : State) (p : Nat) (f : Sample → Sample) : (s.modSample p f).pool = s.pool := rfl
@[simp] theorem State.modSample_cab (s : State) (p : Nat) (f : Sample → Sample) : (s.modSample p f).cab = s.cab := rfl
@[simp] theorem State.modSample_cmd (s : State) (p : Nat) (f : Sample → Sample) : (s.modSample p f).cmd = s.cmd := rfl
@[simp] theorem State.modSample_ucode (s : State) (p : Nat) (f : Sample → Sample) : (s.modSample p f).ucode = s.ucode := rfl
@[simp] theorem State.modSample_host (s : State) (p : Nat) (f : Sample → Sample) : (s.modSample p f).host = s.host := rfl
@[simp] theorem State.modSample_insts (s : State) (p : Nat) (f : Sample → Sample) : (s.modSample p f).insts = s.insts := rfl
@[simp] theorem State.modSample_portOwner (s : State) (p : Nat) (f : Sample → Sample) : (s.modSample p f).portOwner = s.portOwner := rfl
@[simp] theorem State.modSample_mirror (s : State) (p : Nat) (f : Sample → Sample) : (s.modSample p f).mirror = s.mirror := rfl
@[simp] theorem State.modSample_flt (s : State) (p : Nat) (f : Sample → Sample) : (s.modSample p f).flt = s.flt := rfl
@[simp] theorem State.modSample_evts (s : State) (p : Nat) (f : Sample → Sample) : (s.modSample p f).evts = s.evts := rfl
@[simp] theorem State.modSample_mon (s : State) (p : Nat) (f : Sample → Sample) : (s.modSample p f).mon = s.mon := rfl
@[simp] theorem State.modSample_selftest (s : State) (p : Nat) (f : Sample → Sample) : (s.modSample p f).selftest = s.selftest := rfl
@[simp] theorem State.modSample_pmc (s : State) (p : Nat) (f : Sample → Sample) : (s.modSample p f).pmc = { s.pmc with samples := tmod Sample.init s.pmc.samples p f } := rfl
@[simp] theorem State.modSample_out (s : State) (p : Nat) (f : Sample → Sample) : (s.modSample p f).out = s.out := rfl
theorem State.sample_modSample_same (s : State) (p : Nat) (f : Sample → Sample) (h : twf Sample.init s.pmc.samples = true) :
    (s.modSample p f).sample p = f (s.sample p) :=
  tget_tmod_same _ _ f h
theorem State.sample_modSample_other (s : State) {p j : Nat} (f : _) (h : j ≠ p) : (s.modSample p f).sample j = s.sample j :=
  tget_tmod_other _ _ f h

/-! ### `State.modQuad` -/

@[simp] theorem State.modQuad_pending (s : State) (q : Nat) (f : Quad → Quad) : (s.modQuad q f).pending = s.pending := rfl
@[simp] theorem State.modQuad_freeCtr (s : State) (q : Nat) (f : Quad → Quad) : (s.modQuad q f).freeCtr = s.freeCtr := rfl
@[simp] theorem State.modQuad_off8 (s : State) (q : Nat) (f : Quad → Quad) : (s.modQuad q f).off8 = s.off8 := rfl
@[simp] theorem State.modQuad_env (s : State) (q : Nat) (f : Quad → Quad) : (s.modQuad q f).env = s.env := rfl
@[simp] theorem State.modQuad_boot (s : State) (q : Nat) (f : Quad → Quad) : (s.modQuad q f).boot = s.boot := rfl
@[simp] theorem State.modQuad_tt (s : State) (q : Nat) (f : Quad → Quad) : (s.modQuad q f).tt = s.tt := rfl
@[simp] theorem State.modQuad_ports (s : State) (q : Nat) (f : Quad → Quad) : (s.modQuad q f).ports = s.ports := rfl
@[simp] theorem State.modQuad_macros (s : State) (q : Nat) (f : Quad → Quad) : (s.modQuad q f).macros = s.macros := rfl
@[simp] theorem State.modQuad_mgmt (s : State) (q : Nat) (f : Quad → Quad) : (s.modQuad q f).mgmt = s.mgmt := rfl
@[simp] theorem State.modQuad_time (s : State) (q : Nat) (f : Quad → Quad) : (s.modQuad q f).time = s.time := rfl
@[simp] theorem State.modQuad_tables (s : State) (q : Nat) (f : Quad → Quad) : (s.modQuad q f).tables = { s.tables with quads := s.tables.quads.modify q f } := rfl
@[simp] theorem State.modQuad_flow (s : State) (q : Nat) (f : Quad → Quad) : (s.modQuad q f).flow = s.flow := rfl
@[simp] theorem State.modQuad_arb (s : State) (q : Nat) (f : Quad → Quad) : (s.modQuad q f).arb = s.arb := rfl
@[simp] theorem State.modQuad_buf (s : State) (q : Nat) (f : Quad → Quad) : (s.modQuad q f).buf = s.buf := rfl
@[simp] theorem State.modQuad_pool (s : State) (q : Nat) (f : Quad → Quad) : (s.modQuad q f).pool = s.pool := rfl
@[simp] theorem State.modQuad_cab (s : State) (q : Nat) (f : Quad → Quad) : (s.modQuad q f).cab = s.cab := rfl
@[simp] theorem State.modQuad_cmd (s : State) (q : Nat) (f : Quad → Quad) : (s.modQuad q f).cmd = s.cmd := rfl
@[simp] theorem State.modQuad_ucode (s : State) (q : Nat) (f : Quad → Quad) : (s.modQuad q f).ucode = s.ucode := rfl
@[simp] theorem State.modQuad_host (s : State) (q : Nat) (f : Quad → Quad) : (s.modQuad q f).host = s.host := rfl
@[simp] theorem State.modQuad_insts (s : State) (q : Nat) (f : Quad → Quad) : (s.modQuad q f).insts = s.insts := rfl
@[simp] theorem State.modQuad_portOwner (s : State) (q : Nat) (f : Quad → Quad) : (s.modQuad q f).portOwner = s.portOwner := rfl
@[simp] theorem State.modQuad_mirror (s : State) (q : Nat) (f : Quad → Quad) : (s.modQuad q f).mirror = s.mirror := rfl
@[simp] theorem State.modQuad_flt (s : State) (q : Nat) (f : Quad → Quad) : (s.modQuad q f).flt = s.flt := rfl
@[simp] theorem State.modQuad_evts (s : State) (q : Nat) (f : Quad → Quad) : (s.modQuad q f).evts = s.evts := rfl
@[simp] theorem State.modQuad_mon (s : State) (q : Nat) (f : Quad → Quad) : (s.modQuad q f).mon = s.mon := rfl
@[simp] theorem State.modQuad_selftest (s : State) (q : Nat) (f : Quad → Quad) : (s.modQuad q f).selftest = s.selftest := rfl
@[simp] theorem State.modQuad_pmc (s : State) (q : Nat) (f : Quad → Quad) : (s.modQuad q f).pmc = s.pmc := rfl
@[simp] theorem State.modQuad_out (s : State) (q : Nat) (f : Quad → Quad) : (s.modQuad q f).out = s.out := rfl

/-! ### `State.emit` -/

@[simp] theorem State.emit_pending (s : State) (o : Out) : (s.emit o).pending = s.pending := rfl
@[simp] theorem State.emit_freeCtr (s : State) (o : Out) : (s.emit o).freeCtr = s.freeCtr := rfl
@[simp] theorem State.emit_off8 (s : State) (o : Out) : (s.emit o).off8 = s.off8 := rfl
@[simp] theorem State.emit_env (s : State) (o : Out) : (s.emit o).env = s.env := rfl
@[simp] theorem State.emit_boot (s : State) (o : Out) : (s.emit o).boot = s.boot := rfl
@[simp] theorem State.emit_tt (s : State) (o : Out) : (s.emit o).tt = s.tt := rfl
@[simp] theorem State.emit_ports (s : State) (o : Out) : (s.emit o).ports = s.ports := rfl
@[simp] theorem State.emit_macros (s : State) (o : Out) : (s.emit o).macros = s.macros := rfl
@[simp] theorem State.emit_mgmt (s : State) (o : Out) : (s.emit o).mgmt = s.mgmt := rfl
@[simp] theorem State.emit_time (s : State) (o : Out) : (s.emit o).time = s.time := rfl
@[simp] theorem State.emit_tables (s : State) (o : Out) : (s.emit o).tables = s.tables := rfl
@[simp] theorem State.emit_flow (s : State) (o : Out) : (s.emit o).flow = s.flow := rfl
@[simp] theorem State.emit_arb (s : State) (o : Out) : (s.emit o).arb = s.arb := rfl
@[simp] theorem State.emit_buf (s : State) (o : Out) : (s.emit o).buf = s.buf := rfl
@[simp] theorem State.emit_pool (s : State) (o : Out) : (s.emit o).pool = s.pool := rfl
@[simp] theorem State.emit_cab (s : State) (o : Out) : (s.emit o).cab = s.cab := rfl
@[simp] theorem State.emit_cmd (s : State) (o : Out) : (s.emit o).cmd = s.cmd := rfl
@[simp] theorem State.emit_ucode (s : State) (o : Out) : (s.emit o).ucode = s.ucode := rfl
@[simp] theorem State.emit_host (s : State) (o : Out) : (s.emit o).host = s.host := rfl
@[simp] theorem State.emit_insts (s : State) (o : Out) : (s.emit o).insts = s.insts := rfl
@[simp] theorem State.emit_portOwner (s : State) (o : Out) : (s.emit o).portOwner = s.portOwner := rfl
@[simp] theorem State.emit_mirror (s : State) (o : Out) : (s.emit o).mirror = s.mirror := rfl
@[simp] theorem State.emit_flt (s : State) (o : Out) : (s.emit o).flt = s.flt := rfl
@[simp] theorem State.emit_evts (s : State) (o : Out) : (s.emit o).evts = s.evts := rfl
@[simp] theorem State.emit_mon (s : State) (o : Out) : (s.emit o).mon = s.mon := rfl
@[simp] theorem State.emit_selftest (s : State) (o : Out) : (s.emit o).selftest = s.selftest := rfl
@[simp] theorem State.emit_pmc (s : State) (o : Out) : (s.emit o).pmc = s.pmc := rfl
@[simp] theorem State.emit_out (s : State) (o : Out) : (s.emit o).out = o :: s.out := rfl

/-! ### `State.at_` -/

@[simp] theorem State.at_pending (s : State) (at8 : Nat) : (s.at_ at8).pending = s.pending := rfl
@[simp] theorem State.at_freeCtr (s : State) (at8 : Nat) : (s.at_ at8).freeCtr = s.freeCtr := rfl
@[simp] theorem State.at_off8 (s : State) (at8 : Nat) : (s.at_ at8).off8 = max s.off8 at8 := rfl
@[simp] theorem State.at_env (s : State) (at8 : Nat) : (s.at_ at8).env = s.env := rfl
@[simp] theorem State.at_boot (s : State) (at8 : Nat) : (s.at_ at8).boot = s.boot := rfl
@[simp] theorem State.at_tt (s : State) (at8 : Nat) : (s.at_ at8).tt = s.tt := rfl
@[simp] theorem State.at_ports (s : State) (at8 : Nat) : (s.at_ at8).ports = s.ports := rfl
@[simp] theorem State.at_macros (s : State) (at8 : Nat) : (s.at_ at8).macros = s.macros := rfl
@[simp] theorem State.at_mgmt (s : State) (at8 : Nat) : (s.at_ at8).mgmt = s.mgmt := rfl
@[simp] theorem State.at_time (s : State) (at8 : Nat) : (s.at_ at8).time = s.time := rfl
@[simp] theorem State.at_tables (s : State) (at8 : Nat) : (s.at_ at8).tables = s.tables := rfl
@[simp] theorem State.at_flow (s : State) (at8 : Nat) : (s.at_ at8).flow = s.flow := rfl
@[simp] theorem State.at_arb (s : State) (at8 : Nat) : (s.at_ at8).arb = s.arb := rfl
@[simp] theorem State.at_buf (s : State) (at8 : Nat) : (s.at_ at8).buf = s.buf := rfl
@[simp] theorem State.at_pool (s : State) (at8 : Nat) : (s.at_ at8).pool = s.pool := rfl
@[simp] theorem State.at_cab (s : State) (at8 : Nat) : (s.at_ at8).cab = s.cab := rfl
@[simp] theorem State.at_cmd (s : State) (at8 : Nat) : (s.at_ at8).cmd = s.cmd := rfl
@[simp] theorem State.at_ucode (s : State) (at8 : Nat) : (s.at_ at8).ucode = s.ucode := rfl
@[simp] theorem State.at_host (s : State) (at8 : Nat) : (s.at_ at8).host = s.host := rfl
@[simp] theorem State.at_insts (s : State) (at8 : Nat) : (s.at_ at8).insts = s.insts := rfl
@[simp] theorem State.at_portOwner (s : State) (at8 : Nat) : (s.at_ at8).portOwner = s.portOwner := rfl
@[simp] theorem State.at_mirror (s : State) (at8 : Nat) : (s.at_ at8).mirror = s.mirror := rfl
@[simp] theorem State.at_flt (s : State) (at8 : Nat) : (s.at_ at8).flt = s.flt := rfl
@[simp] theorem State.at_evts (s : State) (at8 : Nat) : (s.at_ at8).evts = s.evts := rfl
@[simp] theorem State.at_mon (s : State) (at8 : Nat) : (s.at_ at8).mon = s.mon := rfl
@[simp] theorem State.at_selftest (s : State) (at8 : Nat) : (s.at_ at8).selftest = s.selftest := rfl
@[simp] theorem State.at_pmc (s : State) (at8 : Nat) : (s.at_ at8).pmc = s.pmc := rfl
@[simp] theorem State.at_out (s : State) (at8 : Nat) : (s.at_ at8).out = s.out := rfl

/-! ### `State.request` -/

@[simp] theorem State.request_pending (s : State) (src a : Nat) : (s.request src a).pending = s.pending := rfl
@[simp] theorem State.request_freeCtr (s : State) (src a : Nat) : (s.request src a).freeCtr = s.freeCtr := rfl
@[simp] theorem State.request_off8 (s : State) (src a : Nat) : (s.request src a).off8 = s.off8 := rfl
@[simp] theorem State.request_env (s : State) (src a : Nat) : (s.request src a).env = s.env := rfl
@[simp] theorem State.request_boot (s : State) (src a : Nat) : (s.request src a).boot = s.boot := rfl
@[simp] theorem State.request_tt (s : State) (src a : Nat) : (s.request src a).tt = s.tt := rfl
@[simp] theorem State.request_ports (s : State) (src a : Nat) : (s.request src a).ports = s.ports := rfl
@[simp] theorem State.request_macros (s : State) (src a : Nat) : (s.request src a).macros = s.macros := rfl
@[simp] theorem State.request_mgmt (s : State) (src a : Nat) : (s.request src a).mgmt = s.mgmt := rfl
@[simp] theorem State.request_time (s : State) (src a : Nat) : (s.request src a).time = s.time := rfl
@[simp] theorem State.request_tables (s : State) (src a : Nat) : (s.request src a).tables = s.tables := rfl
@[simp] theorem State.request_flow (s : State) (src a : Nat) : (s.request src a).flow = s.flow := rfl
@[simp] theorem State.request_arb (s : State) (src a : Nat) : (s.request src a).arb = s.arb := rfl
@[simp] theorem State.request_buf (s : State) (src a : Nat) : (s.request src a).buf = s.buf := rfl
@[simp] theorem State.request_pool (s : State) (src a : Nat) : (s.request src a).pool = s.pool := rfl
@[simp] theorem State.request_cmd (s : State) (src a : Nat) : (s.request src a).cmd = s.cmd := rfl
@[simp] theorem State.request_ucode (s : State) (src a : Nat) : (s.request src a).ucode = s.ucode := rfl
@[simp] theorem State.request_host (s : State) (src a : Nat) : (s.request src a).host = s.host := rfl
@[simp] theorem State.request_insts (s : State) (src a : Nat) : (s.request src a).insts = s.insts := rfl
@[simp] theorem State.request_portOwner (s : State) (src a : Nat) : (s.request src a).portOwner = s.portOwner := rfl
@[simp] theorem State.request_mirror (s : State) (src a : Nat) : (s.request src a).mirror = s.mirror := rfl
@[simp] theorem State.request_flt (s : State) (src a : Nat) : (s.request src a).flt = s.flt := rfl
@[simp] theorem State.request_evts (s : State) (src a : Nat) : (s.request src a).evts = s.evts := rfl
@[simp] theorem State.request_mon (s : State) (src a : Nat) : (s.request src a).mon = s.mon := rfl
@[simp] theorem State.request_selftest (s : State) (src a : Nat) : (s.request src a).selftest = s.selftest := rfl
@[simp] theorem State.request_pmc (s : State) (src a : Nat) : (s.request src a).pmc = s.pmc := rfl
@[simp] theorem State.request_out (s : State) (src a : Nat) : (s.request src a).out = s.out := rfl

/-! ### `State.d0Write` -/

@[simp] theorem State.d0Write_pending (s : State) (k : Nat) : (s.d0Write k).pending = s.pending := rfl
@[simp] theorem State.d0Write_freeCtr (s : State) (k : Nat) : (s.d0Write k).freeCtr = s.freeCtr := rfl
@[simp] theorem State.d0Write_off8 (s : State) (k : Nat) : (s.d0Write k).off8 = s.off8 := rfl
@[simp] theorem State.d0Write_env (s : State) (k : Nat) : (s.d0Write k).env = s.env := rfl
@[simp] theorem State.d0Write_boot (s : State) (k : Nat) : (s.d0Write k).boot = s.boot := rfl
@[simp] theorem State.d0Write_tt (s : State) (k : Nat) : (s.d0Write k).tt = s.tt := rfl
@[simp] theorem State.d0Write_ports (s : State) (k : Nat) : (s.d0Write k).ports = s.ports := rfl
@[simp] theorem State.d0Write_macros (s : State) (k : Nat) : (s.d0Write k).macros = s.macros := rfl
@[simp] theorem State.d0Write_mgmt (s : State) (k : Nat) : (s.d0Write k).mgmt = s.mgmt := rfl
@[simp] theorem State.d0Write_time (s : State) (k : Nat) : (s.d0Write k).time = s.time := rfl
@[simp] theorem State.d0Write_tables (s : State) (k : Nat) : (s.d0Write k).tables = s.tables := rfl
@[simp] theorem State.d0Write_flow (s : State) (k : Nat) : (s.d0Write k).flow = s.flow := rfl
@[simp] theorem State.d0Write_arb (s : State) (k : Nat) : (s.d0Write k).arb = s.arb := rfl
@[simp] theorem State.d0Write_buf (s : State) (k : Nat) : (s.d0Write k).buf = s.buf := rfl
@[simp] theorem State.d0Write_pool (s : State) (k : Nat) : (s.d0Write k).pool = s.pool := rfl
@[simp] theorem State.d0Write_cmd (s : State) (k : Nat) : (s.d0Write k).cmd = s.cmd := rfl
@[simp] theorem State.d0Write_ucode (s : State) (k : Nat) : (s.d0Write k).ucode = s.ucode := rfl
@[simp] theorem State.d0Write_host (s : State) (k : Nat) : (s.d0Write k).host = s.host := rfl
@[simp] theorem State.d0Write_insts (s : State) (k : Nat) : (s.d0Write k).insts = s.insts := rfl
@[simp] theorem State.d0Write_portOwner (s : State) (k : Nat) : (s.d0Write k).portOwner = s.portOwner := rfl
@[simp] theorem State.d0Write_mirror (s : State) (k : Nat) : (s.d0Write k).mirror = s.mirror := rfl
@[simp] theorem State.d0Write_flt (s : State) (k : Nat) : (s.d0Write k).flt = s.flt := rfl
@[simp] theorem State.d0Write_evts (s : State) (k : Nat) : (s.d0Write k).evts = s.evts := rfl
@[simp] theorem State.d0Write_mon (s : State) (k : Nat) : (s.d0Write k).mon = s.mon := rfl
@[simp] theorem State.d0Write_selftest (s : State) (k : Nat) : (s.d0Write k).selftest = s.selftest := rfl
@[simp] theorem State.d0Write_pmc (s : State) (k : Nat) : (s.d0Write k).pmc = s.pmc := rfl
@[simp] theorem State.d0Write_out (s : State) (k : Nat) : (s.d0Write k).out = s.out := rfl

/-! ### `State.setMaster` -/

@[simp] theorem State.setMaster_pending (s : State) (code gen idx v : Nat) : (s.setMaster code gen idx v).pending = s.pending := rfl
@[simp] theorem State.setMaster_freeCtr (s : State) (code gen idx v : Nat) : (s.setMaster code gen idx v).freeCtr = s.freeCtr := rfl
@[simp] theorem State.setMaster_off8 (s : State) (code gen idx v : Nat) : (s.setMaster code gen idx v).off8 = s.off8 := rfl
@[simp] theorem State.setMaster_env (s : State) (code gen idx v : Nat) : (s.setMaster code gen idx v).env = s.env := rfl
@[simp] theorem State.setMaster_boot (s : State) (code gen idx v : Nat) : (s.setMaster code gen idx v).boot = s.boot := rfl
@[simp] theorem State.setMaster_tt (s : State) (code gen idx v : Nat) : (s.setMaster code gen idx v).tt = s.tt := rfl
@[simp] theorem State.setMaster_ports (s : State) (code gen idx v : Nat) : (s.setMaster code gen idx v).ports = s.ports := rfl
@[simp] theorem State.setMaster_macros (s : State) (code gen idx v : Nat) : (s.setMaster code gen idx v).macros = s.macros := rfl
@[simp] theorem State.setMaster_mgmt (s : State) (code gen idx v : Nat) : (s.setMaster code gen idx v).mgmt = s.mgmt := rfl
@[simp] theorem State.setMaster_time (s : State) (code gen idx v : Nat) : (s.setMaster code gen idx v).time = s.time := rfl
@[simp] theorem State.setMaster_tables (s : State) (code gen idx v : Nat) : (s.setMaster code gen idx v).tables = { s.tables with master := setEnt s.tables.master (tkey code gen idx) v } := rfl
@[simp] theorem State.setMaster_flow (s : State) (code gen idx v : Nat) : (s.setMaster code gen idx v).flow = s.flow := rfl
@[simp] theorem State.setMaster_arb (s : State) (code gen idx v : Nat) : (s.setMaster code gen idx v).arb = s.arb := rfl
@[simp] theorem State.setMaster_buf (s : State) (code gen idx v : Nat) : (s.setMaster code gen idx v).buf = s.buf := rfl
@[simp] theorem State.setMaster_pool (s : State) (code gen idx v : Nat) : (s.setMaster code gen idx v).pool = s.pool := rfl
@[simp] theorem State.setMaster_cab (s : State) (code gen idx v : Nat) : (s.setMaster code gen idx v).cab = (s.d0Write (tkey code gen idx)).cab := rfl
@[simp] theorem State.setMaster_cmd (s : State) (code gen idx v : Nat) : (s.setMaster code gen idx v).cmd = s.cmd := rfl
@[simp] theorem State.setMaster_ucode (s : State) (code gen idx v : Nat) : (s.setMaster code gen idx v).ucode = s.ucode := rfl
@[simp] theorem State.setMaster_host (s : State) (code gen idx v : Nat) : (s.setMaster code gen idx v).host = s.host := rfl
@[simp] theorem State.setMaster_insts (s : State) (code gen idx v : Nat) : (s.setMaster code gen idx v).insts = s.insts := rfl
@[simp] theorem State.setMaster_portOwner (s : State) (code gen idx v : Nat) : (s.setMaster code gen idx v).portOwner = s.portOwner := rfl
@[simp] theorem State.setMaster_mirror (s : State) (code gen idx v : Nat) : (s.setMaster code gen idx v).mirror = s.mirror := rfl
@[simp] theorem State.setMaster_flt (s : State) (code gen idx v : Nat) : (s.setMaster code gen idx v).flt = s.flt := rfl
@[simp] theorem State.setMaster_evts (s : State) (code gen idx v : Nat) : (s.setMaster code gen idx v).evts = s.evts := rfl
@[simp] theorem State.setMaster_mon (s : State) (code gen idx v : Nat) : (s.setMaster code gen idx v).mon = s.mon := rfl
@[simp] theorem State.setMaster_selftest (s : State) (code gen idx v : Nat) : (s.setMaster code gen idx v).selftest = s.selftest := rfl
@[simp] theorem State.setMaster_pmc (s : State) (code gen idx v : Nat) : (s.setMaster code gen idx v).pmc = s.pmc := rfl
@[simp] theorem State.setMaster_out (s : State) (code gen idx v : Nat) : (s.setMaster code gen idx v).out = s.out := rfl

/-! ### `State.setWork` -/

@[simp] theorem State.setWork_pending (s : State) (code idx v : Nat) : (s.setWork code idx v).pending = s.pending := rfl
@[simp] theorem State.setWork_freeCtr (s : State) (code idx v : Nat) : (s.setWork code idx v).freeCtr = s.freeCtr := rfl
@[simp] theorem State.setWork_off8 (s : State) (code idx v : Nat) : (s.setWork code idx v).off8 = s.off8 := rfl
@[simp] theorem State.setWork_env (s : State) (code idx v : Nat) : (s.setWork code idx v).env = s.env := rfl
@[simp] theorem State.setWork_boot (s : State) (code idx v : Nat) : (s.setWork code idx v).boot = s.boot := rfl
@[simp] theorem State.setWork_tt (s : State) (code idx v : Nat) : (s.setWork code idx v).tt = s.tt := rfl
@[simp] theorem State.setWork_ports (s : State) (code idx v : Nat) : (s.setWork code idx v).ports = s.ports := rfl
@[simp] theorem State.setWork_macros (s : State) (code idx v : Nat) : (s.setWork code idx v).macros = s.macros := rfl
@[simp] theorem State.setWork_mgmt (s : State) (code idx v : Nat) : (s.setWork code idx v).mgmt = s.mgmt := rfl
@[simp] theorem State.setWork_time (s : State) (code idx v : Nat) : (s.setWork code idx v).time = s.time := rfl
@[simp] theorem State.setWork_tables (s : State) (code idx v : Nat) : (s.setWork code idx v).tables = { s.tables with work := setEnt s.tables.work (tkey code 0 idx) v } := rfl
@[simp] theorem State.setWork_flow (s : State) (code idx v : Nat) : (s.setWork code idx v).flow = s.flow := rfl
@[simp] theorem State.setWork_arb (s : State) (code idx v : Nat) : (s.setWork code idx v).arb = s.arb := rfl
@[simp] theorem State.setWork_buf (s : State) (code idx v : Nat) : (s.setWork code idx v).buf = s.buf := rfl
@[simp] theorem State.setWork_pool (s : State) (code idx v : Nat) : (s.setWork code idx v).pool = s.pool := rfl
@[simp] theorem State.setWork_cab (s : State) (code idx v : Nat) : (s.setWork code idx v).cab = s.cab := rfl
@[simp] theorem State.setWork_cmd (s : State) (code idx v : Nat) : (s.setWork code idx v).cmd = s.cmd := rfl
@[simp] theorem State.setWork_ucode (s : State) (code idx v : Nat) : (s.setWork code idx v).ucode = s.ucode := rfl
@[simp] theorem State.setWork_host (s : State) (code idx v : Nat) : (s.setWork code idx v).host = s.host := rfl
@[simp] theorem State.setWork_insts (s : State) (code idx v : Nat) : (s.setWork code idx v).insts = s.insts := rfl
@[simp] theorem State.setWork_portOwner (s : State) (code idx v : Nat) : (s.setWork code idx v).portOwner = s.portOwner := rfl
@[simp] theorem State.setWork_mirror (s : State) (code idx v : Nat) : (s.setWork code idx v).mirror = s.mirror := rfl
@[simp] theorem State.setWork_flt (s : State) (code idx v : Nat) : (s.setWork code idx v).flt = s.flt := rfl
@[simp] theorem State.setWork_evts (s : State) (code idx v : Nat) : (s.setWork code idx v).evts = s.evts := rfl
@[simp] theorem State.setWork_mon (s : State) (code idx v : Nat) : (s.setWork code idx v).mon = s.mon := rfl
@[simp] theorem State.setWork_selftest (s : State) (code idx v : Nat) : (s.setWork code idx v).selftest = s.selftest := rfl
@[simp] theorem State.setWork_pmc (s : State) (code idx v : Nat) : (s.setWork code idx v).pmc = s.pmc := rfl
@[simp] theorem State.setWork_out (s : State) (code idx v : Nat) : (s.setWork code idx v).out = s.out := rfl

end Sys2Proof.Machine
end

