-- ==== Sys2Proof/Laws/Steady.lean ====
section
/-!
SUPPORT. The frame of every operation of the model, said once: `Steady x s` says that a state has the fuses, the waiting commands and
the owner key that `x` names, that its key slots are listed in canonical form and are all empty while the owner slot is, and that its
octet memories are canonical. The files Laws/Steady<Group>.lean hold one lemma for each operation: it keeps this. `All` carries such a
property through the forms operations are written in: lets, branches, folds and results that hold a state.
-/

namespace Sys2Proof.Machine

/-- What an operation leaves as it is. -/
structure Fixed where
  env : EnvState
  pending : List Instr
  owner : Option (List Byte)

/-- A state with the fixed parts that `x` names, and its tables in form. -/
structure Steady (x : Fixed) (s : State) : Prop where
  env : s.env = x.env
  pending : s.pending = x.pending
  owner : (s.key 0).key = x.owner
  keys : x.owner = none → ∀ k, (s.key k).key = none
  keysWf : twf KeySlot.init s.cmd.keys = true
  hostWf : Memory.wf s.host.mem = true
  peerWf : Memory.wf s.host.peer = true
  cabWf : Memory.wf s.cab.mem = true
  scratchWf : Memory.wf s.ucode.scratch = true

/-- A property of a value. -/
def All {α : Type} (R : α → Prop) (a : α) : Prop := R a

/-- The state that a command's work leaves is steady. -/
def SteadyDone (x : Fixed) (d : Done) : Prop := Steady x d.st
/-- The state that a result holds in a field is steady. -/
def SteadyBy {α : Type} (π : α → State) (x : Fixed) (a : α) : Prop := Steady x (π a)
/-- The state that stands first in a result is steady. -/
def SteadyFst {β : Type} (x : Fixed) (p : State × β) : Prop := Steady x p.1
/-- The state that stands second in a result is steady. -/
def SteadySnd {β : Type} (x : Fixed) (p : β × State) : Prop := Steady x p.2
/-- The state that stands last of three is steady. -/
def SteadyThird {β γ : Type} (x : Fixed) (p : β × γ × State) : Prop := Steady x p.2.2
/-- The state that stands second of three is steady. -/
def SteadyMid {β γ : Type} (x : Fixed) (p : β × State × γ) : Prop := Steady x p.2.1
/-- The state of an optional result is steady. -/
def SteadyOpt (x : Fixed) (o : Option State) : Prop := ∀ s, o = some s → Steady x s
/-- The state that stands first in an optional result is steady. -/
def SteadyOptFst {β : Type} (x : Fixed) (o : Option (State × β)) : Prop := ∀ s b, o = some (s, b) → Steady x s
/-- The state of a result that may be an error is steady. -/
def SteadyExc (x : Fixed) (o : Except Nat State) : Prop := ∀ s, o = .ok s → Steady x s

/-- The next state of an answer is steady. -/
def SteadyAns (x : Fixed) (a : Host.Outcome State Fault Refusal) : Prop := ∀ s, a = Host.Outcome.next s → Steady x s

variable {x : Fixed} {α β γ : Type} {R : α → Prop}

namespace All

theorem letS {A : State} {B : State → α} (hA : All (Steady x) A) (hB : ∀ s, All (Steady x) s → All R (B s)) :
    All R (let s := A; B s) := hB _ hA
theorem letP {A : State × β} {B : State × β → α} (hA : All (SteadyFst x) A) (hB : ∀ s, All (SteadyFst x) s → All R (B s)) :
    All R (let s := A; B s) := hB _ hA
theorem letQ {A : β × State} {B : β × State → α} (hA : All (SteadySnd x) A) (hB : ∀ s, All (SteadySnd x) s → All R (B s)) :
    All R (let s := A; B s) := hB _ hA
theorem letM {A : β × State × γ} {B : β × State × γ → α} (hA : All (SteadyMid x) A)
    (hB : ∀ s, All (SteadyMid x) s → All R (B s)) : All R (let s := A; B s) := hB _ hA
theorem letT {A : β × γ × State} {B : β × γ × State → α} (hA : All (SteadyThird x) A)
    (hB : ∀ s, All (SteadyThird x) s → All R (B s)) : All R (let s := A; B s) := hB _ hA
theorem letD {A : Done} {B : Done → α} (hA : All (SteadyDone x) A) (hB : ∀ s, All (SteadyDone x) s → All R (B s)) :
    All R (let s := A; B s) := hB _ hA
theorem letF {A : State → State} {B : (State → State) → α} (hA : ∀ s, All (Steady x) s → All (Steady x) (A s))
    (hB : ∀ f : State → State, (∀ s, All (Steady x) s → All (Steady x) (f s)) → All R (B f)) :
    All R (let s := A; B s) := hB _ hA
theorem letX {A : β} {B : β → α} (hB : ∀ v, v = A → All R (B v)) : All R (let v := A; B v) := hB _ rfl
theorem branch {c : Prop} [Decidable c] {a b : α} (ha : c → All R a) (hb : ¬c → All R b) : All R (if c then a else b) := by
  split
  · exact ha ‹_›
  · exact hb ‹_›
theorem folded {l : List β} {f : α → β → α} {a : α} (ha : All R a) (hf : ∀ a b, All R a → All R (f a b)) :
    All R (l.foldl f a) := by
  induction l generalizing a with
  | nil => exact ha
  | cons b r ih => exact ih (hf a b ha)

theorem pair {s : State} {b : β} (h : All (Steady x) s) : All (SteadyFst x) (s, b) := h
theorem pairSnd {s : State} {b : β} (h : All (Steady x) s) : All (SteadySnd x) (b, s) := h
theorem mid {s : State} {b : β} {c : γ} (h : All (Steady x) s) : All (SteadyMid x) (b, s, c) := h
theorem third {s : State} {b : β} {c : γ} (h : All (Steady x) s) : All (SteadyThird x) (b, c, s) := h
theorem none : All (SteadyOpt x) Option.none := fun _ h => nomatch h
theorem some {s : State} (h : All (Steady x) s) : All (SteadyOpt x) (Option.some s) := fun _ e => Option.some.inj e ▸ h
theorem noneFst : All (SteadyOptFst (β := β) x) Option.none := fun _ _ h => nomatch h
theorem someFst {s : State} {b : β} (h : All (Steady x) s) : All (SteadyOptFst x) (Option.some (s, b)) :=
  fun _ _ e => (Prod.mk.inj (Option.some.inj e)).1 ▸ h
theorem error {n : Nat} : All (SteadyExc x) (Except.error n) := fun _ h => nomatch h
theorem okExc {s : State} (h : All (Steady x) s) : All (SteadyExc x) (Except.ok s) := fun _ e => Except.ok.inj e ▸ h
theorem done {s : State} {st de : Nat} {r : List Byte} {p : Bool} (h : All (Steady x) s) :
    All (SteadyDone x) { st := s, status := st, detail := de, results := r, part := p } := h

theorem next {s : State} (h : All (Steady x) s) : All (SteadyAns x) (Host.Outcome.next s) := fun _ e => Host.Outcome.next.inj e ▸ h
theorem by_ {π : β → State} {a : β} (h : All (Steady x) (π a)) : All (SteadyBy π x) a := h
theorem bySt {a : β} (π : β → State) (h : All (SteadyBy π x) a) : All (Steady x) (π a) := h
theorem fst {p : State × β} (h : All (SteadyFst x) p) : All (Steady x) p.1 := h
theorem snd {p : β × State} (h : All (SteadySnd x) p) : All (Steady x) p.2 := h
theorem midSnd {p : β × State × γ} (h : All (SteadyMid x) p) : All (Steady x) p.2.1 := h
theorem thirdSnd {p : β × γ × State} (h : All (SteadyThird x) p) : All (Steady x) p.2.2 := h
theorem doneSt {d : Done} (h : All (SteadyDone x) d) : All (Steady x) d.st := h

theorem ofFst {p : State × β} {s : State} {b : β} (e : p = (s, b)) (h : All (SteadyFst x) p) : All (Steady x) s := by
  subst e; exact h
theorem ofSnd {p : β × State} {s : State} {b : β} (e : p = (b, s)) (h : All (SteadySnd x) p) : All (Steady x) s := by
  subst e; exact h
theorem ofMid {p : β × State × γ} {s : State} {b : β} {c : γ} (e : p = (b, s, c)) (h : All (SteadyMid x) p) : All (Steady x) s := by
  subst e; exact h
theorem ofThird {p : β × γ × State} {s : State} {b : β} {c : γ} (e : p = (b, c, s)) (h : All (SteadyThird x) p) :
    All (Steady x) s := by
  subst e; exact h
theorem ofSome {o : Option State} {s : State} (e : o = Option.some s) (h : All (SteadyOpt x) o) : All (Steady x) s := h s e
theorem ofSomeFst {o : Option (State × β)} {s : State} {b : β} (e : o = Option.some (s, b)) (h : All (SteadyOptFst x) o) :
    All (Steady x) s := h s b e
theorem ofOk {o : Except Nat State} {s : State} (e : o = Except.ok s) (h : All (SteadyExc x) o) : All (Steady x) s := h s e

/-- A record update of a kept state that leaves the fixed parts and the memories as they are. -/
theorem upd {s : State} {freeCtr off8 boot tt ports macros mgmt time tables flow arb buf pool cab cmd ucode host insts portOwner
    mirror flt evts mon selftest pmc out} (h : All (Steady x) s) (hc : cab.mem = s.cab.mem) (hk : cmd.keys = s.cmd.keys)
    (hu : ucode.scratch = s.ucode.scratch) (hm : host.mem = s.host.mem) (hp : host.peer = s.host.peer) :
    All (Steady x) (State.mk s.pending freeCtr off8 s.env boot tt ports macros mgmt time tables flow arb buf pool cab cmd ucode host
      insts portOwner mirror flt evts mon selftest pmc out) := by
  have e : ∀ k, tget KeySlot.init cmd.keys k = tget KeySlot.init s.cmd.keys k := fun k => by rw [hk]
  exact ⟨h.env, h.pending, (congrArg KeySlot.key (e 0)).trans h.owner,
    fun o k => (congrArg KeySlot.key (e k)).trans (h.keys o k), hk ▸ h.keysWf, hm ▸ h.hostWf, hp ▸ h.peerWf, hc ▸ h.cabWf,
    hu ▸ h.scratchWf⟩

/-- A record update that leaves the fixed parts as they are and the memories in form. -/
theorem updWf {s : State} {freeCtr off8 boot tt ports macros mgmt time tables flow arb buf pool cab cmd ucode host insts portOwner
    mirror flt evts mon selftest pmc out} (h : All (Steady x) s) (hk : cmd.keys = s.cmd.keys) (hc : Memory.wf cab.mem = true)
    (hu : Memory.wf ucode.scratch = true) (hm : Memory.wf host.mem = true) (hp : Memory.wf host.peer = true) :
    All (Steady x) (State.mk s.pending freeCtr off8 s.env boot tt ports macros mgmt time tables flow arb buf pool cab cmd ucode host
      insts portOwner mirror flt evts mon selftest pmc out) := by
  have e : ∀ k, tget KeySlot.init cmd.keys k = tget KeySlot.init s.cmd.keys k := fun k => by rw [hk]
  exact ⟨h.env, h.pending, (congrArg KeySlot.key (e 0)).trans h.owner,
    fun o k => (congrArg KeySlot.key (e k)).trans (h.keys o k), hk ▸ h.keysWf, hm, hp, hc, hu⟩

end All

/-- Writes to a memory in form, one after another, leave it in form. -/
theorem Memory.wf_writes {β : Type} (l : List β) (a : β → Nat) (b : β → List Byte) {m : List (Nat × BitVec 8)}
    (h : Memory.wf m = true) : Memory.wf (l.foldl (fun m y => memWrite m (a y) (b y)) m) = true := by
  induction l generalizing m with
  | nil => exact h
  | cons y r ih => exact ih (Memory.wf_write _ _ h)

/-- A key slot changed, its key left alone where it is the owner's or where no owner key is programmed. -/
theorem State.modKey_steady {s : State} (k : Nat) (f : KeySlot → KeySlot) (h : All (Steady x) s)
    (h0 : k = 0 → (f (s.key 0)).key = x.owner) (hn : x.owner = none → (f (s.key k)).key = none) :
    All (Steady x) (s.modKey k f) := by
  refine ⟨h.env, h.pending, ?_, ?_, twf_tmod _ _ _ h.keysWf, h.hostWf, h.peerWf, h.cabWf, h.scratchWf⟩
  · by_cases e : k = 0
    · subst e; rw [State.key_modKey_same s 0 f h.keysWf]; exact h0 rfl
    · rw [State.key_modKey_other s f (fun he => e he.symm)]; exact h.owner
  · intro o j
    by_cases e : j = k
    · subst e; rw [State.key_modKey_same s j f h.keysWf]; exact hn o
    · rw [State.key_modKey_other s f e]; exact h.keys o j

/-- A key slot's counter changed. -/
theorem State.modKey_counter_steady {s : State} (k : Nat) (c : BitVec 64) (h : All (Steady x) s) :
    All (Steady x) (s.modKey k fun y => { y with counter := c }) :=
  State.modKey_steady k _ h (fun _ => h.owner) fun o => h.keys o k

theorem Steady.all {s : State} (h : Steady x s) : All (Steady x) s := h

end Sys2Proof.Machine
end

