-- ==== Sys2Proof/Laws/SteadyCore.lean ====
section
/-!
SUPPORT. Every operation of the shared operations, gates, the cell pool, the Cabinet's queues, copies, wires, links, replies and command streams keeps `Steady`: one lemma each.
-/

namespace Sys2Proof.Machine

/-! ### Ops -/

theorem State.modPort_steady {fx : Fixed} (s : State) (lp : Nat) (f : Port → Port) (hs1 : All (Steady fx) s) :
    All (Steady fx) (State.modPort s lp f) := by
  unfold State.modPort
  repeat' first
    | with_reducible assumption
    | intro _ _
    | fail_if_no_progress (with_reducible refine All.upd ?_ (by rfl) (by rfl) (by rfl) (by rfl) (by rfl))

theorem State.modMacro_steady {fx : Fixed} (s : State) (m : Nat) (f : Macro → Macro) (hs1 : All (Steady fx) s) :
    All (Steady fx) (State.modMacro s m f) := by
  unfold State.modMacro
  repeat' first
    | with_reducible assumption
    | intro _ _
    | fail_if_no_progress (with_reducible refine All.upd ?_ (by rfl) (by rfl) (by rfl) (by rfl) (by rfl))

theorem State.modQueue_steady {fx : Fixed} (s : State) (q : Nat) (f : QueueState → QueueState) (hs1 : All (Steady fx) s) :
    All (Steady fx) (State.modQueue s q f) := by
  unfold State.modQueue
  repeat' first
    | with_reducible assumption
    | intro _ _
    | fail_if_no_progress (with_reducible refine All.upd ?_ (by rfl) (by rfl) (by rfl) (by rfl) (by rfl))

theorem State.modGroup_steady {fx : Fixed} (s : State) (g : Nat) (f : GroupState → GroupState) (hs1 : All (Steady fx) s) :
    All (Steady fx) (State.modGroup s g f) := by
  unfold State.modGroup
  repeat' first
    | with_reducible assumption
    | intro _ _
    | fail_if_no_progress (with_reducible refine All.upd ?_ (by rfl) (by rfl) (by rfl) (by rfl) (by rfl))

theorem State.modEgr_steady {fx : Fixed} (s : State) (lp : Nat) (f : EgressPort → EgressPort) (hs1 : All (Steady fx) s) :
    All (Steady fx) (State.modEgr s lp f) := by
  unfold State.modEgr
  repeat' first
    | with_reducible assumption
    | intro _ _
    | fail_if_no_progress (with_reducible refine All.upd ?_ (by rfl) (by rfl) (by rfl) (by rfl) (by rfl))

theorem State.modReq_steady {fx : Fixed} (s : State) (r : Nat) (f : Requester → Requester) (hs1 : All (Steady fx) s) :
    All (Steady fx) (State.modReq s r f) := by
  unfold State.modReq
  repeat' first
    | with_reducible assumption
    | intro _ _
    | fail_if_no_progress (with_reducible refine All.upd ?_ (by rfl) (by rfl) (by rfl) (by rfl) (by rfl))

theorem State.modBank_steady {fx : Fixed} (s : State) (b : Nat) (f : Bank → Bank) (hs1 : All (Steady fx) s) :
    All (Steady fx) (State.modBank s b f) := by
  unfold State.modBank
  repeat' first
    | with_reducible assumption
    | intro _ _
    | fail_if_no_progress (with_reducible refine All.upd ?_ (by rfl) (by rfl) (by rfl) (by rfl) (by rfl))

theorem State.modFeed_steady {fx : Fixed} (s : State) (n : Nat) (f : FeedState → FeedState) (hs1 : All (Steady fx) s) :
    All (Steady fx) (State.modFeed s n f) := by
  unfold State.modFeed
  repeat' first
    | with_reducible assumption
    | intro _ _
    | fail_if_no_progress (with_reducible refine All.upd ?_ (by rfl) (by rfl) (by rfl) (by rfl) (by rfl))

theorem State.modDrawer_steady {fx : Fixed} (s : State) (d : Nat) (f : Drawer → Drawer) (hs1 : All (Steady fx) s) :
    All (Steady fx) (State.modDrawer s d f) := by
  unfold State.modDrawer
  repeat' first
    | with_reducible assumption
    | intro _ _
    | fail_if_no_progress (with_reducible refine All.upd ?_ (by rfl) (by rfl) (by rfl) (by rfl) (by rfl))

theorem State.modEvClass_steady {fx : Fixed} (s : State) (c : Nat) (f : EvClass → EvClass) (hs1 : All (Steady fx) s) :
    All (Steady fx) (State.modEvClass s c f) := by
  unfold State.modEvClass
  repeat' first
    | with_reducible assumption
    | intro _ _
    | fail_if_no_progress (with_reducible refine All.upd ?_ (by rfl) (by rfl) (by rfl) (by rfl) (by rfl))

theorem State.modChan_steady {fx : Fixed} (s : State) (k : Nat) (f : Chan → Chan) (hs1 : All (Steady fx) s) :
    All (Steady fx) (State.modChan s k f) := by
  unfold State.modChan
  repeat' first
    | with_reducible assumption
    | intro _ _
    | fail_if_no_progress (with_reducible refine All.upd ?_ (by rfl) (by rfl) (by rfl) (by rfl) (by rfl))

theorem State.modCmdRing_steady {fx : Fixed} (s : State) (n : Nat) (f : CmdRing → CmdRing) (hs1 : All (Steady fx) s) :
    All (Steady fx) (State.modCmdRing s n f) := by
  unfold State.modCmdRing
  repeat' first
    | with_reducible assumption
    | intro _ _
    | fail_if_no_progress (with_reducible refine All.upd ?_ (by rfl) (by rfl) (by rfl) (by rfl) (by rfl))

theorem State.modCtx_steady {fx : Fixed} (s : State) (p : CmdPort) (f : Ctx → Ctx) (hs1 : All (Steady fx) s) :
    All (Steady fx) (State.modCtx s p f) := by
  unfold State.modCtx
  repeat' first
    | with_reducible assumption
    | intro _ _
    | fail_if_no_progress (with_reducible refine All.upd ?_ (by rfl) (by rfl) (by rfl) (by rfl) (by rfl))

theorem State.modDma_steady {fx : Fixed} (s : State) (r : Nat) (f : DmaRing → DmaRing) (hs1 : All (Steady fx) s) :
    All (Steady fx) (State.modDma s r f) := by
  unfold State.modDma
  repeat' first
    | with_reducible assumption
    | intro _ _
    | fail_if_no_progress (with_reducible refine All.upd ?_ (by rfl) (by rfl) (by rfl) (by rfl) (by rfl))

theorem State.modFn_steady {fx : Fixed} (s : State) (n : Nat) (f : FnCfg → FnCfg) (hs1 : All (Steady fx) s) :
    All (Steady fx) (State.modFn s n f) := by
  unfold State.modFn
  repeat' first
    | with_reducible assumption
    | intro _ _
    | fail_if_no_progress (with_reducible refine All.upd ?_ (by rfl) (by rfl) (by rfl) (by rfl) (by rfl))

theorem State.modInst_steady {fx : Fixed} (s : State) (n : Nat) (f : Inst → Inst) (hs1 : All (Steady fx) s) :
    All (Steady fx) (State.modInst s n f) := by
  unfold State.modInst
  repeat' first
    | with_reducible assumption
    | intro _ _
    | fail_if_no_progress (with_reducible refine All.upd ?_ (by rfl) (by rfl) (by rfl) (by rfl) (by rfl))

theorem State.modEvt_steady {fx : Fixed} (s : State) (k : Nat) (f : EvtSrc → EvtSrc) (hs1 : All (Steady fx) s) :
    All (Steady fx) (State.modEvt s k f) := by
  unfold State.modEvt
  repeat' first
    | with_reducible assumption
    | intro _ _
    | fail_if_no_progress (with_reducible refine All.upd ?_ (by rfl) (by rfl) (by rfl) (by rfl) (by rfl))

theorem State.modSensor_steady {fx : Fixed} (s : State) (k : Nat) (f : Sensor → Sensor) (hs1 : All (Steady fx) s) :
    All (Steady fx) (State.modSensor s k f) := by
  unfold State.modSensor
  repeat' first
    | with_reducible assumption
    | intro _ _
    | fail_if_no_progress (with_reducible refine All.upd ?_ (by rfl) (by rfl) (by rfl) (by rfl) (by rfl))

theorem State.modVolt_steady {fx : Fixed} (s : State) (k : Nat) (f : Volt → Volt) (hs1 : All (Steady fx) s) :
    All (Steady fx) (State.modVolt s k f) := by
  unfold State.modVolt
  repeat' first
    | with_reducible assumption
    | intro _ _
    | fail_if_no_progress (with_reducible refine All.upd ?_ (by rfl) (by rfl) (by rfl) (by rfl) (by rfl))

theorem State.modSample_steady {fx : Fixed} (s : State) (p : Nat) (f : Sample → Sample) (hs1 : All (Steady fx) s) :
    All (Steady fx) (State.modSample s p f) := by
  unfold State.modSample
  repeat' first
    | with_reducible assumption
    | intro _ _
    | fail_if_no_progress (with_reducible refine All.upd ?_ (by rfl) (by rfl) (by rfl) (by rfl) (by rfl))

theorem State.modQuad_steady {fx : Fixed} (s : State) (q : Nat) (f : Quad → Quad) (hs1 : All (Steady fx) s) :
    All (Steady fx) (State.modQuad s q f) := by
  unfold State.modQuad
  repeat' first
    | with_reducible assumption
    | intro _ _
    | fail_if_no_progress (with_reducible refine All.upd ?_ (by rfl) (by rfl) (by rfl) (by rfl) (by rfl))

theorem State.emit_steady {fx : Fixed} (s : State) (o : Out) (hs1 : All (Steady fx) s) :
    All (Steady fx) (State.emit s o) := by
  unfold State.emit
  repeat' first
    | with_reducible assumption
    | fail_if_no_progress (with_reducible refine All.upd ?_ (by rfl) (by rfl) (by rfl) (by rfl) (by rfl))

theorem State.takeFree_steady {fx : Fixed} (s : State) (hs1 : All (Steady fx) s) :
    All (SteadySnd fx) (State.takeFree s) := by
  unfold State.takeFree
  repeat' first
    | with_reducible assumption
    | with_reducible refine All.pairSnd ?_
    | fail_if_no_progress (with_reducible refine All.upd ?_ (by rfl) (by rfl) (by rfl) (by rfl) (by rfl))

theorem State.at__steady {fx : Fixed} (s : State) (at8 : Nat) (hs1 : All (Steady fx) s) :
    All (Steady fx) (State.at_ s at8) := by
  unfold State.at_
  repeat' first
    | with_reducible assumption
    | fail_if_no_progress (with_reducible refine All.upd ?_ (by rfl) (by rfl) (by rfl) (by rfl) (by rfl))

theorem State.request_steady {fx : Fixed} (s : State) (src a : Nat) (hs1 : All (Steady fx) s) :
    All (Steady fx) (State.request s src a) := by
  unfold State.request
  repeat' first
    | with_reducible assumption
    | with_reducible refine All.branch (fun _ => ?_) (fun _ => ?_)
    | intro _ _
    | fail_if_no_progress (with_reducible refine All.upd ?_ (by rfl) (by rfl) (by rfl) (by rfl) (by rfl))

theorem State.requests_steady {fx : Fixed} (s : State) (src a len : Nat) (hs1 : All (Steady fx) s) :
    All (Steady fx) (State.requests s src a len) := by
  unfold State.requests
  repeat' first
    | with_reducible assumption
    | with_reducible apply State.request_steady
    | with_reducible refine All.branch (fun _ => ?_) (fun _ => ?_)
    | with_reducible refine All.folded ?_ (fun _ _ _ => ?_)

theorem State.serveChans_steady {fx : Fixed} (s : State) (hs1 : All (Steady fx) s) :
    All (Steady fx) (State.serveChans s) := by
  unfold State.serveChans
  repeat' first
    | with_reducible assumption
    | with_reducible apply State.modChan_steady
    | with_reducible refine All.branch (fun _ => ?_) (fun _ => ?_)
    | with_reducible refine All.folded ?_ (fun _ _ _ => ?_)

theorem State.completeRequests_steady {fx : Fixed} (s : State) (hs1 : All (Steady fx) s) :
    All (Steady fx) (State.completeRequests s) := by
  unfold State.completeRequests
  repeat' first
    | with_reducible assumption
    | with_reducible apply State.modChan_steady
    | with_reducible refine All.branch (fun _ => ?_) (fun _ => ?_)
    | with_reducible refine All.folded ?_ (fun _ _ _ => ?_)

theorem State.reach_steady {fx : Fixed} (s : State) (deadline : Nat) (hs1 : All (Steady fx) s) :
    All (Steady fx) (State.reach s deadline) := by
  unfold State.reach
  repeat' first
    | with_reducible assumption
    | fail_if_no_progress (with_reducible refine All.upd ?_ (by rfl) (by rfl) (by rfl) (by rfl) (by rfl))

theorem State.handTo_steady {fx : Fixed} (s : State) (k : Nat) (hs1 : All (Steady fx) s) :
    All (Steady fx) (State.handTo s k) := by
  unfold State.handTo
  repeat' first
    | with_reducible assumption
    | with_reducible refine All.branch (fun _ => ?_) (fun _ => ?_)
    | fail_if_no_progress (with_reducible refine All.upd ?_ (by rfl) (by rfl) (by rfl) (by rfl) (by rfl))

theorem State.stat_steady {fx : Fixed} (s : State) (lp off : Nat) (n : Nat) (hs1 : All (Steady fx) s) :
    All (Steady fx) (State.stat s lp off n) := by
  unfold State.stat
  repeat' first
    | with_reducible assumption
    | with_reducible apply State.modPort_steady

theorem State.mgmtStat_steady {fx : Fixed} (s : State) (off : Nat) (n : Nat) (hs1 : All (Steady fx) s) :
    All (Steady fx) (State.mgmtStat s off n) := by
  unfold State.mgmtStat
  repeat' first
    | with_reducible assumption
    | fail_if_no_progress (with_reducible refine All.upd ?_ (by rfl) (by rfl) (by rfl) (by rfl) (by rfl))

theorem State.msix_steady {fx : Fixed} (s : State) (fn vec : Nat) (hs1 : All (Steady fx) s) :
    All (Steady fx) (State.msix s fn vec) := by
  unfold State.msix
  repeat' first
    | with_reducible assumption
    | with_reducible apply State.modFn_steady
    | with_reducible apply State.emit_steady
    | with_reducible refine All.branch (fun _ => ?_) (fun _ => ?_)

theorem State.raise_steady {fx : Fixed} (s : State) (src : Nat) (hs1 : All (Steady fx) s) :
    All (Steady fx) (State.raise s src) := by
  unfold State.raise
  repeat' first
    | with_reducible assumption
    | with_reducible apply State.modEvt_steady
    | with_reducible apply State.msix_steady
    | with_reducible refine All.branch (fun _ => ?_) (fun _ => ?_)

theorem State.addCtr_steady {fx : Fixed} (s : State) (k n : Nat) (hs1 : All (Steady fx) s) :
    All (Steady fx) (State.addCtr s k n) := by
  unfold State.addCtr
  repeat' first
    | with_reducible assumption
    | with_reducible apply State.modSample_steady
    | with_reducible apply State.raise_steady
    | with_reducible refine All.branch (fun _ => ?_) (fun _ => ?_)
    | intro _ _
    | fail_if_no_progress (with_reducible refine All.upd ?_ (by rfl) (by rfl) (by rfl) (by rfl) (by rfl))

theorem State.tick_steady {fx : Fixed} (s : State) (code : Nat) (unit : Nat) (n : Nat) (hs1 : All (Steady fx) s) :
    All (Steady fx) (State.tick s code unit n) := by
  unfold State.tick
  repeat' first
    | with_reducible assumption
    | with_reducible apply State.addCtr_steady
    | with_reducible refine All.branch (fun _ => ?_) (fun _ => ?_)
    | with_reducible refine All.folded ?_ (fun _ _ _ => ?_)

theorem State.setReplica_steady {fx : Fixed} (s : State) (q code gen idx cycle v : Nat) (hs1 : All (Steady fx) s) :
    All (Steady fx) (State.setReplica s q code gen idx cycle v) := by
  unfold State.setReplica
  repeat' first
    | with_reducible assumption
    | with_reducible apply State.modQuad_steady

theorem State.slotWrite_steady {fx : Fixed} (s : State) (q use event k v : Nat) (hs1 : All (Steady fx) s) :
    All (Steady fx) (State.slotWrite s q use event k v) := by
  unfold State.slotWrite
  repeat' first
    | with_reducible assumption
    | with_reducible apply State.modQuad_steady
    | with_reducible apply State.tick_steady
    | with_reducible refine All.branch (fun _ => ?_) (fun _ => ?_)
    | with_reducible exact All.none
    | with_reducible exact All.noneFst
    | with_reducible refine All.some ?_
    | with_reducible refine All.someFst ?_
    | (with_reducible refine All.ofFst (by assumption) ?_)
    | (with_reducible refine All.ofSnd (by assumption) ?_)
    | (with_reducible refine All.ofMid (by assumption) ?_)
    | (with_reducible refine All.ofThird (by assumption) ?_)
    | (with_reducible refine All.ofSome (by assumption) ?_)
    | (with_reducible refine All.ofSomeFst (by assumption) ?_)
    | (with_reducible refine All.ofOk (by assumption) ?_)
    | split

theorem State.maintenance_steady {fx : Fixed} (s : State) (q t use cycle : Nat) (hs1 : All (Steady fx) s) :
    All (SteadyOpt fx) (State.maintenance s q t use cycle) := by
  unfold State.maintenance
  repeat' first
    | with_reducible assumption
    | with_reducible apply State.modQuad_steady
    | with_reducible apply State.at__steady
    | with_reducible refine All.branch (fun _ => ?_) (fun _ => ?_)
    | with_reducible exact All.none
    | with_reducible exact All.noneFst
    | with_reducible refine All.some ?_

theorem State.spendSlots_steady {fx : Fixed} (s : State) (q t use event : Nat) (b0 : Nat) (hs1 : All (Steady fx) s) :
    All (Steady fx) (State.spendSlots s q t use event b0) := by
  induction b0 generalizing s with
  | zero => exact hs1
  | succ n ih => exact ih _ (State.tick_steady _ _ _ _ (State.modQuad_steady _ _ _ hs1))

theorem State.commandWrites_steady {fx : Fixed} (s : State) (q : Nat) (rows : List (Nat × Nat)) (hs1 : All (Steady fx) s) :
    All (Steady fx) (State.commandWrites s q rows) := by
  unfold State.commandWrites
  repeat' first
    | with_reducible assumption
    | with_reducible apply State.slotWrite_steady
    | with_reducible refine All.branch (fun _ => ?_) (fun _ => ?_)
    | with_reducible refine All.folded ?_ (fun _ _ _ => ?_)

theorem State.d0Write_steady {fx : Fixed} (s : State) (k : Nat) (hs1 : All (Steady fx) s) :
    All (Steady fx) (State.d0Write s k) := by
  unfold State.d0Write
  repeat' first
    | with_reducible assumption
    | with_reducible apply State.request_steady

theorem State.writeCopies_steady {fx : Fixed} (s : State) (rows : Tbl Nat → List (Nat × Nat)) (hs1 : All (Steady fx) s) :
    All (Steady fx) (State.writeCopies s rows) := by
  unfold State.writeCopies
  repeat' first
    | with_reducible assumption
    | with_reducible apply State.commandWrites_steady
    | with_reducible apply State.d0Write_steady
    | with_reducible refine All.branch (fun _ => ?_) (fun _ => ?_)
    | with_reducible refine All.folded ?_ (fun _ _ _ => ?_)
    | intro _ _
    | fail_if_no_progress (with_reducible refine All.upd ?_ (by rfl) (by rfl) (by rfl) (by rfl) (by rfl))

theorem State.setMaster_steady {fx : Fixed} (s : State) (code gen idx v : Nat) (hs1 : All (Steady fx) s) :
    All (Steady fx) (State.setMaster s code gen idx v) := by
  unfold State.setMaster
  repeat' first
    | with_reducible assumption
    | with_reducible apply State.d0Write_steady
    | with_reducible refine All.branch (fun _ => ?_) (fun _ => ?_)
    | fail_if_no_progress (with_reducible refine All.upd ?_ (by rfl) (by rfl) (by rfl) (by rfl) (by rfl))

theorem State.setWork_steady {fx : Fixed} (s : State) (code idx v : Nat) (hs1 : All (Steady fx) s) :
    All (Steady fx) (State.setWork s code idx v) := by
  unfold State.setWork
  repeat' first
    | with_reducible assumption
    | fail_if_no_progress (with_reducible refine All.upd ?_ (by rfl) (by rfl) (by rfl) (by rfl) (by rfl))

theorem State.logPage_steady {fx : Fixed} (s : State) (inst page : Nat) (hs1 : All (Steady fx) s) :
    All (Steady fx) (State.logPage s inst page) := by
  unfold State.logPage
  dsimp only
  split
  · assumption
  · split
    · exact State.modInst_steady _ _ _ hs1
    · split
      · refine State.modInst_steady _ _ _ ?_
        have h := State.modInst_steady s inst (fun i => { i with dirtyFilter := (page :: i.dirtyFilter).take 64 }) hs1
        exact All.updWf h rfl h.cabWf h.scratchWf (Memory.wf_write _ _ h.hostWf) h.peerWf
      · exact State.modInst_steady _ _ _ (State.modInst_steady _ _ _ hs1)

theorem State.hostWrite_steady {fx : Fixed} (s : State) (inst a : Nat) (bs : List Byte) (hs1 : All (Steady fx) s) :
    All (Steady fx) (State.hostWrite s inst a bs) := by
  unfold State.hostWrite
  refine All.branch (fun _ => hs1) fun _ => All.folded ?_ fun _ _ h => State.logPage_steady _ _ _ h
  exact All.updWf hs1 rfl hs1.cabWf hs1.scratchWf (Memory.wf_write _ _ hs1.hostWf) hs1.peerWf

/-! ### Gates -/

theorem State.armGates_steady {fx : Fixed} (s : State) (lp : Nat) (g : Image) (hs1 : All (Steady fx) s) :
    All (Steady fx) (State.armGates s lp g) := by
  unfold State.armGates
  repeat' first
    | with_reducible assumption
    | with_reducible apply State.modEgr_steady
    | with_reducible refine All.branch (fun _ => ?_) (fun _ => ?_)

theorem State.settleGates_steady {fx : Fixed} (s : State) (hs1 : All (Steady fx) s) :
    All (Steady fx) (State.settleGates s) := by
  unfold State.settleGates
  repeat' first
    | with_reducible assumption
    | with_reducible refine All.branch (fun _ => ?_) (fun _ => ?_)
    | with_reducible refine All.pair ?_
    | with_reducible refine All.pairSnd ?_
    | with_reducible refine All.mid ?_
    | with_reducible refine All.third ?_
    | intro _ _
    | fail_if_no_progress (with_reducible refine All.upd ?_ (by rfl) (by rfl) (by rfl) (by rfl) (by rfl))

theorem State.gateSwitch_steady {fx : Fixed} (s : State) (lp : Nat) (hs1 : All (Steady fx) s) :
    All (Steady fx) (State.gateSwitch s lp) := by
  unfold State.gateSwitch
  repeat' first
    | with_reducible assumption
    | with_reducible apply State.modEgr_steady
    | with_reducible refine All.branch (fun _ => ?_) (fun _ => ?_)
    | (dsimp only; split)

theorem State.stepGates_steady {fx : Fixed} (s : State) (before after : DevTime) (hs1 : All (Steady fx) s) :
    All (Steady fx) (State.stepGates s before after) := by
  unfold State.stepGates
  repeat' first
    | with_reducible assumption
    | with_reducible apply State.modEgr_steady
    | with_reducible refine All.branch (fun _ => ?_) (fun _ => ?_)
    | with_reducible refine All.folded ?_ (fun _ _ _ => ?_)

/-! ### Pool -/

theorem State.putCell_steady {fx : Fixed} (s : State) (c : Nat) (data : List Byte) (next : Nat) (last : Bool) (hs1 : All (Steady fx) s) :
    All (Steady fx) (State.putCell s c data next last) := by
  unfold State.putCell
  repeat' first
    | with_reducible assumption
    | fail_if_no_progress (with_reducible refine All.upd ?_ (by rfl) (by rfl) (by rfl) (by rfl) (by rfl))

theorem State.spillBank_steady {fx : Fixed} (s : State) (bank : Nat) (hs1 : All (Steady fx) s) :
    All (Steady fx) (State.spillBank s bank) := by
  unfold State.spillBank
  repeat' first
    | with_reducible assumption
    | with_reducible apply State.modBank_steady
    | with_reducible apply State.putCell_steady
    | with_reducible refine All.branch (fun _ => ?_) (fun _ => ?_)
    | (with_reducible refine All.ofFst (by assumption) ?_)
    | (with_reducible refine All.ofSnd (by assumption) ?_)
    | (with_reducible refine All.ofMid (by assumption) ?_)
    | (with_reducible refine All.ofThird (by assumption) ?_)
    | (with_reducible refine All.ofSome (by assumption) ?_)
    | (with_reducible refine All.ofSomeFst (by assumption) ?_)
    | (with_reducible refine All.ofOk (by assumption) ?_)
    | split
    | (dsimp only; split)

theorem State.fillBank_steady {fx : Fixed} (s : State) (bank : Nat) (hs1 : All (Steady fx) s) :
    All (Steady fx) (State.fillBank s bank) := by
  unfold State.fillBank
  repeat' first
    | with_reducible assumption
    | with_reducible apply State.modBank_steady

theorem State.poolWindow_steady {fx : Fixed} (s : State) (bank : Nat) (hs1 : All (Steady fx) s) :
    All (Steady fx) (State.poolWindow s bank) := by
  unfold State.poolWindow
  repeat' first
    | with_reducible assumption
    | with_reducible apply State.modBank_steady
    | with_reducible apply State.spillBank_steady
    | with_reducible apply State.fillBank_steady
    | with_reducible refine All.branch (fun _ => ?_) (fun _ => ?_)

theorem State.passedWindows_steady {fx : Fixed} (s : State) (bank : Nat) (hs1 : All (Steady fx) s) :
    All (Steady fx) (State.passedWindows s bank) := by
  unfold State.passedWindows
  repeat' first
    | with_reducible assumption
    | with_reducible apply State.poolWindow_steady
    | with_reducible refine All.branch (fun _ => ?_) (fun _ => ?_)

theorem State.takeCell_steady {fx : Fixed} (s : State) (bank : Nat) (hs1 : All (Steady fx) s) :
    All (SteadySnd fx) (State.takeCell s bank) := by
  unfold State.takeCell
  repeat' first
    | with_reducible assumption
    | with_reducible apply State.modBank_steady
    | with_reducible apply State.passedWindows_steady
    | with_reducible refine All.branch (fun _ => ?_) (fun _ => ?_)
    | with_reducible exact All.none
    | with_reducible exact All.noneFst
    | with_reducible refine All.some ?_
    | with_reducible refine All.someFst ?_
    | with_reducible refine All.pair ?_
    | with_reducible refine All.pairSnd ?_
    | with_reducible refine All.mid ?_
    | with_reducible refine All.third ?_
    | intro _ _
    | fail_if_no_progress (with_reducible refine All.upd ?_ (by rfl) (by rfl) (by rfl) (by rfl) (by rfl))

theorem State.returnCell_steady {fx : Fixed} (s : State) (c : Nat) (hs1 : All (Steady fx) s) :
    All (Steady fx) (State.returnCell s c) := by
  unfold State.returnCell
  repeat' first
    | with_reducible assumption
    | with_reducible apply State.modBank_steady
    | with_reducible apply State.passedWindows_steady

theorem State.intoReserve_steady {fx : Fixed} (s : State) (c : Nat) (hs1 : All (Steady fx) s) :
    All (Steady fx) (State.intoReserve s c) := by
  unfold State.intoReserve
  repeat' first
    | with_reducible assumption
    | with_reducible refine All.branch (fun _ => ?_) (fun _ => ?_)
    | fail_if_no_progress (with_reducible refine All.upd ?_ (by rfl) (by rfl) (by rfl) (by rfl) (by rfl))

theorem State.outOfReserve_steady {fx : Fixed} (s : State) (cells : List Nat) (hs1 : All (Steady fx) s) :
    All (Steady fx) (State.outOfReserve s cells) := by
  unfold State.outOfReserve
  repeat' first
    | with_reducible assumption
    | with_reducible refine All.branch (fun _ => ?_) (fun _ => ?_)
    | with_reducible refine All.folded ?_ (fun _ _ _ => ?_)
    | intro _ _
    | fail_if_no_progress (with_reducible refine All.upd ?_ (by rfl) (by rfl) (by rfl) (by rfl) (by rfl))

theorem State.linkCell_steady {fx : Fixed} (s : State) (c next : Nat) (hs1 : All (Steady fx) s) :
    All (Steady fx) (State.linkCell s c next) := by
  unfold State.linkCell
  repeat' first
    | with_reducible assumption
    | intro _ _
    | fail_if_no_progress (with_reducible refine All.upd ?_ (by rfl) (by rfl) (by rfl) (by rfl) (by rfl))

theorem State.credit_steady {fx : Fixed} (s : State) (req n : Nat) (hs1 : All (Steady fx) s) :
    All (Steady fx) (State.credit s req n) := by
  unfold State.credit
  repeat' first
    | with_reducible assumption
    | with_reducible apply State.modReq_steady
    | with_reducible refine All.branch (fun _ => ?_) (fun _ => ?_)
    | intro _ _
    | fail_if_no_progress (with_reducible refine All.upd ?_ (by rfl) (by rfl) (by rfl) (by rfl) (by rfl))

theorem State.charge_steady {fx : Fixed} (s : State) (req n : Nat) (hs1 : All (Steady fx) s) :
    All (Steady fx) (State.charge s req n) := by
  unfold State.charge
  repeat' first
    | with_reducible assumption
    | with_reducible apply State.modReq_steady

theorem State.shadowFree_steady {fx : Fixed} (s : State) (hold : Bool) (record own req n : Nat) (hs1 : All (Steady fx) s) :
    All (Steady fx) (State.shadowFree s hold record own req n) := by
  unfold State.shadowFree
  repeat' first
    | with_reducible assumption
    | with_reducible refine All.branch (fun _ => ?_) (fun _ => ?_)
    | with_reducible exact All.none
    | with_reducible exact All.noneFst
    | with_reducible refine All.some ?_
    | with_reducible refine All.someFst ?_
    | (with_reducible refine All.ofFst (by assumption) ?_)
    | (with_reducible refine All.ofSnd (by assumption) ?_)
    | (with_reducible refine All.ofMid (by assumption) ?_)
    | (with_reducible refine All.ofThird (by assumption) ?_)
    | (with_reducible refine All.ofSome (by assumption) ?_)
    | (with_reducible refine All.ofSomeFst (by assumption) ?_)
    | (with_reducible refine All.ofOk (by assumption) ?_)
    | split
    | fail_if_no_progress (with_reducible refine All.upd ?_ (by rfl) (by rfl) (by rfl) (by rfl) (by rfl))

theorem State.poolLog_steady {fx : Fixed} (s : State) (pointer : Nat) (req reason : Nat) (hs1 : All (Steady fx) s) :
    All (Steady fx) (State.poolLog s pointer req reason) := by
  unfold State.poolLog
  repeat' first
    | with_reducible assumption
    | with_reducible apply State.raise_steady
    | fail_if_no_progress (with_reducible refine All.upd ?_ (by rfl) (by rfl) (by rfl) (by rfl) (by rfl))

theorem State.walkChain_steady {fx : Fixed} (s : State) (first n : Nat) (hs1 : All (Steady fx) s) :
    All (Steady fx) (State.walkChain s first n) := by
  unfold State.walkChain
  repeat' first
    | with_reducible assumption
    | with_reducible refine All.branch (fun _ => ?_) (fun _ => ?_)
    | fail_if_no_progress (with_reducible refine All.upd ?_ (by rfl) (by rfl) (by rfl) (by rfl) (by rfl))

theorem State.endHold_steady {fx : Fixed} (s : State) (first : Nat) (hs1 : All (Steady fx) s) :
    All (Steady fx) (State.endHold s first) := by
  unfold State.endHold
  repeat' first
    | with_reducible assumption
    | intro _ _
    | fail_if_no_progress (with_reducible refine All.upd ?_ (by rfl) (by rfl) (by rfl) (by rfl) (by rfl))

theorem State.modStored_steady {fx : Fixed} (s : State) (id : Nat) (f : Stored → Stored) (hs1 : All (Steady fx) s) :
    All (Steady fx) (State.modStored s id f) := by
  unfold State.modStored
  repeat' first
    | with_reducible assumption
    | intro _ _
    | fail_if_no_progress (with_reducible refine All.upd ?_ (by rfl) (by rfl) (by rfl) (by rfl) (by rfl))

theorem State.pauseCall_steady {fx : Fixed} (s : State) (lp k : Nat) (on : Bool) (hs1 : All (Steady fx) s) :
    All (Steady fx) (State.pauseCall s lp k on) := by
  unfold State.pauseCall
  repeat' first
    | with_reducible assumption
    | with_reducible apply State.modPort_steady
    | split

theorem State.groupRelief_steady {fx : Fixed} (s : State) (g : Nat) (hs1 : All (Steady fx) s) :
    All (Steady fx) (State.groupRelief s g) := by
  unfold State.groupRelief
  repeat' first
    | with_reducible assumption
    | with_reducible apply State.modGroup_steady
    | with_reducible apply State.pauseCall_steady
    | with_reducible refine All.branch (fun _ => ?_) (fun _ => ?_)

theorem State.creditAccounts_steady {fx : Fixed} (s : State) (c : Charges) (hs1 : All (Steady fx) s) :
    All (Steady fx) (State.creditAccounts s c) := by
  unfold State.creditAccounts
  repeat' first
    | with_reducible assumption
    | with_reducible apply State.modGroup_steady
    | with_reducible apply State.groupRelief_steady
    | split
    | intro _ _
    | fail_if_no_progress (with_reducible refine All.upd ?_ (by rfl) (by rfl) (by rfl) (by rfl) (by rfl))

theorem State.dropStored_steady {fx : Fixed} (s : State) (id : Nat) (hs1 : All (Steady fx) s) :
    All (Steady fx) (State.dropStored s id) := by
  unfold State.dropStored
  repeat' first
    | with_reducible assumption
    | intro _ _
    | fail_if_no_progress (with_reducible refine All.upd ?_ (by rfl) (by rfl) (by rfl) (by rfl) (by rfl))

theorem State.endBody_steady {fx : Fixed} (s : State) (id : Nat) (hs1 : All (Steady fx) s) :
    All (Steady fx) (State.endBody s id) := by
  unfold State.endBody
  repeat' first
    | with_reducible assumption
    | with_reducible refine All.branch (fun _ => ?_) (fun _ => ?_)
    | intro _ _
    | fail_if_no_progress (with_reducible refine All.upd ?_ (by rfl) (by rfl) (by rfl) (by rfl) (by rfl))

theorem State.releaseStored_steady {fx : Fixed} (s : State) (f : Stored) (req : Nat) (hs1 : All (Steady fx) s) :
    All (Steady fx) (State.releaseStored s f req) := by
  unfold State.releaseStored
  repeat' first
    | with_reducible assumption
    | with_reducible apply State.credit_steady
    | with_reducible apply State.shadowFree_steady
    | with_reducible apply State.walkChain_steady
    | with_reducible apply State.endHold_steady
    | with_reducible apply State.creditAccounts_steady
    | with_reducible apply State.dropStored_steady
    | with_reducible apply State.endBody_steady
    | with_reducible refine All.branch (fun _ => ?_) (fun _ => ?_)
    | with_reducible exact All.none
    | with_reducible exact All.noneFst
    | with_reducible refine All.some ?_
    | with_reducible refine All.someFst ?_
    | (with_reducible refine All.ofFst (by assumption) ?_)
    | (with_reducible refine All.ofSnd (by assumption) ?_)
    | (with_reducible refine All.ofMid (by assumption) ?_)
    | (with_reducible refine All.ofThird (by assumption) ?_)
    | (with_reducible refine All.ofSome (by assumption) ?_)
    | (with_reducible refine All.ofSomeFst (by assumption) ?_)
    | (with_reducible refine All.ofOk (by assumption) ?_)
    | split
    | with_reducible refine All.pair ?_
    | with_reducible refine All.pairSnd ?_
    | with_reducible refine All.mid ?_
    | with_reducible refine All.third ?_
    | fail_if_no_progress (with_reducible refine All.upd ?_ (by rfl) (by rfl) (by rfl) (by rfl) (by rfl))

theorem State.decrement_steady {fx : Fixed} (s : State) (first req n : Nat) (hs1 : All (Steady fx) s) :
    All (Steady fx) (State.decrement s first req n) := by
  unfold State.decrement
  repeat' first
    | with_reducible assumption
    | with_reducible apply State.credit_steady
    | with_reducible apply State.shadowFree_steady
    | with_reducible apply State.poolLog_steady
    | with_reducible apply State.walkChain_steady
    | with_reducible apply State.endHold_steady
    | with_reducible apply State.releaseStored_steady
    | with_reducible refine All.branch (fun _ => ?_) (fun _ => ?_)
    | with_reducible exact All.none
    | with_reducible exact All.noneFst
    | with_reducible refine All.some ?_
    | with_reducible refine All.someFst ?_
    | (with_reducible refine All.ofFst (by assumption) ?_)
    | (with_reducible refine All.ofSnd (by assumption) ?_)
    | (with_reducible refine All.ofMid (by assumption) ?_)
    | (with_reducible refine All.ofThird (by assumption) ?_)
    | (with_reducible refine All.ofSome (by assumption) ?_)
    | (with_reducible refine All.ofSomeFst (by assumption) ?_)
    | (with_reducible refine All.ofOk (by assumption) ?_)
    | split
    | intro _ _
    | fail_if_no_progress (with_reducible refine All.upd ?_ (by rfl) (by rfl) (by rfl) (by rfl) (by rfl))

theorem State.loosenChains_steady {fx : Fixed} (s : State) (c : Nat) (hs1 : All (Steady fx) s) :
    All (Steady fx) (State.loosenChains s c) := by
  unfold State.loosenChains
  repeat' first
    | with_reducible assumption
    | with_reducible refine All.branch (fun _ => ?_) (fun _ => ?_)
    | with_reducible refine All.some ?_
    | with_reducible refine All.someFst ?_
    | with_reducible refine All.pair ?_
    | with_reducible refine All.pairSnd ?_
    | with_reducible refine All.mid ?_
    | with_reducible refine All.third ?_
    | intro _ _
    | fail_if_no_progress (with_reducible refine All.upd ?_ (by rfl) (by rfl) (by rfl) (by rfl) (by rfl))

theorem State.hostFree_steady {fx : Fixed} (s : State) (pointer req : Nat) (hs1 : All (Steady fx) s) :
    All (Steady fx) (State.hostFree s pointer req) := by
  unfold State.hostFree
  repeat' first
    | with_reducible assumption
    | with_reducible apply State.poolLog_steady
    | with_reducible apply State.decrement_steady
    | with_reducible apply State.loosenChains_steady
    | with_reducible refine All.branch (fun _ => ?_) (fun _ => ?_)
    | with_reducible refine All.folded ?_ (fun _ _ _ => ?_)
    | fail_if_no_progress (with_reducible refine All.upd ?_ (by rfl) (by rfl) (by rfl) (by rfl) (by rfl))

theorem State.refuseAllocation_steady {fx : Fixed} (s : State) (req : Nat) (hs1 : All (Steady fx) s) :
    All (Steady fx) (State.refuseAllocation s req) := by
  unfold State.refuseAllocation
  repeat' first
    | with_reducible assumption
    | with_reducible apply State.modReq_steady

theorem State.takeCells_steady {fx : Fixed} (s : State) (windows : List Nat) (b0 : Nat) (hs1 : All (Steady fx) s) :
    All (SteadySnd fx) (State.takeCells s windows b0) := by
  induction b0 generalizing s windows with
  | zero => exact hs1
  | succ n ih => exact All.pairSnd (All.snd (ih _ _ (All.snd (State.takeCell_steady _ _ (All.upd hs1 rfl rfl rfl rfl rfl)))))

theorem State.linkChain_steady {fx : Fixed} (s : State) (b0 : List Nat) (hs1 : All (Steady fx) s) :
    All (Steady fx) (State.linkChain s b0) := by
  induction b0 generalizing s with
  | nil => exact hs1
  | cons c r ih =>
    cases r with
    | nil => exact hs1
    | cons c' r => exact ih _ (State.linkCell_steady _ _ _ hs1)

theorem State.allocate_steady {fx : Fixed} (s : State) (req n : Nat) (hs1 : All (Steady fx) s) :
    All (SteadySnd fx) (State.allocate s req n) := by
  unfold State.allocate
  repeat' first
    | with_reducible assumption
    | with_reducible apply State.charge_steady
    | with_reducible apply State.takeCells_steady
    | with_reducible apply State.linkChain_steady
    | with_reducible refine All.branch (fun _ => ?_) (fun _ => ?_)
    | (with_reducible apply All.snd; first | with_reducible assumption | with_reducible apply State.takeCells_steady)
    | (with_reducible refine All.ofFst (by assumption) ?_)
    | (with_reducible refine All.ofSnd (by assumption) ?_)
    | (with_reducible refine All.ofMid (by assumption) ?_)
    | (with_reducible refine All.ofThird (by assumption) ?_)
    | (with_reducible refine All.ofSome (by assumption) ?_)
    | (with_reducible refine All.ofSomeFst (by assumption) ?_)
    | (with_reducible refine All.ofOk (by assumption) ?_)
    | split
    | (dsimp only; split)
    | with_reducible refine All.pair ?_
    | with_reducible refine All.pairSnd ?_
    | with_reducible refine All.mid ?_
    | with_reducible refine All.third ?_
    | fail_if_no_progress (with_reducible refine All.upd ?_ (by rfl) (by rfl) (by rfl) (by rfl) (by rfl))

theorem State.fillCells_steady {fx : Fixed} (s : State) (b0 : List Nat) (b1 : List Byte) (hs1 : All (Steady fx) s) :
    All (Steady fx) (State.fillCells s b0 b1) := by
  induction b0 generalizing s b1 with
  | nil => exact hs1
  | cons c r ih =>
    cases r with
    | nil => exact State.putCell_steady _ _ _ _ _ hs1
    | cons c' r => exact ih _ _ (State.putCell_steady _ _ _ _ _ hs1)

theorem State.copyEnd_steady {fx : Fixed} (s : State) (id q : Nat) (hs1 : All (Steady fx) s) :
    All (Steady fx) (State.copyEnd s id q) := by
  unfold State.copyEnd
  repeat' first
    | with_reducible assumption
    | with_reducible apply State.modQueue_steady
    | with_reducible apply State.dropStored_steady
    | with_reducible apply State.decrement_steady
    | with_reducible refine All.branch (fun _ => ?_) (fun _ => ?_)
    | split
    | intro _ _
    | fail_if_no_progress (with_reducible refine All.upd ?_ (by rfl) (by rfl) (by rfl) (by rfl) (by rfl))

/-! ### CabOps -/

theorem State.cabWrite_steady {fx : Fixed} (s : State) (a : Nat) (bs : List Byte) (b0 : Nat) (hs1 : All (Steady fx) s) :
    All (Steady fx) (State.cabWrite s a bs b0) := by
  induction b0 generalizing s a bs with
  | zero => exact hs1
  | succ n ih =>
    refine All.branch (fun _ => hs1) fun _ => ih _ _ _ (All.branch (fun _ => State.tick_steady _ _ _ _ hs1) fun _ => ?_)
    exact All.updWf hs1 rfl (Memory.wf_write _ _ hs1.cabWf) hs1.scratchWf hs1.hostWf hs1.peerWf

theorem State.cabPut_steady {fx : Fixed} (s : State) (a : Nat) (bs : List Byte) (hs1 : All (Steady fx) s) :
    All (Steady fx) (State.cabPut s a bs) := by
  unfold State.cabPut
  repeat' first
    | with_reducible assumption
    | with_reducible apply State.cabWrite_steady

theorem State.placeAt_steady {fx : Fixed} (s : State) (d p : Nat) (bytes : List Byte) (hs1 : All (Steady fx) s) :
    All (Steady fx) (State.placeAt s d p bytes) := by
  unfold State.placeAt
  repeat' first
    | with_reducible assumption
    | with_reducible apply State.modDrawer_steady
    | with_reducible apply State.request_steady
    | with_reducible apply State.cabPut_steady

theorem State.placeRecord_steady {fx : Fixed} (s : State) (d typ : Nat) (own : Bool) (body : List Byte) (hs1 : All (Steady fx) s) :
    All (SteadyOpt fx) (State.placeRecord s d typ own body) := by
  unfold State.placeRecord
  repeat' first
    | with_reducible assumption
    | with_reducible apply State.modDrawer_steady
    | with_reducible apply State.placeAt_steady
    | with_reducible refine All.branch (fun _ => ?_) (fun _ => ?_)
    | with_reducible exact All.none
    | with_reducible refine All.some ?_
    | (dsimp only; split)

theorem State.sysLost_steady {fx : Fixed} (s : State) (hs1 : All (Steady fx) s) :
    All (Steady fx) (State.sysLost s) := by
  unfold State.sysLost
  repeat' first
    | with_reducible assumption
    | fail_if_no_progress (with_reducible refine All.upd ?_ (by rfl) (by rfl) (by rfl) (by rfl) (by rfl))

theorem State.writeGap_steady {fx : Fixed} (s : State) (d c : Nat) (hs1 : All (Steady fx) s) :
    All (Steady fx) (State.writeGap s d c) := by
  unfold State.writeGap
  repeat' first
    | with_reducible assumption
    | with_reducible apply State.modEvClass_steady
    | with_reducible apply State.placeRecord_steady
    | with_reducible apply State.sysLost_steady
    | with_reducible refine All.branch (fun _ => ?_) (fun _ => ?_)
    | (with_reducible refine All.ofSome (by assumption) ?_)
    | split

theorem State.sealDrawer_steady {fx : Fixed} (s : State) (d kind : Nat) (hs1 : All (Steady fx) s) :
    All (Steady fx) (State.sealDrawer s d kind) := by
  unfold State.sealDrawer
  repeat' first
    | with_reducible assumption
    | with_reducible apply State.modDrawer_steady
    | with_reducible apply State.placeAt_steady
    | with_reducible apply State.writeGap_steady
    | with_reducible refine All.branch (fun _ => ?_) (fun _ => ?_)
    | with_reducible refine All.folded ?_ (fun _ _ _ => ?_)
    | (dsimp only; split)

theorem State.countSeal_steady {fx : Fixed} (s : State) (d : Nat) (hs1 : All (Steady fx) s) :
    All (Steady fx) (State.countSeal s d) := by
  unfold State.countSeal
  repeat' first
    | with_reducible assumption
    | with_reducible apply State.sealDrawer_steady
    | with_reducible refine All.branch (fun _ => ?_) (fun _ => ?_)

theorem State.updatePanic_steady {fx : Fixed} (s : State) (hs1 : All (Steady fx) s) :
    All (Steady fx) (State.updatePanic s) := by
  unfold State.updatePanic
  repeat' first
    | with_reducible assumption
    | with_reducible apply State.serveChans_steady
    | with_reducible apply State.raise_steady
    | with_reducible apply State.tick_steady
    | with_reducible refine All.branch (fun _ => ?_) (fun _ => ?_)
    | fail_if_no_progress (with_reducible refine All.upd ?_ (by rfl) (by rfl) (by rfl) (by rfl) (by rfl))

theorem State.classLoss_steady {fx : Fixed} (s : State) (c : Nat) (ts : DevTime) (unrec : Bool) (hs1 : All (Steady fx) s) :
    All (Steady fx) (State.classLoss s c ts unrec) := by
  unfold State.classLoss
  repeat' first
    | with_reducible assumption
    | with_reducible apply State.modEvClass_steady
    | with_reducible apply State.raise_steady

theorem State.unmappedFrame_steady {fx : Fixed} (s : State) (fid : Nat) (hs1 : All (Steady fx) s) :
    All (Steady fx) (State.unmappedFrame s fid) := by
  unfold State.unmappedFrame
  repeat' first
    | with_reducible assumption
    | with_reducible refine All.branch (fun _ => ?_) (fun _ => ?_)
    | with_reducible refine All.pair ?_
    | with_reducible refine All.pairSnd ?_
    | with_reducible refine All.mid ?_
    | with_reducible refine All.third ?_
    | fail_if_no_progress (with_reducible refine All.upd ?_ (by rfl) (by rfl) (by rfl) (by rfl) (by rfl))

theorem State.forgetFrame_steady {fx : Fixed} (s : State) (fid : Nat) (hs1 : All (Steady fx) s) :
    All (Steady fx) (State.forgetFrame s fid) := by
  unfold State.forgetFrame
  repeat' first
    | with_reducible assumption
    | with_reducible refine All.branch (fun _ => ?_) (fun _ => ?_)
    | fail_if_no_progress (with_reducible refine All.upd ?_ (by rfl) (by rfl) (by rfl) (by rfl) (by rfl))

theorem State.unhold_steady {fx : Fixed} (s : State) (h : Option Nat) (hs1 : All (Steady fx) s) :
    All (Steady fx) (State.unhold s h) := by
  unfold State.unhold
  repeat' first
    | with_reducible assumption
    | with_reducible refine All.branch (fun _ => ?_) (fun _ => ?_)
    | with_reducible exact All.none
    | with_reducible exact All.noneFst
    | with_reducible refine All.some ?_
    | with_reducible refine All.someFst ?_
    | (with_reducible refine All.ofFst (by assumption) ?_)
    | (with_reducible refine All.ofSnd (by assumption) ?_)
    | (with_reducible refine All.ofMid (by assumption) ?_)
    | (with_reducible refine All.ofThird (by assumption) ?_)
    | (with_reducible refine All.ofSome (by assumption) ?_)
    | (with_reducible refine All.ofSomeFst (by assumption) ?_)
    | (with_reducible refine All.ofOk (by assumption) ?_)
    | split
    | fail_if_no_progress (with_reducible refine All.upd ?_ (by rfl) (by rfl) (by rfl) (by rfl) (by rfl))

theorem State.stageRecord_steady {fx : Fixed} (s : State) (typ c fid : Nat) (body : List Byte) (ts : DevTime) (heldIn : Option Nat) (hs1 : All (Steady fx) s) :
    All (Steady fx) (State.stageRecord s typ c fid body ts heldIn) := by
  unfold State.stageRecord
  repeat' first
    | with_reducible assumption
    | with_reducible apply State.updatePanic_steady
    | with_reducible apply State.classLoss_steady
    | with_reducible apply State.unmappedFrame_steady
    | with_reducible apply State.unhold_steady
    | with_reducible refine All.branch (fun _ => ?_) (fun _ => ?_)
    | with_reducible exact All.none
    | with_reducible exact All.noneFst
    | with_reducible refine All.some ?_
    | with_reducible refine All.someFst ?_
    | (with_reducible refine All.ofFst (by assumption) ?_)
    | (with_reducible refine All.ofSnd (by assumption) ?_)
    | (with_reducible refine All.ofMid (by assumption) ?_)
    | (with_reducible refine All.ofThird (by assumption) ?_)
    | (with_reducible refine All.ofSome (by assumption) ?_)
    | (with_reducible refine All.ofSomeFst (by assumption) ?_)
    | (with_reducible refine All.ofOk (by assumption) ?_)
    | split
    | (dsimp only; split)
    | with_reducible refine All.pair ?_
    | with_reducible refine All.pairSnd ?_
    | with_reducible refine All.mid ?_
    | with_reducible refine All.third ?_
    | intro _ _
    | fail_if_no_progress (with_reducible refine All.upd ?_ (by rfl) (by rfl) (by rfl) (by rfl) (by rfl))

theorem State.stageSystemIn_steady {fx : Fixed} (s : State) (typ : Nat) (body : List Byte) (d : Nat) (hs1 : All (Steady fx) s) :
    All (Steady fx) (State.stageSystemIn s typ body d) := by
  unfold State.stageSystemIn
  repeat' first
    | with_reducible assumption
    | with_reducible apply State.sysLost_steady
    | with_reducible apply State.updatePanic_steady
    | with_reducible refine All.branch (fun _ => ?_) (fun _ => ?_)
    | fail_if_no_progress (with_reducible refine All.upd ?_ (by rfl) (by rfl) (by rfl) (by rfl) (by rfl))

theorem State.systemRecord_steady {fx : Fixed} (s : State) (typ : Nat) (body : List Byte) (hs1 : All (Steady fx) s) :
    All (Steady fx) (State.systemRecord s typ body) := by
  unfold State.systemRecord
  repeat' first
    | with_reducible assumption
    | with_reducible apply State.sysLost_steady
    | with_reducible apply State.stageSystemIn_steady
    | with_reducible refine All.branch (fun _ => ?_) (fun _ => ?_)
    | with_reducible refine All.folded ?_ (fun _ _ _ => ?_)

theorem State.writeStaged_steady {fx : Fixed} (s : State) (r : Staged) (hs1 : All (Steady fx) s) :
    All (Steady fx) (State.writeStaged s r) := by
  unfold State.writeStaged
  repeat' first
    | with_reducible assumption
    | with_reducible apply State.placeRecord_steady
    | with_reducible apply State.sysLost_steady
    | with_reducible apply State.writeGap_steady
    | with_reducible apply State.countSeal_steady
    | with_reducible apply State.classLoss_steady
    | (with_reducible refine All.ofSome (by assumption) ?_)
    | split
    | (dsimp only; split)

theorem State.drainOne_steady {fx : Fixed} (s : State) (hs1 : All (Steady fx) s) :
    All (Steady fx) (State.drainOne s) := by
  unfold State.drainOne
  repeat' first
    | with_reducible assumption
    | with_reducible apply State.updatePanic_steady
    | with_reducible apply State.writeStaged_steady
    | split
    | fail_if_no_progress (with_reducible refine All.upd ?_ (by rfl) (by rfl) (by rfl) (by rfl) (by rfl))

theorem State.drainWhere_steady {fx : Fixed} (s : State) (p : Staged → Bool) (hs1 : All (Steady fx) s) :
    All (Steady fx) (State.drainWhere s p) := by
  unfold State.drainWhere
  repeat' first
    | with_reducible assumption
    | with_reducible apply State.updatePanic_steady
    | with_reducible apply State.writeStaged_steady
    | with_reducible refine All.folded ?_ (fun _ _ _ => ?_)
    | intro _ _
    | fail_if_no_progress (with_reducible refine All.upd ?_ (by rfl) (by rfl) (by rfl) (by rfl) (by rfl))

theorem State.audit_steady {fx : Fixed} (s : State) (w : Waiter) (outcome : Nat) (hs1 : All (Steady fx) s) :
    All (Steady fx) (State.audit s w outcome) := by
  unfold State.audit
  repeat' first
    | with_reducible assumption
    | with_reducible apply State.systemRecord_steady

theorem State.sealAll_steady {fx : Fixed} (s : State) (kind : Nat) (hs1 : All (Steady fx) s) :
    All (Steady fx) (State.sealAll s kind) := by
  unfold State.sealAll
  repeat' first
    | with_reducible assumption
    | with_reducible apply State.sealDrawer_steady
    | with_reducible refine All.folded ?_ (fun _ _ _ => ?_)

theorem State.selfRefresh_steady {fx : Fixed} (s : State) (on : Bool) (hs1 : All (Steady fx) s) :
    All (Steady fx) (State.selfRefresh s on) := by
  unfold State.selfRefresh
  repeat' first
    | with_reducible assumption
    | with_reducible apply State.modChan_steady
    | with_reducible refine All.branch (fun _ => ?_) (fun _ => ?_)
    | with_reducible refine All.folded ?_ (fun _ _ _ => ?_)

theorem State.calibrateRanks_steady {fx : Fixed} (s : State) (drifts : List (Fin 16 × List Int)) (hs1 : All (Steady fx) s) :
    All (Steady fx) (State.calibrateRanks s drifts) := by
  unfold State.calibrateRanks
  repeat' first
    | with_reducible assumption
    | with_reducible apply State.modChan_steady
    | with_reducible refine All.branch (fun _ => ?_) (fun _ => ?_)
    | with_reducible refine All.folded ?_ (fun _ _ _ => ?_)

theorem State.cabinetSafe_steady {fx : Fixed} (s : State) (hs1 : All (Steady fx) s) :
    All (Steady fx) (State.cabinetSafe s) := by
  unfold State.cabinetSafe
  repeat' first
    | with_reducible assumption
    | with_reducible apply State.completeRequests_steady
    | with_reducible apply State.drainWhere_steady
    | with_reducible apply State.sealAll_steady
    | with_reducible apply State.selfRefresh_steady
    | with_reducible refine All.branch (fun _ => ?_) (fun _ => ?_)
    | with_reducible exact All.none
    | with_reducible exact All.noneFst
    | with_reducible refine All.pair ?_
    | with_reducible refine All.pairSnd ?_
    | with_reducible refine All.mid ?_
    | with_reducible refine All.third ?_
    | intro _ _
    | fail_if_no_progress (with_reducible refine All.upd ?_ (by rfl) (by rfl) (by rfl) (by rfl) (by rfl))

theorem State.chanLeave_steady {fx : Fixed} (s : State) (k : Nat) (cause : BitVec 4) (hs1 : All (Steady fx) s) :
    All (Steady fx) (State.chanLeave s k cause) := by
  unfold State.chanLeave
  repeat' first
    | with_reducible assumption
    | with_reducible apply State.modChan_steady

/-! ### Copies -/

theorem State.dropRecord_steady {fx : Fixed} (s : State) (fid : Nat) (cw : CarriageWord) (src : Source) (lp : Nat) (tsIn : DevTime) (pass2 : Bool) (len : Nat) (headCrc : BitVec 32) (reason outLp tc : Nat) (hs1 : All (Steady fx) s) :
    All (Steady fx) (State.dropRecord s fid cw src lp tsIn pass2 len headCrc reason outLp tc) := by
  unfold State.dropRecord
  repeat' first
    | with_reducible assumption
    | with_reducible apply State.stageRecord_steady
    | with_reducible refine All.branch (fun _ => ?_) (fun _ => ?_)

theorem State.dropCopyRecord_steady {fx : Fixed} (s : State) (f : Stored) (reason q : Nat) (hs1 : All (Steady fx) s) :
    All (Steady fx) (State.dropCopyRecord s f reason q) := by
  unfold State.dropCopyRecord
  repeat' first
    | with_reducible assumption
    | with_reducible apply State.dropRecord_steady

theorem State.putReport_steady {fx : Fixed} (s : State) (j : InjectMeta) (lp flags : Nat) (ts : DevTime) (hs1 : All (Steady fx) s) :
    All (Steady fx) (State.putReport s j lp flags ts) := by
  unfold State.putReport
  repeat' first
    | with_reducible assumption
    | with_reducible apply State.modDma_steady
    | with_reducible apply State.hostWrite_steady
    | with_reducible refine All.branch (fun _ => ?_) (fun _ => ?_)

theorem State.reportDropped_steady {fx : Fixed} (s : State) (inj : Option InjectMeta) (hs1 : All (Steady fx) s) :
    All (Steady fx) (State.reportDropped s inj) := by
  unfold State.reportDropped
  repeat' first
    | with_reducible assumption
    | with_reducible apply State.putReport_steady
    | split

theorem State.copyLost_steady {fx : Fixed} (s : State) (id q : Nat) (hs1 : All (Steady fx) s) :
    All (Steady fx) (State.copyLost s id q) := by
  unfold State.copyLost
  repeat' first
    | with_reducible assumption
    | with_reducible apply State.modStored_steady
    | with_reducible apply State.copyEnd_steady
    | with_reducible apply State.reportDropped_steady
    | split

/-! ### Wire -/

theorem State.ptpCount_steady {fx : Fixed} (s : State) (lp : Nat) (f : Stored) (n : Nat) (hs1 : All (Steady fx) s) :
    All (Steady fx) (State.ptpCount s lp f n) := by
  unfold State.ptpCount
  repeat' first
    | with_reducible assumption
    | with_reducible apply State.tick_steady
    | with_reducible refine All.branch (fun _ => ?_) (fun _ => ?_)

theorem State.txCount_steady {fx : Fixed} (s : State) (lp : Nat) (o : WireOut) (hs1 : All (Steady fx) s) :
    All (Steady fx) (State.txCount s lp o) := by
  unfold State.txCount
  repeat' first
    | with_reducible assumption
    | with_reducible apply State.stat_steady
    | with_reducible refine All.branch (fun _ => ?_) (fun _ => ?_)

theorem State.settleStamps_steady {fx : Fixed} (s : State) (ps : Nat) (hs1 : All (Steady fx) s) :
    All (Steady fx) (State.settleStamps s ps) := by
  unfold State.settleStamps
  repeat' first
    | with_reducible assumption
    | with_reducible refine All.branch (fun _ => ?_) (fun _ => ?_)
    | with_reducible refine All.pair ?_
    | with_reducible refine All.pairSnd ?_
    | with_reducible refine All.mid ?_
    | with_reducible refine All.third ?_
    | intro _ _
    | fail_if_no_progress (with_reducible refine All.upd ?_ (by rfl) (by rfl) (by rfl) (by rfl) (by rfl))

theorem State.captureCopy_steady {fx : Fixed} (s : State) (lp : Nat) (f : Stored) (o : WireOut) (hs1 : All (Steady fx) s) :
    All (Steady fx) (State.captureCopy s lp f o) := by
  unfold State.captureCopy
  repeat' first
    | with_reducible assumption
    | with_reducible apply State.requests_steady
    | with_reducible apply State.tick_steady
    | with_reducible apply State.cabPut_steady
    | with_reducible refine All.branch (fun _ => ?_) (fun _ => ?_)
    | with_reducible exact All.none
    | with_reducible exact All.noneFst
    | with_reducible refine All.some ?_
    | with_reducible refine All.someFst ?_
    | (with_reducible refine All.ofFst (by assumption) ?_)
    | (with_reducible refine All.ofSnd (by assumption) ?_)
    | (with_reducible refine All.ofMid (by assumption) ?_)
    | (with_reducible refine All.ofThird (by assumption) ?_)
    | (with_reducible refine All.ofSome (by assumption) ?_)
    | (with_reducible refine All.ofSomeFst (by assumption) ?_)
    | (with_reducible refine All.ofOk (by assumption) ?_)
    | split
    | with_reducible refine All.pair ?_
    | with_reducible refine All.pairSnd ?_
    | with_reducible refine All.mid ?_
    | with_reducible refine All.third ?_
    | fail_if_no_progress (with_reducible refine All.upd ?_ (by rfl) (by rfl) (by rfl) (by rfl) (by rfl))

theorem State.wireRecord_steady {fx : Fixed} (s : State) (lp : Nat) (w : TxFrame) (f : Stored) (stomp : Bool) (hs1 : All (Steady fx) s) :
    All (Steady fx) (State.wireRecord s lp w f stomp) := by
  unfold State.wireRecord
  repeat' first
    | with_reducible assumption
    | with_reducible apply State.stageRecord_steady
    | with_reducible refine All.branch (fun _ => ?_) (fun _ => ?_)

theorem State.txReport_steady {fx : Fixed} (s : State) (lp : Nat) (w : TxFrame) (f : Stored) (stomp : Bool) (hs1 : All (Steady fx) s) :
    All (Steady fx) (State.txReport s lp w f stomp) := by
  unfold State.txReport
  repeat' first
    | with_reducible assumption
    | with_reducible apply State.modStored_steady
    | with_reducible apply State.putReport_steady
    | split

theorem State.wireDone_steady {fx : Fixed} (s : State) (lp : Nat) (hs1 : All (Steady fx) s) :
    All (Steady fx) (State.wireDone s lp) := by
  unfold State.wireDone
  repeat' first
    | with_reducible assumption
    | with_reducible apply State.modEgr_steady

theorem State.finishTx_steady {fx : Fixed} (s : State) (lp : Nat) (hs1 : All (Steady fx) s) :
    All (Steady fx) (State.finishTx s lp) := by
  unfold State.finishTx
  repeat' first
    | with_reducible assumption
    | with_reducible apply State.emit_steady
    | with_reducible apply State.modStored_steady
    | with_reducible apply State.copyEnd_steady
    | with_reducible apply State.ptpCount_steady
    | with_reducible apply State.txCount_steady
    | with_reducible apply State.captureCopy_steady
    | with_reducible apply State.wireRecord_steady
    | with_reducible apply State.txReport_steady
    | with_reducible apply State.wireDone_steady
    | with_reducible refine All.branch (fun _ => ?_) (fun _ => ?_)
    | with_reducible exact All.none
    | with_reducible exact All.noneFst
    | with_reducible refine All.some ?_
    | with_reducible refine All.someFst ?_
    | (with_reducible refine All.ofFst (by assumption) ?_)
    | (with_reducible refine All.ofSnd (by assumption) ?_)
    | (with_reducible refine All.ofMid (by assumption) ?_)
    | (with_reducible refine All.ofThird (by assumption) ?_)
    | (with_reducible refine All.ofSome (by assumption) ?_)
    | (with_reducible refine All.ofSomeFst (by assumption) ?_)
    | (with_reducible refine All.ofOk (by assumption) ?_)
    | split

theorem State.finishAll_steady {fx : Fixed} (s : State) (lp : Nat) (hs1 : All (Steady fx) s) :
    All (Steady fx) (State.finishAll s lp) := by
  unfold State.finishAll
  repeat' first
    | with_reducible assumption
    | with_reducible apply State.finishTx_steady
    | with_reducible refine All.branch (fun _ => ?_) (fun _ => ?_)
    | with_reducible refine All.folded ?_ (fun _ _ _ => ?_)

theorem State.loseTx_steady {fx : Fixed} (s : State) (lp : Nat) (hs1 : All (Steady fx) s) :
    All (Steady fx) (State.loseTx s lp) := by
  unfold State.loseTx
  repeat' first
    | with_reducible assumption
    | with_reducible apply State.stat_steady
    | with_reducible apply State.unhold_steady
    | with_reducible apply State.copyLost_steady
    | with_reducible apply State.wireDone_steady
    | with_reducible refine All.branch (fun _ => ?_) (fun _ => ?_)
    | with_reducible exact All.none
    | with_reducible exact All.noneFst
    | with_reducible refine All.some ?_
    | with_reducible refine All.someFst ?_
    | (with_reducible refine All.ofFst (by assumption) ?_)
    | (with_reducible refine All.ofSnd (by assumption) ?_)
    | (with_reducible refine All.ofMid (by assumption) ?_)
    | (with_reducible refine All.ofThird (by assumption) ?_)
    | (with_reducible refine All.ofSome (by assumption) ?_)
    | (with_reducible refine All.ofSomeFst (by assumption) ?_)
    | (with_reducible refine All.ofOk (by assumption) ?_)
    | split

theorem State.loseAll_steady {fx : Fixed} (s : State) (lp : Nat) (hs1 : All (Steady fx) s) :
    All (Steady fx) (State.loseAll s lp) := by
  unfold State.loseAll
  repeat' first
    | with_reducible assumption
    | with_reducible apply State.loseTx_steady
    | with_reducible refine All.branch (fun _ => ?_) (fun _ => ?_)
    | with_reducible refine All.folded ?_ (fun _ _ _ => ?_)

/-! ### Links -/

theorem State.portEvent_steady {fx : Fixed} (s : State) (lp : Nat) (hs1 : All (Steady fx) s) :
    All (Steady fx) (State.portEvent s lp) := by
  unfold State.portEvent
  repeat' first
    | with_reducible assumption
    | with_reducible apply State.raise_steady

theorem State.setPortState_steady {fx : Fixed} (s : State) (lp : Nat) (st : PortState) (hs1 : All (Steady fx) s) :
    All (Steady fx) (State.setPortState s lp st) := by
  unfold State.setPortState
  repeat' first
    | with_reducible assumption
    | with_reducible apply State.modPort_steady
    | with_reducible apply State.portEvent_steady
    | with_reducible refine All.branch (fun _ => ?_) (fun _ => ?_)

theorem State.uncount_steady {fx : Fixed} (s : State) (lp : Nat) (data : List Byte) (len : Nat) (hs1 : All (Steady fx) s) :
    All (Steady fx) (State.uncount s lp data len) := by
  unfold State.uncount
  repeat' first
    | with_reducible assumption
    | with_reducible apply State.modPort_steady

theorem State.cutReceive_steady {fx : Fixed} (s : State) (lp : Nat) (hs1 : All (Steady fx) s) :
    All (Steady fx) (State.cutReceive s lp) := by
  unfold State.cutReceive
  repeat' first
    | with_reducible assumption
    | with_reducible apply State.stat_steady
    | with_reducible apply State.uncount_steady
    | with_reducible refine All.branch (fun _ => ?_) (fun _ => ?_)
    | with_reducible exact All.none
    | with_reducible exact All.noneFst
    | with_reducible refine All.some ?_
    | with_reducible refine All.someFst ?_
    | (with_reducible refine All.ofFst (by assumption) ?_)
    | (with_reducible refine All.ofSnd (by assumption) ?_)
    | (with_reducible refine All.ofMid (by assumption) ?_)
    | (with_reducible refine All.ofThird (by assumption) ?_)
    | (with_reducible refine All.ofSome (by assumption) ?_)
    | (with_reducible refine All.ofSomeFst (by assumption) ?_)
    | (with_reducible refine All.ofOk (by assumption) ?_)
    | split
    | (dsimp only; split)
    | with_reducible refine All.pair ?_
    | with_reducible refine All.pairSnd ?_
    | with_reducible refine All.mid ?_
    | with_reducible refine All.third ?_
    | intro _ _
    | fail_if_no_progress (with_reducible refine All.upd ?_ (by rfl) (by rfl) (by rfl) (by rfl) (by rfl))

theorem State.leaveUp_steady {fx : Fixed} (s : State) (lp : Nat) (st : PortState) (completeWire : Bool) (hs1 : All (Steady fx) s) :
    All (Steady fx) (State.leaveUp s lp st completeWire) := by
  unfold State.leaveUp
  repeat' first
    | with_reducible assumption
    | with_reducible apply State.modPort_steady
    | with_reducible apply State.modQueue_steady
    | with_reducible apply State.modEgr_steady
    | with_reducible apply State.stat_steady
    | with_reducible apply State.loseAll_steady
    | with_reducible apply State.setPortState_steady
    | with_reducible apply State.cutReceive_steady
    | with_reducible refine All.branch (fun _ => ?_) (fun _ => ?_)
    | with_reducible refine All.folded ?_ (fun _ _ _ => ?_)

theorem State.powerDown_steady {fx : Fixed} (s : State) (m : Nat) (hs1 : All (Steady fx) s) :
    All (Steady fx) (State.powerDown s m) := by
  unfold State.powerDown
  refine All.branch (fun _ => hs1) fun _ => ?_
  split
  · exact All.upd hs1 rfl rfl rfl rfl rfl
  · exact hs1

theorem State.powerUp_steady {fx : Fixed} (s : State) (m : Nat) (hs1 : All (Steady fx) s) :
    All (Steady fx) (State.powerUp s m) := by
  unfold State.powerUp
  repeat' first
    | with_reducible assumption
    | with_reducible refine All.branch (fun _ => ?_) (fun _ => ?_)
    | intro _ _
    | fail_if_no_progress (with_reducible refine All.upd ?_ (by rfl) (by rfl) (by rfl) (by rfl) (by rfl))

theorem State.settleIsland_steady {fx : Fixed} (s : State) (m : Nat) (hs1 : All (Steady fx) s) :
    All (Steady fx) (State.settleIsland s m) := by
  unfold State.settleIsland
  repeat' first
    | with_reducible assumption
    | with_reducible apply State.powerDown_steady
    | with_reducible refine All.branch (fun _ => ?_) (fun _ => ?_)

theorem State.bringup_steady {fx : Fixed} (s : State) (lp : Nat) (hs1 : All (Steady fx) s) :
    All (Steady fx) (State.bringup s lp) := by
  unfold State.bringup
  repeat' first
    | with_reducible assumption
    | with_reducible apply State.leaveUp_steady

theorem State.fallBack_steady {fx : Fixed} (s : State) (lp : Nat) (hs1 : All (Steady fx) s) :
    All (Steady fx) (State.fallBack s lp) := by
  unfold State.fallBack
  repeat' first
    | with_reducible assumption
    | with_reducible apply State.modPort_steady
    | with_reducible apply State.leaveUp_steady
    | with_reducible apply State.settleIsland_steady
    | with_reducible apply State.bringup_steady
    | with_reducible refine All.branch (fun _ => ?_) (fun _ => ?_)

theorem State.islandFault_steady {fx : Fixed} (s : State) (m : Nat) (completeWire : Bool) (hs1 : All (Steady fx) s) :
    All (Steady fx) (State.islandFault s m completeWire) := by
  unfold State.islandFault
  repeat' first
    | with_reducible assumption
    | with_reducible apply State.modPort_steady
    | with_reducible apply State.leaveUp_steady
    | with_reducible refine All.branch (fun _ => ?_) (fun _ => ?_)
    | with_reducible refine All.folded ?_ (fun _ _ _ => ?_)

theorem State.settleModes_steady {fx : Fixed} (s : State) (hs1 : All (Steady fx) s) :
    All (Steady fx) (State.settleModes s) := by
  unfold State.settleModes
  repeat' first
    | with_reducible assumption
    | with_reducible apply State.setPortState_steady
    | with_reducible apply State.bringup_steady
    | with_reducible refine All.branch (fun _ => ?_) (fun _ => ?_)
    | with_reducible refine All.folded ?_ (fun _ _ _ => ?_)

/-! ### Replies -/

theorem State.ringReply_steady {fx : Fixed} (s : State) (n : Nat) (r : Reply) (hs1 : All (Steady fx) s) :
    All (Steady fx) (State.ringReply s n r) := by
  unfold State.ringReply
  repeat' first
    | with_reducible assumption
    | with_reducible apply State.modCmdRing_steady
    | with_reducible apply State.emit_steady
    | with_reducible apply State.raise_steady
    | with_reducible apply State.hostWrite_steady
    | with_reducible refine All.branch (fun _ => ?_) (fun _ => ?_)

theorem State.keepReply_steady {fx : Fixed} (s : State) (w : Waiter) (r : Reply) (hs1 : All (Steady fx) s) :
    All (Steady fx) (State.keepReply s w r) := by
  unfold State.keepReply
  repeat' first
    | with_reducible assumption
    | intro _ _
    | fail_if_no_progress (with_reducible refine All.upd ?_ (by rfl) (by rfl) (by rfl) (by rfl) (by rfl))

theorem State.sendReplyFrame_steady {fx : Fixed} (s : State) (w : Waiter) (r : Reply) (hs1 : All (Steady fx) s) :
    All (Steady fx) (State.sendReplyFrame s w r) := by
  unfold State.sendReplyFrame
  repeat' first
    | with_reducible assumption
    | with_reducible apply State.emit_steady
    | with_reducible apply State.mgmtStat_steady
    | with_reducible refine All.branch (fun _ => ?_) (fun _ => ?_)

theorem State.sendReply_steady {fx : Fixed} (s : State) (w : Waiter) (r : Reply) (hs1 : All (Steady fx) s) :
    All (Steady fx) (State.sendReply s w r) := by
  unfold State.sendReply
  repeat' first
    | with_reducible assumption
    | with_reducible apply State.emit_steady
    | with_reducible apply State.ringReply_steady
    | with_reducible apply State.sendReplyFrame_steady
    | with_reducible refine All.branch (fun _ => ?_) (fun _ => ?_)
    | (with_reducible refine All.ofFst (by assumption) ?_)
    | (with_reducible refine All.ofSnd (by assumption) ?_)
    | (with_reducible refine All.ofMid (by assumption) ?_)
    | (with_reducible refine All.ofThird (by assumption) ?_)
    | (with_reducible refine All.ofSome (by assumption) ?_)
    | (with_reducible refine All.ofSomeFst (by assumption) ?_)
    | (with_reducible refine All.ofOk (by assumption) ?_)
    | split

theorem State.sendAudited_steady {fx : Fixed} (s : State) (w : Waiter) (r : Reply) (outcome : Option Nat) (hs1 : All (Steady fx) s) :
    All (Steady fx) (State.sendAudited s w r outcome) := by
  unfold State.sendAudited
  repeat' first
    | with_reducible assumption
    | with_reducible apply State.audit_steady
    | with_reducible apply State.sendReply_steady
    | with_reducible refine All.branch (fun _ => ?_) (fun _ => ?_)
    | with_reducible exact All.none
    | with_reducible exact All.noneFst
    | with_reducible refine All.some ?_
    | with_reducible refine All.someFst ?_
    | (with_reducible refine All.ofFst (by assumption) ?_)
    | (with_reducible refine All.ofSnd (by assumption) ?_)
    | (with_reducible refine All.ofMid (by assumption) ?_)
    | (with_reducible refine All.ofThird (by assumption) ?_)
    | (with_reducible refine All.ofSome (by assumption) ?_)
    | (with_reducible refine All.ofSomeFst (by assumption) ?_)
    | (with_reducible refine All.ofOk (by assumption) ?_)
    | split

theorem State.firstReply_steady {fx : Fixed} (s : State) (w : Waiter) (r : Reply) (outcome : Option Nat) (hs1 : All (Steady fx) s) :
    All (Steady fx) (State.firstReply s w r outcome) := by
  unfold State.firstReply
  repeat' first
    | with_reducible assumption
    | with_reducible apply State.sendAudited_steady
    | with_reducible refine All.branch (fun _ => ?_) (fun _ => ?_)
    | with_reducible exact All.none
    | with_reducible exact All.noneFst
    | with_reducible refine All.some ?_
    | with_reducible refine All.someFst ?_
    | (with_reducible refine All.ofFst (by assumption) ?_)
    | (with_reducible refine All.ofSnd (by assumption) ?_)
    | (with_reducible refine All.ofMid (by assumption) ?_)
    | (with_reducible refine All.ofThird (by assumption) ?_)
    | (with_reducible refine All.ofSome (by assumption) ?_)
    | (with_reducible refine All.ofSomeFst (by assumption) ?_)
    | (with_reducible refine All.ofOk (by assumption) ?_)
    | split
    | with_reducible refine All.pair ?_
    | with_reducible refine All.pairSnd ?_
    | with_reducible refine All.mid ?_
    | with_reducible refine All.third ?_
    | fail_if_no_progress (with_reducible refine All.upd ?_ (by rfl) (by rfl) (by rfl) (by rfl) (by rfl))

theorem State.complete_steady {fx : Fixed} (s : State) (w : Waiter) (status detail : Nat) (results : List Byte) (hs1 : All (Steady fx) s) :
    All (Steady fx) (State.complete s w status detail results) := by
  unfold State.complete
  repeat' first
    | with_reducible assumption
    | with_reducible apply State.keepReply_steady
    | with_reducible apply State.sendAudited_steady
    | with_reducible refine All.branch (fun _ => ?_) (fun _ => ?_)
    | with_reducible exact All.none
    | with_reducible exact All.noneFst
    | with_reducible refine All.some ?_
    | with_reducible refine All.someFst ?_
    | fail_if_no_progress (with_reducible refine All.upd ?_ (by rfl) (by rfl) (by rfl) (by rfl) (by rfl))

/-! ### FaultOps -/

theorem State.modLine_steady {fx : Fixed} (s : State) (n : Nat) (f : FltLine → FltLine) (hs1 : All (Steady fx) s) :
    All (Steady fx) (State.modLine s n f) := by
  unfold State.modLine
  repeat' first
    | with_reducible assumption
    | intro _ _
    | fail_if_no_progress (with_reducible refine All.upd ?_ (by rfl) (by rfl) (by rfl) (by rfl) (by rfl))

theorem State.capture_steady {fx : Fixed} (s : State) (n : Nat) (src : BitVec 13) (hs1 : All (Steady fx) s) :
    All (Steady fx) (State.capture s n src) := by
  unfold State.capture
  repeat' first
    | with_reducible assumption
    | with_reducible apply State.modLine_steady
    | with_reducible refine All.branch (fun _ => ?_) (fun _ => ?_)
    | intro _ _
    | fail_if_no_progress (with_reducible refine All.upd ?_ (by rfl) (by rfl) (by rfl) (by rfl) (by rfl))

theorem State.gasp_steady {fx : Fixed} (s : State) (cause line : Nat) (src : BitVec 13) (hs1 : All (Steady fx) s) :
    All (Steady fx) (State.gasp s cause line src) := by
  unfold State.gasp
  repeat' first
    | with_reducible assumption
    | fail_if_no_progress (with_reducible refine All.upd ?_ (by rfl) (by rfl) (by rfl) (by rfl) (by rfl))

theorem State.stopTransmit_steady {fx : Fixed} (s : State) (hs1 : All (Steady fx) s) :
    All (Steady fx) (State.stopTransmit s) := by
  unfold State.stopTransmit
  repeat' first
    | with_reducible assumption
    | with_reducible apply State.finishAll_steady
    | with_reducible refine All.branch (fun _ => ?_) (fun _ => ?_)
    | with_reducible refine All.folded ?_ (fun _ _ _ => ?_)

theorem State.stopContext_steady {fx : Fixed} (s : State) (p : CmdPort) (hs1 : All (Steady fx) s) :
    All (Steady fx) (State.stopContext s p) := by
  unfold State.stopContext
  repeat' first
    | with_reducible assumption
    | with_reducible apply State.modCtx_steady
    | with_reducible apply State.sendReply_steady
    | with_reducible refine All.branch (fun _ => ?_) (fun _ => ?_)
    | with_reducible exact All.none
    | with_reducible exact All.noneFst
    | with_reducible refine All.some ?_
    | with_reducible refine All.someFst ?_
    | (with_reducible refine All.ofFst (by assumption) ?_)
    | (with_reducible refine All.ofSnd (by assumption) ?_)
    | (with_reducible refine All.ofMid (by assumption) ?_)
    | (with_reducible refine All.ofThird (by assumption) ?_)
    | (with_reducible refine All.ofSome (by assumption) ?_)
    | (with_reducible refine All.ofSomeFst (by assumption) ?_)
    | (with_reducible refine All.ofOk (by assumption) ?_)
    | split
    | (dsimp only; split)

theorem State.stopContexts_steady {fx : Fixed} (s : State) (hs1 : All (Steady fx) s) :
    All (Steady fx) (State.stopContexts s) := by
  unfold State.stopContexts
  repeat' first
    | with_reducible assumption
    | with_reducible apply State.stopContext_steady
    | with_reducible refine All.folded ?_ (fun _ _ _ => ?_)

theorem State.enterSafe_steady {fx : Fixed} (s : State) (cause line : Nat) (src : BitVec 13) (thermal : Bool) (hs1 : All (Steady fx) s) :
    All (Steady fx) (State.enterSafe s cause line src thermal) := by
  unfold State.enterSafe
  repeat' first
    | with_reducible assumption
    | with_reducible apply State.modChan_steady
    | with_reducible apply State.emit_steady
    | with_reducible apply State.cabinetSafe_steady
    | with_reducible apply State.powerDown_steady
    | with_reducible apply State.gasp_steady
    | with_reducible apply State.stopTransmit_steady
    | with_reducible apply State.stopContexts_steady
    | with_reducible refine All.branch (fun _ => ?_) (fun _ => ?_)
    | with_reducible refine All.folded ?_ (fun _ _ _ => ?_)
    | intro _ _
    | fail_if_no_progress (with_reducible refine All.upd ?_ (by rfl) (by rfl) (by rfl) (by rfl) (by rfl))

theorem State.sendFeed_steady {fx : Fixed} (s : State) (f : Nat) (c : FeedChange) (hs1 : All (Steady fx) s) :
    All (Steady fx) (State.sendFeed s f c) := by
  unfold State.sendFeed
  repeat' first
    | with_reducible assumption
    | with_reducible apply State.emit_steady
    | with_reducible refine All.branch (fun _ => ?_) (fun _ => ?_)

theorem State.clearFeed_steady {fx : Fixed} (s : State) (f : Nat) (hs1 : All (Steady fx) s) :
    All (Steady fx) (State.clearFeed s f) := by
  unfold State.clearFeed
  repeat' first
    | with_reducible assumption
    | with_reducible apply State.modFeed_steady

theorem State.contain_steady {fx : Fixed} (s : State) (n : Nat) (src : Nat) (hs1 : All (Steady fx) s) :
    All (Steady fx) (State.contain s n src) := by
  unfold State.contain
  repeat' first
    | with_reducible assumption
    | with_reducible apply State.modMacro_steady
    | with_reducible apply State.chanLeave_steady
    | with_reducible apply State.islandFault_steady
    | with_reducible apply State.modLine_steady
    | with_reducible apply State.sendFeed_steady
    | with_reducible apply State.clearFeed_steady
    | with_reducible refine All.branch (fun _ => ?_) (fun _ => ?_)
    | with_reducible exact All.none
    | with_reducible exact All.noneFst
    | with_reducible refine All.some ?_
    | with_reducible refine All.someFst ?_
    | (with_reducible refine All.ofFst (by assumption) ?_)
    | (with_reducible refine All.ofSnd (by assumption) ?_)
    | (with_reducible refine All.ofMid (by assumption) ?_)
    | (with_reducible refine All.ofThird (by assumption) ?_)
    | (with_reducible refine All.ofSome (by assumption) ?_)
    | (with_reducible refine All.ofSomeFst (by assumption) ?_)
    | (with_reducible refine All.ofOk (by assumption) ?_)
    | split
    | intro _ _
    | fail_if_no_progress (with_reducible refine All.upd ?_ (by rfl) (by rfl) (by rfl) (by rfl) (by rfl))

theorem State.startGrace_steady {fx : Fixed} (s : State) (n : Nat) (src : BitVec 13) (hs1 : All (Steady fx) s) :
    All (Steady fx) (State.startGrace s n src) := by
  unfold State.startGrace
  repeat' first
    | with_reducible assumption
    | split
    | fail_if_no_progress (with_reducible refine All.upd ?_ (by rfl) (by rfl) (by rfl) (by rfl) (by rfl))

theorem State.actAt_steady {fx : Fixed} (s : State) (n : Nat) (src : BitVec 13) (sev : Nat) (hs1 : All (Steady fx) s) :
    All (Steady fx) (State.actAt s n src sev) := by
  unfold State.actAt
  repeat' first
    | with_reducible assumption
    | with_reducible apply State.raise_steady
    | with_reducible apply State.capture_steady
    | with_reducible apply State.enterSafe_steady
    | with_reducible apply State.contain_steady
    | with_reducible apply State.startGrace_steady
    | with_reducible refine All.branch (fun _ => ?_) (fun _ => ?_)

theorem State.unfence_steady {fx : Fixed} (s : State) (p : Nat) (hs1 : All (Steady fx) s) :
    All (Steady fx) (State.unfence s p) := by
  unfold State.unfence
  repeat' first
    | with_reducible assumption
    | with_reducible apply State.modLine_steady

theorem State.occur_steady {fx : Fixed} (s : State) (n : Nat) (src : BitVec 13) (hs1 : All (Steady fx) s) :
    All (Steady fx) (State.occur s n src) := by
  unfold State.occur
  repeat' first
    | with_reducible assumption
    | with_reducible apply State.modLine_steady
    | with_reducible apply State.capture_steady
    | with_reducible apply State.actAt_steady
    | with_reducible refine All.branch (fun _ => ?_) (fun _ => ?_)

theorem State.chanFail_steady {fx : Fixed} (s : State) (k : Nat) (cause : BitVec 4) (hs1 : All (Steady fx) s) :
    All (Steady fx) (State.chanFail s k cause) := by
  unfold State.chanFail
  repeat' first
    | with_reducible assumption
    | with_reducible apply State.chanLeave_steady
    | with_reducible apply State.occur_steady
    | with_reducible refine All.branch (fun _ => ?_) (fun _ => ?_)

/-! ### CmdOps -/

theorem ok_steady {fx : Fixed} (s : State) (results : List Byte) (hs1 : All (Steady fx) s) :
    All (SteadyDone fx) (ok s results) := by
  unfold ok
  repeat' first
    | with_reducible assumption
    | with_reducible refine All.done ?_

theorem pendingReply_steady {fx : Fixed} (s : State) (hs1 : All (Steady fx) s) :
    All (SteadyDone fx) (pendingReply s) := by
  unfold pendingReply
  repeat' first
    | with_reducible assumption
    | with_reducible refine All.done ?_

theorem badLength_steady {fx : Fixed} (s : State) (detail : Nat) (hs1 : All (Steady fx) s) :
    All (SteadyDone fx) (badLength s detail) := by
  unfold badLength
  repeat' first
    | with_reducible assumption
    | with_reducible refine All.done ?_

theorem busy_steady {fx : Fixed} (s : State) (detail : Nat) (hs1 : All (Steady fx) s) :
    All (SteadyDone fx) (busy s detail) := by
  unfold busy
  repeat' first
    | with_reducible assumption
    | with_reducible refine All.done ?_

theorem noResource_steady {fx : Fixed} (s : State) (hs1 : All (Steady fx) s) :
    All (SteadyDone fx) (noResource s) := by
  unfold noResource
  repeat' first
    | with_reducible assumption
    | with_reducible refine All.done ?_

theorem State.authFail_steady {fx : Fixed} (s : State) (w : Waiter) (hs1 : All (Steady fx) s) :
    All (Steady fx) (State.authFail s w) := by
  unfold State.authFail
  repeat' first
    | with_reducible assumption
    | with_reducible apply State.modCmdRing_steady
    | with_reducible apply State.raise_steady
    | with_reducible apply State.occur_steady
    | with_reducible refine All.branch (fun _ => ?_) (fun _ => ?_)
    | intro _ _
    | fail_if_no_progress (with_reducible refine All.upd ?_ (by rfl) (by rfl) (by rfl) (by rfl) (by rfl))

theorem finishCmd_steady {fx : Fixed} (w : Waiter) (d : Done) (hs1 : All (SteadyDone fx) d) :
    All (Steady fx) (finishCmd w d) := by
  unfold finishCmd
  repeat' first
    | with_reducible assumption
    | with_reducible apply State.audit_steady
    | with_reducible apply State.keepReply_steady
    | with_reducible apply State.firstReply_steady
    | with_reducible apply State.authFail_steady
    | with_reducible refine All.branch (fun _ => ?_) (fun _ => ?_)
    | (with_reducible apply All.doneSt; first | with_reducible assumption)

theorem State.unqueue_steady {fx : Fixed} (s : State) (op : Nat) (p : Pkt) (hs1 : All (Steady fx) s) :
    All (Steady fx) (State.unqueue s op p) := by
  unfold State.unqueue
  repeat' first
    | with_reducible assumption
    | with_reducible apply State.modCmdRing_steady
    | with_reducible refine All.branch (fun _ => ?_) (fun _ => ?_)
    | split
    | intro _ _
    | fail_if_no_progress (with_reducible refine All.upd ?_ (by rfl) (by rfl) (by rfl) (by rfl) (by rfl))

theorem State.holdPacket_steady {fx : Fixed} (s : State) (op : Nat) (p : Pkt) (hs1 : All (Steady fx) s) :
    All (Steady fx) (State.holdPacket s op p) := by
  unfold State.holdPacket
  repeat' first
    | with_reducible assumption
    | with_reducible refine All.branch (fun _ => ?_) (fun _ => ?_)
    | split
    | fail_if_no_progress (with_reducible refine All.upd ?_ (by rfl) (by rfl) (by rfl) (by rfl) (by rfl))

theorem State.mirrorOut_steady {fx : Fixed} (s : State) (op : Nat) (p : Pkt) (tN : Nat) (w : Waiter) (hs1 : All (Steady fx) s) :
    All (Steady fx) (State.mirrorOut s op p tN w) := by
  unfold State.mirrorOut
  repeat' first
    | with_reducible assumption
    | with_reducible apply State.emit_steady
    | with_reducible refine All.branch (fun _ => ?_) (fun _ => ?_)
    | split
    | fail_if_no_progress (with_reducible refine All.upd ?_ (by rfl) (by rfl) (by rfl) (by rfl) (by rfl))

theorem State.engineUse_steady {fx : Fixed} (s : State) (hs1 : All (Steady fx) s) :
    All (Steady fx) (State.engineUse s) := by
  unfold State.engineUse
  repeat' first
    | with_reducible assumption
    | fail_if_no_progress (with_reducible refine All.upd ?_ (by rfl) (by rfl) (by rfl) (by rfl) (by rfl))

/-- A key-slot command passes its checks only under an owner key (15_commands R370, R371). -/
theorem State.authCheck_owner {s : State} {op : Nat} {p : Pkt} (ho : op = 0x0700 ∨ op = 0x0701)
    (h : s.authCheck op p = none) : (s.key 0).key ≠ none := by
  intro hn
  have hc : critical op = true := by rcases ho with rfl | rfl <;> rfl
  have hp : slotPermitted op p.keySlot.toNat = (p.keySlot.toNat == 0) := by
    unfold slotPermitted; rw [if_pos ho]
  unfold State.authCheck at h
  dsimp only at h
  split at h
  · cases h
  split at h
  · cases h
  split at h
  · cases h
  split at h
  · rw [hc, if_pos (.inl rfl)] at h; cases h
  split at h
  · cases h
  · rename_i hq
    rw [hp] at hq
    have hz : p.keySlot.toNat = 0 := by
      by_contra hz
      exact hq (.inr (by simp [hz]))
    rw [hz] at h
    have hk : s.checkKey 0 = none := by unfold State.checkKey; rw [hn]
    rw [hk] at h
    cases h

/-- What a command packet does: it is refused, held, discarded or answered from its kept reply, or its handler runs on a steady state,
its format checked, and with an owner key present where it names key slots. -/
theorem State.runCommand_steadyOf {fx : Fixed} (s : State) (op : Nat) (p : Pkt) (wf : List Byte → State → Bool) (h : Handler)
    (hs1 : All (Steady fx) s)
    (hs2 : ∀ w t u, wf p.params t = true → (op = 0x0700 ∨ op = 0x0701 → fx.owner ≠ none) → All (Steady fx) u →
      All (SteadyDone fx) (h w p p.params u)) :
    All (Steady fx) (s.runCommand op p wf h) := by
  unfold State.runCommand
  have h0 : All (Steady fx) (s.at_ p.at8.val) := State.at__steady _ _ hs1
  generalize s.at_ p.at8.val = s at h0
  refine All.branch (fun _ => h0) fun _ => All.branch (fun _ => State.holdPacket_steady _ _ _ h0) fun _ => ?_
  have h1 : All (Steady fx) (s.unqueue op p).engineUse := State.engineUse_steady _ (State.unqueue_steady _ _ _ h0)
  dsimp only
  generalize (s.unqueue op p).engineUse = s at h1
  refine All.branch (fun _ => All.upd h1 rfl rfl rfl rfl rfl) fun _ => ?_
  split
  · split
    · exact State.sendReply_steady _ _ _ (All.upd h1 rfl rfl rfl rfl rfl)
    · exact All.upd h1 rfl rfl rfl rfl rfl
  · split
    · exact finishCmd_steady _ _ (All.done h1)
    · rename_i hau
      have hown : op = 0x0700 ∨ op = 0x0701 → fx.owner ≠ none := fun ho => h1.owner ▸ State.authCheck_owner ho hau
      have h2 : All (Steady fx) (if p.trailer then s.modKey p.keySlot.toNat fun k => { k with counter := p.counter } else s) :=
        All.branch (fun _ => State.modKey_counter_steady _ _ h1) fun _ => h1
      generalize (if p.trailer then s.modKey p.keySlot.toNat fun k => { k with counter := p.counter } else s) = s at h2
      refine All.branch (fun _ => finishCmd_steady _ _ (badLength_steady _ _ h2)) fun hwf => ?_
      have hw : wf p.params s = true := by
        cases hb : wf p.params s
        · exact absurd (by rw [hb]; rfl) hwf
        · rfl
      refine All.branch (fun _ => finishCmd_steady _ _ (All.done h2)) fun _ => ?_
      have h3 : ∀ (c : Prop) [Decidable c] (ks : List Kept) (n : BitVec 64), All (Steady fx)
          (if c then ({ s with cmd := { s.cmd with executed := n, kept := ks } } : State)
           else ({ s with cmd := { s.cmd with executed := n } } : State)) := fun c _ ks n =>
        All.branch (fun _ => All.upd h2 rfl rfl rfl rfl rfl) fun _ => All.upd h2 rfl rfl rfl rfl rfl
      refine All.branch (fun _ => finishCmd_steady _ _ (busy_steady _ _ (h3 _ _ _))) fun _ => ?_
      have h4 : ∀ w u, All (Steady fx) u → All (SteadyDone fx) (h w p p.params u) := fun w u hu => hs2 w s u hw hown hu
      refine All.branch (fun _ => h4 _ _ (State.mirrorOut_steady _ _ _ _ _ (h3 _ _ _))) fun _ =>
        All.branch (fun _ => State.firstReply_steady _ _ _ _ ?_) fun _ =>
          finishCmd_steady _ _ (h4 _ _ (State.mirrorOut_steady _ _ _ _ _ (h3 _ _ _)))
      exact All.upd (All.doneSt (h4 _ _ (State.mirrorOut_steady _ _ _ _ _ (h3 _ _ _)))) rfl rfl rfl rfl rfl

/-- A command packet whose handler leaves every steady state steady. -/
theorem State.runCommand_steady {fx : Fixed} (s : State) (op : Nat) (p : Pkt) (wf : List Byte → State → Bool) (h : Handler)
    (hs1 : All (Steady fx) s) (hs2 : ∀ w q ps u, All (Steady fx) u → All (SteadyDone fx) (h w q ps u)) :
    All (Steady fx) (s.runCommand op p wf h) := by
  exact State.runCommand_steadyOf s op p wf h hs1 fun w _ u _ _ hu => hs2 w p p.params u hu

end Sys2Proof.Machine
end

