-- ==== Sys2Proof/Laws/SteadyTime.lean ====
section
/-!
SUPPORT. Every operation of the system commands, faults, monitors, time and the timetables keeps `Steady`: one lemma each.
-/

namespace Sys2Proof.Machine

/-! ### System -/

theorem doNop_steady {fx : Fixed} (b0 : Waiter) (b1 : Pkt) (b2 : List Byte) (b3 : State) (hs1 : All (Steady fx) b3) :
    All (SteadyDone fx) (doNop b0 b1 b2 b3) := by
  unfold doNop
  repeat' first
    | with_reducible assumption
    | with_reducible apply ok_steady

theorem execNop_steady {fx : Fixed} (p : Pkt) (s : State) (hs1 : All (Steady fx) s) :
    All (SteadyAns fx) (execNop p s) := by
  unfold execNop
  repeat' first
    | with_reducible assumption
    | with_reducible apply State.runCommand_steady
    | with_reducible apply doNop_steady
    | with_reducible refine All.next ?_

theorem doIdentify_steady {fx : Fixed} (b0 : Waiter) (b1 : Pkt) (b2 : List Byte) (b3 : State) (hs1 : All (Steady fx) b3) :
    All (SteadyDone fx) (doIdentify b0 b1 b2 b3) := by
  unfold doIdentify
  repeat' first
    | with_reducible assumption
    | with_reducible apply ok_steady

theorem execIdentify_steady {fx : Fixed} (p : Pkt) (s : State) (hs1 : All (Steady fx) s) :
    All (SteadyAns fx) (execIdentify p s) := by
  unfold execIdentify
  repeat' first
    | with_reducible assumption
    | with_reducible apply State.runCommand_steady
    | with_reducible apply doIdentify_steady
    | with_reducible refine All.next ?_

theorem doReadState_steady {fx : Fixed} (b0 : Waiter) (b1 : Pkt) (b2 : List Byte) (b3 : State) (hs1 : All (Steady fx) b3) :
    All (SteadyDone fx) (doReadState b0 b1 b2 b3) := by
  unfold doReadState
  repeat' first
    | with_reducible assumption
    | with_reducible apply ok_steady

theorem execReadState_steady {fx : Fixed} (p : Pkt) (s : State) (hs1 : All (Steady fx) s) :
    All (SteadyAns fx) (execReadState p s) := by
  unfold execReadState
  repeat' first
    | with_reducible assumption
    | with_reducible apply State.runCommand_steady
    | with_reducible apply doReadState_steady
    | with_reducible refine All.next ?_

theorem doMonitorRead_steady {fx : Fixed} (b0 : Waiter) (b1 : Pkt) (b2 : List Byte) (b3 : State) (hs1 : All (Steady fx) b3) :
    All (SteadyDone fx) (doMonitorRead b0 b1 b2 b3) := by
  unfold doMonitorRead
  repeat' first
    | with_reducible assumption
    | with_reducible apply ok_steady

theorem execMonitorRead_steady {fx : Fixed} (p : Pkt) (s : State) (hs1 : All (Steady fx) s) :
    All (SteadyAns fx) (execMonitorRead p s) := by
  unfold execMonitorRead
  repeat' first
    | with_reducible assumption
    | with_reducible apply State.runCommand_steady
    | with_reducible apply doMonitorRead_steady
    | with_reducible refine All.next ?_

theorem doCounterRead_steady {fx : Fixed} (b0 : Waiter) (b1 : Pkt) (b2 : List Byte) (b3 : State) (hs1 : All (Steady fx) b3) :
    All (SteadyDone fx) (doCounterRead b0 b1 b2 b3) := by
  unfold doCounterRead
  repeat' first
    | with_reducible assumption
    | with_reducible apply ok_steady

theorem execCounterRead_steady {fx : Fixed} (p : Pkt) (s : State) (hs1 : All (Steady fx) s) :
    All (SteadyAns fx) (execCounterRead p s) := by
  unfold execCounterRead
  repeat' first
    | with_reducible assumption
    | with_reducible apply State.runCommand_steady
    | with_reducible apply doCounterRead_steady
    | with_reducible refine All.next ?_

/-- A key is installed in a slot other than the owner's, under an owner key. -/
theorem doKeyInstall_steady {fx : Fixed} {t : State} (b0 : Waiter) (b1 : Pkt) (b2 : List Byte) (b3 : State) (hw : wfKeyInstall b2 t = true)
    (ho : fx.owner ≠ none) (hs1 : All (Steady fx) b3) : All (SteadyDone fx) (doKeyInstall b0 b1 b2 b3) := by
  unfold doKeyInstall
  have hk : fld (img b2) 0 3 ≠ 0 := by
    unfold wfKeyInstall at hw
    simp only [Bool.and_eq_true, decide_eq_true_eq] at hw
    omega
  dsimp only
  split
  · exact All.done hs1
  · exact All.branch (fun _ => busy_steady _ _ hs1) fun _ => ok_steady _ _
      (State.modKey_steady _ _ hs1 (fun e => absurd e hk) fun e => absurd e ho)

theorem execKeyInstall_steady {fx : Fixed} (p : Pkt) (s : State) (hs1 : All (Steady fx) s) :
    All (SteadyAns fx) (execKeyInstall p s) := by
  exact All.next (State.runCommand_steadyOf _ _ _ _ _ hs1 fun w t u hw ho hu =>
    doKeyInstall_steady w _ _ u hw (ho (.inl rfl)) hu)

/-- A slot other than the owner's is emptied. -/
theorem doKeyRetire_steady {fx : Fixed} {t : State} (b0 : Waiter) (b1 : Pkt) (b2 : List Byte) (b3 : State)
    (hw : wfKeyRetire b2 t = true) (hs1 : All (Steady fx) b3) : All (SteadyDone fx) (doKeyRetire b0 b1 b2 b3) := by
  unfold doKeyRetire
  have hk : fld (img b2) 0 3 ≠ 0 := by
    unfold wfKeyRetire at hw
    simp only [Bool.and_eq_true, decide_eq_true_eq] at hw
    unfold fld
    have : img b2 % 2 ^ 3 = img b2 := Nat.mod_eq_of_lt (by omega)
    omega
  exact All.branch (fun _ => busy_steady _ _ hs1) fun _ => ok_steady _ _
    (State.modKey_steady _ _ hs1 (fun e => absurd e hk) fun _ => rfl)

theorem execKeyRetire_steady {fx : Fixed} (p : Pkt) (s : State) (hs1 : All (Steady fx) s) :
    All (SteadyAns fx) (execKeyRetire p s) := by
  exact All.next (State.runCommand_steadyOf _ _ _ _ _ hs1 fun w t u hw _ hu => doKeyRetire_steady w _ _ u hw hu)

theorem doSelftest_steady {fx : Fixed} (b0 : Waiter) (b1 : Pkt) (b2 : List Byte) (b3 : State) (hs1 : All (Steady fx) b3) :
    All (SteadyDone fx) (doSelftest b0 b1 b2 b3) := by
  unfold doSelftest
  repeat' first
    | with_reducible assumption
    | with_reducible apply State.modLine_steady
    | with_reducible apply State.actAt_steady
    | with_reducible apply pendingReply_steady
    | with_reducible apply busy_steady
    | with_reducible refine All.branch (fun _ => ?_) (fun _ => ?_)
    | intro _ _
    | fail_if_no_progress (with_reducible refine All.upd ?_ (by rfl) (by rfl) (by rfl) (by rfl) (by rfl))

theorem State.selftestRow_steady {fx : Fixed} (s : State) (op : Nat) (p : Pkt) (hs1 : All (Steady fx) s) :
    All (Steady fx) (State.selftestRow s op p) := by
  unfold State.selftestRow
  repeat' first
    | with_reducible assumption
    | with_reducible apply State.runCommand_steady
    | with_reducible apply doSelftest_steady

theorem execSelftestMonitors_steady {fx : Fixed} (p : Pkt) (s : State) (hs1 : All (Steady fx) s) :
    All (SteadyAns fx) (execSelftestMonitors p s) := by
  unfold execSelftestMonitors
  repeat' first
    | with_reducible assumption
    | with_reducible apply State.selftestRow_steady
    | with_reducible refine All.next ?_

theorem execSelftestFaultInject_steady {fx : Fixed} (p : Pkt) (s : State) (hs1 : All (Steady fx) s) :
    All (SteadyAns fx) (execSelftestFaultInject p s) := by
  unfold execSelftestFaultInject
  repeat' first
    | with_reducible assumption
    | with_reducible apply State.selftestRow_steady
    | with_reducible refine All.next ?_

theorem execSelftestDramResweep_steady {fx : Fixed} (p : Pkt) (s : State) (hs1 : All (Steady fx) s) :
    All (SteadyAns fx) (execSelftestDramResweep p s) := by
  unfold execSelftestDramResweep
  repeat' first
    | with_reducible assumption
    | with_reducible apply State.selftestRow_steady
    | with_reducible refine All.next ?_

theorem execSelftestDramBist_steady {fx : Fixed} (p : Pkt) (s : State) (hs1 : All (Steady fx) s) :
    All (SteadyAns fx) (execSelftestDramBist p s) := by
  unfold execSelftestDramBist
  repeat' first
    | with_reducible assumption
    | with_reducible apply State.selftestRow_steady
    | with_reducible refine All.next ?_

theorem execSelftestSerdesPrbs_steady {fx : Fixed} (p : Pkt) (s : State) (hs1 : All (Steady fx) s) :
    All (SteadyAns fx) (execSelftestSerdesPrbs p s) := by
  unfold execSelftestSerdesPrbs
  repeat' first
    | with_reducible assumption
    | with_reducible apply State.selftestRow_steady
    | with_reducible refine All.next ?_

theorem execSelftestPipeline_steady {fx : Fixed} (p : Pkt) (s : State) (hs1 : All (Steady fx) s) :
    All (SteadyAns fx) (execSelftestPipeline p s) := by
  unfold execSelftestPipeline
  repeat' first
    | with_reducible assumption
    | with_reducible apply State.selftestRow_steady
    | with_reducible refine All.next ?_

theorem State.resweepEnd_steady {fx : Fixed} (s : State) (k : Nat) (sweeps : List (Fin 16 × Training)) (hs1 : All (Steady fx) s) :
    All (Steady fx) (State.resweepEnd s k sweeps) := by
  unfold State.resweepEnd
  repeat' first
    | with_reducible assumption
    | with_reducible apply State.modChan_steady
    | with_reducible apply State.chanFail_steady
    | with_reducible refine All.branch (fun _ => ?_) (fun _ => ?_)
    | with_reducible exact All.none
    | with_reducible exact All.noneFst
    | with_reducible refine All.some ?_
    | with_reducible refine All.someFst ?_
    | (with_reducible refine All.ofFst (by assumption) ?_)
    | (with_reducible refine All.ofSnd (by assumption) ?_)
    | (with_reducible refine All.ofMid (by assumption) ?_)
    | (with_reducible refine All.ofThird (by assumption) ?_)
    | (with_reducible refine All.ofSome (by assumption) ?_)
    | (with_reducible refine All.ofSomeFst (by assumption) ?_)
    | (with_reducible refine All.ofOk (by assumption) ?_)
    | split
    | intro _ _
    | fail_if_no_progress (with_reducible refine All.upd ?_ (by rfl) (by rfl) (by rfl) (by rfl) (by rfl))

theorem State.selftestEnd_steady {fx : Fixed} (s : State) (pass : Nat) (sweeps : List (Fin 16 × Training)) (hs1 : All (Steady fx) s) :
    All (Steady fx) (State.selftestEnd s pass sweeps) := by
  unfold State.selftestEnd
  repeat' first
    | with_reducible assumption
    | with_reducible apply State.complete_steady
    | with_reducible apply State.modLine_steady
    | with_reducible apply State.resweepEnd_steady
    | with_reducible refine All.branch (fun _ => ?_) (fun _ => ?_)
    | with_reducible exact All.none
    | with_reducible exact All.noneFst
    | with_reducible refine All.some ?_
    | with_reducible refine All.someFst ?_
    | with_reducible refine All.folded ?_ (fun _ _ _ => ?_)
    | (with_reducible refine All.ofFst (by assumption) ?_)
    | (with_reducible refine All.ofSnd (by assumption) ?_)
    | (with_reducible refine All.ofMid (by assumption) ?_)
    | (with_reducible refine All.ofThird (by assumption) ?_)
    | (with_reducible refine All.ofSome (by assumption) ?_)
    | (with_reducible refine All.ofSomeFst (by assumption) ?_)
    | (with_reducible refine All.ofOk (by assumption) ?_)
    | split
    | intro _ _
    | fail_if_no_progress (with_reducible refine All.upd ?_ (by rfl) (by rfl) (by rfl) (by rfl) (by rfl))

theorem execSelftestComplete_steady {fx : Fixed} (pass : BitVec 64) (sweeps : List (Fin 16 × Training)) (s : State) (hs1 : All (Steady fx) s) :
    All (SteadyAns fx) (execSelftestComplete pass sweeps s) := by
  unfold execSelftestComplete
  repeat' first
    | with_reducible assumption
    | with_reducible apply State.selftestEnd_steady
    | with_reducible refine All.branch (fun _ => ?_) (fun _ => ?_)
    | with_reducible refine All.next ?_

/-! ### Faults -/

theorem doFaultConfig_steady {fx : Fixed} (b0 : Waiter) (b1 : Pkt) (b2 : List Byte) (b3 : State) (hs1 : All (Steady fx) b3) :
    All (SteadyDone fx) (doFaultConfig b0 b1 b2 b3) := by
  unfold doFaultConfig
  repeat' first
    | with_reducible assumption
    | with_reducible apply State.modLine_steady
    | with_reducible apply ok_steady

theorem execFaultConfig_steady {fx : Fixed} (p : Pkt) (s : State) (hs1 : All (Steady fx) s) :
    All (SteadyAns fx) (execFaultConfig p s) := by
  unfold execFaultConfig
  repeat' first
    | with_reducible assumption
    | with_reducible apply State.runCommand_steady
    | with_reducible apply doFaultConfig_steady
    | with_reducible refine All.next ?_

theorem State.liftContainment_steady {fx : Fixed} (s : State) (n : Nat) (hs1 : All (Steady fx) s) :
    All (Steady fx) (State.liftContainment s n) := by
  unfold State.liftContainment
  repeat' first
    | with_reducible assumption
    | with_reducible apply State.modMacro_steady
    | with_reducible apply State.modLine_steady
    | with_reducible refine All.branch (fun _ => ?_) (fun _ => ?_)
    | with_reducible refine All.folded ?_ (fun _ _ _ => ?_)
    | intro _ _
    | fail_if_no_progress (with_reducible refine All.upd ?_ (by rfl) (by rfl) (by rfl) (by rfl) (by rfl))

theorem State.settleGrace_steady {fx : Fixed} (s : State) (hs1 : All (Steady fx) s) :
    All (Steady fx) (State.settleGrace s) := by
  unfold State.settleGrace
  repeat' first
    | with_reducible assumption
    | with_reducible refine All.branch (fun _ => ?_) (fun _ => ?_)
    | intro _ _
    | fail_if_no_progress (with_reducible refine All.upd ?_ (by rfl) (by rfl) (by rfl) (by rfl) (by rfl))

theorem State.occurAt_steady {fx : Fixed} (s : State) (n : Nat) (src : BitVec 13) (hs1 : All (Steady fx) s) :
    All (Steady fx) (State.occurAt s n src) := by
  unfold State.occurAt
  repeat' first
    | with_reducible assumption
    | with_reducible apply State.occur_steady
    | with_reducible refine All.branch (fun _ => ?_) (fun _ => ?_)

theorem doFaultRelease_steady {fx : Fixed} (b0 : Waiter) (b1 : Pkt) (b2 : List Byte) (b3 : State) (hs1 : All (Steady fx) b3) :
    All (SteadyDone fx) (doFaultRelease b0 b1 b2 b3) := by
  unfold doFaultRelease
  repeat' first
    | with_reducible assumption
    | with_reducible apply State.modLine_steady
    | with_reducible apply ok_steady
    | with_reducible apply busy_steady
    | with_reducible apply State.liftContainment_steady
    | with_reducible apply State.settleGrace_steady
    | with_reducible apply State.occurAt_steady
    | with_reducible refine All.branch (fun _ => ?_) (fun _ => ?_)
    | with_reducible refine All.folded ?_ (fun _ _ _ => ?_)
    | intro _ _
    | fail_if_no_progress (with_reducible refine All.upd ?_ (by rfl) (by rfl) (by rfl) (by rfl) (by rfl))

theorem execFaultRelease_steady {fx : Fixed} (p : Pkt) (s : State) (hs1 : All (Steady fx) s) :
    All (SteadyAns fx) (execFaultRelease p s) := by
  unfold execFaultRelease
  repeat' first
    | with_reducible assumption
    | with_reducible apply State.runCommand_steady
    | with_reducible apply doFaultRelease_steady
    | with_reducible refine All.next ?_

theorem State.stagedLost_steady {fx : Fixed} (s : State) (hs1 : All (Steady fx) s) :
    All (Steady fx) (State.stagedLost s) := by
  unfold State.stagedLost
  repeat' first
    | with_reducible assumption
    | with_reducible apply State.sysLost_steady
    | with_reducible apply State.updatePanic_steady
    | with_reducible apply State.classLoss_steady
    | split
    | fail_if_no_progress (with_reducible refine All.upd ?_ (by rfl) (by rfl) (by rfl) (by rfl) (by rfl))

theorem State.windowClose_steady {fx : Fixed} (s : State) (n : Nat) (hs1 : All (Steady fx) s) :
    All (Steady fx) (State.windowClose s n) := by
  unfold State.windowClose
  repeat' first
    | with_reducible assumption
    | with_reducible apply State.reach_steady
    | with_reducible apply State.modLine_steady
    | split

theorem execFaultWindowClose_steady {fx : Fixed} (line : Fin 48) (s : State) (hs1 : All (Steady fx) s) :
    All (SteadyAns fx) (execFaultWindowClose line s) := by
  unfold execFaultWindowClose
  repeat' first
    | with_reducible assumption
    | with_reducible apply State.windowClose_steady
    | with_reducible refine All.next ?_

theorem State.graceExpires_steady {fx : Fixed} (s : State) (hs1 : All (Steady fx) s) :
    All (Steady fx) (State.graceExpires s) := by
  unfold State.graceExpires
  repeat' first
    | with_reducible assumption
    | with_reducible apply State.enterSafe_steady
    | split

theorem execGraceTimerExpiry_steady {fx : Fixed} (at8 : Fin 3277) (s : State) (hs1 : All (Steady fx) s) :
    All (SteadyAns fx) (execGraceTimerExpiry at8 s) := by
  unfold execGraceTimerExpiry
  repeat' first
    | with_reducible assumption
    | with_reducible apply State.at__steady
    | with_reducible apply State.graceExpires_steady
    | with_reducible refine All.next ?_

theorem State.cmdWatchdog_steady {fx : Fixed} (s : State) (p : CmdPort) (hs1 : All (Steady fx) s) :
    All (Steady fx) (State.cmdWatchdog s p) := by
  unfold State.cmdWatchdog
  repeat' first
    | with_reducible assumption
    | with_reducible apply State.occur_steady
    | with_reducible refine All.branch (fun _ => ?_) (fun _ => ?_)

theorem execCmdWatchdog_steady {fx : Fixed} (ctx : CmdPort) (s : State) (hs1 : All (Steady fx) s) :
    All (SteadyAns fx) (execCmdWatchdog ctx s) := by
  unfold execCmdWatchdog
  repeat' first
    | with_reducible assumption
    | with_reducible apply State.cmdWatchdog_steady
    | with_reducible refine All.next ?_

theorem State.looseStatus_steady {fx : Fixed} (s : State) (hs1 : All (Steady fx) s) :
    All (Steady fx) (State.looseStatus s) := by
  unfold State.looseStatus
  repeat' first
    | with_reducible assumption
    | with_reducible apply State.modLine_steady
    | with_reducible refine All.branch (fun _ => ?_) (fun _ => ?_)
    | with_reducible refine All.folded ?_ (fun _ _ _ => ?_)
    | intro _ _
    | fail_if_no_progress (with_reducible refine All.upd ?_ (by rfl) (by rfl) (by rfl) (by rfl) (by rfl))

theorem State.collectorFault_steady {fx : Fixed} (s : State) (cause : Nat) (hs1 : All (Steady fx) s) :
    All (Steady fx) (State.collectorFault s cause) := by
  unfold State.collectorFault
  repeat' first
    | with_reducible assumption
    | with_reducible apply State.enterSafe_steady
    | with_reducible apply State.looseStatus_steady

theorem execMonitorClockLoss_steady {fx : Fixed} (at8 : Fin 3277) (s : State) (hs1 : All (Steady fx) s) :
    All (SteadyAns fx) (execMonitorClockLoss at8 s) := by
  unfold execMonitorClockLoss
  repeat' first
    | with_reducible assumption
    | with_reducible apply State.at__steady
    | with_reducible apply State.collectorFault_steady
    | with_reducible refine All.branch (fun _ => ?_) (fun _ => ?_)
    | with_reducible refine All.next ?_

theorem execCollectorRegisterFault_steady {fx : Fixed} (at8 : Fin 3277) (s : State) (hs1 : All (Steady fx) s) :
    All (SteadyAns fx) (execCollectorRegisterFault at8 s) := by
  unfold execCollectorRegisterFault
  repeat' first
    | with_reducible assumption
    | with_reducible apply State.at__steady
    | with_reducible apply State.collectorFault_steady
    | with_reducible refine All.branch (fun _ => ?_) (fun _ => ?_)
    | with_reducible refine All.next ?_

theorem State.holdoffEnd_steady {fx : Fixed} (s : State) (k : Nat) (hs1 : All (Steady fx) s) :
    All (Steady fx) (State.holdoffEnd s k) := by
  unfold State.holdoffEnd
  repeat' first
    | with_reducible assumption
    | with_reducible apply State.modEvt_steady
    | with_reducible apply State.reach_steady
    | with_reducible apply State.msix_steady
    | with_reducible refine All.branch (fun _ => ?_) (fun _ => ?_)
    | (dsimp only; split)

theorem execEventHoldoffEnd_steady {fx : Fixed} (src : Fin 1536) (s : State) (hs1 : All (Steady fx) s) :
    All (SteadyAns fx) (execEventHoldoffEnd src s) := by
  unfold execEventHoldoffEnd
  repeat' first
    | with_reducible assumption
    | with_reducible apply State.holdoffEnd_steady
    | with_reducible refine All.next ?_

theorem State.sendPending_steady {fx : Fixed} (s : State) (fn : Nat) (hs1 : All (Steady fx) s) :
    All (Steady fx) (State.sendPending s fn) := by
  unfold State.sendPending
  repeat' first
    | with_reducible assumption
    | with_reducible apply State.modFn_steady
    | with_reducible apply State.emit_steady
    | with_reducible apply State.msix_steady
    | with_reducible refine All.branch (fun _ => ?_) (fun _ => ?_)
    | with_reducible refine All.folded ?_ (fun _ _ _ => ?_)

theorem State.msixUnmask_steady {fx : Fixed} (s : State) (fn : Nat) (vec : Option (Fin 536)) (hs1 : All (Steady fx) s) :
    All (Steady fx) (State.msixUnmask s fn vec) := by
  unfold State.msixUnmask
  repeat' first
    | with_reducible assumption
    | with_reducible apply State.modFn_steady
    | with_reducible apply State.sendPending_steady
    | split

theorem execMsixUnmask_steady {fx : Fixed} (fn : Fin 64) (vec : Option (Fin 536)) (s : State) (hs1 : All (Steady fx) s) :
    All (SteadyAns fx) (execMsixUnmask fn vec s) := by
  unfold execMsixUnmask
  repeat' first
    | with_reducible assumption
    | with_reducible apply State.msixUnmask_steady
    | with_reducible refine All.next ?_

theorem State.pllLoss_steady {fx : Fixed} (s : State) (i : Fin 112) (hs1 : All (Steady fx) s) :
    All (Steady fx) (State.pllLoss s i) := by
  unfold State.pllLoss
  repeat' first
    | with_reducible assumption
    | with_reducible apply State.occurAt_steady
    | with_reducible apply State.collectorFault_steady
    | with_reducible refine All.branch (fun _ => ?_) (fun _ => ?_)
    | fail_if_no_progress (with_reducible refine All.upd ?_ (by rfl) (by rfl) (by rfl) (by rfl) (by rfl))

theorem execPllLockLoss_steady {fx : Fixed} (island : Fin 112) (s : State) (hs1 : All (Steady fx) s) :
    All (SteadyAns fx) (execPllLockLoss island s) := by
  unfold execPllLockLoss
  repeat' first
    | with_reducible assumption
    | with_reducible apply State.pllLoss_steady
    | with_reducible refine All.next ?_

/-! ### Monitors -/

theorem State.settleDrift_steady {fx : Fixed} (s : State) (hs1 : All (Steady fx) s) :
    All (Steady fx) (State.settleDrift s) := by
  unfold State.settleDrift
  repeat' first
    | with_reducible assumption
    | with_reducible apply State.raise_steady
    | with_reducible refine All.branch (fun _ => ?_) (fun _ => ?_)
    | fail_if_no_progress (with_reducible refine All.upd ?_ (by rfl) (by rfl) (by rfl) (by rfl) (by rfl))

theorem State.sensorRead_steady {fx : Fixed} (s : State) (k : Nat) (reading : BitVec 16) (hs1 : All (Steady fx) s) :
    All (Steady fx) (State.sensorRead s k reading) := by
  unfold State.sensorRead
  repeat' first
    | with_reducible assumption
    | with_reducible apply State.modSensor_steady
    | with_reducible apply State.occur_steady
    | with_reducible apply State.settleDrift_steady
    | with_reducible refine All.branch (fun _ => ?_) (fun _ => ?_)

theorem execSensorRead_steady {fx : Fixed} (k : Fin 32) (reading : BitVec 16) (at8 : Fin 3277) (s : State) (hs1 : All (Steady fx) s) :
    All (SteadyAns fx) (execSensorRead k reading at8 s) := by
  unfold execSensorRead
  repeat' first
    | with_reducible assumption
    | with_reducible apply State.at__steady
    | with_reducible apply State.sensorRead_steady
    | with_reducible refine All.next ?_

theorem State.shedOne_steady {fx : Fixed} (s : State) (hs1 : All (Steady fx) s) :
    All (Steady fx) (State.shedOne s) := by
  unfold State.shedOne
  repeat' first
    | with_reducible assumption
    | with_reducible apply State.modMacro_steady
    | with_reducible apply State.powerDown_steady
    | with_reducible apply State.islandFault_steady
    | with_reducible refine All.folded ?_ (fun _ _ _ => ?_)
    | split
    | intro _ _
    | fail_if_no_progress (with_reducible refine All.upd ?_ (by rfl) (by rfl) (by rfl) (by rfl) (by rfl))

theorem State.shedCheck_steady {fx : Fixed} (s : State) (hs1 : All (Steady fx) s) :
    All (Steady fx) (State.shedCheck s) := by
  unfold State.shedCheck
  repeat' first
    | with_reducible assumption
    | with_reducible apply State.reach_steady
    | with_reducible apply State.shedOne_steady
    | with_reducible refine All.branch (fun _ => ?_) (fun _ => ?_)
    | split
    | intro _ _
    | fail_if_no_progress (with_reducible refine All.upd ?_ (by rfl) (by rfl) (by rfl) (by rfl) (by rfl))

theorem execThermalShedCheck_steady {fx : Fixed} (s : State) (hs1 : All (Steady fx) s) :
    All (SteadyAns fx) (execThermalShedCheck s) := by
  unfold execThermalShedCheck
  repeat' first
    | with_reducible assumption
    | with_reducible apply State.shedCheck_steady
    | with_reducible refine All.next ?_

theorem State.voltageSample_steady {fx : Fixed} (s : State) (k : Nat) (mv : BitVec 16) (hs1 : All (Steady fx) s) :
    All (Steady fx) (State.voltageSample s k mv) := by
  unfold State.voltageSample
  repeat' first
    | with_reducible assumption
    | with_reducible apply State.modVolt_steady
    | with_reducible apply State.occur_steady
    | with_reducible refine All.branch (fun _ => ?_) (fun _ => ?_)

theorem execVoltageSample_steady {fx : Fixed} (k : Fin 24) (mv : BitVec 16) (s : State) (hs1 : All (Steady fx) s) :
    All (SteadyAns fx) (execVoltageSample k mv s) := by
  unfold execVoltageSample
  repeat' first
    | with_reducible assumption
    | with_reducible apply State.voltageSample_steady
    | with_reducible refine All.next ?_

theorem State.dimmSensorRead_steady {fx : Fixed} (s : State) (k celsius : Nat) (hs1 : All (Steady fx) s) :
    All (Steady fx) (State.dimmSensorRead s k celsius) := by
  unfold State.dimmSensorRead
  repeat' first
    | with_reducible assumption
    | with_reducible apply State.modChan_steady
    | with_reducible apply State.occur_steady
    | with_reducible refine All.branch (fun _ => ?_) (fun _ => ?_)

theorem execDimmSensorRead_steady {fx : Fixed} (ch : Fin 16) (celsius : Nat) (s : State) (hs1 : All (Steady fx) s) :
    All (SteadyAns fx) (execDimmSensorRead ch celsius s) := by
  unfold execDimmSensorRead
  repeat' first
    | with_reducible assumption
    | with_reducible apply State.dimmSensorRead_steady
    | with_reducible refine All.next ?_

/-! ### Time -/

theorem State.advanceTime_steady {fx : Fixed} (s : State) (hs1 : All (Steady fx) s) :
    All (Steady fx) (State.advanceTime s) := by
  unfold State.advanceTime
  repeat' first
    | with_reducible assumption
    | with_reducible apply State.slewFinish_steady
    | split
    | intro _ _
    | fail_if_no_progress (with_reducible refine All.upd ?_ (by rfl) (by rfl) (by rfl) (by rfl) (by rfl))

theorem State.applyRates_steady {fx : Fixed} (s : State) (hs1 : All (Steady fx) s) :
    All (Steady fx) (State.applyRates s) := by
  unfold State.applyRates
  repeat' first
    | with_reducible assumption
    | intro _ _
    | fail_if_no_progress (with_reducible refine All.upd ?_ (by rfl) (by rfl) (by rfl) (by rfl) (by rfl))

theorem State.latchTo_steady {fx : Fixed} (s : State) (ps : Nat) (hs1 : All (Steady fx) s) :
    All (Steady fx) (State.latchTo s ps) := by
  unfold State.latchTo
  repeat' first
    | with_reducible assumption
    | with_reducible refine All.branch (fun _ => ?_) (fun _ => ?_)
    | with_reducible exact All.none
    | with_reducible exact All.noneFst
    | with_reducible refine All.some ?_
    | with_reducible refine All.someFst ?_
    | (with_reducible refine All.ofFst (by assumption) ?_)
    | (with_reducible refine All.ofSnd (by assumption) ?_)
    | (with_reducible refine All.ofMid (by assumption) ?_)
    | (with_reducible refine All.ofThird (by assumption) ?_)
    | (with_reducible refine All.ofSome (by assumption) ?_)
    | (with_reducible refine All.ofSomeFst (by assumption) ?_)
    | (with_reducible refine All.ofOk (by assumption) ?_)
    | split
    | with_reducible refine All.pair ?_
    | with_reducible refine All.pairSnd ?_
    | with_reducible refine All.mid ?_
    | with_reducible refine All.third ?_
    | fail_if_no_progress (with_reducible refine All.upd ?_ (by rfl) (by rfl) (by rfl) (by rfl) (by rfl))

theorem State.settleLatch_steady {fx : Fixed} (s : State) (hs1 : All (Steady fx) s) :
    All (Steady fx) (State.settleLatch s) := by
  unfold State.settleLatch
  repeat' first
    | with_reducible assumption
    | with_reducible apply State.latchTo_steady

theorem State.settleRound_steady {fx : Fixed} (s : State) (hs1 : All (Steady fx) s) :
    All (Steady fx) (State.settleRound s) := by
  unfold State.settleRound
  repeat' first
    | with_reducible assumption
    | with_reducible apply State.settleStamps_steady
    | with_reducible apply State.latchTo_steady

theorem timeError_steady {fx : Fixed} (s : State) (code : Nat) (hs1 : All (Steady fx) s) :
    All (SteadyDone fx) (timeError s code) := by
  unfold timeError
  repeat' first
    | with_reducible assumption
    | with_reducible refine All.done ?_

theorem doTimeSet_steady {fx : Fixed} (b0 : Waiter) (b1 : Pkt) (b2 : List Byte) (b3 : State) (hs1 : All (Steady fx) b3) :
    All (SteadyDone fx) (doTimeSet b0 b1 b2 b3) := by
  unfold doTimeSet
  repeat' first
    | with_reducible assumption
    | with_reducible apply pendingReply_steady
    | with_reducible apply timeError_steady
    | with_reducible refine All.branch (fun _ => ?_) (fun _ => ?_)
    | intro _ _
    | fail_if_no_progress (with_reducible refine All.upd ?_ (by rfl) (by rfl) (by rfl) (by rfl) (by rfl))

theorem execTimeSet_steady {fx : Fixed} (p : Pkt) (s : State) (hs1 : All (Steady fx) s) :
    All (SteadyAns fx) (execTimeSet p s) := by
  unfold execTimeSet
  repeat' first
    | with_reducible assumption
    | with_reducible apply State.runCommand_steady
    | with_reducible apply doTimeSet_steady
    | with_reducible refine All.next ?_

theorem adjustFreq_steady {fx : Fixed} (ps : List Byte) (s : State) (hs1 : All (Steady fx) s) :
    All (SteadyDone fx) (adjustFreq ps s) := by
  unfold adjustFreq
  repeat' first
    | with_reducible assumption
    | with_reducible apply ok_steady
    | with_reducible apply timeError_steady
    | with_reducible refine All.branch (fun _ => ?_) (fun _ => ?_)
    | fail_if_no_progress (with_reducible refine All.upd ?_ (by rfl) (by rfl) (by rfl) (by rfl) (by rfl))

theorem adjustSlew_steady {fx : Fixed} (ps : List Byte) (s : State) (hs1 : All (Steady fx) s) :
    All (SteadyDone fx) (adjustSlew ps s) := by
  unfold adjustSlew
  repeat' first
    | with_reducible assumption
    | with_reducible apply ok_steady
    | with_reducible apply timeError_steady
    | with_reducible refine All.branch (fun _ => ?_) (fun _ => ?_)
    | fail_if_no_progress (with_reducible refine All.upd ?_ (by rfl) (by rfl) (by rfl) (by rfl) (by rfl))

theorem adjustStep_steady {fx : Fixed} (w : Waiter) (ps : List Byte) (s : State) (hs1 : All (Steady fx) s) :
    All (SteadyDone fx) (adjustStep w ps s) := by
  unfold adjustStep
  repeat' first
    | with_reducible assumption
    | with_reducible apply pendingReply_steady
    | with_reducible apply timeError_steady
    | with_reducible refine All.branch (fun _ => ?_) (fun _ => ?_)
    | fail_if_no_progress (with_reducible refine All.upd ?_ (by rfl) (by rfl) (by rfl) (by rfl) (by rfl))

theorem State.setSource_steady {fx : Fixed} (s : State) (src : BitVec 2) (hs1 : All (Steady fx) s) :
    All (Steady fx) (State.setSource s src) := by
  unfold State.setSource
  repeat' first
    | with_reducible assumption
    | with_reducible refine All.branch (fun _ => ?_) (fun _ => ?_)
    | fail_if_no_progress (with_reducible refine All.upd ?_ (by rfl) (by rfl) (by rfl) (by rfl) (by rfl))

theorem adjustSource_steady {fx : Fixed} (ps : List Byte) (s : State) (hs1 : All (Steady fx) s) :
    All (SteadyDone fx) (adjustSource ps s) := by
  unfold adjustSource
  repeat' first
    | with_reducible assumption
    | with_reducible apply ok_steady
    | with_reducible apply timeError_steady
    | with_reducible apply State.setSource_steady
    | with_reducible refine All.branch (fun _ => ?_) (fun _ => ?_)

theorem adjustPpsOut_steady {fx : Fixed} (ps : List Byte) (s : State) (hs1 : All (Steady fx) s) :
    All (SteadyDone fx) (adjustPpsOut ps s) := by
  unfold adjustPpsOut
  repeat' first
    | with_reducible assumption
    | with_reducible apply ok_steady
    | fail_if_no_progress (with_reducible refine All.upd ?_ (by rfl) (by rfl) (by rfl) (by rfl) (by rfl))

theorem adjustDeclare_steady {fx : Fixed} (ps : List Byte) (s : State) (hs1 : All (Steady fx) s) :
    All (SteadyDone fx) (adjustDeclare ps s) := by
  unfold adjustDeclare
  repeat' first
    | with_reducible assumption
    | with_reducible apply ok_steady
    | fail_if_no_progress (with_reducible refine All.upd ?_ (by rfl) (by rfl) (by rfl) (by rfl) (by rfl))

theorem doTimeAdjust_steady {fx : Fixed} (b0 : Waiter) (b1 : Pkt) (b2 : List Byte) (b3 : State) (hs1 : All (Steady fx) b3) :
    All (SteadyDone fx) (doTimeAdjust b0 b1 b2 b3) := by
  unfold doTimeAdjust
  repeat' first
    | with_reducible assumption
    | with_reducible apply adjustFreq_steady
    | with_reducible apply adjustSlew_steady
    | with_reducible apply adjustStep_steady
    | with_reducible apply adjustSource_steady
    | with_reducible apply adjustPpsOut_steady
    | with_reducible apply adjustDeclare_steady
    | with_reducible refine All.branch (fun _ => ?_) (fun _ => ?_)

theorem State.timeAdjust_steady {fx : Fixed} (s : State) (op : Nat) (p : Pkt) (hs1 : All (Steady fx) s) :
    All (Steady fx) (State.timeAdjust s op p) := by
  unfold State.timeAdjust
  repeat' first
    | with_reducible assumption
    | with_reducible apply State.runCommand_steady
    | with_reducible apply doTimeAdjust_steady

theorem execTimeAdjustFreq_steady {fx : Fixed} (p : Pkt) (s : State) (hs1 : All (Steady fx) s) :
    All (SteadyAns fx) (execTimeAdjustFreq p s) := by
  unfold execTimeAdjustFreq
  repeat' first
    | with_reducible assumption
    | with_reducible apply State.timeAdjust_steady
    | with_reducible refine All.next ?_

theorem execTimeAdjustSlew_steady {fx : Fixed} (p : Pkt) (s : State) (hs1 : All (Steady fx) s) :
    All (SteadyAns fx) (execTimeAdjustSlew p s) := by
  unfold execTimeAdjustSlew
  repeat' first
    | with_reducible assumption
    | with_reducible apply State.timeAdjust_steady
    | with_reducible refine All.next ?_

theorem execTimeAdjustStep_steady {fx : Fixed} (p : Pkt) (s : State) (hs1 : All (Steady fx) s) :
    All (SteadyAns fx) (execTimeAdjustStep p s) := by
  unfold execTimeAdjustStep
  repeat' first
    | with_reducible assumption
    | with_reducible apply State.timeAdjust_steady
    | with_reducible refine All.next ?_

theorem execTimeAdjustSource_steady {fx : Fixed} (p : Pkt) (s : State) (hs1 : All (Steady fx) s) :
    All (SteadyAns fx) (execTimeAdjustSource p s) := by
  unfold execTimeAdjustSource
  repeat' first
    | with_reducible assumption
    | with_reducible apply State.timeAdjust_steady
    | with_reducible refine All.next ?_

theorem execTimeAdjustPpsOut_steady {fx : Fixed} (p : Pkt) (s : State) (hs1 : All (Steady fx) s) :
    All (SteadyAns fx) (execTimeAdjustPpsOut p s) := by
  unfold execTimeAdjustPpsOut
  repeat' first
    | with_reducible assumption
    | with_reducible apply State.timeAdjust_steady
    | with_reducible refine All.next ?_

theorem execTimeAdjustDeclare_steady {fx : Fixed} (p : Pkt) (s : State) (hs1 : All (Steady fx) s) :
    All (SteadyAns fx) (execTimeAdjustDeclare p s) := by
  unfold execTimeAdjustDeclare
  repeat' first
    | with_reducible assumption
    | with_reducible apply State.timeAdjust_steady
    | with_reducible refine All.next ?_

theorem doTimeRead_steady {fx : Fixed} (b0 : Waiter) (b1 : Pkt) (b2 : List Byte) (b3 : State) (hs1 : All (Steady fx) b3) :
    All (SteadyDone fx) (doTimeRead b0 b1 b2 b3) := by
  unfold doTimeRead
  repeat' first
    | with_reducible assumption
    | with_reducible apply ok_steady

theorem execTimeRead_steady {fx : Fixed} (p : Pkt) (s : State) (hs1 : All (Steady fx) s) :
    All (SteadyAns fx) (execTimeRead p s) := by
  unfold execTimeRead
  repeat' first
    | with_reducible assumption
    | with_reducible apply State.runCommand_steady
    | with_reducible apply doTimeRead_steady
    | with_reducible refine All.next ?_

theorem doTsCalibrate_steady {fx : Fixed} (b0 : Waiter) (b1 : Pkt) (b2 : List Byte) (b3 : State) (hs1 : All (Steady fx) b3) :
    All (SteadyDone fx) (doTsCalibrate b0 b1 b2 b3) := by
  unfold doTsCalibrate
  repeat' first
    | with_reducible assumption
    | with_reducible apply State.modPort_steady
    | with_reducible apply State.powerUp_steady
    | with_reducible apply ok_steady
    | with_reducible apply pendingReply_steady
    | with_reducible apply busy_steady
    | with_reducible refine All.branch (fun _ => ?_) (fun _ => ?_)

theorem State.tsCalibrate_steady {fx : Fixed} (s : State) (op : Nat) (p : Pkt) (hs1 : All (Steady fx) s) :
    All (Steady fx) (State.tsCalibrate s op p) := by
  unfold State.tsCalibrate
  repeat' first
    | with_reducible assumption
    | with_reducible apply State.runCommand_steady
    | with_reducible apply doTsCalibrate_steady

theorem execTsCalibrateRun_steady {fx : Fixed} (p : Pkt) (s : State) (hs1 : All (Steady fx) s) :
    All (SteadyAns fx) (execTsCalibrateRun p s) := by
  unfold execTsCalibrateRun
  repeat' first
    | with_reducible assumption
    | with_reducible apply State.tsCalibrate_steady
    | with_reducible refine All.next ?_

theorem execTsCalibrateRead_steady {fx : Fixed} (p : Pkt) (s : State) (hs1 : All (Steady fx) s) :
    All (SteadyAns fx) (execTsCalibrateRead p s) := by
  unfold execTsCalibrateRead
  repeat' first
    | with_reducible assumption
    | with_reducible apply State.tsCalibrate_steady
    | with_reducible refine All.next ?_

theorem State.calibrationComplete_steady {fx : Fixed} (s : State) (lp : Nat) (rxPs txPs : BitVec 32) (hs1 : All (Steady fx) s) :
    All (Steady fx) (State.calibrationComplete s lp rxPs txPs) := by
  unfold State.calibrationComplete
  repeat' first
    | with_reducible assumption
    | with_reducible apply State.modPort_steady
    | with_reducible apply State.settleIsland_steady
    | with_reducible apply State.complete_steady
    | split

theorem execCalibrationComplete_steady {fx : Fixed} (lp : Fin 512) (rxPs txPs : BitVec 32) (s : State) (hs1 : All (Steady fx) s) :
    All (SteadyAns fx) (execCalibrationComplete lp rxPs txPs s) := by
  unfold execCalibrationComplete
  repeat' first
    | with_reducible assumption
    | with_reducible apply State.calibrationComplete_steady
    | with_reducible refine All.next ?_

theorem State.timeLatch_steady {fx : Fixed} (s : State) (v : BitVec 64) (delay8 : Nat) (hs1 : All (Steady fx) s) :
    All (Steady fx) (State.timeLatch s v delay8) := by
  unfold State.timeLatch
  repeat' first
    | with_reducible assumption
    | with_reducible apply State.settleLatch_steady
    | with_reducible refine All.branch (fun _ => ?_) (fun _ => ?_)
    | fail_if_no_progress (with_reducible refine All.upd ?_ (by rfl) (by rfl) (by rfl) (by rfl) (by rfl))

theorem execTimeLatch_steady {fx : Fixed} (v : BitVec 64) (delay8 : Fin 161) (at8 : Fin 3277) (s : State) (hs1 : All (Steady fx) s) :
    All (SteadyAns fx) (execTimeLatch v delay8 at8 s) := by
  unfold execTimeLatch
  repeat' first
    | with_reducible assumption
    | with_reducible apply State.at__steady
    | with_reducible apply State.timeLatch_steady
    | with_reducible refine All.next ?_

theorem State.applyStep_steady {fx : Fixed} (s : State) (kind : StepKind) (before after : DevTime) (hs1 : All (Steady fx) s) :
    All (Steady fx) (State.applyStep s kind before after) := by
  unfold State.applyStep
  repeat' first
    | with_reducible assumption
    | with_reducible apply State.emit_steady
    | with_reducible apply State.raise_steady
    | with_reducible apply State.settleGates_steady
    | with_reducible apply State.stepGates_steady
    | with_reducible refine All.branch (fun _ => ?_) (fun _ => ?_)
    | with_reducible exact All.none
    | with_reducible exact All.noneFst
    | (with_reducible refine All.ofFst (by assumption) ?_)
    | (with_reducible refine All.ofSnd (by assumption) ?_)
    | (with_reducible refine All.ofMid (by assumption) ?_)
    | (with_reducible refine All.ofThird (by assumption) ?_)
    | (with_reducible refine All.ofSome (by assumption) ?_)
    | (with_reducible refine All.ofSomeFst (by assumption) ?_)
    | (with_reducible refine All.ofOk (by assumption) ?_)
    | split
    | with_reducible refine All.pair ?_
    | with_reducible refine All.pairSnd ?_
    | with_reducible refine All.mid ?_
    | with_reducible refine All.third ?_
    | fail_if_no_progress (with_reducible refine All.upd ?_ (by rfl) (by rfl) (by rfl) (by rfl) (by rfl))

theorem State.stepApply_steady {fx : Fixed} (s : State) (hs1 : All (Steady fx) s) :
    All (Steady fx) (State.stepApply s) := by
  unfold State.stepApply
  repeat' first
    | with_reducible assumption
    | with_reducible apply State.complete_steady
    | with_reducible apply State.applyStep_steady
    | split
    | fail_if_no_progress (with_reducible refine All.upd ?_ (by rfl) (by rfl) (by rfl) (by rfl) (by rfl))

theorem execStepApply_steady {fx : Fixed} (s : State) (hs1 : All (Steady fx) s) :
    All (SteadyAns fx) (execStepApply s) := by
  unfold execStepApply
  repeat' first
    | with_reducible assumption
    | with_reducible apply State.stepApply_steady
    | with_reducible refine All.next ?_

theorem State.noPpsTimeout_steady {fx : Fixed} (s : State) (hs1 : All (Steady fx) s) :
    All (Steady fx) (State.noPpsTimeout s) := by
  unfold State.noPpsTimeout
  repeat' first
    | with_reducible assumption
    | with_reducible apply State.handTo_steady
    | with_reducible apply State.complete_steady
    | with_reducible refine All.branch (fun _ => ?_) (fun _ => ?_)
    | with_reducible exact All.none
    | with_reducible exact All.noneFst
    | with_reducible refine All.some ?_
    | with_reducible refine All.someFst ?_
    | (with_reducible refine All.ofFst (by assumption) ?_)
    | (with_reducible refine All.ofSnd (by assumption) ?_)
    | (with_reducible refine All.ofMid (by assumption) ?_)
    | (with_reducible refine All.ofThird (by assumption) ?_)
    | (with_reducible refine All.ofSome (by assumption) ?_)
    | (with_reducible refine All.ofSomeFst (by assumption) ?_)
    | (with_reducible refine All.ofOk (by assumption) ?_)
    | split
    | fail_if_no_progress (with_reducible refine All.upd ?_ (by rfl) (by rfl) (by rfl) (by rfl) (by rfl))

theorem execNoPpsTimeout_steady {fx : Fixed} (s : State) (hs1 : All (Steady fx) s) :
    All (SteadyAns fx) (execNoPpsTimeout s) := by
  unfold execNoPpsTimeout
  repeat' first
    | with_reducible assumption
    | with_reducible apply State.noPpsTimeout_steady
    | with_reducible refine All.next ?_

theorem State.slewEnd_steady {fx : Fixed} (s : State) (hs1 : All (Steady fx) s) :
    All (Steady fx) (State.slewEnd s) := by
  unfold State.slewEnd
  repeat' first
    | with_reducible assumption
    | with_reducible apply State.handTo_steady
    | with_reducible refine All.branch (fun _ => ?_) (fun _ => ?_)
    | with_reducible exact All.none
    | with_reducible exact All.noneFst
    | with_reducible refine All.some ?_
    | with_reducible refine All.someFst ?_
    | (with_reducible refine All.ofFst (by assumption) ?_)
    | (with_reducible refine All.ofSnd (by assumption) ?_)
    | (with_reducible refine All.ofMid (by assumption) ?_)
    | (with_reducible refine All.ofThird (by assumption) ?_)
    | (with_reducible refine All.ofSome (by assumption) ?_)
    | (with_reducible refine All.ofSomeFst (by assumption) ?_)
    | (with_reducible refine All.ofOk (by assumption) ?_)
    | split

theorem execSlewEnd_steady {fx : Fixed} (s : State) (hs1 : All (Steady fx) s) :
    All (SteadyAns fx) (execSlewEnd s) := by
  unfold execSlewEnd
  repeat' first
    | with_reducible assumption
    | with_reducible apply State.slewEnd_steady
    | with_reducible refine All.next ?_

theorem State.ppsInEdge_steady {fx : Fixed} (s : State) (hs1 : All (Steady fx) s) :
    All (Steady fx) (State.ppsInEdge s) := by
  unfold State.ppsInEdge
  repeat' first
    | with_reducible assumption
    | with_reducible apply State.raise_steady
    | with_reducible refine All.branch (fun _ => ?_) (fun _ => ?_)
    | intro _ _
    | fail_if_no_progress (with_reducible refine All.upd ?_ (by rfl) (by rfl) (by rfl) (by rfl) (by rfl))

theorem execPpsInEdge_steady {fx : Fixed} (at8 : Fin 3277) (s : State) (hs1 : All (Steady fx) s) :
    All (SteadyAns fx) (execPpsInEdge at8 s) := by
  unfold execPpsInEdge
  repeat' first
    | with_reducible assumption
    | with_reducible apply State.at__steady
    | with_reducible apply State.ppsInEdge_steady
    | with_reducible refine All.next ?_

theorem State.ppsAbsent_steady {fx : Fixed} (s : State) (hs1 : All (Steady fx) s) :
    All (Steady fx) (State.ppsAbsent s) := by
  unfold State.ppsAbsent
  generalize (s.time.ppsLastRes.bind fun r => s.resHand r ppsGap) = o
  cases o with
  | none => exact hs1
  | some k => exact All.upd (State.handTo_steady s k hs1) rfl rfl rfl rfl rfl

theorem execPpsAbsent_steady {fx : Fixed} (s : State) (hs1 : All (Steady fx) s) :
    All (SteadyAns fx) (execPpsAbsent s) := by
  unfold execPpsAbsent
  repeat' first
    | with_reducible assumption
    | with_reducible apply State.ppsAbsent_steady
    | with_reducible refine All.next ?_

theorem State.ppsOutEdge_steady {fx : Fixed} (s : State) (hs1 : All (Steady fx) s) :
    All (Steady fx) (State.ppsOutEdge s) := by
  unfold State.ppsOutEdge
  repeat' first
    | with_reducible assumption
    | with_reducible refine All.branch (fun _ => ?_) (fun _ => ?_)
    | fail_if_no_progress (with_reducible refine All.upd ?_ (by rfl) (by rfl) (by rfl) (by rfl) (by rfl))

theorem execPpsOutEdge_steady {fx : Fixed} (at8 : Fin 3277) (s : State) (hs1 : All (Steady fx) s) :
    All (SteadyAns fx) (execPpsOutEdge at8 s) := by
  unfold execPpsOutEdge
  repeat' first
    | with_reducible assumption
    | with_reducible apply State.at__steady
    | with_reducible apply State.ppsOutEdge_steady
    | with_reducible refine All.next ?_

theorem State.setRate_steady {fx : Fixed} (s : State) (v : Int) (hs1 : All (Steady fx) s) :
    All (Steady fx) (State.setRate s v) := by
  unfold State.setRate
  repeat' first
    | with_reducible assumption
    | fail_if_no_progress (with_reducible refine All.upd ?_ (by rfl) (by rfl) (by rfl) (by rfl) (by rfl))

theorem State.refCount_steady {fx : Fixed} (s : State) (edges : Nat) (hs1 : All (Steady fx) s) :
    All (Steady fx) (State.refCount s edges) := by
  unfold State.refCount
  repeat' first
    | with_reducible assumption
    | with_reducible apply State.raise_steady
    | with_reducible apply State.setRate_steady
    | with_reducible refine All.branch (fun _ => ?_) (fun _ => ?_)
    | fail_if_no_progress (with_reducible refine All.upd ?_ (by rfl) (by rfl) (by rfl) (by rfl) (by rfl))

theorem execRef10mCount_steady {fx : Fixed} (edges : Nat) (s : State) (hs1 : All (Steady fx) s) :
    All (SteadyAns fx) (execRef10mCount edges s) := by
  unfold execRef10mCount
  repeat' first
    | with_reducible assumption
    | with_reducible apply State.refCount_steady
    | with_reducible refine All.next ?_

theorem State.attest_steady {fx : Fixed} (s : State) (hs1 : All (Steady fx) s) :
    All (Steady fx) (State.attest s) := by
  unfold State.attest
  repeat' first
    | with_reducible assumption
    | with_reducible apply State.systemRecord_steady
    | with_reducible refine All.branch (fun _ => ?_) (fun _ => ?_)
    | fail_if_no_progress (with_reducible refine All.upd ?_ (by rfl) (by rfl) (by rfl) (by rfl) (by rfl))

theorem execClockAttestation_steady {fx : Fixed} (at8 : Fin 3277) (s : State) (hs1 : All (Steady fx) s) :
    All (SteadyAns fx) (execClockAttestation at8 s) := by
  unfold execClockAttestation
  repeat' first
    | with_reducible assumption
    | with_reducible apply State.at__steady
    | with_reducible apply State.attest_steady
    | with_reducible refine All.next ?_

/-! ### Timetable -/

theorem State.setShadow_steady {fx : Fixed} (s : State) (b : List Byte) (st : ShadowState) (hs1 : All (Steady fx) s) :
    All (Steady fx) (State.setShadow s b st) := by
  unfold State.setShadow
  repeat' first
    | with_reducible assumption
    | fail_if_no_progress (with_reducible refine All.upd ?_ (by rfl) (by rfl) (by rfl) (by rfl) (by rfl))

theorem State.chunkTaken_steady {fx : Fixed} (s : State) (b : List Byte) (final : Bool) (hs1 : All (Steady fx) s) :
    All (SteadyDone fx) (State.chunkTaken s b final) := by
  unfold State.chunkTaken
  refine All.branch (fun _ => ?_) fun _ => ok_steady _ _ (State.setShadow_steady _ _ _ hs1)
  split
  · exact ok_steady _ _ (State.setShadow_steady _ _ _ hs1)
  · exact badLength_steady _ _ (State.setShadow_steady _ _ _ hs1)

theorem doTtLoad_steady {fx : Fixed} (b0 : Waiter) (b1 : Pkt) (b2 : List Byte) (b3 : State) (hs1 : All (Steady fx) b3) :
    All (SteadyDone fx) (doTtLoad b0 b1 b2 b3) := by
  unfold doTtLoad
  repeat' first
    | with_reducible assumption
    | with_reducible apply badLength_steady
    | with_reducible apply busy_steady
    | with_reducible apply State.setShadow_steady
    | with_reducible apply State.chunkTaken_steady
    | with_reducible refine All.branch (fun _ => ?_) (fun _ => ?_)

theorem execTtLoad_steady {fx : Fixed} (p : Pkt) (s : State) (hs1 : All (Steady fx) s) :
    All (SteadyAns fx) (execTtLoad p s) := by
  unfold execTtLoad
  repeat' first
    | with_reducible assumption
    | with_reducible apply State.runCommand_steady
    | with_reducible apply doTtLoad_steady
    | with_reducible refine All.next ?_

theorem State.cancelActivation_steady {fx : Fixed} (s : State) (hs1 : All (Steady fx) s) :
    All (SteadyDone fx) (State.cancelActivation s) := by
  unfold State.cancelActivation
  refine All.branch (fun _ => busy_steady _ _ hs1) fun _ => ?_
  split
  · exact busy_steady _ _ hs1
  · refine All.branch (fun _ => busy_steady _ _ hs1) fun _ => ok_steady _ _ (State.complete_steady _ _ _ _ _ ?_)
    exact All.upd hs1 rfl rfl rfl rfl rfl

theorem doTtActivateAt_steady {fx : Fixed} (tn : Option Nat) (b0 : Waiter) (b1 : Pkt) (b2 : List Byte) (b3 : State) (hs1 : All (Steady fx) b3) :
    All (SteadyDone fx) (doTtActivateAt tn b0 b1 b2 b3) := by
  unfold doTtActivateAt
  refine All.branch (fun _ => State.cancelActivation_steady _ hs1) fun _ => ?_
  dsimp only
  split
  · exact busy_steady _ _ hs1
  · exact pendingReply_steady _ (All.upd hs1 rfl rfl rfl rfl rfl)

theorem State.ttActivate_steady {fx : Fixed} (s : State) (mode : Nat) (p : Pkt) (hs1 : All (Steady fx) s) :
    All (Steady fx) (State.ttActivate s mode p) := by
  unfold State.ttActivate
  repeat' first
    | with_reducible assumption
    | with_reducible apply State.runCommand_steady
    | with_reducible apply doTtActivateAt_steady

theorem execTtActivateWarm_steady {fx : Fixed} (p : Pkt) (s : State) (hs1 : All (Steady fx) s) :
    All (SteadyAns fx) (execTtActivateWarm p s) := by
  unfold execTtActivateWarm
  repeat' first
    | with_reducible assumption
    | with_reducible apply State.ttActivate_steady
    | with_reducible refine All.next ?_

theorem execTtActivateCold_steady {fx : Fixed} (p : Pkt) (s : State) (hs1 : All (Steady fx) s) :
    All (SteadyAns fx) (execTtActivateCold p s) := by
  unfold execTtActivateCold
  repeat' first
    | with_reducible assumption
    | with_reducible apply State.ttActivate_steady
    | with_reducible refine All.next ?_

theorem execTtActivateCancel_steady {fx : Fixed} (p : Pkt) (s : State) (hs1 : All (Steady fx) s) :
    All (SteadyAns fx) (execTtActivateCancel p s) := by
  unfold execTtActivateCancel
  repeat' first
    | with_reducible assumption
    | with_reducible apply State.ttActivate_steady
    | with_reducible refine All.next ?_

theorem doTtQuery_steady {fx : Fixed} (b0 : Waiter) (b1 : Pkt) (b2 : List Byte) (b3 : State) (hs1 : All (Steady fx) b3) :
    All (SteadyDone fx) (doTtQuery b0 b1 b2 b3) := by
  unfold doTtQuery
  repeat' first
    | with_reducible assumption
    | with_reducible apply ok_steady

theorem execTtQuery_steady {fx : Fixed} (p : Pkt) (s : State) (hs1 : All (Steady fx) s) :
    All (SteadyAns fx) (execTtQuery p s) := by
  unfold execTtQuery
  repeat' first
    | with_reducible assumption
    | with_reducible apply State.runCommand_steady
    | with_reducible apply doTtQuery_steady
    | with_reducible refine All.next ?_

theorem State.activationCommit_steady {fx : Fixed} (s : State) (hs1 : All (Steady fx) s) :
    All (Steady fx) (State.activationCommit s) := by
  unfold State.activationCommit
  repeat' first
    | with_reducible assumption
    | split
    | fail_if_no_progress (with_reducible refine All.upd ?_ (by rfl) (by rfl) (by rfl) (by rfl) (by rfl))

theorem execActivationCommit_steady {fx : Fixed} (s : State) (hs1 : All (Steady fx) s) :
    All (SteadyAns fx) (execActivationCommit s) := by
  unfold execActivationCommit
  repeat' first
    | with_reducible assumption
    | with_reducible apply State.activationCommit_steady
    | with_reducible refine All.next ?_

theorem State.activationSwitch_steady {fx : Fixed} (s : State) (hs1 : All (Steady fx) s) :
    All (Steady fx) (State.activationSwitch s) := by
  unfold State.activationSwitch
  repeat' first
    | with_reducible assumption
    | with_reducible apply State.settleModes_steady
    | split
    | intro _ _
    | fail_if_no_progress (with_reducible refine All.upd ?_ (by rfl) (by rfl) (by rfl) (by rfl) (by rfl))

theorem execActivationSwitch_steady {fx : Fixed} (s : State) (hs1 : All (Steady fx) s) :
    All (SteadyAns fx) (execActivationSwitch s) := by
  unfold execActivationSwitch
  repeat' first
    | with_reducible assumption
    | with_reducible apply State.activationSwitch_steady
    | with_reducible refine All.next ?_

theorem State.activationDrained_steady {fx : Fixed} (s : State) (hs1 : All (Steady fx) s) :
    All (Steady fx) (State.activationDrained s) := by
  unfold State.activationDrained
  repeat' first
    | with_reducible assumption
    | with_reducible apply State.complete_steady
    | split
    | fail_if_no_progress (with_reducible refine All.upd ?_ (by rfl) (by rfl) (by rfl) (by rfl) (by rfl))

theorem execActivationDrained_steady {fx : Fixed} (s : State) (hs1 : All (Steady fx) s) :
    All (SteadyAns fx) (execActivationDrained s) := by
  unfold execActivationDrained
  repeat' first
    | with_reducible assumption
    | with_reducible apply State.activationDrained_steady
    | with_reducible refine All.next ?_

theorem State.endSwitch_steady {fx : Fixed} (s : State) (lp : Fin 512) (hs1 : All (Steady fx) s) :
    All (Steady fx) (State.endSwitch s lp) := by
  unfold State.endSwitch
  repeat' first
    | with_reducible assumption
    | with_reducible refine All.branch (fun _ => ?_) (fun _ => ?_)
    | fail_if_no_progress (with_reducible refine All.upd ?_ (by rfl) (by rfl) (by rfl) (by rfl) (by rfl))

theorem State.switchPosition_steady {fx : Fixed} (s : State) (lp : Fin 512) (hs1 : All (Steady fx) s) :
    All (Steady fx) (State.switchPosition s lp) := by
  unfold State.switchPosition
  repeat' first
    | with_reducible assumption
    | with_reducible apply State.reach_steady
    | with_reducible apply State.endSwitch_steady
    | with_reducible refine All.branch (fun _ => ?_) (fun _ => ?_)

theorem execPortSwitchPosition_steady {fx : Fixed} (lp : Fin 512) (s : State) (hs1 : All (Steady fx) s) :
    All (SteadyAns fx) (execPortSwitchPosition lp s) := by
  unfold execPortSwitchPosition
  repeat' first
    | with_reducible assumption
    | with_reducible apply State.switchPosition_steady
    | with_reducible refine All.next ?_

theorem State.windowClosed_steady {fx : Fixed} (s : State) (lp : Fin 512) (hs1 : All (Steady fx) s) :
    All (Steady fx) (State.windowClosed s lp) := by
  unfold State.windowClosed
  repeat' first
    | with_reducible assumption
    | with_reducible refine All.branch (fun _ => ?_) (fun _ => ?_)
    | fail_if_no_progress (with_reducible refine All.upd ?_ (by rfl) (by rfl) (by rfl) (by rfl) (by rfl))

theorem execTransitionWindowClose_steady {fx : Fixed} (lp : Fin 512) (s : State) (hs1 : All (Steady fx) s) :
    All (SteadyAns fx) (execTransitionWindowClose lp s) := by
  unfold execTransitionWindowClose
  repeat' first
    | with_reducible assumption
    | with_reducible apply State.windowClosed_steady
    | with_reducible refine All.next ?_

end Sys2Proof.Machine
end

