-- ==== Sys2Proof/Laws/SteadyLine.lean ====
section
/-!
SUPPORT. Every operation of the ports, the Cabinet, its DRAM and the host link's operations keeps `Steady`: one lemma each.
-/

namespace Sys2Proof.Machine

/-! ### Line -/

theorem partialReply_steady {fx : Fixed} (s : State) (n : Nat) (hs1 : All (Steady fx) s) :
    All (SteadyDone fx) (partialReply s n) := by
  unfold partialReply
  repeat' first
    | with_reducible assumption
    | with_reducible refine All.done ?_

theorem d0Busy_steady {fx : Fixed} (s : State) (n : Nat) (hs1 : All (Steady fx) s) :
    All (SteadyDone fx) (d0Busy s n) := by
  unfold d0Busy
  repeat' first
    | with_reducible assumption
    | with_reducible refine All.done ?_

theorem State.modPause_steady {fx : Fixed} (s : State) (lp k : Nat) (f : PauseState → PauseState) (hs1 : All (Steady fx) s) :
    All (Steady fx) (State.modPause s lp k f) := by
  unfold State.modPause
  repeat' first
    | with_reducible assumption
    | with_reducible apply State.modPort_steady

theorem State.dropPauses_steady {fx : Fixed} (s : State) (lp : Nat) (hs1 : All (Steady fx) s) :
    All (Steady fx) (State.dropPauses s lp) := by
  unfold State.dropPauses
  repeat' first
    | with_reducible assumption
    | with_reducible apply State.modPause_steady
    | with_reducible refine All.branch (fun _ => ?_) (fun _ => ?_)
    | with_reducible refine All.folded ?_ (fun _ _ _ => ?_)

theorem State.recallPauses_steady {fx : Fixed} (s : State) (lp : Nat) (hs1 : All (Steady fx) s) :
    All (Steady fx) (State.recallPauses s lp) := by
  unfold State.recallPauses
  repeat' first
    | with_reducible assumption
    | with_reducible apply State.pauseCall_steady
    | with_reducible apply State.modPause_steady
    | with_reducible refine All.branch (fun _ => ?_) (fun _ => ?_)
    | with_reducible refine All.folded ?_ (fun _ _ _ => ?_)

theorem State.powerOff_steady {fx : Fixed} (s : State) (lp : Nat) (st : PortState) (hs1 : All (Steady fx) s) :
    All (Steady fx) (State.powerOff s lp st) := by
  unfold State.powerOff
  repeat' first
    | with_reducible assumption
    | with_reducible apply State.modPort_steady
    | with_reducible apply State.leaveUp_steady
    | with_reducible refine All.branch (fun _ => ?_) (fun _ => ?_)

theorem State.applyBlock_steady {fx : Fixed} (s : State) (lp : Nat) (new : Image) (hs1 : All (Steady fx) s) :
    All (Steady fx) (State.applyBlock s lp new) := by
  unfold State.applyBlock
  repeat' first
    | with_reducible assumption
    | with_reducible apply State.modPort_steady
    | with_reducible apply State.bringup_steady
    | with_reducible apply State.islandFault_steady
    | with_reducible apply State.dropPauses_steady
    | with_reducible apply State.recallPauses_steady
    | with_reducible apply State.powerOff_steady
    | with_reducible refine All.branch (fun _ => ?_) (fun _ => ?_)

theorem State.applyHeader_steady {fx : Fixed} (s : State) (m mode : Nat) (rx tx : BitVec 8) (hs1 : All (Steady fx) s) :
    All (Steady fx) (State.applyHeader s m mode rx tx) := by
  unfold State.applyHeader
  repeat' first
    | with_reducible assumption
    | with_reducible apply State.modPort_steady
    | with_reducible apply State.modMacro_steady
    | with_reducible apply State.setPortState_steady
    | with_reducible apply State.bringup_steady
    | with_reducible apply State.islandFault_steady
    | with_reducible refine All.branch (fun _ => ?_) (fun _ => ?_)
    | with_reducible refine All.folded ?_ (fun _ _ _ => ?_)

theorem doPortConfig_steady {fx : Fixed} (b0 : Waiter) (b1 : Pkt) (b2 : List Byte) (b3 : State) (hs1 : All (Steady fx) b3) :
    All (SteadyDone fx) (doPortConfig b0 b1 b2 b3) := by
  unfold doPortConfig
  repeat' first
    | with_reducible assumption
    | with_reducible apply State.settleIsland_steady
    | with_reducible apply ok_steady
    | with_reducible apply busy_steady
    | with_reducible apply partialReply_steady
    | with_reducible apply State.applyBlock_steady
    | with_reducible apply State.applyHeader_steady
    | with_reducible refine All.branch (fun _ => ?_) (fun _ => ?_)
    | with_reducible refine All.folded ?_ (fun _ _ _ => ?_)

theorem execPortConfig_steady {fx : Fixed} (p : Pkt) (s : State) (hs1 : All (Steady fx) s) :
    All (SteadyAns fx) (execPortConfig p s) := by
  unfold execPortConfig
  repeat' first
    | with_reducible assumption
    | with_reducible apply State.runCommand_steady
    | with_reducible apply doPortConfig_steady
    | with_reducible refine All.next ?_

theorem doPortStatus_steady {fx : Fixed} (b0 : Waiter) (b1 : Pkt) (b2 : List Byte) (b3 : State) (hs1 : All (Steady fx) b3) :
    All (SteadyDone fx) (doPortStatus b0 b1 b2 b3) := by
  unfold doPortStatus
  repeat' first
    | with_reducible assumption
    | with_reducible apply ok_steady

theorem execPortStatus_steady {fx : Fixed} (p : Pkt) (s : State) (hs1 : All (Steady fx) s) :
    All (SteadyAns fx) (execPortStatus p s) := by
  unfold execPortStatus
  repeat' first
    | with_reducible assumption
    | with_reducible apply State.runCommand_steady
    | with_reducible apply doPortStatus_steady
    | with_reducible refine All.next ?_

theorem doStatsRead_steady {fx : Fixed} (b0 : Waiter) (b1 : Pkt) (b2 : List Byte) (b3 : State) (hs1 : All (Steady fx) b3) :
    All (SteadyDone fx) (doStatsRead b0 b1 b2 b3) := by
  unfold doStatsRead
  repeat' first
    | with_reducible assumption
    | with_reducible apply State.modPort_steady
    | with_reducible apply ok_steady
    | with_reducible refine All.branch (fun _ => ?_) (fun _ => ?_)
    | intro _ _
    | fail_if_no_progress (with_reducible refine All.upd ?_ (by rfl) (by rfl) (by rfl) (by rfl) (by rfl))

theorem execStatsRead_steady {fx : Fixed} (p : Pkt) (s : State) (hs1 : All (Steady fx) s) :
    All (SteadyAns fx) (execStatsRead p s) := by
  unfold execStatsRead
  repeat' first
    | with_reducible assumption
    | with_reducible apply State.runCommand_steady
    | with_reducible apply doStatsRead_steady
    | with_reducible refine All.next ?_

theorem State.lanesOn_steady {fx : Fixed} (s : State) (lp : Nat) (hs1 : All (Steady fx) s) :
    All (Steady fx) (State.lanesOn s lp) := by
  unfold State.lanesOn
  repeat' first
    | with_reducible assumption
    | with_reducible apply State.modPort_steady
    | with_reducible apply State.bringup_steady

theorem State.bringupDone_steady {fx : Fixed} (s : State) (lp : Nat) (ok : Bool) (hs1 : All (Steady fx) s) :
    All (Steady fx) (State.bringupDone s lp ok) := by
  unfold State.bringupDone
  repeat' first
    | with_reducible assumption
    | with_reducible apply State.setPortState_steady
    | with_reducible apply State.fallBack_steady
    | with_reducible apply ok_steady
    | with_reducible apply State.lanesOn_steady
    | with_reducible refine All.branch (fun _ => ?_) (fun _ => ?_)
    | (with_reducible refine All.ofFst (by assumption) ?_)
    | (with_reducible refine All.ofSnd (by assumption) ?_)
    | (with_reducible refine All.ofMid (by assumption) ?_)
    | (with_reducible refine All.ofThird (by assumption) ?_)
    | (with_reducible refine All.ofSome (by assumption) ?_)
    | (with_reducible refine All.ofSomeFst (by assumption) ?_)
    | (with_reducible refine All.ofOk (by assumption) ?_)
    | split
    | (dsimp only; split)

theorem execPortBringupDone_steady {fx : Fixed} (lp : Fin 512) (ok : Bool) (s : State) (hs1 : All (Steady fx) s) :
    All (SteadyAns fx) (execPortBringupDone lp ok s) := by
  unfold execPortBringupDone
  repeat' first
    | with_reducible assumption
    | with_reducible apply ok_steady
    | with_reducible apply State.bringupDone_steady
    | with_reducible refine All.next ?_

theorem State.alignTimeout_steady {fx : Fixed} (s : State) (lp : Nat) (hs1 : All (Steady fx) s) :
    All (Steady fx) (State.alignTimeout s lp) := by
  unfold State.alignTimeout
  repeat' first
    | with_reducible assumption
    | with_reducible apply State.modPort_steady
    | with_reducible apply State.reach_steady
    | with_reducible apply State.fallBack_steady
    | with_reducible refine All.branch (fun _ => ?_) (fun _ => ?_)

theorem execAlignTimeout_steady {fx : Fixed} (lp : Fin 512) (s : State) (hs1 : All (Steady fx) s) :
    All (SteadyAns fx) (execAlignTimeout lp s) := by
  unfold execAlignTimeout
  repeat' first
    | with_reducible assumption
    | with_reducible apply State.alignTimeout_steady
    | with_reducible refine All.next ?_

theorem State.linkLoss_steady {fx : Fixed} (s : State) (lp : Nat) (hs1 : All (Steady fx) s) :
    All (Steady fx) (State.linkLoss s lp) := by
  unfold State.linkLoss
  repeat' first
    | with_reducible assumption
    | with_reducible apply State.fallBack_steady
    | with_reducible refine All.branch (fun _ => ?_) (fun _ => ?_)

theorem execLinkLoss_steady {fx : Fixed} (lp : Fin 512) (s : State) (hs1 : All (Steady fx) s) :
    All (SteadyAns fx) (execLinkLoss lp s) := by
  unfold execLinkLoss
  repeat' first
    | with_reducible assumption
    | with_reducible apply State.linkLoss_steady
    | with_reducible refine All.next ?_

theorem State.fecCheck_steady {fx : Fixed} (s : State) (lp symbols cw bad blocks : Nat) (hs1 : All (Steady fx) s) :
    All (Steady fx) (State.fecCheck s lp symbols cw bad blocks) := by
  unfold State.fecCheck
  repeat' first
    | with_reducible assumption
    | with_reducible apply State.modPort_steady
    | with_reducible apply State.stat_steady
    | with_reducible apply State.portEvent_steady
    | with_reducible refine All.branch (fun _ => ?_) (fun _ => ?_)

theorem execFecDegradeCheck_steady {fx : Fixed} (lp : Fin 512) (correctedSymbols correctedCw uncorrectableCw blockErrors : Nat) (s : State) (hs1 : All (Steady fx) s) :
    All (SteadyAns fx) (execFecDegradeCheck lp correctedSymbols correctedCw uncorrectableCw blockErrors s) := by
  unfold execFecDegradeCheck
  repeat' first
    | with_reducible assumption
    | with_reducible apply State.fecCheck_steady
    | with_reducible refine All.next ?_

theorem State.wakeDetect_steady {fx : Fixed} (s : State) (lp : Nat) (hs1 : All (Steady fx) s) :
    All (Steady fx) (State.wakeDetect s lp) := by
  unfold State.wakeDetect
  repeat' first
    | with_reducible assumption
    | with_reducible apply State.modPort_steady
    | with_reducible apply State.portEvent_steady
    | with_reducible apply State.bringup_steady
    | with_reducible refine All.branch (fun _ => ?_) (fun _ => ?_)

theorem execWakeDetect_steady {fx : Fixed} (lp : Fin 512) (s : State) (hs1 : All (Steady fx) s) :
    All (SteadyAns fx) (execWakeDetect lp s) := by
  unfold execWakeDetect
  repeat' first
    | with_reducible assumption
    | with_reducible apply State.wakeDetect_steady
    | with_reducible refine All.next ?_

theorem State.wakeRearm_steady {fx : Fixed} (s : State) (lp : Nat) (hs1 : All (Steady fx) s) :
    All (Steady fx) (State.wakeRearm s lp) := by
  unfold State.wakeRearm
  repeat' first
    | with_reducible assumption
    | with_reducible apply State.modPort_steady
    | with_reducible refine All.branch (fun _ => ?_) (fun _ => ?_)

theorem execWakeDetectorRearm_steady {fx : Fixed} (lp : Fin 512) (s : State) (hs1 : All (Steady fx) s) :
    All (SteadyAns fx) (execWakeDetectorRearm lp s) := by
  unfold execWakeDetectorRearm
  repeat' first
    | with_reducible assumption
    | with_reducible apply State.wakeRearm_steady
    | with_reducible refine All.next ?_

theorem State.wakePorts_steady {fx : Fixed} (s : State) (m : Nat) (hs1 : All (Steady fx) s) :
    All (Steady fx) (State.wakePorts s m) := by
  unfold State.wakePorts
  repeat' first
    | with_reducible assumption
    | with_reducible apply State.lanesOn_steady
    | with_reducible refine All.branch (fun _ => ?_) (fun _ => ?_)
    | with_reducible refine All.folded ?_ (fun _ _ _ => ?_)

theorem State.islandUp_steady {fx : Fixed} (s : State) (m : Nat) (hs1 : All (Steady fx) s) :
    All (Steady fx) (State.islandUp s m) := by
  unfold State.islandUp
  repeat' first
    | with_reducible assumption
    | with_reducible apply State.powerUp_steady
    | with_reducible apply State.wakePorts_steady
    | with_reducible refine All.branch (fun _ => ?_) (fun _ => ?_)
    | intro _ _
    | fail_if_no_progress (with_reducible refine All.upd ?_ (by rfl) (by rfl) (by rfl) (by rfl) (by rfl))

theorem execIslandPowerUp_steady {fx : Fixed} (m : Fin 64) (s : State) (hs1 : All (Steady fx) s) :
    All (SteadyAns fx) (execIslandPowerUp m s) := by
  unfold execIslandPowerUp
  repeat' first
    | with_reducible assumption
    | with_reducible apply State.islandUp_steady
    | with_reducible refine All.next ?_

theorem State.pauseArrive_steady {fx : Fixed} (s : State) (lp k : Nat) (quanta : BitVec 16) (endPs : Nat) (hs1 : All (Steady fx) s) :
    All (Steady fx) (State.pauseArrive s lp k quanta endPs) := by
  unfold State.pauseArrive
  repeat' first
    | with_reducible assumption
    | with_reducible apply State.stat_steady
    | with_reducible apply State.modPause_steady
    | with_reducible refine All.branch (fun _ => ?_) (fun _ => ?_)

theorem State.pauseFrame_steady {fx : Fixed} (s : State) (lp op classes : Nat) (quanta : List (BitVec 16)) (endPs : Nat) (hs1 : All (Steady fx) s) :
    All (Steady fx) (State.pauseFrame s lp op classes quanta endPs) := by
  unfold State.pauseFrame
  repeat' first
    | with_reducible assumption
    | with_reducible apply State.stat_steady
    | with_reducible apply State.pauseArrive_steady
    | with_reducible refine All.branch (fun _ => ?_) (fun _ => ?_)
    | with_reducible refine All.folded ?_ (fun _ _ _ => ?_)

theorem State.pauseReceive_steady {fx : Fixed} (s : State) (lp : Nat) (op : BitVec 16) (classes : BitVec 8) (quanta : List (BitVec 16)) (hs1 : All (Steady fx) s) :
    All (Steady fx) (State.pauseReceive s lp op classes quanta) := by
  unfold State.pauseReceive
  repeat' first
    | with_reducible assumption
    | with_reducible apply State.pauseFrame_steady
    | with_reducible refine All.branch (fun _ => ?_) (fun _ => ?_)
    | fail_if_no_progress (with_reducible refine All.upd ?_ (by rfl) (by rfl) (by rfl) (by rfl) (by rfl))

theorem execPauseReceive_steady {fx : Fixed} (lp : Fin 512) (opcode : BitVec 16) (classes : BitVec 8) (quanta : List (BitVec 16)) (at8 : Fin 3277) (s : State) (hs1 : All (Steady fx) s) :
    All (SteadyAns fx) (execPauseReceive lp opcode classes quanta at8 s) := by
  unfold execPauseReceive
  repeat' first
    | with_reducible assumption
    | with_reducible apply State.at__steady
    | with_reducible apply State.pauseReceive_steady
    | with_reducible refine All.next ?_

theorem State.pauseTake_steady {fx : Fixed} (s : State) (lp : Nat) (hs1 : All (Steady fx) s) :
    All (Steady fx) (State.pauseTake s lp) := by
  unfold State.pauseTake
  repeat' first
    | with_reducible assumption
    | with_reducible apply State.reach_steady
    | with_reducible apply State.modPause_steady
    | with_reducible refine All.folded ?_ (fun _ _ _ => ?_)

theorem execPauseTakeEffect_steady {fx : Fixed} (lp : Fin 512) (s : State) (hs1 : All (Steady fx) s) :
    All (SteadyAns fx) (execPauseTakeEffect lp s) := by
  unfold execPauseTakeEffect
  repeat' first
    | with_reducible assumption
    | with_reducible apply State.pauseTake_steady
    | with_reducible refine All.next ?_

theorem State.pauseExpire_steady {fx : Fixed} (s : State) (lp k : Nat) (hs1 : All (Steady fx) s) :
    All (Steady fx) (State.pauseExpire s lp k) := by
  unfold State.pauseExpire
  repeat' first
    | with_reducible assumption
    | with_reducible apply State.reach_steady
    | with_reducible apply State.modPause_steady
    | split

theorem execPauseExpiry_steady {fx : Fixed} (lp : Fin 512) (kind : Fin 9) (s : State) (hs1 : All (Steady fx) s) :
    All (SteadyAns fx) (execPauseExpiry lp kind s) := by
  unfold execPauseExpiry
  repeat' first
    | with_reducible assumption
    | with_reducible apply State.pauseExpire_steady
    | with_reducible refine All.next ?_

theorem State.pauseTrip_steady {fx : Fixed} (s : State) (lp k : Nat) (hs1 : All (Steady fx) s) :
    All (Steady fx) (State.pauseTrip s lp k) := by
  unfold State.pauseTrip
  repeat' first
    | with_reducible assumption
    | with_reducible apply State.reach_steady
    | with_reducible apply State.stat_steady
    | with_reducible apply State.portEvent_steady
    | with_reducible apply State.modPause_steady
    | with_reducible refine All.branch (fun _ => ?_) (fun _ => ?_)
    | (dsimp only; split)

theorem execPauseWatchdogTrip_steady {fx : Fixed} (lp : Fin 512) (kind : Fin 9) (s : State) (hs1 : All (Steady fx) s) :
    All (SteadyAns fx) (execPauseWatchdogTrip lp kind s) := by
  unfold execPauseWatchdogTrip
  repeat' first
    | with_reducible assumption
    | with_reducible apply State.pauseTrip_steady
    | with_reducible refine All.next ?_

theorem State.holdoffOver_steady {fx : Fixed} (s : State) (lp k : Nat) (hs1 : All (Steady fx) s) :
    All (Steady fx) (State.holdoffOver s lp k) := by
  unfold State.holdoffOver
  repeat' first
    | with_reducible assumption
    | with_reducible apply State.reach_steady
    | with_reducible apply State.modPause_steady
    | split

theorem execPauseHoldoffEnd_steady {fx : Fixed} (lp : Fin 512) (kind : Fin 9) (s : State) (hs1 : All (Steady fx) s) :
    All (SteadyAns fx) (execPauseHoldoffEnd lp kind s) := by
  unfold execPauseHoldoffEnd
  repeat' first
    | with_reducible assumption
    | with_reducible apply State.holdoffOver_steady
    | with_reducible refine All.next ?_

theorem State.pauseSend_steady {fx : Fixed} (s : State) (lp k quanta : Nat) (last : Option Nat) (hs1 : All (Steady fx) s) :
    All (Steady fx) (State.pauseSend s lp k quanta last) := by
  unfold State.pauseSend
  repeat' first
    | with_reducible assumption
    | with_reducible apply State.modEgr_steady
    | with_reducible apply State.emit_steady
    | with_reducible apply State.stat_steady
    | with_reducible apply State.modPause_steady

theorem State.pauseTx_steady {fx : Fixed} (s : State) (lp k : Nat) (hs1 : All (Steady fx) s) :
    All (Steady fx) (State.pauseTx s lp k) := by
  unfold State.pauseTx
  repeat' first
    | with_reducible assumption
    | with_reducible apply State.reach_steady
    | with_reducible apply State.pauseSend_steady
    | with_reducible refine All.branch (fun _ => ?_) (fun _ => ?_)
    | split

theorem State.sendPauses_steady {fx : Fixed} (s : State) (lp : Nat) (hs1 : All (Steady fx) s) :
    All (Steady fx) (State.sendPauses s lp) := by
  unfold State.sendPauses
  repeat' first
    | with_reducible assumption
    | with_reducible apply State.pauseTx_steady
    | with_reducible refine All.branch (fun _ => ?_) (fun _ => ?_)
    | with_reducible refine All.folded ?_ (fun _ _ _ => ?_)

theorem execPauseTx_steady {fx : Fixed} (lp : Fin 512) (kind : Fin 9) (s : State) (hs1 : All (Steady fx) s) :
    All (SteadyAns fx) (execPauseTx lp kind s) := by
  unfold execPauseTx
  repeat' first
    | with_reducible assumption
    | with_reducible apply State.pauseTx_steady
    | with_reducible refine All.next ?_

/-! ### Cabinet -/

theorem doDrawerOpen_steady {fx : Fixed} (b0 : Waiter) (b1 : Pkt) (b2 : List Byte) (b3 : State) (hs1 : All (Steady fx) b3) :
    All (SteadyDone fx) (doDrawerOpen b0 b1 b2 b3) := by
  unfold doDrawerOpen
  repeat' first
    | with_reducible assumption
    | with_reducible apply State.modDrawer_steady
    | with_reducible apply State.modEvClass_steady
    | with_reducible apply State.sealDrawer_steady
    | with_reducible apply ok_steady
    | with_reducible apply busy_steady
    | with_reducible apply noResource_steady
    | with_reducible refine All.branch (fun _ => ?_) (fun _ => ?_)
    | with_reducible refine All.folded ?_ (fun _ _ _ => ?_)

theorem execDrawerOpen_steady {fx : Fixed} (p : Pkt) (s : State) (hs1 : All (Steady fx) s) :
    All (SteadyAns fx) (execDrawerOpen p s) := by
  unfold execDrawerOpen
  repeat' first
    | with_reducible assumption
    | with_reducible apply State.runCommand_steady
    | with_reducible apply doDrawerOpen_steady
    | with_reducible refine All.next ?_

theorem State.closeDrawer_steady {fx : Fixed} (s : State) (d : Nat) (hs1 : All (Steady fx) s) :
    All (Steady fx) (State.closeDrawer s d) := by
  unfold State.closeDrawer
  repeat' first
    | with_reducible assumption
    | with_reducible apply State.modDrawer_steady
    | with_reducible apply State.modEvClass_steady
    | with_reducible apply State.setMaster_steady
    | with_reducible apply State.setWork_steady
    | with_reducible apply State.sealDrawer_steady
    | with_reducible apply State.drainWhere_steady
    | with_reducible refine All.branch (fun _ => ?_) (fun _ => ?_)
    | with_reducible refine All.folded ?_ (fun _ _ _ => ?_)

theorem State.settleCloses_steady {fx : Fixed} (s : State) (hs1 : All (Steady fx) s) :
    All (Steady fx) (State.settleCloses s) := by
  unfold State.settleCloses
  repeat' first
    | with_reducible assumption
    | with_reducible apply State.modDrawer_steady
    | with_reducible apply State.complete_steady
    | with_reducible apply State.closeDrawer_steady
    | with_reducible refine All.folded ?_ (fun _ _ _ => ?_)
    | split

theorem doDrawerClose_steady {fx : Fixed} (b0 : Waiter) (b1 : Pkt) (b2 : List Byte) (b3 : State) (hs1 : All (Steady fx) b3) :
    All (SteadyDone fx) (doDrawerClose b0 b1 b2 b3) := by
  unfold doDrawerClose
  repeat' first
    | with_reducible assumption
    | with_reducible apply State.modDrawer_steady
    | with_reducible apply pendingReply_steady
    | with_reducible apply busy_steady
    | with_reducible refine All.branch (fun _ => ?_) (fun _ => ?_)

theorem execDrawerClose_steady {fx : Fixed} (p : Pkt) (s : State) (hs1 : All (Steady fx) s) :
    All (SteadyAns fx) (execDrawerClose p s) := by
  unfold execDrawerClose
  repeat' first
    | with_reducible assumption
    | with_reducible apply State.runCommand_steady
    | with_reducible apply State.settleCloses_steady
    | with_reducible apply doDrawerClose_steady
    | with_reducible refine All.next ?_

theorem doDrawerErase_steady {fx : Fixed} (b0 : Waiter) (b1 : Pkt) (b2 : List Byte) (b3 : State) (hs1 : All (Steady fx) b3) :
    All (SteadyDone fx) (doDrawerErase b0 b1 b2 b3) := by
  unfold doDrawerErase
  repeat' first
    | with_reducible assumption
    | with_reducible apply State.modDrawer_steady
    | with_reducible apply pendingReply_steady
    | with_reducible apply busy_steady
    | with_reducible refine All.branch (fun _ => ?_) (fun _ => ?_)

theorem execDrawerErase_steady {fx : Fixed} (p : Pkt) (s : State) (hs1 : All (Steady fx) s) :
    All (SteadyAns fx) (execDrawerErase p s) := by
  unfold execDrawerErase
  repeat' first
    | with_reducible assumption
    | with_reducible apply State.runCommand_steady
    | with_reducible apply doDrawerErase_steady
    | with_reducible refine All.next ?_

theorem State.zeroRange_steady {fx : Fixed} (s : State) (base size : Nat) (hs1 : All (Steady fx) s) :
    All (Steady fx) (State.zeroRange s base size) := by
  unfold State.zeroRange
  have h : All (Steady fx) ({ s with cab := { s.cab with
      mem := s.cab.mem.filter fun c => !(decide (base ≤ c.1) && decide (c.1 < base + size) && !s.chanOut (chanOf c.1))
      bad := s.cab.bad.filter fun u => !(decide (base ≤ 64 * u) && decide (64 * u < base + size) &&
        !s.chanOut (chanOf (64 * u))) } } : State) :=
    All.updWf hs1 rfl (Memory.wf_filter _ hs1.cabWf) hs1.scratchWf hs1.hostWf hs1.peerWf
  exact All.branch (fun _ => h) fun _ => State.tick_steady _ _ _ _ h

theorem State.eraseDone_steady {fx : Fixed} (s : State) (d : Nat) (hs1 : All (Steady fx) s) :
    All (Steady fx) (State.eraseDone s d) := by
  unfold State.eraseDone
  repeat' first
    | with_reducible assumption
    | with_reducible apply State.modDrawer_steady
    | with_reducible apply State.complete_steady
    | with_reducible apply State.zeroRange_steady
    | with_reducible refine All.branch (fun _ => ?_) (fun _ => ?_)
    | split

theorem execDrawerEraseDone_steady {fx : Fixed} (drawer : Fin 64) (s : State) (hs1 : All (Steady fx) s) :
    All (SteadyAns fx) (execDrawerEraseDone drawer s) := by
  unfold execDrawerEraseDone
  repeat' first
    | with_reducible assumption
    | with_reducible apply State.eraseDone_steady
    | with_reducible refine All.next ?_

theorem sealStep_steady {fx : Fixed} (x : State × List (Nat × Nat)) (d : Nat) (hs1 : All (SteadyFst fx) x) :
    All (SteadyFst fx) (sealStep x d) := by
  unfold sealStep
  repeat' first
    | with_reducible assumption
    | with_reducible apply State.sealDrawer_steady
    | (with_reducible apply All.fst; first | with_reducible assumption)
    | with_reducible refine All.pair ?_

theorem doSealNow_steady {fx : Fixed} (b0 : Waiter) (b1 : Pkt) (b2 : List Byte) (b3 : State) (hs1 : All (Steady fx) b3) :
    All (SteadyDone fx) (doSealNow b0 b1 b2 b3) := by
  unfold doSealNow
  repeat' first
    | with_reducible assumption
    | with_reducible apply ok_steady
    | with_reducible apply busy_steady
    | with_reducible apply sealStep_steady
    | with_reducible refine All.branch (fun _ => ?_) (fun _ => ?_)
    | with_reducible refine All.folded ?_ (fun _ _ _ => ?_)
    | (with_reducible apply All.fst; first | with_reducible assumption | with_reducible apply sealStep_steady | with_reducible refine All.folded ?_ (fun _ _ _ => ?_))
    | with_reducible refine All.pair ?_

theorem execSealNow_steady {fx : Fixed} (p : Pkt) (s : State) (hs1 : All (Steady fx) s) :
    All (SteadyAns fx) (execSealNow p s) := by
  unfold execSealNow
  repeat' first
    | with_reducible assumption
    | with_reducible apply State.runCommand_steady
    | with_reducible apply doSealNow_steady
    | with_reducible refine All.next ?_

theorem State.sealTimer_steady {fx : Fixed} (s : State) (d : Nat) (hs1 : All (Steady fx) s) :
    All (Steady fx) (State.sealTimer s d) := by
  unfold State.sealTimer
  repeat' first
    | with_reducible assumption
    | with_reducible apply State.sealDrawer_steady
    | with_reducible refine All.branch (fun _ => ?_) (fun _ => ?_)

theorem execSealTimer_steady {fx : Fixed} (drawer : Fin 64) (at8 : Fin 3277) (s : State) (hs1 : All (Steady fx) s) :
    All (SteadyAns fx) (execSealTimer drawer at8 s) := by
  unfold execSealTimer
  repeat' first
    | with_reducible assumption
    | with_reducible apply State.at__steady
    | with_reducible apply State.sealTimer_steady
    | with_reducible refine All.next ?_

theorem State.evidenceDrain_steady {fx : Fixed} (s : State) (hs1 : All (Steady fx) s) :
    All (Steady fx) (State.evidenceDrain s) := by
  unfold State.evidenceDrain
  repeat' first
    | with_reducible assumption
    | with_reducible apply State.drainOne_steady
    | with_reducible refine All.branch (fun _ => ?_) (fun _ => ?_)
    | fail_if_no_progress (with_reducible refine All.upd ?_ (by rfl) (by rfl) (by rfl) (by rfl) (by rfl))

theorem execEvidenceDrain_steady {fx : Fixed} (at8 : Fin 3277) (s : State) (hs1 : All (Steady fx) s) :
    All (SteadyAns fx) (execEvidenceDrain at8 s) := by
  unfold execEvidenceDrain
  repeat' first
    | with_reducible assumption
    | with_reducible apply State.at__steady
    | with_reducible apply State.evidenceDrain_steady
    | with_reducible refine All.next ?_

theorem State.rposWrite_steady {fx : Fixed} (s : State) (n d : Nat) (v : BitVec 64) (hs1 : All (Steady fx) s) :
    All (Steady fx) (State.rposWrite s n d v) := by
  unfold State.rposWrite
  repeat' first
    | with_reducible assumption
    | with_reducible apply State.modDrawer_steady
    | with_reducible refine All.branch (fun _ => ?_) (fun _ => ?_)

theorem execCabDrwRposWrite_steady {fx : Fixed} (inst : Fin 64) (drawer : Fin 64) (v : BitVec 64) (s : State) (hs1 : All (Steady fx) s) :
    All (SteadyAns fx) (execCabDrwRposWrite inst drawer v s) := by
  unfold execCabDrwRposWrite
  repeat' first
    | with_reducible assumption
    | with_reducible apply State.rposWrite_steady
    | with_reducible refine All.next ?_

theorem State.setReplay_steady {fx : Fixed} (s : State) (op idx e : Nat) (hs1 : All (Steady fx) s) :
    All (Steady fx) (State.setReplay s op idx e) := by
  unfold State.setReplay
  repeat' first
    | with_reducible assumption
    | with_reducible apply State.modReq_steady
    | with_reducible apply State.setMaster_steady
    | with_reducible apply State.setWork_steady
    | with_reducible refine All.branch (fun _ => ?_) (fun _ => ?_)

theorem doReplayConfig_steady {fx : Fixed} (b0 : Waiter) (b1 : Pkt) (b2 : List Byte) (b3 : State) (hs1 : All (Steady fx) b3) :
    All (SteadyDone fx) (doReplayConfig b0 b1 b2 b3) := by
  unfold doReplayConfig
  repeat' first
    | with_reducible assumption
    | with_reducible apply ok_steady
    | with_reducible apply busy_steady
    | with_reducible apply noResource_steady
    | with_reducible apply d0Busy_steady
    | with_reducible apply State.setReplay_steady
    | with_reducible refine All.branch (fun _ => ?_) (fun _ => ?_)

theorem State.replayConfig_steady {fx : Fixed} (s : State) (op : Nat) (p : Pkt) (hs1 : All (Steady fx) s) :
    All (Steady fx) (State.replayConfig s op p) := by
  unfold State.replayConfig
  repeat' first
    | with_reducible assumption
    | with_reducible apply State.runCommand_steady
    | with_reducible apply doReplayConfig_steady

theorem execReplayConfigCapture_steady {fx : Fixed} (p : Pkt) (s : State) (hs1 : All (Steady fx) s) :
    All (SteadyAns fx) (execReplayConfigCapture p s) := by
  unfold execReplayConfigCapture
  repeat' first
    | with_reducible assumption
    | with_reducible apply State.replayConfig_steady
    | with_reducible refine All.next ?_

theorem execReplayConfigRequest_steady {fx : Fixed} (p : Pkt) (s : State) (hs1 : All (Steady fx) s) :
    All (SteadyAns fx) (execReplayConfigRequest p s) := by
  unfold execReplayConfigRequest
  repeat' first
    | with_reducible assumption
    | with_reducible apply State.replayConfig_steady
    | with_reducible refine All.next ?_

theorem execReplayConfigQuota_steady {fx : Fixed} (p : Pkt) (s : State) (hs1 : All (Steady fx) s) :
    All (SteadyAns fx) (execReplayConfigQuota p s) := by
  unfold execReplayConfigQuota
  repeat' first
    | with_reducible assumption
    | with_reducible apply State.replayConfig_steady
    | with_reducible refine All.next ?_

theorem doCabinetPause_steady {fx : Fixed} (b0 : Waiter) (b1 : Pkt) (b2 : List Byte) (b3 : State) (hs1 : All (Steady fx) b3) :
    All (SteadyDone fx) (doCabinetPause b0 b1 b2 b3) := by
  unfold doCabinetPause
  repeat' first
    | with_reducible assumption
    | with_reducible apply State.sealAll_steady
    | with_reducible apply pendingReply_steady
    | with_reducible apply busy_steady
    | with_reducible refine All.branch (fun _ => ?_) (fun _ => ?_)
    | intro _ _
    | fail_if_no_progress (with_reducible refine All.upd ?_ (by rfl) (by rfl) (by rfl) (by rfl) (by rfl))

theorem State.cabinetPause_steady {fx : Fixed} (s : State) (op : Nat) (p : Pkt) (hs1 : All (Steady fx) s) :
    All (Steady fx) (State.cabinetPause s op p) := by
  unfold State.cabinetPause
  repeat' first
    | with_reducible assumption
    | with_reducible apply State.runCommand_steady
    | with_reducible apply doCabinetPause_steady

theorem execCabinetPause_steady {fx : Fixed} (p : Pkt) (s : State) (hs1 : All (Steady fx) s) :
    All (SteadyAns fx) (execCabinetPause p s) := by
  unfold execCabinetPause
  repeat' first
    | with_reducible assumption
    | with_reducible apply State.cabinetPause_steady
    | with_reducible refine All.next ?_

theorem execCabinetResume_steady {fx : Fixed} (p : Pkt) (s : State) (hs1 : All (Steady fx) s) :
    All (SteadyAns fx) (execCabinetResume p s) := by
  unfold execCabinetResume
  repeat' first
    | with_reducible assumption
    | with_reducible apply State.cabinetPause_steady
    | with_reducible refine All.next ?_

theorem State.pauseDone_steady {fx : Fixed} (s : State) (hs1 : All (Steady fx) s) :
    All (Steady fx) (State.pauseDone s) := by
  unfold State.pauseDone
  repeat' first
    | with_reducible assumption
    | with_reducible apply State.completeRequests_steady
    | with_reducible apply State.selfRefresh_steady
    | with_reducible apply State.complete_steady
    | with_reducible refine All.branch (fun _ => ?_) (fun _ => ?_)
    | with_reducible exact All.none
    | with_reducible exact All.noneFst
    | with_reducible refine All.some ?_
    | with_reducible refine All.someFst ?_
    | (with_reducible refine All.ofFst (by assumption) ?_)
    | (with_reducible refine All.ofSnd (by assumption) ?_)
    | (with_reducible refine All.ofMid (by assumption) ?_)
    | (with_reducible refine All.ofThird (by assumption) ?_)
    | (with_reducible refine All.ofSome (by assumption) ?_)
    | (with_reducible refine All.ofSomeFst (by assumption) ?_)
    | (with_reducible refine All.ofOk (by assumption) ?_)
    | split
    | with_reducible refine All.pair ?_
    | with_reducible refine All.pairSnd ?_
    | with_reducible refine All.mid ?_
    | with_reducible refine All.third ?_
    | fail_if_no_progress (with_reducible refine All.upd ?_ (by rfl) (by rfl) (by rfl) (by rfl) (by rfl))

theorem execCabinetPauseDone_steady {fx : Fixed} (s : State) (hs1 : All (Steady fx) s) :
    All (SteadyAns fx) (execCabinetPauseDone s) := by
  unfold execCabinetPauseDone
  repeat' first
    | with_reducible assumption
    | with_reducible apply State.pauseDone_steady
    | with_reducible refine All.next ?_

theorem State.resumeDone_steady {fx : Fixed} (s : State) (drifts : List (Fin 16 × List Int)) (hs1 : All (Steady fx) s) :
    All (Steady fx) (State.resumeDone s drifts) := by
  unfold State.resumeDone
  repeat' first
    | with_reducible assumption
    | with_reducible apply State.modChan_steady
    | with_reducible apply State.selfRefresh_steady
    | with_reducible apply State.calibrateRanks_steady
    | with_reducible apply State.complete_steady
    | with_reducible apply State.settleCloses_steady
    | with_reducible refine All.branch (fun _ => ?_) (fun _ => ?_)
    | with_reducible exact All.none
    | with_reducible exact All.noneFst
    | with_reducible refine All.some ?_
    | with_reducible refine All.someFst ?_
    | with_reducible refine All.folded ?_ (fun _ _ _ => ?_)
    | (with_reducible refine All.ofFst (by assumption) ?_)
    | (with_reducible refine All.ofSnd (by assumption) ?_)
    | (with_reducible refine All.ofMid (by assumption) ?_)
    | (with_reducible refine All.ofThird (by assumption) ?_)
    | (with_reducible refine All.ofSome (by assumption) ?_)
    | (with_reducible refine All.ofSomeFst (by assumption) ?_)
    | (with_reducible refine All.ofOk (by assumption) ?_)
    | split
    | with_reducible refine All.pair ?_
    | with_reducible refine All.pairSnd ?_
    | with_reducible refine All.mid ?_
    | with_reducible refine All.third ?_
    | intro _ _
    | fail_if_no_progress (with_reducible refine All.upd ?_ (by rfl) (by rfl) (by rfl) (by rfl) (by rfl))

theorem execCabinetResumeDone_steady {fx : Fixed} (drifts : List (Fin 16 × List Int)) (s : State) (hs1 : All (Steady fx) s) :
    All (SteadyAns fx) (execCabinetResumeDone drifts s) := by
  unfold execCabinetResumeDone
  repeat' first
    | with_reducible assumption
    | with_reducible apply State.resumeDone_steady
    | with_reducible refine All.branch (fun _ => ?_) (fun _ => ?_)
    | with_reducible refine All.next ?_

/-! ### Dram -/

theorem State.trainingDone_steady {fx : Fixed} (s : State) (k : Nat) (t : Training) (hs1 : All (Steady fx) s) :
    All (Steady fx) (State.trainingDone s k t) := by
  unfold State.trainingDone
  repeat' first
    | with_reducible assumption
    | with_reducible apply State.modChan_steady
    | with_reducible apply State.chanFail_steady
    | with_reducible refine All.branch (fun _ => ?_) (fun _ => ?_)
    | intro _ _
    | fail_if_no_progress (with_reducible refine All.upd ?_ (by rfl) (by rfl) (by rfl) (by rfl) (by rfl))

theorem execDramTrainingDone_steady {fx : Fixed} (ch : Fin 16) (result : Training) (s : State) (hs1 : All (Steady fx) s) :
    All (SteadyAns fx) (execDramTrainingDone ch result s) := by
  unfold execDramTrainingDone
  repeat' first
    | with_reducible assumption
    | with_reducible apply State.trainingDone_steady
    | with_reducible refine All.next ?_

theorem State.cabinetInitialised_steady {fx : Fixed} (s : State) (hs1 : All (Steady fx) s) :
    All (Steady fx) (State.cabinetInitialised s) := by
  unfold State.cabinetInitialised
  refine All.branch (fun _ => hs1) fun _ => ?_
  have h : All (Steady fx) ((List.range 16).foldl (fun (s : State) k =>
      if (s.chan k).st = .initialising then s.modChan k fun c => { c with st := .inService } else s)
      ({ s with cab := { s.cab with mem := s.cab.mem.filter fun c => s.chanOut (chanOf c.1), bad := [] } } : State)) := by
    refine All.folded ?_ fun s k h => All.branch (fun _ => State.modChan_steady _ _ _ h) fun _ => h
    exact All.updWf hs1 rfl (Memory.wf_filter _ hs1.cabWf) hs1.scratchWf hs1.hostWf hs1.peerWf
  exact (fun t (ht : All (Steady fx) t) => (All.upd ht rfl rfl rfl rfl rfl : All (Steady fx) ({ t with
      cab := { t.cab with initialising := false, paused := false }
      boot := { t.boot with cabinetReady := true, phase := if t.boot.done then 10 else 9 } } : State))) _ h

theorem execCabinetInitialised_steady {fx : Fixed} (s : State) (hs1 : All (Steady fx) s) :
    All (SteadyAns fx) (execCabinetInitialised s) := by
  unfold execCabinetInitialised
  repeat' first
    | with_reducible assumption
    | with_reducible apply State.cabinetInitialised_steady
    | with_reducible refine All.next ?_

theorem State.dramRefresh_steady {fx : Fixed} (s : State) (k : Nat) (drift : List Int) (hs1 : All (Steady fx) s) :
    All (Steady fx) (State.dramRefresh s k drift) := by
  unfold State.dramRefresh
  repeat' first
    | with_reducible assumption
    | with_reducible apply State.modChan_steady
    | with_reducible apply State.selfRefresh_steady
    | with_reducible refine All.branch (fun _ => ?_) (fun _ => ?_)

theorem execDramRefresh_steady {fx : Fixed} (ch : Fin 16) (drift : List Int) (s : State) (hs1 : All (Steady fx) s) :
    All (SteadyAns fx) (execDramRefresh ch drift s) := by
  unfold execDramRefresh
  repeat' first
    | with_reducible assumption
    | with_reducible apply State.dramRefresh_steady
    | with_reducible refine All.next ?_

theorem State.uncorrectable_steady {fx : Fixed} (s : State) (a : Nat) (hs1 : All (Steady fx) s) :
    All (Steady fx) (State.uncorrectable s a) := by
  unfold State.uncorrectable
  repeat' first
    | with_reducible assumption
    | with_reducible apply State.modChan_steady
    | with_reducible apply State.raise_steady
    | with_reducible apply State.chanFail_steady
    | with_reducible refine All.branch (fun _ => ?_) (fun _ => ?_)
    | intro _ _
    | fail_if_no_progress (with_reducible refine All.upd ?_ (by rfl) (by rfl) (by rfl) (by rfl) (by rfl))

theorem State.eccRead_steady {fx : Fixed} (s : State) (a devices : Nat) (hs1 : All (Steady fx) s) :
    All (Steady fx) (State.eccRead s a devices) := by
  unfold State.eccRead
  repeat' first
    | with_reducible assumption
    | with_reducible apply State.modChan_steady
    | with_reducible apply State.uncorrectable_steady
    | with_reducible refine All.branch (fun _ => ?_) (fun _ => ?_)
    | (with_reducible refine All.ofFst (by assumption) ?_)
    | (with_reducible refine All.ofSnd (by assumption) ?_)
    | (with_reducible refine All.ofMid (by assumption) ?_)
    | (with_reducible refine All.ofThird (by assumption) ?_)
    | (with_reducible refine All.ofSome (by assumption) ?_)
    | (with_reducible refine All.ofSomeFst (by assumption) ?_)
    | (with_reducible refine All.ofOk (by assumption) ?_)
    | split
    | (dsimp only; split)
    | intro _ _
    | fail_if_no_progress (with_reducible refine All.upd ?_ (by rfl) (by rfl) (by rfl) (by rfl) (by rfl))

theorem State.dramRead_steady {fx : Fixed} (s : State) (a devices : Nat) (hs1 : All (Steady fx) s) :
    All (Steady fx) (State.dramRead s a devices) := by
  unfold State.dramRead
  repeat' first
    | with_reducible assumption
    | with_reducible apply State.tick_steady
    | with_reducible apply State.selfRefresh_steady
    | with_reducible apply State.eccRead_steady
    | with_reducible refine All.branch (fun _ => ?_) (fun _ => ?_)

theorem execDramUncorrectable_steady {fx : Fixed} (unit : BitVec 36) (devices : Nat) (s : State) (hs1 : All (Steady fx) s) :
    All (SteadyAns fx) (execDramUncorrectable unit devices s) := by
  unfold execDramUncorrectable
  repeat' first
    | with_reducible assumption
    | with_reducible apply State.dramRead_steady
    | with_reducible refine All.branch (fun _ => ?_) (fun _ => ?_)
    | with_reducible refine All.next ?_

theorem State.patrolScrub_steady {fx : Fixed} (s : State) (k devices : Nat) (hs1 : All (Steady fx) s) :
    All (Steady fx) (State.patrolScrub s k devices) := by
  unfold State.patrolScrub
  repeat' first
    | with_reducible assumption
    | with_reducible apply State.modChan_steady
    | with_reducible apply State.selfRefresh_steady
    | with_reducible apply State.eccRead_steady
    | with_reducible refine All.branch (fun _ => ?_) (fun _ => ?_)

theorem execPatrolScrub_steady {fx : Fixed} (ch : Fin 16) (devices : Nat) (s : State) (hs1 : All (Steady fx) s) :
    All (SteadyAns fx) (execPatrolScrub ch devices s) := by
  unfold execPatrolScrub
  repeat' first
    | with_reducible assumption
    | with_reducible apply State.patrolScrub_steady
    | with_reducible refine All.branch (fun _ => ?_) (fun _ => ?_)
    | with_reducible refine All.next ?_

/-! ### HostOps -/

theorem State.cabTouch_steady {fx : Fixed} (s : State) (src a n : Nat) (hs1 : All (Steady fx) s) :
    All (Steady fx) (State.cabTouch s src a n) := by
  unfold State.cabTouch
  repeat' first
    | with_reducible assumption
    | with_reducible apply State.request_steady
    | with_reducible apply State.tick_steady
    | with_reducible apply State.uncorrectable_steady
    | with_reducible refine All.branch (fun _ => ?_) (fun _ => ?_)
    | with_reducible refine All.folded ?_ (fun _ _ _ => ?_)

theorem State.d0Read_steady {fx : Fixed} (s : State) (a : Nat) (hs1 : All (Steady fx) s) :
    All (SteadyFst fx) (State.d0Read s a) := by
  unfold State.d0Read
  repeat' first
    | with_reducible assumption
    | with_reducible apply State.cabTouch_steady
    | with_reducible refine All.branch (fun _ => ?_) (fun _ => ?_)
    | with_reducible refine All.pair ?_

theorem State.markDamaged_steady {fx : Fixed} (s : State) (block : Nat) (hs1 : All (Steady fx) s) :
    All (Steady fx) (State.markDamaged s block) := by
  unfold State.markDamaged
  repeat' first
    | with_reducible assumption
    | with_reducible apply State.tick_steady
    | with_reducible apply State.occur_steady
    | with_reducible refine All.branch (fun _ => ?_) (fun _ => ?_)
    | with_reducible refine All.pair ?_
    | with_reducible refine All.pairSnd ?_
    | with_reducible refine All.mid ?_
    | with_reducible refine All.third ?_
    | intro _ _
    | fail_if_no_progress (with_reducible refine All.upd ?_ (by rfl) (by rfl) (by rfl) (by rfl) (by rfl))

theorem State.readMaster_steady {fx : Fixed} (s : State) (code gen idx : Nat) (hs1 : All (Steady fx) s) :
    All (SteadyFst fx) (State.readMaster s code gen idx) := by
  unfold State.readMaster
  repeat' first
    | with_reducible assumption
    | with_reducible apply State.d0Read_steady
    | with_reducible apply State.markDamaged_steady
    | with_reducible refine All.branch (fun _ => ?_) (fun _ => ?_)
    | with_reducible exact All.none
    | with_reducible exact All.noneFst
    | with_reducible refine All.some ?_
    | with_reducible refine All.someFst ?_
    | (with_reducible apply All.fst; first | with_reducible assumption | with_reducible apply State.d0Read_steady)
    | with_reducible refine All.pair ?_

theorem State.issueRead_steady {fx : Fixed} (s : State) (fn : Nat) (why : ReadFor) (hs1 : All (Steady fx) s) :
    All (Steady fx) (State.issueRead s fn why) := by
  unfold State.issueRead
  repeat' first
    | with_reducible assumption
    | (dsimp only; split)
    | intro _ _
    | fail_if_no_progress (with_reducible refine All.upd ?_ (by rfl) (by rfl) (by rfl) (by rfl) (by rfl))

theorem State.endRead_steady {fx : Fixed} (s : State) (t : BitVec 14) (hs1 : All (Steady fx) s) :
    All (Steady fx) (State.endRead s t) := by
  unfold State.endRead
  repeat' first
    | with_reducible assumption
    | intro _ _
    | fail_if_no_progress (with_reducible refine All.upd ?_ (by rfl) (by rfl) (by rfl) (by rfl) (by rfl))

theorem State.dropChain_steady {fx : Fixed} (s : State) (r : Nat) (hs1 : All (Steady fx) s) :
    All (Steady fx) (State.dropChain s r) := by
  unfold State.dropChain
  repeat' first
    | with_reducible assumption
    | with_reducible apply State.modDma_steady
    | with_reducible apply State.decrement_steady
    | split

theorem State.haltRing_steady {fx : Fixed} (s : State) (r code : Nat) (hs1 : All (Steady fx) s) :
    All (Steady fx) (State.haltRing s r code) := by
  unfold State.haltRing
  repeat' first
    | with_reducible assumption
    | with_reducible apply State.modDma_steady
    | with_reducible apply State.raise_steady
    | with_reducible apply State.dropChain_steady

theorem State.freeFrameCells_steady {fx : Fixed} (s : State) (f : Frame) (hs1 : All (Steady fx) s) :
    All (Steady fx) (State.freeFrameCells s f) := by
  unfold State.freeFrameCells
  repeat' first
    | with_reducible assumption
    | with_reducible apply State.outOfReserve_steady
    | with_reducible apply State.walkChain_steady
    | with_reducible apply State.decrement_steady
    | with_reducible refine All.branch (fun _ => ?_) (fun _ => ?_)
    | with_reducible exact All.none
    | with_reducible exact All.noneFst
    | with_reducible refine All.some ?_
    | with_reducible refine All.someFst ?_
    | (with_reducible refine All.ofFst (by assumption) ?_)
    | (with_reducible refine All.ofSnd (by assumption) ?_)
    | (with_reducible refine All.ofMid (by assumption) ?_)
    | (with_reducible refine All.ofThird (by assumption) ?_)
    | (with_reducible refine All.ofSome (by assumption) ?_)
    | (with_reducible refine All.ofSomeFst (by assumption) ?_)
    | (with_reducible refine All.ofOk (by assumption) ?_)
    | split

theorem State.dropBacklog_steady {fx : Fixed} (s : State) (r : Nat) (hs1 : All (Steady fx) s) :
    All (Steady fx) (State.dropBacklog s r) := by
  unfold State.dropBacklog
  repeat' first
    | with_reducible assumption
    | with_reducible apply State.modDma_steady
    | with_reducible apply State.freeFrameCells_steady
    | with_reducible refine All.folded ?_ (fun _ _ _ => ?_)

theorem State.settleRing_steady {fx : Fixed} (s : State) (r : Nat) (hs1 : All (Steady fx) s) :
    All (Steady fx) (State.settleRing s r) := by
  unfold State.settleRing
  repeat' first
    | with_reducible assumption
    | with_reducible apply State.modDma_steady
    | with_reducible refine All.branch (fun _ => ?_) (fun _ => ?_)

theorem State.resetRing_steady {fx : Fixed} (s : State) (r : Nat) (hs1 : All (Steady fx) s) :
    All (Steady fx) (State.resetRing s r) := by
  unfold State.resetRing
  repeat' first
    | with_reducible assumption
    | with_reducible apply State.modDma_steady
    | with_reducible apply State.dropChain_steady
    | with_reducible apply State.dropBacklog_steady
    | with_reducible apply State.settleRing_steady

theorem State.flushCmdRing_steady {fx : Fixed} (s : State) (n : Nat) (hs1 : All (Steady fx) s) :
    All (Steady fx) (State.flushCmdRing s n) := by
  unfold State.flushCmdRing
  repeat' first
    | with_reducible assumption
    | with_reducible apply State.modCmdRing_steady

theorem State.settlePortReset_steady {fx : Fixed} (s : State) (hs1 : All (Steady fx) s) :
    All (Steady fx) (State.settlePortReset s) := by
  unfold State.settlePortReset
  repeat' first
    | with_reducible assumption
    | with_reducible apply State.flushCmdRing_steady
    | with_reducible refine All.branch (fun _ => ?_) (fun _ => ?_)
    | with_reducible refine All.folded ?_ (fun _ _ _ => ?_)

theorem State.portResetRing_steady {fx : Fixed} (s : State) (n : Nat) (hs1 : All (Steady fx) s) :
    All (Steady fx) (State.portResetRing s n) := by
  unfold State.portResetRing
  repeat' first
    | with_reducible assumption
    | with_reducible apply State.modCmdRing_steady
    | with_reducible apply State.modCtx_steady
    | with_reducible refine All.branch (fun _ => ?_) (fun _ => ?_)
    | intro _ _
    | fail_if_no_progress (with_reducible refine All.upd ?_ (by rfl) (by rfl) (by rfl) (by rfl) (by rfl))

theorem State.portResetCp0_steady {fx : Fixed} (s : State) (hs1 : All (Steady fx) s) :
    All (Steady fx) (State.portResetCp0 s) := by
  unfold State.portResetCp0
  repeat' first
    | with_reducible assumption
    | with_reducible apply State.unfence_steady
    | with_reducible apply State.settlePortReset_steady
    | with_reducible apply State.portResetRing_steady
    | with_reducible refine All.branch (fun _ => ?_) (fun _ => ?_)
    | with_reducible refine All.folded ?_ (fun _ _ _ => ?_)

theorem State.hostFreeze_steady {fx : Fixed} (s : State) (hs1 : All (Steady fx) s) :
    All (Steady fx) (State.hostFreeze s) := by
  unfold State.hostFreeze
  repeat' first
    | with_reducible assumption
    | with_reducible apply State.modDma_steady
    | with_reducible apply State.occur_steady
    | with_reducible apply State.dropChain_steady
    | with_reducible apply State.dropBacklog_steady
    | with_reducible apply State.settleRing_steady
    | with_reducible apply State.portResetCp0_steady
    | with_reducible refine All.folded ?_ (fun _ _ _ => ?_)
    | intro _ _
    | fail_if_no_progress (with_reducible refine All.upd ?_ (by rfl) (by rfl) (by rfl) (by rfl) (by rfl))

theorem State.recountReq_steady {fx : Fixed} (s : State) (n : Nat) (hs1 : All (Steady fx) s) :
    All (Steady fx) (State.recountReq s n) := by
  unfold State.recountReq
  repeat' first
    | with_reducible assumption
    | with_reducible apply State.modReq_steady

theorem State.startRecount_steady {fx : Fixed} (s : State) (ns : List Nat) (ws : List Waiter) (hs1 : All (Steady fx) s) :
    All (Steady fx) (State.startRecount s ns ws) := by
  unfold State.startRecount
  repeat' first
    | with_reducible assumption
    | with_reducible refine All.branch (fun _ => ?_) (fun _ => ?_)
    | with_reducible refine All.some ?_
    | with_reducible refine All.someFst ?_
    | with_reducible refine All.pair ?_
    | with_reducible refine All.pairSnd ?_
    | with_reducible refine All.mid ?_
    | with_reducible refine All.third ?_
    | fail_if_no_progress (with_reducible refine All.upd ?_ (by rfl) (by rfl) (by rfl) (by rfl) (by rfl))

theorem State.freeHolds_steady {fx : Fixed} (s : State) (n : Nat) (hs1 : All (Steady fx) s) :
    All (Steady fx) (State.freeHolds s n) := by
  unfold State.freeHolds
  repeat' first
    | with_reducible assumption
    | with_reducible apply State.decrement_steady
    | with_reducible refine All.folded ?_ (fun _ _ _ => ?_)

theorem State.settleInst_steady {fx : Fixed} (s : State) (hs1 : All (Steady fx) s) :
    All (Steady fx) (State.settleInst s) := by
  unfold State.settleInst
  repeat' first
    | with_reducible assumption
    | with_reducible apply State.modInst_steady
    | with_reducible apply State.complete_steady
    | with_reducible refine All.branch (fun _ => ?_) (fun _ => ?_)
    | with_reducible refine All.folded ?_ (fun _ _ _ => ?_)
    | (dsimp only; split)

end Sys2Proof.Machine
end

