-- ==== Sys2Proof/Laws/SteadyHost.lean ====
section
/-!
SUPPORT. Every operation of the DMA rings, the instances, the host link and the performance counters keeps `Steady`: one lemma each.
-/

namespace Sys2Proof.Machine

/-! ### Dma -/

theorem State.dmaCtrl_steady {fx : Fixed} (s : State) (r n v : Nat) (hs1 : All (Steady fx) s) :
    All (Steady fx) (State.dmaCtrl s r n v) := by
  unfold State.dmaCtrl
  repeat' first
    | with_reducible assumption
    | with_reducible apply State.modDma_steady
    | with_reducible apply State.resetRing_steady
    | with_reducible refine All.branch (fun _ => ?_) (fun _ => ?_)

theorem execDmaCtrlEnable_steady {fx : Fixed} (ring : Fin 1024) (by_ : Fin 64) (v : BitVec 64) (s : State) (hs1 : All (Steady fx) s) :
    All (SteadyAns fx) (execDmaCtrlEnable ring by_ v s) := by
  unfold execDmaCtrlEnable
  repeat' first
    | with_reducible assumption
    | with_reducible apply State.dmaCtrl_steady
    | with_reducible refine All.next ?_

theorem execDmaCtrlReset_steady {fx : Fixed} (ring : Fin 1024) (by_ : Fin 64) (s : State) (hs1 : All (Steady fx) s) :
    All (SteadyAns fx) (execDmaCtrlReset ring by_ s) := by
  unfold execDmaCtrlReset
  repeat' first
    | with_reducible assumption
    | with_reducible apply State.resetRing_steady
    | with_reducible refine All.branch (fun _ => ?_) (fun _ => ?_)
    | with_reducible refine All.next ?_

theorem State.softStore_steady {fx : Fixed} (s : State) (mem : List (BitVec 64 × List Byte)) (hs1 : All (Steady fx) s) :
    All (Steady fx) (State.softStore s mem) := by
  exact All.updWf hs1 rfl hs1.cabWf hs1.scratchWf (Memory.wf_writes mem (fun y => y.1.toNat) (fun y => y.2) hs1.hostWf) hs1.peerWf

theorem State.dmaTail_steady {fx : Fixed} (s : State) (r n : Nat) (v : BitVec 32) (hs1 : All (Steady fx) s) :
    All (Steady fx) (State.dmaTail s r n v) := by
  unfold State.dmaTail
  repeat' first
    | with_reducible assumption
    | with_reducible apply State.modDma_steady
    | with_reducible refine All.branch (fun _ => ?_) (fun _ => ?_)

theorem execDmaTailWrite_steady {fx : Fixed} (ring : Fin 1024) (by_ : Fin 64) (v : BitVec 32) (mem : List (BitVec 64 × List Byte)) (s : State) (hs1 : All (Steady fx) s) :
    All (SteadyAns fx) (execDmaTailWrite ring by_ v mem s) := by
  unfold execDmaTailWrite
  repeat' first
    | with_reducible assumption
    | with_reducible apply State.softStore_steady
    | with_reducible apply State.dmaTail_steady
    | with_reducible refine All.next ?_

theorem State.circRpos_steady {fx : Fixed} (s : State) (r n : Nat) (v : BitVec 64) (hs1 : All (Steady fx) s) :
    All (Steady fx) (State.circRpos s r n v) := by
  unfold State.circRpos
  repeat' first
    | with_reducible assumption
    | with_reducible apply State.modDma_steady
    | with_reducible refine All.branch (fun _ => ?_) (fun _ => ?_)

theorem execDmaCircRposWrite_steady {fx : Fixed} (ring : Fin 1024) (by_ : Fin 64) (v : BitVec 64) (s : State) (hs1 : All (Steady fx) s) :
    All (SteadyAns fx) (execDmaCircRposWrite ring by_ v s) := by
  unfold execDmaCircRposWrite
  repeat' first
    | with_reducible assumption
    | with_reducible apply State.circRpos_steady
    | with_reducible refine All.next ?_

theorem State.completeDesc_steady {fx : Fixed} (s : State) (r : Nat) (i : BitVec 32) (d : List Byte) (hs1 : All (Steady fx) s) :
    All (Steady fx) (State.completeDesc s r i d) := by
  unfold State.completeDesc
  repeat' first
    | with_reducible assumption
    | with_reducible apply State.modDma_steady
    | with_reducible apply State.raise_steady
    | with_reducible apply State.hostWrite_steady
    | with_reducible refine All.branch (fun _ => ?_) (fun _ => ?_)

theorem State.completeRun_steady {fx : Fixed} (s : State) (r : Nat) (xs : List (BitVec 32 × List Byte)) (hs1 : All (Steady fx) s) :
    All (Steady fx) (State.completeRun s r xs) := by
  unfold State.completeRun
  repeat' first
    | with_reducible assumption
    | with_reducible apply State.completeDesc_steady
    | with_reducible refine All.folded ?_ (fun _ _ _ => ?_)

theorem State.completeChain_steady {fx : Fixed} (s : State) (r : Nat) (ds : List (List Byte)) (status detail : Nat) (hs1 : All (Steady fx) s) :
    All (Steady fx) (State.completeChain s r ds status detail) := by
  unfold State.completeChain
  repeat' first
    | with_reducible assumption
    | with_reducible apply State.modDma_steady
    | with_reducible apply State.completeRun_steady

theorem State.completeWrites_steady {fx : Fixed} (s : State) (r : Nat) (xs : List (BitVec 32 × List Byte)) (wrote : Bool) (hs1 : All (Steady fx) s) :
    All (Steady fx) (State.completeWrites s r xs wrote) := by
  unfold State.completeWrites
  repeat' first
    | with_reducible assumption
    | with_reducible apply State.modDma_steady
    | with_reducible apply State.issueRead_steady
    | with_reducible apply State.completeRun_steady
    | with_reducible refine All.branch (fun _ => ?_) (fun _ => ?_)

theorem State.finishBarrier_steady {fx : Fixed} (s : State) (r : Nat) (hs1 : All (Steady fx) s) :
    All (Steady fx) (State.finishBarrier s r) := by
  unfold State.finishBarrier
  repeat' first
    | with_reducible assumption
    | with_reducible apply State.modDma_steady
    | with_reducible apply State.completeRun_steady

theorem State.pushInject_steady {fx : Fixed} (s : State) (r : Nat) (f : Frame) (hs1 : All (Steady fx) s) :
    All (Steady fx) (State.pushInject s r f) := by
  unfold State.pushInject
  repeat' first
    | with_reducible assumption
    | fail_if_no_progress (with_reducible refine All.upd ?_ (by rfl) (by rfl) (by rfl) (by rfl) (by rfl))

theorem State.reserveReport_steady {fx : Fixed} (s : State) (r : Nat) (on : Bool) (hs1 : All (Steady fx) s) :
    All (Steady fx) (State.reserveReport s r on) := by
  unfold State.reserveReport
  repeat' first
    | with_reducible assumption
    | with_reducible apply State.modDma_steady
    | with_reducible refine All.branch (fun _ => ?_) (fun _ => ?_)

theorem State.injectLeased_steady {fx : Fixed} (s : State) (r : Nat) (d : List Byte) (hs1 : All (Steady fx) s) :
    All (Steady fx) (State.injectLeased s r d) := by
  unfold State.injectLeased
  repeat' first
    | with_reducible assumption
    | with_reducible apply State.modDma_steady
    | with_reducible apply State.hostFree_steady
    | with_reducible apply State.completeChain_steady
    | with_reducible apply State.pushInject_steady
    | with_reducible apply State.reserveReport_steady
    | with_reducible refine All.branch (fun _ => ?_) (fun _ => ?_)
    | split

theorem State.injectEnd_steady {fx : Fixed} (s : State) (r : Nat) (c : ChainProg) (cells : List Nat) (data : List Byte) (hs1 : All (Steady fx) s) :
    All (Steady fx) (State.injectEnd s r c cells data) := by
  unfold State.injectEnd
  repeat' first
    | with_reducible assumption
    | with_reducible apply State.fillCells_steady
    | with_reducible apply State.dropChain_steady
    | with_reducible apply State.completeChain_steady
    | with_reducible apply State.pushInject_steady
    | with_reducible refine All.branch (fun _ => ?_) (fun _ => ?_)
    | fail_if_no_progress (with_reducible refine All.upd ?_ (by rfl) (by rfl) (by rfl) (by rfl) (by rfl))

theorem State.injectBurst_steady {fx : Fixed} (s : State) (r : Nat) (c : ChainProg) (hs1 : All (Steady fx) s) :
    All (Steady fx) (State.injectBurst s r c) := by
  unfold State.injectBurst
  repeat' first
    | with_reducible assumption
    | with_reducible apply State.modDma_steady
    | with_reducible apply State.fillCells_steady
    | with_reducible apply State.cabTouch_steady
    | with_reducible apply State.injectEnd_steady
    | with_reducible refine All.branch (fun _ => ?_) (fun _ => ?_)
    | with_reducible refine All.some ?_
    | with_reducible refine All.someFst ?_
    | with_reducible refine All.folded ?_ (fun _ _ _ => ?_)

theorem State.injectStart_steady {fx : Fixed} (s : State) (r : Nat) (ds : List (List Byte)) (hs1 : All (Steady fx) s) :
    All (Steady fx) (State.injectStart s r ds) := by
  unfold State.injectStart
  repeat' first
    | with_reducible assumption
    | with_reducible apply State.modDma_steady
    | with_reducible apply State.refuseAllocation_steady
    | with_reducible apply State.allocate_steady
    | with_reducible apply State.reserveReport_steady
    | with_reducible refine All.branch (fun _ => ?_) (fun _ => ?_)
    | with_reducible refine All.some ?_
    | with_reducible refine All.someFst ?_
    | (with_reducible apply All.snd; first | with_reducible assumption | with_reducible apply State.allocate_steady)

theorem State.injectTake_steady {fx : Fixed} (s : State) (r : Nat) (rd : HostRead) (hs1 : All (Steady fx) s) :
    All (Steady fx) (State.injectTake s r rd) := by
  unfold State.injectTake
  repeat' first
    | with_reducible assumption
    | with_reducible apply State.haltRing_steady
    | with_reducible apply State.completeChain_steady
    | with_reducible apply State.injectLeased_steady
    | with_reducible apply State.injectStart_steady
    | with_reducible refine All.branch (fun _ => ?_) (fun _ => ?_)
    | (with_reducible refine All.ofFst (by assumption) ?_)
    | (with_reducible refine All.ofSnd (by assumption) ?_)
    | (with_reducible refine All.ofMid (by assumption) ?_)
    | (with_reducible refine All.ofThird (by assumption) ?_)
    | (with_reducible refine All.ofSome (by assumption) ?_)
    | (with_reducible refine All.ofSomeFst (by assumption) ?_)
    | (with_reducible refine All.ofOk (by assumption) ?_)
    | split

theorem State.slowDrop_steady {fx : Fixed} (s : State) (f : Frame) (hs1 : All (Steady fx) s) :
    All (Steady fx) (State.slowDrop s f) := by
  unfold State.slowDrop
  repeat' first
    | with_reducible assumption
    | with_reducible apply State.freeFrameCells_steady
    | fail_if_no_progress (with_reducible refine All.upd ?_ (by rfl) (by rfl) (by rfl) (by rfl) (by rfl))

theorem State.slowArrive_steady {fx : Fixed} (s : State) (pipe : Nat) (f : Frame) (hs1 : All (Steady fx) s) :
    All (Steady fx) (State.slowArrive s pipe f) := by
  unfold State.slowArrive
  repeat' first
    | with_reducible assumption
    | with_reducible apply State.modDma_steady
    | with_reducible apply State.freeFrameCells_steady
    | with_reducible apply State.slowDrop_steady
    | with_reducible refine All.branch (fun _ => ?_) (fun _ => ?_)
    | split

theorem State.spread_steady {fx : Fixed} (s : State) (own o : Nat) (part : List Byte) (b0 : List (List Byte)) (hs1 : All (Steady fx) s) :
    All (Steady fx) (State.spread s own o part b0) := by
  induction b0 generalizing s o part with
  | nil => exact hs1
  | cons d r ih =>
    exact All.branch (fun _ => ih _ _ _ hs1) fun _ => ih _ _ _ (State.hostWrite_steady _ _ _ _ hs1)

theorem State.leaseChain_steady {fx : Fixed} (s : State) (own : Nat) (f : Frame) (hs1 : All (Steady fx) s) :
    All (Steady fx) (State.leaseChain s own f) := by
  unfold State.leaseChain
  repeat' first
    | with_reducible assumption
    | with_reducible apply State.outOfReserve_steady
    | with_reducible apply State.credit_steady
    | with_reducible apply State.charge_steady
    | with_reducible apply State.endHold_steady
    | with_reducible refine All.branch (fun _ => ?_) (fun _ => ?_)
    | with_reducible exact All.none
    | with_reducible exact All.noneFst
    | with_reducible refine All.some ?_
    | with_reducible refine All.someFst ?_
    | (with_reducible refine All.ofFst (by assumption) ?_)
    | (with_reducible refine All.ofSnd (by assumption) ?_)
    | (with_reducible refine All.ofMid (by assumption) ?_)
    | (with_reducible refine All.ofThird (by assumption) ?_)
    | (with_reducible refine All.ofSome (by assumption) ?_)
    | (with_reducible refine All.ofSomeFst (by assumption) ?_)
    | (with_reducible refine All.ofOk (by assumption) ?_)
    | split
    | (dsimp only; split)
    | with_reducible refine All.pair ?_
    | with_reducible refine All.pairSnd ?_
    | with_reducible refine All.mid ?_
    | with_reducible refine All.third ?_
    | fail_if_no_progress (with_reducible refine All.upd ?_ (by rfl) (by rfl) (by rfl) (by rfl) (by rfl))

theorem State.deliverTake_steady {fx : Fixed} (s : State) (r : Nat) (rd : HostRead) (cellBad : Bool) (hs1 : All (Steady fx) s) :
    All (Steady fx) (State.deliverTake s r rd cellBad) := by
  unfold State.deliverTake
  repeat' first
    | with_reducible assumption
    | with_reducible apply State.modDma_steady
    | with_reducible apply State.tick_steady
    | with_reducible apply State.haltRing_steady
    | with_reducible apply State.completeChain_steady
    | with_reducible apply State.slowDrop_steady
    | with_reducible refine All.branch (fun _ => ?_) (fun _ => ?_)
    | with_reducible exact All.none
    | with_reducible exact All.noneFst
    | with_reducible refine All.some ?_
    | with_reducible refine All.someFst ?_
    | (with_reducible refine All.ofFst (by assumption) ?_)
    | (with_reducible refine All.ofSnd (by assumption) ?_)
    | (with_reducible refine All.ofMid (by assumption) ?_)
    | (with_reducible refine All.ofThird (by assumption) ?_)
    | (with_reducible refine All.ofSome (by assumption) ?_)
    | (with_reducible refine All.ofSomeFst (by assumption) ?_)
    | (with_reducible refine All.ofOk (by assumption) ?_)
    | split
    | (dsimp only; split)

theorem State.deliverBurst_steady {fx : Fixed} (s : State) (r : Nat) (c : ChainProg) (hs1 : All (Steady fx) s) :
    All (Steady fx) (State.deliverBurst s r c) := by
  unfold State.deliverBurst
  repeat' first
    | with_reducible assumption
    | with_reducible apply State.modDma_steady
    | with_reducible apply State.hostWrite_steady
    | with_reducible apply State.freeFrameCells_steady
    | with_reducible apply State.completeWrites_steady
    | with_reducible apply State.spread_steady
    | with_reducible apply State.leaseChain_steady
    | with_reducible refine All.branch (fun _ => ?_) (fun _ => ?_)
    | with_reducible exact All.none
    | with_reducible exact All.noneFst
    | with_reducible refine All.some ?_
    | with_reducible refine All.someFst ?_
    | (with_reducible refine All.ofFst (by assumption) ?_)
    | (with_reducible refine All.ofSnd (by assumption) ?_)
    | (with_reducible refine All.ofMid (by assumption) ?_)
    | (with_reducible refine All.ofThird (by assumption) ?_)
    | (with_reducible refine All.ofSome (by assumption) ?_)
    | (with_reducible refine All.ofSomeFst (by assumption) ?_)
    | (with_reducible refine All.ofOk (by assumption) ?_)
    | split
    | (dsimp only; split)

theorem State.spaceWrite_steady {fx : Fixed} (s : State) (space own a : Nat) (bs : List Byte) (hs1 : All (Steady fx) s) :
    All (Steady fx) (State.spaceWrite s space own a bs) := by
  unfold State.spaceWrite
  refine All.branch (fun _ => State.hostWrite_steady _ _ _ _ hs1) fun _ =>
    All.branch (fun _ => All.branch (fun _ => hs1) fun _ => ?_) fun _ => State.cabPut_steady _ _ _ (State.requests_steady _ _ _ _ hs1)
  exact All.updWf hs1 rfl hs1.cabWf hs1.scratchWf hs1.hostWf (Memory.wf_write _ _ hs1.peerWf)

theorem State.piecesWrite_steady {fx : Fixed} (s : State) (space own : Nat) (bs : List Byte) (b0 : List (Nat × Nat)) (hs1 : All (Steady fx) s) :
    All (Steady fx) (State.piecesWrite s space own bs b0) := by
  induction b0 generalizing s bs with
  | nil => exact hs1
  | cons d r ih => exact ih _ _ (State.spaceWrite_steady _ _ _ _ _ hs1)

theorem State.copyPart_steady {fx : Fixed} (s : State) (own : Nat) (c : CopyDesc) (o n : Nat) (hs1 : All (Steady fx) s) :
    All (SteadyFst fx) (State.copyPart s own c o n) := by
  unfold State.copyPart
  repeat' first
    | with_reducible assumption
    | with_reducible apply State.cabTouch_steady
    | with_reducible apply State.piecesWrite_steady
    | with_reducible refine All.branch (fun _ => ?_) (fun _ => ?_)
    | with_reducible refine All.pair ?_
    | with_reducible refine All.pairSnd ?_
    | with_reducible refine All.mid ?_
    | with_reducible refine All.third ?_
    | intro _ _
    | fail_if_no_progress (with_reducible refine All.upd ?_ (by rfl) (by rfl) (by rfl) (by rfl) (by rfl))

theorem State.copyBytes_steady {fx : Fixed} (s : State) (own : Nat) (c : CopyDesc) (moved : Nat) (hs1 : All (Steady fx) s) :
    All (SteadyFst fx) (State.copyBytes s own c moved) := by
  unfold State.copyBytes
  repeat' first
    | with_reducible assumption
    | with_reducible apply State.copyPart_steady
    | with_reducible refine All.branch (fun _ => ?_) (fun _ => ?_)
    | with_reducible refine All.pair ?_

theorem State.copyDone_steady {fx : Fixed} (s : State) (r : Nat) (c : ChainProg) (hs1 : All (Steady fx) s) :
    All (Steady fx) (State.copyDone s r c) := by
  unfold State.copyDone
  repeat' first
    | with_reducible assumption
    | with_reducible apply State.completeWrites_steady

theorem State.copyBurst_steady {fx : Fixed} (s : State) (r : Nat) (c : ChainProg) (hs1 : All (Steady fx) s) :
    All (Steady fx) (State.copyBurst s r c) := by
  unfold State.copyBurst
  repeat' first
    | with_reducible assumption
    | with_reducible apply State.modDma_steady
    | with_reducible apply State.copyBytes_steady
    | with_reducible apply State.copyDone_steady
    | with_reducible refine All.branch (fun _ => ?_) (fun _ => ?_)
    | with_reducible exact All.none
    | with_reducible exact All.noneFst
    | with_reducible refine All.some ?_
    | with_reducible refine All.someFst ?_
    | (with_reducible apply All.fst; first | with_reducible assumption | with_reducible apply State.copyBytes_steady)
    | (with_reducible refine All.ofFst (by assumption) ?_)
    | (with_reducible refine All.ofSnd (by assumption) ?_)
    | (with_reducible refine All.ofMid (by assumption) ?_)
    | (with_reducible refine All.ofThird (by assumption) ?_)
    | (with_reducible refine All.ofSome (by assumption) ?_)
    | (with_reducible refine All.ofSomeFst (by assumption) ?_)
    | (with_reducible refine All.ofOk (by assumption) ?_)
    | split

theorem State.copyTake_steady {fx : Fixed} (s : State) (r : Nat) (rd : HostRead) (hs1 : All (Steady fx) s) :
    All (Steady fx) (State.copyTake s r rd) := by
  unfold State.copyTake
  repeat' first
    | with_reducible assumption
    | with_reducible apply State.modDma_steady
    | with_reducible apply State.haltRing_steady
    | with_reducible apply State.completeChain_steady
    | with_reducible refine All.branch (fun _ => ?_) (fun _ => ?_)
    | with_reducible exact All.none
    | with_reducible exact All.noneFst
    | with_reducible refine All.some ?_
    | with_reducible refine All.someFst ?_
    | (with_reducible refine All.ofFst (by assumption) ?_)
    | (with_reducible refine All.ofSnd (by assumption) ?_)
    | (with_reducible refine All.ofMid (by assumption) ?_)
    | (with_reducible refine All.ofThird (by assumption) ?_)
    | (with_reducible refine All.ofSome (by assumption) ?_)
    | (with_reducible refine All.ofSomeFst (by assumption) ?_)
    | (with_reducible refine All.ofOk (by assumption) ?_)
    | split

theorem State.burst_steady {fx : Fixed} (s : State) (r : Nat) (c : ChainProg) (hs1 : All (Steady fx) s) :
    All (Steady fx) (State.burst s r c) := by
  unfold State.burst
  repeat' first
    | with_reducible assumption
    | with_reducible apply State.modDma_steady
    | with_reducible apply State.dropChain_steady
    | with_reducible apply State.completeChain_steady
    | with_reducible apply State.injectBurst_steady
    | with_reducible apply State.deliverBurst_steady
    | with_reducible apply State.copyBurst_steady
    | with_reducible refine All.branch (fun _ => ?_) (fun _ => ?_)

theorem State.burstOf_steady {fx : Fixed} (s : State) (r : Nat) (rd : HostRead) (hs1 : All (Steady fx) s) :
    All (Steady fx) (State.burstOf s r rd) := by
  unfold State.burstOf
  repeat' first
    | with_reducible assumption
    | with_reducible apply State.issueRead_steady
    | with_reducible apply State.haltRing_steady
    | with_reducible apply State.burst_steady
    | with_reducible refine All.branch (fun _ => ?_) (fun _ => ?_)
    | with_reducible exact All.none
    | with_reducible exact All.noneFst
    | with_reducible refine All.some ?_
    | with_reducible refine All.someFst ?_
    | (with_reducible refine All.ofFst (by assumption) ?_)
    | (with_reducible refine All.ofSnd (by assumption) ?_)
    | (with_reducible refine All.ofMid (by assumption) ?_)
    | (with_reducible refine All.ofThird (by assumption) ?_)
    | (with_reducible refine All.ofSome (by assumption) ?_)
    | (with_reducible refine All.ofSomeFst (by assumption) ?_)
    | (with_reducible refine All.ofOk (by assumption) ?_)
    | split

theorem State.ringTurn_steady {fx : Fixed} (s : State) (r : Nat) (rd : HostRead) (cellBad : Bool) (hs1 : All (Steady fx) s) :
    All (Steady fx) (State.ringTurn s r rd cellBad) := by
  unfold State.ringTurn
  repeat' first
    | with_reducible assumption
    | with_reducible apply State.settleInst_steady
    | with_reducible apply State.injectTake_steady
    | with_reducible apply State.deliverTake_steady
    | with_reducible apply State.copyTake_steady
    | with_reducible apply State.burstOf_steady
    | with_reducible refine All.branch (fun _ => ?_) (fun _ => ?_)
    | fail_if_no_progress (with_reducible refine All.upd ?_ (by rfl) (by rfl) (by rfl) (by rfl) (by rfl))

theorem State.engine_steady {fx : Fixed} (s : State) (r : Nat) (rd : HostRead) (cellBad : Bool) (b0 : Nat) (hs1 : All (Steady fx) s) :
    All (Steady fx) (State.engine s r rd cellBad b0) := by
  induction b0 generalizing s with
  | zero => exact hs1
  | succ n ih =>
    unfold State.engine
    refine All.branch (fun _ => hs1) fun _ => ?_
    split
    · exact hs1
    · refine All.branch (fun _ => ih _ (State.ringTurn_steady _ _ _ _ hs1)) fun _ => ?_
      have h := State.ringTurn_steady s r rd cellBad hs1
      exact All.branch (fun _ => ih _ h) fun _ => h

theorem State.ringWork_steady {fx : Fixed} (s : State) (r : Nat) (types : List Nat) (rd : HostRead) (cellBad : Bool) (hs1 : All (Steady fx) s) :
    All (Steady fx) (State.ringWork s r types rd cellBad) := by
  unfold State.ringWork
  repeat' first
    | with_reducible assumption
    | with_reducible apply State.engine_steady
    | with_reducible refine All.branch (fun _ => ?_) (fun _ => ?_)

theorem execInjectDescriptor_steady {fx : Fixed} (ring : Fin 1024) (rd : HostRead) (s : State) (hs1 : All (Steady fx) s) :
    All (SteadyAns fx) (execInjectDescriptor ring rd s) := by
  unfold execInjectDescriptor
  repeat' first
    | with_reducible assumption
    | with_reducible apply State.ringWork_steady
    | with_reducible refine All.next ?_

theorem execDeliverFrame_steady {fx : Fixed} (ring : Fin 1024) (rd : HostRead) (cellBad : Bool) (s : State) (hs1 : All (Steady fx) s) :
    All (SteadyAns fx) (execDeliverFrame ring rd cellBad s) := by
  unfold execDeliverFrame
  repeat' first
    | with_reducible assumption
    | with_reducible apply State.ringWork_steady
    | with_reducible refine All.next ?_

theorem execLeaseFrame_steady {fx : Fixed} (ring : Fin 1024) (rd : HostRead) (cellBad : Bool) (s : State) (hs1 : All (Steady fx) s) :
    All (SteadyAns fx) (execLeaseFrame ring rd cellBad s) := by
  unfold execLeaseFrame
  repeat' first
    | with_reducible assumption
    | with_reducible apply State.ringWork_steady
    | with_reducible refine All.next ?_

theorem execCopyDescriptor_steady {fx : Fixed} (ring : Fin 1024) (rd : HostRead) (s : State) (hs1 : All (Steady fx) s) :
    All (SteadyAns fx) (execCopyDescriptor ring rd s) := by
  unfold execCopyDescriptor
  repeat' first
    | with_reducible assumption
    | with_reducible apply State.ringWork_steady
    | with_reducible refine All.next ?_

theorem State.noticeLost_steady {fx : Fixed} (s : State) (r : Option Nat) (hs1 : All (Steady fx) s) :
    All (Steady fx) (State.noticeLost s r) := by
  unfold State.noticeLost
  repeat' first
    | with_reducible assumption
    | with_reducible apply State.modDma_steady
    | with_reducible apply State.tick_steady
    | split

theorem State.noticeWrite_steady {fx : Fixed} (s : State) (hs1 : All (Steady fx) s) :
    All (Steady fx) (State.noticeWrite s) := by
  unfold State.noticeWrite
  repeat' first
    | with_reducible assumption
    | with_reducible apply State.modDma_steady
    | with_reducible apply State.raise_steady
    | with_reducible apply State.hostWrite_steady
    | with_reducible apply State.noticeLost_steady
    | split
    | (dsimp only; split)
    | intro _ _
    | fail_if_no_progress (with_reducible refine All.upd ?_ (by rfl) (by rfl) (by rfl) (by rfl) (by rfl))

theorem execNoticeWrite_steady {fx : Fixed} (s : State) (hs1 : All (Steady fx) s) :
    All (SteadyAns fx) (execNoticeWrite s) := by
  unfold execNoticeWrite
  repeat' first
    | with_reducible assumption
    | with_reducible apply State.noticeWrite_steady
    | with_reducible refine All.next ?_

theorem State.barrierDone_steady {fx : Fixed} (s : State) (r : Nat) (hs1 : All (Steady fx) s) :
    All (Steady fx) (State.barrierDone s r) := by
  unfold State.barrierDone
  repeat' first
    | with_reducible assumption
    | with_reducible apply State.endRead_steady
    | with_reducible apply State.settleRing_steady
    | with_reducible apply State.settleInst_steady
    | with_reducible apply State.finishBarrier_steady
    | split

theorem execBarrierDone_steady {fx : Fixed} (ring : Fin 1024) (s : State) (hs1 : All (Steady fx) s) :
    All (SteadyAns fx) (execBarrierDone ring s) := by
  unfold execBarrierDone
  repeat' first
    | with_reducible assumption
    | with_reducible apply State.barrierDone_steady
    | with_reducible refine All.next ?_

theorem State.waitResume_steady {fx : Fixed} (s : State) (r : Nat) (hs1 : All (Steady fx) s) :
    All (Steady fx) (State.waitResume s r) := by
  unfold State.waitResume
  repeat' first
    | with_reducible assumption
    | with_reducible apply State.modDma_steady
    | with_reducible apply State.refuseAllocation_steady
    | with_reducible refine All.branch (fun _ => ?_) (fun _ => ?_)

theorem execRingWaitResume_steady {fx : Fixed} (ring : Fin 1024) (s : State) (hs1 : All (Steady fx) s) :
    All (SteadyAns fx) (execRingWaitResume ring s) := by
  unfold execRingWaitResume
  repeat' first
    | with_reducible assumption
    | with_reducible apply State.waitResume_steady
    | with_reducible refine All.next ?_

theorem State.swapEnd_steady {fx : Fixed} (s : State) (n : Nat) (hs1 : All (Steady fx) s) :
    All (Steady fx) (State.swapEnd s n) := by
  unfold State.swapEnd
  repeat' first
    | with_reducible assumption
    | with_reducible apply State.modInst_steady
    | with_reducible apply State.complete_steady
    | split

theorem State.settleSwaps_steady {fx : Fixed} (s : State) (hs1 : All (Steady fx) s) :
    All (Steady fx) (State.settleSwaps s) := by
  unfold State.settleSwaps
  repeat' first
    | with_reducible assumption
    | with_reducible apply State.issueRead_steady
    | with_reducible refine All.branch (fun _ => ?_) (fun _ => ?_)
    | with_reducible refine All.folded ?_ (fun _ _ _ => ?_)

theorem State.settleReads_steady {fx : Fixed} (s : State) (q : ReadReq) (hs1 : All (Steady fx) s) :
    All (Steady fx) (State.settleReads s q) := by
  unfold State.settleReads
  repeat' first
    | with_reducible assumption
    | with_reducible apply State.settleRing_steady
    | with_reducible apply State.settlePortReset_steady
    | with_reducible apply State.settleInst_steady
    | with_reducible apply State.settleSwaps_steady
    | split

theorem State.slotUnread_steady {fx : Fixed} (s : State) (n : Nat) (hs1 : All (Steady fx) s) :
    All (Steady fx) (State.slotUnread s n) := by
  unfold State.slotUnread
  repeat' first
    | with_reducible assumption
    | with_reducible apply State.modCmdRing_steady
    | with_reducible apply State.ringReply_steady

theorem State.readTimeout_steady {fx : Fixed} (s : State) (t : BitVec 14) (hs1 : All (Steady fx) s) :
    All (Steady fx) (State.readTimeout s t) := by
  unfold State.readTimeout
  repeat' first
    | with_reducible assumption
    | with_reducible apply State.modFn_steady
    | with_reducible apply State.reach_steady
    | with_reducible apply State.endRead_steady
    | with_reducible apply State.haltRing_steady
    | with_reducible apply State.settleReads_steady
    | with_reducible apply State.slotUnread_steady
    | split
    | intro _ _
    | fail_if_no_progress (with_reducible refine All.upd ?_ (by rfl) (by rfl) (by rfl) (by rfl) (by rfl))

theorem execCompletionTimeout_steady {fx : Fixed} (tag : BitVec 14) (s : State) (hs1 : All (Steady fx) s) :
    All (SteadyAns fx) (execCompletionTimeout tag s) := by
  unfold execCompletionTimeout
  repeat' first
    | with_reducible assumption
    | with_reducible apply State.readTimeout_steady
    | with_reducible refine All.next ?_

theorem State.lateCompletion_steady {fx : Fixed} (s : State) (t : BitVec 14) (hs1 : All (Steady fx) s) :
    All (Steady fx) (State.lateCompletion s t) := by
  unfold State.lateCompletion
  repeat' first
    | with_reducible assumption
    | with_reducible apply State.modFn_steady
    | split
    | intro _ _
    | fail_if_no_progress (with_reducible refine All.upd ?_ (by rfl) (by rfl) (by rfl) (by rfl) (by rfl))

theorem execLateCompletion_steady {fx : Fixed} (tag : BitVec 14) (s : State) (hs1 : All (Steady fx) s) :
    All (SteadyAns fx) (execLateCompletion tag s) := by
  unfold execLateCompletion
  repeat' first
    | with_reducible assumption
    | with_reducible apply State.lateCompletion_steady
    | with_reducible refine All.next ?_

theorem State.quarantineEnd_steady {fx : Fixed} (s : State) (t : BitVec 14) (hs1 : All (Steady fx) s) :
    All (Steady fx) (State.quarantineEnd s t) := by
  unfold State.quarantineEnd
  repeat' first
    | with_reducible assumption
    | with_reducible apply State.reach_steady
    | split
    | intro _ _
    | fail_if_no_progress (with_reducible refine All.upd ?_ (by rfl) (by rfl) (by rfl) (by rfl) (by rfl))

theorem execTagQuarantineEnd_steady {fx : Fixed} (tag : BitVec 14) (s : State) (hs1 : All (Steady fx) s) :
    All (SteadyAns fx) (execTagQuarantineEnd tag s) := by
  unfold execTagQuarantineEnd
  repeat' first
    | with_reducible assumption
    | with_reducible apply State.quarantineEnd_steady
    | with_reducible refine All.next ?_

theorem State.ringReadEnd_steady {fx : Fixed} (s : State) (r : Nat) (rd : HostRead) (hs1 : All (Steady fx) s) :
    All (Steady fx) (State.ringReadEnd s r rd) := by
  unfold State.ringReadEnd
  repeat' first
    | with_reducible assumption
    | with_reducible apply State.haltRing_steady
    | with_reducible apply State.burstOf_steady
    | with_reducible refine All.branch (fun _ => ?_) (fun _ => ?_)

theorem State.readEnd_steady {fx : Fixed} (s : State) (t : BitVec 14) (rd : HostRead) (run : Nat → State → State) (hs1 : All (Steady fx) s) (hs2 : ∀ a0 a1, All (Steady fx) a1 → All (Steady fx) (run a0 a1)) :
    All (Steady fx) (State.readEnd s t rd run) := by
  unfold State.readEnd
  split
  · exact hs1
  · refine All.branch (fun _ => hs1) fun _ => ?_
    have h := State.endRead_steady s t hs1
    refine All.branch (fun _ => State.settleReads_steady _ _ (All.upd h rfl rfl rfl rfl rfl)) fun _ =>
      State.settleReads_steady _ _ ?_
    split
    · exact State.ringReadEnd_steady _ _ _ h
    · exact All.branch (fun _ => State.finishBarrier_steady _ _ h) fun _ => State.haltRing_steady _ _ _ h
    · exact All.branch (fun _ => hs2 _ _ h) fun _ => State.slotUnread_steady _ _ h
    · exact State.swapEnd_steady _ _ h

/-! ### Instances -/

theorem State.setQuantum_steady {fx : Fixed} (s : State) (q v : Nat) (hs1 : All (Steady fx) s) :
    All (Steady fx) (State.setQuantum s q v) := by
  unfold State.setQuantum
  repeat' first
    | with_reducible assumption
    | with_reducible apply State.setMaster_steady
    | with_reducible apply State.setWork_steady

theorem State.resize_steady {fx : Fixed} (s : State) (n change : Nat) (ps : List Byte) (hs1 : All (Steady fx) s) :
    All (Steady fx) (State.resize s n change ps) := by
  unfold State.resize
  repeat' first
    | with_reducible assumption
    | with_reducible apply State.modReq_steady
    | with_reducible apply State.modInst_steady
    | with_reducible apply State.setQuantum_steady
    | with_reducible refine All.branch (fun _ => ?_) (fun _ => ?_)
    | with_reducible refine All.folded ?_ (fun _ _ _ => ?_)

theorem doInstCreate_steady {fx : Fixed} (b0 : Waiter) (b1 : Pkt) (b2 : List Byte) (b3 : State) (hs1 : All (Steady fx) b3) :
    All (SteadyDone fx) (doInstCreate b0 b1 b2 b3) := by
  unfold doInstCreate
  repeat' first
    | with_reducible assumption
    | with_reducible apply State.modDma_steady
    | with_reducible apply State.modInst_steady
    | with_reducible apply ok_steady
    | with_reducible apply busy_steady
    | with_reducible apply noResource_steady
    | with_reducible apply d0Busy_steady
    | with_reducible apply State.resize_steady
    | with_reducible refine All.branch (fun _ => ?_) (fun _ => ?_)
    | with_reducible refine All.folded ?_ (fun _ _ _ => ?_)
    | intro _ _
    | fail_if_no_progress (with_reducible refine All.upd ?_ (by rfl) (by rfl) (by rfl) (by rfl) (by rfl))

theorem execInstCreate_steady {fx : Fixed} (p : Pkt) (s : State) (hs1 : All (Steady fx) s) :
    All (SteadyAns fx) (execInstCreate p s) := by
  unfold execInstCreate
  repeat' first
    | with_reducible assumption
    | with_reducible apply State.runCommand_steady
    | with_reducible apply doInstCreate_steady
    | with_reducible refine All.next ?_

theorem doInstResize_steady {fx : Fixed} (b0 : Waiter) (b1 : Pkt) (b2 : List Byte) (b3 : State) (hs1 : All (Steady fx) b3) :
    All (SteadyDone fx) (doInstResize b0 b1 b2 b3) := by
  unfold doInstResize
  repeat' first
    | with_reducible assumption
    | with_reducible apply ok_steady
    | with_reducible apply busy_steady
    | with_reducible apply d0Busy_steady
    | with_reducible apply State.resize_steady
    | with_reducible refine All.branch (fun _ => ?_) (fun _ => ?_)

theorem execInstResize_steady {fx : Fixed} (p : Pkt) (s : State) (hs1 : All (Steady fx) s) :
    All (SteadyAns fx) (execInstResize p s) := by
  unfold execInstResize
  repeat' first
    | with_reducible assumption
    | with_reducible apply State.runCommand_steady
    | with_reducible apply doInstResize_steady
    | with_reducible refine All.next ?_

theorem doQuiesce_steady {fx : Fixed} (b0 : Waiter) (b1 : Pkt) (b2 : List Byte) (b3 : State) (hs1 : All (Steady fx) b3) :
    All (SteadyDone fx) (doQuiesce b0 b1 b2 b3) := by
  unfold doQuiesce
  repeat' first
    | with_reducible assumption
    | with_reducible apply State.modInst_steady
    | with_reducible apply State.complete_steady
    | with_reducible apply ok_steady
    | with_reducible apply pendingReply_steady
    | with_reducible apply busy_steady
    | with_reducible refine All.branch (fun _ => ?_) (fun _ => ?_)
    | split

theorem State.quiesceRow_steady {fx : Fixed} (s : State) (op : Nat) (p : Pkt) (hs1 : All (Steady fx) s) :
    All (Steady fx) (State.quiesceRow s op p) := by
  unfold State.quiesceRow
  repeat' first
    | with_reducible assumption
    | with_reducible apply State.runCommand_steady
    | with_reducible apply State.settleInst_steady
    | with_reducible apply doQuiesce_steady

theorem execInstQuiesce_steady {fx : Fixed} (p : Pkt) (s : State) (hs1 : All (Steady fx) s) :
    All (SteadyAns fx) (execInstQuiesce p s) := by
  unfold execInstQuiesce
  repeat' first
    | with_reducible assumption
    | with_reducible apply State.quiesceRow_steady
    | with_reducible refine All.next ?_

theorem execInstQuiesceResume_steady {fx : Fixed} (p : Pkt) (s : State) (hs1 : All (Steady fx) s) :
    All (SteadyAns fx) (execInstQuiesceResume p s) := by
  unfold execInstQuiesceResume
  repeat' first
    | with_reducible assumption
    | with_reducible apply State.quiesceRow_steady
    | with_reducible refine All.next ?_

/-- Writes of which only a part is made leave a memory in form. -/
theorem writeWithin_wf (ranges : List (Nat × Nat)) (a : Nat) (bs : List Byte) {m : List Host.Cell} (h : Memory.wf m = true) :
    Memory.wf (writeWithin ranges m a bs) = true := by
  unfold writeWithin
  generalize bs.zip (List.range bs.length) = l
  induction l generalizing m with
  | nil => exact h
  | cons y r ih =>
    refine ih ?_
    dsimp only
    split
    · exact Memory.wf_write _ _ h
    · exact h

/-- A list of such writes. -/
theorem writesWithin_wf (ranges : List (Nat × Nat)) (l : List (Nat × List Byte)) {m : List Host.Cell} (h : Memory.wf m = true) :
    Memory.wf (l.foldl (fun m x => writeWithin ranges m x.1 x.2) m) = true := by
  induction l generalizing m with
  | nil => exact h
  | cons y r ih => exact ih (writeWithin_wf _ _ _ h)

theorem State.scramble_steady {fx : Fixed} (s : State) (n : Nat) (ranges : List (Nat × Nat)) (hs1 : All (Steady fx) s) :
    All (Steady fx) (State.scramble s n ranges) := by
  unfold State.scramble
  have h : All (Steady fx) ((s.ringsOf n).foldl (fun (s : State) r =>
      ({ s with freeCtr := s.freeCtr + 8 } : State).modDma r fun d =>
        { d with
          tail := BitVec.ofNat 32 (s.stray 0), head := BitVec.ofNat 32 (s.stray 1), wpos := BitVec.ofNat 64 (s.stray 2)
          rpos := BitVec.ofNat 64 (s.stray 3), haltCode := BitVec.ofNat 8 (s.stray 4), halted := s.stray 5 % 2 == 1
          dropped := BitVec.ofNat 32 (s.stray 6), enable := s.stray 7 % 2 == 1 }) s) :=
    All.folded hs1 fun _ _ h => State.modDma_steady _ _ _ (All.upd h rfl rfl rfl rfl rfl)
  refine State.modReq_steady _ _ _ (All.upd (s := _) ?_ rfl rfl rfl rfl rfl)
  exact All.updWf h rfl h.cabWf h.scratchWf (writesWithin_wf _ _ h.hostWf) h.peerWf

theorem State.beginReset_steady {fx : Fixed} (s : State) (n : Nat) (w : Waiter) (hs1 : All (Steady fx) s) :
    All (Steady fx) (State.beginReset s n w) := by
  unfold State.beginReset
  repeat' first
    | with_reducible assumption
    | with_reducible apply State.modInst_steady
    | with_reducible apply State.resetRing_steady
    | with_reducible apply State.settlePortReset_steady
    | with_reducible apply State.portResetRing_steady
    | with_reducible apply State.startRecount_steady
    | with_reducible apply State.freeHolds_steady
    | with_reducible apply State.scramble_steady
    | with_reducible refine All.branch (fun _ => ?_) (fun _ => ?_)
    | with_reducible exact All.none
    | with_reducible exact All.noneFst
    | with_reducible refine All.some ?_
    | with_reducible refine All.someFst ?_
    | with_reducible refine All.folded ?_ (fun _ _ _ => ?_)

theorem doInstReset_steady {fx : Fixed} (remove : Bool) (b0 : Waiter) (b1 : Pkt) (b2 : List Byte) (b3 : State) (hs1 : All (Steady fx) b3) :
    All (SteadyDone fx) (doInstReset remove b0 b1 b2 b3) := by
  unfold doInstReset
  repeat' first
    | with_reducible assumption
    | with_reducible apply pendingReply_steady
    | with_reducible apply busy_steady
    | with_reducible apply State.beginReset_steady
    | with_reducible refine All.branch (fun _ => ?_) (fun _ => ?_)

theorem execInstReset_steady {fx : Fixed} (p : Pkt) (s : State) (hs1 : All (Steady fx) s) :
    All (SteadyAns fx) (execInstReset p s) := by
  unfold execInstReset
  repeat' first
    | with_reducible assumption
    | with_reducible apply State.runCommand_steady
    | with_reducible apply doInstReset_steady
    | with_reducible refine All.next ?_

theorem execInstRemove_steady {fx : Fixed} (p : Pkt) (s : State) (hs1 : All (Steady fx) s) :
    All (SteadyAns fx) (execInstRemove p s) := by
  unfold execInstRemove
  repeat' first
    | with_reducible assumption
    | with_reducible apply State.runCommand_steady
    | with_reducible apply doInstReset_steady
    | with_reducible refine All.next ?_

theorem State.removeInst_steady {fx : Fixed} (s : State) (n : Nat) (hs1 : All (Steady fx) s) :
    All (Steady fx) (State.removeInst s n) := by
  unfold State.removeInst
  repeat' first
    | with_reducible assumption
    | with_reducible apply State.modReq_steady
    | with_reducible apply State.modDma_steady
    | with_reducible apply State.modInst_steady
    | with_reducible refine All.folded ?_ (fun _ _ _ => ?_)
    | intro _ _
    | fail_if_no_progress (with_reducible refine All.upd ?_ (by rfl) (by rfl) (by rfl) (by rfl) (by rfl))

theorem State.finishReset_steady {fx : Fixed} (s : State) (n : Nat) (hs1 : All (Steady fx) s) :
    All (Steady fx) (State.finishReset s n) := by
  unfold State.finishReset
  repeat' first
    | with_reducible assumption
    | with_reducible apply State.modInst_steady
    | with_reducible apply State.complete_steady
    | with_reducible apply State.scramble_steady
    | with_reducible apply State.removeInst_steady
    | with_reducible refine All.branch (fun _ => ?_) (fun _ => ?_)
    | with_reducible exact All.none
    | with_reducible exact All.noneFst
    | with_reducible refine All.some ?_
    | with_reducible refine All.someFst ?_
    | (with_reducible refine All.ofFst (by assumption) ?_)
    | (with_reducible refine All.ofSnd (by assumption) ?_)
    | (with_reducible refine All.ofMid (by assumption) ?_)
    | (with_reducible refine All.ofThird (by assumption) ?_)
    | (with_reducible refine All.ofSome (by assumption) ?_)
    | (with_reducible refine All.ofSomeFst (by assumption) ?_)
    | (with_reducible refine All.ofOk (by assumption) ?_)
    | split

theorem State.recountEnd_steady {fx : Fixed} (s : State) (hs1 : All (Steady fx) s) :
    All (Steady fx) (State.recountEnd s) := by
  unfold State.recountEnd
  repeat' first
    | with_reducible assumption
    | with_reducible apply State.reach_steady
    | with_reducible apply State.raise_steady
    | with_reducible apply State.complete_steady
    | with_reducible apply State.recountReq_steady
    | with_reducible apply State.startRecount_steady
    | with_reducible apply State.finishReset_steady
    | with_reducible refine All.branch (fun _ => ?_) (fun _ => ?_)
    | with_reducible exact All.none
    | with_reducible exact All.noneFst
    | with_reducible refine All.some ?_
    | with_reducible refine All.someFst ?_
    | with_reducible refine All.folded ?_ (fun _ _ _ => ?_)
    | (with_reducible refine All.ofFst (by assumption) ?_)
    | (with_reducible refine All.ofSnd (by assumption) ?_)
    | (with_reducible refine All.ofMid (by assumption) ?_)
    | (with_reducible refine All.ofThird (by assumption) ?_)
    | (with_reducible refine All.ofSome (by assumption) ?_)
    | (with_reducible refine All.ofSomeFst (by assumption) ?_)
    | (with_reducible refine All.ofOk (by assumption) ?_)
    | split
    | intro _ _
    | fail_if_no_progress (with_reducible refine All.upd ?_ (by rfl) (by rfl) (by rfl) (by rfl) (by rfl))

theorem execRecountComplete_steady {fx : Fixed} (s : State) (hs1 : All (Steady fx) s) :
    All (SteadyAns fx) (execRecountComplete s) := by
  unfold execRecountComplete
  repeat' first
    | with_reducible assumption
    | with_reducible apply State.recountEnd_steady
    | with_reducible refine All.next ?_

theorem doDirtyLog_steady {fx : Fixed} (b0 : Waiter) (b1 : Pkt) (b2 : List Byte) (b3 : State) (hs1 : All (Steady fx) b3) :
    All (SteadyDone fx) (doDirtyLog b0 b1 b2 b3) := by
  unfold doDirtyLog
  repeat' first
    | with_reducible assumption
    | with_reducible apply State.modInst_steady
    | with_reducible apply pendingReply_steady
    | with_reducible apply busy_steady
    | with_reducible refine All.branch (fun _ => ?_) (fun _ => ?_)

theorem State.dirtyRow_steady {fx : Fixed} (s : State) (op : Nat) (p : Pkt) (hs1 : All (Steady fx) s) :
    All (Steady fx) (State.dirtyRow s op p) := by
  unfold State.dirtyRow
  repeat' first
    | with_reducible assumption
    | with_reducible apply State.runCommand_steady
    | with_reducible apply State.settleSwaps_steady
    | with_reducible apply doDirtyLog_steady

theorem execDirtyLogSwap_steady {fx : Fixed} (p : Pkt) (s : State) (hs1 : All (Steady fx) s) :
    All (SteadyAns fx) (execDirtyLogSwap p s) := by
  unfold execDirtyLogSwap
  repeat' first
    | with_reducible assumption
    | with_reducible apply State.dirtyRow_steady
    | with_reducible refine All.next ?_

theorem execDirtyLogStop_steady {fx : Fixed} (p : Pkt) (s : State) (hs1 : All (Steady fx) s) :
    All (SteadyAns fx) (execDirtyLogStop p s) := by
  unfold execDirtyLogStop
  repeat' first
    | with_reducible assumption
    | with_reducible apply State.dirtyRow_steady
    | with_reducible refine All.next ?_

theorem State.startFence_steady {fx : Fixed} (s : State) (n : Nat) (hs1 : All (Steady fx) s) :
    All (Steady fx) (State.startFence s n) := by
  unfold State.startFence
  repeat' first
    | with_reducible assumption
    | with_reducible apply State.modCtx_steady
    | with_reducible apply State.modInst_steady
    | with_reducible refine All.branch (fun _ => ?_) (fun _ => ?_)
    | intro _ _
    | fail_if_no_progress (with_reducible refine All.upd ?_ (by rfl) (by rfl) (by rfl) (by rfl) (by rfl))

theorem State.fenceRing_steady {fx : Fixed} (s : State) (r : Nat) (hs1 : All (Steady fx) s) :
    All (Steady fx) (State.fenceRing s r) := by
  unfold State.fenceRing
  repeat' first
    | with_reducible assumption
    | with_reducible apply State.modDma_steady
    | with_reducible apply State.dropChain_steady
    | with_reducible apply State.dropBacklog_steady

theorem State.fenceEnd_steady {fx : Fixed} (s : State) (n : Nat) (hs1 : All (Steady fx) s) :
    All (Steady fx) (State.fenceEnd s n) := by
  unfold State.fenceEnd
  repeat' first
    | with_reducible assumption
    | with_reducible apply State.modCmdRing_steady
    | with_reducible apply State.modCtx_steady
    | with_reducible apply State.modInst_steady
    | with_reducible apply State.raise_steady
    | with_reducible apply State.complete_steady
    | with_reducible apply State.recountReq_steady
    | with_reducible apply State.freeHolds_steady
    | with_reducible apply State.finishReset_steady
    | with_reducible apply State.fenceRing_steady
    | with_reducible refine All.folded ?_ (fun _ _ _ => ?_)
    | split

theorem execFenceComplete_steady {fx : Fixed} (n : Fin 64) (s : State) (hs1 : All (Steady fx) s) :
    All (SteadyAns fx) (execFenceComplete n s) := by
  unfold execFenceComplete
  repeat' first
    | with_reducible assumption
    | with_reducible apply State.fenceEnd_steady
    | with_reducible refine All.next ?_

theorem State.fenceGuests_steady {fx : Fixed} (s : State) (hs1 : All (Steady fx) s) :
    All (Steady fx) (State.fenceGuests s) := by
  unfold State.fenceGuests
  repeat' first
    | with_reducible assumption
    | with_reducible apply State.startFence_steady
    | with_reducible refine All.folded ?_ (fun _ _ _ => ?_)

theorem State.flrVf_steady {fx : Fixed} (s : State) (n : Nat) (hs1 : All (Steady fx) s) :
    All (Steady fx) (State.flrVf s n) := by
  unfold State.flrVf
  repeat' first
    | with_reducible assumption
    | with_reducible apply State.startFence_steady
    | with_reducible refine All.branch (fun _ => ?_) (fun _ => ?_)
    | fail_if_no_progress (with_reducible refine All.upd ?_ (by rfl) (by rfl) (by rfl) (by rfl) (by rfl))

theorem execFlrVf_steady {fx : Fixed} (n : Fin 64) (s : State) (hs1 : All (Steady fx) s) :
    All (SteadyAns fx) (execFlrVf n s) := by
  unfold execFlrVf
  repeat' first
    | with_reducible assumption
    | with_reducible apply State.flrVf_steady
    | with_reducible refine All.next ?_

theorem State.vfClear_steady {fx : Fixed} (s : State) (hs1 : All (Steady fx) s) :
    All (Steady fx) (State.vfClear s) := by
  unfold State.vfClear
  repeat' first
    | with_reducible assumption
    | with_reducible apply State.fenceGuests_steady
    | with_reducible refine All.branch (fun _ => ?_) (fun _ => ?_)
    | fail_if_no_progress (with_reducible refine All.upd ?_ (by rfl) (by rfl) (by rfl) (by rfl) (by rfl))

theorem execVfEnableClear_steady {fx : Fixed} (s : State) (hs1 : All (Steady fx) s) :
    All (SteadyAns fx) (execVfEnableClear s) := by
  unfold execVfEnableClear
  repeat' first
    | with_reducible assumption
    | with_reducible apply State.vfClear_steady
    | with_reducible refine All.next ?_

theorem State.flrPf_steady {fx : Fixed} (s : State) (hs1 : All (Steady fx) s) :
    All (Steady fx) (State.flrPf s) := by
  unfold State.flrPf
  repeat' first
    | with_reducible assumption
    | with_reducible apply State.portResetCp0_steady
    | with_reducible apply State.startFence_steady
    | with_reducible apply State.fenceGuests_steady
    | fail_if_no_progress (with_reducible refine All.upd ?_ (by rfl) (by rfl) (by rfl) (by rfl) (by rfl))

theorem execFlrPf_steady {fx : Fixed} (s : State) (hs1 : All (Steady fx) s) :
    All (SteadyAns fx) (execFlrPf s) := by
  unfold execFlrPf
  repeat' first
    | with_reducible assumption
    | with_reducible apply State.flrPf_steady
    | with_reducible refine All.next ?_

/-! ### Host -/

theorem State.linkLost_steady {fx : Fixed} (s : State) (hs1 : All (Steady fx) s) :
    All (Steady fx) (State.linkLost s) := by
  unfold State.linkLost
  repeat' first
    | with_reducible assumption
    | with_reducible apply State.hostFreeze_steady
    | with_reducible refine All.branch (fun _ => ?_) (fun _ => ?_)
    | fail_if_no_progress (with_reducible refine All.upd ?_ (by rfl) (by rfl) (by rfl) (by rfl) (by rfl))

theorem State.pcieDown_steady {fx : Fixed} (s : State) (hs1 : All (Steady fx) s) :
    All (Steady fx) (State.pcieDown s) := by
  unfold State.pcieDown
  repeat' first
    | with_reducible assumption
    | with_reducible apply State.linkLost_steady
    | with_reducible refine All.branch (fun _ => ?_) (fun _ => ?_)

theorem execPcieLinkDown_steady {fx : Fixed} (s : State) (hs1 : All (Steady fx) s) :
    All (SteadyAns fx) (execPcieLinkDown s) := by
  unfold execPcieLinkDown
  repeat' first
    | with_reducible assumption
    | with_reducible apply State.pcieDown_steady
    | with_reducible refine All.next ?_

theorem State.pcieUp_steady {fx : Fixed} (s : State) (g w : Nat) (hs1 : All (Steady fx) s) :
    All (Steady fx) (State.pcieUp s g w) := by
  unfold State.pcieUp
  repeat' first
    | with_reducible assumption
    | with_reducible refine All.branch (fun _ => ?_) (fun _ => ?_)
    | fail_if_no_progress (with_reducible refine All.upd ?_ (by rfl) (by rfl) (by rfl) (by rfl) (by rfl))

theorem execPcieLinkUp_steady {fx : Fixed} (gen : PcieGen) (width : PcieWidth) (s : State) (hs1 : All (Steady fx) s) :
    All (SteadyAns fx) (execPcieLinkUp gen width s) := by
  unfold execPcieLinkUp
  repeat' first
    | with_reducible assumption
    | with_reducible apply State.pcieUp_steady
    | with_reducible refine All.next ?_

theorem State.perst_steady {fx : Fixed} (s : State) (hs1 : All (Steady fx) s) :
    All (Steady fx) (State.perst s) := by
  unfold State.perst
  repeat' first
    | with_reducible assumption
    | with_reducible apply State.linkLost_steady
    | with_reducible refine All.branch (fun _ => ?_) (fun _ => ?_)
    | fail_if_no_progress (with_reducible refine All.upd ?_ (by rfl) (by rfl) (by rfl) (by rfl) (by rfl))

theorem execPerst_steady {fx : Fixed} (s : State) (hs1 : All (Steady fx) s) :
    All (SteadyAns fx) (execPerst s) := by
  unfold execPerst
  repeat' first
    | with_reducible assumption
    | with_reducible apply State.perst_steady
    | with_reducible refine All.next ?_

theorem State.startTraining_steady {fx : Fixed} (s : State) (hs1 : All (Steady fx) s) :
    All (Steady fx) (State.startTraining s) := by
  unfold State.startTraining
  repeat' first
    | with_reducible assumption
    | with_reducible refine All.branch (fun _ => ?_) (fun _ => ?_)
    | fail_if_no_progress (with_reducible refine All.upd ?_ (by rfl) (by rfl) (by rfl) (by rfl) (by rfl))

theorem execPerstRelease_steady {fx : Fixed} (s : State) (hs1 : All (Steady fx) s) :
    All (SteadyAns fx) (execPerstRelease s) := by
  unfold execPerstRelease
  repeat' first
    | with_reducible assumption
    | with_reducible apply State.startTraining_steady
    | with_reducible refine All.next ?_
    | fail_if_no_progress (with_reducible refine All.upd ?_ (by rfl) (by rfl) (by rfl) (by rfl) (by rfl))

theorem State.release_steady {fx : Fixed} (s : State) (hs1 : All (Steady fx) s) :
    All (Steady fx) (State.release s) := by
  unfold State.release
  repeat' first
    | with_reducible assumption
    | with_reducible apply State.modDma_steady
    | with_reducible apply State.settleSwaps_steady
    | with_reducible refine All.branch (fun _ => ?_) (fun _ => ?_)
    | with_reducible refine All.folded ?_ (fun _ _ _ => ?_)
    | intro _ _
    | fail_if_no_progress (with_reducible refine All.upd ?_ (by rfl) (by rfl) (by rfl) (by rfl) (by rfl))

theorem execHostLinkRelease_steady {fx : Fixed} (s : State) (hs1 : All (Steady fx) s) :
    All (SteadyAns fx) (execHostLinkRelease s) := by
  unfold execHostLinkRelease
  repeat' first
    | with_reducible assumption
    | with_reducible apply State.release_steady
    | with_reducible refine All.next ?_

theorem State.cfgWrite_steady {fx : Fixed} (s : State) (n : Nat) (f : CfgField) (v : Nat) (hs1 : All (Steady fx) s) :
    All (Steady fx) (State.cfgWrite s n f v) := by
  unfold State.cfgWrite
  repeat' first
    | with_reducible assumption
    | with_reducible apply State.modFn_steady
    | with_reducible apply State.vfClear_steady
    | split
    | intro _ _
    | fail_if_no_progress (with_reducible refine All.upd ?_ (by rfl) (by rfl) (by rfl) (by rfl) (by rfl))

theorem execConfigSpaceWrite_steady {fx : Fixed} (fn : Fin 64) (field : CfgField) (v : BitVec 16) (s : State) (hs1 : All (Steady fx) s) :
    All (SteadyAns fx) (execConfigSpaceWrite fn field v s) := by
  unfold execConfigSpaceWrite
  repeat' first
    | with_reducible assumption
    | with_reducible apply State.cfgWrite_steady
    | with_reducible refine All.next ?_

theorem State.winCommit_steady {fx : Fixed} (s : State) (n : Nat) (hs1 : All (Steady fx) s) :
    All (Steady fx) (State.winCommit s n) := by
  unfold State.winCommit
  repeat' first
    | with_reducible assumption
    | with_reducible apply State.modInst_steady
    | with_reducible refine All.branch (fun _ => ?_) (fun _ => ?_)

theorem execWinCommit_steady {fx : Fixed} (inst : Fin 64) (s : State) (hs1 : All (Steady fx) s) :
    All (SteadyAns fx) (execWinCommit inst s) := by
  unfold execWinCommit
  repeat' first
    | with_reducible assumption
    | with_reducible apply State.winCommit_steady
    | with_reducible refine All.next ?_

theorem State.winDenied_steady {fx : Fixed} (s : State) (n : Nat) (hs1 : All (Steady fx) s) :
    All (Steady fx) (State.winDenied s n) := by
  unfold State.winDenied
  repeat' first
    | with_reducible assumption
    | with_reducible apply State.modInst_steady

theorem State.winRead_steady {fx : Fixed} (s : State) (n off len : Nat) (hs1 : All (Steady fx) s) :
    All (Steady fx) (State.winRead s n off len) := by
  unfold State.winRead
  repeat' first
    | with_reducible assumption
    | with_reducible apply State.emit_steady
    | with_reducible apply State.cabTouch_steady
    | with_reducible apply State.winDenied_steady
    | with_reducible refine All.branch (fun _ => ?_) (fun _ => ?_)

theorem execWindowRead_steady {fx : Fixed} (inst : Fin 64) (off : BitVec 42) (len : Nat) (s : State) (hs1 : All (Steady fx) s) :
    All (SteadyAns fx) (execWindowRead inst off len s) := by
  unfold execWindowRead
  repeat' first
    | with_reducible assumption
    | with_reducible apply State.winRead_steady
    | with_reducible refine All.next ?_

theorem State.winUnit_steady {fx : Fixed} (x : State × Bool × Bool) (part : Nat × List (Option Byte)) (hs1 : All (SteadyFst fx) x) :
    All (SteadyFst fx) (State.winUnit x part) := by
  unfold State.winUnit
  repeat' first
    | with_reducible assumption
    | with_reducible apply State.request_steady
    | with_reducible apply State.tick_steady
    | with_reducible apply State.cabPut_steady
    | with_reducible refine All.branch (fun _ => ?_) (fun _ => ?_)
    | with_reducible exact All.none
    | with_reducible exact All.noneFst
    | (with_reducible apply All.fst; first | with_reducible assumption)
    | with_reducible refine All.pair ?_
    | with_reducible refine All.pairSnd ?_
    | with_reducible refine All.mid ?_
    | with_reducible refine All.third ?_
    | fail_if_no_progress (with_reducible refine All.upd ?_ (by rfl) (by rfl) (by rfl) (by rfl) (by rfl))

theorem State.winWrite_steady {fx : Fixed} (s : State) (n off : Nat) (data : List (Option Byte)) (poisoned : Bool) (hs1 : All (Steady fx) s) :
    All (Steady fx) (State.winWrite s n off data poisoned) := by
  unfold State.winWrite
  repeat' first
    | with_reducible assumption
    | with_reducible apply State.raise_steady
    | with_reducible apply State.winDenied_steady
    | with_reducible apply State.winUnit_steady
    | with_reducible refine All.branch (fun _ => ?_) (fun _ => ?_)
    | with_reducible refine All.folded ?_ (fun _ _ _ => ?_)
    | (with_reducible apply All.fst; first | with_reducible assumption | with_reducible apply State.winUnit_steady | with_reducible refine All.folded ?_ (fun _ _ _ => ?_))
    | with_reducible refine All.pair ?_
    | fail_if_no_progress (with_reducible refine All.upd ?_ (by rfl) (by rfl) (by rfl) (by rfl) (by rfl))

theorem execWindowWrite_steady {fx : Fixed} (inst : Fin 64) (off : BitVec 42) (data : List (Option Byte)) (poisoned : Bool) (s : State) (hs1 : All (Steady fx) s) :
    All (SteadyAns fx) (execWindowWrite inst off data poisoned s) := by
  unfold execWindowWrite
  repeat' first
    | with_reducible assumption
    | with_reducible apply State.winWrite_steady
    | with_reducible refine All.next ?_

/-! ### Pmc -/

theorem State.pmcCtr_steady {fx : Fixed} (s : State) (k v : Nat) (hs1 : All (Steady fx) s) :
    All (Steady fx) (State.pmcCtr s k v) := by
  unfold State.pmcCtr
  repeat' first
    | with_reducible assumption
    | fail_if_no_progress (with_reducible refine All.upd ?_ (by rfl) (by rfl) (by rfl) (by rfl) (by rfl))

theorem execPmcCtrWrite_steady {fx : Fixed} (k : Fin 256) (v : BitVec 64) (s : State) (hs1 : All (Steady fx) s) :
    All (SteadyAns fx) (execPmcCtrWrite k v s) := by
  unfold execPmcCtrWrite
  repeat' first
    | with_reducible assumption
    | with_reducible apply State.pmcCtr_steady
    | with_reducible refine All.next ?_

theorem State.pmcCfg_steady {fx : Fixed} (s : State) (k v : Nat) (hs1 : All (Steady fx) s) :
    All (Steady fx) (State.pmcCfg s k v) := by
  unfold State.pmcCfg
  repeat' first
    | with_reducible assumption
    | with_reducible refine All.branch (fun _ => ?_) (fun _ => ?_)
    | fail_if_no_progress (with_reducible refine All.upd ?_ (by rfl) (by rfl) (by rfl) (by rfl) (by rfl))

theorem execPmcCfgWrite_steady {fx : Fixed} (k : Fin 256) (v : BitVec 64) (s : State) (hs1 : All (Steady fx) s) :
    All (SteadyAns fx) (execPmcCfgWrite k v s) := by
  unfold execPmcCfgWrite
  repeat' first
    | with_reducible assumption
    | with_reducible apply State.pmcCfg_steady
    | with_reducible refine All.next ?_

theorem State.latchMark_steady {fx : Fixed} (s : State) (no : BitVec 8) (hs1 : All (Steady fx) s) :
    All (Steady fx) (State.latchMark s no) := by
  unfold State.latchMark
  repeat' first
    | with_reducible assumption
    | with_reducible apply State.modPort_steady
    | with_reducible refine All.folded ?_ (fun _ _ _ => ?_)
    | intro _ _
    | fail_if_no_progress (with_reducible refine All.upd ?_ (by rfl) (by rfl) (by rfl) (by rfl) (by rfl))

theorem State.sendToken_steady {fx : Fixed} (s : State) (kind v : Nat) (hs1 : All (Steady fx) s) :
    All (Steady fx) (State.sendToken s kind v) := by
  unfold State.sendToken
  repeat' first
    | with_reducible assumption
    | with_reducible apply State.emit_steady

theorem State.issueMark_steady {fx : Fixed} (s : State) (pair : Bool) (no : BitVec 8) (hs1 : All (Steady fx) s) :
    All (Steady fx) (State.issueMark s pair no) := by
  unfold State.issueMark
  repeat' first
    | with_reducible assumption
    | with_reducible apply State.latchMark_steady
    | with_reducible apply State.sendToken_steady
    | with_reducible refine All.branch (fun _ => ?_) (fun _ => ?_)
    | fail_if_no_progress (with_reducible refine All.upd ?_ (by rfl) (by rfl) (by rfl) (by rfl) (by rfl))

theorem State.pmcMark_steady {fx : Fixed} (s : State) (v : Nat) (hs1 : All (Steady fx) s) :
    All (Steady fx) (State.pmcMark s v) := by
  unfold State.pmcMark
  repeat' first
    | with_reducible assumption
    | with_reducible apply busy_steady
    | with_reducible apply State.issueMark_steady
    | with_reducible refine All.branch (fun _ => ?_) (fun _ => ?_)
    | fail_if_no_progress (with_reducible refine All.upd ?_ (by rfl) (by rfl) (by rfl) (by rfl) (by rfl))

theorem execPmcMark_steady {fx : Fixed} (v : BitVec 64) (s : State) (hs1 : All (Steady fx) s) :
    All (SteadyAns fx) (execPmcMark v s) := by
  unfold execPmcMark
  repeat' first
    | with_reducible assumption
    | with_reducible apply State.pmcMark_steady
    | with_reducible refine All.next ?_

theorem State.sweepEntry_steady {fx : Fixed} (s : State) (k t : Nat) (hs1 : All (Steady fx) s) :
    All (Steady fx) (State.sweepEntry s k t) := by
  unfold State.sweepEntry
  repeat' first
    | with_reducible assumption
    | fail_if_no_progress (with_reducible refine All.upd ?_ (by rfl) (by rfl) (by rfl) (by rfl) (by rfl))

theorem State.pmcSweep_steady {fx : Fixed} (s : State) (v : Nat) (hs1 : All (Steady fx) s) :
    All (Steady fx) (State.pmcSweep s v) := by
  unfold State.pmcSweep
  repeat' first
    | with_reducible assumption
    | with_reducible apply busy_steady
    | with_reducible apply State.sweepEntry_steady
    | with_reducible refine All.branch (fun _ => ?_) (fun _ => ?_)
    | with_reducible refine All.folded ?_ (fun _ _ _ => ?_)
    | intro _ _
    | fail_if_no_progress (with_reducible refine All.upd ?_ (by rfl) (by rfl) (by rfl) (by rfl) (by rfl))

theorem execPmcSweep_steady {fx : Fixed} (v : BitVec 64) (s : State) (hs1 : All (Steady fx) s) :
    All (SteadyAns fx) (execPmcSweep v s) := by
  unfold execPmcSweep
  repeat' first
    | with_reducible assumption
    | with_reducible apply State.pmcSweep_steady
    | with_reducible refine All.next ?_

theorem State.sweepEnd_steady {fx : Fixed} (s : State) (hs1 : All (Steady fx) s) :
    All (Steady fx) (State.sweepEnd s) := by
  unfold State.sweepEnd
  repeat' first
    | with_reducible assumption
    | with_reducible apply State.sweepEntry_steady
    | split
    | fail_if_no_progress (with_reducible refine All.upd ?_ (by rfl) (by rfl) (by rfl) (by rfl) (by rfl))

theorem execSweepComplete_steady {fx : Fixed} (s : State) (hs1 : All (Steady fx) s) :
    All (SteadyAns fx) (execSweepComplete s) := by
  unfold execSweepComplete
  repeat' first
    | with_reducible assumption
    | with_reducible apply State.sweepEnd_steady
    | with_reducible refine All.next ?_

end Sys2Proof.Machine
end

