-- ==== Sys2Proof/Laws/SteadyTables.lean ====
section
/-!
SUPPORT. Every operation of the prefix blocks, the scheduler's state, the tables, learning and the feeds keeps `Steady`: one lemma each.
-/

namespace Sys2Proof.Machine

/-! ### Prefix -/

theorem State.rewritten_steady {fx : Fixed} (s : State) (code gen idx : Nat) (hs1 : All (Steady fx) s) :
    All (Steady fx) (State.rewritten s code gen idx) := by
  unfold State.rewritten
  repeat' first
    | with_reducible assumption
    | intro _ _
    | fail_if_no_progress (with_reducible refine All.upd ?_ (by rfl) (by rfl) (by rfl) (by rfl) (by rfl))

theorem State.loosen_steady {fx : Fixed} (s : State) (hits : Bool → Bool) (hs1 : All (Steady fx) s) :
    All (Steady fx) (State.loosen s hits) := by
  unfold State.loosen
  repeat' first
    | with_reducible assumption
    | split
    | intro _ _
    | fail_if_no_progress (with_reducible refine All.upd ?_ (by rfl) (by rfl) (by rfl) (by rfl) (by rfl))

theorem State.setZones_steady {fx : Fixed} (s : State) (pair : Bool) (z : List (Nat × Nat)) (hs1 : All (Steady fx) s) :
    All (Steady fx) (State.setZones s pair z) := by
  unfold State.setZones
  repeat' first
    | with_reducible assumption
    | with_reducible refine All.branch (fun _ => ?_) (fun _ => ?_)
    | fail_if_no_progress (with_reducible refine All.upd ?_ (by rfl) (by rfl) (by rfl) (by rfl) (by rfl))

theorem State.writeUnit_steady {fx : Fixed} (s : State) (pair : Bool) (u : Nat) (e : Image) (hs1 : All (Steady fx) s) :
    All (Steady fx) (State.writeUnit s pair u e) := by
  unfold State.writeUnit
  repeat' first
    | with_reducible assumption
    | with_reducible apply State.writeCopies_steady
    | with_reducible apply State.rewritten_steady
    | with_reducible refine All.branch (fun _ => ?_) (fun _ => ?_)
    | with_reducible refine All.folded ?_ (fun _ _ _ => ?_)

theorem State.writeControl_steady {fx : Fixed} (s : State) (pair : Bool) (u : Nat) (e : Image) (hs1 : All (Steady fx) s) :
    All (Steady fx) (State.writeControl s pair u e) := by
  unfold State.writeControl
  repeat' first
    | with_reducible assumption
    | with_reducible apply State.writeCopies_steady
    | with_reducible apply State.rewritten_steady
    | with_reducible refine All.branch (fun _ => ?_) (fun _ => ?_)
    | with_reducible refine All.folded ?_ (fun _ _ _ => ?_)

theorem State.walkShim_steady {fx : Fixed} (s : State) (pair : Bool) (t : Nat) (part : Bool) (b0 : Nat) (b1 : Nat) (b2 : Nat) (b3 : Nat) (hs1 : All (Steady fx) s) :
    All (SteadyFst fx) (State.walkShim s pair t part b0 b1 b2 b3) := by
  induction b0 generalizing s b1 b2 b3 with
  | zero => exact hs1
  | succ n ih =>
    refine All.branch (fun _ => All.pair hs1) fun _ => All.branch (fun _ => ih _ _ _ _ ?_) fun _ => ih _ _ _ _ ?_
    · exact State.setZones_steady _ _ _ (State.writeUnit_steady _ _ _ _ hs1)
    · exact State.setZones_steady _ _ _ hs1

theorem State.insertAll_steady {fx : Fixed} (s : State) (e : Image) (z h : Nat) (hs1 : All (Steady fx) s) :
    All (Steady fx) (State.insertAll s e z h) := by
  unfold State.insertAll
  repeat' first
    | with_reducible assumption
    | with_reducible apply State.writeUnit_steady
    | with_reducible apply State.walkShim_steady
    | (with_reducible apply All.fst; first | with_reducible assumption | with_reducible apply State.walkShim_steady)

theorem State.insertPart_steady {fx : Fixed} (s : State) (e : Image) (z h k : Nat) (hs1 : All (Steady fx) s) :
    All (Steady fx) (State.insertPart s e z h k) := by
  unfold State.insertPart
  repeat' first
    | with_reducible assumption
    | with_reducible apply State.walkShim_steady
    | (with_reducible apply All.fst; first | with_reducible assumption | with_reducible apply State.walkShim_steady)

theorem State.layStep_steady {fx : Fixed} (s : State) (x : LayStep) (hs1 : All (Steady fx) s) :
    All (Steady fx) (State.layStep s x) := by
  unfold State.layStep
  repeat' first
    | with_reducible assumption
    | with_reducible apply State.writeCopies_steady
    | with_reducible apply State.rewritten_steady
    | with_reducible refine All.branch (fun _ => ?_) (fun _ => ?_)
    | with_reducible refine All.folded ?_ (fun _ _ _ => ?_)
    | (with_reducible refine All.ofFst (by assumption) ?_)
    | (with_reducible refine All.ofSnd (by assumption) ?_)
    | (with_reducible refine All.ofMid (by assumption) ?_)
    | (with_reducible refine All.ofThird (by assumption) ?_)
    | (with_reducible refine All.ofSome (by assumption) ?_)
    | (with_reducible refine All.ofSomeFst (by assumption) ?_)
    | (with_reducible refine All.ofOk (by assumption) ?_)
    | split

theorem State.partLaid_steady {fx : Fixed} (s : State) (pairRows : Nat) (hs1 : All (Steady fx) s) :
    All (Steady fx) (State.partLaid s pairRows) := by
  unfold State.partLaid
  repeat' first
    | with_reducible assumption
    | with_reducible refine All.branch (fun _ => ?_) (fun _ => ?_)
    | with_reducible refine All.pair ?_
    | with_reducible refine All.pairSnd ?_
    | with_reducible refine All.mid ?_
    | with_reducible refine All.third ?_
    | intro _ _
    | fail_if_no_progress (with_reducible refine All.upd ?_ (by rfl) (by rfl) (by rfl) (by rfl) (by rfl))

/-! ### Sched -/

theorem State.checkBlock_steady {fx : Fixed} (s : State) (q : Nat) (hs1 : All (Steady fx) s) :
    All (Steady fx) (State.checkBlock s q) := by
  unfold State.checkBlock
  repeat' first
    | with_reducible assumption
    | with_reducible apply State.modQueue_steady
    | with_reducible apply State.modEgr_steady
    | with_reducible apply State.raise_steady
    | with_reducible refine All.branch (fun _ => ?_) (fun _ => ?_)

theorem State.markBlocked_steady {fx : Fixed} (s : State) (lp : Nat) (hs1 : All (Steady fx) s) :
    All (Steady fx) (State.markBlocked s lp) := by
  unfold State.markBlocked
  repeat' first
    | with_reducible assumption
    | with_reducible apply State.checkBlock_steady
    | with_reducible refine All.branch (fun _ => ?_) (fun _ => ?_)
    | with_reducible refine All.folded ?_ (fun _ _ _ => ?_)

theorem State.countWaits_steady {fx : Fixed} (s : State) (lp : Nat) (hs1 : All (Steady fx) s) :
    All (Steady fx) (State.countWaits s lp) := by
  unfold State.countWaits
  repeat' first
    | with_reducible assumption
    | with_reducible apply State.modQueue_steady
    | with_reducible refine All.branch (fun _ => ?_) (fun _ => ?_)
    | with_reducible refine All.folded ?_ (fun _ _ _ => ?_)

theorem State.rotate_steady {fx : Fixed} (s : State) (lp v : Nat) (elig : List (Nat × Nat)) (b0 : Nat) (b1 : Nat) (hs1 : All (Steady fx) s) :
    All (SteadyFst fx) (State.rotate s lp v elig b0 b1) := by
  induction b0 generalizing s b1 with
  | zero => exact All.pair hs1
  | succ n ih =>
    have on : ∀ s : State, All (Steady fx) s → All (SteadyFst fx)
        ((s.modQueue (16 * lp + b1) fun x => { x with turnOpen := false }).rotate lp v elig n (s.nextOfLevel lp v b1)) :=
      fun s h => ih _ _ (State.modQueue_steady _ _ _ h)
    unfold State.rotate
    dsimp only
    split
    · exact on _ hs1
    · refine All.branch (fun _ => All.pair (State.modEgr_steady _ _ _ (State.modQueue_steady _ _ _ ?_))) fun _ => on _ ?_
      all_goals exact All.branch (fun _ => hs1) fun _ => State.modQueue_steady _ _ _ hs1

theorem State.pickClass_steady {fx : Fixed} (s : State) (lp : Nat) (hs1 : All (Steady fx) s) :
    All (SteadyFst fx) (State.pickClass s lp) := by
  unfold State.pickClass
  repeat' first
    | with_reducible assumption
    | with_reducible apply State.rotate_steady
    | with_reducible refine All.branch (fun _ => ?_) (fun _ => ?_)
    | with_reducible refine All.pair ?_

theorem State.chargeStart_steady {fx : Fixed} (s : State) (q n : Nat) (hs1 : All (Steady fx) s) :
    All (Steady fx) (State.chargeStart s q n) := by
  unfold State.chargeStart
  repeat' first
    | with_reducible assumption
    | with_reducible apply State.modQueue_steady
    | with_reducible apply State.modEgr_steady
    | with_reducible apply State.credit_steady
    | with_reducible refine All.branch (fun _ => ?_) (fun _ => ?_)

theorem State.addBack_steady {fx : Fixed} (s : State) (w : TxFrame) (diff : Int) (hs1 : All (Steady fx) s) :
    All (Steady fx) (State.addBack s w diff) := by
  unfold State.addBack
  repeat' first
    | with_reducible assumption
    | with_reducible apply State.modQueue_steady
    | with_reducible apply State.modEgr_steady
    | with_reducible apply State.credit_steady
    | with_reducible refine All.branch (fun _ => ?_) (fun _ => ?_)

theorem State.modWire_steady {fx : Fixed} (s : State) (q : Nat) (g : TxFrame → TxFrame) (hs1 : All (Steady fx) s) :
    All (Steady fx) (State.modWire s q g) := by
  unfold State.modWire
  repeat' first
    | with_reducible assumption
    | with_reducible apply State.modEgr_steady

theorem State.zeroDeficit_steady {fx : Fixed} (s : State) (q : Nat) (hs1 : All (Steady fx) s) :
    All (Steady fx) (State.zeroDeficit s q) := by
  unfold State.zeroDeficit
  repeat' first
    | with_reducible assumption
    | with_reducible apply State.modQueue_steady
    | with_reducible apply State.modWire_steady

theorem State.setEntries_steady {fx : Fixed} (s : State) (q : Nat) (es : List QEntry) (hs1 : All (Steady fx) s) :
    All (Steady fx) (State.setEntries s q es) := by
  unfold State.setEntries
  repeat' first
    | with_reducible assumption
    | with_reducible apply State.modQueue_steady
    | with_reducible apply State.checkBlock_steady
    | with_reducible apply State.zeroDeficit_steady
    | with_reducible refine All.branch (fun _ => ?_) (fun _ => ?_)

theorem State.unlinkFirst_steady {fx : Fixed} (s : State) (q : Nat) (hs1 : All (Steady fx) s) :
    All (Steady fx) (State.unlinkFirst s q) := by
  unfold State.unlinkFirst
  repeat' first
    | with_reducible assumption
    | with_reducible apply State.setEntries_steady

theorem State.takeSchedQ_steady {fx : Fixed} (s : State) (q : Nat) (new : Image) (hs1 : All (Steady fx) s) :
    All (Steady fx) (State.takeSchedQ s q new) := by
  unfold State.takeSchedQ
  repeat' first
    | with_reducible assumption
    | with_reducible apply State.modQueue_steady
    | with_reducible apply State.modEgr_steady
    | with_reducible apply State.credit_steady
    | with_reducible apply State.modWire_steady
    | with_reducible apply State.zeroDeficit_steady
    | with_reducible refine All.branch (fun _ => ?_) (fun _ => ?_)
    | intro _ _
    | fail_if_no_progress (with_reducible refine All.upd ?_ (by rfl) (by rfl) (by rfl) (by rfl) (by rfl))

theorem State.takeSchedP_steady {fx : Fixed} (s : State) (lp : Nat) (new : Image) (hs1 : All (Steady fx) s) :
    All (Steady fx) (State.takeSchedP s lp new) := by
  unfold State.takeSchedP
  repeat' first
    | with_reducible assumption
    | with_reducible apply State.modEgr_steady
    | with_reducible apply State.credit_steady
    | intro _ _
    | fail_if_no_progress (with_reducible refine All.upd ?_ (by rfl) (by rfl) (by rfl) (by rfl) (by rfl))

theorem State.takeSched_steady {fx : Fixed} (s : State) (hs1 : All (Steady fx) s) :
    All (Steady fx) (State.takeSched s) := by
  unfold State.takeSched
  repeat' first
    | with_reducible assumption
    | with_reducible apply State.takeSchedQ_steady
    | with_reducible apply State.takeSchedP_steady
    | with_reducible refine All.branch (fun _ => ?_) (fun _ => ?_)
    | with_reducible refine All.folded ?_ (fun _ _ _ => ?_)

theorem State.refillQueue_steady {fx : Fixed} (s : State) (q : Nat) (hs1 : All (Steady fx) s) :
    All (Steady fx) (State.refillQueue s q) := by
  unfold State.refillQueue
  repeat' first
    | with_reducible assumption
    | with_reducible apply State.modQueue_steady
    | with_reducible apply State.credit_steady
    | with_reducible refine All.branch (fun _ => ?_) (fun _ => ?_)

theorem State.refillPort_steady {fx : Fixed} (s : State) (lp : Nat) (hs1 : All (Steady fx) s) :
    All (Steady fx) (State.refillPort s lp) := by
  unfold State.refillPort
  repeat' first
    | with_reducible assumption
    | with_reducible apply State.modEgr_steady
    | with_reducible apply State.credit_steady
    | with_reducible apply busy_steady
    | with_reducible refine All.branch (fun _ => ?_) (fun _ => ?_)

theorem State.refill_steady {fx : Fixed} (s : State) (hs1 : All (Steady fx) s) :
    All (Steady fx) (State.refill s) := by
  unfold State.refill
  repeat' first
    | with_reducible assumption
    | with_reducible apply State.at__steady
    | with_reducible apply State.takeSched_steady
    | with_reducible apply State.refillQueue_steady
    | with_reducible apply State.refillPort_steady
    | with_reducible refine All.folded ?_ (fun _ _ _ => ?_)
    | intro _ _
    | fail_if_no_progress (with_reducible refine All.upd ?_ (by rfl) (by rfl) (by rfl) (by rfl) (by rfl))

theorem execShaperRefill_steady {fx : Fixed} (s : State) (hs1 : All (Steady fx) s) :
    All (SteadyAns fx) (execShaperRefill s) := by
  unfold execShaperRefill
  repeat' first
    | with_reducible assumption
    | with_reducible apply State.refill_steady
    | with_reducible refine All.next ?_

theorem execGateSwitch_steady {fx : Fixed} (lp : Fin 512) (at8 : Fin 3277) (s : State) (hs1 : All (Steady fx) s) :
    All (SteadyAns fx) (execGateSwitch lp at8 s) := by
  unfold execGateSwitch
  repeat' first
    | with_reducible assumption
    | with_reducible apply State.at__steady
    | with_reducible apply State.gateSwitch_steady
    | with_reducible apply State.markBlocked_steady
    | with_reducible refine All.branch (fun _ => ?_) (fun _ => ?_)
    | with_reducible refine All.next ?_

theorem State.gateAdvance_steady {fx : Fixed} (s : State) (lp : Nat) (hs1 : All (Steady fx) s) :
    All (Steady fx) (State.gateAdvance s lp) := by
  unfold State.gateAdvance
  repeat' first
    | with_reducible assumption
    | with_reducible apply State.modEgr_steady
    | with_reducible refine All.branch (fun _ => ?_) (fun _ => ?_)

theorem execGateEntryAdvance_steady {fx : Fixed} (lp : Fin 512) (at8 : Fin 3277) (s : State) (hs1 : All (Steady fx) s) :
    All (SteadyAns fx) (execGateEntryAdvance lp at8 s) := by
  unfold execGateEntryAdvance
  repeat' first
    | with_reducible assumption
    | with_reducible apply State.at__steady
    | with_reducible apply State.gateAdvance_steady
    | with_reducible refine All.next ?_

/-! ### Tables -/

theorem State.changeEntry_steady {fx : Fixed} (s : State) (code gen idx : Nat) (f : Image → Image) (hs1 : All (Steady fx) s) :
    All (Steady fx) (State.changeEntry s code gen idx f) := by
  unfold State.changeEntry
  repeat' first
    | with_reducible assumption
    | with_reducible apply State.writeCopies_steady
    | with_reducible apply State.setMaster_steady
    | with_reducible apply State.setWork_steady
    | with_reducible apply State.rewritten_steady
    | with_reducible refine All.branch (fun _ => ?_) (fun _ => ?_)

theorem State.dropLearned_steady {fx : Fixed} (s : State) (b : Image) (hs1 : All (Steady fx) s) :
    All (Steady fx) (State.dropLearned s b) := by
  unfold State.dropLearned
  repeat' first
    | with_reducible assumption
    | with_reducible apply State.commandWrites_steady
    | with_reducible refine All.branch (fun _ => ?_) (fun _ => ?_)
    | with_reducible refine All.folded ?_ (fun _ _ _ => ?_)

theorem State.afterWrite_steady {fx : Fixed} (s : State) (code idx : Nat) (old new : Image) (hs1 : All (Steady fx) s) :
    All (Steady fx) (State.afterWrite s code idx old new) := by
  unfold State.afterWrite
  repeat' first
    | with_reducible assumption
    | with_reducible apply State.pauseCall_steady
    | with_reducible apply State.clearFeed_steady
    | with_reducible apply State.armGates_steady
    | with_reducible apply State.dropLearned_steady
    | with_reducible refine All.branch (fun _ => ?_) (fun _ => ?_)
    | fail_if_no_progress (with_reducible refine All.upd ?_ (by rfl) (by rfl) (by rfl) (by rfl) (by rfl))

theorem State.writeEntry_steady {fx : Fixed} (s : State) (code gen idx : Nat) (e : Image) (hs1 : All (Steady fx) s) :
    All (SteadyExc fx) (State.writeEntry s code gen idx e) := by
  unfold State.writeEntry
  repeat' first
    | with_reducible assumption
    | with_reducible apply ok_steady
    | with_reducible apply State.loosen_steady
    | with_reducible apply State.changeEntry_steady
    | with_reducible apply State.afterWrite_steady
    | with_reducible exact All.error
    | with_reducible refine All.okExc ?_
    | split

theorem State.writePair_steady {fx : Fixed} (s : State) (code idx : Nat) (key e : Image) (hs1 : All (Steady fx) s) :
    All (SteadyExc fx) (State.writePair s code idx key e) := by
  unfold State.writePair
  repeat' first
    | with_reducible assumption
    | with_reducible apply ok_steady
    | with_reducible apply State.loosen_steady
    | with_reducible apply State.changeEntry_steady
    | with_reducible exact All.error
    | with_reducible refine All.okExc ?_
    | split

theorem oneUnit_steady {fx : Fixed} (p : Pkt) (s : State) (r : Except Nat State) (hs1 : All (Steady fx) s) (hs2 : All (SteadyExc fx) r) :
    All (SteadyDone fx) (oneUnit p s r) := by
  unfold oneUnit
  refine All.branch (fun _ => busy_steady _ _ hs1) fun _ => ?_
  split
  · exact All.done hs1
  · exact All.branch (fun _ => d0Busy_steady _ _ hs1) fun _ => ok_steady _ _ (All.ofOk rfl hs2)

theorem State.insertEntry_steady {fx : Fixed} (s : State) (e : Image) (hs1 : All (Steady fx) s) :
    All (SteadyExc fx) (State.insertEntry s e) := by
  unfold State.insertEntry
  repeat' first
    | with_reducible assumption
    | with_reducible apply ok_steady
    | with_reducible apply State.loosen_steady
    | with_reducible apply State.writeControl_steady
    | with_reducible apply State.insertAll_steady
    | with_reducible exact All.error
    | with_reducible refine All.okExc ?_
    | split

theorem State.deleteEntry_steady {fx : Fixed} (s : State) (e : Image) (hs1 : All (Steady fx) s) :
    All (SteadyExc fx) (State.deleteEntry s e) := by
  unfold State.deleteEntry
  repeat' first
    | with_reducible assumption
    | with_reducible apply ok_steady
    | with_reducible apply State.loosen_steady
    | with_reducible apply State.writeControl_steady
    | with_reducible exact All.error
    | with_reducible refine All.okExc ?_
    | split

theorem doInsert_steady {fx : Fixed} (p : Pkt) (e : Image) (s : State) (hs1 : All (Steady fx) s) :
    All (SteadyDone fx) (doInsert p e s) := by
  unfold doInsert
  refine All.branch (fun _ => busy_steady _ _ hs1) fun _ => ?_
  split
  · dsimp only
    generalize (match p.d0StopAt with | some j => _ | none => _ : Option Nat) = o
    split
    · exact d0Busy_steady _ _ (State.insertPart_steady _ _ _ _ _ hs1)
    · exact All.branch (fun _ => partialReply_steady _ _ (State.insertPart_steady _ _ _ _ _ hs1)) fun _ =>
        ok_steady _ _ (State.insertAll_steady _ _ _ _ (State.loosen_steady _ _ hs1))
  · exact oneUnit_steady _ _ _ hs1 (State.insertEntry_steady _ _ hs1)

theorem doTblWrite_steady {fx : Fixed} (b0 : Waiter) (b1 : Pkt) (b2 : List Byte) (b3 : State) (hs1 : All (Steady fx) b3) :
    All (SteadyDone fx) (doTblWrite b0 b1 b2 b3) := by
  unfold doTblWrite
  repeat' first
    | with_reducible assumption
    | with_reducible apply ok_steady
    | with_reducible apply pendingReply_steady
    | with_reducible apply busy_steady
    | with_reducible apply d0Busy_steady
    | with_reducible apply State.startRecount_steady
    | with_reducible apply State.writeEntry_steady
    | with_reducible apply oneUnit_steady
    | with_reducible apply State.deleteEntry_steady
    | with_reducible apply doInsert_steady
    | with_reducible refine All.branch (fun _ => ?_) (fun _ => ?_)

theorem execTblWrite_steady {fx : Fixed} (p : Pkt) (s : State) (hs1 : All (Steady fx) s) :
    All (SteadyAns fx) (execTblWrite p s) := by
  unfold execTblWrite
  repeat' first
    | with_reducible assumption
    | with_reducible apply State.runCommand_steady
    | with_reducible apply doTblWrite_steady
    | with_reducible refine All.next ?_

theorem State.prefixWrite_steady {fx : Fixed} (s : State) (form : Nat) (p : Pkt) (hs1 : All (Steady fx) s) :
    All (Steady fx) (State.prefixWrite s form p) := by
  unfold State.prefixWrite
  repeat' first
    | with_reducible assumption
    | with_reducible apply State.runCommand_steady
    | with_reducible apply doTblWrite_steady

theorem execPrefixInsert_steady {fx : Fixed} (p : Pkt) (s : State) (hs1 : All (Steady fx) s) :
    All (SteadyAns fx) (execPrefixInsert p s) := by
  unfold execPrefixInsert
  repeat' first
    | with_reducible assumption
    | with_reducible apply State.prefixWrite_steady
    | with_reducible refine All.next ?_

theorem execPrefixDelete_steady {fx : Fixed} (p : Pkt) (s : State) (hs1 : All (Steady fx) s) :
    All (SteadyAns fx) (execPrefixDelete p s) := by
  unfold execPrefixDelete
  repeat' first
    | with_reducible assumption
    | with_reducible apply State.prefixWrite_steady
    | with_reducible refine All.next ?_

theorem doTblPairWrite_steady {fx : Fixed} (b0 : Waiter) (b1 : Pkt) (b2 : List Byte) (b3 : State) (hs1 : All (Steady fx) b3) :
    All (SteadyDone fx) (doTblPairWrite b0 b1 b2 b3) := by
  unfold doTblPairWrite
  repeat' first
    | with_reducible assumption
    | with_reducible apply State.writePair_steady
    | with_reducible apply oneUnit_steady

theorem execTblPairWrite_steady {fx : Fixed} (p : Pkt) (s : State) (hs1 : All (Steady fx) s) :
    All (SteadyAns fx) (execTblPairWrite p s) := by
  unfold execTblPairWrite
  repeat' first
    | with_reducible assumption
    | with_reducible apply State.runCommand_steady
    | with_reducible apply doTblPairWrite_steady
    | with_reducible refine All.next ?_

theorem doTblMove_steady {fx : Fixed} (b0 : Waiter) (b1 : Pkt) (b2 : List Byte) (b3 : State) (hs1 : All (Steady fx) b3) :
    All (SteadyDone fx) (doTblMove b0 b1 b2 b3) := by
  unfold doTblMove
  repeat' first
    | with_reducible assumption
    | with_reducible apply State.writePair_steady
    | with_reducible apply oneUnit_steady

theorem execTblMove_steady {fx : Fixed} (p : Pkt) (s : State) (hs1 : All (Steady fx) s) :
    All (SteadyAns fx) (execTblMove p s) := by
  unfold execTblMove
  repeat' first
    | with_reducible assumption
    | with_reducible apply State.runCommand_steady
    | with_reducible apply doTblMove_steady
    | with_reducible refine All.next ?_

theorem doTblRead_steady {fx : Fixed} (b0 : Waiter) (b1 : Pkt) (b2 : List Byte) (b3 : State) (hs1 : All (Steady fx) b3) :
    All (SteadyDone fx) (doTblRead b0 b1 b2 b3) := by
  unfold doTblRead
  repeat' first
    | with_reducible assumption
    | with_reducible apply State.tick_steady
    | with_reducible apply ok_steady
    | with_reducible apply busy_steady
    | with_reducible apply State.readMaster_steady
    | with_reducible refine All.branch (fun _ => ?_) (fun _ => ?_)
    | with_reducible exact All.none
    | with_reducible exact All.noneFst
    | with_reducible refine All.some ?_
    | with_reducible refine All.someFst ?_
    | (with_reducible refine All.ofFst (by assumption) ?_)
    | (with_reducible refine All.ofSnd (by assumption) ?_)
    | (with_reducible refine All.ofMid (by assumption) ?_)
    | (with_reducible refine All.ofThird (by assumption) ?_)
    | (with_reducible refine All.ofSome (by assumption) ?_)
    | (with_reducible refine All.ofSomeFst (by assumption) ?_)
    | (with_reducible refine All.ofOk (by assumption) ?_)
    | split
    | with_reducible refine All.done ?_
    | with_reducible refine All.pair ?_
    | with_reducible refine All.pairSnd ?_
    | with_reducible refine All.mid ?_
    | with_reducible refine All.third ?_
    | intro _ _
    | fail_if_no_progress (with_reducible refine All.upd ?_ (by rfl) (by rfl) (by rfl) (by rfl) (by rfl))

theorem execTblRead_steady {fx : Fixed} (p : Pkt) (s : State) (hs1 : All (Steady fx) s) :
    All (SteadyAns fx) (execTblRead p s) := by
  unfold execTblRead
  repeat' first
    | with_reducible assumption
    | with_reducible apply State.runCommand_steady
    | with_reducible apply doTblRead_steady
    | with_reducible refine All.next ?_

theorem State.bulkOne_steady {fx : Fixed} (s : State) (code idx : Nat) (e : Image) (hs1 : All (Steady fx) s) :
    All (SteadyExc fx) (State.bulkOne s code idx e) := by
  unfold State.bulkOne
  repeat' first
    | with_reducible assumption
    | with_reducible apply State.writeEntry_steady
    | with_reducible apply State.insertEntry_steady
    | with_reducible apply State.deleteEntry_steady
    | with_reducible refine All.branch (fun _ => ?_) (fun _ => ?_)
    | with_reducible exact All.error

theorem State.bulkGo_steady {fx : Fixed} (s : State) (ps : List Byte) (code index : Nat) (b0 : Nat) (b1 : Nat) (hs1 : All (Steady fx) s) :
    All (SteadyFst fx) (State.bulkGo s ps code index b0 b1) := by
  induction b0 generalizing s b1 with
  | zero => exact All.pair hs1
  | succ n ih =>
    unfold State.bulkGo
    split
    · exact All.pair hs1
    · exact ih _ _ (All.ofOk ‹_› (State.bulkOne_steady _ _ _ _ hs1))

theorem doBulkWrite_steady {fx : Fixed} (p : Pkt) (ps : List Byte) (s : State) (hs1 : All (Steady fx) s) :
    All (SteadyDone fx) (doBulkWrite p ps s) := by
  unfold doBulkWrite
  refine All.branch (fun _ => busy_steady _ _ hs1) fun _ => ?_
  have h := State.bulkGo_steady s ps (tblHeader ps).table (tblHeader ps).index (d0Units p (tblHeader ps).aux).1 0 hs1
  dsimp only
  split
  · exact All.done (All.fst h)
  · exact All.branch (fun _ => partialReply_steady _ _ (All.fst h)) fun _ =>
      All.branch (fun _ => d0Busy_steady _ _ (All.fst h)) fun _ => ok_steady _ _ (All.fst h)

theorem doRelayout_steady {fx : Fixed} (p : Pkt) (ps : List Byte) (s : State) (hs1 : All (Steady fx) s) :
    All (SteadyDone fx) (doRelayout p ps s) := by
  unfold doRelayout
  repeat' first
    | with_reducible assumption
    | with_reducible apply ok_steady
    | with_reducible apply busy_steady
    | with_reducible apply noResource_steady
    | with_reducible apply partialReply_steady
    | with_reducible apply d0Busy_steady
    | with_reducible apply State.layStep_steady
    | with_reducible apply State.partLaid_steady
    | with_reducible refine All.branch (fun _ => ?_) (fun _ => ?_)
    | with_reducible exact All.none
    | with_reducible exact All.noneFst
    | with_reducible refine All.some ?_
    | with_reducible refine All.someFst ?_
    | with_reducible refine All.folded ?_ (fun _ _ _ => ?_)
    | (with_reducible refine All.ofFst (by assumption) ?_)
    | (with_reducible refine All.ofSnd (by assumption) ?_)
    | (with_reducible refine All.ofMid (by assumption) ?_)
    | (with_reducible refine All.ofThird (by assumption) ?_)
    | (with_reducible refine All.ofSome (by assumption) ?_)
    | (with_reducible refine All.ofSomeFst (by assumption) ?_)
    | (with_reducible refine All.ofOk (by assumption) ?_)
    | split
    | with_reducible refine All.done ?_
    | with_reducible refine All.pair ?_
    | with_reducible refine All.pairSnd ?_
    | with_reducible refine All.mid ?_
    | with_reducible refine All.third ?_
    | intro _ _
    | fail_if_no_progress (with_reducible refine All.upd ?_ (by rfl) (by rfl) (by rfl) (by rfl) (by rfl))

theorem doTblBulk_steady {fx : Fixed} (b0 : Waiter) (b1 : Pkt) (b2 : List Byte) (b3 : State) (hs1 : All (Steady fx) b3) :
    All (SteadyDone fx) (doTblBulk b0 b1 b2 b3) := by
  unfold doTblBulk
  repeat' first
    | with_reducible assumption
    | with_reducible apply doBulkWrite_steady
    | with_reducible apply doRelayout_steady
    | with_reducible refine All.branch (fun _ => ?_) (fun _ => ?_)

theorem execTblBulkWrite_steady {fx : Fixed} (p : Pkt) (s : State) (hs1 : All (Steady fx) s) :
    All (SteadyAns fx) (execTblBulkWrite p s) := by
  unfold execTblBulkWrite
  repeat' first
    | with_reducible assumption
    | with_reducible apply State.runCommand_steady
    | with_reducible apply doTblBulk_steady
    | with_reducible refine All.next ?_

theorem execTblBulkRelayout_steady {fx : Fixed} (p : Pkt) (s : State) (hs1 : All (Steady fx) s) :
    All (SteadyAns fx) (execTblBulkRelayout p s) := by
  unfold execTblBulkRelayout
  repeat' first
    | with_reducible assumption
    | with_reducible apply State.runCommand_steady
    | with_reducible apply doTblBulk_steady
    | with_reducible refine All.next ?_

theorem State.startSwap_steady {fx : Fixed} (s : State) (g : Bool) (w : Option Waiter) (hs1 : All (Steady fx) s) :
    All (Steady fx) (State.startSwap s g w) := by
  unfold State.startSwap
  repeat' first
    | with_reducible assumption
    | with_reducible apply State.setMaster_steady
    | with_reducible refine All.branch (fun _ => ?_) (fun _ => ?_)
    | with_reducible refine All.some ?_
    | with_reducible refine All.someFst ?_
    | with_reducible refine All.pair ?_
    | with_reducible refine All.pairSnd ?_
    | with_reducible refine All.mid ?_
    | with_reducible refine All.third ?_
    | fail_if_no_progress (with_reducible refine All.upd ?_ (by rfl) (by rfl) (by rfl) (by rfl) (by rfl))

theorem doGenSwap_steady {fx : Fixed} (b0 : Waiter) (b1 : Pkt) (b2 : List Byte) (b3 : State) (hs1 : All (Steady fx) b3) :
    All (SteadyDone fx) (doGenSwap b0 b1 b2 b3) := by
  unfold doGenSwap
  repeat' first
    | with_reducible assumption
    | with_reducible apply pendingReply_steady
    | with_reducible apply busy_steady
    | with_reducible apply d0Busy_steady
    | with_reducible apply State.startSwap_steady
    | with_reducible refine All.branch (fun _ => ?_) (fun _ => ?_)

theorem execGenSwap_steady {fx : Fixed} (p : Pkt) (s : State) (hs1 : All (Steady fx) s) :
    All (SteadyAns fx) (execGenSwap p s) := by
  unfold execGenSwap
  repeat' first
    | with_reducible assumption
    | with_reducible apply State.runCommand_steady
    | with_reducible apply doGenSwap_steady
    | with_reducible refine All.next ?_

theorem State.genBoundary_steady {fx : Fixed} (s : State) (hs1 : All (Steady fx) s) :
    All (Steady fx) (State.genBoundary s) := by
  unfold State.genBoundary
  repeat' first
    | with_reducible assumption
    | split
    | intro _ _
    | fail_if_no_progress (with_reducible refine All.upd ?_ (by rfl) (by rfl) (by rfl) (by rfl) (by rfl))

theorem execGenSwapBoundary_steady {fx : Fixed} (s : State) (hs1 : All (Steady fx) s) :
    All (SteadyAns fx) (execGenSwapBoundary s) := by
  unfold execGenSwapBoundary
  repeat' first
    | with_reducible assumption
    | with_reducible apply State.genBoundary_steady
    | with_reducible refine All.next ?_

theorem State.genDrained_steady {fx : Fixed} (s : State) (hs1 : All (Steady fx) s) :
    All (Steady fx) (State.genDrained s) := by
  unfold State.genDrained
  repeat' first
    | with_reducible assumption
    | with_reducible apply State.emit_steady
    | with_reducible apply State.complete_steady
    | with_reducible refine All.branch (fun _ => ?_) (fun _ => ?_)
    | with_reducible exact All.none
    | with_reducible exact All.noneFst
    | with_reducible refine All.some ?_
    | with_reducible refine All.someFst ?_
    | (with_reducible refine All.ofFst (by assumption) ?_)
    | (with_reducible refine All.ofSnd (by assumption) ?_)
    | (with_reducible refine All.ofMid (by assumption) ?_)
    | (with_reducible refine All.ofThird (by assumption) ?_)
    | (with_reducible refine All.ofSome (by assumption) ?_)
    | (with_reducible refine All.ofSomeFst (by assumption) ?_)
    | (with_reducible refine All.ofOk (by assumption) ?_)
    | split
    | fail_if_no_progress (with_reducible refine All.upd ?_ (by rfl) (by rfl) (by rfl) (by rfl) (by rfl))

theorem execGenSwapDrained_steady {fx : Fixed} (s : State) (hs1 : All (Steady fx) s) :
    All (SteadyAns fx) (execGenSwapDrained s) := by
  unfold execGenSwapDrained
  repeat' first
    | with_reducible assumption
    | with_reducible apply State.genDrained_steady
    | with_reducible refine All.next ?_

/-! ### Learning -/

theorem State.offerCandidate_steady {fx : Fixed} (s : State) (q : Nat) (c : Candidate) (hs1 : All (Steady fx) s) :
    All (Steady fx) (State.offerCandidate s q c) := by
  unfold State.offerCandidate
  repeat' first
    | with_reducible assumption
    | with_reducible apply State.modQuad_steady
    | with_reducible apply State.tick_steady
    | with_reducible refine All.branch (fun _ => ?_) (fun _ => ?_)

theorem State.notice_steady {fx : Fixed} (s : State) (bytes : List Byte) (hs1 : All (Steady fx) s) :
    All (Steady fx) (State.notice s bytes) := by
  unfold State.notice
  repeat' first
    | with_reducible assumption
    | fail_if_no_progress (with_reducible refine All.upd ?_ (by rfl) (by rfl) (by rfl) (by rfl) (by rfl))

theorem State.learnFull_steady {fx : Fixed} (s : State) (q : Nat) (c : Candidate) (hs1 : All (Steady fx) s) :
    All (Steady fx) (State.learnFull s q c) := by
  unfold State.learnFull
  repeat' first
    | with_reducible assumption
    | with_reducible apply State.modQuad_steady
    | with_reducible apply State.raise_steady
    | with_reducible apply State.tick_steady
    | with_reducible apply State.notice_steady
    | with_reducible refine All.branch (fun _ => ?_) (fun _ => ?_)

theorem State.learnSearch_steady {fx : Fixed} (s : State) (q cycle : Nat) (c : Candidate) (hs1 : All (Steady fx) s) :
    All (Steady fx) (State.learnSearch s q cycle c) := by
  unfold State.learnSearch
  repeat' first
    | with_reducible assumption
    | with_reducible apply State.modQuad_steady
    | with_reducible apply State.tick_steady
    | with_reducible apply State.learnFull_steady
    | with_reducible refine All.branch (fun _ => ?_) (fun _ => ?_)
    | with_reducible exact All.none
    | with_reducible exact All.noneFst
    | with_reducible refine All.some ?_
    | with_reducible refine All.someFst ?_
    | (with_reducible refine All.ofFst (by assumption) ?_)
    | (with_reducible refine All.ofSnd (by assumption) ?_)
    | (with_reducible refine All.ofMid (by assumption) ?_)
    | (with_reducible refine All.ofThird (by assumption) ?_)
    | (with_reducible refine All.ofSome (by assumption) ?_)
    | (with_reducible refine All.ofSomeFst (by assumption) ?_)
    | (with_reducible refine All.ofOk (by assumption) ?_)
    | split
    | (dsimp only; split)

theorem State.learnWrite_steady {fx : Fixed} (s : State) (q cycle : Nat) (p : LearnPlan) (hs1 : All (Steady fx) s) :
    All (Steady fx) (State.learnWrite s q cycle p) := by
  unfold State.learnWrite
  repeat' first
    | with_reducible assumption
    | with_reducible apply State.modQuad_steady
    | with_reducible apply State.tick_steady
    | with_reducible apply State.setReplica_steady
    | with_reducible apply State.notice_steady
    | with_reducible refine All.branch (fun _ => ?_) (fun _ => ?_)

theorem State.ageRemove_steady {fx : Fixed} (s : State) (q cycle : Nat) (x : Nat × Nat × BitVec 16) (hs1 : All (Steady fx) s) :
    All (Steady fx) (State.ageRemove s q cycle x) := by
  unfold State.ageRemove
  repeat' first
    | with_reducible assumption
    | with_reducible apply State.modQuad_steady
    | with_reducible apply State.tick_steady
    | with_reducible apply State.setReplica_steady
    | with_reducible refine All.branch (fun _ => ?_) (fun _ => ?_)
    | intro _ _
    | fail_if_no_progress (with_reducible refine All.upd ?_ (by rfl) (by rfl) (by rfl) (by rfl) (by rfl))

theorem State.learnIn_steady {fx : Fixed} (s : State) (q cycle : Nat) (hs1 : All (Steady fx) s) :
    All (Steady fx) (State.learnIn s q cycle) := by
  unfold State.learnIn
  repeat' first
    | with_reducible assumption
    | with_reducible apply State.modQuad_steady
    | with_reducible apply State.tick_steady
    | with_reducible apply State.learnSearch_steady
    | with_reducible apply State.learnWrite_steady
    | with_reducible apply State.ageRemove_steady
    | with_reducible refine All.branch (fun _ => ?_) (fun _ => ?_)
    | with_reducible exact All.none
    | with_reducible exact All.noneFst
    | with_reducible refine All.some ?_
    | with_reducible refine All.someFst ?_
    | (with_reducible refine All.ofFst (by assumption) ?_)
    | (with_reducible refine All.ofSnd (by assumption) ?_)
    | (with_reducible refine All.ofMid (by assumption) ?_)
    | (with_reducible refine All.ofThird (by assumption) ?_)
    | (with_reducible refine All.ofSome (by assumption) ?_)
    | (with_reducible refine All.ofSomeFst (by assumption) ?_)
    | (with_reducible refine All.ofOk (by assumption) ?_)
    | split
    | (dsimp only; split)

theorem State.learnSlot_steady {fx : Fixed} (s : State) (q cycle : Nat) (hs1 : All (Steady fx) s) :
    All (Steady fx) (State.learnSlot s q cycle) := by
  unfold State.learnSlot
  repeat' first
    | with_reducible assumption
    | with_reducible apply State.maintenance_steady
    | with_reducible apply State.learnIn_steady
    | with_reducible refine All.branch (fun _ => ?_) (fun _ => ?_)
    | with_reducible exact All.none
    | with_reducible exact All.noneFst
    | with_reducible refine All.some ?_
    | with_reducible refine All.someFst ?_
    | (with_reducible refine All.ofFst (by assumption) ?_)
    | (with_reducible refine All.ofSnd (by assumption) ?_)
    | (with_reducible refine All.ofMid (by assumption) ?_)
    | (with_reducible refine All.ofThird (by assumption) ?_)
    | (with_reducible refine All.ofSome (by assumption) ?_)
    | (with_reducible refine All.ofSomeFst (by assumption) ?_)
    | (with_reducible refine All.ofOk (by assumption) ?_)
    | split

theorem execLearningSlot_steady {fx : Fixed} (q : Fin 4) (cycle : Fin 1024) (s : State) (hs1 : All (Steady fx) s) :
    All (SteadyAns fx) (execLearningSlot q cycle s) := by
  unfold execLearningSlot
  repeat' first
    | with_reducible assumption
    | with_reducible apply State.learnSlot_steady
    | with_reducible refine All.branch (fun _ => ?_) (fun _ => ?_)
    | with_reducible refine All.next ?_

theorem doAgeScan_steady {fx : Fixed} (b0 : Waiter) (b1 : Pkt) (b2 : List Byte) (b3 : State) (hs1 : All (Steady fx) b3) :
    All (SteadyDone fx) (doAgeScan b0 b1 b2 b3) := by
  unfold doAgeScan
  repeat' first
    | with_reducible assumption
    | with_reducible apply pendingReply_steady
    | with_reducible apply busy_steady
    | with_reducible refine All.branch (fun _ => ?_) (fun _ => ?_)
    | intro _ _
    | fail_if_no_progress (with_reducible refine All.upd ?_ (by rfl) (by rfl) (by rfl) (by rfl) (by rfl))

theorem execAgeScan_steady {fx : Fixed} (p : Pkt) (s : State) (hs1 : All (Steady fx) s) :
    All (SteadyAns fx) (execAgeScan p s) := by
  unfold execAgeScan
  repeat' first
    | with_reducible assumption
    | with_reducible apply State.runCommand_steady
    | with_reducible apply doAgeScan_steady
    | with_reducible refine All.next ?_

theorem State.ageRow_steady {fx : Fixed} (s : State) (q : Fin 4) (a : AgeScan) (cycle : Nat) (hs1 : All (Steady fx) s) :
    All (Steady fx) (State.ageRow s q a cycle) := by
  unfold State.ageRow
  repeat' first
    | with_reducible assumption
    | with_reducible apply State.modQuad_steady
    | with_reducible apply State.tick_steady
    | with_reducible apply State.notice_steady
    | with_reducible refine All.branch (fun _ => ?_) (fun _ => ?_)
    | with_reducible refine All.some ?_
    | with_reducible refine All.someFst ?_
    | with_reducible refine All.pair ?_
    | with_reducible refine All.pairSnd ?_
    | with_reducible refine All.mid ?_
    | with_reducible refine All.third ?_
    | intro _ _
    | fail_if_no_progress (with_reducible refine All.upd ?_ (by rfl) (by rfl) (by rfl) (by rfl) (by rfl))

theorem State.ageRead_steady {fx : Fixed} (s : State) (q : Fin 4) (cycle : Nat) (hs1 : All (Steady fx) s) :
    All (Steady fx) (State.ageRead s q cycle) := by
  unfold State.ageRead
  repeat' first
    | with_reducible assumption
    | with_reducible apply State.maintenance_steady
    | with_reducible apply State.ageRow_steady
    | with_reducible refine All.branch (fun _ => ?_) (fun _ => ?_)
    | with_reducible exact All.none
    | with_reducible exact All.noneFst
    | with_reducible refine All.some ?_
    | with_reducible refine All.someFst ?_
    | (with_reducible refine All.ofFst (by assumption) ?_)
    | (with_reducible refine All.ofSnd (by assumption) ?_)
    | (with_reducible refine All.ofMid (by assumption) ?_)
    | (with_reducible refine All.ofThird (by assumption) ?_)
    | (with_reducible refine All.ofSome (by assumption) ?_)
    | (with_reducible refine All.ofSomeFst (by assumption) ?_)
    | (with_reducible refine All.ofOk (by assumption) ?_)
    | split

theorem execAgeingRead_steady {fx : Fixed} (q : Fin 4) (cycle : Fin 1024) (s : State) (hs1 : All (Steady fx) s) :
    All (SteadyAns fx) (execAgeingRead q cycle s) := by
  unfold execAgeingRead
  repeat' first
    | with_reducible assumption
    | with_reducible apply State.ageRead_steady
    | with_reducible refine All.branch (fun _ => ?_) (fun _ => ?_)
    | with_reducible refine All.next ?_

theorem State.ageScanDone_steady {fx : Fixed} (s : State) (hs1 : All (Steady fx) s) :
    All (Steady fx) (State.ageScanDone s) := by
  unfold State.ageScanDone
  repeat' first
    | with_reducible assumption
    | with_reducible apply State.complete_steady
    | split
    | intro _ _
    | fail_if_no_progress (with_reducible refine All.upd ?_ (by rfl) (by rfl) (by rfl) (by rfl) (by rfl))

theorem execAgeScanComplete_steady {fx : Fixed} (s : State) (hs1 : All (Steady fx) s) :
    All (SteadyAns fx) (execAgeScanComplete s) := by
  unfold execAgeScanComplete
  repeat' first
    | with_reducible assumption
    | with_reducible apply State.ageScanDone_steady
    | with_reducible refine All.next ?_

theorem State.markRepair_steady {fx : Fixed} (s : State) (q code gen idx : Nat) (hs1 : All (Steady fx) s) :
    All (Steady fx) (State.markRepair s q code gen idx) := by
  unfold State.markRepair
  repeat' first
    | with_reducible assumption
    | with_reducible apply State.modQuad_steady

theorem State.scrubRow_steady {fx : Fixed} (s : State) (q code i cycle : Nat) (f : ScrubFinding) (hs1 : All (Steady fx) s) :
    All (Steady fx) (State.scrubRow s q code i cycle f) := by
  unfold State.scrubRow
  repeat' first
    | with_reducible assumption
    | with_reducible apply State.tick_steady
    | with_reducible apply State.setReplica_steady
    | with_reducible apply State.uncorrectable_steady
    | with_reducible apply State.markRepair_steady
    | with_reducible refine All.branch (fun _ => ?_) (fun _ => ?_)
    | (with_reducible refine All.ofFst (by assumption) ?_)
    | (with_reducible refine All.ofSnd (by assumption) ?_)
    | (with_reducible refine All.ofMid (by assumption) ?_)
    | (with_reducible refine All.ofThird (by assumption) ?_)
    | (with_reducible refine All.ofSome (by assumption) ?_)
    | (with_reducible refine All.ofSomeFst (by assumption) ?_)
    | (with_reducible refine All.ofOk (by assumption) ?_)
    | split

theorem State.scrubData_steady {fx : Fixed} (s : State) (q code gen i cycle : Nat) (f : ScrubFinding) (hs1 : All (Steady fx) s) :
    All (Steady fx) (State.scrubData s q code gen i cycle f) := by
  unfold State.scrubData
  repeat' first
    | with_reducible assumption
    | with_reducible apply State.tick_steady
    | with_reducible apply State.uncorrectable_steady
    | with_reducible apply State.markRepair_steady
    | with_reducible refine All.branch (fun _ => ?_) (fun _ => ?_)
    | (with_reducible refine All.ofFst (by assumption) ?_)
    | (with_reducible refine All.ofSnd (by assumption) ?_)
    | (with_reducible refine All.ofMid (by assumption) ?_)
    | (with_reducible refine All.ofThird (by assumption) ?_)
    | (with_reducible refine All.ofSome (by assumption) ?_)
    | (with_reducible refine All.ofSomeFst (by assumption) ?_)
    | (with_reducible refine All.ofOk (by assumption) ?_)
    | split

theorem State.memSlot_steady {fx : Fixed} (s : State) (q : Nat) (t : TableId) (use cycle : Nat) (hs1 : All (Steady fx) s) :
    All (SteadyOpt fx) (State.memSlot s q t use cycle) := by
  unfold State.memSlot
  repeat' first
    | with_reducible assumption
    | with_reducible apply State.at__steady
    | with_reducible apply State.maintenance_steady
    | with_reducible refine All.branch (fun _ => ?_) (fun _ => ?_)
    | with_reducible exact All.none
    | with_reducible exact All.noneFst
    | with_reducible refine All.some ?_
    | with_reducible refine All.someFst ?_
    | (with_reducible refine All.ofFst (by assumption) ?_)
    | (with_reducible refine All.ofSnd (by assumption) ?_)
    | (with_reducible refine All.ofMid (by assumption) ?_)
    | (with_reducible refine All.ofThird (by assumption) ?_)
    | (with_reducible refine All.ofSome (by assumption) ?_)
    | (with_reducible refine All.ofSomeFst (by assumption) ?_)
    | (with_reducible refine All.ofOk (by assumption) ?_)
    | split

theorem State.scrub_steady {fx : Fixed} (s : State) (q : Nat) (t : TableId) (i cycle : Nat) (key data : ScrubFinding) (hs1 : All (Steady fx) s) :
    All (Steady fx) (State.scrub s q t i cycle key data) := by
  unfold State.scrub
  repeat' first
    | with_reducible assumption
    | with_reducible apply State.tick_steady
    | with_reducible apply State.scrubRow_steady
    | with_reducible apply State.scrubData_steady
    | with_reducible apply State.memSlot_steady
    | with_reducible apply State.automata_steady
    | with_reducible refine All.branch (fun _ => ?_) (fun _ => ?_)
    | with_reducible exact All.none
    | with_reducible exact All.noneFst
    | with_reducible refine All.some ?_
    | with_reducible refine All.someFst ?_
    | (with_reducible refine All.ofFst (by assumption) ?_)
    | (with_reducible refine All.ofSnd (by assumption) ?_)
    | (with_reducible refine All.ofMid (by assumption) ?_)
    | (with_reducible refine All.ofThird (by assumption) ?_)
    | (with_reducible refine All.ofSome (by assumption) ?_)
    | (with_reducible refine All.ofSomeFst (by assumption) ?_)
    | (with_reducible refine All.ofOk (by assumption) ?_)
    | split

theorem execScrubSlot_steady {fx : Fixed} (q : Fin 4) (table : TableId) (index : Nat) (cycle : Fin 1024) (key data : ScrubFinding) (s : State) (hs1 : All (Steady fx) s) :
    All (SteadyAns fx) (execScrubSlot q table index cycle key data s) := by
  unfold execScrubSlot
  repeat' first
    | with_reducible assumption
    | with_reducible apply State.scrub_steady
    | with_reducible refine All.branch (fun _ => ?_) (fun _ => ?_)
    | with_reducible refine All.next ?_

theorem State.repairSlots_steady {fx : Fixed} (s : State) (q : Nat) (t : TableId) (n : Nat) (hs1 : All (Steady fx) s) :
    All (Steady fx) (State.repairSlots s q t n) := by
  unfold State.repairSlots
  repeat' first
    | with_reducible assumption
    | with_reducible apply State.spendSlots_steady
    | with_reducible refine All.branch (fun _ => ?_) (fun _ => ?_)
    | with_reducible exact All.none
    | with_reducible exact All.noneFst
    | with_reducible refine All.some ?_
    | with_reducible refine All.someFst ?_
    | (with_reducible refine All.ofFst (by assumption) ?_)
    | (with_reducible refine All.ofSnd (by assumption) ?_)
    | (with_reducible refine All.ofMid (by assumption) ?_)
    | (with_reducible refine All.ofThird (by assumption) ?_)
    | (with_reducible refine All.ofSome (by assumption) ?_)
    | (with_reducible refine All.ofSomeFst (by assumption) ?_)
    | (with_reducible refine All.ofOk (by assumption) ?_)
    | split

theorem State.repairBlock_steady {fx : Fixed} (s : State) (q : Nat) (t : TableId) (code gen block : Nat) (masterBad : Bool) (hs1 : All (Steady fx) s) :
    All (Steady fx) (State.repairBlock s q t code gen block masterBad) := by
  unfold State.repairBlock
  repeat' first
    | with_reducible assumption
    | with_reducible apply State.modQuad_steady
    | with_reducible apply State.tick_steady
    | with_reducible apply State.slotWrite_steady
    | with_reducible apply State.markDamaged_steady
    | with_reducible apply State.repairSlots_steady
    | with_reducible refine All.branch (fun _ => ?_) (fun _ => ?_)
    | with_reducible refine All.folded ?_ (fun _ _ _ => ?_)

theorem State.repair_steady {fx : Fixed} (s : State) (q : Nat) (t : TableId) (b cycle : Nat) (masterBad : Bool) (hs1 : All (Steady fx) s) :
    All (Steady fx) (State.repair s q t b cycle masterBad) := by
  unfold State.repair
  repeat' first
    | with_reducible assumption
    | with_reducible apply State.tick_steady
    | with_reducible apply State.memSlot_steady
    | with_reducible apply State.repairBlock_steady
    | with_reducible apply State.automata_steady
    | with_reducible refine All.branch (fun _ => ?_) (fun _ => ?_)
    | with_reducible exact All.none
    | with_reducible exact All.noneFst
    | with_reducible refine All.some ?_
    | with_reducible refine All.someFst ?_
    | (with_reducible refine All.ofFst (by assumption) ?_)
    | (with_reducible refine All.ofSnd (by assumption) ?_)
    | (with_reducible refine All.ofMid (by assumption) ?_)
    | (with_reducible refine All.ofThird (by assumption) ?_)
    | (with_reducible refine All.ofSome (by assumption) ?_)
    | (with_reducible refine All.ofSomeFst (by assumption) ?_)
    | (with_reducible refine All.ofOk (by assumption) ?_)
    | split

theorem execReplicaRepair_steady {fx : Fixed} (q : Fin 4) (table : TableId) (block : Nat) (cycle : Fin 1024) (masterBad : Bool) (s : State) (hs1 : All (Steady fx) s) :
    All (SteadyAns fx) (execReplicaRepair q table block cycle masterBad s) := by
  unfold execReplicaRepair
  repeat' first
    | with_reducible assumption
    | with_reducible apply State.repair_steady
    | with_reducible refine All.branch (fun _ => ?_) (fun _ => ?_)
    | with_reducible refine All.next ?_

/-! ### Feeds -/

theorem State.countFeed_steady {fx : Fixed} (s : State) (f k : Nat) (n : Nat) (hs1 : All (Steady fx) s) :
    All (Steady fx) (State.countFeed s f k n) := by
  unfold State.countFeed
  repeat' first
    | with_reducible assumption
    | with_reducible apply State.modFeed_steady

theorem State.reportGap_steady {fx : Fixed} (s : State) (f : Nat) (g : Gap) (lost reason : Nat) (hs1 : All (Steady fx) s) :
    All (Steady fx) (State.reportGap s f g lost reason) := by
  unfold State.reportGap
  repeat' first
    | with_reducible assumption
    | with_reducible apply State.raise_steady
    | with_reducible apply State.systemRecord_steady
    | with_reducible apply State.countFeed_steady
    | with_reducible refine All.branch (fun _ => ?_) (fun _ => ?_)

theorem State.freeGap_steady {fx : Fixed} (s : State) (f : Nat) (g : Gap) (reason : Nat) (hs1 : All (Steady fx) s) :
    All (Steady fx) (State.freeGap s f g reason) := by
  unfold State.freeGap
  repeat' first
    | with_reducible assumption
    | with_reducible apply State.modFeed_steady
    | with_reducible apply State.sendFeed_steady
    | with_reducible apply State.reportGap_steady

theorem State.openGap_steady {fx : Fixed} (s : State) (f : Nat) (first last : BitVec 64) (hs1 : All (Steady fx) s) :
    All (Steady fx) (State.openGap s f first last) := by
  unfold State.openGap
  repeat' first
    | with_reducible assumption
    | with_reducible apply State.modFeed_steady
    | with_reducible apply State.countFeed_steady
    | with_reducible apply State.sendFeed_steady
    | with_reducible apply State.freeGap_steady
    | split

theorem State.dropGapsBelow_steady {fx : Fixed} (s : State) (f : Nat) (e : BitVec 64) (hs1 : All (Steady fx) s) :
    All (Steady fx) (State.dropGapsBelow s f e) := by
  unfold State.dropGapsBelow
  repeat' first
    | with_reducible assumption
    | with_reducible apply State.freeGap_steady
    | with_reducible refine All.folded ?_ (fun _ _ _ => ?_)

theorem State.closeFilled_steady {fx : Fixed} (s : State) (f : Nat) (hs1 : All (Steady fx) s) :
    All (Steady fx) (State.closeFilled s f) := by
  unfold State.closeFilled
  repeat' first
    | with_reducible assumption
    | with_reducible apply State.modFeed_steady
    | with_reducible apply State.countFeed_steady
    | with_reducible apply State.sendFeed_steady
    | with_reducible refine All.folded ?_ (fun _ _ _ => ?_)

theorem State.leaveBehind_steady {fx : Fixed} (s : State) (f : Nat) (first last e : BitVec 64) (reason : Nat) (hs1 : All (Steady fx) s) :
    All (Steady fx) (State.leaveBehind s f first last e reason) := by
  unfold State.leaveBehind
  repeat' first
    | with_reducible assumption
    | with_reducible apply State.reportGap_steady
    | with_reducible apply State.openGap_steady
    | with_reducible refine All.branch (fun _ => ?_) (fun _ => ?_)

theorem State.acceptRun_steady {fx : Fixed} (s : State) (f : Nat) (first : BitVec 64) (n : Nat) (hs1 : All (Steady fx) s) :
    All (Steady fx) (State.acceptRun s f first n) := by
  unfold State.acceptRun
  repeat' first
    | with_reducible assumption
    | with_reducible apply State.modFeed_steady
    | with_reducible apply State.sendFeed_steady
    | with_reducible apply State.dropGapsBelow_steady
    | with_reducible apply State.closeFilled_steady
    | with_reducible apply State.leaveBehind_steady
    | with_reducible refine All.branch (fun _ => ?_) (fun _ => ?_)

theorem State.feedDecide_steady {fx : Fixed} (s : State) (f fields : Nat) (hs1 : All (Steady fx) s) :
    All (SteadyBy FeedAnswer.st fx) (State.feedDecide s f fields) := by
  unfold State.feedDecide
  repeat' first
    | with_reducible assumption
    | with_reducible apply State.modFeed_steady
    | with_reducible apply State.tick_steady
    | with_reducible apply State.countFeed_steady
    | with_reducible apply State.sendFeed_steady
    | with_reducible apply State.freeGap_steady
    | with_reducible apply State.acceptRun_steady
    | with_reducible refine All.branch (fun _ => ?_) (fun _ => ?_)
    | with_reducible refine All.folded ?_ (fun _ _ _ => ?_)
    | (with_reducible apply All.by_ (π := FeedAnswer.st); dsimp only)

theorem State.feedOverRate_steady {fx : Fixed} (s : State) (f : Nat) (hs1 : All (Steady fx) s) :
    All (SteadyBy FeedAnswer.st fx) (State.feedOverRate s f) := by
  unfold State.feedOverRate
  repeat' first
    | with_reducible assumption
    | with_reducible apply State.tick_steady
    | with_reducible apply State.countFeed_steady
    | (with_reducible apply All.by_ (π := FeedAnswer.st); dsimp only)

theorem State.revoke_steady {fx : Fixed} (s : State) (r : RevocationReq) (hs1 : All (Steady fx) s) :
    All (Steady fx) (State.revoke s r) := by
  unfold State.revoke
  repeat' first
    | with_reducible assumption
    | with_reducible apply State.modFeed_steady
    | with_reducible apply State.countFeed_steady
    | with_reducible apply State.sendFeed_steady
    | with_reducible apply State.reportGap_steady
    | with_reducible apply State.openGap_steady
    | with_reducible refine All.branch (fun _ => ?_) (fun _ => ?_)

theorem State.revocation_steady {fx : Fixed} (s : State) (window : Nat) (hs1 : All (Steady fx) s) :
    All (Steady fx) (State.revocation s window) := by
  unfold State.revocation
  repeat' first
    | with_reducible assumption
    | with_reducible apply State.at__steady
    | with_reducible apply State.revoke_steady
    | with_reducible refine All.branch (fun _ => ?_) (fun _ => ?_)
    | (with_reducible refine All.ofFst (by assumption) ?_)
    | (with_reducible refine All.ofSnd (by assumption) ?_)
    | (with_reducible refine All.ofMid (by assumption) ?_)
    | (with_reducible refine All.ofThird (by assumption) ?_)
    | (with_reducible refine All.ofSome (by assumption) ?_)
    | (with_reducible refine All.ofSomeFst (by assumption) ?_)
    | (with_reducible refine All.ofOk (by assumption) ?_)
    | split
    | (dsimp only; split)
    | with_reducible refine All.done ?_
    | fail_if_no_progress (with_reducible refine All.upd ?_ (by rfl) (by rfl) (by rfl) (by rfl) (by rfl))

theorem execRevocation_steady {fx : Fixed} (window : Fin 64) (s : State) (hs1 : All (Steady fx) s) :
    All (SteadyAns fx) (execRevocation window s) := by
  unfold execRevocation
  repeat' first
    | with_reducible assumption
    | with_reducible apply State.revocation_steady
    | with_reducible refine All.branch (fun _ => ?_) (fun _ => ?_)
    | with_reducible refine All.next ?_

theorem State.gapScan_steady {fx : Fixed} (s : State) (window : Nat) (hs1 : All (Steady fx) s) :
    All (Steady fx) (State.gapScan s window) := by
  unfold State.gapScan
  repeat' first
    | with_reducible assumption
    | with_reducible apply State.at__steady
    | with_reducible apply State.freeGap_steady
    | with_reducible refine All.branch (fun _ => ?_) (fun _ => ?_)
    | with_reducible refine All.folded ?_ (fun _ _ _ => ?_)
    | intro _ _
    | fail_if_no_progress (with_reducible refine All.upd ?_ (by rfl) (by rfl) (by rfl) (by rfl) (by rfl))

theorem execFeedGapScan_steady {fx : Fixed} (window : Fin 128) (s : State) (hs1 : All (Steady fx) s) :
    All (SteadyAns fx) (execFeedGapScan window s) := by
  unfold execFeedGapScan
  repeat' first
    | with_reducible assumption
    | with_reducible apply State.gapScan_steady
    | with_reducible refine All.branch (fun _ => ?_) (fun _ => ?_)
    | with_reducible refine All.next ?_

theorem State.applyFeed_steady {fx : Fixed} (s : State) (f : Nat) (c : FeedChange) (hs1 : All (Steady fx) s) :
    All (Steady fx) (State.applyFeed s f c) := by
  unfold State.applyFeed
  repeat' first
    | with_reducible assumption
    | with_reducible apply State.modFeed_steady
    | with_reducible apply State.clearFeed_steady
    | with_reducible apply State.openGap_steady
    | with_reducible refine All.branch (fun _ => ?_) (fun _ => ?_)
    | (with_reducible refine All.ofFst (by assumption) ?_)
    | (with_reducible refine All.ofSnd (by assumption) ?_)
    | (with_reducible refine All.ofMid (by assumption) ?_)
    | (with_reducible refine All.ofThird (by assumption) ?_)
    | (with_reducible refine All.ofSome (by assumption) ?_)
    | (with_reducible refine All.ofSomeFst (by assumption) ?_)
    | (with_reducible refine All.ofOk (by assumption) ?_)
    | split

end Sys2Proof.Machine
end

