-- ==== Sys2Proof/Laws/SteadyPass.lean ====
section
/-!
SUPPORT. Every operation of reception, the passes, admission, hand-off, egress and replay keeps `Steady`: one lemma each.
-/

namespace Sys2Proof.Machine

/-! ### Receive -/

theorem State.countGood_steady {fx : Fixed} (s : State) (lp : Nat) (data : List Byte) (len : Nat) (hs1 : All (Steady fx) s) :
    All (Steady fx) (State.countGood s lp data len) := by
  unfold State.countGood
  repeat' first
    | with_reducible assumption
    | with_reducible apply State.stat_steady

theorem State.macControl_steady {fx : Fixed} (s : State) (lp : Nat) (data : List Byte) (len : Nat) (hs1 : All (Steady fx) s) :
    All (Steady fx) (State.macControl s lp data len) := by
  unfold State.macControl
  repeat' first
    | with_reducible assumption
    | with_reducible apply State.stat_steady
    | with_reducible apply State.pauseFrame_steady
    | with_reducible refine All.branch (fun _ => ?_) (fun _ => ?_)

theorem State.countBad_steady {fx : Fixed} (s : State) (lp : Nat) (c : FcsCheck) (hs1 : All (Steady fx) s) :
    All (Steady fx) (State.countBad s lp c) := by
  unfold State.countBad
  repeat' first
    | with_reducible assumption
    | with_reducible apply State.stat_steady
    | with_reducible refine All.branch (fun _ => ?_) (fun _ => ?_)

theorem State.acceptFrame_steady {fx : Fixed} (s : State) (lp : Fin 512) (data : List Byte) (len : Nat) (c : FcsCheck) (fcs : BitVec 32) (hs1 : All (Steady fx) s) :
    All (Steady fx) (State.acceptFrame s lp data len c fcs) := by
  unfold State.acceptFrame
  repeat' first
    | with_reducible assumption
    | with_reducible apply State.stat_steady
    | with_reducible apply ok_steady
    | with_reducible refine All.branch (fun _ => ?_) (fun _ => ?_)
    | fail_if_no_progress (with_reducible refine All.upd ?_ (by rfl) (by rfl) (by rfl) (by rfl) (by rfl))

theorem State.receive_steady {fx : Fixed} (s : State) (lp : Fin 512) (wire : List Byte) (hs1 : All (Steady fx) s) :
    All (Steady fx) (State.receive s lp wire) := by
  unfold State.receive
  repeat' first
    | with_reducible assumption
    | with_reducible apply State.stat_steady
    | with_reducible apply ok_steady
    | with_reducible apply State.countGood_steady
    | with_reducible apply State.macControl_steady
    | with_reducible apply State.countBad_steady
    | with_reducible apply State.acceptFrame_steady
    | with_reducible refine All.branch (fun _ => ?_) (fun _ => ?_)
    | intro _ _
    | fail_if_no_progress (with_reducible refine All.upd ?_ (by rfl) (by rfl) (by rfl) (by rfl) (by rfl))

theorem execFrameReceive_steady {fx : Fixed} (lp : Fin 512) (wire : List Byte) (at8 : Fin 3277) (s : State) (hs1 : All (Steady fx) s) :
    All (SteadyAns fx) (execFrameReceive lp wire at8 s) := by
  unfold execFrameReceive
  repeat' first
    | with_reducible assumption
    | with_reducible apply State.at__steady
    | with_reducible apply State.receive_steady
    | with_reducible refine All.next ?_

theorem State.releaseHead_steady {fx : Fixed} (s : State) (lp : Fin 512) (cycle : Nat) (hs1 : All (Steady fx) s) :
    All (Steady fx) (State.releaseHead s lp cycle) := by
  unfold State.releaseHead
  repeat' first
    | with_reducible assumption
    | with_reducible apply State.reach_steady
    | with_reducible refine All.branch (fun _ => ?_) (fun _ => ?_)
    | with_reducible exact All.none
    | with_reducible exact All.noneFst
    | with_reducible refine All.some ?_
    | with_reducible refine All.someFst ?_
    | (with_reducible refine All.ofFst (by assumption) ?_)
    | (with_reducible refine All.ofSnd (by assumption) ?_)
    | (with_reducible refine All.ofMid (by assumption) ?_)
    | (with_reducible refine All.ofThird (by assumption) ?_)
    | (with_reducible refine All.ofSome (by assumption) ?_)
    | (with_reducible refine All.ofSomeFst (by assumption) ?_)
    | (with_reducible refine All.ofOk (by assumption) ?_)
    | split
    | with_reducible refine All.pair ?_
    | with_reducible refine All.pairSnd ?_
    | with_reducible refine All.mid ?_
    | with_reducible refine All.third ?_
    | intro _ _
    | fail_if_no_progress (with_reducible refine All.upd ?_ (by rfl) (by rfl) (by rfl) (by rfl) (by rfl))

theorem execHeadRelease_steady {fx : Fixed} (lp : Fin 512) (cycle : Fin 1024) (s : State) (hs1 : All (Steady fx) s) :
    All (SteadyAns fx) (execHeadRelease lp cycle s) := by
  unfold execHeadRelease
  repeat' first
    | with_reducible assumption
    | with_reducible apply State.releaseHead_steady
    | with_reducible refine All.next ?_

/-! ### Pass -/

theorem State.takeTag_steady {fx : Fixed} (s : State) (p : Nat) (hs1 : All (Steady fx) s) :
    All (SteadyFst fx) (State.takeTag s p) := by
  unfold State.takeTag
  repeat' first
    | with_reducible assumption
    | with_reducible apply State.modSample_steady
    | split
    | with_reducible refine All.pair ?_

theorem State.captures_steady {fx : Fixed} (s : State) (p slot : Nat) (f : Frame) (tag : Option Nat) (hs1 : All (Steady fx) s) :
    All (Steady fx) (State.captures s p slot f tag) := by
  unfold State.captures
  repeat' first
    | with_reducible assumption
    | with_reducible apply State.modSample_steady
    | split
    | (dsimp only; split)

theorem State.sampleReason_steady {fx : Fixed} (s : State) (p slot : Nat) (f : Frame) (hs1 : All (Steady fx) s) :
    All (Steady fx) (State.sampleReason s p slot f) := by
  unfold State.sampleReason
  repeat' first
    | with_reducible assumption
    | with_reducible apply State.modSample_steady
    | with_reducible apply State.slowPath_steady
    | with_reducible refine All.branch (fun _ => ?_) (fun _ => ?_)
    | intro _ _
    | fail_if_no_progress (with_reducible refine All.upd ?_ (by rfl) (by rfl) (by rfl) (by rfl) (by rfl))

theorem State.tagEnd_steady {fx : Fixed} (s : State) (f : Frame) (outcome reason : Nat) (hs1 : All (Steady fx) s) :
    All (Steady fx) (State.tagEnd s f outcome reason) := by
  unfold State.tagEnd
  repeat' first
    | with_reducible assumption
    | with_reducible apply State.modSample_steady
    | with_reducible refine All.branch (fun _ => ?_) (fun _ => ?_)
    | with_reducible refine All.folded ?_ (fun _ _ _ => ?_)

theorem State.slotCount_steady {fx : Fixed} (s : State) (p k : Nat) (n : Nat) (hs1 : All (Steady fx) s) :
    All (Steady fx) (State.slotCount s p k n) := by
  unfold State.slotCount
  repeat' first
    | with_reducible assumption
    | with_reducible apply State.addCtr_steady
    | with_reducible refine All.branch (fun _ => ?_) (fun _ => ?_)

theorem State.beginSlot_steady {fx : Fixed} (s : State) (p slot : Nat) (hs1 : All (Steady fx) s) :
    All (SteadyOpt fx) (State.beginSlot s p slot) := by
  unfold State.beginSlot
  repeat' first
    | with_reducible assumption
    | with_reducible apply State.slotCount_steady
    | with_reducible refine All.branch (fun _ => ?_) (fun _ => ?_)
    | with_reducible exact All.none
    | with_reducible refine All.some ?_
    | fail_if_no_progress (with_reducible refine All.upd ?_ (by rfl) (by rfl) (by rfl) (by rfl) (by rfl))

theorem State.once_steady {fx : Fixed} (s : State) (f : Frame) (bit : Nat) (count : State → State) (hs1 : All (Steady fx) s) (hs2 : ∀ a0, All (Steady fx) a0 → All (Steady fx) (count a0)) :
    All (SteadyFst fx) (State.once s f bit count) := by
  exact All.branch (fun _ => All.pair hs1) fun _ => All.pair (hs2 _ hs1)

theorem State.badLookup_steady {fx : Fixed} (s : State) (q code : Nat) (hs1 : All (Steady fx) s) :
    All (Steady fx) (State.badLookup s q code) := by
  unfold State.badLookup
  repeat' first
    | with_reducible assumption
    | with_reducible apply State.tick_steady
    | with_reducible apply State.occur_steady

theorem State.intakeWith_steady {fx : Fixed} (s : State) (p : Nat) (t : Image) (f : Frame) (h : List Byte) (ceiling : Nat) (hs1 : All (Steady fx) s) :
    All (SteadyBy Intake.st fx) (State.intakeWith s p t f h ceiling) := by
  unfold State.intakeWith
  refine All.by_ (π := Intake.st) ?_
  have h0 : ∀ (c : Prop) [Decidable c], All (Steady fx) (if c then s.tick 0x11 p else s) := fun c _ =>
    All.branch (fun _ => State.tick_steady _ _ _ _ hs1) fun _ => hs1
  have h1 : ∀ (c : Prop) [Decidable c] (y : State × Frame) (bit : Nat) (g : State → State), All (SteadyFst fx) y →
      (∀ t, All (Steady fx) t → All (Steady fx) (g t)) → All (SteadyFst fx) (if c then y.1.once y.2 bit g else y) :=
    fun c _ y bit g hy hg => All.branch (fun _ => State.once_steady _ _ _ _ hy hg) fun _ => hy
  have h2 : ∀ (c : Prop) [Decidable c] (y : State × Frame) (bit : Nat) (g : State → State), All (SteadyFst fx) y →
      (∀ t, All (Steady fx) t → All (Steady fx) (g t)) → All (SteadyFst fx) (if c then y else y.1.once y.2 bit g) :=
    fun c _ y bit g hy hg => All.branch (fun _ => hy) fun _ => State.once_steady _ _ _ _ hy hg
  have h3 : ∀ (b : Nat) (t : State), All (Steady fx) t → All (Steady fx) (t.tick b p) := fun b t h => State.tick_steady _ _ _ _ h
  have h4 : ∀ (c : Prop) [Decidable c] (n : Nat) (t : State), All (Steady fx) t →
      All (Steady fx) (if c then t.stat f.lp.val n else t) := fun c _ n t h =>
    All.branch (fun _ => State.stat_steady _ _ _ _ h) fun _ => h
  refine All.fst (h2 _ _ 1 _ (h2 _ _ 0 _ (h1 _ _ 3 _ ?_ (h3 0x13)) fun t h => h4 _ _ t h) fun t h => h4 _ _ t h)
  exact All.branch (fun _ => State.once_steady _ _ _ _ (h0 _) (h3 0x12)) fun _ => All.pair (h0 _)

theorem State.intake_steady {fx : Fixed} (s : State) (p cycle : Nat) (gen : Bool) (f : Frame) (ceiling : Nat) (up : Upsets) (hs1 : All (Steady fx) s) :
    All (SteadyBy Intake.st fx) (State.intake s p cycle gen f ceiling up) := by
  unfold State.intake
  repeat' first
    | with_reducible assumption
    | with_reducible apply State.tick_steady
    | with_reducible apply State.badLookup_steady
    | with_reducible apply State.intakeWith_steady
    | with_reducible refine All.branch (fun _ => ?_) (fun _ => ?_)
    | with_reducible exact All.none
    | with_reducible exact All.noneFst
    | with_reducible refine All.some ?_
    | with_reducible refine All.someFst ?_
    | (with_reducible refine All.ofFst (by assumption) ?_)
    | (with_reducible refine All.ofSnd (by assumption) ?_)
    | (with_reducible refine All.ofMid (by assumption) ?_)
    | (with_reducible refine All.ofThird (by assumption) ?_)
    | (with_reducible refine All.ofSome (by assumption) ?_)
    | (with_reducible refine All.ofSomeFst (by assumption) ?_)
    | (with_reducible refine All.ofOk (by assumption) ?_)
    | split
    | (dsimp only; split)
    | with_reducible refine All.done ?_
    | with_reducible refine All.pair ?_
    | with_reducible refine All.pairSnd ?_
    | with_reducible refine All.mid ?_
    | with_reducible refine All.third ?_
    | (with_reducible apply All.bySt Intake.st; first | with_reducible assumption | with_reducible apply State.intakeWith_steady)
    | (with_reducible apply All.by_ (π := Intake.st); dsimp only)
    | fail_if_no_progress (with_reducible refine All.upd ?_ (by rfl) (by rfl) (by rfl) (by rfl) (by rfl))

theorem State.wrongRow_steady {fx : Fixed} (s : State) (n : Nat) (hs1 : All (Steady fx) s) :
    All (SteadySnd fx) (State.wrongRow s n) := by
  unfold State.wrongRow
  repeat' first
    | with_reducible assumption
    | with_reducible refine All.branch (fun _ => ?_) (fun _ => ?_)
    | with_reducible exact All.none
    | with_reducible exact All.noneFst
    | with_reducible refine All.some ?_
    | with_reducible refine All.someFst ?_
    | with_reducible refine All.pair ?_
    | with_reducible refine All.pairSnd ?_
    | with_reducible refine All.mid ?_
    | with_reducible refine All.third ?_
    | fail_if_no_progress (with_reducible refine All.upd ?_ (by rfl) (by rfl) (by rfl) (by rfl) (by rfl))

theorem State.stationLookup_steady {fx : Fixed} (s : State) (q cycle : Nat) (t : Image) (cw : CarriageWord) (up : Upsets) (hs1 : All (Steady fx) s) :
    All (SteadyFst fx) (State.stationLookup s q cycle t cw up) := by
  unfold State.stationLookup
  repeat' first
    | with_reducible assumption
    | with_reducible apply State.badLookup_steady
    | with_reducible apply State.wrongRow_steady
    | with_reducible refine All.branch (fun _ => ?_) (fun _ => ?_)
    | with_reducible exact All.none
    | with_reducible exact All.noneFst
    | with_reducible refine All.some ?_
    | with_reducible refine All.someFst ?_
    | (with_reducible apply All.fst; first | with_reducible assumption)
    | (with_reducible apply All.snd; first | with_reducible assumption | with_reducible apply State.wrongRow_steady)
    | (with_reducible apply All.midSnd; first | with_reducible assumption)
    | (with_reducible apply All.thirdSnd; first | with_reducible assumption)
    | (with_reducible apply All.doneSt; first | with_reducible assumption)
    | (with_reducible refine All.ofFst (by assumption) ?_)
    | (with_reducible refine All.ofSnd (by assumption) ?_)
    | (with_reducible refine All.ofMid (by assumption) ?_)
    | (with_reducible refine All.ofThird (by assumption) ?_)
    | (with_reducible refine All.ofSome (by assumption) ?_)
    | (with_reducible refine All.ofSomeFst (by assumption) ?_)
    | (with_reducible refine All.ofOk (by assumption) ?_)
    | split
    | (dsimp only; split)
    | with_reducible refine All.done ?_
    | with_reducible refine All.pair ?_
    | with_reducible refine All.pairSnd ?_
    | with_reducible refine All.mid ?_
    | with_reducible refine All.third ?_
    | fail_if_no_progress (with_reducible refine All.upd ?_ (by rfl) (by rfl) (by rfl) (by rfl) (by rfl))

theorem State.prefixLookup_steady {fx : Fixed} (s : State) (q cycle : Nat) (gen : Bool) (t : Image) (cw : CarriageWord) (up : Upsets) (hs1 : All (Steady fx) s) :
    All (SteadyFst fx) (State.prefixLookup s q cycle gen t cw up) := by
  unfold State.prefixLookup
  repeat' first
    | with_reducible assumption
    | with_reducible apply State.badLookup_steady
    | with_reducible apply State.wrongRow_steady
    | with_reducible refine All.branch (fun _ => ?_) (fun _ => ?_)
    | with_reducible exact All.none
    | with_reducible exact All.noneFst
    | with_reducible refine All.some ?_
    | with_reducible refine All.someFst ?_
    | (with_reducible apply All.fst; first | with_reducible assumption)
    | (with_reducible apply All.snd; first | with_reducible assumption | with_reducible apply State.wrongRow_steady)
    | (with_reducible apply All.midSnd; first | with_reducible assumption)
    | (with_reducible apply All.thirdSnd; first | with_reducible assumption)
    | (with_reducible refine All.ofFst (by assumption) ?_)
    | (with_reducible refine All.ofSnd (by assumption) ?_)
    | (with_reducible refine All.ofMid (by assumption) ?_)
    | (with_reducible refine All.ofThird (by assumption) ?_)
    | (with_reducible refine All.ofSome (by assumption) ?_)
    | (with_reducible refine All.ofSomeFst (by assumption) ?_)
    | (with_reducible refine All.ofOk (by assumption) ?_)
    | split
    | (dsimp only; split)
    | with_reducible refine All.done ?_
    | with_reducible refine All.pair ?_
    | with_reducible refine All.pairSnd ?_
    | with_reducible refine All.mid ?_
    | with_reducible refine All.third ?_
    | intro _ _
    | fail_if_no_progress (with_reducible refine All.upd ?_ (by rfl) (by rfl) (by rfl) (by rfl) (by rfl))

theorem State.sessionLookup_steady {fx : Fixed} (s : State) (q cycle : Nat) (t : Image) (cw : CarriageWord) (up : Upsets) (hs1 : All (Steady fx) s) :
    All (SteadyFst fx) (State.sessionLookup s q cycle t cw up) := by
  unfold State.sessionLookup
  repeat' first
    | with_reducible assumption
    | with_reducible apply State.badLookup_steady
    | with_reducible refine All.branch (fun _ => ?_) (fun _ => ?_)
    | with_reducible exact All.none
    | with_reducible exact All.noneFst
    | with_reducible refine All.some ?_
    | with_reducible refine All.someFst ?_
    | (with_reducible refine All.ofFst (by assumption) ?_)
    | (with_reducible refine All.ofSnd (by assumption) ?_)
    | (with_reducible refine All.ofMid (by assumption) ?_)
    | (with_reducible refine All.ofThird (by assumption) ?_)
    | (with_reducible refine All.ofSome (by assumption) ?_)
    | (with_reducible refine All.ofSomeFst (by assumption) ?_)
    | (with_reducible refine All.ofOk (by assumption) ?_)
    | split
    | (dsimp only; split)
    | with_reducible refine All.done ?_
    | with_reducible refine All.pair ?_
    | with_reducible refine All.pairSnd ?_
    | with_reducible refine All.mid ?_
    | with_reducible refine All.third ?_
    | fail_if_no_progress (with_reducible refine All.upd ?_ (by rfl) (by rfl) (by rfl) (by rfl) (by rfl))

theorem State.automata_steady {fx : Fixed} (s : State) (q cycle : Nat) (t : Image) (f : Frame) (cw : CarriageWord) (up : Upsets) (hs1 : All (Steady fx) s) :
    All (SteadyFst fx) (State.automata s q cycle t f cw up) := by
  unfold State.automata
  repeat' first
    | with_reducible assumption
    | with_reducible apply State.tick_steady
    | with_reducible apply State.badLookup_steady
    | with_reducible refine All.branch (fun _ => ?_) (fun _ => ?_)
    | with_reducible exact All.none
    | with_reducible exact All.noneFst
    | with_reducible refine All.some ?_
    | with_reducible refine All.someFst ?_
    | (with_reducible refine All.ofFst (by assumption) ?_)
    | (with_reducible refine All.ofSnd (by assumption) ?_)
    | (with_reducible refine All.ofMid (by assumption) ?_)
    | (with_reducible refine All.ofThird (by assumption) ?_)
    | (with_reducible refine All.ofSome (by assumption) ?_)
    | (with_reducible refine All.ofSomeFst (by assumption) ?_)
    | (with_reducible refine All.ofOk (by assumption) ?_)
    | split
    | (dsimp only; split)
    | with_reducible refine All.done ?_
    | with_reducible refine All.pair ?_
    | with_reducible refine All.pairSnd ?_
    | with_reducible refine All.mid ?_
    | with_reducible refine All.third ?_
    | fail_if_no_progress (with_reducible refine All.upd ?_ (by rfl) (by rfl) (by rfl) (by rfl) (by rfl))

theorem State.rules_steady {fx : Fixed} (s : State) (p cycle eff banks : Nat) (gen : Bool) (t : Image) (f : Frame) (cw : CarriageWord) (up : Upsets) (hs1 : All (Steady fx) s) :
    All (SteadyFst fx) (State.rules s p cycle eff banks gen t f cw up) := by
  unfold State.rules
  repeat' first
    | with_reducible assumption
    | with_reducible apply State.tick_steady
    | with_reducible apply State.badLookup_steady
    | with_reducible apply State.wrongRow_steady
    | with_reducible refine All.branch (fun _ => ?_) (fun _ => ?_)
    | with_reducible exact All.none
    | with_reducible exact All.noneFst
    | with_reducible refine All.some ?_
    | with_reducible refine All.someFst ?_
    | (with_reducible apply All.fst; first | with_reducible assumption)
    | (with_reducible apply All.snd; first | with_reducible assumption | with_reducible apply State.wrongRow_steady)
    | (with_reducible apply All.midSnd; first | with_reducible assumption)
    | (with_reducible apply All.thirdSnd; first | with_reducible assumption)
    | (with_reducible refine All.ofFst (by assumption) ?_)
    | (with_reducible refine All.ofSnd (by assumption) ?_)
    | (with_reducible refine All.ofMid (by assumption) ?_)
    | (with_reducible refine All.ofThird (by assumption) ?_)
    | (with_reducible refine All.ofSome (by assumption) ?_)
    | (with_reducible refine All.ofSomeFst (by assumption) ?_)
    | (with_reducible refine All.ofOk (by assumption) ?_)
    | split
    | (dsimp only; split)
    | with_reducible refine All.done ?_
    | with_reducible refine All.pair ?_
    | with_reducible refine All.pairSnd ?_
    | with_reducible refine All.mid ?_
    | with_reducible refine All.third ?_
    | intro _ _
    | fail_if_no_progress (with_reducible refine All.upd ?_ (by rfl) (by rfl) (by rfl) (by rfl) (by rfl))

theorem State.reads_steady {fx : Fixed} (s : State) (p cycle : Nat) (w : PassWork) (gen : Bool) (t : Image) (f : Frame) (hs1 : All (Steady fx) s) :
    All (SteadyFst fx) (State.reads s p cycle w gen t f) := by
  unfold State.reads
  have hu : All (Steady fx) (if w.up.corrected = 0 then s else s.tick 0x5D (16 + quadOf p) w.up.corrected.val) :=
    All.branch (fun _ => hs1) fun _ => State.tick_steady _ _ _ _ hs1
  dsimp only
  generalize (if w.up.corrected = 0 then s else s.tick 0x5D (16 + quadOf p) w.up.corrected.val) = u at hu
  have ha := State.stationLookup_steady u (quadOf p) cycle t f.cw w.up hu
  generalize u.stationLookup (quadOf p) cycle t f.cw w.up = a at ha
  have hb := State.prefixLookup_steady a.1 (quadOf p) cycle gen t a.2 w.up (All.fst ha)
  generalize a.1.prefixLookup (quadOf p) cycle gen t a.2 w.up = b at hb
  have hc := State.sessionLookup_steady b.1 (quadOf p) cycle t b.2 w.up (All.fst hb)
  generalize b.1.sessionLookup (quadOf p) cycle t b.2 w.up = c at hc
  have hd : All (SteadyFst fx) (if w.eff = 2 then c.1.automata (quadOf p) cycle t f c.2.1 w.up else (c.1, c.2.1)) :=
    All.branch (fun _ => State.automata_steady _ _ _ _ _ _ _ (All.fst hc)) fun _ => All.pair (All.fst hc)
  generalize (if w.eff = 2 then c.1.automata (quadOf p) cycle t f c.2.1 w.up else (c.1, c.2.1)) = d at hd
  have he : All (SteadyFst fx) (if w.eff = 0 then d else d.1.rules p cycle w.eff w.banks gen t f d.2 w.up) :=
    All.branch (fun _ => hd) fun _ => State.rules_steady _ _ _ _ _ _ _ _ _ _ (All.fst hd)
  exact All.pair (All.fst he)

theorem State.resolve_steady {fx : Fixed} (s : State) (p : Nat) (t : Image) (f : Frame) (cw : CarriageWord) (a : Nat) (session : Bool) (hs1 : All (Steady fx) s) :
    All (SteadyFst fx) (State.resolve s p t f cw a session) := by
  unfold State.resolve
  repeat' first
    | with_reducible assumption
    | with_reducible apply State.tick_steady
    | with_reducible refine All.branch (fun _ => ?_) (fun _ => ?_)
    | with_reducible refine All.pair ?_

theorem State.candidate_steady {fx : Fixed} (s : State) (q : Nat) (t : Image) (f : Frame) (h : List Byte) (hs1 : All (Steady fx) s) :
    All (Steady fx) (State.candidate s q t f h) := by
  unfold State.candidate
  repeat' first
    | with_reducible assumption
    | with_reducible apply State.offerCandidate_steady
    | with_reducible refine All.branch (fun _ => ?_) (fun _ => ?_)
    | split

theorem State.beginPass_steady {fx : Fixed} (s : State) (p slot ceiling : Nat) (img : List Byte) (f : Frame) (up : Upsets) (hs1 : All (Steady fx) s) :
    All (SteadyFst fx) (State.beginPass s p slot ceiling img f up) := by
  unfold State.beginPass
  repeat' first
    | with_reducible assumption
    | with_reducible apply State.tick_steady
    | with_reducible apply State.intake_steady
    | with_reducible apply State.candidate_steady
    | with_reducible refine All.branch (fun _ => ?_) (fun _ => ?_)
    | with_reducible exact All.none
    | with_reducible exact All.noneFst
    | with_reducible refine All.some ?_
    | with_reducible refine All.someFst ?_
    | (with_reducible apply All.fst; first | with_reducible assumption)
    | (with_reducible apply All.snd; first | with_reducible assumption)
    | (with_reducible apply All.midSnd; first | with_reducible assumption)
    | (with_reducible apply All.thirdSnd; first | with_reducible assumption)
    | (with_reducible apply All.doneSt; first | with_reducible assumption)
    | (with_reducible refine All.ofFst (by assumption) ?_)
    | (with_reducible refine All.ofSnd (by assumption) ?_)
    | (with_reducible refine All.ofMid (by assumption) ?_)
    | (with_reducible refine All.ofThird (by assumption) ?_)
    | (with_reducible refine All.ofSome (by assumption) ?_)
    | (with_reducible refine All.ofSomeFst (by assumption) ?_)
    | (with_reducible refine All.ofOk (by assumption) ?_)
    | split
    | (dsimp only; split)
    | with_reducible refine All.done ?_
    | with_reducible refine All.pair ?_
    | with_reducible refine All.pairSnd ?_
    | with_reducible refine All.mid ?_
    | with_reducible refine All.third ?_
    | (with_reducible apply All.bySt Intake.st; first | with_reducible assumption | with_reducible apply State.intake_steady)
    | fail_if_no_progress (with_reducible refine All.upd ?_ (by rfl) (by rfl) (by rfl) (by rfl) (by rfl))

theorem State.finishPass_steady {fx : Fixed} (s : State) (p slot : Nat) (f : Frame) (w : PassWork) (hs1 : All (Steady fx) s) :
    All (SteadyFst fx) (State.finishPass s p slot f w) := by
  unfold State.finishPass
  repeat' first
    | with_reducible assumption
    | with_reducible apply State.takeFree_steady
    | with_reducible apply State.reads_steady
    | with_reducible apply State.resolve_steady
    | with_reducible refine All.branch (fun _ => ?_) (fun _ => ?_)
    | with_reducible exact All.none
    | with_reducible exact All.noneFst
    | with_reducible refine All.some ?_
    | with_reducible refine All.someFst ?_
    | (with_reducible apply All.fst; first | with_reducible assumption | with_reducible apply State.reads_steady | with_reducible apply State.resolve_steady)
    | (with_reducible apply All.snd; first | with_reducible assumption | with_reducible apply State.takeFree_steady)
    | (with_reducible apply All.midSnd; first | with_reducible assumption)
    | (with_reducible apply All.thirdSnd; first | with_reducible assumption)
    | (with_reducible refine All.ofFst (by assumption) ?_)
    | (with_reducible refine All.ofSnd (by assumption) ?_)
    | (with_reducible refine All.ofMid (by assumption) ?_)
    | (with_reducible refine All.ofThird (by assumption) ?_)
    | (with_reducible refine All.ofSome (by assumption) ?_)
    | (with_reducible refine All.ofSomeFst (by assumption) ?_)
    | (with_reducible refine All.ofOk (by assumption) ?_)
    | split
    | (dsimp only; split)
    | with_reducible refine All.pair ?_
    | with_reducible refine All.pairSnd ?_
    | with_reducible refine All.mid ?_
    | with_reducible refine All.third ?_
    | fail_if_no_progress (with_reducible refine All.upd ?_ (by rfl) (by rfl) (by rfl) (by rfl) (by rfl))

theorem State.bodyDrop_steady {fx : Fixed} (s : State) (f : Frame) (hs1 : All (Steady fx) s) :
    All (Steady fx) (State.bodyDrop s f) := by
  unfold State.bodyDrop
  repeat' first
    | with_reducible assumption
    | with_reducible apply State.reportDropped_steady
    | with_reducible apply State.freeFrameCells_steady
    | (dsimp only; split)
    | intro _ _
    | fail_if_no_progress (with_reducible refine All.upd ?_ (by rfl) (by rfl) (by rfl) (by rfl) (by rfl))

theorem State.enterSlot_steady {fx : Fixed} (s : State) (p slot kind ceiling : Nat) (img : List Byte) (f : Frame) (up : Upsets) (hs1 : All (Steady fx) s) :
    All (Steady fx) (State.enterSlot s p slot kind ceiling img f up) := by
  unfold State.enterSlot
  repeat' first
    | with_reducible assumption
    | with_reducible apply State.tick_steady
    | with_reducible apply State.occur_steady
    | with_reducible apply State.takeTag_steady
    | with_reducible apply State.captures_steady
    | with_reducible apply State.slotCount_steady
    | with_reducible apply State.beginPass_steady
    | with_reducible apply State.bodyDrop_steady
    | with_reducible refine All.branch (fun _ => ?_) (fun _ => ?_)
    | (with_reducible apply All.fst; first | with_reducible assumption | with_reducible apply State.takeTag_steady | with_reducible apply State.beginPass_steady)
    | (with_reducible apply All.snd; first | with_reducible assumption)
    | (with_reducible apply All.midSnd; first | with_reducible assumption)
    | (with_reducible apply All.thirdSnd; first | with_reducible assumption)
    | with_reducible refine All.pair ?_
    | with_reducible refine All.pairSnd ?_
    | with_reducible refine All.mid ?_
    | with_reducible refine All.third ?_
    | fail_if_no_progress (with_reducible refine All.upd ?_ (by rfl) (by rfl) (by rfl) (by rfl) (by rfl))

theorem State.requeue_steady {fx : Fixed} (s : State) (p : Nat) (f : Frame) (hs1 : All (Steady fx) s) :
    All (Steady fx) (State.requeue s p f) := by
  unfold State.requeue
  repeat' first
    | with_reducible assumption
    | with_reducible apply State.tick_steady
    | with_reducible apply State.tagEnd_steady
    | with_reducible apply State.slotCount_steady
    | with_reducible apply State.bodyDrop_steady
    | with_reducible refine All.branch (fun _ => ?_) (fun _ => ?_)
    | intro _ _
    | fail_if_no_progress (with_reducible refine All.upd ?_ (by rfl) (by rfl) (by rfl) (by rfl) (by rfl))

theorem State.finishPasses_steady {fx : Fixed} (s : State) (p cycle : Nat) (hs1 : All (Steady fx) s) :
    All (Steady fx) (State.finishPasses s p cycle) := by
  unfold State.finishPasses
  repeat' first
    | with_reducible assumption
    | with_reducible apply State.sampleReason_steady
    | with_reducible apply State.finishPass_steady
    | with_reducible refine All.branch (fun _ => ?_) (fun _ => ?_)
    | with_reducible exact All.none
    | with_reducible exact All.noneFst
    | with_reducible refine All.some ?_
    | with_reducible refine All.someFst ?_
    | with_reducible refine All.folded ?_ (fun _ _ _ => ?_)
    | (with_reducible apply All.fst; first | with_reducible assumption | with_reducible apply State.finishPass_steady | with_reducible refine All.folded ?_ (fun _ _ _ => ?_))
    | (with_reducible apply All.snd; first | with_reducible assumption | with_reducible refine All.folded ?_ (fun _ _ _ => ?_))
    | (with_reducible apply All.midSnd; first | with_reducible assumption | with_reducible refine All.folded ?_ (fun _ _ _ => ?_))
    | (with_reducible apply All.thirdSnd; first | with_reducible assumption | with_reducible refine All.folded ?_ (fun _ _ _ => ?_))
    | (with_reducible refine All.ofFst (by assumption) ?_)
    | (with_reducible refine All.ofSnd (by assumption) ?_)
    | (with_reducible refine All.ofMid (by assumption) ?_)
    | (with_reducible refine All.ofThird (by assumption) ?_)
    | (with_reducible refine All.ofSome (by assumption) ?_)
    | (with_reducible refine All.ofSomeFst (by assumption) ?_)
    | (with_reducible refine All.ofOk (by assumption) ?_)
    | split
    | (dsimp only; split)
    | with_reducible refine All.pair ?_
    | with_reducible refine All.pairSnd ?_
    | with_reducible refine All.mid ?_
    | with_reducible refine All.third ?_
    | intro _ _
    | fail_if_no_progress (with_reducible refine All.upd ?_ (by rfl) (by rfl) (by rfl) (by rfl) (by rfl))

theorem State.settlePasses_steady {fx : Fixed} (s : State) (p cycle : Nat) (hs1 : All (Steady fx) s) :
    All (Steady fx) (State.settlePasses s p cycle) := by
  unfold State.settlePasses
  repeat' first
    | with_reducible assumption
    | with_reducible apply State.requeue_steady
    | with_reducible apply State.finishPasses_steady
    | with_reducible refine All.branch (fun _ => ?_) (fun _ => ?_)
    | with_reducible refine All.folded ?_ (fun _ _ _ => ?_)
    | (with_reducible apply All.fst; first | with_reducible assumption | with_reducible refine All.folded ?_ (fun _ _ _ => ?_))
    | (with_reducible apply All.snd; first | with_reducible assumption | with_reducible refine All.folded ?_ (fun _ _ _ => ?_))
    | (with_reducible apply All.midSnd; first | with_reducible assumption | with_reducible refine All.folded ?_ (fun _ _ _ => ?_))
    | (with_reducible apply All.thirdSnd; first | with_reducible assumption | with_reducible refine All.folded ?_ (fun _ _ _ => ?_))
    | intro _ _
    | fail_if_no_progress (with_reducible refine All.upd ?_ (by rfl) (by rfl) (by rfl) (by rfl) (by rfl))

theorem State.idleSlot_steady {fx : Fixed} (s : State) (p : Nat) (held : Bool) (hs1 : All (Steady fx) s) :
    All (Steady fx) (State.idleSlot s p held) := by
  unfold State.idleSlot
  repeat' first
    | with_reducible assumption
    | with_reducible apply State.slotCount_steady

theorem State.portSlot_steady {fx : Fixed} (s : State) (p slot lp : Nat) (old : Bool) (img : List Byte) (up : Upsets) (hs1 : All (Steady fx) s) :
    All (Steady fx) (State.portSlot s p slot lp old img up) := by
  unfold State.portSlot
  repeat' first
    | with_reducible assumption
    | with_reducible apply State.occur_steady
    | with_reducible apply State.enterSlot_steady
    | with_reducible apply State.idleSlot_steady
    | with_reducible refine All.branch (fun _ => ?_) (fun _ => ?_)
    | (dsimp only; split)
    | intro _ _
    | fail_if_no_progress (with_reducible refine All.upd ?_ (by rfl) (by rfl) (by rfl) (by rfl) (by rfl))

theorem State.passSwitch_steady {fx : Fixed} (s : State) (lp slot : Nat) (hs1 : All (Steady fx) s) :
    All (Steady fx) (State.passSwitch s lp slot) := by
  unfold State.passSwitch
  repeat' first
    | with_reducible assumption
    | with_reducible apply State.endSwitch_steady
    | with_reducible refine All.branch (fun _ => ?_) (fun _ => ?_)
    | with_reducible exact All.none
    | with_reducible exact All.noneFst
    | with_reducible refine All.some ?_
    | with_reducible refine All.someFst ?_
    | (with_reducible refine All.ofFst (by assumption) ?_)
    | (with_reducible refine All.ofSnd (by assumption) ?_)
    | (with_reducible refine All.ofMid (by assumption) ?_)
    | (with_reducible refine All.ofThird (by assumption) ?_)
    | (with_reducible refine All.ofSome (by assumption) ?_)
    | (with_reducible refine All.ofSomeFst (by assumption) ?_)
    | (with_reducible refine All.ofOk (by assumption) ?_)
    | split
    | (dsimp only; split)
    | intro _ _
    | fail_if_no_progress (with_reducible refine All.upd ?_ (by rfl) (by rfl) (by rfl) (by rfl) (by rfl))

theorem State.headSlot_steady {fx : Fixed} (s : State) (p slot : Nat) (up : Upsets) (hs1 : All (Steady fx) s) :
    All (Steady fx) (State.headSlot s p slot up) := by
  unfold State.headSlot
  repeat' first
    | with_reducible assumption
    | with_reducible apply State.at__steady
    | with_reducible apply State.beginSlot_steady
    | with_reducible apply State.settlePasses_steady
    | with_reducible apply State.idleSlot_steady
    | with_reducible apply State.portSlot_steady
    | with_reducible apply State.passSwitch_steady
    | with_reducible refine All.branch (fun _ => ?_) (fun _ => ?_)
    | with_reducible exact All.none
    | with_reducible exact All.noneFst
    | with_reducible refine All.some ?_
    | with_reducible refine All.someFst ?_
    | (with_reducible apply All.fst; first | with_reducible assumption)
    | (with_reducible apply All.snd; first | with_reducible assumption)
    | (with_reducible apply All.midSnd; first | with_reducible assumption)
    | (with_reducible apply All.thirdSnd; first | with_reducible assumption)
    | (with_reducible refine All.ofFst (by assumption) ?_)
    | (with_reducible refine All.ofSnd (by assumption) ?_)
    | (with_reducible refine All.ofMid (by assumption) ?_)
    | (with_reducible refine All.ofThird (by assumption) ?_)
    | (with_reducible refine All.ofSome (by assumption) ?_)
    | (with_reducible refine All.ofSomeFst (by assumption) ?_)
    | (with_reducible refine All.ofOk (by assumption) ?_)
    | split
    | (dsimp only; split)
    | with_reducible refine All.pair ?_
    | with_reducible refine All.pairSnd ?_
    | with_reducible refine All.mid ?_
    | with_reducible refine All.third ?_
    | fail_if_no_progress (with_reducible refine All.upd ?_ (by rfl) (by rfl) (by rfl) (by rfl) (by rfl))

theorem execHeadSlot_steady {fx : Fixed} (pipe : Fin 16) (slot : Fin 2048) (up : Upsets) (s : State) (hs1 : All (Steady fx) s) :
    All (SteadyAns fx) (execHeadSlot pipe slot up s) := by
  unfold execHeadSlot
  repeat' first
    | with_reducible assumption
    | with_reducible apply State.headSlot_steady
    | with_reducible refine All.next ?_

theorem State.ownSlot_steady {fx : Fixed} (s : State) (p slot : Nat) (types : List Nat) (hs1 : All (Steady fx) s) :
    All (SteadyOptFst fx) (State.ownSlot s p slot types) := by
  unfold State.ownSlot
  split
  · exact All.noneFst
  · refine All.branch (fun _ => ?_) fun _ => All.noneFst
    intro t b e
    rw [Option.map_eq_some_iff] at e
    obtain ⟨u, hu, e⟩ := e
    rw [← (Prod.mk.inj e).1]
    exact State.settlePasses_steady _ _ _ (All.ofSome hu (State.beginSlot_steady _ _ _ hs1))

theorem State.recircSlot_steady {fx : Fixed} (s : State) (p slot : Nat) (up : Upsets) (hs1 : All (Steady fx) s) :
    All (Steady fx) (State.recircSlot s p slot up) := by
  unfold State.recircSlot
  repeat' first
    | with_reducible assumption
    | with_reducible apply State.at__steady
    | with_reducible apply State.enterSlot_steady
    | with_reducible apply State.idleSlot_steady
    | with_reducible apply State.ownSlot_steady
    | (with_reducible refine All.ofSomeFst (by assumption) ?_)
    | split
    | (dsimp only; split)
    | intro _ _
    | fail_if_no_progress (with_reducible refine All.upd ?_ (by rfl) (by rfl) (by rfl) (by rfl) (by rfl))

theorem execRecircPass_steady {fx : Fixed} (pipe : Fin 16) (slot : Fin 2048) (up : Upsets) (s : State) (hs1 : All (Steady fx) s) :
    All (SteadyAns fx) (execRecircPass pipe slot up s) := by
  unfold execRecircPass
  repeat' first
    | with_reducible assumption
    | with_reducible apply State.recircSlot_steady
    | with_reducible refine All.next ?_

theorem State.injectSlot_steady {fx : Fixed} (s : State) (p slot : Nat) (up : Upsets) (hs1 : All (Steady fx) s) :
    All (Steady fx) (State.injectSlot s p slot up) := by
  unfold State.injectSlot
  repeat' first
    | with_reducible assumption
    | with_reducible apply State.at__steady
    | with_reducible apply State.enterSlot_steady
    | with_reducible apply State.idleSlot_steady
    | with_reducible apply State.ownSlot_steady
    | (with_reducible refine All.ofSomeFst (by assumption) ?_)
    | split
    | (dsimp only; split)
    | fail_if_no_progress (with_reducible refine All.upd ?_ (by rfl) (by rfl) (by rfl) (by rfl) (by rfl))

theorem execInjectSlot_steady {fx : Fixed} (pipe : Fin 16) (slot : Fin 2048) (up : Upsets) (s : State) (hs1 : All (Steady fx) s) :
    All (SteadyAns fx) (execInjectSlot pipe slot up s) := by
  unfold execInjectSlot
  repeat' first
    | with_reducible assumption
    | with_reducible apply State.injectSlot_steady
    | with_reducible refine All.next ?_

/-! ### Admission -/

theorem State.profileTest_steady {fx : Fixed} (s : State) (f : Frame) (q : Nat) (hs1 : All (Steady fx) s) :
    All (SteadyFst fx) (State.profileTest s f q) := by
  unfold State.profileTest
  repeat' first
    | with_reducible assumption
    | with_reducible apply State.modQueue_steady
    | with_reducible refine All.branch (fun _ => ?_) (fun _ => ?_)
    | split
    | with_reducible refine All.pair ?_
    | intro _ _
    | fail_if_no_progress (with_reducible refine All.upd ?_ (by rfl) (by rfl) (by rfl) (by rfl) (by rfl))

theorem State.chargePool_steady {fx : Fixed} (s : State) (f : Frame) (q n : Nat) (group : Option Nat) (hs1 : All (Steady fx) s) :
    All (SteadyFst fx) (State.chargePool s f q n group) := by
  unfold State.chargePool
  repeat' first
    | with_reducible assumption
    | with_reducible apply State.modGroup_steady
    | split
    | with_reducible refine All.pair ?_
    | intro _ _
    | fail_if_no_progress (with_reducible refine All.upd ?_ (by rfl) (by rfl) (by rfl) (by rfl) (by rfl))

theorem State.congest_steady {fx : Fixed} (s : State) (g : Nat) (hs1 : All (Steady fx) s) :
    All (Steady fx) (State.congest s g) := by
  unfold State.congest
  repeat' first
    | with_reducible assumption
    | with_reducible apply State.modGroup_steady
    | with_reducible apply State.pauseCall_steady
    | with_reducible refine All.branch (fun _ => ?_) (fun _ => ?_)

theorem State.xoff_steady {fx : Fixed} (s : State) (g : Nat) (hs1 : All (Steady fx) s) :
    All (Steady fx) (State.xoff s g) := by
  unfold State.xoff
  repeat' first
    | with_reducible assumption
    | with_reducible apply State.congest_steady
    | with_reducible refine All.branch (fun _ => ?_) (fun _ => ?_)

theorem State.chargeRequester_steady {fx : Fixed} (s : State) (f : Frame) (n : Nat) (hs1 : All (Steady fx) s) :
    All (Steady fx) (State.chargeRequester s f n) := by
  unfold State.chargeRequester
  repeat' first
    | with_reducible assumption
    | with_reducible apply State.charge_steady
    | with_reducible refine All.branch (fun _ => ?_) (fun _ => ?_)

theorem Deciding.grant_steady {fx : Fixed} (d : Deciding) (f : Frame) (q n : Nat) (charges : Charges) (ecn : Bool) (hs1 : All (SteadyBy Deciding.st fx) d) :
    All (SteadyBy Deciding.st fx) (Deciding.grant d f q n charges ecn) := by
  unfold Deciding.grant
  repeat' first
    | with_reducible assumption
    | with_reducible apply State.modQueue_steady
    | with_reducible apply State.chargeRequester_steady
    | with_reducible refine All.branch (fun _ => ?_) (fun _ => ?_)
    | with_reducible exact All.none
    | with_reducible exact All.noneFst
    | with_reducible refine All.some ?_
    | with_reducible refine All.someFst ?_
    | with_reducible refine All.pair ?_
    | with_reducible refine All.pairSnd ?_
    | with_reducible refine All.mid ?_
    | with_reducible refine All.third ?_
    | (with_reducible apply All.bySt Deciding.st; first | with_reducible assumption)
    | (with_reducible apply All.by_ (π := Deciding.st); dsimp only)
    | intro _ _
    | fail_if_no_progress (with_reducible refine All.upd ?_ (by rfl) (by rfl) (by rfl) (by rfl) (by rfl))

theorem Deciding.refuse_steady {fx : Fixed} (d : Deciding) (q reason : Nat) (hs1 : All (SteadyBy Deciding.st fx) d) :
    All (SteadyBy Deciding.st fx) (Deciding.refuse d q reason) := by
  unfold Deciding.refuse
  repeat' first
    | with_reducible assumption
    | with_reducible apply State.modQueue_steady
    | (with_reducible apply All.bySt Deciding.st; first | with_reducible assumption)
    | (with_reducible apply All.by_ (π := Deciding.st); dsimp only)

theorem Deciding.lossy_steady {fx : Fixed} (d : Deciding) (f : Frame) (q n : Nat) (p : Profile) (hs1 : All (SteadyBy Deciding.st fx) d) :
    All (SteadyBy Deciding.st fx) (Deciding.lossy d f q n p) := by
  unfold Deciding.lossy
  refine All.branch (fun _ => Deciding.refuse_steady _ _ _ hs1) fun _ => ?_
  split
  · exact Deciding.refuse_steady _ _ _ hs1
  · refine Deciding.grant_steady _ _ _ _ _ _ (All.by_ ?_)
    dsimp only
    split
    · exact hs1
    · exact All.fst (State.chargePool_steady _ _ _ _ _ hs1)

theorem Deciding.lossless_steady {fx : Fixed} (d : Deciding) (f : Frame) (q n g : Nat) (p : Profile) (hs1 : All (SteadyBy Deciding.st fx) d) :
    All (SteadyBy Deciding.st fx) (Deciding.lossless d f q n g p) := by
  unfold Deciding.lossless
  have h0 : All (Steady fx) ((d.st.groupRelief g).xoff g) := State.xoff_steady _ _ (State.groupRelief_steady _ _ hs1)
  dsimp only
  generalize (d.st.groupRelief g).xoff g = t at h0
  have hs : All (Steady fx) (if t.freeOf (fld (t.qcfg q) 0 2) = 0 then t.congest g else t) :=
    All.branch (fun _ => State.congest_steady _ _ h0) fun _ => h0
  generalize (if t.freeOf (fld (t.qcfg q) 0 2) = 0 then t.congest g else t) = s at hs
  refine All.branch (fun _ => All.by_ (State.groupRelief_steady _ _ ?_)) fun _ =>
    Deciding.grant_steady _ _ _ _ _ _ (All.by_ ?_)
  · exact All.bySt Deciding.st (Deciding.refuse_steady _ _ _ (All.by_ (State.modEgr_steady _ _ _ hs)))
  · dsimp only
    split
    · exact hs
    · split
      · exact All.upd (State.modGroup_steady _ _ _ hs) rfl rfl rfl rfl rfl
      · exact State.xoff_steady _ _ (All.fst (State.chargePool_steady _ _ _ _ _ hs))

theorem Deciding.target_steady {fx : Fixed} (f : Frame) (n : Nat) (d : Deciding) (q : Nat) (hs1 : All (SteadyBy Deciding.st fx) d) :
    All (SteadyBy Deciding.st fx) (Deciding.target f n d q) := by
  unfold Deciding.target
  repeat' first
    | with_reducible assumption
    | with_reducible apply State.charge_steady
    | with_reducible apply State.profileTest_steady
    | with_reducible apply Deciding.refuse_steady
    | with_reducible apply Deciding.lossy_steady
    | with_reducible apply Deciding.lossless_steady
    | (with_reducible apply All.fst; first | with_reducible assumption | with_reducible apply State.profileTest_steady)
    | split
    | (with_reducible apply All.bySt Deciding.st; first | with_reducible assumption | with_reducible apply Deciding.refuse_steady | with_reducible apply Deciding.lossy_steady | with_reducible apply Deciding.lossless_steady)
    | (with_reducible apply All.by_ (π := Deciding.st); dsimp only)

theorem State.lateChecks_steady {fx : Fixed} (s : State) (p : Nat) (f : Frame) (hs1 : All (Steady fx) s) :
    All (SteadyFst fx) (State.lateChecks s p f) := by
  unfold State.lateChecks
  repeat' first
    | with_reducible assumption
    | with_reducible apply State.stat_steady
    | with_reducible apply State.tick_steady
    | with_reducible refine All.branch (fun _ => ?_) (fun _ => ?_)
    | with_reducible refine All.pair ?_

theorem State.dropCopy_steady {fx : Fixed} (s : State) (f : Stored) (q reason : Nat) (hs1 : All (Steady fx) s) :
    All (Steady fx) (State.dropCopy s f q reason) := by
  unfold State.dropCopy
  repeat' first
    | with_reducible assumption
    | with_reducible apply State.dropCopyRecord_steady
    | with_reducible apply State.copyLost_steady
    | with_reducible apply State.setEntries_steady

theorem State.settleCopy_steady {fx : Fixed} (s : State) (f : Stored) (q : Nat) (hs1 : All (Steady fx) s) :
    All (Steady fx) (State.settleCopy s f q) := by
  unfold State.settleCopy
  repeat' first
    | with_reducible assumption
    | with_reducible apply State.modEgr_steady
    | with_reducible apply State.stat_steady
    | with_reducible apply State.dropCopy_steady
    | with_reducible refine All.branch (fun _ => ?_) (fun _ => ?_)

theorem State.settleCopies_steady {fx : Fixed} (s : State) (id : Nat) (hs1 : All (Steady fx) s) :
    All (Steady fx) (State.settleCopies s id) := by
  unfold State.settleCopies
  repeat' first
    | with_reducible assumption
    | with_reducible apply State.settleCopy_steady
    | with_reducible refine All.branch (fun _ => ?_) (fun _ => ?_)
    | with_reducible exact All.none
    | with_reducible exact All.noneFst
    | with_reducible refine All.some ?_
    | with_reducible refine All.someFst ?_
    | with_reducible refine All.folded ?_ (fun _ _ _ => ?_)
    | (with_reducible refine All.ofFst (by assumption) ?_)
    | (with_reducible refine All.ofSnd (by assumption) ?_)
    | (with_reducible refine All.ofMid (by assumption) ?_)
    | (with_reducible refine All.ofThird (by assumption) ?_)
    | (with_reducible refine All.ofSome (by assumption) ?_)
    | (with_reducible refine All.ofSomeFst (by assumption) ?_)
    | (with_reducible refine All.ofOk (by assumption) ?_)
    | split

theorem State.settlePort_steady {fx : Fixed} (s : State) (lp : Nat) (hs1 : All (Steady fx) s) :
    All (Steady fx) (State.settlePort s lp) := by
  unfold State.settlePort
  repeat' first
    | with_reducible assumption
    | with_reducible apply State.settleCopy_steady
    | with_reducible refine All.branch (fun _ => ?_) (fun _ => ?_)
    | with_reducible exact All.none
    | with_reducible exact All.noneFst
    | with_reducible refine All.some ?_
    | with_reducible refine All.someFst ?_
    | with_reducible refine All.folded ?_ (fun _ _ _ => ?_)
    | (with_reducible refine All.ofFst (by assumption) ?_)
    | (with_reducible refine All.ofSnd (by assumption) ?_)
    | (with_reducible refine All.ofMid (by assumption) ?_)
    | (with_reducible refine All.ofThird (by assumption) ?_)
    | (with_reducible refine All.ofSome (by assumption) ?_)
    | (with_reducible refine All.ofSomeFst (by assumption) ?_)
    | (with_reducible refine All.ofOk (by assumption) ?_)
    | split

theorem State.wholeFrame_steady {fx : Fixed} (s : State) (f : Frame) (hs1 : All (Steady fx) s) :
    All (Steady fx) (State.wholeFrame s f) := by
  unfold State.wholeFrame
  repeat' first
    | with_reducible assumption
    | with_reducible apply State.modStored_steady
    | with_reducible apply State.lateChecks_steady
    | with_reducible apply State.settleCopies_steady
    | with_reducible refine All.branch (fun _ => ?_) (fun _ => ?_)
    | with_reducible exact All.none
    | with_reducible exact All.noneFst
    | with_reducible refine All.some ?_
    | with_reducible refine All.someFst ?_
    | (with_reducible apply All.fst; first | with_reducible assumption | with_reducible apply State.lateChecks_steady)
    | (with_reducible refine All.ofFst (by assumption) ?_)
    | (with_reducible refine All.ofSnd (by assumption) ?_)
    | (with_reducible refine All.ofMid (by assumption) ?_)
    | (with_reducible refine All.ofThird (by assumption) ?_)
    | (with_reducible refine All.ofSome (by assumption) ?_)
    | (with_reducible refine All.ofSomeFst (by assumption) ?_)
    | (with_reducible refine All.ofOk (by assumption) ?_)
    | split

theorem State.askRevoke_steady {fx : Fixed} (s : State) (f : Frame) (hs1 : All (Steady fx) s) :
    All (Steady fx) (State.askRevoke s f) := by
  unfold State.askRevoke
  repeat' first
    | with_reducible assumption
    | split
    | fail_if_no_progress (with_reducible refine All.upd ?_ (by rfl) (by rfl) (by rfl) (by rfl) (by rfl))

theorem State.refusals_steady {fx : Fixed} (s : State) (f : Frame) (bad : List (Nat × Nat)) (part : Bool) (hs1 : All (Steady fx) s) :
    All (Steady fx) (State.refusals s f bad part) := by
  unfold State.refusals
  repeat' first
    | with_reducible assumption
    | with_reducible apply State.modEgr_steady
    | with_reducible apply State.dropRecord_steady
    | with_reducible refine All.branch (fun _ => ?_) (fun _ => ?_)
    | with_reducible refine All.folded ?_ (fun _ _ _ => ?_)

theorem State.adopt_steady {fx : Fixed} (s : State) (f : Frame) (copies : Nat) (hs1 : All (Steady fx) s) :
    All (Steady fx) (State.adopt s f copies) := by
  unfold State.adopt
  repeat' first
    | with_reducible assumption
    | with_reducible apply State.outOfReserve_steady
    | with_reducible apply State.endHold_steady
    | with_reducible refine All.branch (fun _ => ?_) (fun _ => ?_)
    | fail_if_no_progress (with_reducible refine All.upd ?_ (by rfl) (by rfl) (by rfl) (by rfl) (by rfl))

theorem State.admitFrame_steady {fx : Fixed} (s : State) (pipe cycle : Nat) (f : Frame) (hs1 : All (Steady fx) s) :
    All (Steady fx) (State.admitFrame s pipe cycle f) := by
  unfold State.admitFrame
  refine All.branch (fun _ => ?_) fun _ => ?_
  · exact State.askRevoke_steady _ _ (State.tagEnd_steady _ _ _ _ (State.dropRecord_steady _ _ _ _ _ _ _ _ _ _ _ _
      (State.tick_steady _ _ _ _ hs1)))
  · have h : All (SteadyBy Deciding.st fx) ((s.targets f).foldl (Deciding.target f f.cells.length)
        { st := s, leaves := (cycle + 16) * 800, charged := none, bad := [] }) :=
      All.folded hs1 fun _ _ h => Deciding.target_steady _ _ _ _ h
    dsimp only
    generalize (s.targets f).foldl (Deciding.target f f.cells.length)
      { st := s, leaves := (cycle + 16) * 800, charged := none, bad := [] } = d at h
    have hr := State.refusals_steady d.st f d.bad d.charged.isSome h
    split
    · refine All.folded ?_ fun _ _ h => State.checkBlock_steady _ _ h
      exact All.upd (State.adopt_steady _ _ _ (State.tagEnd_steady _ _ _ _ hr)) rfl rfl rfl rfl rfl
    · exact State.askRevoke_steady _ _ (State.tagEnd_steady _ _ _ _ hr)

theorem State.decided_steady {fx : Fixed} (s : State) (f : Frame) (hs1 : All (Steady fx) s) :
    All (Steady fx) (State.decided s f) := by
  unfold State.decided
  repeat' first
    | with_reducible assumption
    | with_reducible apply State.forgetFrame_steady
    | with_reducible apply State.bodyDrop_steady
    | with_reducible apply State.wholeFrame_steady
    | with_reducible refine All.branch (fun _ => ?_) (fun _ => ?_)

theorem State.grantCycle_steady {fx : Fixed} (s : State) (hs : List StageHead) (hs1 : All (Steady fx) s) :
    All (Steady fx) (State.grantCycle s hs) := by
  unfold State.grantCycle
  repeat' first
    | with_reducible assumption
    | with_reducible apply State.admitFrame_steady
    | with_reducible apply State.decided_steady
    | with_reducible refine All.branch (fun _ => ?_) (fun _ => ?_)
    | with_reducible refine All.folded ?_ (fun _ _ _ => ?_)

/-! ### Handoff -/

theorem State.reserveCell_steady {fx : Fixed} (s : State) (bank : Nat) (hs1 : All (Steady fx) s) :
    All (SteadySnd fx) (State.reserveCell s bank) := by
  unfold State.reserveCell
  repeat' first
    | with_reducible assumption
    | with_reducible apply State.tick_steady
    | with_reducible apply State.takeCell_steady
    | with_reducible apply State.intoReserve_steady
    | with_reducible refine All.branch (fun _ => ?_) (fun _ => ?_)
    | with_reducible exact All.none
    | with_reducible exact All.noneFst
    | with_reducible refine All.some ?_
    | with_reducible refine All.someFst ?_
    | (with_reducible refine All.ofFst (by assumption) ?_)
    | (with_reducible refine All.ofSnd (by assumption) ?_)
    | (with_reducible refine All.ofMid (by assumption) ?_)
    | (with_reducible refine All.ofThird (by assumption) ?_)
    | (with_reducible refine All.ofSome (by assumption) ?_)
    | (with_reducible refine All.ofSomeFst (by assumption) ?_)
    | (with_reducible refine All.ofOk (by assumption) ?_)
    | split
    | with_reducible refine All.pair ?_
    | with_reducible refine All.pairSnd ?_

theorem State.modBody_steady {fx : Fixed} (s : State) (id : Nat) (g : Frame → Frame) (hs1 : All (Steady fx) s) :
    All (Steady fx) (State.modBody s id g) := by
  unfold State.modBody
  repeat' first
    | with_reducible assumption
    | intro _ _
    | fail_if_no_progress (with_reducible refine All.upd ?_ (by rfl) (by rfl) (by rfl) (by rfl) (by rfl))

theorem State.bodyOver_steady {fx : Fixed} (s : State) (id : Nat) (hs1 : All (Steady fx) s) :
    All (Steady fx) (State.bodyOver s id) := by
  unfold State.bodyOver
  repeat' first
    | with_reducible assumption
    | with_reducible refine All.branch (fun _ => ?_) (fun _ => ?_)
    | intro _ _
    | fail_if_no_progress (with_reducible refine All.upd ?_ (by rfl) (by rfl) (by rfl) (by rfl) (by rfl))

theorem State.storeHead_steady {fx : Fixed} (s : State) (stream cycle : Nat) (f : Frame) (hs1 : All (Steady fx) s) :
    All (SteadyFst fx) (State.storeHead s stream cycle f) := by
  unfold State.storeHead
  repeat' first
    | with_reducible assumption
    | with_reducible apply State.putCell_steady
    | with_reducible apply State.reserveCell_steady
    | with_reducible apply State.modBody_steady
    | with_reducible apply State.bodyOver_steady
    | with_reducible refine All.branch (fun _ => ?_) (fun _ => ?_)
    | with_reducible exact All.none
    | with_reducible exact All.noneFst
    | with_reducible refine All.some ?_
    | with_reducible refine All.someFst ?_
    | (with_reducible apply All.snd; first | with_reducible assumption | with_reducible apply State.reserveCell_steady)
    | (with_reducible refine All.ofFst (by assumption) ?_)
    | (with_reducible refine All.ofSnd (by assumption) ?_)
    | (with_reducible refine All.ofMid (by assumption) ?_)
    | (with_reducible refine All.ofThird (by assumption) ?_)
    | (with_reducible refine All.ofSome (by assumption) ?_)
    | (with_reducible refine All.ofSomeFst (by assumption) ?_)
    | (with_reducible refine All.ofOk (by assumption) ?_)
    | split
    | (dsimp only; split)
    | with_reducible refine All.pair ?_
    | with_reducible refine All.pairSnd ?_
    | with_reducible refine All.mid ?_
    | with_reducible refine All.third ?_
    | intro _ _
    | fail_if_no_progress (with_reducible refine All.upd ?_ (by rfl) (by rfl) (by rfl) (by rfl) (by rfl))

theorem State.takeRequest_steady {fx : Fixed} (s : State) (p : Nat) (f : Frame) (hs1 : All (Steady fx) s) :
    All (Steady fx) (State.takeRequest s p f) := by
  unfold State.takeRequest
  repeat' first
    | with_reducible assumption
    | with_reducible apply State.tick_steady
    | with_reducible apply State.bodyDrop_steady
    | with_reducible refine All.branch (fun _ => ?_) (fun _ => ?_)
    | fail_if_no_progress (with_reducible refine All.upd ?_ (by rfl) (by rfl) (by rfl) (by rfl) (by rfl))

theorem State.slowPath_steady {fx : Fixed} (s : State) (p : Nat) (f : Frame) (hs1 : All (Steady fx) s) :
    All (Steady fx) (State.slowPath s p f) := by
  unfold State.slowPath
  repeat' first
    | with_reducible assumption
    | with_reducible apply State.reportDropped_steady
    | with_reducible apply State.slowArrive_steady
    | with_reducible apply State.tagEnd_steady
    | with_reducible apply State.lateChecks_steady
    | with_reducible refine All.branch (fun _ => ?_) (fun _ => ?_)
    | (with_reducible apply All.fst; first | with_reducible assumption | with_reducible apply State.lateChecks_steady)
    | fail_if_no_progress (with_reducible refine All.upd ?_ (by rfl) (by rfl) (by rfl) (by rfl) (by rfl))

theorem State.feedDiscard_steady {fx : Fixed} (s : State) (f : Frame) (hs1 : All (Steady fx) s) :
    All (Steady fx) (State.feedDiscard s f) := by
  unfold State.feedDiscard
  repeat' first
    | with_reducible assumption
    | with_reducible apply State.tagEnd_steady
    | with_reducible apply State.bodyDrop_steady

theorem State.enterStage_steady {fx : Fixed} (s : State) (h : StageHead) (hs1 : All (Steady fx) s) :
    All (Steady fx) (State.enterStage s h) := by
  unfold State.enterStage
  repeat' first
    | with_reducible assumption
    | with_reducible refine All.branch (fun _ => ?_) (fun _ => ?_)
    | fail_if_no_progress (with_reducible refine All.upd ?_ (by rfl) (by rfl) (by rfl) (by rfl) (by rfl))

theorem State.feedFrame_steady {fx : Fixed} (s : State) (p cycle : Nat) (f : Frame) (hs1 : All (Steady fx) s) :
    All (Steady fx) (State.feedFrame s p cycle f) := by
  unfold State.feedFrame
  repeat' first
    | with_reducible assumption
    | with_reducible apply State.feedOverRate_steady
    | with_reducible apply State.feedDiscard_steady
    | with_reducible apply State.enterStage_steady
    | with_reducible refine All.branch (fun _ => ?_) (fun _ => ?_)
    | with_reducible exact All.none
    | with_reducible exact All.noneFst
    | with_reducible refine All.some ?_
    | with_reducible refine All.someFst ?_
    | (with_reducible refine All.ofFst (by assumption) ?_)
    | (with_reducible refine All.ofSnd (by assumption) ?_)
    | (with_reducible refine All.ofMid (by assumption) ?_)
    | (with_reducible refine All.ofThird (by assumption) ?_)
    | (with_reducible refine All.ofSome (by assumption) ?_)
    | (with_reducible refine All.ofSomeFst (by assumption) ?_)
    | (with_reducible refine All.ofOk (by assumption) ?_)
    | split
    | with_reducible refine All.pair ?_
    | with_reducible refine All.pairSnd ?_
    | with_reducible refine All.mid ?_
    | with_reducible refine All.third ?_
    | (with_reducible apply All.bySt FeedAnswer.st; first | with_reducible assumption | with_reducible apply State.feedOverRate_steady)
    | fail_if_no_progress (with_reducible refine All.upd ?_ (by rfl) (by rfl) (by rfl) (by rfl) (by rfl))

theorem State.decideHead_steady {fx : Fixed} (s : State) (p stream cycle : Nat) (parityBad : Bool) (f : Frame) (hs1 : All (Steady fx) s) :
    All (Steady fx) (State.decideHead s p stream cycle parityBad f) := by
  unfold State.decideHead
  repeat' first
    | with_reducible assumption
    | with_reducible apply State.tick_steady
    | with_reducible apply State.occur_steady
    | with_reducible apply State.tagEnd_steady
    | with_reducible apply State.bodyDrop_steady
    | with_reducible apply State.storeHead_steady
    | with_reducible apply State.takeRequest_steady
    | with_reducible apply State.slowPath_steady
    | with_reducible apply State.enterStage_steady
    | with_reducible apply State.feedFrame_steady
    | with_reducible refine All.branch (fun _ => ?_) (fun _ => ?_)
    | with_reducible exact All.none
    | with_reducible exact All.noneFst
    | (with_reducible apply All.fst; first | with_reducible assumption | with_reducible apply State.storeHead_steady)

theorem State.modStage_steady {fx : Fixed} (s : State) (id : Nat) (g : StageHead → Option StageHead) (hs1 : All (Steady fx) s) :
    All (Steady fx) (State.modStage s id g) := by
  unfold State.modStage
  repeat' first
    | with_reducible assumption
    | with_reducible refine All.branch (fun _ => ?_) (fun _ => ?_)
    | with_reducible refine All.some ?_
    | with_reducible refine All.someFst ?_
    | intro _ _
    | fail_if_no_progress (with_reducible refine All.upd ?_ (by rfl) (by rfl) (by rfl) (by rfl) (by rfl))

theorem State.decideFeed_steady {fx : Fixed} (s : State) (h : StageHead) (hs1 : All (Steady fx) s) :
    All (Steady fx) (State.decideFeed s h) := by
  unfold State.decideFeed
  repeat' first
    | with_reducible assumption
    | with_reducible apply State.feedDecide_steady
    | with_reducible apply State.modBody_steady
    | with_reducible apply State.feedDiscard_steady
    | with_reducible apply State.modStage_steady
    | with_reducible refine All.branch (fun _ => ?_) (fun _ => ?_)
    | with_reducible exact All.none
    | with_reducible exact All.noneFst
    | with_reducible refine All.some ?_
    | with_reducible refine All.someFst ?_
    | with_reducible refine All.pair ?_
    | with_reducible refine All.pairSnd ?_
    | with_reducible refine All.mid ?_
    | with_reducible refine All.third ?_
    | (with_reducible apply All.bySt FeedAnswer.st; first | with_reducible assumption | with_reducible apply State.feedDecide_steady)

theorem State.decideUpTo_steady {fx : Fixed} (s : State) (limit : Nat) (hs1 : All (Steady fx) s) :
    All (Steady fx) (State.decideUpTo s limit) := by
  unfold State.decideUpTo
  repeat' first
    | with_reducible assumption
    | with_reducible apply State.decideFeed_steady
    | with_reducible refine All.branch (fun _ => ?_) (fun _ => ?_)
    | with_reducible exact All.none
    | with_reducible exact All.noneFst
    | with_reducible refine All.some ?_
    | with_reducible refine All.someFst ?_
    | with_reducible refine All.folded ?_ (fun _ _ _ => ?_)
    | (with_reducible refine All.ofFst (by assumption) ?_)
    | (with_reducible refine All.ofSnd (by assumption) ?_)
    | (with_reducible refine All.ofMid (by assumption) ?_)
    | (with_reducible refine All.ofThird (by assumption) ?_)
    | (with_reducible refine All.ofSome (by assumption) ?_)
    | (with_reducible refine All.ofSomeFst (by assumption) ?_)
    | (with_reducible refine All.ofOk (by assumption) ?_)
    | split

theorem State.leaveStage_steady {fx : Fixed} (s : State) (hs1 : All (Steady fx) s) :
    All (Steady fx) (State.leaveStage s) := by
  unfold State.leaveStage
  repeat' first
    | with_reducible assumption
    | with_reducible apply State.decided_steady
    | with_reducible apply State.grantCycle_steady
    | with_reducible refine All.branch (fun _ => ?_) (fun _ => ?_)
    | with_reducible refine All.folded ?_ (fun _ _ _ => ?_)
    | intro _ _
    | fail_if_no_progress (with_reducible refine All.upd ?_ (by rfl) (by rfl) (by rfl) (by rfl) (by rfl))

theorem State.feedDecision_steady {fx : Fixed} (s : State) (p : Nat) (hs1 : All (Steady fx) s) :
    All (Steady fx) (State.feedDecision s p) := by
  unfold State.feedDecision
  repeat' first
    | with_reducible assumption
    | with_reducible apply State.at__steady
    | with_reducible apply State.decideUpTo_steady
    | with_reducible apply State.leaveStage_steady
    | with_reducible refine All.branch (fun _ => ?_) (fun _ => ?_)
    | with_reducible exact All.none
    | with_reducible exact All.noneFst
    | with_reducible refine All.some ?_
    | with_reducible refine All.someFst ?_
    | (with_reducible refine All.ofFst (by assumption) ?_)
    | (with_reducible refine All.ofSnd (by assumption) ?_)
    | (with_reducible refine All.ofMid (by assumption) ?_)
    | (with_reducible refine All.ofThird (by assumption) ?_)
    | (with_reducible refine All.ofSome (by assumption) ?_)
    | (with_reducible refine All.ofSomeFst (by assumption) ?_)
    | (with_reducible refine All.ofOk (by assumption) ?_)
    | split

theorem execFeedDecision_steady {fx : Fixed} (pipe : Fin 16) (s : State) (hs1 : All (Steady fx) s) :
    All (SteadyAns fx) (execFeedDecision pipe s) := by
  unfold execFeedDecision
  repeat' first
    | with_reducible assumption
    | with_reducible apply State.feedDecision_steady
    | with_reducible refine All.branch (fun _ => ?_) (fun _ => ?_)
    | with_reducible refine All.next ?_

theorem State.handOff_steady {fx : Fixed} (s : State) (cycle : Nat) (parityBad : List Nat) (hs1 : All (Steady fx) s) :
    All (Steady fx) (State.handOff s cycle parityBad) := by
  unfold State.handOff
  repeat' first
    | with_reducible assumption
    | with_reducible apply State.at__steady
    | with_reducible apply State.slotCount_steady
    | with_reducible apply State.settlePasses_steady
    | with_reducible apply State.decideHead_steady
    | with_reducible apply State.decideUpTo_steady
    | with_reducible apply State.leaveStage_steady
    | with_reducible refine All.branch (fun _ => ?_) (fun _ => ?_)
    | with_reducible refine All.folded ?_ (fun _ _ _ => ?_)
    | intro _ _
    | fail_if_no_progress (with_reducible refine All.upd ?_ (by rfl) (by rfl) (by rfl) (by rfl) (by rfl))

theorem execHeadHandoff_steady {fx : Fixed} (cycle : Fin 512) (parityBad : List (Fin 96)) (s : State) (hs1 : All (Steady fx) s) :
    All (SteadyAns fx) (execHeadHandoff cycle parityBad s) := by
  unfold execHeadHandoff
  repeat' first
    | with_reducible assumption
    | with_reducible apply State.handOff_steady
    | with_reducible refine All.branch (fun _ => ?_) (fun _ => ?_)
    | with_reducible refine All.next ?_

theorem State.chargeCell_steady {fx : Fixed} (s : State) (f : Stored) (hs1 : All (Steady fx) s) :
    All (Steady fx) (State.chargeCell s f) := by
  unfold State.chargeCell
  repeat' first
    | with_reducible assumption
    | with_reducible apply State.modQueue_steady
    | with_reducible apply State.modGroup_steady
    | with_reducible apply State.charge_steady
    | with_reducible apply State.modStored_steady
    | with_reducible refine All.folded ?_ (fun _ _ _ => ?_)
    | split
    | intro _ _
    | fail_if_no_progress (with_reducible refine All.upd ?_ (by rfl) (by rfl) (by rfl) (by rfl) (by rfl))

theorem State.writeBody_steady {fx : Fixed} (s : State) (f : Frame) (bank : Nat) (hs1 : All (Steady fx) s) :
    All (SteadyOpt fx) (State.writeBody s f bank) := by
  unfold State.writeBody
  have h : ∀ x : Option Nat × State, All (SteadySnd fx) x → All (SteadyOpt fx) (x.1.map fun c =>
      ((match f.cells.getLast? with
        | some b => (x.2.putCell c (f.cellData (f.bodyCells + 1)) 0 (decide (f.cellCount ≤ f.bodyCells + 1 + 1))).linkCell b c
        | none => x.2.putCell c (f.cellData (f.bodyCells + 1)) 0 (decide (f.cellCount ≤ f.bodyCells + 1 + 1)))).modBody f.id
          fun b => { b with cells := b.cells ++ [c] }) := by
    intro x hx
    obtain ⟨o, t⟩ := x
    cases o with
    | none => exact All.none
    | some c =>
      refine All.some (State.modBody_steady _ _ _ ?_)
      split
      · exact State.linkCell_steady _ _ _ (State.putCell_steady _ _ _ _ _ (All.snd hx))
      · exact State.putCell_steady _ _ _ _ _ (All.snd hx)
  refine h _ ?_
  split
  · exact All.pairSnd (State.chargeCell_steady _ _ (All.snd (State.takeCell_steady _ _ hs1)))
  · exact State.reserveCell_steady _ _ hs1

theorem State.bodyCell_steady {fx : Fixed} (s : State) (lp cycle bank : Nat) (hs1 : All (Steady fx) s) :
    All (Steady fx) (State.bodyCell s lp cycle bank) := by
  unfold State.bodyCell
  have h0 : All (Steady fx) (s.at_ (bufferAt8 cycle)) := State.at__steady _ _ hs1
  dsimp only
  generalize s.at_ (bufferAt8 cycle) = u at h0
  split
  · rename_i f _
    refine All.branch (fun _ => ?_) fun _ => h0
    have h := State.writeBody_steady u f bank h0
    generalize u.writeBody f bank = o at h
    cases o with
    | none => exact h0
    | some t => exact All.ofSome rfl h
  · exact h0

theorem execBodyCellWrite_steady {fx : Fixed} (lp : Fin 512) (cycle : Fin 512) (bank : Fin 64) (s : State) (hs1 : All (Steady fx) s) :
    All (SteadyAns fx) (execBodyCellWrite lp cycle bank s) := by
  unfold execBodyCellWrite
  repeat' first
    | with_reducible assumption
    | with_reducible apply State.bodyCell_steady
    | with_reducible refine All.branch (fun _ => ?_) (fun _ => ?_)
    | with_reducible refine All.next ?_

theorem State.resolveCandidates_steady {fx : Fixed} (s : State) (f : Frame) (hs1 : All (Steady fx) s) :
    All (Steady fx) (State.resolveCandidates s f) := by
  unfold State.resolveCandidates
  repeat' first
    | with_reducible assumption
    | with_reducible apply State.modQuad_steady
    | with_reducible refine All.folded ?_ (fun _ _ _ => ?_)

theorem State.lastStored_steady {fx : Fixed} (s : State) (f : Frame) (hs1 : All (Steady fx) s) :
    All (Steady fx) (State.lastStored s f) := by
  unfold State.lastStored
  repeat' first
    | with_reducible assumption
    | with_reducible apply State.slowArrive_steady
    | with_reducible apply State.lateChecks_steady
    | with_reducible apply State.wholeFrame_steady
    | with_reducible apply State.modBody_steady
    | with_reducible apply State.bodyOver_steady
    | with_reducible apply State.modStage_steady
    | with_reducible refine All.branch (fun _ => ?_) (fun _ => ?_)
    | with_reducible refine All.some ?_
    | with_reducible refine All.someFst ?_
    | (with_reducible apply All.fst; first | with_reducible assumption | with_reducible apply State.lateChecks_steady)
    | intro _ _
    | fail_if_no_progress (with_reducible refine All.upd ?_ (by rfl) (by rfl) (by rfl) (by rfl) (by rfl))

theorem State.lastCell_steady {fx : Fixed} (s : State) (lp cycle bank : Nat) (hs1 : All (Steady fx) s) :
    All (Steady fx) (State.lastCell s lp cycle bank) := by
  unfold State.lastCell
  repeat' first
    | with_reducible assumption
    | with_reducible apply State.at__steady
    | with_reducible apply State.bodyOver_steady
    | with_reducible apply State.writeBody_steady
    | with_reducible apply State.resolveCandidates_steady
    | with_reducible apply State.lastStored_steady
    | with_reducible refine All.branch (fun _ => ?_) (fun _ => ?_)
    | with_reducible exact All.none
    | with_reducible exact All.noneFst
    | with_reducible refine All.some ?_
    | with_reducible refine All.someFst ?_
    | (with_reducible refine All.ofFst (by assumption) ?_)
    | (with_reducible refine All.ofSnd (by assumption) ?_)
    | (with_reducible refine All.ofMid (by assumption) ?_)
    | (with_reducible refine All.ofThird (by assumption) ?_)
    | (with_reducible refine All.ofSome (by assumption) ?_)
    | (with_reducible refine All.ofSomeFst (by assumption) ?_)
    | (with_reducible refine All.ofOk (by assumption) ?_)
    | split
    | (dsimp only; split)

theorem execLastCellArrival_steady {fx : Fixed} (lp : Fin 512) (cycle : Fin 512) (bank : Fin 64) (s : State) (hs1 : All (Steady fx) s) :
    All (SteadyAns fx) (execLastCellArrival lp cycle bank s) := by
  unfold execLastCellArrival
  repeat' first
    | with_reducible assumption
    | with_reducible apply State.lastCell_steady
    | with_reducible refine All.branch (fun _ => ?_) (fun _ => ?_)
    | with_reducible refine All.next ?_

/-! ### Egress -/

theorem State.unrecordedDrop_steady {fx : Fixed} (s : State) (f : Stored) (q : Nat) (hs1 : All (Steady fx) s) :
    All (Steady fx) (State.unrecordedDrop s f q) := by
  unfold State.unrecordedDrop
  repeat' first
    | with_reducible assumption
    | with_reducible apply State.classLoss_steady
    | with_reducible apply State.copyLost_steady
    | fail_if_no_progress (with_reducible refine All.upd ?_ (by rfl) (by rfl) (by rfl) (by rfl) (by rfl))

theorem State.cellDrop_steady {fx : Fixed} (s : State) (f : Stored) (q : Nat) (hs1 : All (Steady fx) s) :
    All (Steady fx) (State.cellDrop s f q) := by
  unfold State.cellDrop
  repeat' first
    | with_reducible assumption
    | with_reducible apply State.modEgr_steady
    | with_reducible apply State.dropCopyRecord_steady
    | with_reducible apply State.copyLost_steady

theorem State.launch_steady {fx : Fixed} (s : State) (lp q : Nat) (e : QEntry) (f : Stored) (bad : Bool) (held : Option Nat) (hs1 : All (Steady fx) s) :
    All (Steady fx) (State.launch s lp q e f bad held) := by
  unfold State.launch
  repeat' first
    | with_reducible assumption
    | with_reducible apply State.modQueue_steady
    | with_reducible apply State.modEgr_steady
    | with_reducible apply State.chargeStart_steady
    | split
    | intro _ _
    | fail_if_no_progress (with_reducible refine All.upd ?_ (by rfl) (by rfl) (by rfl) (by rfl) (by rfl))

theorem State.startCopy_steady {fx : Fixed} (s : State) (lp q : Nat) (cellBad : Bool) (hs1 : All (Steady fx) s) :
    All (Steady fx) (State.startCopy s lp q cellBad) := by
  unfold State.startCopy
  repeat' first
    | with_reducible assumption
    | with_reducible apply State.tick_steady
    | with_reducible apply State.occur_steady
    | with_reducible apply State.unlinkFirst_steady
    | with_reducible apply State.unrecordedDrop_steady
    | with_reducible apply State.cellDrop_steady
    | with_reducible apply State.launch_steady
    | split
    | (dsimp only; split)

theorem State.pick_steady {fx : Fixed} (s : State) (lp : Nat) (cellBad : Bool) (hs1 : All (Steady fx) s) :
    All (Steady fx) (State.pick s lp cellBad) := by
  unfold State.pick
  repeat' first
    | with_reducible assumption
    | with_reducible apply State.sendPauses_steady
    | with_reducible apply State.markBlocked_steady
    | with_reducible apply State.countWaits_steady
    | with_reducible apply State.pickClass_steady
    | with_reducible apply State.settlePort_steady
    | with_reducible apply State.startCopy_steady
    | with_reducible refine All.branch (fun _ => ?_) (fun _ => ?_)
    | with_reducible exact All.none
    | with_reducible exact All.noneFst
    | with_reducible refine All.some ?_
    | with_reducible refine All.someFst ?_
    | (with_reducible refine All.ofFst (by assumption) ?_)
    | (with_reducible refine All.ofSnd (by assumption) ?_)
    | (with_reducible refine All.ofMid (by assumption) ?_)
    | (with_reducible refine All.ofThird (by assumption) ?_)
    | (with_reducible refine All.ofSome (by assumption) ?_)
    | (with_reducible refine All.ofSomeFst (by assumption) ?_)
    | (with_reducible refine All.ofOk (by assumption) ?_)
    | split
    | (dsimp only; split)

theorem execSchedulerPick_steady {fx : Fixed} (lp : Fin 512) (cellBad : Bool) (at8 : Fin 3277) (s : State) (hs1 : All (Steady fx) s) :
    All (SteadyAns fx) (execSchedulerPick lp cellBad at8 s) := by
  unfold execSchedulerPick
  repeat' first
    | with_reducible assumption
    | with_reducible apply State.at__steady
    | with_reducible apply State.pick_steady
    | with_reducible refine All.next ?_

theorem State.transmitEnd_steady {fx : Fixed} (s : State) (lp : Nat) (hs1 : All (Steady fx) s) :
    All (Steady fx) (State.transmitEnd s lp) := by
  unfold State.transmitEnd
  repeat' first
    | with_reducible assumption
    | with_reducible apply State.reach_steady
    | with_reducible apply State.finishTx_steady
    | with_reducible apply State.settleIsland_steady
    | with_reducible apply State.addBack_steady
    | with_reducible refine All.branch (fun _ => ?_) (fun _ => ?_)
    | with_reducible exact All.none
    | with_reducible exact All.noneFst
    | with_reducible refine All.some ?_
    | with_reducible refine All.someFst ?_
    | (with_reducible refine All.ofFst (by assumption) ?_)
    | (with_reducible refine All.ofSnd (by assumption) ?_)
    | (with_reducible refine All.ofMid (by assumption) ?_)
    | (with_reducible refine All.ofThird (by assumption) ?_)
    | (with_reducible refine All.ofSome (by assumption) ?_)
    | (with_reducible refine All.ofSomeFst (by assumption) ?_)
    | (with_reducible refine All.ofOk (by assumption) ?_)
    | split

theorem execTransmitEnd_steady {fx : Fixed} (lp : Fin 512) (at8 : Fin 3277) (s : State) (hs1 : All (Steady fx) s) :
    All (SteadyAns fx) (execTransmitEnd lp at8 s) := by
  unfold execTransmitEnd
  repeat' first
    | with_reducible assumption
    | with_reducible apply State.at__steady
    | with_reducible apply State.transmitEnd_steady
    | with_reducible refine All.next ?_

theorem State.flushOne_steady {fx : Fixed} (s : State) (lp cycle bank : Nat) (hs1 : All (Steady fx) s) :
    All (Steady fx) (State.flushOne s lp cycle bank) := by
  unfold State.flushOne
  repeat' first
    | with_reducible assumption
    | with_reducible apply State.modEgr_steady
    | with_reducible apply State.at__steady
    | with_reducible apply State.dropCopyRecord_steady
    | with_reducible apply State.copyLost_steady
    | with_reducible apply State.unlinkFirst_steady
    | with_reducible refine All.branch (fun _ => ?_) (fun _ => ?_)
    | with_reducible exact All.none
    | with_reducible exact All.noneFst
    | with_reducible refine All.some ?_
    | with_reducible refine All.someFst ?_
    | (with_reducible refine All.ofFst (by assumption) ?_)
    | (with_reducible refine All.ofSnd (by assumption) ?_)
    | (with_reducible refine All.ofMid (by assumption) ?_)
    | (with_reducible refine All.ofThird (by assumption) ?_)
    | (with_reducible refine All.ofSome (by assumption) ?_)
    | (with_reducible refine All.ofSomeFst (by assumption) ?_)
    | (with_reducible refine All.ofOk (by assumption) ?_)
    | split
    | (dsimp only; split)

theorem execQueueFlushUnlink_steady {fx : Fixed} (lp : Fin 512) (cycle : Fin 512) (bank : Fin 64) (s : State) (hs1 : All (Steady fx) s) :
    All (SteadyAns fx) (execQueueFlushUnlink lp cycle bank s) := by
  unfold execQueueFlushUnlink
  repeat' first
    | with_reducible assumption
    | with_reducible apply State.flushOne_steady
    | with_reducible refine All.branch (fun _ => ?_) (fun _ => ?_)
    | with_reducible refine All.next ?_

theorem State.walkOne_steady {fx : Fixed} (s : State) (hs1 : All (Steady fx) s) :
    All (Steady fx) (State.walkOne s) := by
  unfold State.walkOne
  repeat' first
    | with_reducible assumption
    | with_reducible apply State.returnCell_steady
    | with_reducible refine All.folded ?_ (fun _ _ _ => ?_)
    | split
    | intro _ _
    | fail_if_no_progress (with_reducible refine All.upd ?_ (by rfl) (by rfl) (by rfl) (by rfl) (by rfl))

theorem execChainFreeWalk_steady {fx : Fixed} (s : State) (hs1 : All (Steady fx) s) :
    All (SteadyAns fx) (execChainFreeWalk s) := by
  unfold execChainFreeWalk
  repeat' first
    | with_reducible assumption
    | with_reducible apply State.walkOne_steady
    | with_reducible refine All.next ?_

theorem State.poolService_steady {fx : Fixed} (s : State) (cycle bank : Nat) (hs1 : All (Steady fx) s) :
    All (Steady fx) (State.poolService s cycle bank) := by
  unfold State.poolService
  repeat' first
    | with_reducible assumption
    | with_reducible apply State.at__steady
    | with_reducible apply State.poolWindow_steady
    | with_reducible refine All.branch (fun _ => ?_) (fun _ => ?_)

theorem execPoolService_steady {fx : Fixed} (cycle : Fin 512) (bank : Fin 64) (s : State) (hs1 : All (Steady fx) s) :
    All (SteadyAns fx) (execPoolService cycle bank s) := by
  unfold execPoolService
  repeat' first
    | with_reducible assumption
    | with_reducible apply State.poolService_steady
    | with_reducible refine All.branch (fun _ => ?_) (fun _ => ?_)
    | with_reducible refine All.next ?_

theorem State.poolAllocate_steady {fx : Fixed} (s : State) (req n : Nat) (hs1 : All (Steady fx) s) :
    All (Steady fx) (State.poolAllocate s req n) := by
  unfold State.poolAllocate
  repeat' first
    | with_reducible assumption
    | with_reducible apply State.refuseAllocation_steady
    | with_reducible apply State.allocate_steady
    | with_reducible refine All.branch (fun _ => ?_) (fun _ => ?_)
    | (with_reducible apply All.snd; first | with_reducible assumption | with_reducible apply State.allocate_steady)

theorem execPoolAllocate_steady {fx : Fixed} (req : Fin 65) (cells : Nat) (s : State) (hs1 : All (Steady fx) s) :
    All (SteadyAns fx) (execPoolAllocate req cells s) := by
  unfold execPoolAllocate
  repeat' first
    | with_reducible assumption
    | with_reducible apply State.poolAllocate_steady
    | with_reducible refine All.next ?_

/-! ### Replay -/

theorem State.touchSlot_steady {fx : Fixed} (s : State) (c : Image) (m : BitVec 64) (hs1 : All (Steady fx) s) :
    All (Steady fx) (State.touchSlot s c m) := by
  unfold State.touchSlot
  repeat' first
    | with_reducible assumption
    | with_reducible apply State.cabTouch_steady

theorem State.inject64_steady {fx : Fixed} (s : State) (p : Nat) (data : List Byte) (hs1 : All (Steady fx) s) :
    All (Steady fx) (State.inject64 s p data) := by
  unfold State.inject64
  repeat' first
    | with_reducible assumption
    | with_reducible apply State.allocate_steady
    | with_reducible apply State.fillCells_steady
    | with_reducible apply State.linkChain_steady
    | (with_reducible apply All.snd; first | with_reducible assumption | with_reducible apply State.allocate_steady)
    | fail_if_no_progress (with_reducible refine All.upd ?_ (by rfl) (by rfl) (by rfl) (by rfl) (by rfl))

theorem State.replayRun_steady {fx : Fixed} (s : State) (e c : Image) (r : ReplayReq) (b0 : Nat) (hs1 : All (Steady fx) s) :
    All (SteadyFst fx) (State.replayRun s e c r b0) := by
  induction b0 generalizing s r with
  | zero => exact All.pair hs1
  | succ n ih =>
    unfold State.replayRun
    dsimp only
    split
    · exact ih _ _ (State.tick_steady _ _ _ _ (State.touchSlot_steady _ _ _ hs1))
    · exact All.branch (fun _ => ih _ _ (State.inject64_steady _ _ _ hs1)) fun _ =>
        All.pair (State.refuseAllocation_steady _ _ hs1)

theorem State.replayServe_steady {fx : Fixed} (s : State) (hs1 : All (Steady fx) s) :
    All (Steady fx) (State.replayServe s) := by
  unfold State.replayServe
  repeat' first
    | with_reducible assumption
    | with_reducible apply State.tick_steady
    | with_reducible apply State.replayRun_steady
    | (with_reducible refine All.ofFst (by assumption) ?_)
    | split
    | (dsimp only; split)
    | fail_if_no_progress (with_reducible refine All.upd ?_ (by rfl) (by rfl) (by rfl) (by rfl) (by rfl))

theorem execReplayServe_steady {fx : Fixed} (s : State) (hs1 : All (Steady fx) s) :
    All (SteadyAns fx) (execReplayServe s) := by
  unfold execReplayServe
  repeat' first
    | with_reducible assumption
    | with_reducible apply State.replayServe_steady
    | with_reducible refine All.next ?_

end Sys2Proof.Machine
end

