-- ==== Sys2Proof/Laws/SteadyPair.lean ====
section
/-!
SUPPORT. Every operation of the mirror, microcode, the command ports, the Dovetail pair, resets, register writes and rounds keeps `Steady`: one lemma each.
-/

namespace Sys2Proof.Machine

/-! ### MirrorOps -/

theorem State.heardNow_steady {fx : Fixed} (s : State) (hs1 : All (Steady fx) s) :
    All (Steady fx) (State.heardNow s) := by
  unfold State.heardNow
  repeat' first
    | with_reducible assumption
    | with_reducible refine All.branch (fun _ => ?_) (fun _ => ?_)
    | fail_if_no_progress (with_reducible refine All.upd ?_ (by rfl) (by rfl) (by rfl) (by rfl) (by rfl))

theorem State.modMirror_steady {fx : Fixed} (s : State) (f : MirrorState → MirrorState) (hs1 : All (Steady fx) s) :
    All (Steady fx) (State.modMirror s f) := by
  unfold State.modMirror
  repeat' first
    | with_reducible assumption
    | intro _ _
    | fail_if_no_progress (with_reducible refine All.upd ?_ (by rfl) (by rfl) (by rfl) (by rfl) (by rfl))

theorem State.setRegion_steady {fx : Fixed} (s : State) (r v : Nat) (hs1 : All (Steady fx) s) :
    All (Steady fx) (State.setRegion s r v) := by
  unfold State.setRegion
  repeat' first
    | with_reducible assumption
    | with_reducible apply State.modMirror_steady

theorem State.sendDigest_steady {fx : Fixed} (s : State) (r : Nat) (hs1 : All (Steady fx) s) :
    All (Steady fx) (State.sendDigest s r) := by
  unfold State.sendDigest
  repeat' first
    | with_reducible assumption
    | with_reducible apply State.emit_steady
    | with_reducible refine All.branch (fun _ => ?_) (fun _ => ?_)

theorem State.sendDigests_steady {fx : Fixed} (s : State) (hs1 : All (Steady fx) s) :
    All (Steady fx) (State.sendDigests s) := by
  unfold State.sendDigests
  repeat' first
    | with_reducible assumption
    | with_reducible apply State.sendDigest_steady
    | with_reducible refine All.folded ?_ (fun _ _ _ => ?_)

theorem State.endCheck_steady {fx : Fixed} (s : State) (hs1 : All (Steady fx) s) :
    All (Steady fx) (State.endCheck s) := by
  unfold State.endCheck
  repeat' first
    | with_reducible assumption
    | with_reducible apply State.complete_steady
    | with_reducible apply State.modMirror_steady
    | split

theorem State.settleCheck_steady {fx : Fixed} (s : State) (hs1 : All (Steady fx) s) :
    All (Steady fx) (State.settleCheck s) := by
  unfold State.settleCheck
  repeat' first
    | with_reducible assumption
    | with_reducible apply State.setRegion_steady
    | with_reducible apply State.endCheck_steady
    | with_reducible refine All.folded ?_ (fun _ _ _ => ?_)
    | split

theorem State.regionReported_steady {fx : Fixed} (s : State) (r v : Nat) (hs1 : All (Steady fx) s) :
    All (Steady fx) (State.regionReported s r v) := by
  unfold State.regionReported
  repeat' first
    | with_reducible assumption
    | with_reducible apply State.modMirror_steady
    | with_reducible apply State.setRegion_steady
    | with_reducible apply State.settleCheck_steady

theorem doMirrorCheck_steady {fx : Fixed} (b0 : Waiter) (b1 : Pkt) (b2 : List Byte) (b3 : State) (hs1 : All (Steady fx) b3) :
    All (SteadyDone fx) (doMirrorCheck b0 b1 b2 b3) := by
  unfold doMirrorCheck
  repeat' first
    | with_reducible assumption
    | with_reducible apply pendingReply_steady
    | with_reducible apply busy_steady
    | with_reducible apply State.sendToken_steady
    | with_reducible apply State.modMirror_steady
    | with_reducible apply State.sendDigests_steady
    | with_reducible refine All.branch (fun _ => ?_) (fun _ => ?_)

theorem execMirrorCheck_steady {fx : Fixed} (p : Pkt) (s : State) (hs1 : All (Steady fx) s) :
    All (SteadyAns fx) (execMirrorCheck p s) := by
  unfold execMirrorCheck
  repeat' first
    | with_reducible assumption
    | with_reducible apply State.runCommand_steady
    | with_reducible apply State.settleCheck_steady
    | with_reducible apply doMirrorCheck_steady
    | with_reducible refine All.next ?_

theorem State.startPull_steady {fx : Fixed} (s : State) (hs1 : All (Steady fx) s) :
    All (Steady fx) (State.startPull s) := by
  unfold State.startPull
  repeat' first
    | with_reducible assumption
    | with_reducible apply State.emit_steady
    | with_reducible apply State.modMirror_steady

theorem State.settlePull_steady {fx : Fixed} (s : State) (hs1 : All (Steady fx) s) :
    All (Steady fx) (State.settlePull s) := by
  unfold State.settlePull
  repeat' first
    | with_reducible assumption
    | with_reducible apply State.emit_steady
    | with_reducible apply State.complete_steady
    | with_reducible apply State.modMirror_steady
    | split

theorem State.compareRegion_steady {fx : Fixed} (s : State) (r : Fin 19) (digest : BitVec 32) (hs1 : All (Steady fx) s) :
    All (Steady fx) (State.compareRegion s r digest) := by
  unfold State.compareRegion
  repeat' first
    | with_reducible assumption
    | with_reducible apply State.emit_steady
    | with_reducible apply State.occur_steady
    | with_reducible apply State.setRegion_steady
    | with_reducible refine All.branch (fun _ => ?_) (fun _ => ?_)

theorem State.compareHeld_steady {fx : Fixed} (s : State) (hs1 : All (Steady fx) s) :
    All (Steady fx) (State.compareHeld s) := by
  unfold State.compareHeld
  repeat' first
    | with_reducible assumption
    | with_reducible apply State.modMirror_steady
    | with_reducible apply State.settlePull_steady
    | with_reducible apply State.compareRegion_steady
    | with_reducible refine All.folded ?_ (fun _ _ _ => ?_)

theorem State.writePulled_steady {fx : Fixed} (s : State) (code gen idx : Nat) (e : Image) (hs1 : All (Steady fx) s) :
    All (Steady fx) (State.writePulled s code gen idx e) := by
  unfold State.writePulled
  repeat' first
    | with_reducible assumption
    | with_reducible apply State.loosen_steady
    | with_reducible apply State.changeEntry_steady
    | with_reducible apply State.afterWrite_steady

theorem State.pullEntries_steady {fx : Fixed} (s : State) (r : Fin 19) (code gen : Nat) (items : List (Nat × Nat)) (hs1 : All (Steady fx) s) :
    All (Steady fx) (State.pullEntries s r code gen items) := by
  unfold State.pullEntries
  repeat' first
    | with_reducible assumption
    | with_reducible apply State.emit_steady
    | with_reducible apply State.setRegion_steady
    | with_reducible apply State.writePulled_steady
    | with_reducible refine All.branch (fun _ => ?_) (fun _ => ?_)
    | with_reducible refine All.folded ?_ (fun _ _ _ => ?_)

theorem State.pullBlocks_steady {fx : Fixed} (s : State) (r : Fin 19) (ds : List (BitVec 8 × Bool × Nat × BitVec 32)) (hs1 : All (Steady fx) s) :
    All (Steady fx) (State.pullBlocks s r ds) := by
  unfold State.pullBlocks
  repeat' first
    | with_reducible assumption
    | with_reducible apply State.emit_steady
    | with_reducible refine All.branch (fun _ => ?_) (fun _ => ?_)
    | with_reducible refine All.folded ?_ (fun _ _ _ => ?_)

theorem State.pullPorts_steady {fx : Fixed} (s : State) (params : List (List Byte)) (hs1 : All (Steady fx) s) :
    All (Steady fx) (State.pullPorts s params) := by
  unfold State.pullPorts
  repeat' first
    | with_reducible assumption
    | with_reducible apply State.emit_steady
    | with_reducible apply doPortConfig_steady
    | with_reducible apply State.setRegion_steady
    | with_reducible refine All.branch (fun _ => ?_) (fun _ => ?_)
    | with_reducible refine All.folded ?_ (fun _ _ _ => ?_)
    | (with_reducible apply All.fst; first | with_reducible assumption | with_reducible refine All.folded ?_ (fun _ _ _ => ?_))
    | (with_reducible apply All.doneSt; first | with_reducible assumption | with_reducible apply doPortConfig_steady | with_reducible refine All.folded ?_ (fun _ _ _ => ?_))
    | with_reducible refine All.pair ?_

theorem State.pullFeed_steady {fx : Fixed} (s : State) (x : FeedImage) (hs1 : All (Steady fx) s) :
    All (Steady fx) (State.pullFeed s x) := by
  unfold State.pullFeed
  repeat' first
    | with_reducible assumption
    | with_reducible apply State.modFeed_steady

theorem State.dropRoleWait_steady {fx : Fixed} (s : State) (hs1 : All (Steady fx) s) :
    All (Steady fx) (State.dropRoleWait s) := by
  unfold State.dropRoleWait
  repeat' first
    | with_reducible assumption
    | with_reducible apply State.complete_steady
    | with_reducible apply State.modMirror_steady
    | split

theorem State.releaseMirrored_steady {fx : Fixed} (s : State) (hs1 : All (Steady fx) s) :
    All (Steady fx) (State.releaseMirrored s) := by
  unfold State.releaseMirrored
  repeat' first
    | with_reducible assumption
    | with_reducible apply State.sendAudited_steady
    | with_reducible apply State.modMirror_steady
    | with_reducible refine All.branch (fun _ => ?_) (fun _ => ?_)
    | with_reducible exact All.none
    | with_reducible exact All.noneFst
    | with_reducible refine All.some ?_
    | with_reducible refine All.someFst ?_
    | (with_reducible refine All.ofFst (by assumption) ?_)
    | (with_reducible refine All.ofSnd (by assumption) ?_)
    | (with_reducible refine All.ofMid (by assumption) ?_)
    | (with_reducible refine All.ofThird (by assumption) ?_)
    | (with_reducible refine All.ofSome (by assumption) ?_)
    | (with_reducible refine All.ofSomeFst (by assumption) ?_)
    | (with_reducible refine All.ofOk (by assumption) ?_)
    | split
    | (dsimp only; split)
    | intro _ _
    | fail_if_no_progress (with_reducible refine All.upd ?_ (by rfl) (by rfl) (by rfl) (by rfl) (by rfl))

theorem State.becomeStandby_steady {fx : Fixed} (s : State) (hs1 : All (Steady fx) s) :
    All (Steady fx) (State.becomeStandby s) := by
  unfold State.becomeStandby
  repeat' first
    | with_reducible assumption
    | with_reducible apply State.setSource_steady
    | with_reducible apply State.modMirror_steady
    | with_reducible apply State.settleCheck_steady
    | with_reducible apply State.releaseMirrored_steady

theorem State.becomePrimary_steady {fx : Fixed} (s : State) (hs1 : All (Steady fx) s) :
    All (Steady fx) (State.becomePrimary s) := by
  unfold State.becomePrimary
  repeat' first
    | with_reducible assumption
    | with_reducible apply State.setSource_steady
    | with_reducible apply State.modMirror_steady
    | with_reducible apply State.dropRoleWait_steady

theorem State.takeover_steady {fx : Fixed} (s : State) (hs1 : All (Steady fx) s) :
    All (Steady fx) (State.takeover s) := by
  unfold State.takeover
  repeat' first
    | with_reducible assumption
    | with_reducible apply State.raise_steady
    | with_reducible apply State.becomePrimary_steady
    | with_reducible refine All.branch (fun _ => ?_) (fun _ => ?_)

theorem State.takeoverFrom_steady {fx : Fixed} (s : State) (mode : Nat) (hs1 : All (Steady fx) s) :
    All (Steady fx) (State.takeoverFrom s mode) := by
  unfold State.takeoverFrom
  repeat' first
    | with_reducible assumption
    | with_reducible apply State.raise_steady
    | with_reducible apply State.takeover_steady
    | split

theorem State.linkGoDown_steady {fx : Fixed} (s : State) (hs1 : All (Steady fx) s) :
    All (Steady fx) (State.linkGoDown s) := by
  unfold State.linkGoDown
  repeat' first
    | with_reducible assumption
    | with_reducible apply State.raise_steady
    | with_reducible apply State.setRate_steady
    | with_reducible apply State.modMirror_steady
    | with_reducible apply State.settleCheck_steady
    | with_reducible apply State.releaseMirrored_steady
    | with_reducible refine All.branch (fun _ => ?_) (fun _ => ?_)
    | intro _ _
    | fail_if_no_progress (with_reducible refine All.upd ?_ (by rfl) (by rfl) (by rfl) (by rfl) (by rfl))

theorem doMirrorConfig_steady {fx : Fixed} (b0 : Waiter) (b1 : Pkt) (b2 : List Byte) (b3 : State) (hs1 : All (Steady fx) b3) :
    All (SteadyDone fx) (doMirrorConfig b0 b1 b2 b3) := by
  unfold doMirrorConfig
  repeat' first
    | with_reducible assumption
    | with_reducible apply State.raise_steady
    | with_reducible apply ok_steady
    | with_reducible apply State.modMirror_steady
    | with_reducible apply State.linkGoDown_steady
    | with_reducible refine All.branch (fun _ => ?_) (fun _ => ?_)
    | with_reducible refine All.done ?_
    | with_reducible refine All.pair ?_
    | with_reducible refine All.pairSnd ?_
    | with_reducible refine All.mid ?_
    | with_reducible refine All.third ?_
    | intro _ _
    | fail_if_no_progress (with_reducible refine All.upd ?_ (by rfl) (by rfl) (by rfl) (by rfl) (by rfl))

theorem execMirrorConfig_steady {fx : Fixed} (p : Pkt) (s : State) (hs1 : All (Steady fx) s) :
    All (SteadyAns fx) (execMirrorConfig p s) := by
  unfold execMirrorConfig
  repeat' first
    | with_reducible assumption
    | with_reducible apply State.runCommand_steady
    | with_reducible apply doMirrorConfig_steady
    | with_reducible refine All.next ?_

theorem State.becomeSolo_steady {fx : Fixed} (s : State) (hs1 : All (Steady fx) s) :
    All (Steady fx) (State.becomeSolo s) := by
  unfold State.becomeSolo
  repeat' first
    | with_reducible assumption
    | with_reducible apply State.setSource_steady
    | with_reducible apply State.modMirror_steady
    | with_reducible apply State.settleCheck_steady
    | with_reducible apply State.dropRoleWait_steady
    | with_reducible apply State.releaseMirrored_steady
    | with_reducible refine All.branch (fun _ => ?_) (fun _ => ?_)

theorem doMirrorRole_steady {fx : Fixed} (b0 : Waiter) (b1 : Pkt) (b2 : List Byte) (b3 : State) (hs1 : All (Steady fx) b3) :
    All (SteadyDone fx) (doMirrorRole b0 b1 b2 b3) := by
  unfold doMirrorRole
  repeat' first
    | with_reducible assumption
    | with_reducible apply State.raise_steady
    | with_reducible apply ok_steady
    | with_reducible apply pendingReply_steady
    | with_reducible apply busy_steady
    | with_reducible apply State.modMirror_steady
    | with_reducible apply State.startPull_steady
    | with_reducible apply State.becomeStandby_steady
    | with_reducible apply State.becomePrimary_steady
    | with_reducible apply State.takeover_steady
    | with_reducible apply State.becomeSolo_steady
    | with_reducible refine All.branch (fun _ => ?_) (fun _ => ?_)
    | split

theorem execMirrorRole_steady {fx : Fixed} (p : Pkt) (s : State) (hs1 : All (Steady fx) s) :
    All (SteadyAns fx) (execMirrorRole p s) := by
  unfold execMirrorRole
  repeat' first
    | with_reducible assumption
    | with_reducible apply State.runCommand_steady
    | with_reducible apply doMirrorRole_steady
    | with_reducible refine All.next ?_

/-! ### Ucode -/

theorem State.setWord_steady {fx : Fixed} (s : State) (a w : Nat) (hs1 : All (Steady fx) s) :
    All (Steady fx) (State.setWord s a w) := by
  unfold State.setWord
  repeat' first
    | with_reducible assumption
    | fail_if_no_progress (with_reducible refine All.upd ?_ (by rfl) (by rfl) (by rfl) (by rfl) (by rfl))

theorem doUcodeLoad_steady {fx : Fixed} (b0 : Waiter) (b1 : Pkt) (b2 : List Byte) (b3 : State) (hs1 : All (Steady fx) b3) :
    All (SteadyDone fx) (doUcodeLoad b0 b1 b2 b3) := by
  unfold doUcodeLoad
  repeat' first
    | with_reducible assumption
    | with_reducible apply ok_steady
    | with_reducible apply busy_steady
    | with_reducible apply partialReply_steady
    | with_reducible apply State.setWord_steady
    | with_reducible refine All.branch (fun _ => ?_) (fun _ => ?_)
    | with_reducible refine All.folded ?_ (fun _ _ _ => ?_)

theorem execUcodeLoadUser_steady {fx : Fixed} (p : Pkt) (s : State) (hs1 : All (Steady fx) s) :
    All (SteadyAns fx) (execUcodeLoadUser p s) := by
  unfold execUcodeLoadUser
  repeat' first
    | with_reducible assumption
    | with_reducible apply State.runCommand_steady
    | with_reducible apply doUcodeLoad_steady
    | with_reducible refine All.next ?_

theorem State.readEntry_steady {fx : Fixed} (s : State) (q : Option Nat) (code idx : Nat) (hs1 : All (Steady fx) s) :
    All (SteadyFst fx) (State.readEntry s q code idx) := by
  unfold State.readEntry
  repeat' first
    | with_reducible assumption
    | with_reducible apply State.readMaster_steady
    | with_reducible refine All.branch (fun _ => ?_) (fun _ => ?_)
    | with_reducible exact All.none
    | with_reducible exact All.noneFst
    | with_reducible refine All.some ?_
    | with_reducible refine All.someFst ?_
    | (with_reducible apply All.fst; first | with_reducible assumption | with_reducible apply State.readMaster_steady)
    | (with_reducible refine All.ofFst (by assumption) ?_)
    | (with_reducible refine All.ofSnd (by assumption) ?_)
    | (with_reducible refine All.ofMid (by assumption) ?_)
    | (with_reducible refine All.ofThird (by assumption) ?_)
    | (with_reducible refine All.ofSome (by assumption) ?_)
    | (with_reducible refine All.ofSomeFst (by assumption) ?_)
    | (with_reducible refine All.ofOk (by assumption) ?_)
    | split
    | with_reducible refine All.pair ?_

theorem State.unitStep_steady {fx : Fixed} (s : State) (p : CmdPort) (u o r imm : Nat) (hs1 : All (Steady fx) s) :
    All (SteadyMid fx) (State.unitStep s p u o r imm) := by
  unfold State.unitStep
  repeat' first
    | with_reducible assumption
    | with_reducible apply State.modCtx_steady
    | with_reducible apply State.tick_steady
    | with_reducible apply State.sendReply_steady
    | with_reducible refine All.branch (fun _ => ?_) (fun _ => ?_)
    | (with_reducible apply All.fst; with_reducible apply State.readEntry_steady)
    | split
    | with_reducible refine All.mid ?_
    | intro _ _
    | exact All.updWf (State.modCtx_steady _ _ _ hs1) rfl hs1.cabWf (Memory.wf_write _ _ hs1.scratchWf) hs1.hostWf hs1.peerWf

theorem State.unitsStep_steady {fx : Fixed} (s : State) (p : CmdPort) (w : Nat) (hs1 : All (Steady fx) s) :
    All (SteadyThird fx) (State.unitsStep s p w) := by
  unfold State.unitsStep
  repeat' first
    | with_reducible assumption
    | with_reducible apply State.unitStep_steady
    | (with_reducible apply All.midSnd; first | with_reducible assumption | with_reducible apply State.unitStep_steady)
    | with_reducible refine All.third ?_

theorem State.ctxIdle_steady {fx : Fixed} (s : State) (p : CmdPort) (hs1 : All (Steady fx) s) :
    All (Steady fx) (State.ctxIdle s p) := by
  unfold State.ctxIdle
  repeat' first
    | with_reducible assumption
    | with_reducible apply State.modCtx_steady
    | with_reducible apply State.settlePortReset_steady
    | with_reducible apply State.settleInst_steady

theorem State.ctxEnd_steady {fx : Fixed} (s : State) (p : CmdPort) (status : Nat) (more : List Byte) (hs1 : All (Steady fx) s) :
    All (Steady fx) (State.ctxEnd s p status more) := by
  unfold State.ctxEnd
  repeat' first
    | with_reducible assumption
    | with_reducible apply State.sendReply_steady
    | with_reducible apply State.ctxIdle_steady
    | split

theorem State.ctxTrap_steady {fx : Fixed} (s : State) (p : CmdPort) (cause : Nat) (hs1 : All (Steady fx) s) :
    All (Steady fx) (State.ctxTrap s p cause) := by
  unfold State.ctxTrap
  repeat' first
    | with_reducible assumption
    | with_reducible apply State.modCtx_steady
    | with_reducible apply State.raise_steady
    | with_reducible apply State.occur_steady
    | with_reducible apply State.ctxEnd_steady
    | with_reducible refine All.branch (fun _ => ?_) (fun _ => ?_)
    | intro _ _
    | fail_if_no_progress (with_reducible refine All.upd ?_ (by rfl) (by rfl) (by rfl) (by rfl) (by rfl))

theorem State.wordLost_steady {fx : Fixed} (s : State) (src : Nat) (hs1 : All (Steady fx) s) :
    All (Steady fx) (State.wordLost s src) := by
  unfold State.wordLost
  repeat' first
    | with_reducible assumption
    | with_reducible apply State.ctxEnd_steady
    | with_reducible apply State.modCtx_steady
    | with_reducible refine All.branch (fun _ => ?_) (fun _ => ?_)

theorem State.faultOccurs_steady {fx : Fixed} (s : State) (n : Nat) (src : BitVec 13) (hs1 : All (Steady fx) s) :
    All (Steady fx) (State.faultOccurs s n src) := by
  unfold State.faultOccurs
  repeat' first
    | with_reducible assumption
    | with_reducible apply State.occurAt_steady
    | with_reducible apply State.stagedLost_steady
    | with_reducible apply State.wordLost_steady
    | with_reducible refine All.branch (fun _ => ?_) (fun _ => ?_)

theorem execFaultOccurrence_steady {fx : Fixed} (line : Fin 48) (src : BitVec 13) (s : State) (hs1 : All (Steady fx) s) :
    All (SteadyAns fx) (execFaultOccurrence line src s) := by
  unfold execFaultOccurrence
  repeat' first
    | with_reducible assumption
    | with_reducible apply State.faultOccurs_steady
    | with_reducible refine All.next ?_

theorem State.ctxLimit_steady {fx : Fixed} (s : State) (p : CmdPort) (hs1 : All (Steady fx) s) :
    All (Steady fx) (State.ctxLimit s p) := by
  unfold State.ctxLimit
  repeat' first
    | with_reducible assumption
    | with_reducible apply State.modCtx_steady
    | with_reducible apply State.ctxEnd_steady

theorem State.execWord_steady {fx : Fixed} (s : State) (p : CmdPort) (hs1 : All (Steady fx) s) :
    All (SteadyFst fx) (State.execWord s p) := by
  unfold State.execWord
  repeat' first
    | with_reducible assumption
    | with_reducible apply State.modCtx_steady
    | with_reducible apply State.unitsStep_steady
    | with_reducible apply State.ctxIdle_steady
    | with_reducible apply State.ctxEnd_steady
    | with_reducible apply State.ctxTrap_steady
    | with_reducible apply State.ctxLimit_steady
    | (with_reducible apply All.thirdSnd; first | with_reducible assumption | with_reducible apply State.unitsStep_steady)
    | split
    | (dsimp only; split)
    | with_reducible refine All.pair ?_

theorem State.stopWords_steady {fx : Fixed} (commits : Bool) (b0 : Nat) (b1 : State) (b2 : CmdPort) (hs1 : All (Steady fx) b1) :
    All (Steady fx) (State.stopWords commits b0 b1 b2) := by
  induction b0 generalizing b1 with
  | zero => exact hs1
  | succ n ih =>
    unfold State.stopWords
    have h := State.execWord_steady b1 b2 hs1
    split
    · exact All.branch (fun _ => State.ctxEnd_steady _ _ _ _ (State.modCtx_steady _ _ _ (All.ofFst ‹_› h))) fun _ =>
        All.ofFst ‹_› h
    · exact All.branch (fun _ => State.ctxEnd_steady _ _ _ _ (State.modCtx_steady _ _ _ (All.ofFst ‹_› h))) fun _ =>
        ih _ (All.ofFst ‹_› h)

theorem State.runWords_steady {fx : Fixed} (b0 : Nat) (b1 : State) (b2 : CmdPort) (hs1 : All (Steady fx) b1) :
    All (Steady fx) (State.runWords b0 b1 b2) := by
  induction b0 generalizing b1 with
  | zero => exact hs1
  | succ n ih =>
    unfold State.runWords
    have h := State.execWord_steady b1 b2 hs1
    split
    · exact All.ofFst ‹_› h
    · exact All.branch (fun _ => All.ofFst ‹_› h) fun _ => ih _ (All.ofFst ‹_› h)

theorem State.resumeCtx_steady {fx : Fixed} (s : State) (p : CmdPort) (hs1 : All (Steady fx) s) :
    All (Steady fx) (State.resumeCtx s p) := by
  unfold State.resumeCtx
  repeat' first
    | with_reducible assumption
    | with_reducible apply State.modCtx_steady
    | with_reducible apply State.stopWords_steady
    | with_reducible apply State.runWords_steady
    | with_reducible refine All.branch (fun _ => ?_) (fun _ => ?_)
    | with_reducible refine All.pair ?_
    | with_reducible refine All.pairSnd ?_
    | with_reducible refine All.mid ?_
    | with_reducible refine All.third ?_
    | intro _ _
    | fail_if_no_progress (with_reducible refine All.upd ?_ (by rfl) (by rfl) (by rfl) (by rfl) (by rfl))

theorem State.readyCtx_steady {fx : Fixed} (s : State) (p : CmdPort) (hs1 : All (Steady fx) s) :
    All (Steady fx) (State.readyCtx s p) := by
  unfold State.readyCtx
  repeat' first
    | with_reducible assumption
    | with_reducible apply State.modCtx_steady
    | with_reducible apply State.resumeCtx_steady
    | with_reducible refine All.branch (fun _ => ?_) (fun _ => ?_)

theorem doUcodeCall_steady {fx : Fixed} (b0 : Waiter) (b1 : Pkt) (b2 : List Byte) (b3 : State) (hs1 : All (Steady fx) b3) :
    All (SteadyDone fx) (doUcodeCall b0 b1 b2 b3) := by
  unfold doUcodeCall
  repeat' first
    | with_reducible assumption
    | with_reducible apply State.modCtx_steady
    | with_reducible apply State.readyCtx_steady
    | with_reducible refine All.done ?_

theorem execUcodeCall_steady {fx : Fixed} (p : Pkt) (s : State) (hs1 : All (Steady fx) s) :
    All (SteadyAns fx) (execUcodeCall p s) := by
  unfold execUcodeCall
  repeat' first
    | with_reducible assumption
    | with_reducible apply State.runCommand_steady
    | with_reducible apply doUcodeCall_steady
    | with_reducible refine All.next ?_

theorem State.resumeNext_steady {fx : Fixed} (s : State) (left : CmdPort) (hs1 : All (Steady fx) s) :
    All (Steady fx) (State.resumeNext s left) := by
  unfold State.resumeNext
  repeat' first
    | with_reducible assumption
    | with_reducible apply State.resumeCtx_steady
    | with_reducible refine All.branch (fun _ => ?_) (fun _ => ?_)
    | with_reducible exact All.none
    | with_reducible exact All.noneFst
    | with_reducible refine All.some ?_
    | with_reducible refine All.someFst ?_
    | (with_reducible refine All.ofFst (by assumption) ?_)
    | (with_reducible refine All.ofSnd (by assumption) ?_)
    | (with_reducible refine All.ofMid (by assumption) ?_)
    | (with_reducible refine All.ofThird (by assumption) ?_)
    | (with_reducible refine All.ofSome (by assumption) ?_)
    | (with_reducible refine All.ofSomeFst (by assumption) ?_)
    | (with_reducible refine All.ofOk (by assumption) ?_)
    | split

theorem State.ctxSlice_steady {fx : Fixed} (s : State) (hs1 : All (Steady fx) s) :
    All (Steady fx) (State.ctxSlice s) := by
  unfold State.ctxSlice
  repeat' first
    | with_reducible assumption
    | with_reducible apply State.modCtx_steady
    | with_reducible apply State.resumeNext_steady
    | with_reducible refine All.branch (fun _ => ?_) (fun _ => ?_)
    | with_reducible exact All.none
    | with_reducible exact All.noneFst
    | with_reducible refine All.some ?_
    | with_reducible refine All.someFst ?_
    | (with_reducible refine All.ofFst (by assumption) ?_)
    | (with_reducible refine All.ofSnd (by assumption) ?_)
    | (with_reducible refine All.ofMid (by assumption) ?_)
    | (with_reducible refine All.ofThird (by assumption) ?_)
    | (with_reducible refine All.ofSome (by assumption) ?_)
    | (with_reducible refine All.ofSomeFst (by assumption) ?_)
    | (with_reducible refine All.ofOk (by assumption) ?_)
    | split

theorem execContextSlice_steady {fx : Fixed} (s : State) (hs1 : All (Steady fx) s) :
    All (SteadyAns fx) (execContextSlice s) := by
  unfold execContextSlice
  repeat' first
    | with_reducible assumption
    | with_reducible apply State.ctxSlice_steady
    | with_reducible refine All.next ?_

theorem State.ctxResume_steady {fx : Fixed} (s : State) (p : CmdPort) (hs1 : All (Steady fx) s) :
    All (Steady fx) (State.ctxResume s p) := by
  unfold State.ctxResume
  repeat' first
    | with_reducible assumption
    | with_reducible apply State.readyCtx_steady
    | with_reducible refine All.branch (fun _ => ?_) (fun _ => ?_)

theorem execContextResume_steady {fx : Fixed} (ctx : CmdPort) (s : State) (hs1 : All (Steady fx) s) :
    All (SteadyAns fx) (execContextResume ctx s) := by
  unfold execContextResume
  repeat' first
    | with_reducible assumption
    | with_reducible apply State.ctxResume_steady
    | with_reducible refine All.next ?_

theorem State.ctxTimer_steady {fx : Fixed} (s : State) (p : CmdPort) (hs1 : All (Steady fx) s) :
    All (Steady fx) (State.ctxTimer s p) := by
  unfold State.ctxTimer
  repeat' first
    | with_reducible assumption
    | with_reducible apply State.modCtx_steady
    | with_reducible apply State.reach_steady
    | split

theorem execContextTimerExpiry_steady {fx : Fixed} (ctx : CmdPort) (s : State) (hs1 : All (Steady fx) s) :
    All (SteadyAns fx) (execContextTimerExpiry ctx s) := by
  unfold execContextTimerExpiry
  repeat' first
    | with_reducible assumption
    | with_reducible apply State.ctxTimer_steady
    | with_reducible refine All.next ?_

theorem State.ucodeLimit_steady {fx : Fixed} (s : State) (p : CmdPort) (hs1 : All (Steady fx) s) :
    All (Steady fx) (State.ucodeLimit s p) := by
  unfold State.ucodeLimit
  repeat' first
    | with_reducible assumption
    | with_reducible apply State.reach_steady
    | with_reducible apply State.ctxLimit_steady
    | with_reducible refine All.branch (fun _ => ?_) (fun _ => ?_)

theorem execUcodeLimit_steady {fx : Fixed} (ctx : CmdPort) (s : State) (hs1 : All (Steady fx) s) :
    All (SteadyAns fx) (execUcodeLimit ctx s) := by
  unfold execUcodeLimit
  repeat' first
    | with_reducible assumption
    | with_reducible apply State.ucodeLimit_steady
    | with_reducible refine All.next ?_

/-! ### CmdPorts -/

theorem State.runPacket_steady {fx : Fixed} (s : State) (op : Nat) (p : Pkt) (tn : Option Nat) (hs1 : All (Steady fx) s) :
    All (Steady fx) (State.runPacket s op p tn) := by
  unfold State.runPacket
  repeat' first
    | with_reducible assumption
    | (with_reducible refine State.runCommand_steadyOf _ _ _ wfKeyInstall doKeyInstall hs1 (fun w t u hw ho hu => ?_); exact doKeyInstall_steady w _ _ u hw (ho (.inl rfl)) hu)
    | (with_reducible refine State.runCommand_steadyOf _ _ _ wfKeyRetire doKeyRetire hs1 (fun w t u hw ho hu => ?_); exact doKeyRetire_steady w _ _ u hw hu)
    | with_reducible apply ok_steady
    | with_reducible apply State.runCommand_steady
    | with_reducible apply doNop_steady
    | with_reducible apply doIdentify_steady
    | with_reducible apply doReadState_steady
    | with_reducible apply doMonitorRead_steady
    | with_reducible apply doCounterRead_steady
    | with_reducible apply doKeyInstall_steady
    | with_reducible apply doKeyRetire_steady
    | with_reducible apply doSelftest_steady
    | with_reducible apply doFaultConfig_steady
    | with_reducible apply doFaultRelease_steady
    | with_reducible apply doTimeSet_steady
    | with_reducible apply doTimeAdjust_steady
    | with_reducible apply doTimeRead_steady
    | with_reducible apply doTsCalibrate_steady
    | with_reducible apply doTtLoad_steady
    | with_reducible apply doTtActivateAt_steady
    | with_reducible apply doTtQuery_steady
    | with_reducible apply doPortConfig_steady
    | with_reducible apply doPortStatus_steady
    | with_reducible apply doStatsRead_steady
    | with_reducible apply doDrawerOpen_steady
    | with_reducible apply State.settleCloses_steady
    | with_reducible apply doDrawerClose_steady
    | with_reducible apply doDrawerErase_steady
    | with_reducible apply doSealNow_steady
    | with_reducible apply doReplayConfig_steady
    | with_reducible apply doCabinetPause_steady
    | with_reducible apply State.settleInst_steady
    | with_reducible apply State.settleSwaps_steady
    | with_reducible apply doInstCreate_steady
    | with_reducible apply doInstResize_steady
    | with_reducible apply doQuiesce_steady
    | with_reducible apply doInstReset_steady
    | with_reducible apply doDirtyLog_steady
    | with_reducible apply doTblWrite_steady
    | with_reducible apply doTblPairWrite_steady
    | with_reducible apply doTblMove_steady
    | with_reducible apply doTblRead_steady
    | with_reducible apply doTblBulk_steady
    | with_reducible apply doGenSwap_steady
    | with_reducible apply doAgeScan_steady
    | with_reducible apply State.settleCheck_steady
    | with_reducible apply doMirrorCheck_steady
    | with_reducible apply doMirrorConfig_steady
    | with_reducible apply doMirrorRole_steady
    | with_reducible apply doUcodeLoad_steady
    | with_reducible apply doUcodeCall_steady
    | split
    | intro _ _

theorem State.runSlot_steady {fx : Fixed} (n : Nat) (s : State) (hs1 : All (Steady fx) s) :
    All (Steady fx) (State.runSlot n s) := by
  unfold State.runSlot
  repeat' first
    | with_reducible assumption
    | with_reducible apply State.runPacket_steady

theorem State.ringFetch_steady {fx : Fixed} (s : State) (rd : HostRead) (hs1 : All (Steady fx) s) :
    All (Steady fx) (State.ringFetch s rd) := by
  unfold State.ringFetch
  repeat' first
    | with_reducible assumption
    | with_reducible apply State.issueRead_steady
    | with_reducible apply State.slotUnread_steady
    | with_reducible apply State.runSlot_steady
    | split
    | fail_if_no_progress (with_reducible refine All.upd ?_ (by rfl) (by rfl) (by rfl) (by rfl) (by rfl))

theorem execCmdRingFetch_steady {fx : Fixed} (rd : HostRead) (at8 : Fin 3277) (s : State) (hs1 : All (Steady fx) s) :
    All (SteadyAns fx) (execCmdRingFetch rd at8 s) := by
  unfold execCmdRingFetch
  repeat' first
    | with_reducible assumption
    | with_reducible apply State.at__steady
    | with_reducible apply State.ringFetch_steady
    | with_reducible refine All.next ?_

theorem execReadCompletion_steady {fx : Fixed} (tag : BitVec 14) (rd : HostRead) (s : State) (hs1 : All (Steady fx) s) :
    All (SteadyAns fx) (execReadCompletion tag rd s) := by
  unfold execReadCompletion
  repeat' first
    | with_reducible assumption
    | with_reducible apply State.readEnd_steady
    | with_reducible apply State.runSlot_steady
    | with_reducible refine All.next ?_

theorem State.cmdTailWrite_steady {fx : Fixed} (s : State) (n : Nat) (v : BitVec 16) (hs1 : All (Steady fx) s) :
    All (Steady fx) (State.cmdTailWrite s n v) := by
  unfold State.cmdTailWrite
  repeat' first
    | with_reducible assumption
    | with_reducible apply State.modCmdRing_steady
    | with_reducible refine All.branch (fun _ => ?_) (fun _ => ?_)

theorem execHostCmdTailWrite_steady {fx : Fixed} (inst : Fin 64) (v : BitVec 16) (mem : List (BitVec 64 × List Byte)) (s : State) (hs1 : All (Steady fx) s) :
    All (SteadyAns fx) (execHostCmdTailWrite inst v mem s) := by
  unfold execHostCmdTailWrite
  repeat' first
    | with_reducible assumption
    | with_reducible apply State.softStore_steady
    | with_reducible apply State.cmdTailWrite_steady
    | with_reducible refine All.next ?_

theorem State.releaseHeld_steady {fx : Fixed} (s : State) (n : Nat) (hs1 : All (Steady fx) s) :
    All (Steady fx) (State.releaseHeld s n) := by
  unfold State.releaseHeld
  repeat' first
    | with_reducible assumption
    | with_reducible apply State.modCmdRing_steady
    | with_reducible apply State.ringReply_steady
    | with_reducible refine All.folded ?_ (fun _ _ _ => ?_)

theorem State.rplTailWrite_steady {fx : Fixed} (s : State) (n : Nat) (v : BitVec 16) (hs1 : All (Steady fx) s) :
    All (Steady fx) (State.rplTailWrite s n v) := by
  unfold State.rplTailWrite
  repeat' first
    | with_reducible assumption
    | with_reducible apply State.modCmdRing_steady
    | with_reducible apply State.releaseHeld_steady
    | with_reducible refine All.branch (fun _ => ?_) (fun _ => ?_)

theorem execHostRplTailWrite_steady {fx : Fixed} (inst : Fin 64) (v : BitVec 16) (s : State) (hs1 : All (Steady fx) s) :
    All (SteadyAns fx) (execHostRplTailWrite inst v s) := by
  unfold execHostRplTailWrite
  repeat' first
    | with_reducible assumption
    | with_reducible apply State.rplTailWrite_steady
    | with_reducible refine All.next ?_

theorem State.cmdCtrlReset_steady {fx : Fixed} (s : State) (n : Nat) (hs1 : All (Steady fx) s) :
    All (Steady fx) (State.cmdCtrlReset s n) := by
  unfold State.cmdCtrlReset
  repeat' first
    | with_reducible assumption
    | with_reducible apply State.settlePortReset_steady
    | with_reducible apply State.portResetRing_steady
    | with_reducible apply State.portResetCp0_steady
    | with_reducible refine All.branch (fun _ => ?_) (fun _ => ?_)

theorem execHostCmdCtrlReset_steady {fx : Fixed} (inst : Fin 64) (s : State) (hs1 : All (Steady fx) s) :
    All (SteadyAns fx) (execHostCmdCtrlReset inst s) := by
  unfold execHostCmdCtrlReset
  repeat' first
    | with_reducible assumption
    | with_reducible apply State.cmdCtrlReset_steady
    | with_reducible refine All.next ?_

theorem State.countMgmt_steady {fx : Fixed} (s : State) (frame : List Byte) (hs1 : All (Steady fx) s) :
    All (Steady fx) (State.countMgmt s frame) := by
  unfold State.countMgmt
  repeat' first
    | with_reducible assumption
    | with_reducible apply State.mgmtStat_steady
    | with_reducible refine All.branch (fun _ => ?_) (fun _ => ?_)

theorem State.cp1Frame_steady {fx : Fixed} (s : State) (frame : List Byte) (hs1 : All (Steady fx) s) :
    All (Steady fx) (State.cp1Frame s frame) := by
  unfold State.cp1Frame
  repeat' first
    | with_reducible assumption
    | with_reducible apply State.countMgmt_steady
    | with_reducible refine All.branch (fun _ => ?_) (fun _ => ?_)
    | (dsimp only; split)
    | fail_if_no_progress (with_reducible refine All.upd ?_ (by rfl) (by rfl) (by rfl) (by rfl) (by rfl))

theorem execCp1FrameReceive_steady {fx : Fixed} (frame : List Byte) (at8 : Fin 3277) (s : State) (hs1 : All (Steady fx) s) :
    All (SteadyAns fx) (execCp1FrameReceive frame at8 s) := by
  unfold execCp1FrameReceive
  repeat' first
    | with_reducible assumption
    | with_reducible apply State.at__steady
    | with_reducible apply State.cp1Frame_steady
    | with_reducible refine All.next ?_

theorem State.cp3Frame_steady {fx : Fixed} (s : State) (wire : List Byte) (hs1 : All (Steady fx) s) :
    All (Steady fx) (State.cp3Frame s wire) := by
  unfold State.cp3Frame
  repeat' first
    | with_reducible assumption
    | split
    | fail_if_no_progress (with_reducible refine All.upd ?_ (by rfl) (by rfl) (by rfl) (by rfl) (by rfl))

theorem execCp3FrameReceive_steady {fx : Fixed} (wire : List Byte) (at8 : Fin 3277) (s : State) (hs1 : All (Steady fx) s) :
    All (SteadyAns fx) (execCp3FrameReceive wire at8 s) := by
  unfold execCp3FrameReceive
  repeat' first
    | with_reducible assumption
    | with_reducible apply State.at__steady
    | with_reducible apply State.cp3Frame_steady
    | with_reducible refine All.next ?_

theorem State.cp3Break_steady {fx : Fixed} (s : State) (us : Nat) (hs1 : All (Steady fx) s) :
    All (Steady fx) (State.cp3Break s us) := by
  unfold State.cp3Break
  repeat' first
    | with_reducible assumption
    | with_reducible apply State.modCtx_steady
    | with_reducible apply State.unfence_steady
    | with_reducible refine All.branch (fun _ => ?_) (fun _ => ?_)
    | intro _ _
    | fail_if_no_progress (with_reducible refine All.upd ?_ (by rfl) (by rfl) (by rfl) (by rfl) (by rfl))

theorem execCp3Break_steady {fx : Fixed} (us : Nat) (s : State) (hs1 : All (Steady fx) s) :
    All (SteadyAns fx) (execCp3Break us s) := by
  unfold execCp3Break
  repeat' first
    | with_reducible assumption
    | with_reducible apply State.cp3Break_steady
    | with_reducible refine All.next ?_

theorem State.afterMirrored_steady {fx : Fixed} (s : State) (seq : BitVec 64) (op : Nat) (ps : List Byte) (hs1 : All (Steady fx) s) :
    All (Steady fx) (State.afterMirrored s seq op ps) := by
  unfold State.afterMirrored
  repeat' first
    | with_reducible assumption
    | with_reducible apply State.emit_steady
    | with_reducible apply State.occur_steady
    | with_reducible refine All.branch (fun _ => ?_) (fun _ => ?_)
    | with_reducible refine All.folded ?_ (fun _ _ _ => ?_)

theorem State.takeCp2_steady {fx : Fixed} (s : State) (hs1 : All (Steady fx) s) :
    All (Steady fx) (State.takeCp2 s) := by
  unfold State.takeCp2
  repeat' first
    | with_reducible assumption
    | with_reducible apply State.modMirror_steady
    | with_reducible apply State.compareHeld_steady
    | with_reducible apply State.runPacket_steady
    | with_reducible apply State.afterMirrored_steady
    | split

theorem State.commandMessage_steady {fx : Fixed} (s : State) (m : Cp2Msg) (hs1 : All (Steady fx) s) :
    All (Steady fx) (State.commandMessage s m) := by
  unfold State.commandMessage
  repeat' first
    | with_reducible assumption
    | with_reducible apply State.modMirror_steady
    | with_reducible apply State.takeCp2_steady
    | with_reducible refine All.branch (fun _ => ?_) (fun _ => ?_)

theorem execCommandMessage_steady {fx : Fixed} (seq : BitVec 64) (opcode : BitVec 16) (p : Pkt) (tN : Nat) (s : State) (hs1 : All (Steady fx) s) :
    All (SteadyAns fx) (execCommandMessage seq opcode p tN s) := by
  unfold execCommandMessage
  repeat' first
    | with_reducible assumption
    | with_reducible apply State.heardNow_steady
    | with_reducible apply State.commandMessage_steady
    | with_reducible refine All.branch (fun _ => ?_) (fun _ => ?_)
    | with_reducible refine All.pair ?_
    | with_reducible refine All.pairSnd ?_
    | with_reducible refine All.mid ?_
    | with_reducible refine All.third ?_
    | with_reducible refine All.next ?_

/-! ### Pair -/

theorem State.linkPayload_steady {fx : Fixed} (s : State) (u : Nat) (hs1 : All (Steady fx) s) :
    All (Steady fx) (State.linkPayload s u) := by
  unfold State.linkPayload
  repeat' first
    | with_reducible assumption
    | with_reducible apply State.emit_steady
    | with_reducible apply State.modMirror_steady
    | split

theorem State.linkUnit_steady {fx : Fixed} (s : State) (u : BitVec 512) (hs1 : All (Steady fx) s) :
    All (Steady fx) (State.linkUnit s u) := by
  unfold State.linkUnit
  repeat' first
    | with_reducible assumption
    | with_reducible apply State.emit_steady
    | with_reducible apply State.heardNow_steady
    | with_reducible apply State.modMirror_steady
    | with_reducible apply State.linkPayload_steady
    | with_reducible refine All.branch (fun _ => ?_) (fun _ => ?_)

theorem execLinkUnitReceive_steady {fx : Fixed} (unit : BitVec 512) (s : State) (hs1 : All (Steady fx) s) :
    All (SteadyAns fx) (execLinkUnitReceive unit s) := by
  unfold execLinkUnitReceive
  repeat' first
    | with_reducible assumption
    | with_reducible apply State.linkUnit_steady
    | with_reducible refine All.next ?_

theorem State.linkAck_steady {fx : Fixed} (s : State) (hs1 : All (Steady fx) s) :
    All (Steady fx) (State.linkAck s) := by
  unfold State.linkAck
  repeat' first
    | with_reducible assumption
    | with_reducible apply State.emit_steady
    | with_reducible apply State.modMirror_steady
    | with_reducible refine All.branch (fun _ => ?_) (fun _ => ?_)

theorem execLinkAck_steady {fx : Fixed} (s : State) (hs1 : All (Steady fx) s) :
    All (SteadyAns fx) (execLinkAck s) := by
  unfold execLinkAck
  repeat' first
    | with_reducible assumption
    | with_reducible apply State.linkAck_steady
    | with_reducible refine All.next ?_

theorem State.linkDownBy_steady {fx : Fixed} (s : State) (c : LinkDownCause) (hs1 : All (Steady fx) s) :
    All (Steady fx) (State.linkDownBy s c) := by
  unfold State.linkDownBy
  repeat' first
    | with_reducible assumption
    | with_reducible apply State.reach_steady
    | with_reducible apply State.linkGoDown_steady
    | with_reducible refine All.branch (fun _ => ?_) (fun _ => ?_)
    | (with_reducible refine All.ofFst (by assumption) ?_)
    | (with_reducible refine All.ofSnd (by assumption) ?_)
    | (with_reducible refine All.ofMid (by assumption) ?_)
    | (with_reducible refine All.ofThird (by assumption) ?_)
    | (with_reducible refine All.ofSome (by assumption) ?_)
    | (with_reducible refine All.ofSomeFst (by assumption) ?_)
    | (with_reducible refine All.ofOk (by assumption) ?_)
    | split

theorem execDovetailLinkDown_steady {fx : Fixed} (cause : LinkDownCause) (s : State) (hs1 : All (Steady fx) s) :
    All (SteadyAns fx) (execDovetailLinkDown cause s) := by
  unfold execDovetailLinkDown
  repeat' first
    | with_reducible assumption
    | with_reducible apply State.linkDownBy_steady
    | with_reducible refine All.next ?_

theorem State.linkComesUp_steady {fx : Fixed} (s : State) (dPs : Nat) (hs1 : All (Steady fx) s) :
    All (Steady fx) (State.linkComesUp s dPs) := by
  unfold State.linkComesUp
  repeat' first
    | with_reducible assumption
    | with_reducible apply State.raise_steady
    | with_reducible apply State.modMirror_steady
    | with_reducible refine All.branch (fun _ => ?_) (fun _ => ?_)

theorem execDovetailLinkUp_steady {fx : Fixed} (dPs : Nat) (s : State) (hs1 : All (Steady fx) s) :
    All (SteadyAns fx) (execDovetailLinkUp dPs s) := by
  unfold execDovetailLinkUp
  repeat' first
    | with_reducible assumption
    | with_reducible apply State.linkComesUp_steady
    | with_reducible refine All.next ?_

theorem State.sendState_steady {fx : Fixed} (s : State) (hs1 : All (Steady fx) s) :
    All (Steady fx) (State.sendState s) := by
  unfold State.sendState
  repeat' first
    | with_reducible assumption
    | with_reducible apply State.emit_steady
    | with_reducible refine All.branch (fun _ => ?_) (fun _ => ?_)

theorem State.stateMessage_steady {fx : Fixed} (s : State) (role : Role) (pairId : BitVec 128) (seq : BitVec 64) (steps : BitVec 8) (hs1 : All (Steady fx) s) :
    All (Steady fx) (State.stateMessage s role pairId seq steps) := by
  unfold State.stateMessage
  repeat' first
    | with_reducible assumption
    | with_reducible apply State.raise_steady
    | with_reducible apply State.modMirror_steady
    | with_reducible apply State.sendDigests_steady
    | with_reducible apply State.startPull_steady
    | with_reducible apply State.compareHeld_steady
    | with_reducible apply State.becomeStandby_steady
    | with_reducible refine All.branch (fun _ => ?_) (fun _ => ?_)

theorem execStateMessage_steady {fx : Fixed} (role : Role) (pairId : BitVec 128) (seq : BitVec 64) (stepCount : BitVec 8) (s : State) (hs1 : All (Steady fx) s) :
    All (SteadyAns fx) (execStateMessage role pairId seq stepCount s) := by
  unfold execStateMessage
  repeat' first
    | with_reducible assumption
    | with_reducible apply State.heardNow_steady
    | with_reducible apply State.stateMessage_steady
    | with_reducible refine All.branch (fun _ => ?_) (fun _ => ?_)
    | with_reducible refine All.next ?_

theorem State.replyMessage_steady {fx : Fixed} (s : State) (seq : BitVec 64) (status : Nat) (isFinal : Bool) (hs1 : All (Steady fx) s) :
    All (Steady fx) (State.replyMessage s seq status isFinal) := by
  unfold State.replyMessage
  repeat' first
    | with_reducible assumption
    | with_reducible apply State.raise_steady
    | with_reducible apply State.modMirror_steady
    | with_reducible apply State.releaseMirrored_steady
    | split
    | (dsimp only; split)

theorem execReplyMessage_steady {fx : Fixed} (seq : BitVec 64) (status : BitVec 8) (isFinal : Bool) (s : State) (hs1 : All (Steady fx) s) :
    All (SteadyAns fx) (execReplyMessage seq status isFinal s) := by
  unfold execReplyMessage
  repeat' first
    | with_reducible assumption
    | with_reducible apply State.heardNow_steady
    | with_reducible apply State.replyMessage_steady
    | with_reducible refine All.branch (fun _ => ?_) (fun _ => ?_)
    | with_reducible refine All.next ?_

theorem State.armMirrored_steady {fx : Fixed} (s : State) (amount : Int) (steps : BitVec 8) (hs1 : All (Steady fx) s) :
    All (Steady fx) (State.armMirrored s amount steps) := by
  unfold State.armMirrored
  repeat' first
    | with_reducible assumption
    | with_reducible apply State.modMirror_steady
    | intro _ _
    | fail_if_no_progress (with_reducible refine All.upd ?_ (by rfl) (by rfl) (by rfl) (by rfl) (by rfl))

theorem State.lockLoop_steady {fx : Fixed} (s : State) (offset : Int) (hs1 : All (Steady fx) s) :
    All (Steady fx) (State.lockLoop s offset) := by
  unfold State.lockLoop
  repeat' first
    | with_reducible assumption
    | with_reducible apply State.setRate_steady
    | with_reducible apply State.modMirror_steady
    | intro _ _
    | fail_if_no_progress (with_reducible refine All.upd ?_ (by rfl) (by rfl) (by rfl) (by rfl) (by rfl))

theorem State.timeMessage_steady {fx : Fixed} (s : State) (t1 : Nat) (steps : BitVec 8) (hs1 : All (Steady fx) s) :
    All (Steady fx) (State.timeMessage s t1 steps) := by
  unfold State.timeMessage
  repeat' first
    | with_reducible assumption
    | with_reducible apply State.modMirror_steady
    | with_reducible apply State.settlePull_steady
    | with_reducible apply State.armMirrored_steady
    | with_reducible apply State.lockLoop_steady
    | with_reducible refine All.branch (fun _ => ?_) (fun _ => ?_)
    | split

theorem execTimeMessage_steady {fx : Fixed} (t1 : Nat) (stepCount : BitVec 8) (at8 : Fin 3277) (s : State) (hs1 : All (Steady fx) s) :
    All (SteadyAns fx) (execTimeMessage t1 stepCount at8 s) := by
  unfold execTimeMessage
  repeat' first
    | with_reducible assumption
    | with_reducible apply State.at__steady
    | with_reducible apply State.heardNow_steady
    | with_reducible apply State.timeMessage_steady
    | with_reducible refine All.branch (fun _ => ?_) (fun _ => ?_)
    | with_reducible refine All.next ?_

theorem State.timeMessageSend_steady {fx : Fixed} (s : State) (hs1 : All (Steady fx) s) :
    All (Steady fx) (State.timeMessageSend s) := by
  unfold State.timeMessageSend
  repeat' first
    | with_reducible assumption
    | with_reducible apply State.emit_steady
    | with_reducible apply State.modMirror_steady
    | with_reducible refine All.branch (fun _ => ?_) (fun _ => ?_)

theorem execTimeMessageSend_steady {fx : Fixed} (at8 : Fin 3277) (s : State) (hs1 : All (Steady fx) s) :
    All (SteadyAns fx) (execTimeMessageSend at8 s) := by
  unfold execTimeMessageSend
  repeat' first
    | with_reducible assumption
    | with_reducible apply State.at__steady
    | with_reducible apply State.timeMessageSend_steady
    | with_reducible refine All.next ?_

theorem State.stepMessage_steady {fx : Fixed} (s : State) (amount : Int) (steps : BitVec 8) (hs1 : All (Steady fx) s) :
    All (Steady fx) (State.stepMessage s amount steps) := by
  unfold State.stepMessage
  repeat' first
    | with_reducible assumption
    | with_reducible apply State.armMirrored_steady
    | with_reducible refine All.branch (fun _ => ?_) (fun _ => ?_)

theorem execStepMessage_steady {fx : Fixed} (amount : Int) (stepCount : BitVec 8) (s : State) (hs1 : All (Steady fx) s) :
    All (SteadyAns fx) (execStepMessage amount stepCount s) := by
  unfold execStepMessage
  repeat' first
    | with_reducible assumption
    | with_reducible apply State.heardNow_steady
    | with_reducible apply State.stepMessage_steady
    | with_reducible refine All.branch (fun _ => ?_) (fun _ => ?_)
    | with_reducible refine All.next ?_

theorem State.feedMessage_steady {fx : Fixed} (s : State) (f : Nat) (c : FeedChange) (hs1 : All (Steady fx) s) :
    All (Steady fx) (State.feedMessage s f c) := by
  unfold State.feedMessage
  repeat' first
    | with_reducible assumption
    | with_reducible apply State.applyFeed_steady
    | with_reducible refine All.branch (fun _ => ?_) (fun _ => ?_)

theorem execFeedMessage_steady {fx : Fixed} (feed : Fin 4096) (change : FeedChange) (s : State) (hs1 : All (Steady fx) s) :
    All (SteadyAns fx) (execFeedMessage feed change s) := by
  unfold execFeedMessage
  repeat' first
    | with_reducible assumption
    | with_reducible apply State.heardNow_steady
    | with_reducible apply State.feedMessage_steady
    | with_reducible refine All.branch (fun _ => ?_) (fun _ => ?_)
    | with_reducible refine All.next ?_

theorem State.digestMessage_steady {fx : Fixed} (s : State) (r : Fin 19) (seq : BitVec 64) (digest : BitVec 32) (hs1 : All (Steady fx) s) :
    All (Steady fx) (State.digestMessage s r seq digest) := by
  unfold State.digestMessage
  repeat' first
    | with_reducible assumption
    | with_reducible apply State.modMirror_steady
    | with_reducible apply State.settlePull_steady
    | with_reducible apply State.compareRegion_steady
    | with_reducible refine All.branch (fun _ => ?_) (fun _ => ?_)

theorem execDigestMessage_steady {fx : Fixed} (region : Fin 19) (seq : BitVec 64) (digest : BitVec 32) (s : State) (hs1 : All (Steady fx) s) :
    All (SteadyAns fx) (execDigestMessage region seq digest s) := by
  unfold execDigestMessage
  repeat' first
    | with_reducible assumption
    | with_reducible apply State.heardNow_steady
    | with_reducible apply State.digestMessage_steady
    | with_reducible refine All.branch (fun _ => ?_) (fun _ => ?_)
    | with_reducible refine All.next ?_

theorem State.digestSend_steady {fx : Fixed} (s : State) (r : Nat) (hs1 : All (Steady fx) s) :
    All (Steady fx) (State.digestSend s r) := by
  unfold State.digestSend
  repeat' first
    | with_reducible assumption
    | with_reducible apply State.reach_steady
    | with_reducible apply State.modMirror_steady
    | with_reducible apply State.sendDigest_steady
    | with_reducible refine All.branch (fun _ => ?_) (fun _ => ?_)

theorem execDigestSend_steady {fx : Fixed} (region : Fin 19) (s : State) (hs1 : All (Steady fx) s) :
    All (SteadyAns fx) (execDigestSend region s) := by
  unfold execDigestSend
  repeat' first
    | with_reducible assumption
    | with_reducible apply State.digestSend_steady
    | with_reducible refine All.next ?_

theorem State.pullReq_steady {fx : Fixed} (s : State) (q : PullReq) (hs1 : All (Steady fx) s) :
    All (Steady fx) (State.pullReq s q) := by
  unfold State.pullReq
  repeat' first
    | with_reducible assumption
    | with_reducible apply State.emit_steady
    | with_reducible apply State.sendDigest_steady
    | with_reducible apply State.regionReported_steady
    | with_reducible refine All.folded ?_ (fun _ _ _ => ?_)
    | split

theorem execPullReq_steady {fx : Fixed} (req : PullReq) (s : State) (hs1 : All (Steady fx) s) :
    All (SteadyAns fx) (execPullReq req s) := by
  unfold execPullReq
  repeat' first
    | with_reducible assumption
    | with_reducible apply State.heardNow_steady
    | with_reducible apply State.pullReq_steady
    | with_reducible refine All.branch (fun _ => ?_) (fun _ => ?_)
    | with_reducible refine All.next ?_

theorem State.applyGenPull_steady {fx : Fixed} (s : State) (hs1 : All (Steady fx) s) :
    All (Steady fx) (State.applyGenPull s) := by
  unfold State.applyGenPull
  repeat' first
    | with_reducible assumption
    | with_reducible apply State.emit_steady
    | with_reducible apply State.startSwap_steady
    | with_reducible apply State.modMirror_steady
    | with_reducible refine All.branch (fun _ => ?_) (fun _ => ?_)
    | with_reducible exact All.none
    | with_reducible exact All.noneFst
    | with_reducible refine All.some ?_
    | with_reducible refine All.someFst ?_
    | (with_reducible refine All.ofFst (by assumption) ?_)
    | (with_reducible refine All.ofSnd (by assumption) ?_)
    | (with_reducible refine All.ofMid (by assumption) ?_)
    | (with_reducible refine All.ofThird (by assumption) ?_)
    | (with_reducible refine All.ofSome (by assumption) ?_)
    | (with_reducible refine All.ofSomeFst (by assumption) ?_)
    | (with_reducible refine All.ofOk (by assumption) ?_)
    | split

theorem State.pullData_steady {fx : Fixed} (s : State) (d : PullData) (hs1 : All (Steady fx) s) :
    All (Steady fx) (State.pullData s d) := by
  unfold State.pullData
  repeat' first
    | with_reducible assumption
    | with_reducible apply State.modMirror_steady
    | with_reducible apply State.regionReported_steady
    | with_reducible apply State.settlePull_steady
    | with_reducible apply State.pullEntries_steady
    | with_reducible apply State.pullBlocks_steady
    | with_reducible apply State.pullPorts_steady
    | with_reducible apply State.pullFeed_steady
    | with_reducible apply State.applyGenPull_steady
    | with_reducible refine All.branch (fun _ => ?_) (fun _ => ?_)
    | (with_reducible refine All.ofFst (by assumption) ?_)
    | (with_reducible refine All.ofSnd (by assumption) ?_)
    | (with_reducible refine All.ofMid (by assumption) ?_)
    | (with_reducible refine All.ofThird (by assumption) ?_)
    | (with_reducible refine All.ofSome (by assumption) ?_)
    | (with_reducible refine All.ofSomeFst (by assumption) ?_)
    | (with_reducible refine All.ofOk (by assumption) ?_)
    | split

theorem execPullData_steady {fx : Fixed} (data : PullData) (s : State) (hs1 : All (Steady fx) s) :
    All (SteadyAns fx) (execPullData data s) := by
  unfold execPullData
  repeat' first
    | with_reducible assumption
    | with_reducible apply State.heardNow_steady
    | with_reducible apply State.pullData_steady
    | with_reducible refine All.branch (fun _ => ?_) (fun _ => ?_)
    | with_reducible refine All.next ?_

theorem State.tokenMessage_steady {fx : Fixed} (s : State) (t : Token) (hs1 : All (Steady fx) s) :
    All (Steady fx) (State.tokenMessage s t) := by
  unfold State.tokenMessage
  repeat' first
    | with_reducible assumption
    | with_reducible apply State.latchMark_steady
    | with_reducible apply State.sendToken_steady
    | with_reducible apply State.modMirror_steady
    | with_reducible apply State.settleCheck_steady
    | split
    | intro _ _
    | fail_if_no_progress (with_reducible refine All.upd ?_ (by rfl) (by rfl) (by rfl) (by rfl) (by rfl))

theorem execTokenMessage_steady {fx : Fixed} (token : Token) (s : State) (hs1 : All (Steady fx) s) :
    All (SteadyAns fx) (execTokenMessage token s) := by
  unfold execTokenMessage
  repeat' first
    | with_reducible assumption
    | with_reducible apply State.heardNow_steady
    | with_reducible apply State.tokenMessage_steady
    | with_reducible refine All.branch (fun _ => ?_) (fun _ => ?_)
    | with_reducible refine All.done ?_
    | with_reducible refine All.next ?_

theorem execSafeMessage_steady {fx : Fixed} (s : State) (hs1 : All (Steady fx) s) :
    All (SteadyAns fx) (execSafeMessage s) := by
  unfold execSafeMessage
  repeat' first
    | with_reducible assumption
    | with_reducible apply State.heardNow_steady
    | with_reducible apply State.takeoverFrom_steady
    | with_reducible refine All.branch (fun _ => ?_) (fun _ => ?_)
    | with_reducible refine All.next ?_

theorem State.peerFault_steady {fx : Fixed} (s : State) (hs1 : All (Steady fx) s) :
    All (Steady fx) (State.peerFault s) := by
  unfold State.peerFault
  repeat' first
    | with_reducible assumption
    | with_reducible apply State.occur_steady
    | with_reducible apply State.takeoverFrom_steady
    | fail_if_no_progress (with_reducible refine All.upd ?_ (by rfl) (by rfl) (by rfl) (by rfl) (by rfl))

theorem execPeerFaultAssert_steady {fx : Fixed} (s : State) (hs1 : All (Steady fx) s) :
    All (SteadyAns fx) (execPeerFaultAssert s) := by
  unfold execPeerFaultAssert
  repeat' first
    | with_reducible assumption
    | with_reducible apply State.peerFault_steady
    | with_reducible refine All.next ?_

theorem State.holdExpiry_steady {fx : Fixed} (s : State) (hs1 : All (Steady fx) s) :
    All (Steady fx) (State.holdExpiry s) := by
  unfold State.holdExpiry
  repeat' first
    | with_reducible assumption
    | with_reducible apply State.reach_steady
    | with_reducible apply State.modMirror_steady
    | with_reducible apply State.takeoverFrom_steady
    | with_reducible refine All.branch (fun _ => ?_) (fun _ => ?_)
    | split

theorem execLinkLossHoldExpiry_steady {fx : Fixed} (s : State) (hs1 : All (Steady fx) s) :
    All (SteadyAns fx) (execLinkLossHoldExpiry s) := by
  unfold execLinkLossHoldExpiry
  repeat' first
    | with_reducible assumption
    | with_reducible apply State.holdExpiry_steady
    | with_reducible refine All.next ?_

/-! ### Boot -/

/-- Phase 1 loads the owner slot from the fuses. -/
theorem State.bootMonitors_steady {fx : Fixed} (s : State) (b : Board) (hs1 : All (Steady { fx with owner := none }) s) :
    All (Steady { fx with owner := fx.env.ownerBytes }) (State.bootMonitors s b) := by
  refine ⟨hs1.env, hs1.pending, ?_, ?_, twf_tset _ _ _ hs1.keysWf, hs1.hostWf, hs1.peerWf, hs1.cabWf, hs1.scratchWf⟩
  · exact (congrArg KeySlot.key (tget_tset_same _ 0 _ hs1.keysWf)).trans (congrArg EnvState.ownerBytes hs1.env)
  · intro o k
    by_cases e : k = 0
    · subst e
      exact (congrArg KeySlot.key (tget_tset_same _ 0 _ hs1.keysWf)).trans ((congrArg EnvState.ownerBytes hs1.env).trans o)
    · exact (congrArg KeySlot.key (tget_tset_other _ _ _ e)).trans (hs1.keys rfl k)

theorem State.bootFlash_steady {fx : Fixed} (s : State) (b : Board) (hs1 : All (Steady fx) s) :
    All (Steady fx) (State.bootFlash s b) := by
  unfold State.bootFlash
  repeat' first
    | with_reducible assumption
    | split
    | fail_if_no_progress (with_reducible refine All.upd ?_ (by rfl) (by rfl) (by rfl) (by rfl) (by rfl))

theorem State.bootIslands_steady {fx : Fixed} (s : State) (hs1 : All (Steady fx) s) :
    All (Steady fx) (State.bootIslands s) := by
  unfold State.bootIslands
  repeat' first
    | with_reducible assumption
    | with_reducible apply State.startTraining_steady
    | fail_if_no_progress (with_reducible refine All.upd ?_ (by rfl) (by rfl) (by rfl) (by rfl) (by rfl))

theorem State.bootDram_steady {fx : Fixed} (s : State) (ds : List Dimm) (hs1 : All (Steady fx) s) :
    All (Steady fx) (State.bootDram s ds) := by
  unfold State.bootDram
  repeat' first
    | with_reducible assumption
    | with_reducible apply State.modChan_steady
    | with_reducible apply State.raise_steady
    | with_reducible refine All.branch (fun _ => ?_) (fun _ => ?_)
    | with_reducible refine All.folded ?_ (fun _ _ _ => ?_)
    | intro _ _
    | fail_if_no_progress (with_reducible refine All.upd ?_ (by rfl) (by rfl) (by rfl) (by rfl) (by rfl))

/-- A power cycle empties the owner slot with every other. -/
theorem State.powerCycle_steady {fx : Fixed} (s : State) (hs1 : All (Steady fx) s) :
    All (Steady { fx with owner := none }) (State.powerCycle s) := by
  exact ⟨hs1.env, hs1.pending, rfl, fun _ _ => rfl, rfl, hs1.hostWf, hs1.peerWf, rfl, rfl⟩

theorem State.serdesGroup_steady {fx : Fixed} (s : State) (g : Nat) (hs1 : All (Steady fx) s) :
    All (Steady fx) (State.serdesGroup s g) := by
  unfold State.serdesGroup
  repeat' first
    | with_reducible assumption
    | with_reducible apply State.modMacro_steady
    | with_reducible refine All.branch (fun _ => ?_) (fun _ => ?_)
    | with_reducible refine All.folded ?_ (fun _ _ _ => ?_)
    | intro _ _
    | fail_if_no_progress (with_reducible refine All.upd ?_ (by rfl) (by rfl) (by rfl) (by rfl) (by rfl))

theorem execSerdesGroupUp_steady {fx : Fixed} (g : Fin 8) (s : State) (hs1 : All (Steady fx) s) :
    All (SteadyAns fx) (execSerdesGroupUp g s) := by
  unfold execSerdesGroupUp
  repeat' first
    | with_reducible assumption
    | with_reducible apply State.serdesGroup_steady
    | with_reducible refine All.next ?_

theorem State.startupComplete_steady {fx : Fixed} (s : State) (hs1 : All (Steady fx) s) :
    All (Steady fx) (State.startupComplete s) := by
  unfold State.startupComplete
  repeat' first
    | with_reducible assumption
    | with_reducible refine All.branch (fun _ => ?_) (fun _ => ?_)
    | intro _ _
    | fail_if_no_progress (with_reducible refine All.upd ?_ (by rfl) (by rfl) (by rfl) (by rfl) (by rfl))

theorem execStartupComplete_steady {fx : Fixed} (s : State) (hs1 : All (Steady fx) s) :
    All (SteadyAns fx) (execStartupComplete s) := by
  unfold execStartupComplete
  repeat' first
    | with_reducible assumption
    | with_reducible apply State.startupComplete_steady
    | with_reducible refine All.next ?_

theorem State.warmKeep_steady {fx : Fixed} (s : State) (hs1 : All (Steady fx) s) :
    All (Steady fx) (State.warmKeep s) := by
  exact ⟨hs1.env, hs1.pending, hs1.owner, hs1.keys, hs1.keysWf, hs1.hostWf, hs1.peerWf, hs1.cabWf, rfl⟩

theorem State.warmReset_steady {fx : Fixed} (s : State) (hs1 : All (Steady fx) s) :
    All (Steady fx) (State.warmReset s) := by
  unfold State.warmReset
  repeat' first
    | with_reducible assumption
    | with_reducible apply State.cabinetSafe_steady
    | with_reducible apply State.stopTransmit_steady
    | with_reducible apply State.warmKeep_steady
    | with_reducible refine All.branch (fun _ => ?_) (fun _ => ?_)

theorem execWarmReset_steady {fx : Fixed} (at8 : Fin 3277) (s : State) (hs1 : All (Steady fx) s) :
    All (SteadyAns fx) (execWarmReset at8 s) := by
  unfold execWarmReset
  repeat' first
    | with_reducible assumption
    | with_reducible apply State.at__steady
    | with_reducible apply State.warmReset_steady
    | with_reducible refine All.next ?_

theorem State.restoreTables_steady {fx : Fixed} (s : State) (hs1 : All (Steady fx) s) :
    All (Steady fx) (State.restoreTables s) := by
  unfold State.restoreTables
  repeat' first
    | with_reducible assumption
    | with_reducible apply State.armGates_steady
    | with_reducible refine All.folded ?_ (fun _ _ _ => ?_)
    | intro _ _
    | fail_if_no_progress (with_reducible refine All.upd ?_ (by rfl) (by rfl) (by rfl) (by rfl) (by rfl))

theorem State.restorePort_steady {fx : Fixed} (s : State) (lp : Nat) (hs1 : All (Steady fx) s) :
    All (Steady fx) (State.restorePort s lp) := by
  unfold State.restorePort
  repeat' first
    | with_reducible assumption
    | with_reducible apply State.bringup_steady
    | with_reducible apply State.powerOff_steady
    | with_reducible refine All.branch (fun _ => ?_) (fun _ => ?_)

theorem State.warmRelease_steady {fx : Fixed} (s : State) (drifts : List (Fin 16 × List Int)) (hs1 : All (Steady fx) s) :
    All (Steady fx) (State.warmRelease s drifts) := by
  unfold State.warmRelease
  repeat' first
    | with_reducible assumption
    | with_reducible apply State.selfRefresh_steady
    | with_reducible apply State.calibrateRanks_steady
    | with_reducible apply State.bootIslands_steady
    | with_reducible apply State.restoreTables_steady
    | with_reducible apply State.restorePort_steady
    | with_reducible refine All.branch (fun _ => ?_) (fun _ => ?_)
    | with_reducible refine All.folded ?_ (fun _ _ _ => ?_)
    | intro _ _
    | fail_if_no_progress (with_reducible refine All.upd ?_ (by rfl) (by rfl) (by rfl) (by rfl) (by rfl))

theorem execWarmResetRelease_steady {fx : Fixed} (drifts : List (Fin 16 × List Int)) (s : State) (hs1 : All (Steady fx) s) :
    All (SteadyAns fx) (execWarmResetRelease drifts s) := by
  unfold execWarmResetRelease
  repeat' first
    | with_reducible assumption
    | with_reducible apply State.warmRelease_steady
    | with_reducible refine All.branch (fun _ => ?_) (fun _ => ?_)
    | with_reducible refine All.next ?_

theorem State.ownerStatus_steady {fx : Fixed} (s : State) (hs1 : All (Steady fx) s) :
    All (Steady fx) (State.ownerStatus s) := by
  unfold State.ownerStatus
  repeat' first
    | with_reducible assumption
    | split
    | intro _ _
    | fail_if_no_progress (with_reducible refine All.upd ?_ (by rfl) (by rfl) (by rfl) (by rfl) (by rfl))

theorem execOwnerStatus_steady {fx : Fixed} (s : State) (hs1 : All (Steady fx) s) :
    All (SteadyAns fx) (execOwnerStatus s) := by
  unfold execOwnerStatus
  repeat' first
    | with_reducible assumption
    | with_reducible apply State.ownerStatus_steady
    | with_reducible refine All.next ?_

theorem State.bootStatus_steady {fx : Fixed} (s : State) (hs1 : All (Steady fx) s) :
    All (Steady fx) (State.bootStatus s) := by
  unfold State.bootStatus
  repeat' first
    | with_reducible assumption
    | fail_if_no_progress (with_reducible refine All.upd ?_ (by rfl) (by rfl) (by rfl) (by rfl) (by rfl))

theorem execBootStatus_steady {fx : Fixed} (s : State) (hs1 : All (Steady fx) s) :
    All (SteadyAns fx) (execBootStatus s) := by
  unfold execBootStatus
  repeat' first
    | with_reducible assumption
    | with_reducible apply State.bootStatus_steady
    | with_reducible refine All.next ?_

/-! ### Registers -/

theorem State.cmdRegWrite_steady {fx : Fixed} (s : State) (n off : Nat) (v : BitVec 64) (hs1 : All (Steady fx) s) :
    All (Steady fx) (State.cmdRegWrite s n off v) := by
  unfold State.cmdRegWrite
  repeat' first
    | with_reducible assumption
    | with_reducible apply State.modCmdRing_steady
    | with_reducible apply State.cmdTailWrite_steady
    | with_reducible apply State.rplTailWrite_steady
    | with_reducible apply State.cmdCtrlReset_steady
    | with_reducible refine All.branch (fun _ => ?_) (fun _ => ?_)

theorem State.dmaRegWrite_steady {fx : Fixed} (s : State) (r off n : Nat) (v : BitVec 64) (hs1 : All (Steady fx) s) :
    All (Steady fx) (State.dmaRegWrite s r off n v) := by
  unfold State.dmaRegWrite
  repeat' first
    | with_reducible assumption
    | with_reducible apply State.modDma_steady
    | with_reducible apply State.dmaCtrl_steady
    | with_reducible apply State.dmaTail_steady
    | with_reducible apply State.circRpos_steady
    | with_reducible refine All.branch (fun _ => ?_) (fun _ => ?_)

theorem State.routeWrite_steady {fx : Fixed} (s : State) (k v : Nat) (hs1 : All (Steady fx) s) :
    All (Steady fx) (State.routeWrite s k v) := by
  unfold State.routeWrite
  repeat' first
    | with_reducible assumption
    | with_reducible apply State.modEvt_steady

theorem State.stageWrite_steady {fx : Fixed} (s : State) (n lo w at_ v : Nat) (hs1 : All (Steady fx) s) :
    All (Steady fx) (State.stageWrite s n lo w at_ v) := by
  unfold State.stageWrite
  repeat' first
    | with_reducible assumption
    | with_reducible apply State.modInst_steady
    | with_reducible refine All.branch (fun _ => ?_) (fun _ => ?_)

theorem State.regPut_steady {fx : Fixed} (s : State) (r : BarReg) (v : BitVec 64) (hs1 : All (Steady fx) s) :
    All (Steady fx) (State.regPut s r v) := by
  unfold State.regPut
  repeat' first
    | with_reducible assumption
    | with_reducible apply State.modDrawer_steady
    | with_reducible apply State.modChan_steady
    | with_reducible apply State.modSample_steady
    | with_reducible apply State.modLine_steady
    | with_reducible apply State.gasp_steady
    | with_reducible apply State.timeLatch_steady
    | with_reducible apply State.rposWrite_steady
    | with_reducible apply State.release_steady
    | with_reducible apply State.winCommit_steady
    | with_reducible apply State.pmcCtr_steady
    | with_reducible apply State.pmcCfg_steady
    | with_reducible apply State.pmcMark_steady
    | with_reducible apply State.pmcSweep_steady
    | with_reducible apply State.cmdRegWrite_steady
    | with_reducible apply State.dmaRegWrite_steady
    | with_reducible apply State.routeWrite_steady
    | with_reducible apply State.stageWrite_steady
    | split
    | intro _ _
    | fail_if_no_progress (with_reducible refine All.upd ?_ (by rfl) (by rfl) (by rfl) (by rfl) (by rfl))

theorem State.registerWrite_steady {fx : Fixed} (s : State) (a : Nat) (size : AccessSize) (v : BitVec 64) (hs1 : All (Steady fx) s) :
    All (Steady fx) (State.registerWrite s a size v) := by
  unfold State.registerWrite
  repeat' first
    | with_reducible assumption
    | with_reducible apply State.emit_steady
    | with_reducible apply State.regPut_steady
    | split

theorem execRegisterWrite_steady {fx : Fixed} (addr : BitVec 26) (size : AccessSize) (v : BitVec 64) (s : State) (hs1 : All (Steady fx) s) :
    All (SteadyAns fx) (execRegisterWrite addr size v s) := by
  unfold execRegisterWrite
  repeat' first
    | with_reducible assumption
    | with_reducible apply State.registerWrite_steady
    | with_reducible refine All.next ?_

/-! ### Rounds -/

theorem State.closeSlots_steady {fx : Fixed} (s : State) (hs1 : All (Steady fx) s) :
    All (Steady fx) (State.closeSlots s) := by
  unfold State.closeSlots
  repeat' first
    | with_reducible assumption
    | with_reducible apply State.slotCount_steady
    | with_reducible refine All.folded ?_ (fun _ _ _ => ?_)
    | intro _ _
    | fail_if_no_progress (with_reducible refine All.upd ?_ (by rfl) (by rfl) (by rfl) (by rfl) (by rfl))

theorem State.closeEngine_steady {fx : Fixed} (s : State) (hs1 : All (Steady fx) s) :
    All (Steady fx) (State.closeEngine s) := by
  unfold State.closeEngine
  repeat' first
    | with_reducible assumption
    | with_reducible apply State.addCtr_steady
    | with_reducible refine All.branch (fun _ => ?_) (fun _ => ?_)
    | fail_if_no_progress (with_reducible refine All.upd ?_ (by rfl) (by rfl) (by rfl) (by rfl) (by rfl))

theorem State.closeRound_steady {fx : Fixed} (s : State) (hs1 : All (Steady fx) s) :
    All (Steady fx) (State.closeRound s) := by
  unfold State.closeRound
  repeat' first
    | with_reducible assumption
    | with_reducible apply State.settleRound_steady
    | with_reducible apply State.settlePasses_steady
    | with_reducible apply State.closeSlots_steady
    | with_reducible apply State.closeEngine_steady
    | with_reducible refine All.branch (fun _ => ?_) (fun _ => ?_)
    | with_reducible refine All.folded ?_ (fun _ _ _ => ?_)
    | intro _ _
    | fail_if_no_progress (with_reducible refine All.upd ?_ (by rfl) (by rfl) (by rfl) (by rfl) (by rfl))

theorem State.roundBoundary_steady {fx : Fixed} (s : State) (hs1 : All (Steady fx) s) :
    All (Steady fx) (State.roundBoundary s) := by
  unfold State.roundBoundary
  repeat' first
    | with_reducible assumption
    | with_reducible apply State.settleGates_steady
    | with_reducible apply State.advanceTime_steady
    | with_reducible apply State.applyRates_steady
    | with_reducible apply State.settleLatch_steady
    | with_reducible apply State.sendState_steady
    | with_reducible apply State.applyGenPull_steady
    | with_reducible apply State.closeRound_steady
    | with_reducible refine All.branch (fun _ => ?_) (fun _ => ?_)
    | with_reducible refine All.pair ?_
    | with_reducible refine All.pairSnd ?_
    | with_reducible refine All.mid ?_
    | with_reducible refine All.third ?_
    | fail_if_no_progress (with_reducible refine All.upd ?_ (by rfl) (by rfl) (by rfl) (by rfl) (by rfl))

theorem execRoundBoundary_steady {fx : Fixed} (s : State) (hs1 : All (Steady fx) s) :
    All (SteadyAns fx) (execRoundBoundary s) := by
  unfold execRoundBoundary
  repeat' first
    | with_reducible assumption
    | with_reducible apply State.roundBoundary_steady
    | with_reducible refine All.next ?_

end Sys2Proof.Machine
end

