-- ==== Sys2Proof/Machine/Balls.lean ====
section
/-!
DEFINITION. The ball map of the package and the test port's identity (00_scope R12, R13; 22_board R512 to R516, R528). Nothing
here changes while the device runs, so State holds none of it.
-/

namespace Sys2Proof.Machine

/-! ### Balls (00_scope R12; 22_board R512) -/

/-- A ball of the 91 by 91 grid, by its row and column, each from 1. -/
structure Ball where
  row : Nat
  col : Nat
  deriving DecidableEq, Repr

/-- The ball lies in the grid. -/
def Ball.wf (b : Ball) : Bool := decide (1 ≤ b.row) && decide (b.row ≤ 91) && decide (1 ≤ b.col) && decide (b.col ≤ 91)

/-- A number in three decimal digits. -/
def threeDigits (n : Nat) : String := toString (n / 100 % 10) ++ toString (n / 10 % 10) ++ toString (n % 10)

/-- The name of a ball (00_scope R12). -/
def Ball.name (b : Ball) : String := threeDigits b.row ++ "." ++ threeDigits b.col

/-! ### Signals (00_scope R13) -/

/-- One wire of the package; `neg` picks the _N member of a pair, `b` the subchannel B. -/
inductive Signal where
  | lineTx (lane : Fin 512) (neg : Bool)
  | lineRx (lane : Fin 512) (neg : Bool)
  | pcieTx (k : Fin 16) (neg : Bool)
  | pcieRx (k : Fin 16) (neg : Bool)
  | dovetailTx (k : Fin 8) (neg : Bool)
  | dovetailRx (k : Fin 8) (neg : Bool)
  | mgmtTx (neg : Bool)
  | mgmtRx (neg : Bool)
  | pcieRefclk (neg : Bool)
  | coreRefclk (neg : Bool)
  | dq (chan : Fin 16) (b : Bool) (bit : Fin 40)
  | dqs (chan : Fin 16) (b : Bool) (strobe : Fin 10) (neg : Bool)
  | dca (chan : Fin 16) (b : Bool) (bit : Fin 7)
  | dpar (chan : Fin 16) (b : Bool)
  | dcs (chan : Fin 16) (b : Bool) (rank : Fin 2)
  | ck (chan : Fin 16) (b : Bool) (neg : Bool)
  | alertN (chan : Fin 16)
  | resetN (chan : Fin 16)
  | scl (chan : Fin 16)
  | sda (chan : Fin 16)
  | single (i : Fin 37)
  deriving DecidableEq, Repr

/-- The single-ended signals by their balls (22_board Table 22.4). -/
def singleEnded : List (Ball × String) :=
  [(⟨82, 2⟩, "RESET_N"), (⟨82, 4⟩, "WARM_RESET_N"), (⟨82, 6⟩, "PERST_N"), (⟨82, 8⟩, "BOOT_DONE"), (⟨82, 10⟩, "FAULT_N"),
    (⟨82, 12⟩, "PEER_FAULT_N")] ++
  [(⟨84, 2⟩, "SPI_CLK"), (⟨84, 4⟩, "SPI_CS_N"), (⟨84, 6⟩, "SPI_IO0"), (⟨84, 8⟩, "SPI_IO1"), (⟨84, 10⟩, "SPI_IO2"),
    (⟨84, 12⟩, "SPI_IO3")] ++
  [(⟨86, 2⟩, "UART_TXD"), (⟨86, 4⟩, "UART_RXD"), (⟨86, 6⟩, "PPS_IN"), (⟨86, 8⟩, "PPS_OUT"), (⟨86, 10⟩, "REF10M_IN"),
    (⟨86, 12⟩, "THERMTRIP_N")] ++
  [(⟨88, 2⟩, "PMB_SCL"), (⟨88, 4⟩, "PMB_SDA"), (⟨88, 6⟩, "PMB_ALERT_N"), (⟨88, 8⟩, "AVS_CLK"), (⟨88, 10⟩, "AVS_MDATA"),
    (⟨88, 12⟩, "AVS_SDATA")] ++
  [(⟨90, 2⟩, "TCK"), (⟨90, 4⟩, "TMS"), (⟨90, 6⟩, "TDI"), (⟨90, 8⟩, "TDO"), (⟨90, 10⟩, "TRST_N"), (⟨90, 12⟩, "AON_REFCLK")] ++
  [(⟨91, 2⟩, "STRAP_PCIE_GEN0"), (⟨91, 4⟩, "STRAP_PCIE_GEN1"), (⟨91, 6⟩, "STRAP_FLASH_FAST"), (⟨91, 8⟩, "STRAP_CP3_EN"),
    (⟨91, 10⟩, "STRAP_MGMT_EN"), (⟨91, 12⟩, "STRAP_TEST"), (⟨91, 14⟩, "VPP_FUSE")]

/-! ### Where each signal lies -/

/-- The second member of a pair lies one column on. -/
def pairCol (c : Nat) (neg : Bool) : Nat := if neg then c + 1 else c

/-- North coordinates carried to a package side: 0 north, 1 east, 2 south, 3 west (22_board R513). -/
def sideBall (side r c : Nat) : Ball :=
  match side with
  | 0 => ⟨r, c⟩
  | 1 => ⟨c, 92 - r⟩
  | 2 => ⟨92 - r, 92 - c⟩
  | _ => ⟨92 - c, r⟩

/-- A ball of a line lane, `tier` rows into its tier of three (22_board R513): 1 transmit, 2 ground, 3 receive. -/
def lineBall (lane tier : Nat) (neg : Bool) : Ball :=
  let j := lane % 128
  sideBall (lane / 128) (tier + 3 * (j / 32)) (pairCol (13 + 2 * (j % 32)) neg)

/-- A ball of a corner lane whose tiers start at a column (22_board R515). -/
def cornerBall (col k tier : Nat) (neg : Bool) : Ball := ⟨tier + 3 * (k / 4), pairCol (col + 2 * (k % 4)) neg⟩

/-- A ball of a DRAM channel's block, by subchannel, row offset and column (22_board R514). -/
def dramBall (chan : Nat) (b : Bool) (u v : Nat) : Ball :=
  ⟨14 + 10 * (chan / 4) + (if b then 5 else 0) + u, 14 + 16 * (chan % 4) + v⟩

/-- The ball of each signal (22_board R513 to R516, Tables 22.3 and 22.4). -/
def Signal.ball : Signal → Ball
  | .lineTx l n => lineBall l.val 1 n
  | .lineRx l n => lineBall l.val 3 n
  | .pcieTx k n => cornerBall 2 k.val 1 n
  | .pcieRx k n => cornerBall 2 k.val 3 n
  | .dovetailTx k n => cornerBall 80 k.val 1 n
  | .dovetailRx k n => cornerBall 80 k.val 3 n
  | .mgmtTx n => ⟨8, pairCol 80 n⟩
  | .mgmtRx n => ⟨10, pairCol 80 n⟩
  | .pcieRefclk n => ⟨6, pairCol 11 n⟩
  | .coreRefclk n => ⟨12, pairCol 84 n⟩
  | .dq c b i => dramBall c.val b (i.val / 16) (i.val % 16)
  | .dqs c b i n => dramBall c.val b (3 + i.val / 8) (pairCol (2 * (i.val % 8)) n)
  | .dca c b i => dramBall c.val b 4 (4 + i.val)
  | .dpar c b => dramBall c.val b 4 11
  | .dcs c b r => dramBall c.val b 4 (12 + r.val)
  | .ck c b n => dramBall c.val b 4 (pairCol 14 n)
  | .alertN c => dramBall c.val false 2 12
  | .resetN c => dramBall c.val false 2 13
  | .scl c => dramBall c.val false 2 14
  | .sda c => dramBall c.val false 2 15
  | .single i => ((singleEnded[i.val]?).map (·.1)).getD ⟨0, 0⟩

/-- The balls between the tiers of a line lane, which carry VSS (22_board R513). -/
def lineGround (lane : Fin 512) : List Ball := [lineBall lane.val 2 false, lineBall lane.val 2 true]

/-! ### The test port (22_board R528) -/

/-- IDCODE of the IEEE 1149.1 port. -/
def idcode : Nat := 0x25120B47

end Sys2Proof.Machine
end

