-- ==== Sys2Proof/WellFormed.lean ====
section
/-!
DEFINITION. Commands that an edge of the block can deliver: the shapes of their operands. The meanings answer for every command,
well formed or not; a packet whose parameters break its own format is a well-formed command that is refused with BAD_LENGTH.
-/

namespace Sys2Proof

/-- A packet as a transport delivers it (15_commands R361, R364, R366; 04_line R119): an instance other than 0 only on CP0, a
source address and a VLAN tag only on CP1, pad octets only on CP3, and no counter or check without a trailer. -/
def Pkt.wf (p : Pkt) : Bool :=
  (p.port == .cp0 || p.inst == 0) && (p.port == .cp1 || (p.src == 0 && p.vlan.isNone)) && (p.port == .cp3 || p.pad == 0) &&
    (p.trailer || (p.counter == 0 && p.check == 0)) && decide (p.params.length ≤ 4160)

/-- An image slot (22_board Table 22.9): its words are the image, 18 octets each. -/
def FlashSlot.wf (f : FlashSlot) : Bool := f.words.all (fun w => decide (w < 2 ^ 144)) && decide (18 * f.words.length ≤ 2 ^ 24)

/-- A board (20_faults R496; 14_dram R338; 22_board Table 22.10): 16 process counts, 16 channels, 64 octets of boot configuration. -/
def Board.wf (b : Board) : Bool :=
  b.process.length == 16 && b.dimms.length == 16 && b.bootA.length == 64 && b.bootB.length == 64 && b.slotA.wf && b.slotB.wf

/-- A training's sweeps (14_dram R343): 32 levels in each of 10 or 20 lanes and both directions. -/
def Training.wf (t : Training) : Bool :=
  (t.read.length == 10 || t.read.length == 20) && t.write.length == t.read.length && (t.read ++ t.write).all fun w => w.length == 32

/-- Octets that a MAC, the management port or the serial line can bring as one frame. -/
def frameWf (bs : List Byte) : Bool := decide (1 ≤ bs.length) && decide (bs.length ≤ 16384)

/-- A content of PULL_DATA (19_pair R473, R474). -/
def PullData.wf : PullData → Bool
  | .blockDigests _ _ => true
  | .entries _ _ _ items => decide (items.length ≤ 128)
  | .portConfig params => decide (params.length ≤ 64)
  | .generation gens => gens.length == 1
  | .regionEqual _ => true
  | .feed image => decide (image.gaps.length ≤ 64)
  | .feedsDone => true

/-- A well-formed command. -/
def Instr.wf : Instr → Bool
  | .nop p | .identify p | .readState p | .selftestMonitors p | .selftestFaultInject p | .selftestDramResweep p
  | .selftestDramBist p | .selftestSerdesPrbs p | .selftestPipeline p | .monitorRead p | .ttLoad p | .ttActivateWarm p
  | .ttActivateCold p | .ttActivateCancel p | .ttQuery p | .tblWrite p | .prefixInsert p | .prefixDelete p | .tblPairWrite p
  | .tblRead p | .tblMove p | .genSwap p | .tblBulkWrite p | .tblBulkRelayout p | .ageScan p | .portConfig p | .portStatus p
  | .statsRead p | .drawerOpen p | .drawerClose p | .drawerErase p | .sealNow p | .replayConfigCapture p
  | .replayConfigRequest p | .replayConfigQuota p | .cabinetPause p | .cabinetResume p | .timeSet p | .timeAdjustFreq p
  | .timeAdjustSlew p | .timeAdjustStep p | .timeAdjustSource p | .timeAdjustPpsOut p | .timeAdjustDeclare p | .timeRead p
  | .tsCalibrateRun p | .tsCalibrateRead p | .mirrorConfig p | .mirrorRole p | .mirrorCheck p | .keyInstall p | .keyRetire p
  | .counterRead p | .instCreate p | .instResize p | .instQuiesce p | .instQuiesceResume p | .instReset p | .instRemove p
  | .dirtyLogSwap p | .dirtyLogStop p | .faultConfig p | .faultRelease p | .ucodeLoadUser p | .ucodeCall p => p.wf
  | .commandMessage _ _ p _ => p.wf && p.port == .cp2
  | .cp1FrameReceive frame _ => frameWf frame
  | .cp3FrameReceive wire _ => frameWf wire
  | .cp3Break us => decide (1000 ≤ us)
  | .frameReceive _ wire _ => frameWf wire
  | .pauseReceive _ _ _ quanta _ => decide (quanta.length ≤ 8)
  | .windowRead _ _ len => decide (1 ≤ len) && decide (len ≤ 4096)
  | .windowWrite _ _ data _ => decide (1 ≤ data.length) && decide (data.length ≤ 512)
  | .registerWrite addr size v =>
    (match size with
     | .four => addr.toNat % 4 == 0 && decide (v.toNat < 2 ^ 32)
     | .eight => addr.toNat % 8 == 0
     | .other => true)
  | .coldReset board => board.wf
  | .dramTrainingDone _ result => result.wf
  | .poolAllocate _ cells => decide (1 ≤ cells)
  | .dimmSensorRead _ celsius => decide (celsius < 256)
  | .pullData data => data.wf
  | .selftestComplete _ sweeps => sweeps.all fun x => x.2.wf
  | .dramUncorrectable _ devices | .patrolScrub _ devices => decide (devices ≤ 40)
  | .cmdRingFetch _ _ | .hostCmdTailWrite _ _ _ | .hostRplTailWrite _ _ | .hostCmdCtrlReset _ | .timeLatch _ _ _ | .hostLinkRelease
  | .winCommit _ | .dmaCtrlEnable _ _ _ | .dmaCtrlReset _ _ | .dmaTailWrite _ _ _ _ | .dmaCircRposWrite _ _ _
  | .cabDrwRposWrite _ _ _ | .pmcMark _ | .pmcSweep _ | .pmcCtrWrite _ _ | .pmcCfgWrite _ _ | .startupComplete | .cabinetInitialised
  | .serdesGroupUp _ | .warmReset _ | .perst | .pcieLinkDown | .pcieLinkUp _ _ | .flrVf _ | .flrPf | .vfEnableClear
  | .fenceComplete _ | .ownerProgram _ _ _ | .ownerStatus | .bootStatus | .pauseTakeEffect _ | .pauseExpiry _ _
  | .pauseWatchdogTrip _ _ | .pauseHoldoffEnd _ _ | .pauseTx _ _ | .headRelease _ _ | .headSlot _ _ _ | .recircPass _ _ _
  | .injectSlot _ _ _ | .feedDecision _ | .bodyCellWrite _ _ _ | .lastCellArrival _ _ _ | .revocation _ | .schedulerPick _ _ _
  | .transmitEnd _ _ | .queueFlushUnlink _ _ _ | .shaperRefill | .gateSwitch _ _ | .gateEntryAdvance _ _ | .chainFreeWalk
  | .poolService _ _ | .recountComplete | .learningSlot _ _ | .ageingRead _ _ | .ageScanComplete | .scrubSlot _ _ _ _ _ _
  | .replicaRepair _ _ _ _ _ | .roundBoundary | .activationCommit | .activationSwitch | .activationDrained | .portSwitchPosition _
  | .transitionWindowClose _ | .genSwapBoundary | .genSwapDrained | .stepApply | .noPpsTimeout | .slewEnd | .ppsInEdge _
  | .ppsAbsent | .ppsOutEdge _ | .ref10mCount _ | .clockAttestation _ | .portBringupDone _ _ | .alignTimeout _ | .linkLoss _
  | .fecDegradeCheck _ _ _ _ _ | .wakeDetect _ | .pllLockLoss _ | .islandPowerUp _ | .feedGapScan _ | .replayServe
  | .evidenceDrain _ | .sealTimer _ _ | .drawerEraseDone _ | .dramRefresh _ _ | .injectDescriptor _ _ | .deliverFrame _ _ _
  | .leaseFrame _ _ _ | .copyDescriptor _ _ | .noticeWrite | .barrierDone _ | .ringWaitResume _ | .completionTimeout _
  | .lateCompletion _ | .tagQuarantineEnd _ | .readCompletion _ _ | .eventHoldoffEnd _ | .msixUnmask _ _ | .faultOccurrence _ _
  | .faultWindowClose _ | .graceTimerExpiry _ | .cmdWatchdog _ | .sensorRead _ _ _ | .thermalShedCheck | .voltageSample _ _
  | .contextSlice | .contextResume _ | .contextTimerExpiry _ | .ucodeLimit _ | .linkUnitReceive _ | .linkAck | .dovetailLinkDown _
  | .dovetailLinkUp _ | .replyMessage _ _ _ | .timeMessage _ _ _ | .timeMessageSend _ | .stepMessage _ _ | .feedMessage _ _
  | .stateMessage _ _ _ _ | .digestMessage _ _ _ | .digestSend _ | .pullReq _ | .tokenMessage _ | .safeMessage | .peerFaultAssert
  | .linkLossHoldExpiry | .calibrationComplete _ _ _ | .cabinetPauseDone | .cabinetResumeDone _ | .warmResetRelease _
  | .perstRelease | .configSpaceWrite _ _ _ | .monitorClockLoss _ | .collectorRegisterFault _ | .wakeDetectorRearm _
  | .sweepComplete | .headHandoff _ _ => true

end Sys2Proof
end

