-- ==== Sys2Proof/Tests/Slice0.lean ====
section
/-!
SUPPORT. Tests of the model: each check of WellFormed refuses an ill-formed command; for every clause of every obligation that has
hypotheses, a state and operands that meet them all together (test_meets_<obligation>_<clause>); and worked values of the spec.
-/

namespace Sys2Proof.Tests

set_option Elab.async false

open Sys2Proof Sys2Proof.Machine

/-! ### A device that takes commands, and packets for it -/

/-- Key K of the tests. -/
def keyOf (k : Nat) : List Byte := List.replicate 32 (BitVec.ofNat 8 (16 * k + 1))

/-- A device past its boot, with the owner key, K1 and seal key 0 installed. -/
def dev : State :=
  { State.reset with
    boot := { State.reset.boot with phase := 4 }
    cmd := { State.reset.cmd with keys := [0, 1, 5].map fun k => (k, { KeySlot.init with key := some (keyOf k) }) } }

/-- A packet of the host's instance 0 without a trailer. -/
def pk (ps : List Byte) : Pkt :=
  { port := .cp0, inst := 0, keySlot := 0, trailer := false, resv := 0, length := BitVec.ofNat 16 (ps.length / 8), tag := 7,
    params := ps, counter := 0, check := 0, pad := 0, src := 0, vlan := none, at8 := 0, cancelAt := none, d0StopAt := none }

/-- The reply path of a command that waits. -/
def wtr : Waiter := mkWaiter 0x0010 (pk []) none

/-- A timetable image with the given sections: each a type and its octets. -/
def image (secs : List (Nat × List Byte)) : List Byte :=
  let start := 64 + 16 * secs.length
  let dir := (secs.foldl (fun (x : Nat × List Byte) sec =>
    (x.1 + sec.2.length, x.2 ++ bytesLe 4 sec.1 ++ bytesLe 4 x.1 ++ bytesLe 8 sec.2.length)) (start, [])).2
  List.replicate 12 0 ++ bytesLe 52 secs.length ++ dir ++ (secs.map (·.2)).flatten

/-- The device with its timetable unit, its tables, ports, buffer, Cabinet, instances, time, command unit or faults changed. -/
def devTT (f : TTState → TTState) : State := { dev with tt := f dev.tt }
def devTbl (f : TablesState → TablesState) : State := { dev with tables := f dev.tables }
def devFlow (f : FlowState → FlowState) : State := { dev with flow := f dev.flow }
def devCab (f : CabState → CabState) : State := { dev with cab := f dev.cab }
def devTime (f : TimeState → TimeState) : State := { dev with time := f dev.time }
def devMirror (f : MirrorState → MirrorState) : State := { dev with mirror := f dev.mirror }
def devHost (f : HostState → HostState) : State := { dev with host := f dev.host }

/-- The packet with its keyed check, under a key whose binding is zero (15_commands R372). -/
def sign (key : List Byte) (op : Nat) (q : Pkt) : Pkt :=
  let mac := hmac256 key (bytesLe 16 0 ++ headerBytes op q ++ q.params ++ bytesLe 8 q.counter.toNat)
  { q with check := BitVec.ofNat 128 (le (mac.take 16)) }

/-- A packet that K1 signs. -/
abbrev cr (op : Nat) (ps : List Byte) : Pkt := sign (keyOf 1) op { pk ps with keySlot := 1, trailer := true, counter := 1 }

/-- A packet that the owner key signs. -/
abbrev ow (op : Nat) (ps : List Byte) : Pkt :=
  sign (hmac256 (keyOf 0) [0x61, 0x75, 0x74, 0x68]) op { pk ps with keySlot := 0, trailer := true, counter := 1 }

/-- The packet's length field agrees with its parameters. -/
def lengthOk (p : Pkt) : Bool :=
  !decide (510 < p.length.toNat ∨ p.params.length ≠ 8 * p.length.toNat ∨ (p.port = .cp3 ∧ p.pad ≠ 0))

/-- Everything of `admits` but the length, the comparison of the keyed check and the command's own format. -/
def admitsRest (s : State) (key : List Byte) (op : Nat) (p : Pkt) : Bool :=
  let u := s.at_ p.at8.val
  let a := s.arrived op p
  let slot := p.keySlot.toNat
  decide (4 ≤ u.boot.phase) && !u.boot.failed && !u.mirrorBusy op p && decide ((u.ctx p.port).st = .idle) &&
    !a.fenced p.port && (a.keptReply p).isNone &&
    (!decide (p.resv ≠ 0 ∨ (!p.trailer ∧ slot ≠ 0)) && !decide (!knownOp op ∨ !a.opAllowed p op) && p.trailer &&
      !decide ((p.port = .cp0 ∧ p.inst.val ≠ 0) ∨ !slotPermitted op slot) && decide (a.checkKey slot = some key) &&
      decide ((if slot = 0 then a.cmd.bootNonce.toNat else (a.key slot).epoch.toNat) = 0) &&
      !decide (p.counter ≤ (a.key slot).counter)) &&
    !(decide ((s.authed op p).mirror.role = .standby) && decide (p.port ≠ .cp2) && primaryOnly op p.params) &&
    !((s.accepted op p).flt.safe && !safeOp op)

theorem checked_sign (key : List Byte) (op : Nat) (q : Pkt) :
    bytesLe 16 (sign key op q).check.toNat =
      (hmac256 key (bytesLe 16 0 ++ headerBytes op q ++ q.params ++ bytesLe 8 q.counter.toNat)).take 16 := by
  unfold sign
  dsimp only
  generalize hl : (hmac256 key _).take 16 = l
  have h16 : l.length = 16 := by rw [← hl]; simp
  have := le_lt l
  rw [h16] at this
  simp only [BitVec.toNat_ofNat]
  rw [Nat.mod_eq_of_lt (by omega)]
  have := bytesLe_le l
  rwa [h16] at this

/-- A signed packet is admitted if the other checks pass. -/
theorem admits_sign {s : State} {key : List Byte} {op : Nat} {q : Pkt} {wf : List Byte → State → Bool}
    (h : lengthOk (sign key op q) = true ∧ wf (sign key op q).params (s.authed op (sign key op q)) = true ∧
      admitsRest s key op (sign key op q) = true) :
    s.admits op (sign key op q) wf = true := by
  have hc := checked_sign key op q
  obtain ⟨hlen, hwf, h⟩ := h
  generalize hp : sign key op q = p at h hc hlen hwf
  have e1 : headerBytes op p = headerBytes op q := by rw [← hp]; rfl
  have e2 : p.params = q.params := by rw [← hp]; rfl
  have e3 : p.counter = q.counter := by rw [← hp]; rfl
  rw [← e1, ← e2, ← e3] at hc
  unfold admitsRest at h
  unfold lengthOk at hlen
  dsimp only at h
  simp only [Bool.and_eq_true] at h
  obtain ⟨⟨⟨⟨h1, h2⟩, ⟨⟨⟨⟨⟨⟨c2, c3⟩, c4⟩, c5⟩, c6⟩, c7⟩, c8⟩⟩, h4⟩, h5⟩ := h
  have ha : (s.arrived op p).authCheck op p = none := by
    unfold State.authCheck
    dsimp only
    have n1 := of_decide_eq_false (Bool.not_eq_true' _ ▸ hlen)
    have n2 := of_decide_eq_false (Bool.not_eq_true' _ ▸ c2)
    have n3 := of_decide_eq_false (Bool.not_eq_true' _ ▸ c3)
    have n5 := of_decide_eq_false (Bool.not_eq_true' _ ▸ c5)
    have n8 := of_decide_eq_false (Bool.not_eq_true' _ ▸ c8)
    rw [if_neg n1, if_neg n2, if_neg n3, if_neg (by rw [c4]; decide), if_neg n5, of_decide_eq_true c6]
    dsimp only
    have hk : (s.arrived op p).keyedCheck key op p = bytesLe 16 p.check.toNat := by
      rw [hc]; unfold State.keyedCheck; dsimp only; rw [of_decide_eq_true c7]
    rw [hk, if_neg (by simp), if_neg n8]
  unfold State.admits
  dsimp only
  simp only [Bool.and_eq_true]
  exact ⟨⟨⟨⟨⟨h1, h2⟩, by rw [ha]; rfl⟩, hwf⟩, h4⟩, h5⟩

/-- A packet whose op field already is its row's is as the row forces it. -/
theorem forced {p : Pkt} {lo w v : Nat} (h : bytesLe p.params.length (setFld (le p.params) lo w v) = p.params) :
    forceOp p lo w v = p := by
  unfold forceOp; rw [h]

theorem admits_forced {s : State} {op lo w v : Nat} {p : Pkt} {wf : List Byte → State → Bool}
    (h : bytesLe p.params.length (setFld (le p.params) lo w v) = p.params) (ha : s.admits op p wf = true) :
    s.admits op (forceOp p lo w v) wf = true := by
  rw [forced h]; exact ha

/-- What an operation that succeeds leaves. -/
def okOf (d : State) (x : Except Nat State) : State := match x with | .ok t => t | .error _ => d
theorem ok_of {d : State} {x : Except Nat State} (h : x.isOk = true) : x = .ok (okOf d x) := by
  cases x with
  | ok t => rfl
  | error e => simp [Except.isOk, Except.toBool] at h
theorem done_of {α β : Type} {x : α × Option β} (h : x.2.isNone = true) : x = (x.1, none) := by
  obtain ⟨a, b⟩ := x
  cases b with
  | none => rfl
  | some _ => simp at h

/-- The descriptors that a gathering found. -/
def chainIn : Gathered → Option (List (List Byte))
  | .chain ds => some ds
  | _ => none
theorem chain_of {x : Gathered} {ds : List (List Byte)} (h : chainIn x = some ds) : x = .chain ds := by
  cases x <;> simp_all [chainIn]
theorem notOwned_of {x : Gathered} (h : (match x with | .notOwned => true | _ => false) = true) : x = .notOwned := by
  cases x <;> simp_all
theorem tooLong_of {x : Gathered} (h : (match x with | .tooLong => true | _ => false) = true) : x = .tooLong := by
  cases x <;> simp_all
theorem pair_of {α β : Type} {x : α × β} {b : β} (h : x.2 = b) : x = (x.1, b) := by rw [← h]
theorem fst_of {α β : Type} {x : α × β} {a : α} (h : x.1 = a) : x = (a, x.2) := by rw [← h]
theorem some_of {α β : Type} {x : α × Option β} (h : x.2.isSome = true) : x = (x.1, some (x.2.get h)) := by simp
theorem got3 {α β γ : Type} {x : Option (α × β × γ)} (h : x.isSome = true) :
    x = some ((x.get h).1, (x.get h).2.1, (x.get h).2.2) := by simp

/-! ### Each check of WellFormed refuses an ill-formed command -/

/-- A board with 16 process counts, no DIMMs and empty flash. -/
def boardOf (n m : Nat) (w : List Nat) : Board :=
  let slot : FlashSlot := ⟨0, 0, 0, 0, none, false, w⟩
  ⟨0, slot, slot, List.replicate 64 0, List.replicate 64 0, 0, List.replicate n 0, 800, List.replicate m ⟨false, 0, 4, 0, 1, false⟩⟩

theorem test_wf_packet : Instr.wf (.nop (pk [])) = true := by decide
theorem test_wf_instance_off_cp0 : Instr.wf (.nop { pk [] with port := .cp2, inst := 1 }) = false := by decide
theorem test_wf_source_off_cp1 : Instr.wf (.identify { pk [] with src := 1 }) = false := by decide
theorem test_wf_vlan_off_cp1 : Instr.wf (.readState { pk [] with vlan := some 5 }) = false := by decide
theorem test_wf_pad_off_cp3 : Instr.wf (.timeRead { pk [] with pad := 1 }) = false := by decide
theorem test_wf_counter_without_trailer : Instr.wf (.tblRead { pk [] with counter := 1 }) = false := by decide
theorem test_wf_check_without_trailer : Instr.wf (.tblRead { pk [] with check := 1 }) = false := by decide
theorem test_wf_too_many_parameters : Instr.wf (.ttLoad (pk (List.replicate 4161 0))) = false := by decide +kernel
theorem test_wf_board : Instr.wf (.coldReset (boardOf 16 16 [])) = true := by decide +kernel
theorem test_wf_process_counts : Instr.wf (.coldReset (boardOf 15 16 [])) = false := by decide +kernel
theorem test_wf_dimms : Instr.wf (.coldReset (boardOf 16 17 [])) = false := by decide +kernel
theorem test_wf_boot_configuration :
    Instr.wf (.coldReset { boardOf 16 16 [] with bootB := [] }) = false := by decide +kernel
theorem test_wf_slot_word : Instr.wf (.coldReset (boardOf 16 16 [2 ^ 144])) = false := by decide +kernel
theorem test_wf_slot_length (w : List Nat) (h : w.length = 932068) : Instr.wf (.coldReset (boardOf 16 16 w)) = false := by
  simp [Instr.wf, Board.wf, FlashSlot.wf, boardOf, h]
theorem test_wf_training_lanes : Instr.wf (.dramTrainingDone 0 ⟨true, [], []⟩) = false := by decide
theorem test_wf_training_levels :
    Instr.wf (.dramTrainingDone 0 ⟨true, List.replicate 10 [], List.replicate 10 []⟩) = false := by decide
theorem test_wf_command_message_port : Instr.wf (.commandMessage 0 0 (pk []) 0) = false := by decide
theorem test_wf_empty_cp1_frame : Instr.wf (.cp1FrameReceive [] 0) = false := by decide
theorem test_wf_empty_cp3_frame : Instr.wf (.cp3FrameReceive [] 0) = false := by decide
theorem test_wf_long_frame : Instr.wf (.frameReceive 0 (List.replicate 16385 0) 0) = false := by decide +kernel
theorem test_wf_break : Instr.wf (.cp3Break 999) = false := by decide
theorem test_wf_pause_quanta : Instr.wf (.pauseReceive 0 1 0 (List.replicate 9 0) 0) = false := by decide
theorem test_wf_window_read_empty : Instr.wf (.windowRead 0 0 0) = false := by decide
theorem test_wf_window_read_long : Instr.wf (.windowRead 0 0 4097) = false := by decide
theorem test_wf_window_write_empty : Instr.wf (.windowWrite 0 0 [] 0) = false := by decide
theorem test_wf_register_write_four : Instr.wf (.registerWrite 2 .four 0) = false := by decide
theorem test_wf_register_write_wide : Instr.wf (.registerWrite 4 .four (2 ^ 32)) = false := by decide
theorem test_wf_register_write_eight : Instr.wf (.registerWrite 4 .eight 0) = false := by decide
theorem test_wf_pool_allocate : Instr.wf (.poolAllocate 0 0) = false := by decide
theorem test_wf_dimm_sensor : Instr.wf (.dimmSensorRead 0 256) = false := by decide
theorem test_wf_read_devices : Instr.wf (.dramUncorrectable 0 41) = false := by decide
theorem test_wf_scrub_devices : Instr.wf (.patrolScrub 0 41) = false := by decide
theorem test_wf_sweeps : Instr.wf (.selftestComplete 0 [(0, ⟨true, [], []⟩)]) = false := by decide
theorem test_wf_pull_entries : Instr.wf (.pullData (.entries 0 0 false (List.replicate 129 (0, 0)))) = false := by decide +kernel
theorem test_wf_pull_port_config : Instr.wf (.pullData (.portConfig (List.replicate 65 []))) = false := by decide
theorem test_wf_pull_generation : Instr.wf (.pullData (.generation [])) = false := by decide
theorem test_wf_pull_feed :
    Instr.wf (.pullData (.feed ⟨0, true, 0, 0, List.replicate 65 (0, 0)⟩)) = false := by decide +kernel

/-! ### Values that the spec or a published algorithm gives -/

/-- The check value of CRC-32: the octets of "123456789". -/
theorem test_crc32 : crc32 [0x31, 0x32, 0x33, 0x34, 0x35, 0x36, 0x37, 0x38, 0x39] = 0xCBF43926 := by decide +kernel
theorem test_crc32c : crc32c [0x31, 0x32, 0x33, 0x34, 0x35, 0x36, 0x37, 0x38, 0x39] = 0xE3069283 := by decide +kernel
/-- FIPS 180-4: the digest of "abc". -/
theorem test_sha256 : (sha256 [0x61, 0x62, 0x63]).take 4 = [0xBA, 0x78, 0x16, 0xBF] := by decide +kernel
/-- FIPS 197 appendix C.3: the last round key of the 256-bit example, and two octets of the inverse substitution. -/
theorem test_aes_round_key :
    aesRoundKey (aesSchedule ((List.range 32).map fun i => BitVec.ofNat 8 i)) 14 =
      (bytesLe 16 0x24FC79CCBF0979E9371AC23C6D68DE36).reverse := by decide +kernel
theorem test_aes_inverse_substitution : invSbox 0x63 = 0 ∧ invSbox 0xED = 0x53 := by decide +kernel
/-- The worked example of one-step Pdelay_Resp (05_time): 4,120.375 ns are 0x1018_6000 units of 2^-16 ns. -/
theorem test_pdelay_example : corrAdd 0 (4120375 * 65536 / 1000) = 0x10186000 := by decide
/-- 02_timetable, as 04_line tells it again: macro 21 in 2x400GBASE-R has lp168 and lp172 only. -/
theorem test_mode_two_ports : [lpOf 21 1 0, lpOf 21 1 1, lpOf 21 1 2] = [168, 172, 176] ∧ positionExists 1 2 = false := by decide
/-- 02_timetable R42: windows 0 (mask 1) and 5 (mask 3) of one cycle share bank 0, which involves pipelines 0 and 1 of the quad. -/
theorem test_bank_clash :
    [0, 1, 2].map (fun p => conflicts (fun i => i / 4 == p) (fun a b => a &&& b != 0) [1, 0, 0, 0, 0, 3]) = [true, true, false] := by
  decide
/-- 22_board, after R513: TX_P of lane L300 is ball 088.055 and its RX_N ball 086.054. -/
theorem test_lane_balls : (Signal.lineTx 300 false).ball = ⟨88, 55⟩ ∧ (Signal.lineRx 300 true).ball = ⟨86, 54⟩ := by decide
theorem test_meets_SystemReadsComplete_1 :
    ∃ (s : State) (p : Pkt), s.admits 0x0001 p (lenIs 0) = true :=
  ⟨dev, pk [], by decide +kernel⟩

theorem test_meets_SystemReadsComplete_2 :
    ∃ (s : State) (p : Pkt), s.admits 0x0002 p (lenIs 0) = true :=
  ⟨dev, pk [], by decide +kernel⟩

theorem test_meets_SystemReadsComplete_3 :
    ∃ (s : State) (p : Pkt), s.admits 0x0003 p (lenIs 0) = true :=
  ⟨dev, pk [], by decide +kernel⟩

theorem test_meets_SystemReadsComplete_4 :
    ∃ (s : State) (p : Pkt), s.admits 0x0011 p (lenZero 8) = true :=
  ⟨dev, pk (bytesLe 8 0), by decide +kernel⟩

theorem test_meets_SystemReadsComplete_5 :
    ∃ (s : State) (p : Pkt), s.admits 0x0702 p (lenIs 0) = true :=
  ⟨dev, pk [], by decide +kernel⟩

theorem test_meets_KeySlotsComplete_1 :
    ∃ (s : State) (p : Pkt) (key : List Byte), s.admits 0x0700 p wfKeyInstall = true ∧ keyUnwrap (s.running 0x0700 p).wrapKey (sliceAt
    p.params 24 40) = some key ∧ ((s.running 0x0700 p).key (fld (img p.params) 0 3)).key = none := by
  obtain ⟨w, hw, hu⟩ := keyUnwrap_onto (kek := hmac256 (keyOf 0) [0x77, 0x72, 0x61, 0x70]) (key := keyOf 3) (by simp) rfl
  have hs : sliceAt (bytesLe 24 3 ++ w) 24 40 = w := by simp [sliceAt, hw]
  have hi : img (bytesLe 24 3 ++ w) = 3 + 256 ^ 24 * le w := by
    unfold img; rw [le_append, bytesLe_length]; rfl
  have hf : fld (img (bytesLe 24 3 ++ w)) 0 3 = 3 := by rw [hi]; unfold fld; omega
  have hl : (bytesLe 24 3 ++ w).length = 64 := by simp [hw]
  refine ⟨dev, sign (hmac256 (keyOf 0) [0x61, 0x75, 0x74, 0x68]) 0x0700
    { pk [] with trailer := true, counter := 1, length := 8, params := bytesLe 24 3 ++ w }, keyOf 3, admits_sign ⟨?_, ?_, ?_⟩, ?_, ?_⟩
  · simp [lengthOk, sign, hw, pk]
  · change wfKeyInstall (bytesLe 24 3 ++ w) _ = true
    unfold wfKeyInstall
    rw [hl, hf, show (bytesLe 24 3 ++ w).take 8 = bytesLe 8 3 from rfl]
    rfl
  · set_option maxRecDepth 20000 in rfl
  · change keyUnwrap (hmac256 (keyOf 0) [0x77, 0x72, 0x61, 0x70]) (sliceAt (bytesLe 24 3 ++ w) 24 40) = some (keyOf 3)
    rw [hs]; exact hu
  · change (State.key _ (fld (img (bytesLe 24 3 ++ w)) 0 3)).key = none
    rw [hf]; rfl

theorem test_meets_KeySlotsComplete_2 :
    ∃ (s : State) (p : Pkt), s.admits 0x0701 p wfKeyRetire = true ∧ (s.running 0x0701 p).sealKeyNamed (fld (img p.params) 0 3) = false :=
  ⟨dev, ow 0x0701 (bytesLe 8 1), admits_sign (by decide +kernel), by decide +kernel⟩

theorem test_meets_SelftestsComplete_1a :
    ∃ (s : State) (p : Pkt) (op : Nat) (c : Instr), (op, c) ∈ [(0, Instr.selftestMonitors p), (2, .selftestDramResweep p), (3,
    .selftestDramBist p), (4, .selftestSerdesPrbs p), (5, .selftestPipeline p)] ∧ s.admits 0x0010 (forceOp p 0 8 op) wfSelftest = true
    ∧ (s.running 0x0010 (forceOp p 0 8 op)).selftest = none ∧ byteAt (forceOp p 0 8 op).params 0 = op ∧ (s.running 0x0010 (forceOp p 0
    8 op)).selftestAllowed op (leAt (forceOp p 0 8 op).params 8 8) = true :=
  ⟨dev, pk (bytesLe 16 0), 0, .selftestMonitors (pk (bytesLe 16 0)), .head _, by decide +kernel, by decide +kernel,
    by decide +kernel, by decide +kernel⟩

theorem test_meets_SelftestsComplete_1c :
    ∃ (s : State) (p : Pkt) (op : Nat) (c : Instr), (op, c) ∈ [(0, Instr.selftestMonitors p), (2, .selftestDramResweep p), (3,
    .selftestDramBist p), (4, .selftestSerdesPrbs p), (5, .selftestPipeline p)] ∧ s.admits 0x0010 (forceOp p 0 8 op) wfSelftest = true
    ∧ (s.running 0x0010 (forceOp p 0 8 op)).selftest = none ∧ byteAt (forceOp p 0 8 op).params 0 = op ∧ (s.running 0x0010 (forceOp p 0
    8 op)).selftestAllowed op (leAt (forceOp p 0 8 op).params 8 8) = true :=
  ⟨{ dev with cab := { dev.cab with paused := true } }, pk (bytesLe 8 3 ++ bytesLe 8 0xFFFF), 3, .selftestDramBist (pk (bytesLe 8 3
    ++ bytesLe 8 0xFFFF)), .tail _ (.tail _ (.head _)), by decide +kernel, by decide +kernel, by decide +kernel, by decide +kernel⟩

theorem test_meets_SelftestsComplete_1d :
    ∃ (s : State) (p : Pkt) (op : Nat) (c : Instr), (op, c) ∈ [(0, Instr.selftestMonitors p), (2, .selftestDramResweep p), (3,
    .selftestDramBist p), (4, .selftestSerdesPrbs p), (5, .selftestPipeline p)] ∧ s.admits 0x0010 (forceOp p 0 8 op) wfSelftest = true
    ∧ (s.running 0x0010 (forceOp p 0 8 op)).selftest = none ∧ byteAt (forceOp p 0 8 op).params 0 = op ∧ (s.running 0x0010 (forceOp p 0
    8 op)).selftestAllowed op (leAt (forceOp p 0 8 op).params 8 8) = true :=
  ⟨dev, pk (bytesLe 8 4 ++ bytesLe 8 (2 ^ 64 - 1)), 4, .selftestSerdesPrbs (pk (bytesLe 8 4 ++ bytesLe 8 (2 ^ 64 - 1))), .tail _
    (.tail _ (.tail _ (.head _))), by decide +kernel, by decide +kernel, by decide +kernel, by decide +kernel⟩

theorem test_meets_SelftestsComplete_1e :
    ∃ (s : State) (p : Pkt) (op : Nat) (c : Instr), (op, c) ∈ [(0, Instr.selftestMonitors p), (2, .selftestDramResweep p), (3,
    .selftestDramBist p), (4, .selftestSerdesPrbs p), (5, .selftestPipeline p)] ∧ s.admits 0x0010 (forceOp p 0 8 op) wfSelftest = true
    ∧ (s.running 0x0010 (forceOp p 0 8 op)).selftest = none ∧ byteAt (forceOp p 0 8 op).params 0 = op ∧ (s.running 0x0010 (forceOp p 0
    8 op)).selftestAllowed op (leAt (forceOp p 0 8 op).params 8 8) = true :=
  ⟨dev, pk (bytesLe 8 5 ++ bytesLe 8 0xFFFF), 5, .selftestPipeline (pk (bytesLe 8 5 ++ bytesLe 8 0xFFFF)), .tail _ (.tail _ (.tail _
    (.tail _ (.head _)))), by decide +kernel, by decide +kernel, by decide +kernel, by decide +kernel⟩

theorem test_meets_SelftestsComplete_2 :
    ∃ (s : State) (p : Pkt), s.admits 0x0010 (forceOp p 0 8 1) wfSelftest = true ∧ (s.running 0x0010 (forceOp p 0 8 1)).selftest = none
    ∧ byteAt (forceOp p 0 8 1).params 0 = 1 :=
  ⟨dev, pk (bytesLe 8 1 ++ bytesLe 8 42), by decide +kernel, by decide +kernel, by decide +kernel⟩

/-- A SELFTEST that runs. -/
def testRun (op : Nat) : SelftestRun := { op := op, target := 1, waiter := wtr }

theorem test_meets_SelftestsComplete_3 :
    ∃ (s : State) (r : SelftestRun), s.selftest = some r ∧ (r.op = 0 ∨ r.op = 1) :=
  ⟨{ dev with selftest := some (testRun 0) }, testRun 0, by decide +kernel, by decide +kernel⟩

theorem test_meets_SelftestsComplete_4 :
    ∃ (s : State) (u : State) (v : State) (r : SelftestRun) (pass : BitVec 64) (sweeps : List (Fin 16 × Training)) (m : Nat) (ok :
    Nat), s.selftest = some r ∧ 2 ≤ r.op ∧ m = selftestMask r.op r.target.toNat ∧ ok = s.selftestPass r.op pass.toNat sweeps ∧ (if r.op
    = 2 then (List.range 16).foldl (fun (t : State) k => if bitAt m k then t.resweepEnd k sweeps else t) { s with selftest := none }
    else { s with selftest := none }) = u ∧ (List.range 48).foldl (fun (t : State) n => t.modLine n fun l =>
    { l with countedUntil := some (t.nowPs + l.windowMs * msPs) }) u = v :=
  ⟨{ dev with selftest := some (testRun 2) }, _, _, testRun 2, 1, [], _, _, by decide +kernel, by decide +kernel, rfl, rfl, rfl, rfl⟩

theorem test_meets_TimetableLoads_1_1a :
    ∃ (s : State) (u : State) (p : Pkt) (b : List Byte), s.admits 0x0100 p wfTtLoad = true ∧ s.running 0x0100 p = u ∧ u.tt.act = none ∧
    ((leAt p.params 0 4 = 0 ∧ b = p.params.drop 8) ∨ (leAt p.params 0 4 ≠ 0 ∧ u.tt.shadowState = .loading ∧ leAt p.params 0 4 =
    u.tt.shadow.length ∧ b = u.tt.shadow ++ p.params.drop 8)) ∧ leAt p.params 4 4 = 0 :=
  ⟨dev, _, cr 0x0100 (List.replicate 16 0), List.replicate 8 0, admits_sign (by decide +kernel), rfl, by decide +kernel, .inl
    (by decide +kernel), by decide +kernel⟩

theorem test_meets_TimetableLoads_1_1b :
    ∃ (s : State) (u : State) (p : Pkt) (b : List Byte), s.admits 0x0100 p wfTtLoad = true ∧ s.running 0x0100 p = u ∧ u.tt.act = none ∧
    ((leAt p.params 0 4 = 0 ∧ b = p.params.drop 8) ∨ (leAt p.params 0 4 ≠ 0 ∧ u.tt.shadowState = .loading ∧ leAt p.params 0 4 =
    u.tt.shadow.length ∧ b = u.tt.shadow ++ p.params.drop 8)) ∧ leAt p.params 4 4 = 0 :=
  ⟨devTT fun t => { t with shadow := [1, 2, 3, 4, 5, 6, 7, 8], shadowState := .loading }, _, cr 0x0100 (bytesLe 4 8 ++ bytesLe 12 0),
    [1, 2, 3, 4, 5, 6, 7, 8, 0, 0, 0, 0, 0, 0, 0, 0], admits_sign (by decide +kernel), rfl, by decide +kernel, by decide +kernel,
    by decide +kernel⟩

theorem test_meets_TimetableLoads_1_2 :
    ∃ (s : State) (u : State) (p : Pkt) (b : List Byte), s.admits 0x0100 p wfTtLoad = true ∧ s.running 0x0100 p = u ∧ u.tt.act = none ∧
    ((leAt p.params 0 4 = 0 ∧ b = p.params.drop 8) ∨ (leAt p.params 0 4 ≠ 0 ∧ u.tt.shadowState = .loading ∧ leAt p.params 0 4 =
    u.tt.shadow.length ∧ b = u.tt.shadow ++ p.params.drop 8)) ∧ leAt p.params 4 4 = 1 :=
  ⟨devTT fun t => { t with shadow := [1, 2, 3, 4, 5, 6, 7, 8], shadowState := .loading }, _, cr 0x0100 (bytesLe 4 8 ++ bytesLe 12 1),
    [1, 2, 3, 4, 5, 6, 7, 8, 0, 0, 0, 0, 0, 0, 0, 0], admits_sign (by decide +kernel), rfl, by decide +kernel, by decide +kernel,
    by decide +kernel⟩

theorem test_meets_TimetableLoads_2_1 :
    ∃ (s : State) (u : State) (p : Pkt), s.admits 0x0100 p wfTtLoad = true ∧ s.running 0x0100 p = u ∧ u.tt.act = none ∧ leAt p.params 0
    4 ≠ 0 ∧ u.tt.shadowState = .loading ∧ leAt p.params 0 4 ≠ u.tt.shadow.length :=
  ⟨devTT fun t => { t with shadow := [1, 2, 3, 4, 5, 6, 7, 8], shadowState := .loading }, _, cr 0x0100 (bytesLe 4 16 ++ bytesLe 12
    0), admits_sign (by decide +kernel), rfl, by decide +kernel, by decide +kernel, by decide +kernel, by decide +kernel⟩

theorem test_meets_TimetableLoads_2_2 :
    ∃ (s : State) (u : State) (p : Pkt), s.admits 0x0100 p wfTtLoad = true ∧ s.running 0x0100 p = u ∧ u.tt.act = none ∧ leAt p.params 0
    4 ≠ 0 ∧ u.tt.shadowState ≠ .loading :=
  ⟨dev, _, cr 0x0100 (bytesLe 4 8 ++ bytesLe 12 0), admits_sign (by decide +kernel), rfl, by decide +kernel, by decide +kernel,
    by decide +kernel⟩

theorem test_meets_TimetableLoads_3 :
    ∃ (s : State) (p : Pkt), s.admits 0x0102 p (lenIs 0) = true :=
  ⟨dev, pk [], by decide +kernel⟩

theorem test_meets_ActivationStarts_1a :
    ∃ (s : State) (p : Pkt) (mode : Nat) (c : Instr), (mode, c) ∈ [(0, Instr.ttActivateWarm p), (1, .ttActivateCold p)] ∧ s.admits
    0x0101 (forceOp p 0 2 mode) wfTtActivate = true ∧ fld (img (forceOp p 0 2 mode).params) 0 2 = mode ∧ (s.running 0x0101 (forceOp p 0
    2 mode)).activationError (mode = 0) ((s.running 0x0101 (forceOp p 0 2 mode)).resolveRound (forceOp p 0 2 mode).params) (sliceAt
    (forceOp p 0 2 mode).params 16 16) = none :=
  ⟨devTT fun t => { t with shadowState := .checked, shadow := image [(7, [])], active := some [] }, cr 0x0101 (List.replicate 32 0),
    0, .ttActivateWarm (cr 0x0101 (List.replicate 32 0)), .head _, admits_forced (by decide +kernel) (admits_sign (by decide +kernel)),
    by decide +kernel, by decide +kernel⟩

theorem test_meets_ActivationStarts_1b :
    ∃ (s : State) (p : Pkt) (mode : Nat) (c : Instr), (mode, c) ∈ [(0, Instr.ttActivateWarm p), (1, .ttActivateCold p)] ∧ s.admits
    0x0101 (forceOp p 0 2 mode) wfTtActivate = true ∧ fld (img (forceOp p 0 2 mode).params) 0 2 = mode ∧ (s.running 0x0101 (forceOp p 0
    2 mode)).activationError (mode = 0) ((s.running 0x0101 (forceOp p 0 2 mode)).resolveRound (forceOp p 0 2 mode).params) (sliceAt
    (forceOp p 0 2 mode).params 16 16) = none :=
  ⟨devTT fun t => { t with shadowState := .checked }, cr 0x0101 (bytesLe 32 (1 + 2 ^ 64 * 2 ^ 22)), 1, .ttActivateCold (cr 0x0101
    (bytesLe 32 (1 + 2 ^ 64 * 2 ^ 22))), .tail _ (.head _), admits_forced (by decide +kernel) (admits_sign (by decide +kernel)),
    by decide +kernel, by decide +kernel⟩

/-- An activation armed for round `n`. -/
def armed (n : BitVec 64) : Activation := { phase := .armed, n := n, warm := true, waiter := wtr, headsDrained := false }

theorem test_meets_ActivationStarts_2 :
    ∃ (s : State) (p : Pkt) (a : Activation), s.admits 0x0101 (forceOp p 0 2 2) wfTtActivate = true ∧ fld (img (forceOp p 0 2
    2).params) 0 2 = 2 ∧ (s.running 0x0101 (forceOp p 0 2 2)).flt.safe = false ∧ (s.running 0x0101 (forceOp p 0 2 2)).flt.graceEnd =
    none ∧ (s.running 0x0101 (forceOp p 0 2 2)).tt.act = some a ∧ a.phase = .armed ∧ (s.running 0x0101 (forceOp p 0 2
    2)).tt.round.toNat + 4 < a.n.toNat :=
  ⟨devTT fun t => { t with act := some (armed 5) }, cr 0x0101 (bytesLe 32 2), armed 5, admits_forced (by decide +kernel) (admits_sign
    (by decide +kernel)), by decide +kernel, by decide +kernel, by decide +kernel, by decide +kernel, by decide +kernel,
    by decide +kernel⟩

theorem test_meets_ActivationRuns_1 :
    ∃ (s : State) (a : Activation), s.tt.act = some a ∧ a.phase = .armed ∧ a.n.toNat ≤ s.tt.round.toNat + 4 :=
  ⟨devTT fun t => { t with act := some (armed 4) }, armed 4, by decide +kernel, by decide +kernel, by decide +kernel⟩

theorem test_meets_ActivationRuns_2 :
    ∃ (s : State) (a : Activation), s.tt.act = some a ∧ a.phase ≠ .draining ∧ a.n.toNat ≤ s.tt.round.toNat :=
  ⟨devTT fun t => { t with act := some (armed 0) }, armed 0, by decide +kernel, by decide +kernel, by decide +kernel⟩

theorem test_meets_ActivationRuns_3 :
    ∃ (s : State) (a : Activation), s.tt.act = some a ∧ a.phase = .draining ∧ s.oldHeads = false ∧ s.tt.unswitched = [] :=
  ⟨devTT fun t => { t with act := some { armed 0 with phase := .draining } }, { armed 0 with phase := .draining }, by decide +kernel,
    by decide +kernel, by decide +kernel, by decide +kernel⟩

theorem test_meets_ActivationRuns_4_1 :
    ∃ (s : State) (u : State) (lp : Fin 512), lp ∈ s.tt.unswitched ∧ s.switchReached lp = true ∧ s.reach (s.switchInstant lp.val) = u ∧
    s.fifoEmpty lp = true :=
  ⟨devTT fun t => { t with unswitched := [511], switchRound := some 0, active := some [] }, _, 511, by decide +kernel,
    by decide +kernel, rfl, by decide +kernel⟩

theorem test_meets_ActivationRuns_5 :
    ∃ (s : State) (lp : Fin 512), lp ∈ s.tt.inWindow ∧ lp ∉ s.tt.unswitched ∧ s.fifoEmpty lp = true :=
  ⟨devTT fun t => { t with inWindow := [511] }, 511, by decide +kernel, by decide +kernel, by decide +kernel⟩

theorem test_meets_TableWritesComplete_1 :
    ∃ (s : State) (t : State) (p : Pkt), s.admits 0x0200 p wfTblWrite = true ∧ whole p ∧ (s.running 0x0200 p).d0Writable = true ∧
    (tblHeader p.params).table ≠ 2 ∧ (tblHeader p.params).table ≠ 0x14 ∧ (s.running 0x0200 p).writeEntry (tblHeader p.params).table
    (tblHeader p.params).gen (tblHeader p.params).index (writtenData p.params) = .ok t :=
  ⟨dev, _, cr 0x0200 (bytesLe 16 9 ++ bytesLe 8 5), admits_sign (by decide +kernel), ⟨rfl, rfl⟩, by decide +kernel,
    by decide +kernel, by decide +kernel, ok_of (d := dev) (by decide +kernel)⟩

theorem test_meets_TableWritesComplete_2 :
    ∃ (s : State) (t : State) (p : Pkt), s.admits 0x0201 p wfTblPairWrite = true ∧ whole p ∧ (s.running 0x0201 p).d0Writable = true ∧
    (s.running 0x0201 p).writePair (tblHeader p.params).table (tblHeader p.params).index (pairKey p.params) (pairData p.params) = .ok t :=
  ⟨dev, _, cr 0x0201 (bytesLe 16 4 ++ List.replicate 96 0), admits_sign (by decide +kernel), ⟨rfl, rfl⟩, by decide +kernel, ok_of (d
    := dev) (by decide +kernel)⟩

theorem test_meets_TableWritesComplete_3 :
    ∃ (s : State) (t : State) (p : Pkt), s.admits 0x0203 p wfTblMove = true ∧ whole p ∧ (s.running 0x0203 p).d0Writable = true ∧
    (s.running 0x0203 p).writePair (tblHeader p.params).table (tblHeader p.params).index ((s.running 0x0203 p).master (tblHeader
    p.params).table 0 (tblHeader p.params).aux % 2 ^ 640) ((s.running 0x0203 p).master (tblHeader p.params).table 0 (tblHeader
    p.params).aux / 2 ^ 640) = .ok t :=
  ⟨dev, _, cr 0x0203 (bytesLe 16 (4 + 2 ^ 64)), admits_sign (by decide +kernel), ⟨rfl, rfl⟩, by decide +kernel, ok_of (d := dev)
    (by decide +kernel)⟩

theorem test_meets_TableWritesComplete_4 :
    ∃ (s : State) (t : State) (p : Pkt) (q : Pkt), q = forceOp p 12 2 0 ∧ s.admits 0x0205 q wfTblBulk = true ∧ whole p ∧ (s.running
    0x0205 q).d0Writable = true ∧ (tblHeader q.params).form = 0 ∧ (s.running 0x0205 q).bulkGo q.params (tblHeader q.params).table
    (tblHeader q.params).index (tblHeader q.params).aux 0 = (t, none) :=
  ⟨dev, _, cr 0x0205 (bytesLe 16 (9 + 2 * 2 ^ 64) ++ bytesLe 16 3), cr 0x0205 (bytesLe 16 (9 + 2 * 2 ^ 64) ++ bytesLe 16 3), (forced
    (by decide +kernel)).symm, admits_sign (by decide +kernel), ⟨rfl, rfl⟩, by decide +kernel, by decide +kernel, done_of
    (by decide +kernel)⟩

theorem test_meets_TableWritesComplete_5_1 :
    ∃ (s : State) (u : State) (p : Pkt) (ns : List Nat), s.admits 0x0200 p wfTblWrite = true ∧ s.running 0x0200 p = u ∧ whole p ∧
    u.d0Writable = true ∧ (tblHeader p.params).table = 0x14 ∧ u.pool.recount = none ∧ (List.range 65).filter (bitAt (writtenData
    p.params)) = ns ∧ ns = [] :=
  ⟨dev, _, cr 0x0200 (bytesLe 16 0x14 ++ bytesLe 64 0), [], admits_sign (by decide +kernel), rfl, ⟨rfl, rfl⟩, by decide +kernel,
    by decide +kernel, by decide +kernel, by decide +kernel, by decide +kernel⟩

theorem test_meets_TableWritesComplete_5_2 :
    ∃ (s : State) (u : State) (p : Pkt) (ns : List Nat), s.admits 0x0200 p wfTblWrite = true ∧ s.running 0x0200 p = u ∧ whole p ∧
    u.d0Writable = true ∧ (tblHeader p.params).table = 0x14 ∧ u.pool.recount = none ∧ (List.range 65).filter (bitAt (writtenData
    p.params)) = ns ∧ ns ≠ [] :=
  ⟨dev, _, cr 0x0200 (bytesLe 16 0x14 ++ bytesLe 64 (2 ^ 64)), [64], admits_sign (by decide +kernel), rfl, ⟨rfl, rfl⟩,
    by decide +kernel, by decide +kernel, by decide +kernel, by decide +kernel, by decide +kernel⟩

theorem test_meets_PrefixWritesComplete_1a :
    ∃ (s : State) (p : Pkt) (q : Pkt) (c : Instr) (z : Nat) (h : Nat) (m : Nat), q = forceOp (forceOp p 0 8 2) 12 2 0 ∧ (c =
    .prefixInsert p ∨ c = .tblWrite q) ∧ s.admits 0x0200 q wfTblWrite = true ∧ whole p ∧ (s.running 0x0200 q).d0Writable = true ∧
    (tblHeader q.params).table = 2 ∧ (tblHeader q.params).form = 0 ∧ (s.running 0x0200 q).insertPlan (writtenData q.params) = .withShim
    z h m :=
  ⟨dev, cr 0x0200 (bytesLe 16 2 ++ bytesLe 32 (2 ^ 137)), cr 0x0200 (bytesLe 16 2 ++ bytesLe 32 (2 ^ 137)), .prefixInsert (cr 0x0200
    (bytesLe 16 2 ++ bytesLe 32 (2 ^ 137))), 97, 0, 0, ((forced (by decide +kernel)).trans (forced (by decide +kernel))).symm, .inl
    rfl, admits_sign (by decide +kernel), ⟨rfl, rfl⟩, by decide +kernel, by decide +kernel, by decide +kernel, by decide +kernel⟩

theorem test_meets_PrefixWritesComplete_2 :
    ∃ (s : State) (p : Pkt) (q : Pkt) (c : Instr) (u : Nat), q = forceOp (forceOp p 0 8 2) 12 2 0 ∧ (c = .prefixInsert p ∨ c =
    .tblWrite q) ∧ s.admits 0x0200 q wfTblWrite = true ∧ whole p ∧ (s.running 0x0200 q).d0Writable = true ∧ (tblHeader q.params).table
    = 2 ∧ (tblHeader q.params).form = 0 ∧ (s.running 0x0200 q).insertPlan (writtenData q.params) = .inPlace u :=
  ⟨devTbl fun t => { t with master := [(tkey 2 0 32768, 2 ^ 137 + 2 ^ 160)] }, cr 0x0200 (bytesLe 16 2 ++ bytesLe 32 (2 ^ 137)), cr
    0x0200 (bytesLe 16 2 ++ bytesLe 32 (2 ^ 137)), .prefixInsert (cr 0x0200 (bytesLe 16 2 ++ bytesLe 32 (2 ^ 137))), 0, ((forced
    (by decide +kernel)).trans (forced (by decide +kernel))).symm, .inl rfl, admits_sign (by decide +kernel), ⟨rfl, rfl⟩,
    by decide +kernel, by decide +kernel, by decide +kernel, by decide +kernel⟩

theorem test_meets_PrefixWritesComplete_3a :
    ∃ (s : State) (p : Pkt) (q : Pkt) (c : Instr) (u : Nat), q = forceOp (forceOp p 0 8 2) 12 2 1 ∧ (c = .prefixDelete p ∨ c =
    .tblWrite q) ∧ s.admits 0x0200 q wfTblWrite = true ∧ whole p ∧ (s.running 0x0200 q).d0Writable = true ∧ (tblHeader q.params).table
    = 2 ∧ (tblHeader q.params).form = 1 ∧ (s.running 0x0200 q).equalUnit (writtenData q.params) = some u :=
  ⟨devTbl fun t => { t with master := [(tkey 2 0 32768, 2 ^ 137 + 2 ^ 160)] }, cr 0x0200 (bytesLe 16 (2 + 2 ^ 12) ++ bytesLe 32 (2 ^
    137)), cr 0x0200 (bytesLe 16 (2 + 2 ^ 12) ++ bytesLe 32 (2 ^ 137)), .prefixDelete (cr 0x0200 (bytesLe 16 (2 + 2 ^ 12) ++ bytesLe 32
    (2 ^ 137))), 0, ((forced (by decide +kernel)).trans (forced (by decide +kernel))).symm, .inl rfl, admits_sign (by decide +kernel),
    ⟨rfl, rfl⟩, by decide +kernel, by decide +kernel, by decide +kernel, by decide +kernel⟩

theorem test_meets_PrefixWritesComplete_1b :
    ∃ (s : State) (p : Pkt) (q : Pkt) (c : Instr) (z : Nat) (h : Nat) (m : Nat), q = forceOp (forceOp p 0 8 2) 12 2 0 ∧ (c =
    .prefixInsert p ∨ c = .tblWrite q) ∧ s.admits 0x0200 q wfTblWrite = true ∧ whole p ∧ (s.running 0x0200 q).d0Writable = true ∧
    (tblHeader q.params).table = 2 ∧ (tblHeader q.params).form = 0 ∧ (s.running 0x0200 q).insertPlan (writtenData q.params) = .withShim
    z h m :=
  ⟨dev, cr 0x0200 (bytesLe 16 2 ++ bytesLe 32 (2 ^ 137)), cr 0x0200 (bytesLe 16 2 ++ bytesLe 32 (2 ^ 137)), .tblWrite (cr 0x0200
    (bytesLe 16 2 ++ bytesLe 32 (2 ^ 137))), 97, 0, 0, ((forced (by decide +kernel)).trans (forced (by decide +kernel))).symm, .inr
    rfl, admits_sign (by decide +kernel), ⟨rfl, rfl⟩, by decide +kernel, by decide +kernel, by decide +kernel, by decide +kernel⟩

theorem test_meets_PrefixWritesComplete_3b :
    ∃ (s : State) (p : Pkt) (q : Pkt) (c : Instr) (u : Nat), q = forceOp (forceOp p 0 8 2) 12 2 1 ∧ (c = .prefixDelete p ∨ c =
    .tblWrite q) ∧ s.admits 0x0200 q wfTblWrite = true ∧ whole p ∧ (s.running 0x0200 q).d0Writable = true ∧ (tblHeader q.params).table
    = 2 ∧ (tblHeader q.params).form = 1 ∧ (s.running 0x0200 q).equalUnit (writtenData q.params) = some u :=
  ⟨devTbl fun t => { t with master := [(tkey 2 0 32768, 2 ^ 137 + 2 ^ 160)] }, cr 0x0200 (bytesLe 16 (2 + 2 ^ 12) ++ bytesLe 32 (2 ^
    137)), cr 0x0200 (bytesLe 16 (2 + 2 ^ 12) ++ bytesLe 32 (2 ^ 137)), .tblWrite (cr 0x0200 (bytesLe 16 (2 + 2 ^ 12) ++ bytesLe 32 (2
    ^ 137))), 0, ((forced (by decide +kernel)).trans (forced (by decide +kernel))).symm, .inr rfl, admits_sign (by decide +kernel),
    ⟨rfl, rfl⟩, by decide +kernel, by decide +kernel, by decide +kernel, by decide +kernel⟩

theorem test_meets_PrefixWritesComplete_4 :
    ∃ (s : State) (p : Pkt) (q : Pkt) (l : Layout), q = forceOp (forceOp p 0 8 2) 12 2 1 ∧ s.admits 0x0205 q wfTblBulk = true ∧ whole p
    ∧ (s.running 0x0205 q).d0Writable = true ∧ (tblHeader q.params).form = 1 ∧ (s.running 0x0205 q).layout (fld (tblHeader
    q.params).aux 0 18) (fld (tblHeader q.params).aux 24 8) = some l :=
  ⟨dev, cr 0x0205 (bytesLe 16 (2 + 2 ^ 12 + 2 ^ 64 * (32768 + 2 ^ 24 * 32))), cr 0x0205 (bytesLe 16 (2 + 2 ^ 12 + 2 ^ 64 * (32768 + 2
    ^ 24 * 32))), _, ((forced (by decide +kernel)).trans (forced (by decide +kernel))).symm, admits_sign (by decide +kernel), ⟨rfl,
    rfl⟩, by decide +kernel, by decide +kernel, (Option.some_get (by decide +kernel)).symm⟩

theorem test_meets_TableReadsComplete_1 :
    ∃ (s : State) (u : State) (p : Pkt), s.admits 0x0202 p wfTblRead = true ∧ s.running 0x0202 p = u ∧ stateTable (tblHeader
    p.params).table = true :=
  ⟨dev, _, pk (bytesLe 16 0x1B), by decide +kernel, rfl, by decide +kernel⟩

theorem test_meets_TableReadsComplete_2_1 :
    ∃ (s : State) (u : State) (p : Pkt), s.admits 0x0202 p wfTblRead = true ∧ s.running 0x0202 p = u ∧ stateTable (tblHeader
    p.params).table = false ∧ (tblHeader p.params).source = 0 ∧ u.cab.paused = true :=
  ⟨devCab fun c => { c with paused := true }, _, pk (bytesLe 16 2), by decide +kernel, rfl, by decide +kernel, by decide +kernel,
    by decide +kernel⟩

theorem test_meets_TableReadsComplete_2_2 :
    ∃ (s : State) (u : State) (t : State) (p : Pkt) (e : _), s.admits 0x0202 p wfTblRead = true ∧ s.running 0x0202 p = u ∧ stateTable
    (tblHeader p.params).table = false ∧ (tblHeader p.params).source = 0 ∧ u.cab.paused = false ∧ u.readMaster (tblHeader
    p.params).table (tblHeader p.params).gen (tblHeader p.params).index = (t, some e) :=
  ⟨devCab fun c => { c with paused := false }, _, _, pk (bytesLe 16 2), _, by decide +kernel, rfl, by decide +kernel,
    by decide +kernel, by decide +kernel, some_of (by decide +kernel)⟩

theorem test_meets_TableReadsComplete_2_3 :
    ∃ (s : State) (u : State) (t : State) (p : Pkt), s.admits 0x0202 p wfTblRead = true ∧ s.running 0x0202 p = u ∧ stateTable
    (tblHeader p.params).table = false ∧ (tblHeader p.params).source = 0 ∧ u.cab.paused = false ∧ u.readMaster (tblHeader
    p.params).table (tblHeader p.params).gen (tblHeader p.params).index = (t, none) :=
  ⟨{ devCab (fun c => { c with paused := false }) with tables := { dev.tables with damaged := [(tkey 2 0 0, [])] } }, _, _, pk
    (bytesLe 16 2), by decide +kernel, rfl, by decide +kernel, by decide +kernel, by decide +kernel, done_of (by decide +kernel)⟩

theorem test_meets_TableReadsComplete_3 :
    ∃ (s : State) (u : State) (p : Pkt), s.admits 0x0202 p wfTblRead = true ∧ s.running 0x0202 p = u ∧ stateTable (tblHeader
    p.params).table = false ∧ (tblHeader p.params).source ≠ 0 :=
  ⟨dev, _, pk (bytesLe 16 (1 + 4 * 2 ^ 8)), by decide +kernel, rfl, by decide +kernel, by decide +kernel⟩

theorem test_meets_GenerationSwapRuns_1 :
    ∃ (s : State) (p : Pkt), s.admits 0x0204 p (lenZero 8) = true ∧ whole p ∧ (s.running 0x0204 p).tables.swap = none ∧ (s.running
    0x0204 p).d0Writable = true :=
  ⟨dev, cr 0x0204 (List.replicate 8 0), admits_sign (by decide +kernel), ⟨rfl, rfl⟩, by decide +kernel, by decide +kernel⟩

theorem test_meets_GenerationSwapRuns_2 :
    ∃ (s : State) (w : GenSwapState), s.tables.swap = some w ∧ w.draining = false ∧ w.s ≤ s.tt.round :=
  ⟨devTbl fun t => { t with swap := some { s := 0, newGen := true, waiter := some wtr, draining := false, loose := false } },
    { s := 0, newGen := true, waiter := some wtr, draining := false, loose := false }, by decide +kernel, by decide +kernel,
    by decide +kernel⟩

theorem test_meets_GenerationSwapRuns_3_1 :
    ∃ (s : State) (w : GenSwapState) (x : _), s.tables.swap = some w ∧ w.draining = true ∧ s.pinned (!w.newGen) = false ∧ w.waiter =
    some x :=
  ⟨devTbl fun t => { t with swap := some { s := 0, newGen := true, waiter := some wtr, draining := true, loose := false } },
    { s := 0, newGen := true, waiter := some wtr, draining := true, loose := false }, wtr, by decide +kernel, by decide +kernel,
    by decide +kernel, by decide +kernel⟩

theorem test_meets_GenerationSwapRuns_3_2 :
    ∃ (s : State) (w : GenSwapState), s.tables.swap = some w ∧ w.draining = true ∧ s.pinned (!w.newGen) = false ∧ w.waiter = none :=
  ⟨devTbl fun t => { t with swap := some { s := 0, newGen := true, waiter := none, draining := true, loose := false } },
    { s := 0, newGen := true, waiter := none, draining := true, loose := false }, by decide +kernel, by decide +kernel,
    by decide +kernel, by decide +kernel⟩

/-- A frame of the host or of a port that waits. -/
def frameOf (id : Nat) (data : List Byte) : Frame :=
  { id := id, source := .port, lp := 0, data := data, len := data.length, fcsOk := true, stomped := false, tsIn := 0, resIn := 0,
    slotWait := 0, gen := none, pass2 := false, parityCause := false, recircTag := 0, inj := none, cw := {}, cells := [],
    lastIn := true, lateFail := false, intakeDrop := false, parityMark := false, oldImage := false, owner := 0, feed := none,
    refused := false }

/-- A frame at rest at port 511. -/
def held : Frame := { frameOf 3 [1, 2, 3] with lp := 511 }

/-- The device with an active image whose quads give every service slot of cycle 0 a use, and quad 0 changed. -/
def devQuad (use : Nat) (f : Quad → Quad) : State :=
  { dev with
    tt := { dev.tt with active := some (image [(6, bytesLe 1 use)]) }
    tables := { dev.tables with quads := [f { Quad.init with rep := [(tkey 10 0 0, 2 ^ 544)] }, Quad.init, Quad.init, Quad.init] } }

/-- A learning candidate whose frame has passed its check. -/
def cand : Candidate := { addr := 2, vlan := 1, lp := 0, sec := 3, frame := none, fcsOk := some true }

/-- An age scan of some quads. -/
def scanOf (qs : List (Fin 4)) : AgeScan :=
  { waiter := wtr, limit := 1, remove := true, next := [], quads := qs, rowsRead := 0, rowsRemoved := 0 }

/-- A search that found row 0 free. -/
def lplan : LearnPlan := { cand := cand, row := 0, oldKey := 0, oldRec := 0, newKey := 1, newRec := 1, isNew := true }

theorem test_meets_ActivationRuns_4_2 :
    ∃ (s : State) (u : State) (lp : Fin 512), lp ∈ s.tt.unswitched ∧ s.switchReached lp = true ∧ s.reach (s.switchInstant lp.val) = u ∧
    s.fifoEmpty lp = false :=
  ⟨{ devTT (fun t => { t with unswitched := [511], switchRound := some 0, active := some [] }) with flow := { dev.flow with waiting := [(held, 0)] } },
    _, 511, by decide +kernel, by decide +kernel, rfl, by decide +kernel⟩

theorem test_meets_LearningAndAgeing_1_1 :
    ∃ (s : State) (t : State) (q : Fin 4) (c : Fin 1024) (x : _) (r : _), s.maintenance q.val 0 2 c.val = some t ∧ (t.quad q).removals
    = x :: r :=
  ⟨devQuad 2 fun q => { q with removals := [(0, 1, 2)] }, _, 0, 0, (0, 1, 2), [], (Option.some_get (by decide +kernel)).symm,
    by decide +kernel⟩

theorem test_meets_LearningAndAgeing_1_2 :
    ∃ (s : State) (t : State) (q : Fin 4) (c : Fin 1024) (p : _), s.maintenance q.val 0 2 c.val = some t ∧ (t.quad q).removals = [] ∧
    learnOn (t.quadBlock q) = true ∧ (t.quad q).plan = some p :=
  ⟨devQuad 2 fun q => { q with plan := some lplan }, _, 0, 0, lplan, (Option.some_get (by decide +kernel)).symm, by decide +kernel,
    by decide +kernel, by decide +kernel⟩

theorem test_meets_LearningAndAgeing_1_3 :
    ∃ (s : State) (t : State) (q : Fin 4) (c : Fin 1024) (x : _) (r : _), s.maintenance q.val 0 2 c.val = some t ∧ (t.quad q).removals
    = [] ∧ learnOn (t.quadBlock q) = true ∧ (t.quad q).plan = none ∧ (t.quad q).lqueue = x :: r ∧ x.fcsOk = some true :=
  ⟨devQuad 2 fun q => { q with lqueue := [cand] }, _, 0, 0, cand, [], (Option.some_get (by decide +kernel)).symm, by decide +kernel,
    by decide +kernel, by decide +kernel, by decide +kernel, by decide +kernel⟩

theorem test_meets_LearningAndAgeing_2 :
    ∃ (s : State) (p : Pkt), s.admits 0x0206 p wfAgeScan = true ∧ (s.running 0x0206 p).tables.scan = none :=
  ⟨dev, pk (bytesLe 8 (15 + 32767 * 2 ^ 16)), by decide +kernel, by decide +kernel⟩

theorem test_meets_LearningAndAgeing_3 :
    ∃ (s : State) (t : State) (q : Fin 4) (c : Fin 1024) (a : AgeScan), s.tables.scan = some a ∧ q ∈ a.quads ∧ s.maintenance q.val 0 4
    c.val = some t :=
  ⟨{ devQuad 4 id with tables := { (devQuad 4 id).tables with scan := some (scanOf [0]) } }, _, 0, 0, scanOf [0], by decide +kernel,
    by decide +kernel, (Option.some_get (by decide +kernel)).symm⟩

theorem test_meets_LearningAndAgeing_4 :
    ∃ (s : State) (a : AgeScan), s.tables.scan = some a ∧ a.quads = [] ∧ (s.tables.quads.all fun u => u.removals.isEmpty) = true :=
  ⟨devTbl fun t => { t with scan := some (scanOf []) }, scanOf [], by decide +kernel, by decide +kernel, by decide +kernel⟩

theorem test_meets_LearningAndAgeing_5_1 :
    ∃ (s : State) (u : State) (q : Fin 4) (t : TableId) (i : Nat) (c : Fin 1024), i < memSize t ∧ t ≠ .automata ∧ s.memSlot q.val t 3
    c.val = some u :=
  ⟨devTT fun t => { t with active := some (image [(6, List.replicate 2048 0 ++ [3])]) }, _, 0, .session, 1048575, 0,
    by decide +kernel, by decide +kernel, (Option.some_get (by decide +kernel)).symm⟩

theorem test_meets_LearningAndAgeing_5_2 :
    ∃ (s : State) (u : State) (q : Fin 4) (t : TableId) (i : Nat) (c : Fin 1024), i < memSize t ∧ t ≠ .automata ∧ s.memSlot q.val t 3
    c.val = some u ∧ associative t = true :=
  ⟨devQuad 3 id, _, 0, .station, 0, 0, by decide +kernel, by decide +kernel, (Option.some_get (by decide +kernel)).symm,
    by decide +kernel⟩

theorem test_meets_LearningAndAgeing_6 :
    ∃ (s : State) (u : State) (v : State) (q : Fin 4) (t : TableId) (b : Nat) (code : Nat) (gen : Nat) (block : Nat) (c : Fin 1024)
    (rows : List Nat), s.d0Writable = true ∧ memBlock t b = (code, gen, block) ∧ s.blockRows code block ≠ [] ∧ s.tables.damaged = [] ∧
    s.blockQueued q.val code gen block (s.absCycle c.val) = false ∧ s.memSlot q.val t 5 c.val = some u ∧ (if t = .automata then u else
    u.tick 0x6C (16 + q.val)).blockRows code block = rows ∧ (if t = .automata then u else u.tick 0x6C (16 + q.val)).repairSlots q.val t
    (rows.length - 1) = v ∧ v.blockDigest v.tables.master code gen block ≠ v.blockDigest (v.quad q).rep code gen block :=
  ⟨{ dev with tt := { dev.tt with active := some [] }, tables := { dev.tables with master := [(tkey 6 0 255, 2 ^ 127)] } }, _, _, 3,
    .automata, 3, 6, 0, 3, 1023, _, by decide +kernel, rfl, by decide +kernel, by decide +kernel, by decide +kernel, (Option.some_get
    (by decide +kernel)).symm, rfl, rfl, by
      unfold State.blockDigest
      exact crc32c_ne (bs := List.replicate 1023 0) (x :=
    0x80) (y := 0) (by decide +kernel) (by decide +kernel) (by decide)⟩

/-- The device with an active image and one port changed. -/
def devPort (lp : Nat) (f : Port → Port) : State := (devTT fun t => { t with active := some [] }).modPort lp f

/-- The device with a port's pause state changed. -/
def devPause (lp k : Nat) (f : PauseState → PauseState) : State :=
  devPort lp fun q => { q with st := .up, cfg := 2 ^ 128, pause := [(k, f PauseState.init)] }

/-- The state in another round. -/
def inRound (s : State) (n : BitVec 64) : State := { s with tt := { s.tt with round := n } }

/-- A state with port 504's island and lanes powered. -/
def live504 (s : State) : State :=
  ({ s with tt := { s.tt with islandsDown := [] } } : State).modMacro 63 fun m => { m with serdesUp := true }

theorem test_meets_PortCommandsComplete_1 :
    ∃ (s : State) (p : Pkt), s.admits 0x0300 p wfPortConfig = true ∧ p.cancelAt = none ∧ (s.running 0x0300 p).calibrating (fld (le
    (p.params.take 8)) 0 6) = false ∧ ((fld (le (p.params.take 8)) 8 2 = ((s.running 0x0300 p).macro_ (fld (le (p.params.take 8)) 0
    6)).mode.toNat ∨ ((s.running 0x0300 p).macroUp (fld (le (p.params.take 8)) 0 6) = false ∧ (s.running 0x0300 p).tt.act = none))) :=
  ⟨dev, cr 0x0300 (bytesLe 8 63), admits_sign (by decide +kernel), by decide +kernel, by decide +kernel, by decide +kernel⟩

theorem test_meets_PortCommandsComplete_2 :
    ∃ (s : State) (p : Pkt), s.admits 0x0301 p wfPortStatus = true :=
  ⟨dev, pk (bytesLe 8 504), by decide +kernel⟩

theorem test_meets_PortCommandsComplete_3 :
    ∃ (s : State) (p : Pkt), s.admits 0x0302 p wfStatsRead = true ∧ queryPort p.params ≠ 512 :=
  ⟨dev, pk (bytesLe 8 (504 + 2 ^ 16)), by decide +kernel, by decide +kernel⟩

theorem test_meets_PortCommandsComplete_4 :
    ∃ (s : State) (p : Pkt), s.admits 0x0302 p wfStatsRead = true ∧ queryPort p.params = 512 :=
  ⟨dev, pk (bytesLe 8 512), by decide +kernel, by decide +kernel⟩

theorem test_meets_BringupRuns_1 :
    ∃ (s : State) (lp : Fin 512), (s.port lp.val).st = .waking ∧ s.islandDown (macroOf lp.val) = false ∧ (s.macro_ (macroOf
    lp.val)).serdesUp = true :=
  ⟨live504 (devPort 504 fun q => { q with st := .waking }), 504, by decide +kernel, by decide +kernel, by decide +kernel⟩

theorem test_meets_BringupRuns_2 :
    ∃ (s : State) (lp : Fin 512), (s.port lp.val).st = .an :=
  ⟨devPort 504 fun q => { q with st := .an }, 504, by decide +kernel⟩

theorem test_meets_BringupRuns_3 :
    ∃ (s : State) (lp : Fin 512), (s.port lp.val).st = .training :=
  ⟨devPort 504 fun q => { q with st := .training }, 504, by decide +kernel⟩

theorem test_meets_BringupRuns_4 :
    ∃ (s : State) (lp : Fin 512), (s.port lp.val).st = .align :=
  ⟨devPort 504 fun q => { q with st := .align }, 504, by decide +kernel⟩

theorem test_meets_BringupRuns_5 :
    ∃ (s : State) (u : State) (lp : Fin 512), (s.port lp.val).st = .align ∧ s.due ((s.port lp.val).alignAt + 10 * msPs) = true ∧
    (s.reach ((s.port lp.val).alignAt + 10 * msPs)).fallBack lp.val = u :=
  ⟨inRound (devPort 504 fun q => { q with st := .align }) 24414, _, 504, by decide +kernel, by decide +kernel, rfl⟩

theorem test_meets_BringupRuns_6 :
    ∃ (s : State) (lp : Fin 512), s.isUp lp.val = true :=
  ⟨devPort 504 fun q => { q with st := .up }, 504, by decide +kernel⟩

theorem test_meets_BringupRuns_7 :
    ∃ (s : State) (lp : Nat), (s.port lp).woken = true :=
  ⟨devPort 504 fun q => { q with st := .up, woken := true }, 504, by decide +kernel⟩

theorem test_meets_BringupRuns_8 :
    ∃ (s : State) (lp : Nat), (s.port lp).woken = false ∧ (s.macro_ (macroOf lp)).pllFault = false ∧ (s.macro_ (macroOf lp)).shed =
    false ∧ s.islandDown (macroOf lp) = false ∧ (s.macro_ (macroOf lp)).serdesUp = true ∧ (s.port lp).lanesUp = true ∧ s.planAgrees
    (macroOf lp) = true :=
  ⟨live504 (devPort 504 fun q => { q with st := .up, lanesUp := true }), 504, by decide +kernel, by decide +kernel,
    by decide +kernel, by decide +kernel, by decide +kernel, by decide +kernel, by decide +kernel⟩

theorem test_meets_PortPowerRuns_1 :
    ∃ (s : State) (lp : Fin 512), s.isUp lp.val = true :=
  ⟨devPort 504 fun q => { q with st := .up }, 504, by decide +kernel⟩

theorem test_meets_PortPowerRuns_2 :
    ∃ (s : State) (lp : Fin 512), (s.port lp.val).st = .lowPower ∧ (s.port lp.val).wakeArmed = true ∧ (s.port lp.val).calRun = none :=
  ⟨devPort 504 fun q => { q with st := .lowPower, wakeArmed := true }, 504, by decide +kernel, by decide +kernel, by decide +kernel⟩

theorem test_meets_PortPowerRuns_3 :
    ∃ (s : State) (lp : Fin 512), (s.port lp.val).st = .lowPower ∧ (s.port lp.val).wakeFired = true ∧ (s.port lp.val).calRun = none :=
  ⟨devPort 504 fun q => { q with st := .lowPower, wakeFired := true }, 504, by decide +kernel, by decide +kernel, by decide +kernel⟩

theorem test_meets_PortPowerRuns_4 :
    ∃ (s : State) (m : Fin 64), (s.flt.safe = false ∨ s.flt.thermtripN = false) ∧ (s.islandNeeded m.val = true ∨ s.calibrating m.val =
    true) :=
  ⟨devPort 504 fun q => { q with st := .align }, 63, .inl (by decide +kernel), .inl (by decide +kernel)⟩

theorem test_meets_PauseRuns_1 :
    ∃ (s : State) (lp : Fin 512) (a : Fin 3277), (s.at_ a.val).isUp lp.val = true ∧ (s.at_ a.val).flt.safe = false ∧ (s.at_ a.val).pcfg
    lp.val 48 2 = 1 :=
  ⟨devPort 504 fun q => { q with st := .up, cfg := 2 ^ 48 }, 504, 0, by decide +kernel, by decide +kernel, by decide +kernel⟩

theorem test_meets_PauseRuns_2 :
    ∃ (s : State) (u : State) (lp : Fin 512) (classes : BitVec 8) (a : Fin 3277), s.at_ a.val = u ∧ u.isUp lp.val = true ∧ u.flt.safe =
    false ∧ u.pcfg lp.val 48 2 = 2 ∧ classes ≠ 0 :=
  ⟨devPort 504 fun q => { q with st := .up, cfg := 2 ^ 49 }, _, 504, 128, 3276, rfl, by decide +kernel, by decide +kernel,
    by decide +kernel, by decide +kernel⟩

theorem test_meets_PauseRuns_3 :
    ∃ (s : State) (lp : Fin 512) (j : Fin 9) (x : Nat × BitVec 16), ((∀ k < 9, k ≠ j.val → (tget PauseState.init (s.port lp.val).pause
    k).coming = [])) ∧ (tget PauseState.init (s.port lp.val).pause j.val).coming = [x] ∧ s.due x.1 = true :=
  ⟨devPause 504 8 fun w => { w with coming := [(0, 3)] }, 504, 8, (0, 3), by decide +kernel, by decide +kernel, by decide +kernel⟩

theorem test_meets_PauseRuns_4 :
    ∃ (s : State) (lp : Fin 512) (k : Fin 9) (t : Nat), (tget PauseState.init (s.port lp.val).pause k.val).until_ = some t ∧ s.due t =
    true :=
  ⟨devPause 504 8 fun w => { w with until_ := some 0 }, 504, 8, 0, by decide +kernel, by decide +kernel⟩

theorem test_meets_PauseRuns_5 :
    ∃ (s : State) (lp : Fin 512) (k : Fin 9) (u : Nat) (h : Nat), (tget PauseState.init (s.port lp.val).pause k.val).until_ = some u ∧
    (tget PauseState.init (s.port lp.val).pause k.val).heldSince = some h ∧ s.pcfg lp.val 128 16 ≠ 0 ∧ s.due (h + s.pcfg lp.val 128 16
    * msPs) = true ∧ h + s.pcfg lp.val 128 16 * msPs ≤ u :=
  ⟨inRound (devPause 504 8 fun w => { w with until_ := some 1000000000, heldSince := some 0 }) 2441, 504, 8, 1000000000, 0,
    by decide +kernel, by decide +kernel, by decide +kernel, by decide +kernel, by decide +kernel⟩

theorem test_meets_PauseRuns_6 :
    ∃ (s : State) (lp : Fin 512) (k : Fin 9) (t : Nat), (tget PauseState.init (s.port lp.val).pause k.val).holdoff = some t ∧ s.due t =
    true :=
  ⟨devPause 504 8 fun w => { w with holdoff := some 0 }, 504, 8, 0, by decide +kernel, by decide +kernel⟩

theorem test_meets_PauseRuns_7_1 :
    ∃ (s : State) (lp : Fin 512) (k : Fin 9) (w : PauseState), s.isUp lp.val = true ∧ s.flt.safe = false ∧ tget PauseState.init (s.port
    lp.val).pause k.val = w ∧ w.txOn = true ∧ s.pcfg lp.val 50 2 = (if k.val = 8 then 1 else 2) ∧ w.txLast = none :=
  ⟨(devPause 504 8 fun w => { w with txOn := true }).modPort 504 fun q => { q with cfg := 2 ^ 50 }, 504, 8, _, by decide +kernel,
    by decide +kernel, rfl, by decide +kernel, by decide +kernel, by decide +kernel⟩

theorem test_meets_PauseRuns_7_2 :
    ∃ (s : State) (lp : Fin 512) (k : Fin 9) (w : PauseState) (t : _) (e : _), s.isUp lp.val = true ∧ s.flt.safe = false ∧ tget
    PauseState.init (s.port lp.val).pause k.val = w ∧ w.txOn = true ∧ s.pcfg lp.val 50 2 = (if k.val = 8 then 1 else 2) ∧ w.txLast =
    some t ∧ e = t + s.pcfg lp.val 160 16 * quantumPs (s.modeOf lp.val) / 2 ∧ s.due e = true :=
  ⟨(devPause 504 7 fun w => { w with txOn := true, txLast := some 0 }).modPort 504 fun q => { q with cfg := 2 ^ 51 }, 504, 7, _, 0,
    _, by decide +kernel, by decide +kernel, rfl, by decide +kernel, by decide +kernel, by decide +kernel, rfl, by decide +kernel⟩

theorem test_meets_PauseRuns_7_3 :
    ∃ (s : State) (lp : Fin 512) (k : Fin 9) (w : PauseState), s.isUp lp.val = true ∧ s.flt.safe = false ∧ tget PauseState.init (s.port
    lp.val).pause k.val = w ∧ w.txOn = false ∧ w.txLast.isSome = true :=
  ⟨devPause 504 8 fun w => { w with txOn := false, txLast := some 0 }, 504, 8, _, by decide +kernel, by decide +kernel, rfl,
    by decide +kernel, by decide +kernel⟩

/-- The device with 2 GiB of Cabinet and one drawer changed. -/
def devDrawer (d : Nat) (f : Drawer → Drawer) : State :=
  (devCab fun c => { c with installedGib := 2, paused := false, initialising := false }).modDrawer d f

/-- A channel's training in which every lane has an eye of 16 steps. -/
def trained : Training :=
  let lanes := List.replicate 10 (List.replicate 32 0xFFFF)
  { stepsOk := true, read := lanes, write := lanes }

/-- A replay request. -/
def replayReq : ReplayReq := { pipe := 0, tmpl := 0, l3 := 0, feed := 5, m0 := 0, count := 2, udp := 0, mac := 0, ip := 0, done := 0 }

/-- The device with that request first, and entries of the capture and of the request configuration. -/
def devReplay (cap req : Image) : State :=
  (({ devDrawer 0 id with cab := { (devDrawer 0 id).cab with replayQ := [replayReq] } } : State).setWork capCode 5 cap).setWork reqCode 0 req

/-- The device with an instance changed. -/
def devInst (n : Nat) (f : Inst → Inst) : State := dev.modInst n f

/-- A staged record of drawer 63. -/
def staged : Staged := { drawer := 63, typ := 1, cls := none, body := [], tsIn := 0, kept := false }

/-- The device with every channel changed. -/
def devChans (f : Chan → Chan) : State := devCab fun c => { c with chans := (List.range 16).map fun k => (k, f Chan.init) }

theorem test_meets_DrawersComplete_1 :
    ∃ (s : State) (p : Pkt), s.admits 0x0400 p wfDrawerOpen = true ∧ ((s.running 0x0400 p).drawer (fld (img p.params) 0 6)).st = .empty
    ∧ (s.running 0x0400 p).cab.paused = false ∧ fld (img p.params) 64 64 + fld (img p.params) 128 64 ≤ (s.running 0x0400 p).installed ∧
    2 ^ 30 ≤ fld (img p.params) 64 64 ∧ (s.running 0x0400 p).overlaps (fld (img p.params) 64 64) (fld (img p.params) 64 64 + fld (img
    p.params) 128 64) = false ∧ ((fld (img p.params) 8 2 = 1 → ((s.running 0x0400 p).key (4 + fld (img p.params) 32 2)).key.isSome =
    true ∧ (s.running 0x0400 p).openEvidence.length < 8)) :=
  ⟨devDrawer 2 id, cr 0x0400 (bytesLe 40 (1 + 2 ^ 8 + 2 ^ 32 + 2 ^ 94 + 2 ^ 158)), admits_sign (by decide +kernel),
    by decide +kernel, by decide +kernel, by decide +kernel, by decide +kernel, by decide +kernel, by decide +kernel⟩

theorem test_meets_DrawersComplete_2 :
    ∃ (s : State) (p : Pkt), s.admits 0x0401 p wfDrawer = true ∧ ((s.running 0x0401 p).drawer (fld (img p.params) 0 6)).st = .opened ∧
    ((s.running 0x0401 p).drawer (fld (img p.params) 0 6)).waiter = none :=
  ⟨devDrawer 63 fun w => { w with st := .opened }, cr 0x0401 (bytesLe 8 63), admits_sign (by decide +kernel), by decide +kernel,
    by decide +kernel⟩

theorem test_meets_DrawersComplete_3 :
    ∃ (s : State) (p : Pkt), s.admits 0x0402 p wfDrawer = true ∧ ((s.running 0x0402 p).drawer (fld (img p.params) 0 6)).st = .closed :=
  ⟨devDrawer 63 fun w => { w with st := .closed }, cr 0x0402 (bytesLe 8 63), admits_sign (by decide +kernel), by decide +kernel⟩

theorem test_meets_DrawersComplete_4 :
    ∃ (s : State) (d : Fin 64) (w : Waiter), (s.drawer d.val).st = .erasing ∧ (s.drawer d.val).waiter = some w ∧ s.cab.paused = false ∧
    s.flt.safe = false :=
  ⟨devDrawer 63 fun w => { w with st := .erasing, waiter := some wtr }, 63, wtr, by decide +kernel, by decide +kernel,
    by decide +kernel, by decide +kernel⟩

theorem test_meets_DrawersComplete_5 :
    ∃ (s : State) (n : Fin 64) (d : Fin 64), d.val ≠ 0 ∧ (n.val = 0 ∨ ((s.inst n.val).st ≠ .absent ∧ (s.inst n.val).st ≠ .fencing ∧
    bitAt (s.inst n.val).drawerMask.toNat d.val = true)) :=
  ⟨devInst 63 fun i => { i with st := .active, drawerMask := 2 ^ 63 }, 63, 63, by decide +kernel, .inr ⟨by decide +kernel,
    by decide +kernel, by decide +kernel⟩⟩

theorem test_meets_SealsAndReplayComplete_1 :
    ∃ (s : State) (u : State) (p : Pkt) (d : Nat) (x : State × List (Nat × Nat)), s.admits 0x0403 p wfDrawer = true ∧ s.running 0x0403
    p = u ∧ fld (img p.params) 0 6 = d ∧ u.cab.paused = false ∧ (d = 0 ∨ u.openEvidence.contains d = true) ∧ (if d = 0 then
    u.openEvidence else [d]).foldl sealStep (u, []) = x :=
  ⟨devDrawer 63 fun w => { w with st := .opened, typ := 1, sealRes := 2 ^ 64 - sealSpan }, _, pk (bytesLe 8 63), _, _,
    by decide +kernel, rfl, rfl, by decide +kernel, .inr (by decide +kernel), rfl⟩

theorem test_meets_SealsAndReplayComplete_2 :
    ∃ (s : State) (d : Fin 64) (a : Fin 3277), (s.at_ a.val).openEvidence.contains d.val = true ∧ (s.at_ a.val).cab.paused = false ∧
    (s.at_ a.val).flt.safe = false ∧ sealSpan ≤ ((s.at_ a.val).resTime + 2 ^ 64 - ((s.at_ a.val).drawer d.val).sealRes) % 2 ^ 64 :=
  ⟨devDrawer 63 fun w => { w with st := .opened, typ := 1, sealRes := 2 ^ 64 - sealSpan }, 63, 0, by decide +kernel,
    by decide +kernel, by decide +kernel, by decide +kernel⟩

theorem test_meets_SealsAndReplayComplete_3_1 :
    ∃ (s : State) (u : State) (a : Fin 3277), s.at_ a.val = u ∧ u.cab.paused = false ∧ u.flt.safe = false ∧ ((∃ k < 16, u.chanOut k =
    false)) ∧ u.cab.staging = [] :=
  ⟨devDrawer 0 id, _, 3276, rfl, by decide +kernel, by decide +kernel, ⟨0, by decide +kernel, by decide +kernel⟩, by decide +kernel⟩

theorem test_meets_SealsAndReplayComplete_3_2 :
    ∃ (s : State) (u : State) (a : Fin 3277), s.at_ a.val = u ∧ u.cab.paused = false ∧ u.flt.safe = false ∧ ((∃ k < 16, u.chanOut k =
    false)) ∧ u.cab.staging ≠ [] ∧ u.drainRoom = true :=
  ⟨{ devDrawer 63 id with cab := { (devDrawer 63 id).cab with staging := [staged] } }, _, 3276, rfl, by decide +kernel,
    by decide +kernel, ⟨0, by decide +kernel, by decide +kernel⟩, by decide +kernel, by decide +kernel⟩

theorem test_meets_SealsAndReplayComplete_4a :
    ∃ (s : State) (p : Pkt) (op : Nat) (c : Instr), (op, c) ∈ [(0, Instr.replayConfigCapture p), (1, .replayConfigRequest p), (2,
    .replayConfigQuota p)] ∧ s.admits 0x0404 (forceOp p 0 8 op) wfReplayConfig = true ∧ whole p ∧ (s.running 0x0404 (forceOp p 0 8
    op)).d0Writable = true ∧ replayOp (forceOp p 0 8 op).params = op ∧ ((op = 0 → (s.running 0x0404 (forceOp p 0 8 op)).ringFits (le
    ((forceOp p 0 8 op).params.drop 8)) = true)) :=
  ⟨devDrawer 63 fun w => { w with st := .opened, typ := 2, size := 2 ^ 19 }, cr 0x0404 (bytesLe 8 0 ++ bytesLe 16 (1 + 63 * 2 + 10 *
    2 ^ 11)), 0, .replayConfigCapture (cr 0x0404 (bytesLe 8 0 ++ bytesLe 16 (1 + 63 * 2 + 10 * 2 ^ 11))), .head _, admits_forced
    (by decide +kernel) (admits_sign (by decide +kernel)), ⟨rfl, rfl⟩, by decide +kernel, by decide +kernel, by decide +kernel⟩

theorem test_meets_SealsAndReplayComplete_4b :
    ∃ (s : State) (p : Pkt) (op : Nat) (c : Instr), (op, c) ∈ [(0, Instr.replayConfigCapture p), (1, .replayConfigRequest p), (2,
    .replayConfigQuota p)] ∧ s.admits 0x0404 (forceOp p 0 8 op) wfReplayConfig = true ∧ whole p ∧ (s.running 0x0404 (forceOp p 0 8
    op)).d0Writable = true ∧ replayOp (forceOp p 0 8 op).params = op ∧ ((op = 0 → (s.running 0x0404 (forceOp p 0 8 op)).ringFits (le
    ((forceOp p 0 8 op).params.drop 8)) = true)) :=
  ⟨devDrawer 63 fun w => { w with st := .opened, typ := 2, size := 2 ^ 19 }, cr 0x0404 (bytesLe 40 (1 + 2 ^ 80)), 1,
    .replayConfigRequest (cr 0x0404 (bytesLe 40 (1 + 2 ^ 80))), .tail _ (.head _), admits_forced (by decide +kernel) (admits_sign
    (by decide +kernel)), ⟨rfl, rfl⟩, by decide +kernel, by decide +kernel, by decide +kernel⟩

theorem test_meets_SealsAndReplayComplete_4c :
    ∃ (s : State) (p : Pkt) (op : Nat) (c : Instr), (op, c) ∈ [(0, Instr.replayConfigCapture p), (1, .replayConfigRequest p), (2,
    .replayConfigQuota p)] ∧ s.admits 0x0404 (forceOp p 0 8 op) wfReplayConfig = true ∧ whole p ∧ (s.running 0x0404 (forceOp p 0 8
    op)).d0Writable = true ∧ replayOp (forceOp p 0 8 op).params = op ∧ ((op = 0 → (s.running 0x0404 (forceOp p 0 8 op)).ringFits (le
    ((forceOp p 0 8 op).params.drop 8)) = true)) :=
  ⟨devDrawer 63 fun w => { w with st := .opened, typ := 2, size := 2 ^ 19 }, cr 0x0404 (bytesLe 8 2 ++ bytesLe 8 (2 ^ 21 - 1)), 2,
    .replayConfigQuota (cr 0x0404 (bytesLe 8 2 ++ bytesLe 8 (2 ^ 21 - 1))), .tail _ (.tail _ (.head _)), admits_forced
    (by decide +kernel) (admits_sign (by decide +kernel)), ⟨rfl, rfl⟩, by decide +kernel, by decide +kernel, by decide +kernel⟩

theorem test_meets_SealsAndReplayComplete_5_1 :
    ∃ (s : State) (u : State) (r : ReplayReq) (rest : List ReplayReq), s.cab.paused = false ∧ s.flt.safe = false ∧ s.cab.replayQ = r ::
    rest ∧ ({ s with cab := { s.cab with replayQ := rest } } : State) = u ∧ bitAt (u.captureEntry r.feed) 0 = false :=
  ⟨devReplay 0 0, _, replayReq, [], by decide +kernel, by decide +kernel, by decide +kernel, rfl, by decide +kernel⟩

theorem test_meets_SealsAndReplayComplete_5_2 :
    ∃ (s : State) (u : State) (r : ReplayReq) (rest : List ReplayReq), s.cab.paused = false ∧ s.flt.safe = false ∧ s.cab.replayQ = r ::
    rest ∧ ({ s with cab := { s.cab with replayQ := rest } } : State) = u ∧ bitAt (u.captureEntry r.feed) 0 = true ∧ u.requestEntry
    r.tmpl = none :=
  ⟨devReplay 1 0, _, replayReq, [], by decide +kernel, by decide +kernel, by decide +kernel, rfl, by decide +kernel,
    by decide +kernel⟩

theorem test_meets_SealsAndReplayComplete_5_3 :
    ∃ (s : State) (u : State) (r : ReplayReq) (rest : List ReplayReq) (e : _) (v : _) (x : _), s.cab.paused = false ∧ s.flt.safe =
    false ∧ s.cab.replayQ = r :: rest ∧ ({ s with cab := { s.cab with replayQ := rest } } : State) = u ∧ bitAt (u.captureEntry r.feed)
    0 = true ∧ u.requestEntry r.tmpl = some e ∧ r.count ≤ fld e 16 11 ∧ u.replayRun e (u.captureEntry r.feed) r (r.count - r.done) =
    (v, x) :=
  ⟨devReplay 1 (2 ^ 8 + 2 ^ 17), _, replayReq, [], _, _, _, by decide +kernel, by decide +kernel, by decide +kernel, rfl,
    by decide +kernel, (Option.some_get (by decide +kernel)).symm, by decide +kernel, (Prod.mk.eta).symm⟩

theorem test_meets_SealsAndReplayComplete_5_4 :
    ∃ (s : State) (u : State) (r : ReplayReq) (rest : List ReplayReq) (e : _) (v : _) (x : _), s.cab.paused = false ∧ s.flt.safe =
    false ∧ s.cab.replayQ = r :: rest ∧ ({ s with cab := { s.cab with replayQ := rest } } : State) = u ∧ bitAt (u.captureEntry r.feed)
    0 = true ∧ u.requestEntry r.tmpl = some e ∧ fld e 16 11 < r.count ∧ (u.tick 0x95).replayRun e (u.captureEntry r.feed)
    { r with count := fld e 16 11 } (fld e 16 11 - r.done) = (v, x) :=
  ⟨devReplay 1 (2 ^ 8 + 2 ^ 16), _, replayReq, [], _, _, _, by decide +kernel, by decide +kernel, by decide +kernel, rfl,
    by decide +kernel, (Option.some_get (by decide +kernel)).symm, by decide +kernel, (Prod.mk.eta).symm⟩

theorem test_meets_CabinetPausesAndResumes_1 :
    ∃ (s : State) (u : State) (p : Pkt) (q : Pkt), q = forceOp p 0 8 0 ∧ s.admits 0x0405 q wfCabinetPause = true ∧ s.running 0x0405 q =
    u ∧ fld (img q.params) 0 8 = 0 ∧ u.cab.paused = false ∧ u.cab.pauseWait = none :=
  ⟨devCab fun c => { c with initialising := false, paused := false }, _, cr 0x0405 (bytesLe 8 0), cr 0x0405 (bytesLe 8 0), (forced
    (by decide +kernel)).symm, admits_sign (by decide +kernel), rfl, by decide +kernel, by decide +kernel, by decide +kernel⟩

theorem test_meets_CabinetPausesAndResumes_2 :
    ∃ (s : State) (u : State) (p : Pkt) (q : Pkt), q = forceOp p 0 8 1 ∧ s.admits 0x0405 q wfCabinetPause = true ∧ s.running 0x0405 q =
    u ∧ fld (img q.params) 0 8 = 1 ∧ u.cab.paused = true ∧ u.cab.initialising = false ∧ u.cab.pauseWait = none ∧ u.channelTest = false :=
  ⟨devCab fun c => { c with initialising := false, paused := true }, _, cr 0x0405 (bytesLe 8 1), cr 0x0405 (bytesLe 8 1), (forced
    (by decide +kernel)).symm, admits_sign (by decide +kernel), rfl, by decide +kernel, by decide +kernel, by decide +kernel,
    by decide +kernel, by decide +kernel⟩

theorem test_meets_CabinetPausesAndResumes_3 :
    ∃ (s : State) (w : Waiter), s.cab.pauseWait = some (w, false) :=
  ⟨devCab fun c => { c with pauseWait := some (wtr, false) }, wtr, by decide +kernel⟩

theorem test_meets_CabinetPausesAndResumes_4_1 :
    ∃ (s : State) (u : State) (v : State) (w : Waiter), s.cab.pauseWait = some (w, true) ∧
    ({ s with cab := { s.cab with pauseWait := none, paused := false } } : State).selfRefresh false = u ∧ (List.range 16).foldl (fun (t
    : State) k => if (t.chan k).admitted then t.modChan k fun c =>
    { c with st := .inService, cause := 0, errTimes := [], resweepOk := false, down := false, selfRefresh := false } else t) u = v :=
  ⟨devCab fun c => { c with pauseWait := some (wtr, true) }, _, _, wtr, by decide +kernel, rfl, rfl⟩

theorem test_meets_CabinetPausesAndResumes_4_2 :
    ∃ (s : State) (u : State) (v : State) (w : Waiter) (k : Nat), s.cab.pauseWait = some (w, true) ∧
    ({ s with cab := { s.cab with pauseWait := none, paused := false } } : State).selfRefresh false = u ∧ (List.range 16).foldl (fun (t
    : State) k => if (t.chan k).admitted then t.modChan k fun c =>
    { c with st := .inService, cause := 0, errTimes := [], resweepOk := false, down := false, selfRefresh := false } else t) u = v ∧ k
    < 16 ∧ (u.chan k).admitted = true :=
  ⟨devCab fun c =>
    { c with pauseWait := some (wtr, true), chans := [(15, { Chan.init with st := .outOfService, cause := 5, resweepOk := true })] },
    _, _, wtr, 15, by decide +kernel, rfl, rfl, by decide +kernel, by decide +kernel⟩

theorem test_meets_CabinetPausesAndResumes_5 :
    ∃ (s : State) (k : Nat), k < 16 ∧ s.chanOut k = false :=
  ⟨dev, 15, by decide +kernel, by decide +kernel⟩

theorem test_meets_DramRuns_1_1 :
    ∃ (s : State) (u : State) (k : Fin 16) (t : Training), 4 ≤ s.boot.phase ∧ (s.chan k.val).st = .training ∧
    ({ s with boot := { s.boot with dramDone := s.boot.dramDone ||| (1 <<< k.val) } } : State).modChan k.val (fun c => c.settle t) = u
    ∧ trainingPasses (u.chan k.val).laneCount t = true :=
  ⟨devCab fun c => { c with chans := [(15, { Chan.init with laneCount := 10 })] }, _, 15, trained, by decide +kernel,
    by decide +kernel, rfl, by decide +kernel⟩

theorem test_meets_DramRuns_1_2 :
    ∃ (s : State) (u : State) (k : Fin 16) (t : Training), 4 ≤ s.boot.phase ∧ (s.chan k.val).st = .training ∧
    ({ s with boot := { s.boot with dramDone := s.boot.dramDone ||| (1 <<< k.val) } } : State).modChan k.val (fun c => c.settle t) = u
    ∧ trainingPasses (u.chan k.val).laneCount t = false :=
  ⟨dev, _, 15, trained, by decide +kernel, by decide +kernel, rfl, by decide +kernel⟩

theorem test_meets_DramRuns_2 :
    ∃ (s : State), s.cab.initialising = true ∧ ((∀ k < 16, (s.chan k).st ≠ .training)) :=
  ⟨{ devChans (fun c => { c with st := .initialising }) with cab := { (devChans fun c => { c with st := .initialising }).cab with initialising := true } },
    by decide +kernel, by decide +kernel⟩

theorem test_meets_DramRuns_3 :
    ∃ (s : State) (k : Fin 16), (s.chan k.val).st = .inService ∧ (s.chan k.val).selfRefresh = false :=
  ⟨devChans fun c => { c with st := .inService }, 15, by decide +kernel, by decide +kernel⟩

theorem test_meets_DramRuns_4 :
    ∃ (s : State) (u : BitVec 36), (s.chan (chanOf (u.toNat * 64))).st = .inService ∧ (s.chan (chanOf (u.toNat * 64))).selfRefresh =
    false :=
  ⟨devChans fun c => { c with st := .inService }, 2 ^ 36 - 1, by decide +kernel, by decide +kernel⟩

theorem test_meets_DramRuns_5 :
    ∃ (s : State) (u : State) (a : Nat), ((s.modChan (chanOf a) fun c =>
    { c with uncorr := c.uncorr + 1, lastAddr := BitVec.ofNat 42 (a / 64 * 64), lastValid := true, errTimes := s.nowPs :: (c.errTimes.filter fun t => decide (s.nowPs < t + secPs)) }).raise
    1284) = u :=
  ⟨devChans fun c => { c with st := .inService }, _, 64, rfl⟩

theorem test_meets_DramRuns_6 :
    ∃ (s : State) (u : State) (k : Fin 16), (s.chan k.val).st = .inService ∧ (s.chan k.val).selfRefresh = false ∧ s.modChan k.val (fun
    c => { c with patrol := (c.patrol + 1) % max 1 (s.installed / 1024) }) = u :=
  ⟨devChans fun c => { c with st := .inService }, _, 15, by decide +kernel, by decide +kernel, rfl⟩

theorem test_meets_DramRuns_7 :
    ∃ (s : State) (k : Fin 16), (s.chan k.val).cause ≠ 1 :=
  ⟨dev, 15, by decide +kernel⟩

/-- A time step that waits. -/
def stepOf (k : StepKind) (b : Option (BitVec 64)) : PendingStep :=
  { kind := k, newTime := 0, trigger := 0, offset := 3, fromRes := none, execRes := 0, b := b, waiter := some wtr }

/-- The device whose residence counter and device time stand at a number of seconds. -/
def devAt (sec : Nat) (f : TimeState → TimeState) : State :=
  devTime fun t => f { t with t48 := sec * 10 ^ 9 * 2 ^ 48, res48 := sec * 10 ^ 9 * 2 ^ 48 }

/-- The device with a step that waits. -/
def devStep (st : PendingStep) : State := devTime fun t => { t with step := some st }

theorem test_meets_TimeCommandsComplete_1a :
    ∃ (s : State) (u : State) (p : Pkt), s.admits 0x0500 p wfTimeSet = true ∧ s.running 0x0500 p = u ∧ u.time.step = none ∧ ((fld (img
    p.params) 0 8 = 2 → u.devTime < timeOfImg (fld (img p.params) 192 96))) :=
  ⟨dev, _, cr 0x0500 (bytesLe 40 0), admits_sign (by decide +kernel), rfl, by decide +kernel, by decide +kernel⟩

theorem test_meets_TimeCommandsComplete_1b :
    ∃ (s : State) (u : State) (p : Pkt), s.admits 0x0500 p wfTimeSet = true ∧ s.running 0x0500 p = u ∧ u.time.step = none ∧ ((fld (img
    p.params) 0 8 = 2 → u.devTime < timeOfImg (fld (img p.params) 192 96))) :=
  ⟨dev, _, cr 0x0500 (bytesLe 40 1), admits_sign (by decide +kernel), rfl, by decide +kernel, by decide +kernel⟩

theorem test_meets_TimeCommandsComplete_1c :
    ∃ (s : State) (u : State) (p : Pkt), s.admits 0x0500 p wfTimeSet = true ∧ s.running 0x0500 p = u ∧ u.time.step = none ∧ ((fld (img
    p.params) 0 8 = 2 → u.devTime < timeOfImg (fld (img p.params) 192 96))) :=
  ⟨dev, _, cr 0x0500 (bytesLe 40 (2 + 2 ^ 192)), admits_sign (by decide +kernel), rfl, by decide +kernel, by decide +kernel⟩

theorem test_meets_TimeCommandsComplete_2 :
    ∃ (s : State) (u : State) (p : Pkt) (q : Pkt), q = forceOp p 0 8 0 ∧ s.admits 0x0501 q wfTimeAdjust = true ∧ s.running 0x0501 q = u
    ∧ byteAt q.params 0 = 0 ∧ u.time.source = 0 :=
  ⟨dev, _, cr 0x0501 (bytesLe 8 0 ++ bytesLe 8 (2 ^ 39 - 1) ++ bytesLe 8 0), cr 0x0501 (bytesLe 8 0 ++ bytesLe 8 (2 ^ 39 - 1) ++
    bytesLe 8 0), (forced (by decide +kernel)).symm, admits_sign (by decide +kernel), rfl, by decide +kernel, by decide +kernel⟩

theorem test_meets_TimeCommandsComplete_3 :
    ∃ (s : State) (u : State) (p : Pkt) (q : Pkt), q = forceOp p 0 8 1 ∧ s.admits 0x0501 q wfTimeAdjust = true ∧ s.running 0x0501 q = u
    ∧ byteAt q.params 0 = 1 ∧ u.time.source ≠ 2 :=
  ⟨dev, _, cr 0x0501 (bytesLe 8 1 ++ bytesLe 8 100000 ++ bytesLe 8 100000), cr 0x0501 (bytesLe 8 1 ++ bytesLe 8 100000 ++ bytesLe 8
    100000), (forced (by decide +kernel)).symm, admits_sign (by decide +kernel), rfl, by decide +kernel, by decide +kernel⟩

theorem test_meets_TimeCommandsComplete_4 :
    ∃ (s : State) (u : State) (p : Pkt) (q : Pkt), q = forceOp p 0 8 2 ∧ s.admits 0x0501 q wfTimeAdjust = true ∧ s.running 0x0501 q = u
    ∧ byteAt q.params 0 = 2 ∧ u.time.source ≠ 2 ∧ u.time.step = none :=
  ⟨dev, _, cr 0x0501 (bytesLe 8 2 ++ bytesLe 8 (2 ^ 62 - 1) ++ bytesLe 8 0), cr 0x0501 (bytesLe 8 2 ++ bytesLe 8 (2 ^ 62 - 1) ++
    bytesLe 8 0), (forced (by decide +kernel)).symm, admits_sign (by decide +kernel), rfl, by decide +kernel, by decide +kernel,
    by decide +kernel⟩

theorem test_meets_TimeCommandsComplete_5 :
    ∃ (s : State) (u : State) (p : Pkt) (q : Pkt), q = forceOp p 0 8 3 ∧ s.admits 0x0501 q wfTimeAdjust = true ∧ s.running 0x0501 q = u
    ∧ byteAt q.params 0 = 3 ∧ (leAt q.params 8 8 = 0 ∨ (leAt q.params 8 8 = 1 ∧ u.time.refPresent = true)) :=
  ⟨dev, _, cr 0x0501 (bytesLe 8 3 ++ bytesLe 8 0 ++ bytesLe 8 0), cr 0x0501 (bytesLe 8 3 ++ bytesLe 8 0 ++ bytesLe 8 0), (forced
    (by decide +kernel)).symm, admits_sign (by decide +kernel), rfl, by decide +kernel, .inl (by decide +kernel)⟩

theorem test_meets_TimeCommandsComplete_5b :
    ∃ (s : State) (u : State) (p : Pkt) (q : Pkt), q = forceOp p 0 8 3 ∧ s.admits 0x0501 q wfTimeAdjust = true ∧ s.running 0x0501 q = u
    ∧ byteAt q.params 0 = 3 ∧ (leAt q.params 8 8 = 0 ∨ (leAt q.params 8 8 = 1 ∧ u.time.refPresent = true)) :=
  ⟨devTime fun t => { t with refPresent := true }, _, cr 0x0501 (bytesLe 8 3 ++ bytesLe 8 1 ++ bytesLe 8 0), cr 0x0501 (bytesLe 8 3
    ++ bytesLe 8 1 ++ bytesLe 8 0), (forced (by decide +kernel)).symm, admits_sign (by decide +kernel), rfl, by decide +kernel, .inr
    ⟨by decide +kernel, by decide +kernel⟩⟩

theorem test_meets_TimeCommandsComplete_6 :
    ∃ (s : State) (u : State) (p : Pkt) (q : Pkt), q = forceOp p 0 8 4 ∧ s.admits 0x0501 q wfTimeAdjust = true ∧ s.running 0x0501 q = u
    ∧ byteAt q.params 0 = 4 :=
  ⟨dev, _, cr 0x0501 (bytesLe 8 4 ++ bytesLe 8 (2 ^ 33 + 500000000) ++ bytesLe 8 500000), cr 0x0501 (bytesLe 8 4 ++ bytesLe 8 (2 ^ 33
    + 500000000) ++ bytesLe 8 500000), (forced (by decide +kernel)).symm, admits_sign (by decide +kernel), rfl, by decide +kernel⟩

theorem test_meets_TimeCommandsComplete_7 :
    ∃ (s : State) (u : State) (p : Pkt) (q : Pkt), q = forceOp p 0 8 5 ∧ s.admits 0x0501 q wfTimeAdjust = true ∧ s.running 0x0501 q = u
    ∧ byteAt q.params 0 = 5 :=
  ⟨dev, _, cr 0x0501 (bytesLe 8 5 ++ bytesLe 8 (2 ^ 16 - 1) ++ bytesLe 8 0), cr 0x0501 (bytesLe 8 5 ++ bytesLe 8 (2 ^ 16 - 1) ++
    bytesLe 8 0), (forced (by decide +kernel)).symm, admits_sign (by decide +kernel), rfl, by decide +kernel⟩

theorem test_meets_TimeCommandsComplete_8 :
    ∃ (s : State) (p : Pkt), s.admits 0x0502 p (lenZero 8) = true :=
  ⟨dev, pk (bytesLe 8 0), by decide +kernel⟩

theorem test_meets_StepsAndSlewsEnd_1 :
    ∃ (s : State) (st : PendingStep) (w : Waiter) (n : Nat), s.time.step = some st ∧ st.waiter = some w ∧ s.stepTarget st = some (n :
    Int) ∧ n < 2 ^ 48 * secUnits :=
  ⟨devStep (stepOf .adjust (some 0)), stepOf .adjust (some 0), wtr, 3, by decide +kernel, by decide +kernel, by decide +kernel,
    by decide +kernel⟩

theorem test_meets_StepsAndSlewsEnd_2 :
    ∃ (s : State) (st : PendingStep) (w : Waiter) (n : Int), s.time.step = some st ∧ st.waiter = some w ∧ s.stepTarget st = some n ∧ (n
    < 0 ∨ (2 ^ 48 * secUnits : Nat) ≤ n) :=
  ⟨devStep { stepOf .adjust (some 0) with offset := -1 }, { stepOf .adjust (some 0) with offset := -1 }, wtr, -1, by decide +kernel,
    by decide +kernel, by decide +kernel, .inl (by decide)⟩

theorem test_meets_StepsAndSlewsEnd_3_1 :
    ∃ (s : State) (st : PendingStep) (b : BitVec 64), st.b = some b ∧ b ≤ s.tt.round ∧ st.kind = .adjust :=
  ⟨dev, stepOf .adjust (some 0), 0, by decide +kernel, by decide +kernel, by decide +kernel⟩

theorem test_meets_StepsAndSlewsEnd_3_2 :
    ∃ (s : State) (st : PendingStep) (b : BitVec 64), st.b = some b ∧ b ≤ s.tt.round ∧ st.kind = .immediate :=
  ⟨dev, stepOf .immediate (some 0), 0, by decide +kernel, by decide +kernel, by decide +kernel⟩

theorem test_meets_StepsAndSlewsEnd_4 :
    ∃ (s : State) (st : PendingStep) (w : Waiter) (k : Nat), s.time.step = some st ∧ st.kind = .atPps ∧ st.fromRes = none ∧ st.waiter =
    some w ∧ s.resHand st.execRes (2 * secUnits) = some k :=
  ⟨devAt 2 fun t => { t with step := some (stepOf .atPps none) }, stepOf .atPps none, wtr, _, by decide +kernel, by decide +kernel,
    by decide +kernel, by decide +kernel, (Option.some_get (by decide +kernel)).symm⟩

theorem test_meets_StepsAndSlewsEnd_5 :
    ∃ (s : State) (w : Slew), s.time.slew = some w ∧ w.cyclesLeft ≤ roundCycles s.tt.round.toNat :=
  ⟨devTime fun t => { t with slew := some { perCycle := 1, cyclesLeft := 409, residue := 5 } },
    { perCycle := 1, cyclesLeft := 409, residue := 5 }, by decide +kernel, by decide +kernel⟩

theorem test_meets_TimeInputsRun_1_1 :
    ∃ (s : State) (u : State) (a : Fin 3277) (r : _), s.at_ a.val = u ∧ u.time.ppsLastRes = some r ∧ 2 * ((u.resTime + 2 ^ 64 - r) % 2
    ^ 64) < secUnits :=
  ⟨devAt 1 fun t => { t with ppsLastRes := some (500000001 * 65536) }, _, 0, 500000001 * 65536, rfl, by decide +kernel,
    by decide +kernel⟩

theorem test_meets_TimeInputsRun_1_2 :
    ∃ (s : State) (u : State) (a : Fin 3277), s.at_ a.val = u ∧ ((∀ r, u.time.ppsLastRes = some r → secUnits ≤ 2 * ((u.resTime + 2 ^ 64
    - r) % 2 ^ 64))) :=
  ⟨devAt 1 fun t => { t with ppsLastRes := some (500000000 * 65536) }, _, 0, rfl, by
      intro r h
      cases (show some
    (500000000 * 65536) = some r from h)
      decide +kernel⟩

theorem test_meets_TimeInputsRun_2 :
    ∃ (s : State) (r : Nat) (k : Nat), s.time.ppsLastRes = some r ∧ s.resHand r (3 * secUnits / 2) = some k :=
  ⟨devAt 2 fun t => { t with ppsLastRes := some (500000000 * 65536) }, 500000000 * 65536, _, by decide +kernel, (Option.some_get
    (by decide +kernel)).symm⟩

theorem test_meets_TimeInputsRun_3 :
    ∃ (s : State) (u : State) (a : Fin 3277) (k : Nat), s.at_ a.val = u ∧ u.time.ppsOut.enable = true ∧ (u.time.timeSet = true ∨
    u.time.ppsOut.emitUnset = true) ∧ (k * secUnits : Nat) ≤ (u.devTime : Int) - u.time.ppsOut.offset * 65536 ∧ (u.devTime : Int) -
    u.time.ppsOut.offset * 65536 < (k * secUnits + 16384 : Nat) ∧ u.time.ppsOut.lastSec ≠ some k :=
  ⟨devAt 2 fun t => { t with timeSet := true, ppsOut := { t.ppsOut with enable := true } }, _, 0, 2, rfl, by decide +kernel, .inl
    (by decide +kernel), by decide +kernel, by decide +kernel, by decide +kernel⟩

theorem test_meets_TimeInputsRun_4_1 :
    ∃ (s : State) (u : State) (n : Nat),
    ({ s with time := { s.time with refPresent := decide (((n : Int) - 10000000).natAbs ≤ 1000), refOffset := if ((n : Int) - 10000000).natAbs ≤ 1000 then refOffsetOf n else 0x80000000 } }
    : State) = u ∧ s.time.source ≠ 1 :=
  ⟨dev, _, 10001001, rfl, by decide +kernel⟩

theorem test_meets_TimeInputsRun_4_2 :
    ∃ (s : State) (u : State) (n : Nat),
    ({ s with time := { s.time with refPresent := decide (((n : Int) - 10000000).natAbs ≤ 1000), refOffset := if ((n : Int) - 10000000).natAbs ≤ 1000 then refOffsetOf n else 0x80000000 } }
    : State) = u ∧ s.time.source = 1 ∧ s.time.refHoldover = false ∧ 1000 < ((n : Int) - 10000000).natAbs :=
  ⟨devTime fun t => { t with source := 1, refPresent := true }, _, 9998999, rfl, by decide +kernel, by decide +kernel,
    by decide +kernel⟩

theorem test_meets_TimeInputsRun_4_3 :
    ∃ (s : State) (u : State) (n : Nat),
    ({ s with time := { s.time with refPresent := decide (((n : Int) - 10000000).natAbs ≤ 1000), refOffset := if ((n : Int) - 10000000).natAbs ≤ 1000 then refOffsetOf n else 0x80000000 } }
    : State) = u ∧ s.time.source = 1 ∧ s.time.refHoldover = false ∧ ((n : Int) - 10000000).natAbs ≤ 1000 :=
  ⟨devTime fun t => { t with source := 1, refPresent := true }, _, 9999000, rfl, by decide +kernel, by decide +kernel,
    by decide +kernel⟩

theorem test_meets_TimeInputsRun_5_1 :
    ∃ (s : State) (u : State) (v : State) (a : Fin 3277) (sec : Nat), s.at_ a.val = u ∧ sec = (if u.time.attOwed then secOf
    u.time.attLastB else secOf u.devTime) ∧ ({ u with time := { u.time with attOwed := false, attSec := max u.time.attSec sec } } :
    State) = v ∧ u.time.attOwed = false ∧ secOf u.devTime ≤ u.time.attSec :=
  ⟨dev, _, _, 0, _, rfl, rfl, rfl, by decide +kernel, by decide +kernel⟩

theorem test_meets_TimeInputsRun_5_2 :
    ∃ (s : State) (u : State) (v : State) (a : Fin 3277) (sec : Nat), s.at_ a.val = u ∧ sec = (if u.time.attOwed then secOf
    u.time.attLastB else secOf u.devTime) ∧ ({ u with time := { u.time with attOwed := false, attSec := max u.time.attSec sec } } :
    State) = v ∧ (u.time.attOwed = true ∨ u.time.attSec < secOf u.devTime) ∧ v.recording = false :=
  ⟨devAt 1 id, _, _, 0, _, rfl, rfl, rfl, .inr (by decide +kernel), by decide +kernel⟩

theorem test_meets_TimeInputsRun_5_3 :
    ∃ (s : State) (u : State) (v : State) (a : Fin 3277) (sec : Nat), s.at_ a.val = u ∧ sec = (if u.time.attOwed then secOf
    u.time.attLastB else secOf u.devTime) ∧ ({ u with time := { u.time with attOwed := false, attSec := max u.time.attSec sec } } :
    State) = v ∧ (u.time.attOwed = true ∨ u.time.attSec < secOf u.devTime) ∧ v.recording = true :=
  ⟨{ devAt 1 id with cab := (devDrawer 63 fun w => { w with st := .opened, typ := 1 }).cab }, _, _, 0, _, rfl, rfl, rfl, .inr
    (by decide +kernel), by decide +kernel⟩

theorem test_meets_TimeInputsRun_6 :
    ∃ (s : State) (u : State) (v : BitVec 64) (a : Fin 3277), (s.at_ a.val).settleLatch = u ∧ v.getLsbD 0 = true ∧ u.time.latch = none :=
  ⟨dev, _, 1, 3276, rfl, by decide +kernel, by decide +kernel⟩

theorem test_meets_TimeInputsRun_7 :
    ∃ (s : State) (t : Nat) (done : Nat), s.time.latch = some (t, done, none) ∧ done ≤ s.nowPs :=
  ⟨devTime fun t => { t with latch := some (0, 0, none) }, 0, 0, by decide +kernel, by decide +kernel⟩

theorem test_meets_CalibrationsComplete_1 :
    ∃ (s : State) (u : State) (p : Pkt) (q : Pkt), q = forceOp p 16 8 1 ∧ s.admits 0x0503 q wfTsCalibrate = true ∧ s.running 0x0503 q =
    u ∧ fld (img q.params) 16 8 = 1 :=
  ⟨dev, _, pk (bytesLe 8 (504 + 2 ^ 16)), pk (bytesLe 8 (504 + 2 ^ 16)), (forced (by decide +kernel)).symm, by decide +kernel, rfl,
    by decide +kernel⟩

theorem test_meets_CalibrationsComplete_2 :
    ∃ (s : State) (u : State) (p : Pkt) (q : Pkt) (lp : Nat), q = forceOp p 16 8 0 ∧ s.admits 0x0503 q wfTsCalibrate = true ∧ s.running
    0x0503 q = u ∧ fld (img q.params) 16 8 = 0 ∧ lp = fld (img q.params) 0 9 ∧ ((u.port lp).st = .disabled ∨ (u.port lp).st =
    .lowPower) ∧ u.calibrating (macroOf lp) = false :=
  ⟨dev, _, pk (bytesLe 8 504), pk (bytesLe 8 504), _, (forced (by decide +kernel)).symm, by decide +kernel, rfl, by decide +kernel,
    rfl, .inl (by decide +kernel), by decide +kernel⟩

theorem test_meets_CalibrationsComplete_3 :
    ∃ (s : State) (lp : Fin 512) (rx : BitVec 32) (tx : BitVec 32) (w : Waiter) (st : PortState) (cal : Calibration), (s.port
    lp.val).calRun = some (w, st) ∧ cal =
    { valid := true, rxPs := rx, txPs := tx, temp := (s.sensor (servingSensor (macroOf lp.val))).reading, round := s.tt.round } :=
  ⟨devPort 504 fun q => { q with calRun := some (wtr, .lowPower) }, 504, 1, 2, wtr, .lowPower, _, by decide +kernel, rfl⟩

/-- The device with its link up in a role, its peer in another. -/
def devPair (r q : Role) (f : MirrorState → MirrorState) : State :=
  devMirror fun m => f { m with linkEnable := true, linkUp := true, role := r, peer := some (q, 0, 0, 0) }

/-- A mirrored command that waits, with the device's own first reply or without. -/
def mcmd (own : Option Reply) : MirroredCmd := { seq := 4, own := own, waiter := wtr, peerSeen := false }
def nopReply : Reply := { opcode := 1, status := 0, detail := 0, tag := 7, results := [] }

theorem test_meets_MirrorCommandsComplete_1_1a :
    ∃ (s : State) (u : State) (p : Pkt) (v : Nat), s.admits 0x0600 p wfMirrorConfig = true ∧ v = img p.params ∧ (s.running 0x0600
    p).modMirror (fun m =>
    { m with linkEnable := bitAt v 0, takeoverMode := BitVec.ofNat 2 (fld v 1 2), iface := bitAt v 3, ltEnable := bitAt v 4, holdUs := BitVec.ofNat 16 (fld v 16 16), takeoverSource := BitVec.ofNat 2 (fld v 32 2), digestCycle := BitVec.ofNat 16 (fld v 64 16), pairId := BitVec.ofNat 128 (fld v 128 128), moduleEq := BitVec.ofNat 256 (fld v 256 256) })
    = u ∧ (u.mirror.linkUp = false ∨ u.peerAgrees = true ∨ (s.running 0x0600 p).peerAgrees = false) :=
  ⟨dev, _, cr 0x0600 (bytesLe 64 (10 * 2 ^ 64 + 2 ^ 16)), _, admits_sign (by decide +kernel), rfl, rfl, .inl (by decide +kernel)⟩

theorem test_meets_MirrorCommandsComplete_1_1b :
    ∃ (s : State) (u : State) (p : Pkt) (v : Nat), s.admits 0x0600 p wfMirrorConfig = true ∧ v = img p.params ∧ (s.running 0x0600
    p).modMirror (fun m =>
    { m with linkEnable := bitAt v 0, takeoverMode := BitVec.ofNat 2 (fld v 1 2), iface := bitAt v 3, ltEnable := bitAt v 4, holdUs := BitVec.ofNat 16 (fld v 16 16), takeoverSource := BitVec.ofNat 2 (fld v 32 2), digestCycle := BitVec.ofNat 16 (fld v 64 16), pairId := BitVec.ofNat 128 (fld v 128 128), moduleEq := BitVec.ofNat 256 (fld v 256 256) })
    = u ∧ (u.mirror.linkUp = false ∨ u.peerAgrees = true ∨ (s.running 0x0600 p).peerAgrees = false) :=
  ⟨dev, _, cr 0x0600 (bytesLe 64 (1 + 10000 * 2 ^ 64 + 65535 * 2 ^ 16 + 2 ^ 511)), _, admits_sign (by decide +kernel), rfl, rfl, .inl
    (by decide +kernel)⟩

theorem test_meets_MirrorCommandsComplete_1_2 :
    ∃ (s : State) (u : State) (p : Pkt) (v : Nat), s.admits 0x0600 p wfMirrorConfig = true ∧ v = img p.params ∧ (s.running 0x0600
    p).modMirror (fun m =>
    { m with linkEnable := bitAt v 0, takeoverMode := BitVec.ofNat 2 (fld v 1 2), iface := bitAt v 3, ltEnable := bitAt v 4, holdUs := BitVec.ofNat 16 (fld v 16 16), takeoverSource := BitVec.ofNat 2 (fld v 32 2), digestCycle := BitVec.ofNat 16 (fld v 64 16), pairId := BitVec.ofNat 128 (fld v 128 128), moduleEq := BitVec.ofNat 256 (fld v 256 256) })
    = u ∧ u.mirror.linkUp = true ∧ u.peerAgrees = false ∧ (s.running 0x0600 p).peerAgrees = true :=
  ⟨devPair .solo .solo id, _, cr 0x0600 (bytesLe 64 (10 * 2 ^ 64 + 2 ^ 16 + 2 ^ 128)), _, admits_sign (by decide +kernel), rfl, rfl,
    by decide +kernel, by decide +kernel, by decide +kernel⟩

theorem test_meets_MirrorCommandsComplete_2 :
    ∃ (s : State) (u : State) (p : Pkt), s.admits 0x0601 p wfMirrorRole = true ∧ s.running 0x0601 p = u ∧ fld (img p.params) 0 2 = 0 :=
  ⟨dev, _, cr 0x0601 (bytesLe 24 0), admits_sign (by decide +kernel), rfl, by decide +kernel⟩

theorem test_meets_MirrorCommandsComplete_3_1 :
    ∃ (s : State) (u : State) (p : Pkt), s.admits 0x0601 p wfMirrorRole = true ∧ s.running 0x0601 p = u ∧ fld (img p.params) 0 2 = 1 ∧
    u.mirror.role = .solo ∧ (u.mirror.linkUp = false ∨ u.mirror.peer = none ∨ (∃ x, u.mirror.peer = some x ∧ x.1 ≠ .primary)) :=
  ⟨dev, _, cr 0x0601 (bytesLe 24 1), admits_sign (by decide +kernel), rfl, by decide +kernel, by decide +kernel, .inl
    (by decide +kernel)⟩

theorem test_meets_MirrorCommandsComplete_3_2 :
    ∃ (s : State) (u : State) (p : Pkt) (x : _), s.admits 0x0601 p wfMirrorRole = true ∧ s.running 0x0601 p = u ∧ fld (img p.params) 0
    2 = 1 ∧ u.mirror.role = .solo ∧ u.mirror.linkUp = true ∧ u.mirror.peer = some x ∧ x.1 = .primary :=
  ⟨devPair .solo .primary id, _, cr 0x0601 (bytesLe 24 1), (.primary, 0, 0, 0), admits_sign (by decide +kernel), rfl,
    by decide +kernel, by decide +kernel, by decide +kernel, by decide +kernel, by decide +kernel⟩

theorem test_meets_MirrorCommandsComplete_3_3 :
    ∃ (s : State) (u : State) (p : Pkt), s.admits 0x0601 p wfMirrorRole = true ∧ s.running 0x0601 p = u ∧ fld (img p.params) 0 2 = 1 ∧
    u.mirror.role = .primary :=
  ⟨devMirror fun m => { m with role := .primary }, _, cr 0x0601 (bytesLe 24 1), admits_sign (by decide +kernel), rfl,
    by decide +kernel, by decide +kernel⟩

theorem test_meets_MirrorCommandsComplete_3_4 :
    ∃ (s : State) (u : State) (p : Pkt), s.admits 0x0601 p wfMirrorRole = true ∧ s.running 0x0601 p = u ∧ fld (img p.params) 0 2 = 1 ∧
    u.mirror.role = .standby ∧ u.peerPrimary = true :=
  ⟨devPair .standby .primary id, _, cr 0x0601 (bytesLe 24 1), admits_sign (by decide +kernel), rfl, by decide +kernel,
    by decide +kernel, by decide +kernel⟩

theorem test_meets_MirrorCommandsComplete_3_5 :
    ∃ (s : State) (u : State) (p : Pkt), s.admits 0x0601 p wfMirrorRole = true ∧ s.running 0x0601 p = u ∧ fld (img p.params) 0 2 = 1 ∧
    u.mirror.role = .standby ∧ u.peerPrimary = false ∧ u.mirror.syncing = false :=
  ⟨devPair .standby .solo id, _, cr 0x0601 (bytesLe 24 1), admits_sign (by decide +kernel), rfl, by decide +kernel,
    by decide +kernel, by decide +kernel, by decide +kernel⟩

theorem test_meets_MirrorCommandsComplete_3_6 :
    ∃ (s : State) (u : State) (p : Pkt), s.admits 0x0601 p wfMirrorRole = true ∧ s.running 0x0601 p = u ∧ fld (img p.params) 0 2 = 1 ∧
    u.mirror.role = .standby ∧ u.peerPrimary = false ∧ u.mirror.syncing = true :=
  ⟨devPair .standby .solo fun m => { m with syncing := true }, _, cr 0x0601 (bytesLe 24 1), admits_sign (by decide +kernel), rfl,
    by decide +kernel, by decide +kernel, by decide +kernel, by decide +kernel⟩

theorem test_meets_MirrorCommandsComplete_4_1 :
    ∃ (s : State) (u : State) (p : Pkt), s.admits 0x0601 p wfMirrorRole = true ∧ s.running 0x0601 p = u ∧ fld (img p.params) 0 2 = 2 ∧
    u.mirror.role ≠ .standby ∧ u.peerPrimary = true :=
  ⟨devPair .solo .primary id, _, cr 0x0601 (bytesLe 24 2), admits_sign (by decide +kernel), rfl, by decide +kernel,
    by decide +kernel, by decide +kernel⟩

theorem test_meets_MirrorCommandsComplete_4_2 :
    ∃ (s : State) (u : State) (p : Pkt), s.admits 0x0601 p wfMirrorRole = true ∧ s.running 0x0601 p = u ∧ fld (img p.params) 0 2 = 2 ∧
    (u.mirror.role = .standby ∨ u.peerPrimary = false) :=
  ⟨dev, _, cr 0x0601 (bytesLe 24 2), admits_sign (by decide +kernel), rfl, by decide +kernel, .inr (by decide +kernel)⟩

theorem test_meets_MirrorCommandsComplete_5_1 :
    ∃ (s : State) (u : State) (p : Pkt), s.admits 0x0602 p (lenZero 8) = true ∧ s.running 0x0602 p = u ∧ u.mirror.checkWait = none ∧
    (u.mirroring = false ∨ u.mirror.role ≠ .primary) :=
  ⟨dev, _, pk (bytesLe 8 0), by decide +kernel, rfl, by decide +kernel, .inl (by decide +kernel)⟩

theorem test_meets_MirrorCommandsComplete_5_2 :
    ∃ (s : State) (u : State) (p : Pkt), s.admits 0x0602 p (lenZero 8) = true ∧ s.running 0x0602 p = u ∧ u.mirror.checkWait = none ∧
    u.mirroring = true ∧ u.mirror.role = .primary ∧ u.d0Writable = true :=
  ⟨devPair .primary .standby id, _, pk (bytesLe 8 0), by decide +kernel, rfl, by decide +kernel, by decide +kernel,
    by decide +kernel, by decide +kernel⟩

theorem test_meets_DovetailLinkRuns_1_1 :
    ∃ (s : State) (w : BitVec 512), s.mirror.linkUp = true ∧ unitCrcOk w = true ∧ fld w.toNat 16 48 = s.mirror.rxSeq.toNat ∧ fld
    w.toNat 0 8 ≠ 1 :=
  ⟨devPair .solo .solo id, 2977713543 * 2 ^ 480 + 2, by decide +kernel, by decide +kernel, by decide +kernel, by decide +kernel⟩

theorem test_meets_DovetailLinkRuns_1_2 :
    ∃ (s : State) (w : BitVec 512), s.mirror.linkUp = true ∧ (unitCrcOk w = false ∨ fld w.toNat 16 48 ≠ s.mirror.rxSeq.toNat) ∧
    s.mirror.rxWaiting = false :=
  ⟨devPair .solo .solo id, 2977713542 * 2 ^ 480 + 2, by decide +kernel, .inl (by decide +kernel), by decide +kernel⟩

theorem test_meets_DovetailLinkRuns_1_3 :
    ∃ (s : State) (w : BitVec 512), s.mirror.linkUp = true ∧ (unitCrcOk w = false ∨ fld w.toNat 16 48 ≠ s.mirror.rxSeq.toNat) ∧
    s.mirror.rxWaiting = true :=
  ⟨devPair .solo .solo fun m => { m with rxWaiting := true, rxSeq := 1 }, 2977713543 * 2 ^ 480 + 2, by decide +kernel, .inr
    (by decide +kernel), by decide +kernel⟩

theorem test_meets_DovetailLinkRuns_2_1 :
    ∃ (s : State), s.mirror.linkUp = true ∧ s.mirror.ackRound ≠ some s.tt.round :=
  ⟨devPair .solo .solo id, by decide +kernel, by decide +kernel⟩

theorem test_meets_DovetailLinkRuns_2_2 :
    ∃ (s : State), s.mirror.linkUp = true ∧ s.mirror.ackRound = some s.tt.round :=
  ⟨devPair .solo .solo fun m => { m with ackRound := some 0 }, by decide +kernel, by decide +kernel⟩

theorem test_meets_DovetailLinkRuns_3a :
    ∃ (s : State) (c : LinkDownCause), ((c = .silence ∧ s.due (s.mirror.heard + 2 * usPs) = true) ∨ c = .lockLoss ∨ (c = .resends ∧ 16
    ≤ s.mirror.resendRun) ∨ (c = .disabled ∧ s.mirror.linkEnable = false)) ∧ s.mirror.linkUp = true :=
  ⟨{ devPair .solo .solo id with tt := { dev.tt with round := 5 } }, .silence, .inl ⟨rfl, by decide +kernel⟩, by decide +kernel⟩

theorem test_meets_DovetailLinkRuns_3b :
    ∃ (s : State) (c : LinkDownCause), ((c = .silence ∧ s.due (s.mirror.heard + 2 * usPs) = true) ∨ c = .lockLoss ∨ (c = .resends ∧ 16
    ≤ s.mirror.resendRun) ∨ (c = .disabled ∧ s.mirror.linkEnable = false)) ∧ s.mirror.linkUp = true :=
  ⟨{ devPair .solo .solo id with tt := { dev.tt with round := 5 } }, .lockLoss, .inr (.inl rfl), by decide +kernel⟩

theorem test_meets_DovetailLinkRuns_3c :
    ∃ (s : State) (c : LinkDownCause), ((c = .silence ∧ s.due (s.mirror.heard + 2 * usPs) = true) ∨ c = .lockLoss ∨ (c = .resends ∧ 16
    ≤ s.mirror.resendRun) ∨ (c = .disabled ∧ s.mirror.linkEnable = false)) ∧ s.mirror.linkUp = true :=
  ⟨devPair .solo .solo fun m => { m with resendRun := 16 }, .resends, .inr (.inr (.inl ⟨rfl, by decide +kernel⟩)), by decide +kernel⟩

theorem test_meets_DovetailLinkRuns_3d :
    ∃ (s : State) (c : LinkDownCause), ((c = .silence ∧ s.due (s.mirror.heard + 2 * usPs) = true) ∨ c = .lockLoss ∨ (c = .resends ∧ 16
    ≤ s.mirror.resendRun) ∨ (c = .disabled ∧ s.mirror.linkEnable = false)) ∧ s.mirror.linkUp = true :=
  ⟨devPair .solo .solo fun m => { m with linkEnable := false }, .disabled, .inr (.inr (.inr ⟨rfl, by decide +kernel⟩)),
    by decide +kernel⟩

theorem test_meets_DovetailLinkRuns_4_1 :
    ∃ (s : State) (d : Nat), s.mirror.linkUp = false ∧ s.mirror.linkEnable = true ∧ 4 ≤ s.boot.phase ∧ s.boot.failed = false ∧ d ≤
    1000000 :=
  ⟨devMirror fun m => { m with linkEnable := true }, 1000000, by decide +kernel, by decide +kernel, by decide +kernel,
    by decide +kernel, by decide +kernel⟩

theorem test_meets_DovetailLinkRuns_4_2 :
    ∃ (s : State) (d : Nat), s.mirror.linkUp = false ∧ s.mirror.linkEnable = true ∧ 4 ≤ s.boot.phase ∧ s.boot.failed = false ∧ 1000000
    < d :=
  ⟨devMirror fun m => { m with linkEnable := true }, 1000001, by decide +kernel, by decide +kernel, by decide +kernel,
    by decide +kernel, by decide +kernel⟩

theorem test_meets_DovetailLinkRuns_5_1 :
    ∃ (s : State) (id : BitVec 128), s.mirror.linkUp = true ∧ s.mirror.role = .solo ∧ (id = s.mirror.pairId ∨ s.peerAgrees = false) :=
  ⟨devPair .solo .primary id, 0, by decide +kernel, by decide +kernel, .inl (by decide +kernel)⟩

theorem test_meets_DovetailLinkRuns_5_2 :
    ∃ (s : State) (id : BitVec 128), s.mirror.linkUp = true ∧ s.mirror.role = .solo ∧ id ≠ s.mirror.pairId ∧ s.peerAgrees = true :=
  ⟨devPair .solo .primary id, 1, by decide +kernel, by decide +kernel, by decide +kernel, by decide +kernel⟩

theorem test_meets_DovetailLinkRuns_6_1 :
    ∃ (s : State) (v : State) (u : State) (st : BitVec 8), s.mirror.linkUp = true ∧ s.mirror.role = .primary ∧ s.heardNow = v ∧ (if
    0x10 ≤ st.toNat ∧ st.toNat ≠ 0x20 then (v.modMirror fun m => { m with refused := m.refused + 1 }).raise 1317 else v) = u ∧
    u.mirror.inProgress = none :=
  ⟨devPair .primary .standby id, _, _, 0x10, by decide +kernel, by decide +kernel, rfl, rfl, by decide +kernel⟩

theorem test_meets_DovetailLinkRuns_6_2 :
    ∃ (s : State) (v : State) (u : State) (q : BitVec 64) (st : BitVec 8) (c : _), s.mirror.linkUp = true ∧ s.mirror.role = .primary ∧
    s.heardNow = v ∧ (if 0x10 ≤ st.toNat ∧ st.toNat ≠ 0x20 then (v.modMirror fun m => { m with refused := m.refused + 1 }).raise 1317
    else v) = u ∧ u.mirror.inProgress = some c ∧ c.seq = q ∧ c.own.isSome = true :=
  ⟨devPair .primary .standby fun m => { m with inProgress := some (mcmd (some nopReply)) }, _, _, 4, 0, mcmd (some nopReply),
    by decide +kernel, by decide +kernel, rfl, rfl, by decide +kernel, by decide +kernel, by decide +kernel⟩

theorem test_meets_DovetailLinkRuns_6_3 :
    ∃ (s : State) (v : State) (u : State) (q : BitVec 64) (st : BitVec 8) (c : _), s.mirror.linkUp = true ∧ s.mirror.role = .primary ∧
    s.heardNow = v ∧ (if 0x10 ≤ st.toNat ∧ st.toNat ≠ 0x20 then (v.modMirror fun m => { m with refused := m.refused + 1 }).raise 1317
    else v) = u ∧ u.mirror.inProgress = some c ∧ c.seq = q ∧ c.own = none :=
  ⟨devPair .primary .standby fun m => { m with inProgress := some (mcmd none) }, _, _, 4, 0, mcmd none, by decide +kernel,
    by decide +kernel, rfl, rfl, by decide +kernel, by decide +kernel, by decide +kernel⟩

theorem test_meets_DovetailLinkRuns_7 :
    ∃ (s : State) (v : State), s.mirror.linkUp = true ∧ s.heardNow = v :=
  ⟨devPair .solo .solo id, _, by decide +kernel, rfl⟩

theorem test_meets_DovetailLinkRuns_8 :
    ∃ (s : State), s.mirror.linkUp = true :=
  ⟨devPair .solo .solo id, by decide +kernel⟩

theorem test_meets_MirrorMessagesRun_1_2 :
    ∃ (s : State) (u : State) (a : Fin 3277), s.at_ a.val = u ∧ u.mirroring = true ∧ u.mirror.role = .primary ∧ u.timeDue = true :=
  ⟨devPair .primary .standby id, _, 3276, rfl, by decide +kernel, by decide +kernel, by decide +kernel⟩

theorem test_meets_MirrorMessagesRun_1_3 :
    ∃ (s : State) (u : State) (a : Fin 3277), s.at_ a.val = u ∧ u.mirroring = true ∧ u.mirror.role = .primary ∧ u.timeDue = false :=
  ⟨devPair .primary .standby fun m => { m with timeRound := some 0 }, _, 3276, rfl, by decide +kernel, by decide +kernel,
    by decide +kernel⟩

theorem test_meets_MirrorMessagesRun_2_2 :
    ∃ (s : State) (v : State) (r : Fin 19), s.mirroring = true ∧ s.mirror.role = .primary ∧ s.heardNow = v ∧ v.digestible r.val = true :=
  ⟨devPair .primary .standby id, _, 18, by decide +kernel, by decide +kernel, rfl, by decide +kernel⟩

theorem test_meets_MirrorMessagesRun_3_1 :
    ∃ (s : State) (r : Fin 19) (at_ : Nat), s.mirroring = true ∧ s.mirror.role = .primary ∧
    (at_ = (match tget none s.mirror.digestAt r.val with | some t => t + s.mirror.digestCycle.toNat * msPs | none => 0)) ∧ s.due at_ =
    false :=
  ⟨devPair .primary .standby fun m => { m with digestCycle := 10, digestAt := [(18, some 0)] }, 18, _, by decide +kernel,
    by decide +kernel, rfl, by decide +kernel⟩

theorem test_meets_MirrorMessagesRun_3_2 :
    ∃ (s : State) (u : State) (r : Fin 19) (at_ : Nat), s.mirroring = true ∧ s.mirror.role = .primary ∧
    (at_ = (match tget none s.mirror.digestAt r.val with | some t => t + s.mirror.digestCycle.toNat * msPs | none => 0)) ∧ s.due at_ =
    true ∧ (s.reach at_).modMirror (fun m => { m with digestAt := tset none m.digestAt r.val (some (s.reach at_).nowPs) }) = u ∧
    u.digestible r.val = true :=
  ⟨devPair .primary .standby id, _, 18, _, by decide +kernel, by decide +kernel, rfl, by decide +kernel, rfl, by decide +kernel⟩

theorem test_meets_MirrorMessagesRun_4_1 :
    ∃ (s : State) (u : State) (n : BitVec 8) (a : Fin 3277), (s.at_ a.val).heardNow = u ∧ u.mirroring = true ∧ u.mirror.role = .standby
    ∧ u.time.step = none ∧ u.stepsReached = some n :=
  ⟨devPair .standby .primary fun m => { m with primarySteps := some 3 }, _, 3, 0, rfl, by decide +kernel, by decide +kernel,
    by decide +kernel, by decide +kernel⟩

theorem test_meets_MirrorMessagesRun_4_2 :
    ∃ (s : State) (u : State) (n : BitVec 8) (a : Fin 3277) (c : _), (s.at_ a.val).heardNow = u ∧ u.mirroring = true ∧ u.mirror.role =
    .standby ∧ u.time.step = none ∧ u.stepsReached = some c ∧ c ≠ n :=
  ⟨devPair .standby .primary fun m => { m with primarySteps := some 3 }, _, 4, 0, 3, rfl, by decide +kernel, by decide +kernel,
    by decide +kernel, by decide +kernel, by decide +kernel⟩

theorem test_meets_MirrorMessagesRun_4_3 :
    ∃ (s : State) (u : State) (t1 : Nat) (a : Fin 3277), (s.at_ a.val).heardNow = u ∧ u.mirroring = true ∧ u.mirror.role = .standby ∧
    u.time.step = none ∧ u.stepsReached = none ∧ ((u.stamp : Int) - ((t1 : Int) + (unitsOfPs u.mirror.dPs : Int))).natAbs ≤ 65536000 :=
  ⟨devPair .standby .primary id, _, 65536000, 0, rfl, by decide +kernel, by decide +kernel, by decide +kernel, by decide +kernel,
    by decide +kernel⟩

theorem test_meets_MirrorMessagesRun_4_4 :
    ∃ (s : State) (u : State) (t1 : Nat) (a : Fin 3277), (s.at_ a.val).heardNow = u ∧ u.mirroring = true ∧ u.mirror.role = .standby ∧
    u.time.step = none ∧ u.stepsReached = none ∧ 65536000 < ((u.stamp : Int) - ((t1 : Int) + (unitsOfPs u.mirror.dPs : Int))).natAbs :=
  ⟨devPair .standby .primary id, _, 65536001, 0, rfl, by decide +kernel, by decide +kernel, by decide +kernel, by decide +kernel,
    by decide +kernel⟩

theorem test_meets_MirrorMessagesRun_5 :
    ∃ (s : State) (v : State), s.mirroring = true ∧ s.mirror.role = .standby ∧ s.heardNow = v :=
  ⟨devPair .standby .primary id, _, by decide +kernel, by decide +kernel, rfl⟩

theorem test_meets_MirrorMessagesRun_6 :
    ∃ (s : State) (v : State), s.mirroring = true ∧ s.mirror.role = .standby ∧ s.heardNow = v :=
  ⟨devPair .standby .primary id, _, by decide +kernel, by decide +kernel, rfl⟩

theorem test_meets_MirrorMessagesRun_7_1 :
    ∃ (s : State) (v : State) (q : BitVec 64), s.mirror.linkUp = true ∧ s.mirror.role = .standby ∧ s.heardNow = v ∧ q = s.mirror.seq :=
  ⟨devPair .standby .primary fun m => { m with seq := 5 }, _, _, by decide +kernel, by decide +kernel, rfl, rfl⟩

theorem test_meets_MirrorMessagesRun_7_2 :
    ∃ (s : State) (v : State) (q : BitVec 64), s.mirror.linkUp = true ∧ s.mirror.role = .standby ∧ s.heardNow = v ∧ q < s.mirror.seq :=
  ⟨devPair .standby .primary fun m => { m with seq := 5 }, _, 4, by decide +kernel, by decide +kernel, rfl, by decide +kernel⟩

theorem test_meets_MirrorMessagesRun_7_3 :
    ∃ (s : State) (v : State) (q : BitVec 64), s.mirror.linkUp = true ∧ s.mirror.role = .standby ∧ s.heardNow = v ∧ s.mirror.seq < q :=
  ⟨devPair .standby .primary fun m => { m with seq := 5 }, _, 6, by decide +kernel, by decide +kernel, rfl, by decide +kernel⟩

theorem test_meets_MirrorMessagesRun_8_1 :
    ∃ (s : State) (v : State), s.mirroring = true ∧ s.mirror.role = .primary ∧ s.heardNow = v :=
  ⟨devPair .primary .standby id, _, by decide +kernel, by decide +kernel, rfl⟩

theorem test_meets_MirrorMessagesRun_8_2 :
    ∃ (s : State) (v : State) (r : Fin 19), s.mirroring = true ∧ s.mirror.role = .primary ∧ s.heardNow = v ∧ v.digestible r.val = true :=
  ⟨devPair .primary .standby id, _, 18, by decide +kernel, by decide +kernel, rfl, by decide +kernel⟩

theorem test_meets_MirrorMessagesRun_8_3 :
    ∃ (s : State) (v : State), s.mirroring = true ∧ s.mirror.role = .primary ∧ s.heardNow = v ∧ v.d0Writable = true :=
  ⟨devPair .primary .standby id, _, by decide +kernel, by decide +kernel, rfl, by decide +kernel⟩

theorem test_meets_MirrorMessagesRun_9 :
    ∃ (s : State) (v : State), s.mirroring = true ∧ s.mirror.role = .standby ∧ s.heardNow = v :=
  ⟨devPair .standby .primary id, _, by decide +kernel, by decide +kernel, rfl⟩

theorem test_meets_MirrorMessagesRun_10 :
    ∃ (s : State), s.mirror.linkUp = true :=
  ⟨devPair .solo .solo id, by decide +kernel⟩

theorem test_meets_MirrorMessagesRun_12 :
    ∃ (s : State) (t : Nat), s.mirror.downAt = some t ∧ s.mirror.linkUp = false ∧ s.mirror.role = .standby ∧ s.due (t +
    s.mirror.holdUs.toNat * usPs) = true :=
  ⟨devMirror fun m => { m with downAt := some 0, role := .standby }, 0, by decide +kernel, by decide +kernel, by decide +kernel,
    by decide +kernel⟩

theorem test_meets_MirrorMessagesRun_13_1 :
    ∃ (s : State) (m : Nat), s.mirror.role = .standby ∧ m ≤ s.mirror.takeoverMode.toNat :=
  ⟨devMirror fun m => { m with role := .standby, takeoverMode := 1 }, 1, by decide +kernel, by decide +kernel⟩

theorem test_meets_MirrorMessagesRun_13_2 :
    ∃ (s : State) (m : Nat), s.mirror.role = .standby ∧ s.mirror.takeoverMode.toNat < m :=
  ⟨devMirror fun m => { m with role := .standby, takeoverMode := 1 }, 2, by decide +kernel, by decide +kernel⟩

theorem test_meets_MirrorMessagesRun_13_3 :
    ∃ (s : State), s.mirror.role = .primary :=
  ⟨devMirror fun m => { m with role := .primary }, by decide +kernel⟩

theorem test_meets_MirrorMessagesRun_13_4 :
    ∃ (s : State), s.mirror.role = .solo :=
  ⟨dev, by decide +kernel⟩

theorem test_meets_InstanceCommandsComplete_1 :
    ∃ (s : State) (u : State) (p : Pkt) (n : Nat) (rings : List Nat), s.admits 0x0800 p (fun ps _ => blkOk true ps) = true ∧ s.running
    0x0800 p = u ∧ whole p ∧ blkInst p.params = n ∧ rings = (List.range (blkCount p.params)).map (· + blkFirst p.params) ∧ (u.inst
    n).st = .absent ∧ ((∀ r ∈ rings, (u.dma r).owner.val = 0 ∧ (u.dma r).enable = false)) ∧ ((∀ lp ∈ blkPorts p.params, u.ownerOf lp =
    0)) ∧ ((anyQuantum p.params = true → u.d0Writable = true)) :=
  ⟨dev, _, cr 0x0800 (bytesLe 64 (63 + 1023 * 2 ^ 16 + 2 ^ 32) ++ bytesLe 64 (2 ^ 511)), 63, [1023], admits_sign (by decide +kernel),
    rfl, ⟨rfl, rfl⟩, by decide +kernel, by decide +kernel, by decide +kernel, by decide +kernel, by decide +kernel, by decide +kernel⟩

theorem test_meets_InstanceCommandsComplete_2 :
    ∃ (s : State) (u : State) (p : Pkt), s.admits 0x0801 p (fun ps _ => blkOk false ps) = true ∧ s.running 0x0801 p = u ∧ whole p ∧
    (u.inst (blkInst p.params)).st ≠ .absent ∧ (u.inst (blkInst p.params)).st ≠ .fencing ∧ ((bitAt (byteAt p.params 1) 1 = true →
    anyQuantum p.params = true → u.d0Writable = true)) :=
  ⟨devInst 63 fun i => { i with st := .active }, _, cr 0x0801 (bytesLe 64 (63 + 15 * 2 ^ 8 + 1023 * 2 ^ 16 + 2 ^ 32) ++ bytesLe 64 (2
    ^ 511)), admits_sign (by decide +kernel), rfl, ⟨rfl, rfl⟩, by decide +kernel, by decide +kernel, by decide +kernel⟩

theorem test_meets_InstanceCommandsComplete_3 :
    ∃ (s : State) (u : State) (p : Pkt) (q : Pkt), q = forceOp p 8 8 0 ∧ s.admits 0x0802 q wfQuiesce = true ∧ s.running 0x0802 q = u ∧
    byteAt q.params 1 = 0 ∧ (u.inst (blkInst q.params)).st = .active :=
  ⟨devInst 63 fun i => { i with st := .active }, _, pk (bytesLe 8 (63 + 0 * 2 ^ 8)), pk (bytesLe 8 (63 + 0 * 2 ^ 8)), (forced
    (by decide +kernel)).symm, by decide +kernel, rfl, by decide +kernel, by decide +kernel⟩

theorem test_meets_InstanceCommandsComplete_4 :
    ∃ (s : State) (u : State) (p : Pkt) (q : Pkt), q = forceOp p 8 8 1 ∧ s.admits 0x0802 q wfQuiesce = true ∧ s.running 0x0802 q = u ∧
    byteAt q.params 1 = 1 ∧ ((u.inst (blkInst q.params)).st = .quiescing ∨ (u.inst (blkInst q.params)).st = .quiesced) :=
  ⟨devInst 63 fun i => { i with st := .quiesced }, _, pk (bytesLe 8 (63 + 1 * 2 ^ 8)), pk (bytesLe 8 (63 + 1 * 2 ^ 8)), (forced
    (by decide +kernel)).symm, by decide +kernel, rfl, by decide +kernel, .inr (by decide +kernel)⟩

theorem test_meets_InstanceCommandsComplete_5 :
    ∃ (s : State) (u : State) (p : Pkt), s.admits 0x0803 p wfInstReset = true ∧ s.running 0x0803 p = u ∧ (u.inst (blkInst p.params)).st
    ≠ .absent ∧ (u.inst (blkInst p.params)).st ≠ .fencing ∧ (u.inst (blkInst p.params)).resetWait = none :=
  ⟨devInst 63 fun i => { i with st := .active }, _, cr 0x0803 (bytesLe 8 63), admits_sign (by decide +kernel), rfl,
    by decide +kernel, by decide +kernel, by decide +kernel⟩

theorem test_meets_InstanceCommandsComplete_6 :
    ∃ (s : State) (u : State) (p : Pkt), s.admits 0x0804 p wfInstReset = true ∧ s.running 0x0804 p = u ∧ (u.inst (blkInst p.params)).st
    = .quiesced ∧ (u.inst (blkInst p.params)).resetWait = none :=
  ⟨devInst 63 fun i => { i with st := .quiesced }, _, cr 0x0804 (bytesLe 8 63), admits_sign (by decide +kernel), rfl,
    by decide +kernel, by decide +kernel⟩

/-- A recount of instance 63's requester that began at the start of round 0. -/
def recounting : Recount := { reqs := [63], waiters := [], start := 0, shadow := [] }

theorem test_meets_InstanceEventsRun_1 :
    ∃ (s : State) (u : State) (v : State) (w : State) (r : Recount), s.pool.recount = some r ∧ s.due ((r.start + recountCycles) * 800)
    = true ∧ r.reqs.foldl (fun (t : State) n => t.recountReq n) (s.reach ((r.start + recountCycles) * 800)) = u ∧ r.waiters.foldl (fun
    (t : State) x => t.complete x 0 0 []) (({ u with pool := { u.pool with recount := none } } : State).raise 1298) = v ∧ r.reqs.foldl
    (fun (t : State) n => if (t.inst n).st = .fencing then t else t.finishReset n) v = w :=
  ⟨inRound { devInst 63 (fun i => { i with resetWait := some wtr }) with pool := { dev.pool with recount := some recounting } } 264,
    _, _, _, recounting, by decide +kernel, by decide +kernel, rfl, rfl, rfl⟩

theorem test_meets_InstanceEventsRun_2 :
    ∃ (s : State) (u : State) (p : Pkt) (q : Pkt), q = forceOp p 8 8 0 ∧ s.admits 0x0805 q wfDirtyLog = true ∧ s.running 0x0805 q = u ∧
    byteAt q.params 1 = 0 ∧ (u.inst (blkInst q.params)).swap = none :=
  ⟨devInst 63 id, _, pk (bytesLe 16 63 ++ bytesLe 8 30), pk (bytesLe 16 63 ++ bytesLe 8 30), (forced (by decide +kernel)).symm,
    by decide +kernel, rfl, by decide +kernel, by decide +kernel⟩

theorem test_meets_InstanceEventsRun_3 :
    ∃ (s : State) (u : State) (p : Pkt) (q : Pkt) (l : DirtyLog), q = forceOp p 8 8 1 ∧ s.admits 0x0805 q wfDirtyLog = true ∧ s.running
    0x0805 q = u ∧ byteAt q.params 1 = 1 ∧ (u.inst (blkInst q.params)).swap = none ∧ (u.inst (blkInst q.params)).dirty = some l :=
  ⟨devInst 63 fun i => { i with dirty := some { base := 0, log2 := 12, count := 0, overflow := false } }, _, pk (bytesLe 24 (63 + 2 ^
    8)), pk (bytesLe 24 (63 + 2 ^ 8)), { base := 0, log2 := 12, count := 0, overflow := false }, (forced (by decide +kernel)).symm,
    by decide +kernel, rfl, by decide +kernel, by decide +kernel, by decide +kernel⟩

theorem test_meets_InstanceEventsRun_4 :
    ∃ (s : State) (u : State) (v : State) (w : State) (n : Fin 64), (s.inst n.val).st = .fencing ∧ (if s.cp0Runs n.val then s.modCtx
    .cp0 fun _ => Ctx.init else s) = u ∧ ((((u.ringsOf n.val).foldl (fun (t : State) r => t.fenceRing r) u).modCmdRing n.val fun _ =>
    CmdRing.init).freeHolds n.val).recountReq n.val = v ∧ (v.modInst n.val fun i =>
    { i with st := .active, win := Window.init, fences := i.fences + 1, quiesceWait := none }).raise (1354 + n.val) = w :=
  ⟨devInst 63 fun i => { i with st := .fencing }, _, _, _, 63, by decide +kernel, rfl, rfl, rfl⟩

theorem test_meets_InstanceEventsRun_5 :
    ∃ (s : State) (n : Fin 64), n.val ≠ 0 ∧ s.host.vfEnable = true :=
  ⟨devHost fun h => { h with vfEnable := true }, 63, by decide +kernel, by decide +kernel⟩

theorem test_meets_InstanceEventsRun_6 :
    ∃ (s : State), s.host.vfEnable = true :=
  ⟨devHost fun h => { h with vfEnable := true }, by decide +kernel⟩

/-- The device with its link up, and function 0 as given. -/
def devLive (f : HostState → HostState) : State :=
  devHost fun h => f { h with frozen := false, perstLow := false, gen := 6, fns := [(0, { dev.fn 0 with busMaster := true, memSpace := true })] }

theorem test_meets_HostLinkRuns_1 :
    ∃ (s : State) (g : PcieGen), s.host.training = true ∧ s.host.perstLow = false ∧ s.host.gen = 0 ∧ genNum g ≤ s.strapGen :=
  ⟨devHost fun h => { h with training := true, perstLow := false }, .g6, by decide +kernel, by decide +kernel, by decide +kernel,
    by decide +kernel⟩

theorem test_meets_HostLinkRuns_2_1 :
    ∃ (s : State) (u : State), s.host.gen ≠ 0 ∧ ({ s with host := { s.host with gen := 0, width := 0, flit := false } } : State) = u ∧
    s.host.frozen = false :=
  ⟨devLive id, _, by decide +kernel, rfl, by decide +kernel⟩

theorem test_meets_HostLinkRuns_2_2 :
    ∃ (s : State) (u : State), s.host.gen ≠ 0 ∧ ({ s with host := { s.host with gen := 0, width := 0, flit := false } } : State) = u ∧
    s.host.frozen = true :=
  ⟨devLive fun h => { h with frozen := true }, _, by decide +kernel, rfl, by decide +kernel⟩

theorem test_meets_HostLinkRuns_3_1 :
    ∃ (s : State) (u : State), s.host.perstLow = false ∧
    ({ s with host := { s.host with perstLow := true, training := false, gen := 0, width := 0, flit := false } } : State) = u ∧
    s.host.frozen = false :=
  ⟨devLive id, _, by decide +kernel, rfl, by decide +kernel⟩

theorem test_meets_HostLinkRuns_3_2 :
    ∃ (s : State) (u : State), s.host.perstLow = false ∧
    ({ s with host := { s.host with perstLow := true, training := false, gen := 0, width := 0, flit := false } } : State) = u ∧
    s.host.frozen = true :=
  ⟨devLive fun h => { h with frozen := true }, _, by decide +kernel, rfl, by decide +kernel⟩

theorem test_meets_HostLinkRuns_4 :
    ∃ (s : State), 4 ≤ s.boot.phase ∧ s.boot.failed = false :=
  ⟨dev, by decide +kernel, by decide +kernel⟩

theorem test_meets_HostLinkRuns_5 :
    ∃ (s : State), s.host.frozen = true ∧ s.releaseReady = true :=
  ⟨devLive fun h => { h with frozen := true }, by decide +kernel, by decide +kernel⟩

theorem test_meets_HostLinkRuns_6 :
    ∃ (s : State) (n : Fin 64), s.fnPresent n.val = true :=
  ⟨devLive fun h => { h with vfEnable := true }, 63, by decide +kernel⟩

theorem test_meets_HostLinkRuns_7_1 :
    ∃ (s : State), s.fnPresent 0 = true :=
  ⟨devLive id, by decide +kernel⟩

theorem test_meets_HostLinkRuns_7_2 :
    ∃ (s : State) (v : BitVec 16), s.fnPresent 0 = true ∧ (s.fn 0).memSpace = false ∧ 10 ≤ v.toNat % 64 ∧ v.toNat % 64 ≤ 22 :=
  ⟨devHost fun h => { h with gen := 6 }, 22, by decide +kernel, by decide +kernel, by decide +kernel, by decide +kernel⟩

theorem test_meets_HostLinkRuns_7_3 :
    ∃ (s : State) (v : BitVec 16), s.fnPresent 0 = true ∧ bitAt v.toNat 0 = true :=
  ⟨devLive id, 1, by decide +kernel, by decide +kernel⟩

theorem test_meets_HostLinkRuns_7_4 :
    ∃ (s : State) (v : BitVec 16), s.fnPresent 0 = true ∧ bitAt v.toNat 0 = false ∧ s.host.vfEnable = true :=
  ⟨devLive fun h => { h with vfEnable := true }, 0, by decide +kernel, by decide +kernel, by decide +kernel⟩

theorem test_meets_WindowsComplete_1 :
    ∃ (s : State) (n : Fin 64), s.pageLive n.val = true :=
  ⟨devInst 63 fun i => { i with st := .active }, 63, by decide +kernel⟩

theorem test_meets_WindowsComplete_2_1 :
    ∃ (s : State) (n : Fin 64) (off : BitVec 42) (len : Nat) (a : Nat) (k : Nat), s.barHit n.val off.toNat len = true ∧ a = s.winAddr
    n.val off.toNat ∧ k = min len (s.installed - a) ∧ s.inDrawers n.val a len = true ∧ s.cab.paused = false :=
  ⟨{ devLive id with cab := { dev.cab with paused := false, installedGib := 1 } }, 0, 2 ^ 30 - 64, 64, _, _, by decide +kernel, rfl,
    rfl, by decide +kernel, by decide +kernel⟩

theorem test_meets_WindowsComplete_2_2 :
    ∃ (s : State) (n : Fin 64) (off : BitVec 42) (len : Nat) (a : Nat) (k : Nat), s.barHit n.val off.toNat len = true ∧ a = s.winAddr
    n.val off.toNat ∧ k = min len (s.installed - a) ∧ s.inDrawers n.val a len = true ∧ s.cab.paused = true :=
  ⟨{ devLive id with cab := { dev.cab with paused := true, installedGib := 1 } }, 0, 2 ^ 30 - 64, 64, _, _, by decide +kernel, rfl,
    rfl, by decide +kernel, by decide +kernel⟩

theorem test_meets_WindowsComplete_2_3 :
    ∃ (s : State) (n : Fin 64) (off : BitVec 42) (len : Nat) (a : Nat) (k : Nat), s.barHit n.val off.toNat len = true ∧ a = s.winAddr
    n.val off.toNat ∧ k = min len (s.installed - a) ∧ s.inDrawers n.val a len = false :=
  ⟨{ devLive (fun h => { h with vfEnable := true, fns := [(63, { dev.fn 63 with memSpace := true })] }) with cab := { dev.cab with paused := false, installedGib := 1 } },
    63, 0, 4, _, _, by decide +kernel, rfl, rfl, by decide +kernel⟩

theorem test_meets_WindowsComplete_3 :
    ∃ (s : State) (n : Fin 64) (off : BitVec 42) (data : List (Option Byte)), s.barHit n.val off.toNat data.length = true ∧ s.inDrawers
    n.val (s.winAddr n.val off.toNat) data.length = true :=
  ⟨devLive id, 0, 2 ^ 30 - 1, [some 1], by decide +kernel, by decide +kernel⟩

theorem test_meets_WindowsComplete_4 :
    ∃ (s : State) (n : Fin 64) (off : BitVec 42) (data : List (Option Byte)), s.barHit n.val off.toNat data.length = true ∧ s.inDrawers
    n.val (s.winAddr n.val off.toNat) data.length = false :=
  ⟨devLive fun h => { h with vfEnable := true, fns := [(63, { dev.fn 63 with memSpace := true })] }, 63, 0, [none],
    by decide +kernel, by decide +kernel⟩

theorem test_meets_FaultCommandsComplete_1 :
    ∃ (s : State) (p : Pkt), s.admits 0x0900 p wfFaultConfig = true :=
  ⟨dev, cr 0x0900 (bytesLe 16 (42 + 2 ^ 16 + 10000 * 2 ^ 32 + 1000000 * 2 ^ 64)), admits_sign (by decide +kernel)⟩

theorem test_meets_FaultCommandsComplete_2_1 :
    ∃ (s : State) (u : State) (v : State) (p : Pkt) (n : Nat), s.admits 0x0901 p wfFaultRelease = true ∧ s.running 0x0901 p = u ∧ n =
    fld (img p.params) 0 6 ∧ u.conditionHolds n = false ∧ (u.liftContainment n).modLine n (fun l =>
    { l with latched := false, sticky := if bitAt (img p.params) 9 then 0 else l.sticky, countedUntil := some ((u.liftContainment n).nowPs + l.windowMs * msPs) })
    = v ∧ bitAt (img p.params) 8 = false :=
  ⟨dev, _, _, pk (bytesLe 8 42), 42, by decide +kernel, rfl, by decide +kernel, by decide +kernel, rfl, by decide +kernel⟩

theorem test_meets_FaultCommandsComplete_2_2 :
    ∃ (s : State) (u : State) (v : State) (p : Pkt) (n : Nat), s.admits 0x0901 p wfFaultRelease = true ∧ s.running 0x0901 p = u ∧ n =
    fld (img p.params) 0 6 ∧ u.conditionHolds n = false ∧ (u.liftContainment n).modLine n (fun l =>
    { l with latched := false, sticky := if bitAt (img p.params) 9 then 0 else l.sticky, countedUntil := some ((u.liftContainment n).nowPs + l.windowMs * msPs) })
    = v ∧ bitAt (img p.params) 8 = true :=
  ⟨dev, _, _, pk (bytesLe 8 (42 + 3 * 2 ^ 8)), 42, by decide +kernel, rfl, by decide +kernel, by decide +kernel, rfl,
    by decide +kernel⟩

theorem test_meets_FaultEventsRun_1_2a :
    ∃ (s : State) (t : State) (u : State) (n : Fin 48) (src : BitVec 13), reservedLine n.val = false ∧ ((n.val ≠ 31 ∨ s.chanOut
    (src.toNat % 16) = true)) ∧ (if n.val = 10 then s.stagedLost else if n.val = 35 then s.wordLost src.toNat else s) = t ∧ (t.modLine
    n.val fun l => { l with count := l.count + 1 }) = u ∧ u.flt.safe = false ∧ u.lineCounted n.val = false :=
  ⟨{ dev with boot := { dev.boot with done := true } }, _, _, 42, 0, by decide +kernel, by decide +kernel, rfl, rfl,
    by decide +kernel, by decide +kernel⟩

theorem test_meets_FaultEventsRun_1_2b :
    ∃ (s : State) (t : State) (u : State) (n : Fin 48) (src : BitVec 13), reservedLine n.val = false ∧ ((n.val ≠ 31 ∨ s.chanOut
    (src.toNat % 16) = true)) ∧ (if n.val = 10 then s.stagedLost else if n.val = 35 then s.wordLost src.toNat else s) = t ∧ (t.modLine
    n.val fun l => { l with count := l.count + 1 }) = u ∧ u.flt.safe = false ∧ u.lineCounted n.val = false :=
  ⟨{ dev with boot := { dev.boot with done := true } }, _, _, 35, 0, by decide +kernel, by decide +kernel, rfl, rfl,
    by decide +kernel, by decide +kernel⟩

theorem test_meets_FaultEventsRun_1_2c :
    ∃ (s : State) (t : State) (u : State) (n : Fin 48) (src : BitVec 13), reservedLine n.val = false ∧ ((n.val ≠ 31 ∨ s.chanOut
    (src.toNat % 16) = true)) ∧ (if n.val = 10 then s.stagedLost else if n.val = 35 then s.wordLost src.toNat else s) = t ∧ (t.modLine
    n.val fun l => { l with count := l.count + 1 }) = u ∧ u.flt.safe = false ∧ u.lineCounted n.val = false :=
  ⟨{ dev with boot := { dev.boot with done := true } }, _, _, 10, 0, by decide +kernel, by decide +kernel, rfl, rfl,
    by decide +kernel, by decide +kernel⟩

theorem test_meets_FaultEventsRun_1_1 :
    ∃ (s : State) (t : State) (u : State) (n : Fin 48) (src : BitVec 13), reservedLine n.val = false ∧ ((n.val ≠ 31 ∨ s.chanOut
    (src.toNat % 16) = true)) ∧ (if n.val = 10 then s.stagedLost else if n.val = 35 then s.wordLost src.toNat else s) = t ∧ (t.modLine
    n.val fun l => { l with count := l.count + 1 }) = u ∧ u.flt.safe = true :=
  ⟨{ dev with flt := { dev.flt with safe := true } }, _, _, 42, 0, by decide +kernel, by decide +kernel, rfl, rfl, by decide +kernel⟩

theorem test_meets_FaultEventsRun_1_3 :
    ∃ (s : State) (t : State) (u : State) (n : Fin 48) (src : BitVec 13), reservedLine n.val = false ∧ ((n.val ≠ 31 ∨ s.chanOut
    (src.toNat % 16) = true)) ∧ (if n.val = 10 then s.stagedLost else if n.val = 35 then s.wordLost src.toNat else s) = t ∧ (t.modLine
    n.val fun l => { l with count := l.count + 1 }) = u ∧ u.flt.safe = false ∧ u.lineCounted n.val = false ∧ (u.line n.val).severity =
    0 :=
  ⟨{ dev with boot := { dev.boot with done := true } }.modLine 42 fun l => { l with severity := 0 }, _, _, 42, 0, by decide +kernel,
    by decide +kernel, rfl, rfl, by decide +kernel, by decide +kernel, by decide +kernel⟩

theorem test_meets_FaultEventsRun_1_4 :
    ∃ (s : State) (t : State) (u : State) (n : Fin 48) (src : BitVec 13) (w : _), reservedLine n.val = false ∧ ((n.val ≠ 31 ∨ s.chanOut
    (src.toNat % 16) = true)) ∧ (if n.val = 10 then s.stagedLost else if n.val = 35 then s.wordLost src.toNat else s) = t ∧ (t.modLine
    n.val fun l => { l with count := l.count + 1 }) = u ∧ u.flt.safe = false ∧ u.lineCounted n.val = true ∧
    ((match (u.line n.val).window with | some (a, k) => if u.nowPs < a + (u.line n.val).windowMs * msPs then (a, k + 1) else (u.nowPs, 1) | none => (u.nowPs, 1)) = w)
    ∧ (u.line n.val).countN ≤ w.2 :=
  ⟨dev.modLine 42 fun l => { l with severity := 1, countN := 1 }, _, _, 42, 0, _, by decide +kernel, by decide +kernel, rfl, rfl,
    by decide +kernel, by decide +kernel, rfl, by decide +kernel⟩

theorem test_meets_FaultEventsRun_1_5 :
    ∃ (s : State) (t : State) (u : State) (n : Fin 48) (src : BitVec 13) (w : _), reservedLine n.val = false ∧ ((n.val ≠ 31 ∨ s.chanOut
    (src.toNat % 16) = true)) ∧ (if n.val = 10 then s.stagedLost else if n.val = 35 then s.wordLost src.toNat else s) = t ∧ (t.modLine
    n.val fun l => { l with count := l.count + 1 }) = u ∧ u.flt.safe = false ∧ u.lineCounted n.val = true ∧
    ((match (u.line n.val).window with | some (a, k) => if u.nowPs < a + (u.line n.val).windowMs * msPs then (a, k + 1) else (u.nowPs, 1) | none => (u.nowPs, 1)) = w)
    ∧ w.2 < (u.line n.val).countN :=
  ⟨dev.modLine 42 fun l => { l with severity := 1, countN := 5, windowMs := 1, window := some (0, 3) }, _, _, 42, 0, _,
    by decide +kernel, by decide +kernel, rfl, rfl, by decide +kernel, by decide +kernel, rfl, by decide +kernel⟩

theorem test_meets_FaultEventsRun_2_1 :
    ∃ (s : State) (u : State) (src : BitVec 13), s.chanOut (src.toNat % 16) = false ∧ s.occur 31 src = u ∧ u.chanOut (src.toNat % 16) =
    true :=
  ⟨{ dev with boot := { dev.boot with done := true } }, _, 0, by decide +kernel, rfl, by decide +kernel⟩

theorem test_meets_FaultEventsRun_2_2 :
    ∃ (s : State) (u : State) (src : BitVec 13), s.chanOut (src.toNat % 16) = false ∧ s.occur 31 src = u ∧ u.chanOut (src.toNat % 16) =
    false :=
  ⟨dev.modLine 31 fun l => { l with severity := 0 }, _, 0, by decide +kernel, rfl, by decide +kernel⟩

theorem test_meets_FaultEventsRun_3 :
    ∃ (s : State) (n : Fin 48) (t : Nat) (k : Nat), (s.line n.val).window = some (t, k) ∧ s.due (t + (s.line n.val).windowMs * msPs) =
    true :=
  ⟨dev.modLine 42 fun l => { l with window := some (0, 3), windowMs := 0 }, 42, 0, 3, by decide +kernel, by decide +kernel⟩

theorem test_meets_FaultEventsRun_4 :
    ∃ (s : State) (a : Fin 3277) (t : Nat), (s.at_ a.val).flt.graceEnd = some t ∧ t ≤ (s.at_ a.val).nowPs ∧ (s.at_ a.val).flt.safe =
    false :=
  ⟨{ dev with flt := { dev.flt with graceEnd := some 409500 } }, 3276, 409500, by decide +kernel, by decide +kernel,
    by decide +kernel⟩

theorem test_meets_FaultEventsRun_5 :
    ∃ (s : State) (a : Fin 3277), (s.at_ a.val).flt.safe = false :=
  ⟨dev, 3276, by decide +kernel⟩

theorem test_meets_FaultEventsRun_6 :
    ∃ (s : State) (c : CmdPort), (s.ctx c).cmd.isSome = true ∧ (s.ctx c).st ≠ .idle ∧ (s.ctx c).finalSent = false ∧ (s.ctx c).cause ≠ 4 :=
  ⟨dev.modCtx .cp3 fun c => { c with cmd := some wtr, st := .running }, .cp3, by decide +kernel, by decide +kernel,
    by decide +kernel, by decide +kernel⟩

theorem test_meets_FaultEventsRun_7_1 :
    ∃ (s : State) (u : State) (i : Fin 112), i ∉ s.tt.pllLost ∧ ({ s with tt := { s.tt with pllLost := i :: s.tt.pllLost } } : State) =
    u ∧ 16 ≤ i.val ∧ i.val < 80 ∧ s.islandDown (i.val - 16) = false :=
  ⟨devTT fun t => { t with islandsDown := [] }, _, 79, by decide +kernel, rfl, by decide +kernel, by decide +kernel,
    by decide +kernel⟩

theorem test_meets_FaultEventsRun_7_2 :
    ∃ (s : State) (u : State) (i : Fin 112), i ∉ s.tt.pllLost ∧ ({ s with tt := { s.tt with pllLost := i :: s.tt.pllLost } } : State) =
    u ∧ 86 ≤ i.val ∧ i.val < 102 ∧ (s.chan (i.val - 86)).down = false :=
  ⟨dev, _, 101, by decide +kernel, rfl, by decide +kernel, by decide +kernel, by decide +kernel⟩

theorem test_meets_FaultEventsRun_7_3a :
    ∃ (s : State) (u : State) (i : Fin 112), i ∉ s.tt.pllLost ∧ ({ s with tt := { s.tt with pllLost := i :: s.tt.pllLost } } : State) =
    u ∧ (i.val < 16 ∨ (80 ≤ i.val ∧ i.val < 86) ∨ (102 ≤ i.val ∧ i.val < 107 ∧ (i.val = 105 → s.mgmt.powered = true))) :=
  ⟨dev, _, 15, by decide +kernel, rfl, .inl (by decide)⟩

theorem test_meets_FaultEventsRun_7_3b :
    ∃ (s : State) (u : State) (i : Fin 112), i ∉ s.tt.pllLost ∧ ({ s with tt := { s.tt with pllLost := i :: s.tt.pllLost } } : State) =
    u ∧ (i.val < 16 ∨ (80 ≤ i.val ∧ i.val < 86) ∨ (102 ≤ i.val ∧ i.val < 107 ∧ (i.val = 105 → s.mgmt.powered = true))) :=
  ⟨dev, _, 85, by decide +kernel, rfl, .inr (.inl (by decide))⟩

theorem test_meets_FaultEventsRun_7_3c :
    ∃ (s : State) (u : State) (i : Fin 112), i ∉ s.tt.pllLost ∧ ({ s with tt := { s.tt with pllLost := i :: s.tt.pllLost } } : State) =
    u ∧ (i.val < 16 ∨ (80 ≤ i.val ∧ i.val < 86) ∨ (102 ≤ i.val ∧ i.val < 107 ∧ (i.val = 105 → s.mgmt.powered = true))) :=
  ⟨dev, _, 106, by decide +kernel, rfl, .inr (.inr (by decide))⟩

theorem test_meets_FaultEventsRun_8 :
    ∃ (s : State), s.flt.safe = false :=
  ⟨dev, by decide +kernel⟩

theorem test_meets_MonitorsAndEventsRun_1_1 :
    ∃ (s : State) (k : Fin 1536) (t : Nat), (s.evt k.val).until_ = some t ∧ s.due t = true ∧ (s.evt k.val).owed = true :=
  ⟨dev.modEvt 1535 fun e => { e with until_ := some 0, owed := true }, 1535, 0, by decide +kernel, by decide +kernel,
    by decide +kernel⟩

theorem test_meets_MonitorsAndEventsRun_1_2 :
    ∃ (s : State) (k : Fin 1536) (t : Nat), (s.evt k.val).until_ = some t ∧ s.due t = true ∧ (s.evt k.val).owed = false :=
  ⟨dev.modEvt 1535 fun e => { e with until_ := some 0, owed := false }, 1535, 0, by decide +kernel, by decide +kernel,
    by decide +kernel⟩

theorem test_meets_MonitorsAndEventsRun_2_2 :
    ∃ (fn : Fin 64) (v : Fin 536), v.val < msixVectors fn.val :=
  ⟨63, 8, by decide +kernel⟩

theorem test_meets_MonitorsAndEventsRun_3 :
    ∃ (s : State) (u : State) (x : State) (y : State) (z : State) (k : Fin 32) (r : BitVec 16) (a : Fin 3277) (v : Sensor), s.at_ a.val
    = u ∧ v =
    { reading := r, maximum := if sgn 16 (u.sensor k).maximum.toNat < sgn 16 r.toNat then r else (u.sensor k).maximum, warn := if (u.sensor k).warn then decide (744 < sgn 16 r.toNat) else decide (760 ≤ sgn 16 r.toNat), alarm := if (u.sensor k).alarm then decide (824 < sgn 16 r.toNat) else decide (840 ≤ sgn 16 r.toNat), trip := if (u.sensor k).trip then decide (904 < sgn 16 r.toNat) else decide (920 ≤ sgn 16 r.toNat) }
    ∧ (if v.warn && !(u.sensor k).warn then (u.modSensor k fun _ => v).occur 24 (BitVec.ofNat 13 k.val) else u.modSensor k fun _ => v)
    = x ∧ (if v.alarm && !(u.sensor k).alarm then x.occur 25 (BitVec.ofNat 13 k.val) else x) = y ∧ (if v.trip && !(u.sensor k).trip
    then y.occur 26 (BitVec.ofNat 13 k.val) else y) = z :=
  ⟨dev, _, _, _, _, 31, 744, 3276, _, rfl, rfl, rfl, rfl, rfl⟩

theorem test_meets_MonitorsAndEventsRun_4_1 :
    ∃ (s : State) (u : State) (t : Nat), s.flt.shedAt = some t ∧ s.due t = true ∧
    ({ s.reach t with flt := { (s.reach t).flt with shedAt := some (t + ((s.reach t).line 25).graceUs * usPs) } } : State) = u ∧ ((∃ k
    < 32, 840 ≤ sgn 16 (s.sensor k).reading.toNat)) :=
  ⟨{ dev with flt := { dev.flt with shedAt := some 0 } }.modSensor 31 fun x => { x with reading := 840 }, _, 0, by decide +kernel,
    by decide +kernel, rfl, ⟨31, by decide +kernel, by decide +kernel⟩⟩

theorem test_meets_MonitorsAndEventsRun_4_2 :
    ∃ (s : State) (u : State) (t : Nat), s.flt.shedAt = some t ∧ s.due t = true ∧
    ({ s.reach t with flt := { (s.reach t).flt with shedAt := some (t + ((s.reach t).line 25).graceUs * usPs) } } : State) = u ∧ ((∀ k
    < 32, sgn 16 (s.sensor k).reading.toNat < 840)) :=
  ⟨{ dev with flt := { dev.flt with shedAt := some 0 } }, _, 0, by decide +kernel, by decide +kernel, rfl, by decide +kernel⟩

theorem test_meets_MonitorsAndEventsRun_5 :
    ∃ (s : State) (u : State) (v : State) (k : Fin 24) (mv : BitVec 16) (r3 : Nat) (r6 : Nat), r3 = (if beyond 3 (s.railTarget k.val)
    mv.toNat then min 4 ((s.volt k).run3 + 1) else 0) ∧ r6 = (if beyond 6 (s.railTarget k.val) mv.toNat then min 4 ((s.volt k).run6 +
    1) else 0) ∧ (s.modVolt k.val fun _ => { mv := mv, run3 := r3, run6 := r6, warn := r3 == 4, fail := r6 == 4 }) = u ∧ (if r3 = 4 ∧
    (s.volt k).run3 ≠ 4 then u.occur 27 (BitVec.ofNat 13 k.val) else u) = v :=
  ⟨dev, _, _, 23, 824, _, _, rfl, rfl, rfl, rfl⟩

theorem test_meets_MonitorsAndEventsRun_6 :
    ∃ (s : State) (u : State) (v : State), 4 ≤ s.boot.phase ∧ s.boot.failed = false ∧ s.boot.warmLow = false ∧ s.closeRound.advanceTime
    = u ∧ ({ u with off8 := 0, tt := { u.tt with round := u.tt.round + 1 }, pmc := { u.pmc with inForce := u.pmc.cfg } } : State) = v :=
  ⟨dev, _, _, by decide +kernel, by decide +kernel, by decide +kernel, rfl, rfl⟩

/-- A load of one word whose packet is cancelled after `k` words. -/
def loadCut (k : Nat) : Pkt :=
  sign (keyOf 1) 0x0A00 { pk (bytesLe 8 (2047 + 2 ^ 16) ++ bytesLe 24 0) with keySlot := 1, trailer := true, counter := 1, cancelAt := some k }

theorem test_meets_UserMicrocodeRuns_1_2 :
    ∃ (s : State) (u : State) (p : Pkt), s.admits 0x0A00 p wfUcodeLoad = true ∧ s.running 0x0A00 p = u ∧ u.userInUse = false ∧
    p.cancelAt = none :=
  ⟨dev, _, cr 0x0A00 (bytesLe 8 (2047 + 2 ^ 16) ++ bytesLe 24 0), admits_sign (by decide +kernel), rfl, by decide +kernel,
    by decide +kernel⟩

theorem test_meets_UserMicrocodeRuns_1_3 :
    ∃ (s : State) (u : State) (p : Pkt) (k : _), s.admits 0x0A00 p wfUcodeLoad = true ∧ s.running 0x0A00 p = u ∧ u.userInUse = false ∧
    p.cancelAt = some k ∧ k < fld (leAt p.params 0 8) 16 16 :=
  ⟨dev, _, loadCut 0, 0, admits_sign (by decide +kernel), rfl, by decide +kernel, by decide +kernel, by decide +kernel⟩

theorem test_meets_UserMicrocodeRuns_1_4 :
    ∃ (s : State) (u : State) (p : Pkt) (k : _), s.admits 0x0A00 p wfUcodeLoad = true ∧ s.running 0x0A00 p = u ∧ u.userInUse = false ∧
    p.cancelAt = some k ∧ fld (leAt p.params 0 8) 16 16 ≤ k :=
  ⟨dev, _, loadCut 1, 1, admits_sign (by decide +kernel), rfl, by decide +kernel, by decide +kernel, by decide +kernel⟩

theorem test_meets_UserMicrocodeRuns_2 :
    ∃ (s : State) (u : State) (p : Pkt), s.admits 0x0A01 p wfUcodeCall = true ∧ s.running 0x0A01 p = u :=
  ⟨dev, _, pk (bytesLe 8 (2047 + 2 ^ 56)), by decide +kernel, rfl⟩

theorem test_meets_UserMicrocodeRuns_3 :
    ∃ (s : State) (t : State) (p : CmdPort) (q : CmdPort), ([CmdPort.cp0, .cp1, .cp2, .cp3].find? fun x => (s.ctx x).st == .running) =
    some p ∧ (s.modCtx p fun c => { c with st := .slice, cause := 1 }) = t ∧ (ctxOrder p).find? (fun x => (t.ctx x).st == .slice) =
    some q :=
  ⟨(dev.modCtx .cp0 fun c => { c with st := .running }).modCtx .cp3 fun c => { c with st := .slice }, _, _, _, (Option.some_get
    (by decide +kernel)).symm, rfl, (Option.some_get (by decide +kernel)).symm⟩

theorem test_meets_UserMicrocodeRuns_4_1 :
    ∃ (s : State) (p : _), ((∀ q, (s.ctx q).st ≠ .running)) ∧ (ctxOrder s.ucode.lastCtx).find? (fun x => (s.ctx x).st == .slice) = some
    p :=
  ⟨dev.modCtx .cp0 fun c => { c with st := .slice }, _, by intro q; cases q <;> decide +kernel, (Option.some_get
    (by decide +kernel)).symm⟩

theorem test_meets_UserMicrocodeRuns_4_2 :
    ∃ (s : State), ((∀ q, (s.ctx q).st ≠ .running)) ∧ ((∀ q, (s.ctx q).st ≠ .slice)) :=
  ⟨dev, by intro q; cases q <;> decide +kernel, by intro q; cases q <;> decide +kernel⟩

theorem test_meets_UserMicrocodeRuns_5_1 :
    ∃ (s : State) (c : CmdPort), (s.ctx c).st = .waiting ∧ s.waitHolds c (wWait (tget 0 s.ucode.words (s.ctx c).upc.toNat)) = true :=
  ⟨{ dev with ucode := { dev.ucode with words := [(0, 8 * 2 ^ 114)] } }.modCtx .cp3 fun c =>
    { c with st := .waiting, timerDone := true }, .cp3, by decide +kernel, by decide +kernel⟩

theorem test_meets_UserMicrocodeRuns_5_2 :
    ∃ (s : State) (c : CmdPort), ((s.ctx c).st ≠ .waiting ∨ s.waitHolds c (wWait (tget 0 s.ucode.words (s.ctx c).upc.toNat)) = false) :=
  ⟨dev, .cp0, .inl (by decide +kernel)⟩

theorem test_meets_UserMicrocodeRuns_6_1 :
    ∃ (s : State) (c : CmdPort) (t : _), (s.ctx c).timer = some t ∧ s.due t = true :=
  ⟨dev.modCtx .cp3 fun c => { c with timer := some 0 }, .cp3, 0, by decide +kernel, by decide +kernel⟩

theorem test_meets_UserMicrocodeRuns_6_2 :
    ∃ (s : State) (c : CmdPort), ((∀ t, (s.ctx c).timer = some t → s.due t = false)) :=
  ⟨dev, .cp3, fun t h => nomatch (show (none : Option Nat) = some t from h)⟩

theorem test_meets_UserMicrocodeRuns_7_1 :
    ∃ (s : State) (c : CmdPort), (s.ctx c).st ≠ .idle ∧ s.due ((s.ctx c).startedAt + (s.ctx c).limit * 1000) = true :=
  ⟨dev.modCtx .cp3 fun c => { c with st := .running, limit := 409 }, .cp3, by decide +kernel, by decide +kernel⟩

theorem test_meets_UserMicrocodeRuns_7_2 :
    ∃ (s : State) (c : CmdPort), ((s.ctx c).st = .idle ∨ s.due ((s.ctx c).startedAt + (s.ctx c).limit * 1000) = false) :=
  ⟨dev, .cp3, .inl (by decide +kernel)⟩

theorem test_meets_CommandPortsRun_1_1 :
    ∃ (s : State) (u : State) (n : Fin 64) (m : List (BitVec 64 × List Byte)), s.softStore m = u ∧ u.cmdRegs n.val = false :=
  ⟨dev, _, 63, [], rfl, by decide +kernel⟩

theorem test_meets_CommandPortsRun_1_2 :
    ∃ (s : State) (u : State) (n : Fin 64) (m : List (BitVec 64 × List Byte)), s.softStore m = u ∧ u.cmdRegs n.val = true :=
  ⟨devLive id, _, 0, [], rfl, by decide +kernel⟩

theorem test_meets_CommandPortsRun_2_1 :
    ∃ (s : State) (n : Fin 64), s.cmdRegs n.val = false :=
  ⟨dev, 63, by decide +kernel⟩

theorem test_meets_CommandPortsRun_2_2 :
    ∃ (s : State) (n : Fin 64), s.cmdRegs n.val = true :=
  ⟨devLive id, 0, by decide +kernel⟩

theorem test_meets_CommandPortsRun_3_1 :
    ∃ (s : State) (u : State) (a : Fin 3277) (n : _), s.at_ a.val = u ∧ 4 ≤ u.boot.phase ∧ u.boot.failed = false ∧ u.host.frozen =
    false ∧ u.cp0Free = true ∧ u.nextCmdRing = some n :=
  ⟨(devLive id).modCmdRing 0 fun g => { g with enable := true, cmdTail := 1 }, _, 3276, _, rfl, by decide +kernel, by decide +kernel,
    by decide +kernel, by decide +kernel, (Option.some_get (by decide +kernel)).symm⟩

theorem test_meets_CommandPortsRun_3_2 :
    ∃ (s : State) (u : State) (a : Fin 3277), s.at_ a.val = u ∧ 4 ≤ u.boot.phase ∧ u.boot.failed = false ∧ u.host.frozen = false ∧
    u.cp0Free = true ∧ u.nextCmdRing = none :=
  ⟨devLive id, _, 3276, rfl, by decide +kernel, by decide +kernel, by decide +kernel, by decide +kernel, by decide +kernel⟩

theorem test_meets_CommandPortsRun_4 :
    ∃ (s : State) (t : BitVec 14) (q : ReadReq) (n : Nat), s.host.reads.find? (fun q => q.tag == t) = some q ∧ q.fenced = false ∧
    q.purpose = .command n :=
  ⟨devHost fun h =>
    { h with reads := [{ tag := 5, purpose := .command 63, fn := 63, issued := 0, tct := 0, fenced := false, relaxed := false }] }, 5,
    { tag := 5, purpose := .command 63, fn := 63, issued := 0, tct := 0, fenced := false, relaxed := false }, 63, by decide +kernel,
    by decide +kernel, by decide +kernel⟩

/-- A frame for CP1 of 64 octets: type 0x88B5 and its frame check sequence. -/
def cp1Frame : List Byte := List.replicate 12 0 ++ [0x88, 0xB5] ++ List.replicate 46 0 ++ bytesLe 4 1295415901

/-- A serial frame that holds a NOP packet and its CRC-32C. -/
def cp3Frame : List Byte := [0x7E] ++ bytesLe 16 1 ++ bytesLe 4 2960955156 ++ [0x7E]

/-- A frame as `cp1Frame` for the station 0x010203040506. -/
def cp1Mine : List Byte := [1, 2, 3, 4, 5, 6] ++ (cp1Frame.drop 6).take 54 ++ bytesLe 4 1331122430

theorem test_meets_CommandPortsRun_5_1 :
    ∃ (s : State) (u : State) (v : State) (f : List Byte) (a : Fin 3277), s.at_ a.val = u ∧ u.countMgmt f = v ∧ (u.mgmt.powered = false
    ∨ u.mgmt.station = 0) :=
  ⟨dev, _, _, [1], 0, rfl, rfl, .inr (by decide +kernel)⟩

theorem test_meets_CommandPortsRun_5_2 :
    ∃ (s : State) (u : State) (v : State) (f : List Byte) (a : Fin 3277) (bs : _) (vlan : _), s.at_ a.val = u ∧ u.countMgmt f = v ∧
    u.mgmt.powered = true ∧ u.mgmt.station ≠ 0 ∧ v.mgmtAccepts f = some (bs, vlan) :=
  ⟨{ dev with mgmt := { dev.mgmt with powered := true, station := 0x010203040506 } }, _, _, cp1Mine, 0, (cp1Mine.take 60).drop 14,
    none, rfl, rfl, by decide +kernel, by decide +kernel, by decide +kernel⟩

theorem test_meets_CommandPortsRun_5_3 :
    ∃ (s : State) (u : State) (v : State) (f : List Byte) (a : Fin 3277), s.at_ a.val = u ∧ u.countMgmt f = v ∧ u.mgmt.powered = true ∧
    u.mgmt.station ≠ 0 ∧ v.mgmtAccepts f = none :=
  ⟨{ dev with mgmt := { dev.mgmt with powered := true, station := 0x010203040506 } }, _, _, [1], 0, rfl, rfl, by decide +kernel,
    by decide +kernel, by decide +kernel⟩

theorem test_meets_CommandPortsRun_6_1 :
    ∃ (s : State) (u : State) (a : Fin 3277), s.at_ a.val = u ∧ u.cp3On = false :=
  ⟨dev, _, 0, rfl, by decide +kernel⟩

theorem test_meets_CommandPortsRun_6_2 :
    ∃ (s : State) (u : State) (f : List Byte) (a : Fin 3277), s.at_ a.val = u ∧ u.cp3On = true ∧ ((serialPacket f = none ∨ 4 ≤
    u.cmd.cp3Q.length)) :=
  ⟨{ dev with boot := { dev.boot with straps := 8 } }, _, [0x7E, 0x7E], 0, rfl, by decide +kernel, .inl (by decide +kernel)⟩

theorem test_meets_CommandPortsRun_6_3 :
    ∃ (s : State) (u : State) (f : List Byte) (a : Fin 3277) (bs : _), s.at_ a.val = u ∧ u.cp3On = true ∧ serialPacket f = some bs ∧
    u.cmd.cp3Q.length < 4 :=
  ⟨{ dev with boot := { dev.boot with straps := 8 } }, _, cp3Frame, 0, bytesLe 16 1, rfl, by decide +kernel, by decide +kernel,
    by decide +kernel⟩

theorem test_meets_CommandPortsRun_7_1 :
    ∃ (s : State) (us : Nat), (us < 1000 ∨ s.cp3On = false) :=
  ⟨dev, 999, .inl (by decide)⟩

theorem test_meets_CommandPortsRun_7_2 :
    ∃ (s : State) (us : Nat), 1000 ≤ us ∧ s.cp3On = true ∧ (s.ctx .cp3).st = .idle :=
  ⟨{ dev with boot := { dev.boot with straps := 8 } }, 1000, by decide +kernel, by decide +kernel, by decide +kernel⟩

theorem test_meets_CommandPortsRun_7_3 :
    ∃ (s : State) (us : Nat) (u : State), 1000 ≤ us ∧ s.cp3On = true ∧ (s.ctx .cp3).st ≠ .idle ∧ s.modCtx .cp3 (fun c =>
    { c with cancel := true }) = u :=
  ⟨{ dev with boot := { dev.boot with straps := 8 } }.modCtx .cp3 fun c => { c with st := .running }, 1000, _, by decide +kernel,
    by decide +kernel, by decide +kernel, rfl⟩

theorem test_meets_CommandPortsRun_8_1 :
    ∃ (s : State) (v : State) (q : BitVec 64), s.heardNow = v ∧ s.mirroring = true ∧ s.mirror.role = .standby ∧ s.mirror.seq < q ∧
    s.mirror.cp2Q.length < 16 :=
  ⟨devPair .standby .primary id, _, 1, rfl, by decide +kernel, by decide +kernel, by decide +kernel, by decide +kernel⟩

theorem test_meets_CommandPortsRun_8_2 :
    ∃ (s : State) (v : State) (q : BitVec 64), s.heardNow = v ∧ (s.mirroring = false ∨ s.mirror.role ≠ .standby ∨ q ≤ s.mirror.seq ∨ 16
    ≤ s.mirror.cp2Q.length) :=
  ⟨devPair .standby .primary id, _, 0, rfl, .inr (.inr (.inl (by decide +kernel)))⟩

theorem test_meets_CountersRun_2_1a :
    ∃ (k : Fin 256), (isPipeCtr k.val = true ∨ isGlobalCtr k.val = true) :=
  ⟨251, .inr (by decide +kernel)⟩

theorem test_meets_CountersRun_2_1b :
    ∃ (k : Fin 256), (isPipeCtr k.val = true ∨ isGlobalCtr k.val = true) :=
  ⟨187, .inl (by decide +kernel)⟩

theorem test_meets_CountersRun_2_2 :
    ∃ (k : Fin 256), isPipeCtr k.val = false ∧ isGlobalCtr k.val = false :=
  ⟨188, by decide +kernel, by decide +kernel⟩

theorem test_meets_CountersRun_3_1 :
    ∃ (s : State) (u : State) (v : BitVec 64),
    { s with pmc := { s.pmc with markNo := v.setWidth 8, markPair := v.getLsbD 8, markRejected := s.pmc.markRejected && !v.getLsbD 11, pairMissed := s.pmc.pairMissed && !v.getLsbD 12 } }
    = u ∧ v.getLsbD 9 = false :=
  ⟨dev, _, 0, rfl, by decide +kernel⟩

theorem test_meets_CountersRun_3_2 :
    ∃ (s : State) (u : State) (v : BitVec 64),
    { s with pmc := { s.pmc with markNo := v.setWidth 8, markPair := v.getLsbD 8, markRejected := s.pmc.markRejected && !v.getLsbD 11, pairMissed := s.pmc.pairMissed && !v.getLsbD 12 } }
    = u ∧ v.getLsbD 9 = true ∧ s.pmc.markBusy = true :=
  ⟨{ dev with pmc := { dev.pmc with markBusy := true } }, _, 2 ^ 9, rfl, by decide +kernel, by decide +kernel⟩

theorem test_meets_CountersRun_3_3 :
    ∃ (s : State) (u : State) (v : BitVec 64),
    { s with pmc := { s.pmc with markNo := v.setWidth 8, markPair := v.getLsbD 8, markRejected := s.pmc.markRejected && !v.getLsbD 11, pairMissed := s.pmc.pairMissed && !v.getLsbD 12 } }
    = u ∧ v.getLsbD 9 = true ∧ s.pmc.markBusy = false ∧ v.getLsbD 8 = true ∧ u.mirroring = true :=
  ⟨devPair .primary .standby id, _, 2 ^ 9 + 2 ^ 8, rfl, by decide +kernel, by decide +kernel, by decide +kernel, by decide +kernel⟩

theorem test_meets_CountersRun_3_4 :
    ∃ (s : State) (u : State) (v : BitVec 64),
    { s with pmc := { s.pmc with markNo := v.setWidth 8, markPair := v.getLsbD 8, markRejected := s.pmc.markRejected && !v.getLsbD 11, pairMissed := s.pmc.pairMissed && !v.getLsbD 12 } }
    = u ∧ v.getLsbD 9 = true ∧ s.pmc.markBusy = false ∧ v.getLsbD 8 = true ∧ u.mirroring = false :=
  ⟨dev, _, 2 ^ 9 + 2 ^ 8, rfl, by decide +kernel, by decide +kernel, by decide +kernel, by decide +kernel⟩

theorem test_meets_CountersRun_3_5 :
    ∃ (s : State) (u : State) (v : BitVec 64),
    { s with pmc := { s.pmc with markNo := v.setWidth 8, markPair := v.getLsbD 8, markRejected := s.pmc.markRejected && !v.getLsbD 11, pairMissed := s.pmc.pairMissed && !v.getLsbD 12 } }
    = u ∧ v.getLsbD 9 = true ∧ s.pmc.markBusy = false ∧ v.getLsbD 8 = false :=
  ⟨dev, _, 2 ^ 9, rfl, by decide +kernel, by decide +kernel, by decide +kernel⟩

theorem test_meets_CountersRun_4_1 :
    ∃ (s : State) (u : State) (v : BitVec 64),
    { s with pmc := { s.pmc with sweepFirst := fld v.toNat 0 8, sweepLast := fld v.toNat 8 8, sweepRejected := s.pmc.sweepRejected && !v.getLsbD 18 } }
    = u ∧ v.getLsbD 16 = false :=
  ⟨dev, _, 0, rfl, by decide +kernel⟩

theorem test_meets_CountersRun_4_2 :
    ∃ (s : State) (u : State) (v : BitVec 64),
    { s with pmc := { s.pmc with sweepFirst := fld v.toNat 0 8, sweepLast := fld v.toNat 8 8, sweepRejected := s.pmc.sweepRejected && !v.getLsbD 18 } }
    = u ∧ v.getLsbD 16 = true ∧ s.pmc.sweepBusy = true :=
  ⟨{ dev with pmc := { dev.pmc with sweepBusy := true } }, _, 2 ^ 16, rfl, by decide +kernel, by decide +kernel⟩

theorem test_meets_CountersRun_4_3 :
    ∃ (s : State) (u : State) (v : BitVec 64),
    { s with pmc := { s.pmc with sweepFirst := fld v.toNat 0 8, sweepLast := fld v.toNat 8 8, sweepRejected := s.pmc.sweepRejected && !v.getLsbD 18 } }
    = u ∧ v.getLsbD 16 = true ∧ s.pmc.sweepBusy = false :=
  ⟨dev, _, 2 ^ 16 + 255 * 2 ^ 8, rfl, by decide +kernel, by decide +kernel⟩

theorem test_meets_CountersRun_5_1 :
    ∃ (s : State), s.pmc.sweeping = none :=
  ⟨dev, by decide +kernel⟩

theorem test_meets_CountersRun_5_2 :
    ∃ (s : State) (first : _) (last : _), s.pmc.sweeping = some (first, last) :=
  ⟨{ dev with pmc := { dev.pmc with sweeping := some (0, 255) } }, 0, 255, by decide +kernel⟩

theorem test_meets_RegisterWritesRun_1_2 :
    ∃ (a : BitVec 26), a.toNat % 8 = 0 :=
  ⟨2 ^ 26 - 8, by decide +kernel⟩

theorem test_meets_RegisterWritesRun_1_3 :
    ∃ (a : BitVec 26), a.toNat % 4 = 0 :=
  ⟨2 ^ 26 - 4, by decide +kernel⟩

theorem test_meets_RegisterWritesRun_1_4 :
    ∃ (a : BitVec 26), a.toNat % 8 ≠ 0 :=
  ⟨2 ^ 26 - 4, by decide +kernel⟩

theorem test_meets_RegisterWritesRun_1_5 :
    ∃ (a : BitVec 26), a.toNat % 4 ≠ 0 :=
  ⟨2 ^ 26 - 1, by decide +kernel⟩

theorem test_meets_RegisterWritesRun_2_1 :
    ∃ (s : State) (u : State), s.settleLatch = u :=
  ⟨dev, _, rfl⟩

theorem test_meets_RegisterWritesRun_2_2 :
    ∃ (s : State) (u : State) (a : Nat), s.settleLatch = u ∧ a % 8 = 0 :=
  ⟨dev, _, 2 ^ 26 - 8, rfl, by decide +kernel⟩

theorem test_meets_RegisterWritesRun_2_3 :
    ∃ (s : State) (u : State) (a : Nat), s.settleLatch = u ∧ a % 4 = 0 :=
  ⟨dev, _, 2 ^ 26 - 4, rfl, by decide +kernel⟩

theorem test_meets_RegisterWritesRun_2_4 :
    ∃ (s : State) (u : State) (a : Nat), s.settleLatch = u ∧ a % 8 ≠ 0 :=
  ⟨dev, _, 2 ^ 26 - 4, rfl, by decide +kernel⟩

theorem test_meets_RegisterWritesRun_2_5 :
    ∃ (s : State) (u : State) (a : Nat), s.settleLatch = u ∧ a % 4 ≠ 0 :=
  ⟨dev, _, 2 ^ 26 - 1, rfl, by decide +kernel⟩

/-- A microcode image slot that the boot ROM takes, and a board with it. -/
def slot : FlashSlot :=
  { magic := 0x4D495753, partCode := 0x5120, version := 1, length := 18, keyHash := some 1, signatureOk := true, words := [0] }
def board : Board :=
  { straps := 0, slotA := slot, slotB := slot, bootA := [], bootB := [], nonce := 5, process := [], avsMv := 800, dimms := [] }

theorem test_meets_ResetsRun_1 :
    ∃ (b : Board), b.straps.getLsbD 5 = true :=
  ⟨{ board with straps := 32 }, by decide +kernel⟩

theorem test_meets_ResetsRun_2_1 :
    ∃ (s : State) (u : State) (b : Board), b.straps.getLsbD 5 = false ∧ (s.powerCycle.bootMonitors b).bootFlash b = u ∧ u.boot.failed =
    false :=
  ⟨dev, _, board, by decide +kernel, rfl, by decide +kernel⟩

theorem test_meets_ResetsRun_2_2 :
    ∃ (s : State) (u : State) (b : Board), b.straps.getLsbD 5 = false ∧ (s.powerCycle.bootMonitors b).bootFlash b = u ∧ u.boot.failed =
    true :=
  ⟨dev, _, { board with slotA := { slot with magic := 0 }, slotB := { slot with magic := 0 } }, by decide +kernel, rfl,
    by decide +kernel⟩

theorem test_meets_ResetsRun_3 :
    ∃ (s : State) (g : Fin 8), 4 ≤ s.boot.phase ∧ s.boot.warmLow = false ∧ s.boot.serdesEnabled.getLsbD g.val = true ∧
    s.boot.serdesUp.getLsbD g.val = false ∧ ((∀ i < g.val, s.boot.serdesEnabled.getLsbD i = true → s.boot.serdesUp.getLsbD i = true)) :=
  ⟨{ dev with boot := { dev.boot with serdesEnabled := 255, serdesUp := 127 } }, 7, by decide +kernel, by decide +kernel,
    by decide +kernel, by decide +kernel, by decide +kernel⟩

theorem test_meets_ResetsRun_4 :
    ∃ (s : State) (g : Fin 8), ((s.boot.phase < 4 ∨ s.boot.warmLow = true ∨ s.boot.serdesEnabled.getLsbD g.val = false ∨
    s.boot.serdesUp.getLsbD g.val = true ∨ ∃ i < g.val, s.boot.serdesEnabled.getLsbD i = true ∧ s.boot.serdesUp.getLsbD i = false)) :=
  ⟨{ dev with boot := { dev.boot with serdesEnabled := 255, serdesUp := 63 } }, 7, .inr (.inr (.inr (.inr ⟨6, by decide +kernel,
    by decide +kernel, by decide +kernel⟩)))⟩

theorem test_meets_ResetsRun_5 :
    ∃ (s : State), 4 ≤ s.boot.phase ∧ s.boot.warmLow = false ∧ s.boot.done = false ∧ s.boot.serdesUp = s.boot.serdesEnabled ∧ ((∀ k <
    16, (s.chan k).st ≠ .training)) :=
  ⟨{ dev with cab := { dev.cab with chans := (List.range 16).map fun k => (k, { Chan.init with st := .inService }) }, boot := { dev.boot with serdesEnabled := 255, serdesUp := 255 } },
    by decide +kernel, by decide +kernel, by decide +kernel, by decide +kernel, by decide +kernel⟩

theorem test_meets_ResetsRun_6 :
    ∃ (s : State), ((s.boot.phase < 4 ∨ s.boot.warmLow = true ∨ s.boot.done = true ∨ s.boot.serdesUp ≠ s.boot.serdesEnabled ∨ ∃ k < 16,
    (s.chan k).st = .training)) :=
  ⟨dev, .inr (.inr (.inr (.inr ⟨0, by decide +kernel, by decide +kernel⟩)))⟩

theorem test_meets_ResetsRun_7_1 :
    ∃ (s : State) (u : State) (a : Fin 3277), s.at_ a.val = u ∧ 4 ≤ u.boot.phase ∧ u.boot.failed = false :=
  ⟨dev, _, 3276, rfl, by decide +kernel, by decide +kernel⟩

theorem test_meets_ResetsRun_7_2 :
    ∃ (s : State) (u : State) (a : Fin 3277), s.at_ a.val = u ∧ (u.boot.phase < 4 ∨ u.boot.failed = true) :=
  ⟨{ dev with boot := { dev.boot with failed := true } }, _, 3276, rfl, .inr (by decide +kernel)⟩

theorem test_meets_ResetsRun_8_1 :
    ∃ (s : State), s.boot.warmLow = true :=
  ⟨{ dev with boot := { dev.boot with warmLow := true } }, by decide +kernel⟩

theorem test_meets_ResetsRun_8_2 :
    ∃ (s : State), s.boot.warmLow = false :=
  ⟨dev, by decide +kernel⟩

theorem test_meets_ResetsRun_9_1 :
    ∃ (s : State) (vpp : Bool) (low : Bool), vpp = true ∧ low = true ∧ s.env.lockFuse = false :=
  ⟨dev, true, true, by decide +kernel, by decide +kernel, by decide +kernel⟩

theorem test_meets_ResetsRun_9_2 :
    ∃ (s : State) (vpp : Bool) (low : Bool), (vpp = false ∨ low = false ∨ s.env.lockFuse = true) :=
  ⟨dev, false, true, .inl rfl⟩

theorem test_meets_ResetsRun_10_1 :
    ∃ (s : State) (k : _), s.env.ownerBytes = some k :=
  ⟨{ dev with env := { dev.env with ownerFuse := some 7, lockFuse := true } }, bytesLe 32 7, by decide +kernel⟩

theorem test_meets_ResetsRun_10_2 :
    ∃ (s : State), s.env.ownerBytes = none :=
  ⟨dev, by decide +kernel⟩

/-- The device whose ring 1023 of a type has one descriptor posted. -/
def devRing (t : BitVec 3) (d : List Byte) (f : DmaRing → DmaRing) : State :=
  ({ devHost (fun h => { h with frozen := false, gen := 6, fns := [(0, { dev.fn 0 with busMaster := true })], mem := memWrite [] 0 d })
    with tt := { dev.tt with active := some [] }, cab := { dev.cab with paused := false } } : State).modDma 1023 fun q =>
      f { q with enable := true, typ := t, log2 := 6, tail := 1, circLog2 := 5 }

/-- Descriptors owned by the device: an INJECT link of `n` bytes, one of a lease, one that a second link follows, a DELIVER or LEASE
buffer, a COPY of 64 bytes. -/
def injectDesc (n : Nat) : List Byte := bytesLe 32 (n * 2 ^ 64 + 2 ^ 255)
def leaseDesc : List Byte := bytesLe 32 (3 * 2 ^ 80 + 2 ^ 255)
def linkDesc : List Byte := bytesLe 32 (14 * 2 ^ 64 + 2 ^ 240 + 2 ^ 255)
def bufferDesc : List Byte := bytesLe 32 (256 * 2 ^ 64 + 2 ^ 255)
def copyDesc64 : List Byte := bytesLe 32 (64 * 2 ^ 128 + 2 ^ 255)

/-- A chain in progress of one descriptor. -/
def prog (d : List Byte) : ChainProg := { first := 0, descs := [d], hold := none, report := false }

/-- A frame of 64 octets in a backlog. -/
def waitFrame : Frame := frameOf 3 (List.replicate 64 0)

theorem test_meets_RingRegistersRun_1 :
    ∃ (s : State) (r : Fin 1024) (n : Fin 64), s.ringWritable r.val n.val = true :=
  ⟨devRing 1 (injectDesc 14) id, 1023, 0, by decide +kernel⟩

theorem test_meets_RingRegistersRun_2_1 :
    ∃ (s : State) (u : State) (r : Fin 1024) (n : Fin 64) (m : List (BitVec 64 × List Byte)), s.softStore m = u ∧ u.ringWritable r.val
    n.val = true :=
  ⟨devRing 1 (injectDesc 14) id, _, 1023, 0, [(64, injectDesc 14)], rfl, by decide +kernel⟩

theorem test_meets_RingRegistersRun_2_2 :
    ∃ (s : State) (u : State) (r : Fin 1024) (n : Fin 64) (m : List (BitVec 64 × List Byte)), s.softStore m = u ∧ u.ringWritable r.val
    n.val = false :=
  ⟨devRing 1 (injectDesc 14) id, _, 1023, 63, [], rfl, by decide +kernel⟩

theorem test_meets_RingRegistersRun_3 :
    ∃ (s : State) (r : Fin 1024) (n : Fin 64), s.ringWritable r.val n.val = true :=
  ⟨devRing 1 (injectDesc 14) id, 1023, 0, by decide +kernel⟩

theorem test_meets_RingRegistersRun_4 :
    ∃ (s : State) (r : Fin 1024) (n : Fin 64), s.ringWritable r.val n.val = false :=
  ⟨devRing 1 (injectDesc 14) id, 1023, 63, by decide +kernel⟩

theorem test_meets_RingWorkCompletes_1_1 :
    ∃ (s : State) (t : State) (r : Fin 1024), s.nextTurn = some r.val ∧ s.hasWork r.val = true ∧
    { s with host := { s.host with turn := r.val } } = t ∧ (t.dma r.val).typ = 1 ∧ (t.dma r.val).chain = none ∧ t.gather r.val (t.dma
    r.val).head [] 64 = .notOwned :=
  ⟨devRing 1 (List.replicate 32 0) id, _, 1023, by decide +kernel, by decide +kernel, rfl, by decide +kernel, by decide +kernel,
    notOwned_of (by decide +kernel)⟩

theorem test_meets_RingWorkCompletes_1_2 :
    ∃ (s : State) (t : State) (r : Fin 1024), s.nextTurn = some r.val ∧ s.hasWork r.val = true ∧
    { s with host := { s.host with turn := r.val } } = t ∧ (t.dma r.val).typ = 1 ∧ (t.dma r.val).chain = none ∧ t.gather r.val (t.dma
    r.val).head [] 64 = .tooLong :=
  ⟨devRing 1 linkDesc fun q => { q with log2 := 0, tail := 65 }, _, 1023, by decide +kernel, by decide +kernel, rfl,
    by decide +kernel, by decide +kernel, tooLong_of (by decide +kernel)⟩

theorem test_meets_RingWorkCompletes_1_3 :
    ∃ (s : State) (t : State) (r : Fin 1024) (ds : _), s.nextTurn = some r.val ∧ s.hasWork r.val = true ∧
    { s with host := { s.host with turn := r.val } } = t ∧ (t.dma r.val).typ = 1 ∧ (t.dma r.val).chain = none ∧ t.gather r.val (t.dma
    r.val).head [] 64 = .chain ds :=
  ⟨devRing 1 (injectDesc 14) id, _, 1023, [injectDesc 14], by decide +kernel, by decide +kernel, rfl, by decide +kernel,
    by decide +kernel, chain_of (by decide +kernel)⟩

theorem test_meets_RingWorkCompletes_1_4 :
    ∃ (s : State) (t : State) (r : Fin 1024) (ds : _), s.nextTurn = some r.val ∧ s.hasWork r.val = true ∧
    { s with host := { s.host with turn := r.val } } = t ∧ (t.dma r.val).typ = 1 ∧ (t.dma r.val).chain = none ∧ t.gather r.val (t.dma
    r.val).head [] 64 = .chain ds ∧ t.flt.safe = true :=
  ⟨{ devRing 1 (injectDesc 14) id with flt := { dev.flt with safe := true } }, _, 1023, [injectDesc 14], by decide +kernel,
    by decide +kernel, rfl, by decide +kernel, by decide +kernel, chain_of (by decide +kernel), by decide +kernel⟩

theorem test_meets_RingWorkCompletes_1_5 :
    ∃ (s : State) (t : State) (r : Fin 1024) (ds : _), s.nextTurn = some r.val ∧ s.hasWork r.val = true ∧
    { s with host := { s.host with turn := r.val } } = t ∧ (t.dma r.val).typ = 1 ∧ (t.dma r.val).chain = none ∧ t.gather r.val (t.dma
    r.val).head [] 64 = .chain ds ∧ t.flt.safe = false ∧ t.injectBad r.val ds = true :=
  ⟨devRing 1 (injectDesc 13) id, _, 1023, [injectDesc 13], by decide +kernel, by decide +kernel, rfl, by decide +kernel,
    by decide +kernel, chain_of (by decide +kernel), by decide +kernel, by decide +kernel⟩

theorem test_meets_RingWorkCompletes_1_6 :
    ∃ (s : State) (t : State) (r : Fin 1024) (ds : _), s.nextTurn = some r.val ∧ s.hasWork r.val = true ∧
    { s with host := { s.host with turn := r.val } } = t ∧ (t.dma r.val).typ = 1 ∧ (t.dma r.val).chain = none ∧ t.gather r.val (t.dma
    r.val).head [] 64 = .chain ds ∧ t.flt.safe = false ∧ t.injectBad r.val ds = false ∧ linkSpace (ds.headD []) = 3 :=
  ⟨devRing 1 leaseDesc id, _, 1023, [leaseDesc], by decide +kernel, by decide +kernel, rfl, by decide +kernel, by decide +kernel,
    chain_of (by decide +kernel), by decide +kernel, by decide +kernel, by decide +kernel⟩

theorem test_meets_RingWorkCompletes_1_7 :
    ∃ (s : State) (t : State) (r : Fin 1024) (ds : _) (x : List Nat × State) (u : State) (c : ChainProg), s.nextTurn = some r.val ∧
    s.hasWork r.val = true ∧ { s with host := { s.host with turn := r.val } } = t ∧ (t.dma r.val).typ = 1 ∧ (t.dma r.val).chain = none
    ∧ t.gather r.val (t.dma r.val).head [] 64 = .chain ds ∧ t.flt.safe = false ∧ t.injectBad r.val ds = false ∧ linkSpace (ds.headD [])
    ≠ 3 ∧ t.cab.paused = false ∧ ((wantsReport ds = true → t.reportRoom r.val = true)) ∧ t.mayAllocate (t.dma r.val).owner.val
    (cellsFor (chainLen ds)) = true ∧ t.allocate (t.dma r.val).owner.val (cellsFor (chainLen ds)) = x ∧ c =
    { first := (t.dma r.val).head, descs := ds, hold := x.1.head?, report := wantsReport ds } ∧ (x.2.modDma r.val fun d =>
    { d with chain := some c }).reserveReport r.val (wantsReport ds) = u ∧ chainLen ds ≤ 4096 :=
  ⟨devRing 1 (injectDesc 14) id, _, 1023, [injectDesc 14], _, _, _, by decide +kernel, by decide +kernel, rfl, by decide +kernel,
    by decide +kernel, chain_of (by decide +kernel), by decide +kernel, by decide +kernel, by decide +kernel, by decide +kernel,
    by decide +kernel, by decide +kernel, rfl, rfl, rfl, by decide +kernel⟩

theorem test_meets_RingWorkCompletes_1_8 :
    ∃ (s : State) (t : State) (r : Fin 1024) (ds : _) (x : List Nat × State) (u : State) (c : ChainProg), s.nextTurn = some r.val ∧
    s.hasWork r.val = true ∧ { s with host := { s.host with turn := r.val } } = t ∧ (t.dma r.val).typ = 1 ∧ (t.dma r.val).chain = none
    ∧ t.gather r.val (t.dma r.val).head [] 64 = .chain ds ∧ t.flt.safe = false ∧ t.injectBad r.val ds = false ∧ linkSpace (ds.headD [])
    ≠ 3 ∧ t.cab.paused = false ∧ ((wantsReport ds = true → t.reportRoom r.val = true)) ∧ t.mayAllocate (t.dma r.val).owner.val
    (cellsFor (chainLen ds)) = true ∧ t.allocate (t.dma r.val).owner.val (cellsFor (chainLen ds)) = x ∧ c =
    { first := (t.dma r.val).head, descs := ds, hold := x.1.head?, report := wantsReport ds } ∧ (x.2.modDma r.val fun d =>
    { d with chain := some c }).reserveReport r.val (wantsReport ds) = u ∧ chainLen ds ≤ 4096 ∧ ds.any (fun d => linkSpace d == 2) =
    false :=
  ⟨devRing 1 (injectDesc 4096) id, _, 1023, [injectDesc 4096], _, _, _, by decide +kernel, by decide +kernel, rfl, by decide +kernel,
    by decide +kernel, chain_of (by decide +kernel), by decide +kernel, by decide +kernel, by decide +kernel, by decide +kernel,
    by decide +kernel, by decide +kernel, rfl, rfl, rfl, by decide +kernel, by decide +kernel⟩

theorem test_meets_RingWorkCompletes_2_1 :
    ∃ (s : State) (t : State) (r : Fin 1024) (c : ChainProg), s.nextTurn = some r.val ∧ s.hasWork r.val = true ∧
    { s with host := { s.host with turn := r.val } } = t ∧ (t.dma r.val).chain = some c ∧ (t.dma r.val).typ = 1 ∧ t.flt.safe = true :=
  ⟨{ devRing 1 (injectDesc 14) (fun q => { q with chain := some (prog (injectDesc 14)) }) with flt := { dev.flt with safe := true } },
    _, 1023, prog (injectDesc 14), by decide +kernel, by decide +kernel, rfl, by decide +kernel, by decide +kernel, by decide +kernel⟩

theorem test_meets_RingWorkCompletes_2_2 :
    ∃ (s : State) (t : State) (r : Fin 1024) (c : ChainProg), s.nextTurn = some r.val ∧ s.hasWork r.val = true ∧
    { s with host := { s.host with turn := r.val } } = t ∧ (t.dma r.val).chain = some c ∧ (t.dma r.val).typ = 1 ∧ t.flt.safe = false ∧
    t.cab.paused = false ∧ chainLen c.descs ≤ c.moved + 4096 :=
  ⟨devRing 1 (injectDesc 14) fun q => { q with chain := some (prog (injectDesc 14)) }, _, 1023, prog (injectDesc 14),
    by decide +kernel, by decide +kernel, rfl, by decide +kernel, by decide +kernel, by decide +kernel, by decide +kernel,
    by decide +kernel⟩

theorem test_meets_RingWorkCompletes_2_3 :
    ∃ (s : State) (t : State) (r : Fin 1024) (c : ChainProg) (f : _) (rest : _), s.nextTurn = some r.val ∧ s.hasWork r.val = true ∧
    { s with host := { s.host with turn := r.val } } = t ∧ (t.dma r.val).chain = some c ∧ (t.dma r.val).typ = 2 ∧ (t.dma r.val).backlog
    = f :: rest ∧ (t.readFrame f.id f.data).length ≤ c.moved + 4096 :=
  ⟨devRing 2 bufferDesc fun q => { q with chain := some (prog bufferDesc), backlog := [waitFrame] }, _, 1023, prog bufferDesc,
    waitFrame, [], by decide +kernel, by decide +kernel, rfl, by decide +kernel, by decide +kernel, by decide +kernel,
    by decide +kernel⟩

theorem test_meets_RingWorkCompletes_2_4 :
    ∃ (s : State) (t : State) (r : Fin 1024) (c : ChainProg) (d : _), s.nextTurn = some r.val ∧ s.hasWork r.val = true ∧
    { s with host := { s.host with turn := r.val } } = t ∧ (t.dma r.val).chain = some c ∧ (t.dma r.val).typ = 4 ∧ t.cab.paused = false
    ∧ c.descs = [d] ∧ (copyDesc d).len ≤ c.moved + 4096 :=
  ⟨devRing 4 copyDesc64 fun q => { q with chain := some (prog copyDesc64) }, _, 1023, prog copyDesc64, copyDesc64, by decide +kernel,
    by decide +kernel, rfl, by decide +kernel, by decide +kernel, by decide +kernel, by decide +kernel, by decide +kernel⟩

theorem test_meets_RingWorkCompletes_3_1 :
    ∃ (s : State) (t : State) (r : Fin 1024) (f : Frame) (rest : List Frame), s.nextTurn = some r.val ∧ s.hasWork r.val = true ∧
    { s with host := { s.host with turn := r.val } } = t ∧ (t.dma r.val).chain = none ∧ (t.dma r.val).backlog = f :: rest ∧ (t.dma
    r.val).typ = 2 :=
  ⟨devRing 2 bufferDesc fun q => { q with backlog := [waitFrame] }, _, 1023, waitFrame, [], by decide +kernel, by decide +kernel,
    rfl, by decide +kernel, by decide +kernel, by decide +kernel⟩

theorem test_meets_RingWorkCompletes_3_2 :
    ∃ (s : State) (t : State) (r : Fin 1024) (f : Frame) (rest : List Frame), s.nextTurn = some r.val ∧ s.hasWork r.val = true ∧
    { s with host := { s.host with turn := r.val } } = t ∧ (t.dma r.val).chain = none ∧ (t.dma r.val).backlog = f :: rest ∧ (t.dma
    r.val).typ = 3 :=
  ⟨devRing 3 bufferDesc fun q => { q with backlog := [waitFrame] }, _, 1023, waitFrame, [], by decide +kernel, by decide +kernel,
    rfl, by decide +kernel, by decide +kernel, by decide +kernel⟩

theorem test_meets_RingWorkCompletes_3_3 :
    ∃ (s : State) (t : State) (u : State) (r : Fin 1024) (f : Frame) (rest : List Frame) (data : List Byte) (ds : List (List Byte)),
    s.nextTurn = some r.val ∧ s.hasWork r.val = true ∧ { s with host := { s.host with turn := r.val } } = t ∧ (t.dma r.val).chain =
    none ∧ (t.dma r.val).backlog = f :: rest ∧ (t.modDma r.val fun d =>
    { d with chain := some { first := (t.dma r.val).head, descs := ds, hold := none, report := false } }) = u ∧ u.readFrame f.id f.data
    = data ∧ (t.dma r.val).typ = 2 ∧ t.gatherBufs r.val (t.dma r.val).head f.data.length [] 64 = .chain ds ∧ data.length ≤ 4096 :=
  ⟨devRing 2 bufferDesc fun q => { q with backlog := [waitFrame] }, _, _, 1023, waitFrame, [], _, [bufferDesc], by decide +kernel,
    by decide +kernel, rfl, by decide +kernel, by decide +kernel, rfl, rfl, by decide +kernel, chain_of (by decide +kernel),
    by decide +kernel⟩

theorem test_meets_RingWorkCompletes_3_4 :
    ∃ (s : State) (t : State) (u : State) (r : Fin 1024) (f : Frame) (rest : List Frame) (data : List Byte) (ds : List (List Byte)),
    s.nextTurn = some r.val ∧ s.hasWork r.val = true ∧ { s with host := { s.host with turn := r.val } } = t ∧ (t.dma r.val).chain =
    none ∧ (t.dma r.val).backlog = f :: rest ∧ (t.modDma r.val fun d =>
    { d with chain := some { first := (t.dma r.val).head, descs := ds, hold := none, report := false } }) = u ∧ u.readFrame f.id f.data
    = data ∧ (t.dma r.val).typ = 3 ∧ t.gatherBufs r.val (t.dma r.val).head 1 [] 64 = .chain ds :=
  ⟨devRing 3 bufferDesc fun q => { q with backlog := [waitFrame] }, _, _, 1023, waitFrame, [], _, [bufferDesc], by decide +kernel,
    by decide +kernel, rfl, by decide +kernel, by decide +kernel, rfl, rfl, by decide +kernel, chain_of (by decide +kernel)⟩

theorem test_meets_RingWorkCompletes_4_1 :
    ∃ (s : State) (t : State) (r : Fin 1024) (ds : List (List Byte)), s.nextTurn = some r.val ∧ s.hasWork r.val = true ∧
    { s with host := { s.host with turn := r.val } } = t ∧ (t.dma r.val).chain = none ∧ (t.dma r.val).typ = 4 ∧ t.gather r.val (t.dma
    r.val).head [] 64 = .chain ds ∧ ds.any (fun d => t.copyBad r.val d) = true :=
  ⟨devRing 4 (injectDesc 0) id, _, 1023, [injectDesc 0], by decide +kernel, by decide +kernel, rfl, by decide +kernel,
    by decide +kernel, chain_of (by decide +kernel), by decide +kernel⟩

theorem test_meets_RingWorkCompletes_4_2 :
    ∃ (s : State) (t : State) (r : Fin 1024) (ds : List (List Byte)) (d : List Byte) (u : State) (x : State × Bool) (c : ChainProg),
    s.nextTurn = some r.val ∧ s.hasWork r.val = true ∧ { s with host := { s.host with turn := r.val } } = t ∧ (t.dma r.val).chain =
    none ∧ (t.dma r.val).typ = 4 ∧ t.gather r.val (t.dma r.val).head [] 64 = .chain ds ∧ ds = [d] ∧ t.copyBad r.val d = false ∧
    t.cab.paused = false ∧ (copyDesc d).len ≤ 4096 ∧ c = { first := (t.dma r.val).head, descs := ds, hold := none, report := false } ∧
    (t.modDma r.val fun y => { y with chain := some c }) = u ∧ u.copyBytes (t.dma r.val).owner.val (copyDesc d) 0 = x :=
  ⟨devRing 4 copyDesc64 id, _, 1023, [copyDesc64], copyDesc64, _, _, _, by decide +kernel, by decide +kernel, rfl, by decide +kernel,
    by decide +kernel, chain_of (by decide +kernel), by decide +kernel, by decide +kernel, by decide +kernel, by decide +kernel, rfl,
    rfl, rfl⟩

theorem test_meets_RingWorkCompletes_5 :
    ∃ (s : State) (r : Fin 1024), s.hasWork r.val = false :=
  ⟨dev, 1023, by decide +kernel⟩

/-- A NOTICE ring with room for 32 bytes. -/
def noteRing : DmaRing := { DmaRing.init with enable := true, typ := 5, circLog2 := 5 }
def devNote (d : DmaRing) : State := devHost fun h => { h with frozen := false, notices := [[1]], rings := [(1023, d)] }

/-- A read request with tag 5, and the device that has it out. -/
def readReq (p : ReadFor) : ReadReq := { tag := 5, purpose := p, fn := 0, issued := 0, tct := 0, fenced := false, relaxed := false }
def devRead (q : ReadReq) : State := devHost fun h => { h with reads := [q] }

theorem test_meets_ReadsAndWaitsEnd_1_1 :
    ∃ (s : State) (u : State) (x : List Byte) (rest : List (List Byte)), s.host.notices = x :: rest ∧ s.host.frozen = false ∧
    { s with host := { s.host with notices := rest } } = u ∧ s.host.rings.find? (fun y => y.2.enable && y.2.typ == 5 && !y.2.halted &&
    !y.2.resetBusy) = none :=
  ⟨devHost fun h => { h with frozen := false, notices := [[1]] }, _, [1], [], by decide +kernel, by decide +kernel, rfl,
    by decide +kernel⟩

theorem test_meets_ReadsAndWaitsEnd_1_2 :
    ∃ (s : State) (u : State) (x : List Byte) (rest : List (List Byte)) (r : _) (d : _), s.host.notices = x :: rest ∧ s.host.frozen =
    false ∧ { s with host := { s.host with notices := rest } } = u ∧ s.host.rings.find? (fun y => y.2.enable && y.2.typ == 5 &&
    !y.2.halted && !y.2.resetBusy) = some (r, d) ∧ d.rpos.toNat + 2 ^ d.circLog2.toNat < d.wpos.toNat + x.length :=
  ⟨devNote { noteRing with wpos := 32 }, _, [1], [], 1023, { noteRing with wpos := 32 }, by decide +kernel, by decide +kernel, rfl,
    by decide +kernel, by decide +kernel⟩

theorem test_meets_ReadsAndWaitsEnd_1_3 :
    ∃ (s : State) (u : State) (x : List Byte) (rest : List (List Byte)) (r : _) (d : _) (v : State), s.host.notices = x :: rest ∧
    s.host.frozen = false ∧ { s with host := { s.host with notices := rest } } = u ∧ s.host.rings.find? (fun y => y.2.enable && y.2.typ
    == 5 && !y.2.halted && !y.2.resetBusy) = some (r, d) ∧ d.wpos.toNat + x.length ≤ d.rpos.toNat + 2 ^ d.circLog2.toNat ∧
    ((u.hostWrite d.owner.val (d.circBase.toNat / 4096 * 4096 + d.wpos.toNat % 2 ^ d.circLog2.toNat) x).modDma r fun d =>
    { d with wpos := d.wpos + BitVec.ofNat 64 x.length }) = v ∧ ((∀ t, d.lastEvent = some t → t + 1000000 ≤ v.nowPs)) :=
  ⟨devNote { noteRing with wpos := 31 }, _, [1], [], 1023, { noteRing with wpos := 31 }, _, by decide +kernel, by decide +kernel,
    rfl, by decide +kernel, by decide +kernel, rfl, fun t h => nomatch (show (none : Option Nat) = some t from h)⟩

theorem test_meets_ReadsAndWaitsEnd_1_4 :
    ∃ (s : State) (u : State) (x : List Byte) (rest : List (List Byte)) (r : _) (d : _) (v : State) (t : _), s.host.notices = x :: rest
    ∧ s.host.frozen = false ∧ { s with host := { s.host with notices := rest } } = u ∧ s.host.rings.find? (fun y => y.2.enable &&
    y.2.typ == 5 && !y.2.halted && !y.2.resetBusy) = some (r, d) ∧ d.wpos.toNat + x.length ≤ d.rpos.toNat + 2 ^ d.circLog2.toNat ∧
    ((u.hostWrite d.owner.val (d.circBase.toNat / 4096 * 4096 + d.wpos.toNat % 2 ^ d.circLog2.toNat) x).modDma r fun d =>
    { d with wpos := d.wpos + BitVec.ofNat 64 x.length }) = v ∧ d.lastEvent = some t ∧ v.nowPs < t + 1000000 :=
  ⟨devNote { noteRing with lastEvent := some 0 }, _, [1], [], 1023, { noteRing with lastEvent := some 0 }, _, 0, by decide +kernel,
    by decide +kernel, rfl, by decide +kernel, by decide +kernel, rfl, by decide +kernel, by decide +kernel⟩

theorem test_meets_ReadsAndWaitsEnd_2_1 :
    ∃ (s : State) (r : Fin 1024) (q : _), s.host.reads.find? (fun q => q.purpose == .barrier r.val && !q.fenced) = some q :=
  ⟨devRead (readReq (.barrier 1023)), 1023, readReq (.barrier 1023), by decide +kernel⟩

theorem test_meets_ReadsAndWaitsEnd_2_2 :
    ∃ (s : State) (r : Fin 1024), s.host.reads.find? (fun q => q.purpose == .barrier r.val && !q.fenced) = none :=
  ⟨dev, 1023, by decide +kernel⟩

theorem test_meets_ReadsAndWaitsEnd_3_1 :
    ∃ (s : State) (t : BitVec 14), s.host.reads.find? (fun q => q.tag == t) = none :=
  ⟨dev, 5, by decide +kernel⟩

theorem test_meets_ReadsAndWaitsEnd_3_2 :
    ∃ (s : State) (t : BitVec 14) (rd : HostRead) (q : _) (u : State), s.host.reads.find? (fun q => q.tag == t) = some q ∧ rd ≠
    .outstanding ∧ q.fenced = true ∧ s.endRead t = u :=
  ⟨devRead { readReq (.ring 1023) with fenced := true }, 5, .data, { readReq (.ring 1023) with fenced := true }, _,
    by decide +kernel, by decide +kernel, by decide +kernel, rfl⟩

theorem test_meets_ReadsAndWaitsEnd_3_3 :
    ∃ (s : State) (t : BitVec 14) (rd : HostRead) (q : _) (r : _), s.host.reads.find? (fun q => q.tag == t) = some q ∧ rd ≠
    .outstanding ∧ q.fenced = false ∧ q.purpose = .ring r :=
  ⟨devRead (readReq (.ring 1023)), 5, .error, readReq (.ring 1023), 1023, by decide +kernel, by decide +kernel, by decide +kernel,
    by decide +kernel⟩

theorem test_meets_ReadsAndWaitsEnd_3_4 :
    ∃ (s : State) (t : BitVec 14) (rd : HostRead) (q : _) (r : _), s.host.reads.find? (fun q => q.tag == t) = some q ∧ rd ≠
    .outstanding ∧ q.fenced = false ∧ q.purpose = .barrier r :=
  ⟨devRead (readReq (.barrier 1023)), 5, .data, readReq (.barrier 1023), 1023, by decide +kernel, by decide +kernel,
    by decide +kernel, by decide +kernel⟩

theorem test_meets_ReadsAndWaitsEnd_4_1 :
    ∃ (s : State) (r : Fin 1024) (need : Nat) (refused : Bool),
    (need = (match s.gather r.val (s.dma r.val).head [] 64 with | .chain ds => cellsFor (chainLen ds) | _ => 0)) ∧ refused = ((s.dma
    r.val).waitQuota && !s.mayAllocate (s.dma r.val).owner.val need) ∧ s.host.frozen = false ∧ (s.inst (s.dma r.val).owner.val).st =
    .active :=
  ⟨devRing 1 (injectDesc 14) fun q => { q with waitCab := true }, 1023, _, _, rfl, rfl, by decide +kernel, by decide +kernel⟩

theorem test_meets_ReadsAndWaitsEnd_4_2 :
    ∃ (s : State) (r : Fin 1024) (need : Nat) (refused : Bool),
    (need = (match s.gather r.val (s.dma r.val).head [] 64 with | .chain ds => cellsFor (chainLen ds) | _ => 0)) ∧ refused = ((s.dma
    r.val).waitQuota && !s.mayAllocate (s.dma r.val).owner.val need) ∧ (s.host.frozen = true ∨ (s.inst (s.dma r.val).owner.val).st ≠
    .active) :=
  ⟨devHost fun h => { h with frozen := true }, 1023, _, _, rfl, rfl, .inl (by decide +kernel)⟩

theorem test_meets_ReadsAndWaitsEnd_5_1 :
    ∃ (s : State) (t : BitVec 14), s.host.reads.find? (fun q => q.tag == t) = none :=
  ⟨dev, 5, by decide +kernel⟩

theorem test_meets_ReadsAndWaitsEnd_5_2 :
    ∃ (s : State) (t : BitVec 14) (q : _), s.host.reads.find? (fun q => q.tag == t) = some q ∧ s.due (q.issued + q.tct) = false :=
  ⟨devRead { readReq (.ring 1023) with tct := 409600 }, 5, { readReq (.ring 1023) with tct := 409600 }, by decide +kernel,
    by decide +kernel⟩

theorem test_meets_ReadsAndWaitsEnd_5_3 :
    ∃ (s : State) (t : BitVec 14) (q : ReadReq) (u : State), s.host.reads.find? (fun q => q.tag == t) = some q ∧ s.due (q.issued +
    q.tct) = true ∧ (s.reach (q.issued + q.tct)).endRead t = u :=
  ⟨devRead (readReq (.ring 1023)), 5, readReq (.ring 1023), _, by decide +kernel, by decide +kernel, rfl⟩

theorem test_meets_ReadsAndWaitsEnd_6_1 :
    ∃ (s : State) (t : BitVec 14), s.host.quarantine.find? (fun q => q.1 == t) = none :=
  ⟨dev, 5, by decide +kernel⟩

theorem test_meets_ReadsAndWaitsEnd_6_2 :
    ∃ (s : State) (t : BitVec 14) (q : _), s.host.quarantine.find? (fun q => q.1 == t) = some q :=
  ⟨devHost fun h => { h with quarantine := [(5, 0, 0)] }, 5, (5, 0, 0), by decide +kernel⟩

theorem test_meets_ReadsAndWaitsEnd_6_3 :
    ∃ (s : State) (t : BitVec 14) (q : _), s.host.quarantine.find? (fun q => q.1 == t) = some q ∧ s.due q.2.1 = false :=
  ⟨devHost fun h => { h with quarantine := [(5, 409600, 0)] }, 5, (5, 409600, 0), by decide +kernel, by decide +kernel⟩

theorem test_meets_ReadsAndWaitsEnd_6_4 :
    ∃ (s : State) (t : BitVec 14) (q : _) (u : State), s.host.quarantine.find? (fun q => q.1 == t) = some q ∧ s.due q.2.1 = true ∧
    s.reach q.2.1 = u :=
  ⟨devHost fun h => { h with quarantine := [(5, 409599, 0)] }, 5, (5, 409599, 0), _, by decide +kernel, by decide +kernel, rfl⟩

/-- A broadcast frame, and a MAC control frame, each of 64 octets with its frame check sequence. -/
def bcFrame : List Byte := List.replicate 6 0xFF ++ List.replicate 6 0 ++ [0x88, 0xB5] ++ List.replicate 46 0 ++ bytesLe 4 199518026
def mcFrame : List Byte := List.replicate 12 0 ++ [0x88, 0x08] ++ List.replicate 46 0 ++ bytesLe 4 381859985

/-- The device whose port 504 is UP with a configuration. -/
def devUp (cfg : Image) : State := devPort 504 fun q => { q with st := .up, cfg := cfg }

/-- A frame of the host's ring 7. -/
def hostMeta : InjectMeta :=
  { ring := 7, ptpOp := 0, ptpOffset := 0, report := false, refTime := 0, desc := 0, requester := 0 }
def hostFrame : Frame := { held with source := .inject, inj := some hostMeta }

/-- A slot without an upset. -/
def calm : Upsets :=
  { parity := false, intake1 := false, intake2 := false, station := false, prefixData := false, session := false, rule := false,
    template := false, automata := false, stationRow := false, prefixRow := false, ruleRow := false, corrected := 0 }

/-- The device whose image gives pipeline 0's first slot a type, with frames in flight. -/
def devSlot (t : Nat) (f : FlowState → FlowState) : State :=
  { devFlow f with tt := { dev.tt with active := some (image [(3, bytesLe 4 t)]) } }

/-- A state that is safe, one whose switch round withholds pipeline 0's first slot, and one before port 511's switch. -/
def safely (s : State) : State := { s with flt := { s.flt with safe := true } }
def withholding (t : Nat) (s : State) : State :=
  { s with tt := { s.tt with active := some (image [(3, bytesLe 4 t), (7, List.replicate 64 0 ++ [1])]), switchRound := some 0 } }
def switching (s : State) : State :=
  { s with tt := { s.tt with
      active := some (image [(3, bytesLe 4 (1 + 511 * 8))]), old := some (image [(3, bytesLe 4 (1 + 511 * 8))])
      unswitched := [511], inWindow := [511], switchRound := some 1 } }

theorem test_meets_FramesEnterThePasses_1_1 :
    ∃ (s : State) (u : State) (lp : Fin 512) (a : Fin 3277), s.at_ a.val = u ∧ u.isUp lp.val = false :=
  ⟨dev, _, 504, 0, rfl, by decide +kernel⟩

theorem test_meets_FramesEnterThePasses_1_2 :
    ∃ (s : State) (u : State) (lp : Fin 512) (a : Fin 3277), s.at_ a.val = u ∧ u.isUp lp.val = true ∧ u.flt.safe = true :=
  ⟨safely (devUp 0), _, 504, 0, rfl, by decide +kernel, by decide +kernel⟩

theorem test_meets_FramesEnterThePasses_1_3 :
    ∃ (s : State) (u : State) (lp : Fin 512) (w : List Byte) (a : Fin 3277), s.at_ a.val = u ∧ u.isUp lp.val = true ∧ u.flt.safe =
    false ∧ w.length < 64 :=
  ⟨devUp 0, _, 504, [], 0, rfl, by decide +kernel, by decide +kernel, by decide +kernel⟩

theorem test_meets_FramesEnterThePasses_1_4 :
    ∃ (s : State) (u : State) (lp : Fin 512) (w : List Byte) (a : Fin 3277) (long : Bool) (len : Nat) (data : List Byte) (fcs : BitVec
    32) (c : FcsCheck), s.at_ a.val = u ∧ u.isUp lp.val = true ∧ u.flt.safe = false ∧ 64 ≤ w.length ∧ long = decide (u.maxFrame lp.val
    < w.length) ∧ len = (if long then u.maxFrame lp.val else w.length) ∧ data = w.take (len - 4) ∧ fcs = BitVec.ofNat 32 (le ((w.drop
    (len - 4)).take 4)) ∧ c = { tooLong := long, ok := !long && fcs == crc32 data, stomped := !long && fcs == ~~~ crc32 data } ∧ c.ok =
    true ∧ u.filtered lp.val data = true :=
  ⟨devUp (64 * 2 ^ 16 + 2 ^ 42), _, 504, bcFrame, 0, _, _, _, _, _, rfl, by decide +kernel, by decide +kernel, by decide +kernel,
    rfl, rfl, rfl, rfl, rfl, by decide +kernel, by decide +kernel⟩

theorem test_meets_FramesEnterThePasses_1_5 :
    ∃ (s : State) (u : State) (lp : Fin 512) (w : List Byte) (a : Fin 3277) (long : Bool) (len : Nat) (data : List Byte) (fcs : BitVec
    32) (c : FcsCheck), s.at_ a.val = u ∧ u.isUp lp.val = true ∧ u.flt.safe = false ∧ 64 ≤ w.length ∧ long = decide (u.maxFrame lp.val
    < w.length) ∧ len = (if long then u.maxFrame lp.val else w.length) ∧ data = w.take (len - 4) ∧ fcs = BitVec.ofNat 32 (le ((w.drop
    (len - 4)).take 4)) ∧ c = { tooLong := long, ok := !long && fcs == crc32 data, stomped := !long && fcs == ~~~ crc32 data } ∧ c.ok =
    true ∧ u.filtered lp.val data = false ∧ beAt data 12 2 = 0x8808 :=
  ⟨devUp (64 * 2 ^ 16), _, 504, mcFrame, 0, _, _, _, _, _, rfl, by decide +kernel, by decide +kernel, by decide +kernel, rfl, rfl,
    rfl, rfl, rfl, by decide +kernel, by decide +kernel, by decide +kernel⟩

theorem test_meets_FramesEnterThePasses_1_6 :
    ∃ (s : State) (u : State) (lp : Fin 512) (w : List Byte) (a : Fin 3277) (long : Bool) (len : Nat) (data : List Byte) (fcs : BitVec
    32) (c : FcsCheck), s.at_ a.val = u ∧ u.isUp lp.val = true ∧ u.flt.safe = false ∧ 64 ≤ w.length ∧ long = decide (u.maxFrame lp.val
    < w.length) ∧ len = (if long then u.maxFrame lp.val else w.length) ∧ data = w.take (len - 4) ∧ fcs = BitVec.ofNat 32 (le ((w.drop
    (len - 4)).take 4)) ∧ c = { tooLong := long, ok := !long && fcs == crc32 data, stomped := !long && fcs == ~~~ crc32 data } ∧ c.ok =
    true ∧ u.filtered lp.val data = false ∧ beAt data 12 2 ≠ 0x8808 :=
  ⟨devUp (64 * 2 ^ 16), _, 504, cp1Frame, 3276, _, _, _, _, _, rfl, by decide +kernel, by decide +kernel, by decide +kernel, rfl,
    rfl, rfl, rfl, rfl, by decide +kernel, by decide +kernel, by decide +kernel⟩

theorem test_meets_FramesEnterThePasses_1_7 :
    ∃ (s : State) (u : State) (lp : Fin 512) (w : List Byte) (a : Fin 3277) (long : Bool) (len : Nat) (data : List Byte) (fcs : BitVec
    32) (c : FcsCheck), s.at_ a.val = u ∧ u.isUp lp.val = true ∧ u.flt.safe = false ∧ 64 ≤ w.length ∧ long = decide (u.maxFrame lp.val
    < w.length) ∧ len = (if long then u.maxFrame lp.val else w.length) ∧ data = w.take (len - 4) ∧ fcs = BitVec.ofNat 32 (le ((w.drop
    (len - 4)).take 4)) ∧ c = { tooLong := long, ok := !long && fcs == crc32 data, stomped := !long && fcs == ~~~ crc32 data } ∧ c.ok =
    false ∧ ((len ≤ 256 ∨ u.filtered lp.val data = true ∨ beAt data 12 2 = 0x8808)) :=
  ⟨devUp (64 * 2 ^ 16), _, 504, List.replicate 64 0, 0, _, _, _, _, _, rfl, by decide +kernel, by decide +kernel, by decide +kernel,
    rfl, rfl, rfl, rfl, rfl, by decide +kernel, .inl (by decide +kernel)⟩

theorem test_meets_FramesEnterThePasses_1_8 :
    ∃ (s : State) (u : State) (lp : Fin 512) (w : List Byte) (a : Fin 3277) (long : Bool) (len : Nat) (data : List Byte) (fcs : BitVec
    32) (c : FcsCheck), s.at_ a.val = u ∧ u.isUp lp.val = true ∧ u.flt.safe = false ∧ 64 ≤ w.length ∧ long = decide (u.maxFrame lp.val
    < w.length) ∧ len = (if long then u.maxFrame lp.val else w.length) ∧ data = w.take (len - 4) ∧ fcs = BitVec.ofNat 32 (le ((w.drop
    (len - 4)).take 4)) ∧ c = { tooLong := long, ok := !long && fcs == crc32 data, stomped := !long && fcs == ~~~ crc32 data } ∧ c.ok =
    false ∧ 256 < len ∧ u.filtered lp.val data = false ∧ beAt data 12 2 ≠ 0x8808 :=
  ⟨devUp (257 * 2 ^ 16), _, 504, List.replicate 258 0, 0, _, _, _, _, _, rfl, by decide +kernel, by decide +kernel,
    by decide +kernel, rfl, rfl, rfl, rfl, rfl, by decide +kernel, by decide +kernel, by decide +kernel, by decide +kernel⟩

theorem test_meets_FramesEnterThePasses_2_1 :
    ∃ (s : State) (lp : Fin 512) (cycle : Fin 1024) (f : Frame) (rest : List Frame) (u : State), takeFirst (fun f => f.lp == lp)
    s.flow.rx = (some f, rest) ∧ s.due (s.crossing f (s.absCycle cycle.val) * 400) = true ∧ s.reach (s.crossing f (s.absCycle
    cycle.val) * 400) = u :=
  ⟨devFlow fun w => { w with rx := [held] }, 511, 0, held, _, _, fst_of (by decide +kernel), by decide +kernel, rfl⟩

theorem test_meets_FramesEnterThePasses_2_2 :
    ∃ (s : State) (lp : Fin 512) (cycle : Fin 1024) (f : Frame) (rest : List Frame), takeFirst (fun f => f.lp == lp) s.flow.rx = (some
    f, rest) ∧ s.due (s.crossing f (s.absCycle cycle.val) * 400) = false :=
  ⟨devFlow fun w => { w with rx := [{ held with rxAt := 409600 }] }, 511, 0, { held with rxAt := 409600 }, _, fst_of
    (by decide +kernel), by decide +kernel⟩

theorem test_meets_FramesEnterThePasses_3_1 :
    ∃ (s : State) (u : State) (v : State) (y : State) (p : Fin 16) (slot : Fin 2048) (img : List Byte) (lp : _) (o : _), s.at_
    (cycleAt8 (slot.val / 2)) = u ∧ u.tt.active = some img ∧ u.beginSlot p.val slot.val = some v ∧ v.settlePasses p.val
    ((u.tt.round.toNat * 2048 + slot.val) / 2) = y ∧ y.tt = u.tt ∧ u.oldOwner p.val slot.val = some lp ∧ u.tt.old = some o :=
  ⟨switching dev, _, _, _, 0, 0, _, _, _, rfl, (Option.some_get (by decide +kernel)).symm, (Option.some_get
    (by decide +kernel)).symm, rfl, by decide +kernel, (Option.some_get (by decide +kernel)).symm, (Option.some_get
    (by decide +kernel)).symm⟩

theorem test_meets_FramesEnterThePasses_3_2 :
    ∃ (s : State) (u : State) (v : State) (y : State) (w : State) (p : Fin 16) (slot : Fin 2048) (img : List Byte) (lp : _), s.at_
    (cycleAt8 (slot.val / 2)) = u ∧ u.tt.active = some img ∧ u.beginSlot p.val slot.val = some v ∧ v.settlePasses p.val
    ((u.tt.round.toNat * 2048 + slot.val) / 2) = y ∧ y.tt = u.tt ∧ u.oldOwner p.val slot.val = none ∧ fld (slotEntry img p.val
    slot.val) 0 3 = 1 ∧ fld (slotEntry img p.val slot.val) 3 9 = lp ∧ y.passSwitch lp (u.tt.round.toNat * 2048 + slot.val) = w ∧
    w.flt.safe = true :=
  ⟨safely (devSlot 1 id), _, _, _, _, 0, 0, _, _, rfl, (Option.some_get (by decide +kernel)).symm, (Option.some_get
    (by decide +kernel)).symm, rfl, by decide +kernel, by decide +kernel, by decide +kernel, rfl, rfl, by decide +kernel⟩

theorem test_meets_FramesEnterThePasses_3_3 :
    ∃ (s : State) (u : State) (v : State) (y : State) (w : State) (p : Fin 16) (slot : Fin 2048) (img : List Byte) (lp : _), s.at_
    (cycleAt8 (slot.val / 2)) = u ∧ u.tt.active = some img ∧ u.beginSlot p.val slot.val = some v ∧ v.settlePasses p.val
    ((u.tt.round.toNat * 2048 + slot.val) / 2) = y ∧ y.tt = u.tt ∧ u.oldOwner p.val slot.val = none ∧ fld (slotEntry img p.val
    slot.val) 0 3 = 1 ∧ fld (slotEntry img p.val slot.val) 3 9 = lp ∧ y.passSwitch lp (u.tt.round.toNat * 2048 + slot.val) = w ∧
    w.flt.safe = false ∧ ((w.tt.unswitched.any (·.val == lp) = true ∨ w.withheld p.val slot.val = true)) :=
  ⟨withholding 1 dev, _, _, _, _, 0, 0, _, _, rfl, (Option.some_get (by decide +kernel)).symm, (Option.some_get
    (by decide +kernel)).symm, rfl, by decide +kernel, by decide +kernel, by decide +kernel, rfl, rfl, by decide +kernel, .inr
    (by decide +kernel)⟩

theorem test_meets_FramesEnterThePasses_3_4 :
    ∃ (s : State) (u : State) (v : State) (y : State) (w : State) (p : Fin 16) (slot : Fin 2048) (img : List Byte) (lp : _), s.at_
    (cycleAt8 (slot.val / 2)) = u ∧ u.tt.active = some img ∧ u.beginSlot p.val slot.val = some v ∧ v.settlePasses p.val
    ((u.tt.round.toNat * 2048 + slot.val) / 2) = y ∧ y.tt = u.tt ∧ u.oldOwner p.val slot.val = none ∧ fld (slotEntry img p.val
    slot.val) 0 3 = 1 ∧ fld (slotEntry img p.val slot.val) 3 9 = lp ∧ y.passSwitch lp (u.tt.round.toNat * 2048 + slot.val) = w ∧
    w.flt.safe = false ∧ w.tt.unswitched.any (·.val == lp) = false ∧ w.withheld p.val slot.val = false :=
  ⟨devSlot 1 id, _, _, _, _, 0, 0, _, _, rfl, (Option.some_get (by decide +kernel)).symm, (Option.some_get (by decide +kernel)).symm,
    rfl, by decide +kernel, by decide +kernel, by decide +kernel, rfl, rfl, by decide +kernel, by decide +kernel, by decide +kernel⟩

theorem test_meets_FramesEnterThePasses_4_1 :
    ∃ (s : State) (v : State) (p : Fin 16) (slot : Fin 2048) (img : List Byte) (e : Nat) (rest : _), (s.at_ (cycleAt8 (slot.val /
    2))).ownSlot p.val slot.val [2] = some (v, img, e) ∧ takeFirst (fun x => x.1 == p.val) v.flow.recirc = (none, rest) :=
  ⟨devSlot 2 id, _, 0, 0, _, _, _, got3 (by decide +kernel), fst_of (by decide +kernel)⟩

theorem test_meets_FramesEnterThePasses_4_2 :
    ∃ (s : State) (v : State) (p : Fin 16) (slot : Fin 2048) (img : List Byte) (e : Nat) (x : _) (rest : _), (s.at_ (cycleAt8 (slot.val
    / 2))).ownSlot p.val slot.val [2] = some (v, img, e) ∧ takeFirst (fun x => x.1 == p.val) v.flow.recirc = (some x, rest) ∧
    v.flt.safe = true :=
  ⟨safely (devSlot 2 (fun w => { w with recirc := [(0, held)] })), _, 0, 0, _, _, (0, held), _, got3 (by decide +kernel), fst_of
    (by decide +kernel), by decide +kernel⟩

theorem test_meets_FramesEnterThePasses_4_3 :
    ∃ (s : State) (v : State) (p : Fin 16) (slot : Fin 2048) (img : List Byte) (e : Nat) (x : _) (rest : _), (s.at_ (cycleAt8 (slot.val
    / 2))).ownSlot p.val slot.val [2] = some (v, img, e) ∧ takeFirst (fun x => x.1 == p.val) v.flow.recirc = (some x, rest) ∧
    v.flt.safe = false ∧ v.withheld p.val slot.val = true :=
  ⟨withholding 2 (devFlow fun w => { w with recirc := [(0, held)] }), _, 0, 0, _, _, (0, held), _, got3 (by decide +kernel), fst_of
    (by decide +kernel), by decide +kernel, by decide +kernel⟩

theorem test_meets_FramesEnterThePasses_4_4 :
    ∃ (s : State) (v : State) (p : Fin 16) (slot : Fin 2048) (img : List Byte) (e : Nat) (x : _) (rest : _), (s.at_ (cycleAt8 (slot.val
    / 2))).ownSlot p.val slot.val [2] = some (v, img, e) ∧ takeFirst (fun x => x.1 == p.val) v.flow.recirc = (some x, rest) ∧
    v.flt.safe = false ∧ v.withheld p.val slot.val = false :=
  ⟨devSlot 2 (fun w => { w with recirc := [(0, held)] }), _, 0, 0, _, _, (0, held), _, got3 (by decide +kernel), fst_of
    (by decide +kernel), by decide +kernel, by decide +kernel⟩

theorem test_meets_FramesEnterThePasses_5_1 :
    ∃ (s : State) (v : State) (p : Fin 16) (slot : Fin 2048) (img : List Byte) (e : Nat) (rest : _), (s.at_ (cycleAt8 (slot.val /
    2))).ownSlot p.val slot.val [3, 4] = some (v, img, e) ∧ v.injectHead p.val (fld e 0 3) = (none, rest) :=
  ⟨devSlot 3 id, _, 0, 0, _, _, _, got3 (by decide +kernel), fst_of (by decide +kernel)⟩

theorem test_meets_FramesEnterThePasses_5_2 :
    ∃ (s : State) (v : State) (p : Fin 16) (slot : Fin 2048) (img : List Byte) (e : Nat) (x : _) (rest : _), (s.at_ (cycleAt8 (slot.val
    / 2))).ownSlot p.val slot.val [3, 4] = some (v, img, e) ∧ v.injectHead p.val (fld e 0 3) = (some x, rest) ∧ v.flt.safe = true :=
  ⟨safely (devSlot 3 (fun w => { w with inject := [(0, hostFrame)] })), _, 0, 0, _, _, (0, hostFrame), _, got3 (by decide +kernel),
    fst_of (by decide +kernel), by decide +kernel⟩

theorem test_meets_FramesEnterThePasses_5_3 :
    ∃ (s : State) (v : State) (p : Fin 16) (slot : Fin 2048) (img : List Byte) (e : Nat) (x : _) (rest : _), (s.at_ (cycleAt8 (slot.val
    / 2))).ownSlot p.val slot.val [3, 4] = some (v, img, e) ∧ v.injectHead p.val (fld e 0 3) = (some x, rest) ∧ v.flt.safe = false ∧
    ((v.withheld p.val slot.val = true ∨ v.coldHold = true)) :=
  ⟨withholding 3 (devFlow fun w => { w with inject := [(0, hostFrame)] }), _, 0, 0, _, _, (0, hostFrame), _, got3
    (by decide +kernel), fst_of (by decide +kernel), by decide +kernel, .inl (by decide +kernel)⟩

theorem test_meets_FramesEnterThePasses_5_4 :
    ∃ (s : State) (v : State) (p : Fin 16) (slot : Fin 2048) (img : List Byte) (e : Nat) (x : _) (rest : _) (t : State) (j :
    InjectMeta), (s.at_ (cycleAt8 (slot.val / 2))).ownSlot p.val slot.val [3, 4] = some (v, img, e) ∧ v.injectHead p.val (fld e 0 3) =
    (some x, rest) ∧ v.flt.safe = false ∧ v.withheld p.val slot.val = false ∧ v.coldHold = false ∧ fld e 0 3 = 3 ∧ x.2.inj = some j ∧ t
    = { v with flow := { v.flow with inject := rest, injectLast := tset 1024 v.flow.injectLast p j.ring } } :=
  ⟨devSlot 3 (fun w => { w with inject := [(0, hostFrame)] }), _, 0, 0, _, _, (0, hostFrame), _, _, hostMeta, got3
    (by decide +kernel), fst_of (by decide +kernel), by decide +kernel, by decide +kernel, by decide +kernel, by decide +kernel,
    by decide +kernel, rfl⟩

theorem test_meets_FramesEnterThePasses_5_5 :
    ∃ (s : State) (v : State) (p : Fin 16) (slot : Fin 2048) (img : List Byte) (e : Nat) (x : _) (rest : _) (t : State), (s.at_
    (cycleAt8 (slot.val / 2))).ownSlot p.val slot.val [3, 4] = some (v, img, e) ∧ v.injectHead p.val (fld e 0 3) = (some x, rest) ∧
    v.flt.safe = false ∧ v.withheld p.val slot.val = false ∧ v.coldHold = false ∧ fld e 0 3 = 4 ∧ t =
    { v with flow := { v.flow with inject := rest } } :=
  ⟨devSlot 4 (fun w => { w with inject := [(0, { held with source := .replay })] }), _, 0, 0, _, _, (0,
    { held with source := .replay }), _, _, got3 (by decide +kernel), fst_of (by decide +kernel), by decide +kernel, by decide +kernel,
    by decide +kernel, by decide +kernel, rfl⟩

theorem test_meets_FramesEnterThePasses_6 :
    ∃ (s : State) (u : State) (p : Fin 16) (slot : Fin 2048), s.at_ (cycleAt8 (slot.val / 2)) = u ∧ u.beginSlot p.val slot.val = none :=
  ⟨{ dev with pmc := { dev.pmc with slotsBegun := [(0, 1)] } }, _, 0, 0, rfl, by decide +kernel⟩

theorem test_meets_HeadsAndBodiesAreStored_1 :
    ∃ (s : State) (u : State) (v : State) (cycle : Fin 512) (abs : Nat) (hs : List (Nat × Nat × Frame)), s.at_ (bufferAt8 cycle.val) =
    u ∧ abs = u.tt.round.toNat * 512 + cycle.val ∧ ((((List.range 16).foldl (fun (t : State) p => t.settlePasses p (2 * abs + 1))
    u).decideUpTo (2 * abs)).leaveStage) = v ∧ v.handed abs = hs :=
  ⟨inRound (devFlow fun w => { w with inPass := [(15, 0, held)] }) 10, _, _, 0, _, _, rfl, rfl, rfl, rfl⟩

/-- A head of pipeline 15 in the arbiter's stage that waits for a decision window, and the device with it. -/
def stageHead (w : Nat) : StageHead := { pipe := 15, cycle := 0, window := some w, frame := held, decided := false }
def devStage (h : StageHead) : State := devFlow fun w => { w with arb := [h] }

/-- The device in which the body of a frame of `n` bytes arrives at port 511. -/
def bodyFrame (n : Nat) : Frame := { held with lastIn := false, len := n }
def devBody (f : Frame) : State := devFlow fun w => { w with body := [f] }

theorem test_meets_HeadsAndBodiesAreStored_2_1 :
    ∃ (s : State) (p : Fin 16), s.flow.arb.find? (fun h => h.pipe == p.val && h.index.isSome) = none :=
  ⟨dev, 15, by decide +kernel⟩

theorem test_meets_HeadsAndBodiesAreStored_2_2 :
    ∃ (s : State) (p : Fin 16) (h : _), s.flow.arb.find? (fun h => h.pipe == p.val && h.index.isSome) = some h ∧ s.tt.round.toNat <
    h.index.getD 0 / 1024 :=
  ⟨devStage (stageHead 52), 15, stageHead 52, by decide +kernel, by decide +kernel⟩

theorem test_meets_HeadsAndBodiesAreStored_2_3 :
    ∃ (s : State) (p : Fin 16) (h : _), s.flow.arb.find? (fun h => h.pipe == p.val && h.index.isSome) = some h ∧ h.index.getD 0 / 1024
    ≤ s.tt.round.toNat :=
  ⟨devStage (stageHead 51), 15, stageHead 51, by decide +kernel, by decide +kernel⟩

theorem test_meets_HeadsAndBodiesAreStored_3 :
    ∃ (s : State) (h : StageHead) (f : Frame) (a : FeedAnswer), s.withBody h.frame = f ∧ s.feedDecide f.cw.feedId f.cw.fields = a :=
  ⟨devStage (stageHead 51), stageHead 51, _, _, rfl, rfl⟩

theorem test_meets_HeadsAndBodiesAreStored_4_1 :
    ∃ (s : State) (u : State) (lp : Fin 512) (cycle : Fin 512), s.at_ (bufferAt8 cycle.val) = u ∧ u.arriving lp.val = none :=
  ⟨dev, _, 511, 0, rfl, by decide +kernel⟩

theorem test_meets_HeadsAndBodiesAreStored_4_2 :
    ∃ (s : State) (u : State) (lp : Fin 512) (cycle : Fin 512) (f : _), s.at_ (bufferAt8 cycle.val) = u ∧ u.arriving lp.val = some f ∧
    f.refused = true :=
  ⟨devBody { bodyFrame 513 with refused := true }, _, 511, 0, { bodyFrame 513 with refused := true }, rfl, by decide +kernel,
    by decide +kernel⟩

theorem test_meets_HeadsAndBodiesAreStored_4_3 :
    ∃ (s : State) (u : State) (lp : Fin 512) (cycle : Fin 512) (bank : Fin 64) (f : _), s.at_ (bufferAt8 cycle.val) = u ∧ u.arriving
    lp.val = some f ∧ f.refused = false ∧ u.windowOk cycle.val bank.val 2 lp.val = false :=
  ⟨{ devBody (bodyFrame 513) with tt := { dev.tt with active := some [] } }, _, 511, 0, 63, bodyFrame 513, rfl, by decide +kernel,
    by decide +kernel, by decide +kernel⟩

theorem test_meets_HeadsAndBodiesAreStored_4_4 :
    ∃ (s : State) (u : State) (lp : Fin 512) (cycle : Fin 512) (bank : Fin 64) (f : _), s.at_ (bufferAt8 cycle.val) = u ∧ u.arriving
    lp.val = some f ∧ f.refused = false ∧ u.windowOk cycle.val bank.val 2 lp.val = true ∧ f.bodyCells + 2 < f.cellCount :=
  ⟨devBody (bodyFrame 513), _, 511, 0, 63, bodyFrame 513, rfl, by decide +kernel, by decide +kernel, by decide +kernel,
    by decide +kernel⟩

theorem test_meets_HeadsAndBodiesAreStored_4_5 :
    ∃ (s : State) (u : State) (lp : Fin 512) (cycle : Fin 512) (bank : Fin 64) (f : _), s.at_ (bufferAt8 cycle.val) = u ∧ u.arriving
    lp.val = some f ∧ f.refused = false ∧ u.windowOk cycle.val bank.val 2 lp.val = true ∧ f.cellCount ≤ f.bodyCells + 2 :=
  ⟨devBody (bodyFrame 512), _, 511, 0, 63, bodyFrame 512, rfl, by decide +kernel, by decide +kernel, by decide +kernel,
    by decide +kernel⟩

theorem test_meets_HeadsAndBodiesAreStored_4_6 :
    ∃ (s : State) (u : State) (lp : Fin 512) (cycle : Fin 512) (bank : Fin 64) (f : _), s.at_ (bufferAt8 cycle.val) = u ∧ u.arriving
    lp.val = some f ∧ f.refused = false ∧ u.windowOk cycle.val bank.val 2 lp.val = true ∧ f.cellCount ≤ f.bodyCells + 2 ∧ u.writeBody f
    bank.val = none :=
  ⟨(devBody (bodyFrame 512)).modBank 63 fun b => { b with count := 0 }, _, 511, 0, 63, bodyFrame 512, rfl, by decide +kernel,
    by decide +kernel, by decide +kernel, by decide +kernel, by decide +kernel⟩

theorem test_meets_HeadsAndBodiesAreStored_4_7 :
    ∃ (s : State) (u : State) (lp : Fin 512) (cycle : Fin 512) (bank : Fin 64) (f : _) (v : _), s.at_ (bufferAt8 cycle.val) = u ∧
    u.arriving lp.val = some f ∧ f.refused = false ∧ u.windowOk cycle.val bank.val 2 lp.val = true ∧ f.cellCount ≤ f.bodyCells + 2 ∧
    u.writeBody f bank.val = some v :=
  ⟨(devBody (bodyFrame 512)).modBank 63 fun b => { b with cache := [63] }, _, 511, 0, 63, bodyFrame 512, _, rfl, by decide +kernel,
    by decide +kernel, by decide +kernel, by decide +kernel, (Option.some_get (by decide +kernel)).symm⟩

/-- A retransmission request of a feed, and the arbiter changed. -/
def revReq : RevocationReq := { feed := 4095, first := 0, count := 1, epoch := 0 }
def devArb (f : ArbState → ArbState) : State := { dev with arb := f dev.arb }

theorem test_meets_HeadsAndBodiesAreStored_5_1 :
    ∃ (s : State) (k : Fin 64), s.tt.round.toNat * 64 + k.val < s.arb.serviceWin :=
  ⟨devArb fun a => { a with serviceWin := 64 }, 63, by decide +kernel⟩

theorem test_meets_HeadsAndBodiesAreStored_5_2 :
    ∃ (s : State) (k : Fin 64) (u : State), s.arb.serviceWin ≤ s.tt.round.toNat * 64 + k.val ∧
    ({ s with arb := { s.arb with serviceWin := s.tt.round.toNat * 64 + k.val + 1 } } : State).at_ (bufferAt8 (serviceCycle k.val)) = u
    ∧ u.arb.revs = [] :=
  ⟨dev, 63, _, by decide +kernel, rfl, by decide +kernel⟩

theorem test_meets_HeadsAndBodiesAreStored_5_3 :
    ∃ (s : State) (k : Fin 64) (u : State) (r : _) (rest : _), s.arb.serviceWin ≤ s.tt.round.toNat * 64 + k.val ∧
    ({ s with arb := { s.arb with serviceWin := s.tt.round.toNat * 64 + k.val + 1 } } : State).at_ (bufferAt8 (serviceCycle k.val)) = u
    ∧ u.arb.revs = r :: rest :=
  ⟨devArb fun a => { a with revs := [revReq] }, 63, _, revReq, [], by decide +kernel, rfl, by decide +kernel⟩

theorem test_meets_HeadsAndBodiesAreStored_6_1 :
    ∃ (s : State) (k : Fin 128), s.tt.round.toNat * 128 + k.val < s.arb.scanWin :=
  ⟨devArb fun a => { a with scanWin := 128 }, 127, by decide +kernel⟩

theorem test_meets_HeadsAndBodiesAreStored_6_2 :
    ∃ (s : State) (k : Fin 128) (u : State) (v : State), s.arb.scanWin ≤ s.tt.round.toNat * 128 + k.val ∧
    ({ s with arb := { s.arb with scanWin := s.tt.round.toNat * 128 + k.val + 1 } } : State).at_ (bufferAt8 (scanCycle k.val)) = u ∧
    { u with arb := { u.arb with scanNext := u.arb.scanNext + 1 } } = v ∧ v.reportsGaps = false :=
  ⟨devPair .standby .primary id, 127, _, _, by decide +kernel, rfl, rfl, by decide +kernel⟩

theorem test_meets_HeadsAndBodiesAreStored_6_3 :
    ∃ (s : State) (k : Fin 128) (u : State) (v : State), s.arb.scanWin ≤ s.tt.round.toNat * 128 + k.val ∧
    ({ s with arb := { s.arb with scanWin := s.tt.round.toNat * 128 + k.val + 1 } } : State).at_ (bufferAt8 (scanCycle k.val)) = u ∧
    { u with arb := { u.arb with scanNext := u.arb.scanNext + 1 } } = v ∧ v.reportsGaps = true :=
  ⟨dev, 127, _, _, by decide +kernel, rfl, rfl, by decide +kernel⟩

/-- A stored frame of 64 octets, and the device with it first in the queue of port 504's highest traffic class. -/
def kept : Stored :=
  { id := 3, first := 0, cells := 1, len := 64, lenKnown := true, source := .inject, lp := 0, tsIn := 0, resIn := 0, slotWait := 0,
    pass2 := false, fcsOk := true, lastIn := true, lateFail := false, cw := {}, pipe := 0, inj := none,
    charges := { requester := 0, pool := 0, poolCells := 1, minQueue := 0, minCells := 0, group := none, headCells := 0, sharedCells := 0 },
    feed := none, sentGood := true, headCrc := 0, l3Off := 0, l4Off := 0, ipEnd := 0 }
def copyOf : QEntry := { frame := 3, cutThrough := false, freshAt := none, ecnMark := false, isGroup := false }
def devKept (s : State) : State :=
  ({ s with buf := { s.buf with stored := [kept] } } : State).modQueue 8079 fun x => { x with entries := [copyOf], deficit := 1000 }
def devQueue : State := devKept (devUp (64 * 2 ^ 16))

/-- A copy on a wire. -/
def onWire : TxFrame :=
  { frame := 3, queue := 8079, stomp := false, start := 0, t0 := 0, stamped := true, ts := 0, res := 0, free := 0, estimate := 64,
    onDeficit := true, onQueue := false, onPort := false, maxFrame := 64, cutThrough := false, ecnMark := false, heldIn := none }

theorem test_meets_CopiesLeave_1_1 :
    ∃ (s : State) (u : State) (x : State) (lp : Fin 512) (a : Fin 3277), s.at_ a.val = u ∧ (u.sendPauses lp.val).settlePort lp.val = x
    ∧ (u.isUp lp.val = false ∨ u.flt.safe = true ∨ u.boot.warmLow = true ∨ u.inFlush lp.val = true) :=
  ⟨dev, _, _, 504, 0, rfl, rfl, .inl (by decide +kernel)⟩

theorem test_meets_CopiesLeave_1_2 :
    ∃ (s : State) (u : State) (x : State) (lp : Fin 512) (a : Fin 3277), s.at_ a.val = u ∧ (u.sendPauses lp.val).settlePort lp.val = x
    ∧ u.isUp lp.val = true ∧ u.flt.safe = false ∧ u.boot.warmLow = false ∧ u.inFlush lp.val = false ∧ x.mayPick lp.val = false :=
  ⟨(devQueue.modStored 3 fun f => { f with lenKnown := false }).modEgr 504 fun e => { e with wire := [onWire] }, _, _, 504, 0, rfl,
    rfl, by decide +kernel, by decide +kernel, by decide +kernel, by decide +kernel, by decide +kernel⟩

theorem test_meets_CopiesLeave_1_3 :
    ∃ (s : State) (u : State) (x : State) (lp : Fin 512) (a : Fin 3277) (v : _), s.at_ a.val = u ∧ (u.sendPauses lp.val).settlePort
    lp.val = x ∧ u.isUp lp.val = true ∧ u.flt.safe = false ∧ u.boot.warmLow = false ∧ u.inFlush lp.val = false ∧ x.mayPick lp.val =
    true ∧ ((x.markBlocked lp.val).countWaits lp.val).pickClass lp.val = (v, none) :=
  ⟨devUp (64 * 2 ^ 16), _, _, 504, 0, _, rfl, rfl, by decide +kernel, by decide +kernel, by decide +kernel, by decide +kernel,
    by decide +kernel, done_of (by decide +kernel)⟩

theorem test_meets_CopiesLeave_1_4 :
    ∃ (s : State) (u : State) (x : State) (lp : Fin 512) (a : Fin 3277) (v : _) (k : _), s.at_ a.val = u ∧ (u.sendPauses
    lp.val).settlePort lp.val = x ∧ u.isUp lp.val = true ∧ u.flt.safe = false ∧ u.boot.warmLow = false ∧ u.inFlush lp.val = false ∧
    x.mayPick lp.val = true ∧ ((x.markBlocked lp.val).countWaits lp.val).pickClass lp.val = (v, some k) :=
  ⟨devQueue, _, _, 504, 0, _, _, rfl, rfl, by decide +kernel, by decide +kernel, by decide +kernel, by decide +kernel,
    by decide +kernel, some_of (by decide +kernel)⟩

theorem test_meets_CopiesLeave_1_5 :
    ∃ (s : State) (u : State) (x : State) (lp : Fin 512) (a : Fin 3277) (v : _) (k : _) (e : _) (f : _) (held : _), s.at_ a.val = u ∧
    (u.sendPauses lp.val).settlePort lp.val = x ∧ u.isUp lp.val = true ∧ u.flt.safe = false ∧ u.boot.warmLow = false ∧ u.inFlush lp.val
    = false ∧ x.mayPick lp.val = true ∧ ((x.markBlocked lp.val).countWaits lp.val).pickClass lp.val = (v, some k) ∧ v.firstCopy (16 *
    lp.val + k) = some (e, f) ∧ (v.unlinkFirst (16 * lp.val + k)).holdEntry f = some held :=
  ⟨devQueue, _, _, 504, 0, (((((devQueue.at_ (0 : Fin 3277).val).sendPauses (504 : Fin 512).val).settlePort (504 : Fin
    512).val).markBlocked (504 : Fin 512).val).countWaits (504 : Fin 512).val).pickClass (504 : Fin 512).val |>.1, 15, copyOf, kept, _,
    rfl, rfl, by decide +kernel, by decide +kernel, by decide +kernel, by decide +kernel, by decide +kernel, pair_of
    (by decide +kernel), by decide +kernel, (Option.some_get (by decide +kernel)).symm⟩

theorem test_meets_CopiesLeave_2_1 :
    ∃ (s : State) (u : State) (lp : Fin 512) (a : Fin 3277), s.at_ a.val = u ∧ (u.egr lp.val).wire = [] :=
  ⟨dev, _, 504, 0, rfl, by decide +kernel⟩

theorem test_meets_CopiesLeave_2_2 :
    ∃ (s : State) (u : State) (lp : Fin 512) (a : Fin 3277) (w : _) (rest : _), s.at_ a.val = u ∧ (u.egr lp.val).wire = w :: rest ∧
    u.stored? w.frame = none :=
  ⟨(dev).modEgr 504 fun e => { e with wire := [onWire] }, _, 504, 0, onWire, [], rfl, by decide +kernel, by decide +kernel⟩

theorem test_meets_CopiesLeave_2_3 :
    ∃ (s : State) (u : State) (lp : Fin 512) (a : Fin 3277) (w : _) (rest : _) (f : _), s.at_ a.val = u ∧ (u.egr lp.val).wire = w ::
    rest ∧ u.stored? w.frame = some f ∧ (f.lastIn = false ∨ u.due (u.lineEnd lp.val w) = false) :=
  ⟨(devQueue.modStored 3 fun f => { f with lastIn := false }).modEgr 504 fun e => { e with wire := [onWire] }, _, 504, 0, onWire, [],
    { kept with lastIn := false }, rfl, by decide +kernel, by decide +kernel, .inl (by decide +kernel)⟩

theorem test_meets_CopiesLeave_2_4 :
    ∃ (s : State) (u : State) (lp : Fin 512) (a : Fin 3277) (w : _) (rest : _) (f : _) (v : _), s.at_ a.val = u ∧ (u.egr lp.val).wire =
    w :: rest ∧ u.stored? w.frame = some f ∧ f.lastIn = true ∧ u.due (u.lineEnd lp.val w) = true ∧ ((u.reach (u.lineEnd lp.val
    w)).finishTx lp.val).addBack w ((w.estimate : Int) - (w.sentLen f : Nat)) = v :=
  ⟨(devQueue).modEgr 504 fun e => { e with wire := [onWire] }, _, 504, 3276, onWire, [], kept, _, rfl, by decide +kernel,
    by decide +kernel, by decide +kernel, by decide +kernel, rfl⟩

theorem test_meets_CopiesLeave_3_1 :
    ∃ (s : State) (u : State) (lp : Fin 512) (c : Fin 512) (b : Fin 64), s.at_ (bufferAt8 c.val) = u ∧ ((u.egr lp.val).flushing = false
    ∨ u.windowOk c.val b.val 3 lp.val = false) :=
  ⟨dev, _, 504, 0, 63, rfl, .inl (by decide +kernel)⟩

theorem test_meets_CopiesLeave_3_2 :
    ∃ (s : State) (u : State) (lp : Fin 512) (c : Fin 512) (b : Fin 64), s.at_ (bufferAt8 c.val) = u ∧ (u.egr lp.val).flushing = true ∧
    u.windowOk c.val b.val 3 lp.val = true ∧ ((∀ k < 16, (u.queue (16 * lp.val + k)).entries = [])) :=
  ⟨(dev).modEgr 504 fun e => { e with flushing := true }, _, 504, 0, 63, rfl, by decide +kernel, by decide +kernel,
    by decide +kernel⟩

theorem test_meets_CopiesLeave_3_3 :
    ∃ (s : State) (u : State) (lp : Fin 512) (c : Fin 512) (b : Fin 64) (k : _) (e : _) (f : _) (v : _), s.at_ (bufferAt8 c.val) = u ∧
    (u.egr lp.val).flushing = true ∧ u.windowOk c.val b.val 3 lp.val = true ∧ (List.range 16).find? (fun k => !(u.queue (16 * lp.val +
    k)).entries.isEmpty) = some k ∧ u.firstCopy (16 * lp.val + k) = some (e, f) ∧ ((((u.unlinkFirst (16 * lp.val + k)).modEgr lp.val
    fun e => { e with flushDrop := e.flushDrop + 1 }).dropCopyRecord f 8 (16 * lp.val + k)).copyLost f.id (16 * lp.val + k)) = v :=
  ⟨(devKept dev).modEgr 504 fun e => { e with flushing := true }, _, 504, 0, 63, 15, copyOf, kept, _, rfl, by decide +kernel,
    by decide +kernel, by decide +kernel, by decide +kernel, rfl⟩

theorem test_meets_CopiesLeave_4_1 :
    ∃ (s : State), s.pool.walks = [] :=
  ⟨dev, by decide +kernel⟩

theorem test_meets_CopiesLeave_4_2 :
    ∃ (s : State) (c : _) (n : _) (rest : _), s.pool.walks = (c, n) :: rest :=
  ⟨{ dev with pool := { dev.pool with walks := [(5, 1)] } }, 5, 1, [], by decide +kernel⟩

theorem test_meets_WindowsAndGatesRun_1_1 :
    ∃ (s : State) (u : State) (v : State) (c : Fin 512) (b : Fin 64), s.at_ (bufferAt8 c.val) = u ∧ u.modBank b.val (fun x => x.settle
    u.nowBuffer) = v ∧ u.windowOk c.val b.val 5 b.val = false :=
  ⟨devTT fun t => { t with active := some [] }, _, _, 0, 63, rfl, rfl, by decide +kernel⟩

theorem test_meets_WindowsAndGatesRun_1_2 :
    ∃ (s : State) (u : State) (v : State) (c : Fin 512) (b : Fin 64), s.at_ (bufferAt8 c.val) = u ∧ u.modBank b.val (fun x => x.settle
    u.nowBuffer) = v ∧ u.windowOk c.val b.val 5 b.val = true ∧ 192 < (v.bank b.val).cached :=
  ⟨dev.modBank 63 fun b => { b with cache := List.replicate 193 0 }, _, _, 0, 63, rfl, rfl, by decide +kernel, by decide +kernel⟩

theorem test_meets_WindowsAndGatesRun_1_3 :
    ∃ (s : State) (u : State) (v : State) (c : Fin 512) (b : Fin 64), s.at_ (bufferAt8 c.val) = u ∧ u.modBank b.val (fun x => x.settle
    u.nowBuffer) = v ∧ u.windowOk c.val b.val 5 b.val = true ∧ (v.bank b.val).cached < 64 ∧ 64 ≤ (v.bank b.val).count :=
  ⟨dev.modBank 63 fun b => { b with cache := List.replicate 63 0 }, _, _, 0, 63, rfl, rfl, by decide +kernel, by decide +kernel,
    by decide +kernel⟩

theorem test_meets_WindowsAndGatesRun_1_4a :
    ∃ (s : State) (u : State) (v : State) (c : Fin 512) (b : Fin 64), s.at_ (bufferAt8 c.val) = u ∧ u.modBank b.val (fun x => x.settle
    u.nowBuffer) = v ∧ u.windowOk c.val b.val 5 b.val = true ∧ (v.bank b.val).cached ≤ 192 ∧ ((64 ≤ (v.bank b.val).cached ∨ (v.bank
    b.val).count < 64)) :=
  ⟨dev.modBank 63 fun b => { b with cache := List.replicate 192 0 }, _, _, 0, 63, rfl, rfl, by decide +kernel, by decide +kernel,
    .inl (by decide +kernel)⟩

theorem test_meets_WindowsAndGatesRun_1_4b :
    ∃ (s : State) (u : State) (v : State) (c : Fin 512) (b : Fin 64), s.at_ (bufferAt8 c.val) = u ∧ u.modBank b.val (fun x => x.settle
    u.nowBuffer) = v ∧ u.windowOk c.val b.val 5 b.val = true ∧ (v.bank b.val).cached ≤ 192 ∧ ((64 ≤ (v.bank b.val).cached ∨ (v.bank
    b.val).count < 64)) :=
  ⟨dev.modBank 63 fun b => { b with count := 63 }, _, _, 0, 63, rfl, rfl, by decide +kernel, by decide +kernel, .inr
    (by decide +kernel)⟩

theorem test_meets_WindowsAndGatesRun_3_1 :
    ∃ (s : State) (u : State) (lp : Fin 512) (a : Fin 3277), s.at_ a.val = u ∧ (u.egr lp.val).gatesNext = none :=
  ⟨dev, _, 511, 3276, rfl, by decide +kernel⟩

theorem test_meets_WindowsAndGatesRun_3_2 :
    ∃ (s : State) (u : State) (lp : Fin 512) (a : Fin 3277) (g : _) (x : _), s.at_ a.val = u ∧ (u.egr lp.val).gatesNext = some (g, x) :=
  ⟨dev.modEgr 511 fun e => { e with gatesNext := some (0, 0) }, _, 511, 3276, 0, 0, rfl, by decide +kernel⟩

theorem test_meets_WindowsAndGatesRun_3_3 :
    ∃ (s : State) (u : State) (lp : Fin 512) (a : Fin 3277) (g : _) (x : _), s.at_ a.val = u ∧ (u.egr lp.val).gatesNext = some (g, x) ∧
    (u.egr lp.val).gatesNextRound = none :=
  ⟨dev.modEgr 511 fun e => { e with gatesNext := some (0, 0) }, _, 511, 3276, 0, 0, rfl, by decide +kernel, by decide +kernel⟩

theorem test_meets_WindowsAndGatesRun_4_1 :
    ∃ (s : State) (u : State) (lp : Fin 512) (a : Fin 3277), s.at_ a.val = u ∧ (u.egr lp.val).gates.isSome = true :=
  ⟨dev.modEgr 511 fun e => { e with gates := some 0 }, _, 511, 3276, rfl, by decide +kernel⟩

theorem test_meets_WindowsAndGatesRun_4_2 :
    ∃ (s : State) (u : State) (lp : Fin 512) (a : Fin 3277), s.at_ a.val = u ∧ (u.egr lp.val).gates = none :=
  ⟨dev, _, 511, 3276, rfl, by decide +kernel⟩

theorem test_meets_StepRunsTheFrontCommand_2 :
    ∃ (s : State), s.pending = [] :=
  ⟨dev, by decide +kernel⟩

/-- The machine at reset with commands waiting. -/
def waiting (cs : List Instr) : State := { State.reset with pending := cs }
theorem waiting_inv (cs : List Instr) : (waiting cs).Inv := ⟨rfl, fun _ _ => rfl, rfl, rfl, rfl, rfl, rfl⟩

theorem test_meets_StepKeepsInv_1 :
    ∃ (s : State) (t : State), s.Inv ∧ step s = .next t := by
  exact ⟨waiting [.ownerProgram 7 true true], _, waiting_inv _, rfl⟩

theorem test_meets_StepTakesTheFrontCommand_1 :
    ∃ (s : State) (t : State) (c : Instr) (rest : List Instr), s.pending = c :: rest ∧ step s = .next t := by
  exact ⟨waiting [.pmcSweep 1, .linkAck], _, .pmcSweep 1, [.linkAck], rfl, rfl⟩

theorem test_meets_FusesAndOwnerKeyAreForGood_1_1 :
    ∃ (s : State) (t : State), s.Inv ∧ step s = .next t ∧ t.env ≠ s.env := by
  refine ⟨waiting [.ownerProgram 7 true true], _, waiting_inv _, rfl, ?_⟩
  decide +kernel

/-- A device whose owner key is fused. -/
def fused : State :=
  { waiting [.coldReset board] with env := { State.reset.env with ownerFuse := some 7, lockFuse := true } }

theorem test_meets_FusesAndOwnerKeyAreForGood_1_2 :
    ∃ (s : State) (t : State), s.Inv ∧ step s = .next t ∧ (t.key 0).key ≠ (s.key 0).key := by
  refine ⟨fused, _, ⟨rfl, fun _ _ => rfl, rfl, rfl, rfl, rfl, rfl⟩, rfl, ?_⟩
  decide +kernel

theorem test_meets_RefusedPacketsDoNoWork_1_1 :
    ∃ (s : State) (op : Nat) (p : Pkt) (w : Waiter) (st : _) (de : _), 4 ≤ (s.at_ p.at8.val).boot.phase ∧ (s.at_ p.at8.val).boot.failed
    = false ∧ (s.at_ p.at8.val).mirrorBusy op p = false ∧ ((s.at_ p.at8.val).ctx p.port).st = .idle ∧ (s.arrived op p).fenced p.port =
    false ∧ (s.arrived op p).keptReply p = none ∧ w = mkWaiter op p (if p.port = .cp2 then some (s.arrived op p).mirror.seq else none)
    ∧ (s.arrived op p).authCheck op p = some (st, de) :=
  ⟨dev, 0xFFFF, pk [], _, 0x10, 0, by decide +kernel, by decide +kernel, by decide +kernel, by decide +kernel, by decide +kernel,
    by decide +kernel, rfl, by decide +kernel⟩

theorem test_meets_RefusedPacketsDoNoWork_1_2 :
    ∃ (s : State) (op : Nat) (p : Pkt) (w : Waiter), 4 ≤ (s.at_ p.at8.val).boot.phase ∧ (s.at_ p.at8.val).boot.failed = false ∧ (s.at_
    p.at8.val).mirrorBusy op p = false ∧ ((s.at_ p.at8.val).ctx p.port).st = .idle ∧ (s.arrived op p).fenced p.port = false ∧
    (s.arrived op p).keptReply p = none ∧ w = mkWaiter op p (if p.port = .cp2 then some (s.arrived op p).mirror.seq else none) ∧
    (s.arrived op p).authCheck op p = none ∧ p.trailer = true :=
  ⟨dev, 0x0100, cr 0x0100 (bytesLe 16 0), _, by decide +kernel, by decide +kernel, by decide +kernel, by decide +kernel,
    by decide +kernel, by decide +kernel, rfl, by decide +kernel, by decide +kernel⟩

theorem test_meets_RefusedPacketsDoNoWork_1_3 :
    ∃ (s : State) (op : Nat) (p : Pkt) (wf : List Byte → State → Bool) (w : Waiter), 4 ≤ (s.at_ p.at8.val).boot.phase ∧ (s.at_
    p.at8.val).boot.failed = false ∧ (s.at_ p.at8.val).mirrorBusy op p = false ∧ ((s.at_ p.at8.val).ctx p.port).st = .idle ∧ (s.arrived
    op p).fenced p.port = false ∧ (s.arrived op p).keptReply p = none ∧ w = mkWaiter op p (if p.port = .cp2 then some (s.arrived op
    p).mirror.seq else none) ∧ (s.arrived op p).authCheck op p = none ∧ wf p.params (s.authed op p) = false :=
  ⟨dev, 0x0001, pk (bytesLe 8 0), lenIs 0, _, by decide +kernel, by decide +kernel, by decide +kernel, by decide +kernel,
    by decide +kernel, by decide +kernel, rfl, by decide +kernel, by decide +kernel⟩

theorem test_meets_MemoryReadsBack_1 :
    ∃ (m : List (Nat × BitVec 8)), Memory.wf m = true :=
  ⟨[(3, 1)], by decide +kernel⟩

theorem test_meets_CabinetWritesReachOnlyTheirBytes_1 :
    ∃ (s : State), Memory.wf s.cab.mem = true :=
  ⟨devCab fun c => { c with mem := [(3, 1)] }, by decide +kernel⟩

theorem test_meets_EventFrames_1_2 :
    ∃ (s : State) (t : State) (lp : Fin 512) (k : Fin 9) (op : BitVec 16) (cl : BitVec 8) (q : List (BitVec 16)) (a : Fin 3277) (n1 :
    Nat) (n2 : Nat) (n3 : Nat) (n4 : Nat) (c : Instr) (j : _), c ∈ [Instr.pauseReceive lp op cl q a, .pauseTakeEffect lp, .pauseExpiry
    lp k, .pauseWatchdogTrip lp k, .pauseHoldoffEnd lp k, .pauseTx lp k, .fecDegradeCheck lp n1 n2 n3 n4, .wakeDetectorRearm lp] ∧ exec
    c s = .next t ∧ j ≠ lp.val :=
  ⟨devPause 504 8 fun w => { w with until_ := some 0, heldSince := some 0, coming := [(0, 3)], holdoff := some 0, txOn := true }, _,
    504, 8, 1, 0, [0], 0, 0, 0, 0, 0, .pauseExpiry 504 8, 0, .tail _ (.tail _ (.head _)), rfl, by decide +kernel⟩

theorem test_meets_EventFrames_2 :
    ∃ (s : State) (t : State) (a : Fin 3277) (n : Nat) (v : BitVec 64) (d : Fin 161) (c : Instr), c ∈ [Instr.ppsInEdge a, .ppsAbsent,
    .ppsOutEdge a, .ref10mCount n, .slewEnd, .timeLatch v d a] ∧ exec c s = .next t :=
  ⟨devAt 2 fun t => { t with ppsLastRes := none }, _, 0, 0, 0, 0, .ppsInEdge 0, .head _, rfl⟩

theorem test_meets_EventFrames_3 :
    ∃ (s : State) (t : State) (k : Fin 256) (v : BitVec 64) (c : Instr), c ∈ [Instr.pmcCtrWrite k v, .pmcCfgWrite k v, .pmcSweep v,
    .sweepComplete] ∧ exec c s = .next t :=
  ⟨dev, _, 255, 7, .pmcSweep 7, .tail _ (.tail _ (.head _)), rfl⟩

theorem test_meets_EventFrames_4_2 :
    ∃ (s : State) (t : State) (v : BitVec 64) (lp : Nat), exec (.pmcMark v) s = .next t ∧ lp < 512 :=
  ⟨dev, _, 2 ^ 9, 511, rfl, by decide +kernel⟩

theorem test_meets_EventFrames_5 :
    ∃ (s : State) (t : State) (r : Fin 19) (a : Fin 3277) (c : Instr), c ∈ [Instr.linkAck, .timeMessageSend a, .digestSend r] ∧ exec c
    s = .next t :=
  ⟨devPair .primary .standby id, _, 0, 0, .linkAck, .head _, rfl⟩

theorem test_meets_EventFrames_6_2 :
    ∃ (s : State) (t : State) (r : Fin 1024) (n : Fin 64) (v : BitVec 64) (j : _), exec (.dmaCircRposWrite r n v) s = .next t ∧ j ≠
    r.val :=
  ⟨devRing 1 (injectDesc 14) id, _, 1023, 0, 0, 0, rfl, by decide +kernel⟩

theorem test_meets_EventFrames_7_2 :
    ∃ (s : State) (t : State) (n : Fin 64) (d : Fin 64) (v : BitVec 64) (j : _), exec (.cabDrwRposWrite n d v) s = .next t ∧ j ≠ d.val :=
  ⟨devDrawer 63 id, _, 0, 63, 0, 0, rfl, by decide +kernel⟩

theorem test_meets_EventFrames_8_2 :
    ∃ (s : State) (t : State) (n : Fin 64) (j : _), exec (.winCommit n) s = .next t ∧ j ≠ n.val :=
  ⟨devInst 63 fun i => { i with st := .active }, _, 63, 0, rfl, by decide +kernel⟩

theorem test_meets_TtLoadRefusedDuringActivation_1a :
    ∃ (s : State) (p : Pkt) (a : Activation), s.admits 0x0100 p wfTtLoad = true ∧ s.tt.act = some a ∧ (a.phase = .armed ∨ a.phase =
    .committed ∨ a.phase = .draining) :=
  ⟨devTT fun t => { t with act := some { armed 5 with phase := .armed } }, cr 0x0100 (bytesLe 16 0),
    { armed 5 with phase := .armed }, admits_sign (by decide +kernel), by decide +kernel, .inl rfl⟩

theorem test_meets_TtLoadRefusedDuringActivation_1b :
    ∃ (s : State) (p : Pkt) (a : Activation), s.admits 0x0100 p wfTtLoad = true ∧ s.tt.act = some a ∧ (a.phase = .armed ∨ a.phase =
    .committed ∨ a.phase = .draining) :=
  ⟨devTT fun t => { t with act := some { armed 5 with phase := .committed } }, cr 0x0100 (bytesLe 16 0),
    { armed 5 with phase := .committed }, admits_sign (by decide +kernel), by decide +kernel, .inr (.inl rfl)⟩

theorem test_meets_TtLoadRefusedDuringActivation_1c :
    ∃ (s : State) (p : Pkt) (a : Activation), s.admits 0x0100 p wfTtLoad = true ∧ s.tt.act = some a ∧ (a.phase = .armed ∨ a.phase =
    .committed ∨ a.phase = .draining) :=
  ⟨devTT fun t => { t with act := some { armed 5 with phase := .draining } }, cr 0x0100 (bytesLe 16 0),
    { armed 5 with phase := .draining }, admits_sign (by decide +kernel), by decide +kernel, .inr (.inr rfl)⟩

theorem test_meets_ModeChangeNeedsPortsDown_1 :
    ∃ (s : State) (p : Pkt), s.admits 0x0300 p wfPortConfig = true ∧ fld (le (p.params.take 8)) 8 2 ≠ (s.macro_ (fld (le (p.params.take
    8)) 0 6)).mode.toNat ∧ s.macroUp (fld (le (p.params.take 8)) 0 6) = true :=
  ⟨devPort 504 fun q => { q with st := .up }, cr 0x0300 (bytesLe 8 (63 + 2 ^ 8)), admits_sign (by decide +kernel), by decide +kernel,
    by decide +kernel⟩

theorem test_meets_TimeSetFormat_1a :
    ∃ (s : State) (p : Pkt), s.admits 0x0500 p (fun _ _ => true) = true ∧ (p.params.length ≠ 40 ∨ 10 ^ 9 ≤ fld (img p.params) 80 32 ∨
    10 ^ 9 ≤ fld (img p.params) 208 32 ∨ 2 < fld (img p.params) 0 8 ∨ fld (img p.params) 8 56 ≠ 0 ∨ fld (img p.params) 160 32 ≠ 0 ∨ fld
    (img p.params) 288 32 ≠ 0) :=
  ⟨dev, cr 0x0500 (bytesLe 32 0), admits_sign (by decide +kernel), .inl (by decide +kernel)⟩

theorem test_meets_TimeSetFormat_1b :
    ∃ (s : State) (p : Pkt), s.admits 0x0500 p (fun _ _ => true) = true ∧ (p.params.length ≠ 40 ∨ 10 ^ 9 ≤ fld (img p.params) 80 32 ∨
    10 ^ 9 ≤ fld (img p.params) 208 32 ∨ 2 < fld (img p.params) 0 8 ∨ fld (img p.params) 8 56 ≠ 0 ∨ fld (img p.params) 160 32 ≠ 0 ∨ fld
    (img p.params) 288 32 ≠ 0) :=
  ⟨dev, cr 0x0500 (bytesLe 40 (10 ^ 9 * 2 ^ 80)), admits_sign (by decide +kernel), .inr (.inl (by decide +kernel))⟩

theorem test_meets_TimeSetFormat_1c :
    ∃ (s : State) (p : Pkt), s.admits 0x0500 p (fun _ _ => true) = true ∧ (p.params.length ≠ 40 ∨ 10 ^ 9 ≤ fld (img p.params) 80 32 ∨
    10 ^ 9 ≤ fld (img p.params) 208 32 ∨ 2 < fld (img p.params) 0 8 ∨ fld (img p.params) 8 56 ≠ 0 ∨ fld (img p.params) 160 32 ≠ 0 ∨ fld
    (img p.params) 288 32 ≠ 0) :=
  ⟨dev, cr 0x0500 (bytesLe 40 (2 + 10 ^ 9 * 2 ^ 208)), admits_sign (by decide +kernel), .inr (.inr (.inl (by decide +kernel)))⟩

theorem test_meets_TimeSetFormat_1d :
    ∃ (s : State) (p : Pkt), s.admits 0x0500 p (fun _ _ => true) = true ∧ (p.params.length ≠ 40 ∨ 10 ^ 9 ≤ fld (img p.params) 80 32 ∨
    10 ^ 9 ≤ fld (img p.params) 208 32 ∨ 2 < fld (img p.params) 0 8 ∨ fld (img p.params) 8 56 ≠ 0 ∨ fld (img p.params) 160 32 ≠ 0 ∨ fld
    (img p.params) 288 32 ≠ 0) :=
  ⟨dev, cr 0x0500 (bytesLe 40 3), admits_sign (by decide +kernel), .inr (.inr (.inr (.inl (by decide +kernel))))⟩

theorem test_meets_TimeSetFormat_1e :
    ∃ (s : State) (p : Pkt), s.admits 0x0500 p (fun _ _ => true) = true ∧ (p.params.length ≠ 40 ∨ 10 ^ 9 ≤ fld (img p.params) 80 32 ∨
    10 ^ 9 ≤ fld (img p.params) 208 32 ∨ 2 < fld (img p.params) 0 8 ∨ fld (img p.params) 8 56 ≠ 0 ∨ fld (img p.params) 160 32 ≠ 0 ∨ fld
    (img p.params) 288 32 ≠ 0) :=
  ⟨dev, cr 0x0500 (bytesLe 40 (2 ^ 8)), admits_sign (by decide +kernel), .inr (.inr (.inr (.inr (.inl (by decide +kernel)))))⟩

theorem test_meets_TimeSetFormat_1f :
    ∃ (s : State) (p : Pkt), s.admits 0x0500 p (fun _ _ => true) = true ∧ (p.params.length ≠ 40 ∨ 10 ^ 9 ≤ fld (img p.params) 80 32 ∨
    10 ^ 9 ≤ fld (img p.params) 208 32 ∨ 2 < fld (img p.params) 0 8 ∨ fld (img p.params) 8 56 ≠ 0 ∨ fld (img p.params) 160 32 ≠ 0 ∨ fld
    (img p.params) 288 32 ≠ 0) :=
  ⟨dev, cr 0x0500 (bytesLe 40 (2 ^ 160)), admits_sign (by decide +kernel), .inr (.inr (.inr (.inr (.inr (.inl
    (by decide +kernel))))))⟩

theorem test_meets_TimeSetFormat_1g :
    ∃ (s : State) (p : Pkt), s.admits 0x0500 p (fun _ _ => true) = true ∧ (p.params.length ≠ 40 ∨ 10 ^ 9 ≤ fld (img p.params) 80 32 ∨
    10 ^ 9 ≤ fld (img p.params) 208 32 ∨ 2 < fld (img p.params) 0 8 ∨ fld (img p.params) 8 56 ≠ 0 ∨ fld (img p.params) 160 32 ≠ 0 ∨ fld
    (img p.params) 288 32 ≠ 0) :=
  ⟨dev, cr 0x0500 (bytesLe 40 (2 ^ 288)), admits_sign (by decide +kernel), .inr (.inr (.inr (.inr (.inr (.inr
    ((by decide +kernel)))))))⟩

theorem test_meets_PpsOffsetMeasured_1a :
    ∃ (s : State) (u : State) (a : Fin 3277) (k : Int) (d : Int), s.at_ a.val = u ∧ ((∀ r, u.time.ppsLastRes = some r → secUnits ≤ 2 *
    ((u.resTime + 2 ^ 64 - r) % 2 ^ 64))) ∧ (u.stamp : Int) = k * (secUnits : Int) + d ∧ 2 * d.natAbs < secUnits :=
  ⟨devTime fun t => { t with t48 := 10 ^ 9 * 2 ^ 48 }, _, 0, 1, 0, rfl, (fun r h => nomatch (show (none : Option Nat) = some r from
    h)), by decide +kernel, by decide +kernel⟩

theorem test_meets_PpsOffsetMeasured_1b :
    ∃ (s : State) (u : State) (a : Fin 3277) (k : Int) (d : Int), s.at_ a.val = u ∧ ((∀ r, u.time.ppsLastRes = some r → secUnits ≤ 2 *
    ((u.resTime + 2 ^ 64 - r) % 2 ^ 64))) ∧ (u.stamp : Int) = k * (secUnits : Int) + d ∧ 2 * d.natAbs < secUnits :=
  ⟨devTime fun t => { t with t48 := (10 ^ 9 + 32767) * 2 ^ 48 }, _, 0, 1, 32767 * 65536, rfl, (fun r h => nomatch (show (none :
    Option Nat) = some r from h)), by decide +kernel, by decide +kernel⟩

theorem test_meets_PpsOffsetMeasured_1c :
    ∃ (s : State) (u : State) (a : Fin 3277) (k : Int) (d : Int), s.at_ a.val = u ∧ ((∀ r, u.time.ppsLastRes = some r → secUnits ≤ 2 *
    ((u.resTime + 2 ^ 64 - r) % 2 ^ 64))) ∧ (u.stamp : Int) = k * (secUnits : Int) + d ∧ 2 * d.natAbs < secUnits :=
  ⟨devTime fun t => { t with t48 := (10 ^ 9 - 32767) * 2 ^ 48 }, _, 0, 1, -(32767 * 65536), rfl, (fun r h => nomatch (show (none :
    Option Nat) = some r from h)), by decide +kernel, by decide +kernel⟩

theorem test_meets_LeavingUpClearsCredits_1_2 :
    ∃ (s : State) (lp : Fin 512) (st : PortState) (k : Nat), s.isUp lp.val = true ∧ st ≠ .up ∧ k < 16 :=
  ⟨devUp 0, 504, .an, 15, by decide +kernel, by decide +kernel, by decide +kernel⟩

theorem test_meets_LeavingUpClearsCredits_2 :
    ∃ (s : State) (lp : Fin 512), s.isUp lp.val = true :=
  ⟨devUp 0, 504, by decide +kernel⟩

theorem test_meets_CorrectionFieldSaturates_1_2a :
    ∃ (op : Nat) (off : Nat) (ts : Nat) (res : Int) (add : Int) (sum : Int) (h : List Byte), (op = 1 ∨ op = 2) ∧ ptpFits op off
    h.length = true ∧ add = (if op = 1 then ((ts % 65536 : Nat) : Int) else res) ∧ sum = sgn 64 (beAt h (off + 8) 8) + add ∧ (beAt h
    (off + 8) 8 = 0x7FFFFFFFFFFFFFFF ∨ sum < -(2 ^ 63 : Int) ∨ (2 ^ 63 - 1 : Int) < sum) :=
  ⟨2, 0, 0, 0, _, _, List.replicate 8 0 ++ bytesBe 8 (2 ^ 63 - 1) ++ List.replicate 0 0, .inr rfl, by decide +kernel, rfl, rfl, .inl
    (by decide +kernel)⟩

theorem test_meets_CorrectionFieldSaturates_1_2b :
    ∃ (op : Nat) (off : Nat) (ts : Nat) (res : Int) (add : Int) (sum : Int) (h : List Byte), (op = 1 ∨ op = 2) ∧ ptpFits op off
    h.length = true ∧ add = (if op = 1 then ((ts % 65536 : Nat) : Int) else res) ∧ sum = sgn 64 (beAt h (off + 8) 8) + add ∧ (beAt h
    (off + 8) 8 = 0x7FFFFFFFFFFFFFFF ∨ sum < -(2 ^ 63 : Int) ∨ (2 ^ 63 - 1 : Int) < sum) :=
  ⟨2, 0, 0, -1, _, _, List.replicate 8 0 ++ bytesBe 8 (2 ^ 63) ++ List.replicate 0 0, .inr rfl, by decide +kernel, rfl, rfl, .inr
    (.inl (by decide +kernel))⟩

theorem test_meets_CorrectionFieldSaturates_1_2c :
    ∃ (op : Nat) (off : Nat) (ts : Nat) (res : Int) (add : Int) (sum : Int) (h : List Byte), (op = 1 ∨ op = 2) ∧ ptpFits op off
    h.length = true ∧ add = (if op = 1 then ((ts % 65536 : Nat) : Int) else res) ∧ sum = sgn 64 (beAt h (off + 8) 8) + add ∧ (beAt h
    (off + 8) 8 = 0x7FFFFFFFFFFFFFFF ∨ sum < -(2 ^ 63 : Int) ∨ (2 ^ 63 - 1 : Int) < sum) :=
  ⟨2, 0, 0, 2, _, _, List.replicate 8 0 ++ bytesBe 8 (2 ^ 63 - 2) ++ List.replicate 0 0, .inr rfl, by decide +kernel, rfl, rfl, .inr
    (.inr (by decide +kernel))⟩

theorem test_meets_CorrectionFieldSaturates_1_3 :
    ∃ (op : Nat) (off : Nat) (ts : Nat) (res : Int) (add : Int) (sum : Int) (h : List Byte), (op = 1 ∨ op = 2) ∧ ptpFits op off
    h.length = true ∧ add = (if op = 1 then ((ts % 65536 : Nat) : Int) else res) ∧ sum = sgn 64 (beAt h (off + 8) 8) + add ∧ beAt h
    (off + 8) 8 ≠ 0x7FFFFFFFFFFFFFFF ∧ -(2 ^ 63 : Int) ≤ sum ∧ sum ≤ (2 ^ 63 - 1 : Int) :=
  ⟨1, 0, 65535, 0, _, _, List.replicate 8 0 ++ bytesBe 8 (0) ++ List.replicate 28 0, .inl rfl, by decide +kernel, rfl, rfl,
    by decide +kernel, by decide +kernel, by decide +kernel⟩

theorem test_meets_CorrectionFieldSaturates_1_4 :
    ∃ (op : Nat) (off : Nat) (ts : Nat) (res : Int) (add : Int) (sum : Int) (h : List Byte) (i : Nat), (op = 1 ∨ op = 2) ∧ ptpFits op
    off h.length = true ∧ add = (if op = 1 then ((ts % 65536 : Nat) : Int) else res) ∧ sum = sgn 64 (beAt h (off + 8) 8) + add ∧ i <
    h.length ∧ ((i < off + 8 ∨ off + 16 ≤ i)) ∧ ((op = 1 → i < off + 34 ∨ off + 44 ≤ i)) :=
  ⟨1, 0, 65535, 0, _, _, List.replicate 8 0 ++ bytesBe 8 (0) ++ List.replicate 28 0, 7, .inl rfl, by decide +kernel, rfl, rfl,
    by decide +kernel, .inl (by decide +kernel), fun _ => .inl (by decide +kernel)⟩

end Sys2Proof.Tests
end

section
/-!
Replies leave the timetable alone: one lemma for each operation on the way of a reply from the handler to its port.
-/

namespace Sys2Proof.Machine

/-- Both branches of a choice leave the same timetable, whatever decides. -/
theorem State.ite_tt {c : Prop} [Decidable c] {a b : State} {t : TTState} (ha : a.tt = t) (hb : b.tt = t) :
    (if c then a else b).tt = t := by
  split
  · exact ha
  · exact hb

/-! ### Events and writes to host memory -/

@[simp] theorem State.msix_tt (s : State) (fn vec : Nat) : (s.msix fn vec).tt = s.tt :=
  State.ite_tt rfl (State.ite_tt rfl rfl)

@[simp] theorem State.raise_tt (s : State) (src : Nat) : (s.raise src).tt = s.tt :=
  State.ite_tt (State.ite_tt rfl (State.msix_tt ..)) rfl

@[simp] theorem State.logPage_tt (s : State) (inst page : Nat) : (s.logPage inst page).tt = s.tt := by
  unfold State.logPage; dsimp only; split
  · rfl
  · split
    · simp
    · split <;> simp

theorem State.foldl_logPage_tt (s : State) (inst : Nat) (pages : List Nat) :
    (pages.foldl (fun (t : State) p => t.logPage inst p) s).tt = s.tt := by
  induction pages generalizing s with
  | nil => rfl
  | cons page rest ih => rw [List.foldl_cons, ih, State.logPage_tt]

@[simp] theorem State.hostWrite_tt (s : State) (inst a : Nat) (bs : List Byte) : (s.hostWrite inst a bs).tt = s.tt := by
  unfold State.hostWrite; split
  · rfl
  · exact State.foldl_logPage_tt ..

/-! ### Replies (15_commands R361, R362, R367) -/

@[simp] theorem State.ringReply_tt (s : State) (n : Nat) (r : Reply) : (s.ringReply n r).tt = s.tt := by
  unfold State.ringReply
  exact State.ite_tt rfl (State.ite_tt rfl (by simp))

@[simp] theorem State.mgmtStat_tt (s : State) (off n : Nat) : (s.mgmtStat off n).tt = s.tt := rfl

@[simp] theorem State.sendReplyFrame_tt (s : State) (w : Waiter) (r : Reply) : (s.sendReplyFrame w r).tt = s.tt := by
  unfold State.sendReplyFrame
  exact State.ite_tt (by simp) (by simp)

@[simp] theorem State.sendReply_tt (s : State) (w : Waiter) (r : Reply) : (s.sendReply w r).tt = s.tt := by
  unfold State.sendReply
  cases w.port <;> simp

/-- A first reply without an audit record, whether it leaves at once or waits for the standby's. -/
@[simp] theorem State.firstReply_unaudited_tt (s : State) (w : Waiter) (r : Reply) : (s.firstReply w r none).tt = s.tt := by
  unfold State.firstReply State.sendAudited
  split
  · split
    · split <;> simp
    · simp
  · simp

@[simp] theorem State.keepReply_tt (s : State) (w : Waiter) (r : Reply) : (s.keepReply w r).tt = s.tt := rfl

/-- A BUSY answer has no audit record and counts no authentication failure. -/
theorem finishCmd_busy (w : Waiter) (s : State) (e : Nat) :
    finishCmd w (busy s e) =
      (if w.port = .cp1 ∧ critical w.opcode.toNat then s.keepReply w (mkReply w.opcode 0x14 e w.tag []) else s).firstReply w
        (mkReply w.opcode 0x14 e w.tag []) none := by
  cases hc : critical w.opcode.toNat <;> simp [finishCmd, busy, hc]

@[simp] theorem finishCmd_busy_tt (w : Waiter) (s : State) (e : Nat) : (finishCmd w (busy s e)).tt = s.tt := by
  rw [finishCmd_busy, State.firstReply_unaudited_tt]
  exact State.ite_tt (State.keepReply_tt ..) rfl

/-! ### The way of a packet to its handler (15_commands R374) -/

@[simp] theorem State.unqueue_tt (s : State) (op : Nat) (p : Pkt) : (s.unqueue op p).tt = s.tt := by
  unfold State.unqueue
  cases p.port
  case cp0 => dsimp only; split <;> rfl
  case cp2 => rfl
  all_goals
    dsimp only; split
    · split <;> rfl
    · rfl

@[simp] theorem State.engineUse_tt (s : State) : s.engineUse.tt = s.tt := rfl

@[simp] theorem State.mirrorOut_tt (s : State) (op : Nat) (p : Pkt) (tN : Nat) (w : Waiter) : (s.mirrorOut op p tN w).tt = s.tt := by
  unfold State.mirrorOut; split
  · rfl
  · dsimp only; split <;> rfl

@[simp] theorem State.arrived_tt (s : State) (op : Nat) (p : Pkt) : (s.arrived op p).tt = s.tt := by
  simp [State.arrived]

@[simp] theorem State.authed_tt (s : State) (op : Nat) (p : Pkt) : (s.authed op p).tt = s.tt := by
  unfold State.authed; split <;> simp

@[simp] theorem State.accepted_tt (s : State) (op : Nat) (p : Pkt) : (s.accepted op p).tt = s.tt := by
  unfold State.accepted; dsimp only; split <;> simp

/-- The handler of a packet finds the timetable as the packet found it. -/
@[simp] theorem State.running_tt (s : State) (op : Nat) (p : Pkt) : (s.running op p).tt = s.tt := by
  simp [State.running]

/-! ### How an admitted packet ends -/

/-- An admitted packet whose handler answers BUSY. -/
theorem State.runCommand_busy {s t : State} {op e : Nat} {p : Pkt} {wf : List Byte → State → Bool} {h : Handler}
    (ha : s.admits op p wf = true) (hh : h (s.waiterOf op p) p p.params (s.running op p) = busy t e) :
    s.runCommand op p wf h = finishCmd (s.waiterOf op p) (busy t e) :=
  State.runCommand_final ha hh (by simp [busy]) (by simp [busy])

/-- An admitted packet whose handler answers BAD_LENGTH. -/
theorem State.runCommand_badLength {s t : State} {op e : Nat} {p : Pkt} {wf : List Byte → State → Bool} {h : Handler}
    (ha : s.admits op p wf = true) (hh : h (s.waiterOf op p) p p.params (s.running op p) = badLength t e) :
    s.runCommand op p wf h = finishCmd (s.waiterOf op p) (badLength t e) :=
  State.runCommand_final ha hh (by simp [badLength]) (by simp [badLength])

end Sys2Proof.Machine
end

section
/-!
TT_LOAD, TT_ACTIVATE and TT_QUERY: one equation for each case of their handlers (02_timetable R62 to R66), and the obligations about
them.
-/

namespace Sys2Proof.Machine

/-! ### TT_LOAD (02_timetable R62 to R64) -/

theorem doTtLoad_of_activation {w : Waiter} {p : Pkt} {ps : List Byte} {s : State} {a : Activation} (ha : s.tt.act = some a) :
    doTtLoad w p ps s = busy s := by
  simp [doTtLoad, ha]

/-- A chunk that starts the shadow, or that continues a LOADING one, is taken. -/
theorem doTtLoad_takes_chunk {w : Waiter} {p : Pkt} {ps b : List Byte} {s : State} (ha : s.tt.act = none)
    (hb : (leAt ps 0 4 = 0 ∧ b = ps.drop 8) ∨ (leAt ps 0 4 ≠ 0 ∧ s.tt.shadowState = .loading ∧
      leAt ps 0 4 = s.tt.shadow.length ∧ b = s.tt.shadow ++ ps.drop 8)) :
    doTtLoad w p ps s = s.chunkTaken b (bitAt (leAt ps 4 4) 0) := by
  obtain ⟨h0, rfl⟩ | ⟨h0, hl, hlen, rfl⟩ := hb
  · simp [doTtLoad, ha, h0]
  · rw [hlen] at h0
    simp [doTtLoad, ha, h0, hl, hlen]

theorem doTtLoad_of_not_loading {w : Waiter} {p : Pkt} {ps : List Byte} {s : State} (ha : s.tt.act = none) (h0 : leAt ps 0 4 ≠ 0)
    (hl : s.tt.shadowState ≠ .loading) : doTtLoad w p ps s = badLength s 0x0B := by
  simp [doTtLoad, ha, h0, hl]

theorem doTtLoad_of_gap {w : Waiter} {p : Pkt} {ps : List Byte} {s : State} (ha : s.tt.act = none) (h0 : leAt ps 0 4 ≠ 0)
    (hl : s.tt.shadowState = .loading) (hlen : leAt ps 0 4 ≠ s.tt.shadow.length) :
    doTtLoad w p ps s = badLength (s.setShadow s.tt.shadow .failed) 0x0B := by
  simp [doTtLoad, ha, h0, hl, hlen]

theorem State.chunkTaken_not_final (s : State) (b : List Byte) : s.chunkTaken b false = ok (s.setShadow b .loading) := rfl

theorem State.chunkTaken_final_passed {s : State} {b : List Byte} (hc : checkImage b = none) :
    s.chunkTaken b true = ok (s.setShadow b .checked) := by
  simp [State.chunkTaken, hc]

theorem State.chunkTaken_final_failed {s : State} {b : List Byte} {e : Nat} (hc : checkImage b = some e) :
    s.chunkTaken b true = badLength (s.setShadow b .failed) e := by
  simp [State.chunkTaken, hc]

/-- Settles O55: the handler finds the activation that the packet found and answers BUSY, and no part of a BUSY reply touches the
timetable. -/
theorem ttLoadRefusedDuringActivation : Obligations.TtLoadRefusedDuringActivation := by
  intro s p a had hact _
  have hbusy : doTtLoad (s.waiterOf 0x0100 p) p p.params (s.running 0x0100 p) = busy (s.running 0x0100 p) :=
    doTtLoad_of_activation (a := a) (by rw [State.running_tt, hact])
  have htt : (finishCmd (s.waiterOf 0x0100 p) (busy (s.running 0x0100 p))).tt = s.tt := by simp
  exact ⟨_, congrArg Host.Outcome.next (State.runCommand_busy had hbusy), rfl, congrArg TTState.shadow htt,
    congrArg TTState.shadowState htt⟩

/-- Settles O4: TT_LOAD by the cases of its offset, and TT_QUERY. -/
theorem timetableLoads : Obligations.TimetableLoads := by
  refine ⟨?chunk, ?wrongOffset, ?query⟩
  case chunk =>
    rintro s u p b had rfl ha hb
    have htake : doTtLoad (s.waiterOf 0x0100 p) p p.params (s.running 0x0100 p) =
        (s.running 0x0100 p).chunkTaken b (bitAt (leAt p.params 4 4) 0) := doTtLoad_takes_chunk ha hb
    constructor
    · intro hflag
      rw [hflag] at htake
      exact congrArg Host.Outcome.next (State.runCommand_ok had (htake.trans (State.chunkTaken_not_final ..)))
    · intro hflag
      rw [hflag] at htake
      refine congrArg Host.Outcome.next ?_
      cases hc : checkImage b with
      | none => exact State.runCommand_ok had (htake.trans (State.chunkTaken_final_passed hc))
      | some e => exact State.runCommand_badLength had (htake.trans (State.chunkTaken_final_failed hc))
  case wrongOffset =>
    rintro s u p had rfl ha h0
    constructor
    · intro hl hlen
      exact congrArg Host.Outcome.next (State.runCommand_badLength had (doTtLoad_of_gap ha h0 hl hlen))
    · intro hl
      exact congrArg Host.Outcome.next (State.runCommand_badLength had (doTtLoad_of_not_loading ha h0 hl))
  case query =>
    intro s p had
    exact congrArg Host.Outcome.next (State.runCommand_ok (h := doTtQuery) had rfl)

/-! ### TT_ACTIVATE (02_timetable R65, R66) -/

theorem doTtActivateAt_cancel {w : Waiter} {p : Pkt} {ps : List Byte} {s : State} (tn : Option Nat) (hm : fld (img ps) 0 2 = 2) :
    doTtActivateAt tn w p ps s = s.cancelActivation := by
  simp [doTtActivateAt, hm]

/-- A WARM or COLD activation that passes the checks of Table 2.13 is armed. -/
theorem doTtActivateAt_arms {w : Waiter} {p : Pkt} {ps : List Byte} {s : State} {mode : Nat} (hm : fld (img ps) 0 2 = mode)
    (h2 : mode ≠ 2) (he : s.activationError (mode = 0) (s.resolveRound ps) (sliceAt ps 16 16) = none) :
    doTtActivateAt none w p ps s = pendingReply { s with
      tt := { s.tt with
        act := some {
          phase := .armed
          n := BitVec.ofNat 64 (s.resolveRound ps)
          warm := decide (mode = 0)
          waiter := w
          headsDrained := false } } } := by
  subst hm
  simp [doTtActivateAt, h2, he]

/-- CANCEL takes back an armed activation while its target lies more than four rounds ahead. -/
theorem State.cancelActivation_armed {s : State} {a : Activation} (hs : s.flt.safe = false) (hg : s.flt.graceEnd = none)
    (ha : s.tt.act = some a) (hp : a.phase = .armed) (hn : s.tt.round.toNat + 4 < a.n.toNat) :
    s.cancelActivation =
      ok (({ s with tt := { s.tt with act := none } } : State).complete a.waiter 0x14 0x0C []) := by
  simp [State.cancelActivation, hs, hg, ha, hp, hn]

theorem State.ttActivate_arms {s : State} {p : Pkt} {mode : Nat} (h2 : mode ≠ 2)
    (had : s.admits 0x0101 (forceOp p 0 2 mode) wfTtActivate = true) (hm : fld (img (forceOp p 0 2 mode).params) 0 2 = mode)
    (he : (s.running 0x0101 (forceOp p 0 2 mode)).activationError (mode = 0)
      ((s.running 0x0101 (forceOp p 0 2 mode)).resolveRound (forceOp p 0 2 mode).params)
      (sliceAt (forceOp p 0 2 mode).params 16 16) = none) :
    s.ttActivate mode p =
      s.endsPending 0x0101 (forceOp p 0 2 mode)
        { s.running 0x0101 (forceOp p 0 2 mode) with
          tt := { (s.running 0x0101 (forceOp p 0 2 mode)).tt with
            act := some {
              phase := .armed
              n := BitVec.ofNat 64 ((s.running 0x0101 (forceOp p 0 2 mode)).resolveRound (forceOp p 0 2 mode).params)
              warm := decide (mode = 0)
              waiter := s.waiterOf 0x0101 (forceOp p 0 2 mode)
              headsDrained := false } } } :=
  State.runCommand_pending had (doTtActivateAt_arms hm h2 he)

/-- Settles O5: WARM and COLD share the arming, and CANCEL its own case. -/
theorem activationStarts : Obligations.ActivationStarts := by
  constructor
  · intro s p mode c hc had hm he
    simp only [List.mem_cons, Prod.mk.injEq, List.not_mem_nil, or_false] at hc
    obtain ⟨rfl, rfl⟩ | ⟨rfl, rfl⟩ := hc
    · exact congrArg Host.Outcome.next (State.ttActivate_arms (by decide) had hm he)
    · exact congrArg Host.Outcome.next (State.ttActivate_arms (by decide) had hm he)
  · intro s p a had hm hs hg ha hp hn
    exact congrArg Host.Outcome.next (State.runCommand_ok had
      ((doTtActivateAt_cancel none hm).trans (State.cancelActivation_armed hs hg ha hp hn)))

end Sys2Proof.Machine
end

section
/-!
The events of an activation (02_timetable R66 to R68): what each does when its moment has come.
-/

namespace Sys2Proof.Machine

/-- The image and the activation after the switch of every island: the new image in force, the old one kept, and the changed ports of
the new image still to switch (02_timetable R67, R68). -/
def switchedTimetable (t : TTState) (a : Activation) : TTState :=
  let changed := (List.finRange 512).filter fun lp => bitAt (portSwitch t.shadow lp.val) 31
  { t with
    old := t.active, active := some t.shadow, act := some { a with phase := .draining }, switchRound := some a.n,
    broken := brokenPipes (if a.warm then t.active else none) t.shadow,
    brokenPorts := brokenPorts (if a.warm then t.active else none) t.shadow,
    unswitched := changed, inWindow := changed }

theorem switchedTimetable_unswitched (t : TTState) (a : Activation) :
    (switchedTimetable t a).unswitched = (List.finRange 512).filter fun lp => bitAt (portSwitch t.shadow lp.val) 31 := by
  simp only [switchedTimetable]

theorem State.activationCommit_armed {s : State} {a : Activation} (ha : s.tt.act = some a) (hp : a.phase = .armed)
    (hn : a.n.toNat ≤ s.tt.round.toNat + 4) :
    s.activationCommit = { s with tt := { s.tt with act := some { a with phase := .committed } } } := by
  simp [State.activationCommit, ha, hp, hn]

theorem State.activationSwitch_due {s : State} {a : Activation} (ha : s.tt.act = some a) (hp : a.phase ≠ .draining)
    (hn : a.n.toNat ≤ s.tt.round.toNat) :
    s.activationSwitch = ({ s with
      tt := switchedTimetable s.tt a
      flow := { s.flow with
        inPass := s.flow.inPass.map fun x => (x.1, x.2.1, markOld x.2.2)
        arb := s.flow.arb.map fun x => { x with frame := markOld x.frame } } } : State).settleModes := by
  simp [State.activationSwitch, switchedTimetable, ha, hp, hn]

theorem State.activationDrained_done {s : State} {a : Activation} (ha : s.tt.act = some a) (hp : a.phase = .draining)
    (ho : s.oldHeads = false) (hu : s.tt.unswitched = []) :
    s.activationDrained = ({ s with tt := { s.tt with act := none, old := none } } : State).complete a.waiter 0 0 [] := by
  simp [State.activationDrained, ha, hp, ho, hu]

theorem State.switchPosition_reached {s : State} {lp : Fin 512} (hm : lp ∈ s.tt.unswitched) (hr : s.switchReached lp = true) :
    s.switchPosition lp = (s.reach (s.switchInstant lp.val)).endSwitch lp := by
  simp [State.switchPosition, hm, hr]

theorem State.endSwitch_of_empty {s : State} {lp : Fin 512} (he : s.fifoEmpty lp = true) :
    s.endSwitch lp = { s with tt := { s.tt with
      unswitched := s.tt.unswitched.filter (· != lp), inWindow := s.tt.inWindow.filter (· != lp) } } :=
  if_pos he

theorem State.endSwitch_of_waiting {s : State} {lp : Fin 512} (he : s.fifoEmpty lp = false) :
    s.endSwitch lp = { s with tt := { s.tt with unswitched := s.tt.unswitched.filter (· != lp) } } :=
  if_neg (Bool.eq_false_iff.1 he)

@[simp] theorem State.reach_flow (s : State) (d : Nat) : (s.reach d).flow = s.flow := rfl

theorem State.fifoEmpty_reach (s : State) (d : Nat) (lp : Fin 512) : (s.reach d).fifoEmpty lp = s.fifoEmpty lp := by
  simp [State.fifoEmpty]

theorem State.windowClosed_switched {s : State} {lp : Fin 512} (hw : lp ∈ s.tt.inWindow) (hu : lp ∉ s.tt.unswitched)
    (he : s.fifoEmpty lp = true) :
    s.windowClosed lp = { s with tt := { s.tt with inWindow := s.tt.inWindow.filter (· != lp) } } := by
  simp [State.windowClosed, hw, hu, he]

/-- Settles O6: each event when its moment has come. -/
theorem activationRuns : Obligations.ActivationRuns := by
  refine ⟨?commit, ?switch, ?drained, ?position, ?close⟩
  case commit =>
    intro s a ha hp hn
    exact congrArg Host.Outcome.next (State.activationCommit_armed ha hp hn)
  case switch =>
    intro s a ha hp hn
    exact ⟨_, congrArg Host.Outcome.next (State.activationSwitch_due ha hp hn), rfl, rfl, rfl,
      switchedTimetable_unswitched s.tt a, rfl, rfl, rfl⟩
  case drained =>
    intro s a ha hp ho hu
    exact congrArg Host.Outcome.next (State.activationDrained_done ha hp ho hu)
  case position =>
    rintro s u lp hm hr rfl
    constructor
    · intro he
      exact congrArg Host.Outcome.next ((State.switchPosition_reached hm hr).trans
        (State.endSwitch_of_empty ((State.fifoEmpty_reach ..).trans he)))
    · intro he
      exact congrArg Host.Outcome.next ((State.switchPosition_reached hm hr).trans
        (State.endSwitch_of_waiting ((State.fifoEmpty_reach ..).trans he)))
  case close =>
    intro s lp hw hu he
    exact congrArg Host.Outcome.next (State.windowClosed_switched hw hu he)

end Sys2Proof.Machine
end

section
/-!
The hand-off, the feed decision, body cells and the arbiter's windows: one equation for each case (02_timetable R44; 09_feeds R233 to
R243; 10_buffer R251, R253).
-/

namespace Sys2Proof.Machine

/-! ### Feed decisions (09_feeds R233, R235, R238) -/

/-- No frame of the pipeline waits: a decision window does nothing (the model's choice, log entry 104). -/
theorem State.feedDecision_none {s : State} {p : Nat} (h : s.flow.arb.find? (fun h => h.pipe == p && h.index.isSome) = none) :
    s.feedDecision p = s := by
  simp [State.feedDecision, h]

/-- The oldest waiting frame's window lies in a later round: nothing is decided (the model's choice, log entry 104). -/
theorem State.feedDecision_later {s : State} {p : Nat} {h : StageHead}
    (hh : s.flow.arb.find? (fun h => h.pipe == p && h.index.isSome) = some h) (hr : s.tt.round.toNat < h.index.getD 0 / 1024) :
    s.feedDecision p = s := by
  simp [State.feedDecision, hh, hr]

theorem State.feedDecision_due {s : State} {p : Nat} {h : StageHead}
    (hh : s.flow.arb.find? (fun h => h.pipe == p && h.index.isSome) = some h) (hr : h.index.getD 0 / 1024 ≤ s.tt.round.toNat) :
    s.feedDecision p =
      ((s.at_ (bufferAt8 (h.index.getD 0 / 2 - s.tt.round.toNat * 512))).decideUpTo (h.index.getD 0 + 1)).leaveStage := by
  simp [State.feedDecision, hh, Nat.not_lt.2 hr]

/-- The frame of a waiting head as its decision leaves it: it names its feed, its first message, the messages that count, and the
epoch. -/
def State.decidedFrame (s : State) (h : StageHead) : Frame :=
  let f := s.withBody h.frame
  let a := s.feedDecide f.cw.feedId f.cw.fields
  { f with feed := some (f.cw.feedId, BitVec.ofNat 64 (f.cw.fields % 2 ^ 64),
      if a.accepted then feedCount (s.feedCfg f.cw.feedId) f.cw.fields else 0, (a.st.feed f.cw.feedId).epoch) }

theorem State.decideFeed_discards {s : State} {h : StageHead} {f : Frame} {a : FeedAnswer} (hf : s.withBody h.frame = f)
    (ha : s.feedDecide f.cw.feedId f.cw.fields = a) (hp : a.pass = false) :
    s.decideFeed h = (a.st.modStage f.id fun _ => none).feedDiscard (s.decidedFrame h) := by
  subst hf ha
  exact if_neg (Bool.eq_false_iff.1 hp)

theorem State.decideFeed_passes {s : State} {h : StageHead} {f : Frame} {a : FeedAnswer} (hf : s.withBody h.frame = f)
    (ha : s.feedDecide f.cw.feedId f.cw.fields = a) (hp : a.pass = true) :
    s.decideFeed h = (a.st.modBody f.id fun b => { b with feed := (s.decidedFrame h).feed }).modStage f.id fun h' =>
      some { h' with frame := s.decidedFrame h, decided := true } := by
  subst hf ha
  exact if_pos hp

/-! ### Body cells (10_buffer R251) -/

section BodyCells
variable {s u : State} {lp cycle bank : Nat} {f : Frame}

theorem State.bodyCell_idle (hu : s.at_ (bufferAt8 cycle) = u) (ha : u.arriving lp = none) : s.bodyCell lp cycle bank = u := by
  simp [State.bodyCell, hu, ha]

/-- A cell that its frame's refusal, its place as the last one or the window keeps out is not written. -/
theorem State.bodyCell_kept_out (hu : s.at_ (bufferAt8 cycle) = u) (ha : u.arriving lp = some f)
    (hk : f.refused = true ∨ u.windowOk cycle bank 2 lp = false ∨ f.cellCount ≤ f.bodyCells + 2) : s.bodyCell lp cycle bank = u := by
  have hno : ¬(f.refused = false ∧ f.bodyCells + 2 < f.cellCount ∧ u.windowOk cycle bank 2 lp = true) := by
    rintro ⟨hr, hl, hw⟩
    rcases hk with h | h | h
    · simp [hr] at h
    · simp [hw] at h
    · omega
  simp [State.bodyCell, hu, ha, hno]

theorem State.bodyCell_writes (hu : s.at_ (bufferAt8 cycle) = u) (ha : u.arriving lp = some f) (hr : f.refused = false)
    (hw : u.windowOk cycle bank 2 lp = true) (hl : f.bodyCells + 2 < f.cellCount) :
    s.bodyCell lp cycle bank = (u.writeBody f bank).getD u := by
  simp [State.bodyCell, hu, ha, hr, hw, hl]

theorem State.lastCell_idle (hu : s.at_ (bufferAt8 cycle) = u) (ha : u.arriving lp = none) : s.lastCell lp cycle bank = u := by
  simp [State.lastCell, hu, ha]

theorem State.lastCell_refused (hu : s.at_ (bufferAt8 cycle) = u) (ha : u.arriving lp = some f) (hr : f.refused = true) :
    s.lastCell lp cycle bank = (u.resolveCandidates f).bodyOver f.id := by
  simp [State.lastCell, hu, ha, hr]

/-- A last cell that comes before the others, or outside a window, is not written. -/
theorem State.lastCell_kept_out (hu : s.at_ (bufferAt8 cycle) = u) (ha : u.arriving lp = some f) (hr : f.refused = false)
    (hk : u.windowOk cycle bank 2 lp = false ∨ f.bodyCells + 2 < f.cellCount) : s.lastCell lp cycle bank = u := by
  have hno : ¬(f.cellCount ≤ f.bodyCells + 2 ∧ u.windowOk cycle bank 2 lp = true) := by
    rintro ⟨hl, hw⟩
    rcases hk with h | h
    · simp [hw] at h
    · omega
  simp [State.lastCell, hu, ha, hr, hno]

theorem State.lastCell_of_full_bank (hu : s.at_ (bufferAt8 cycle) = u) (ha : u.arriving lp = some f)
    (hr : f.refused = false) (hb : u.writeBody f bank = none) : s.lastCell lp cycle bank = u := by
  simp [State.lastCell, hu, ha, hr, hb]

theorem State.lastCell_writes (hu : s.at_ (bufferAt8 cycle) = u) (ha : u.arriving lp = some f) (hr : f.refused = false)
    (hw : u.windowOk cycle bank 2 lp = true) (hl : f.cellCount ≤ f.bodyCells + 2) {v : State}
    (hb : u.writeBody f bank = some v) : s.lastCell lp cycle bank = (v.resolveCandidates f).lastStored f := by
  simp [State.lastCell, hu, ha, hr, hw, hl, hb]

end BodyCells

/-! ### The arbiter's windows (09_feeds R234, R241, R243) -/

/-- A service window that has passed does nothing (the model's choice, log entry 107). -/
theorem State.revocation_passed {s : State} {k : Nat} (h : s.tt.round.toNat * 64 + k < s.arb.serviceWin) : s.revocation k = s :=
  if_pos h

theorem State.revocation_in_window {s u : State} {k : Nat} (h : s.arb.serviceWin ≤ s.tt.round.toNat * 64 + k)
    (hu : ({ s with arb := { s.arb with serviceWin := s.tt.round.toNat * 64 + k + 1 } } : State).at_ (bufferAt8 (serviceCycle k)) = u) :
    (u.arb.revs = [] → s.revocation k = u) ∧
    (∀ r rest, u.arb.revs = r :: rest →
      s.revocation k = ({ u with arb := { u.arb with revs := rest } } : State).revoke r) := by
  constructor
  · intro hr
    simp [State.revocation, Nat.not_lt.2 h, hu, hr]
  · intro r rest hr
    simp [State.revocation, Nat.not_lt.2 h, hu, hr]

/-- A scan window that has passed does nothing (the model's choice, log entry 107). -/
theorem State.gapScan_passed {s : State} {k : Nat} (h : s.tt.round.toNat * 128 + k < s.arb.scanWin) : s.gapScan k = s :=
  if_pos h

theorem State.gapScan_in_window {s u v : State} {k : Nat} (h : s.arb.scanWin ≤ s.tt.round.toNat * 128 + k)
    (hu : ({ s with arb := { s.arb with scanWin := s.tt.round.toNat * 128 + k + 1 } } : State).at_ (bufferAt8 (scanCycle k)) = u)
    (hv : { u with arb := { u.arb with scanNext := u.arb.scanNext + 1 } } = v) :
    (v.reportsGaps = false → s.gapScan k = v) ∧
    (v.reportsGaps = true → s.gapScan k =
      ((v.feed u.arb.scanNext.val).gaps.filter fun g =>
        decide (fld (u.feedCfg u.arb.scanNext.val) 32 16 * 1000 * 65536 ≤ (v.resTime + 2 ^ 64 - g.openedRes) % 2 ^ 64)).foldl
          (fun (t : State) g => t.freeGap u.arb.scanNext.val g 1) v) := by
  subst hu hv
  constructor
  · intro hr
    exact (if_neg (Nat.not_lt.2 h)).trans (if_pos (by rw [hr]; rfl))
  · intro hr
    exact (if_neg (Nat.not_lt.2 h)).trans (if_neg (by rw [hr]; decide))

/-! ### The obligation -/

/-- Settles O43: the hand-off as it is defined, and each of the other events by its cases. -/
theorem headsAndBodiesAreStored : Obligations.HeadsAndBodiesAreStored := by
  refine ⟨?handOff, ?decision, ?decide, ?cells, ?revocation, ?scan⟩
  case handOff =>
    -- The statement names the stages of `State.handOff` in their order.
    rintro s _ _ cycle bad _ _ rfl rfl rfl rfl
    rfl
  case decision =>
    intro s p
    refine ⟨fun h => congrArg Host.Outcome.next (State.feedDecision_none h), fun h hh => ⟨fun hr => ?_, fun hr => ?_⟩⟩
    · exact congrArg Host.Outcome.next (State.feedDecision_later hh hr)
    · exact congrArg Host.Outcome.next (State.feedDecision_due hh hr)
  case decide =>
    rintro s h _ _ rfl rfl
    exact ⟨s.decidedFrame h, rfl, rfl, rfl, State.decideFeed_discards rfl rfl, State.decideFeed_passes rfl rfl⟩
  case cells =>
    intro s u lp cycle bank hu
    refine ⟨fun ha => ⟨?_, ?_⟩, fun f ha => ⟨?refused, ?noWindow, ?early, ?last⟩⟩
    · exact congrArg Host.Outcome.next (State.bodyCell_idle hu ha)
    · exact congrArg Host.Outcome.next (State.lastCell_idle hu ha)
    case refused =>
      intro hr
      exact ⟨congrArg Host.Outcome.next (State.bodyCell_kept_out hu ha (.inl hr)),
        congrArg Host.Outcome.next (State.lastCell_refused hu ha hr)⟩
    case noWindow =>
      intro hr hw
      exact ⟨congrArg Host.Outcome.next (State.bodyCell_kept_out hu ha (.inr (.inl hw))),
        congrArg Host.Outcome.next (State.lastCell_kept_out hu ha hr (.inl hw))⟩
    case early =>
      intro hr hw hl
      exact ⟨congrArg Host.Outcome.next (State.bodyCell_writes hu ha hr hw hl),
        congrArg Host.Outcome.next (State.lastCell_kept_out hu ha hr (.inr hl))⟩
    case last =>
      intro hr hw hl
      exact ⟨congrArg Host.Outcome.next (State.bodyCell_kept_out hu ha (.inr (.inr hl))),
        fun hb => congrArg Host.Outcome.next (State.lastCell_of_full_bank hu ha hr hb),
        fun v hb => congrArg Host.Outcome.next (State.lastCell_writes hu ha hr hw hl hb)⟩
  case revocation =>
    intro s k
    refine ⟨fun h => congrArg Host.Outcome.next (State.revocation_passed h), fun u h hu => ?_⟩
    obtain ⟨hnone, holdest⟩ := State.revocation_in_window h hu
    exact ⟨fun hr => congrArg Host.Outcome.next (hnone hr), fun r rest hr => congrArg Host.Outcome.next (holdest r rest hr)⟩
  case scan =>
    intro s k
    refine ⟨fun h => congrArg Host.Outcome.next (State.gapScan_passed h), fun u v h hu hv => ?_⟩
    obtain ⟨hquiet, hreports⟩ := State.gapScan_in_window h hu hv
    exact ⟨fun hr => congrArg Host.Outcome.next (hquiet hr), fun hr => congrArg Host.Outcome.next (hreports hr)⟩

end Sys2Proof.Machine
end

section
/-!
The interior of the device: what neither the way of a packet to its handler nor the way of a reply to its port touches. Two states with
one interior agree on each of its parts.
-/

namespace Sys2Proof.Machine

/-- A state with every part that packets, events and replies work on as the reset leaves it. -/
def State.interior (s : State) : State :=
  { s with
    off8 := 0, mgmt := State.reset.mgmt, cmd := State.reset.cmd, host := State.reset.host, insts := [], mirror := State.reset.mirror
    evts := [], pmc := State.reset.pmc, out := [] }

theorem State.ports_of_interior {s t : State} (h : t.interior = s.interior) : t.ports = s.ports := by
  injection h
theorem State.macros_of_interior {s t : State} (h : t.interior = s.interior) : t.macros = s.macros := by
  injection h

/-- Both branches of a choice leave the same interior, whatever decides. -/
theorem State.ite_interior {c : Prop} [Decidable c] {a b t : State} (ha : a.interior = t) (hb : b.interior = t) :
    (if c then a else b).interior = t := by
  split
  · exact ha
  · exact hb

/-- What every step of a run over a list leaves as it is, the run leaves as it is. -/
theorem foldl_invariant {α β γ : Type} {f : α → β → α} {π : α → γ} (h : ∀ a b, π (f a b) = π a) (a : α) (l : List β) :
    π (l.foldl f a) = π a :=
  (List.foldl_hom (g₂ := fun c _ => c) π fun a b => (h a b).symm).symm.trans (List.foldl_fixed _)

/-! ### Events, replies and writes to host memory (15_commands R361, R362, R367; 20_faults R492) -/

@[simp] theorem State.modEvt_interior (s : State) (k : Nat) (f : EvtSrc → EvtSrc) : (s.modEvt k f).interior = s.interior := rfl
@[simp] theorem State.modFn_interior (s : State) (n : Nat) (f : FnCfg → FnCfg) : (s.modFn n f).interior = s.interior := rfl
@[simp] theorem State.modInst_interior (s : State) (n : Nat) (f : Inst → Inst) : (s.modInst n f).interior = s.interior := rfl
@[simp] theorem State.modCmdRing_interior (s : State) (n : Nat) (f : CmdRing → CmdRing) :
    (s.modCmdRing n f).interior = s.interior := rfl
@[simp] theorem State.modKey_interior (s : State) (k : Nat) (f : KeySlot → KeySlot) : (s.modKey k f).interior = s.interior := rfl
@[simp] theorem State.mgmtStat_interior (s : State) (off n : Nat) : (s.mgmtStat off n).interior = s.interior := rfl
@[simp] theorem State.emit_interior (s : State) (o : Out) : (s.emit o).interior = s.interior := rfl

@[simp] theorem State.msix_interior (s : State) (fn vec : Nat) : (s.msix fn vec).interior = s.interior :=
  State.ite_interior rfl (State.ite_interior (by simp) (by simp))

@[simp] theorem State.raise_interior (s : State) (src : Nat) : (s.raise src).interior = s.interior := by
  unfold State.raise
  exact State.ite_interior (State.ite_interior (by simp) (by simp)) (by simp)

@[simp] theorem State.logPage_interior (s : State) (inst page : Nat) : (s.logPage inst page).interior = s.interior := by
  unfold State.logPage; dsimp only; split
  · rfl
  · exact State.ite_interior (by simp) (State.ite_interior rfl (by simp))

@[simp] theorem State.hostWrite_interior (s : State) (inst a : Nat) (bs : List Byte) :
    (s.hostWrite inst a bs).interior = s.interior := by
  unfold State.hostWrite
  exact State.ite_interior rfl (foldl_invariant (fun t page => t.logPage_interior inst page) _ _)

@[simp] theorem State.ringReply_interior (s : State) (n : Nat) (r : Reply) : (s.ringReply n r).interior = s.interior := by
  unfold State.ringReply
  exact State.ite_interior rfl (State.ite_interior (by simp) (by simp))

@[simp] theorem State.sendReplyFrame_interior (s : State) (w : Waiter) (r : Reply) :
    (s.sendReplyFrame w r).interior = s.interior := by
  unfold State.sendReplyFrame
  exact State.ite_interior (by simp) (by simp)

@[simp] theorem State.sendReply_interior (s : State) (w : Waiter) (r : Reply) : (s.sendReply w r).interior = s.interior := by
  unfold State.sendReply
  cases w.port <;> simp

/-- A first reply without an audit record, whether it leaves at once or waits for the standby's. -/
theorem State.firstReply_unaudited_interior (s : State) (w : Waiter) (r : Reply) :
    (s.firstReply w r none).interior = s.interior := by
  unfold State.firstReply State.sendAudited
  split
  · exact State.ite_interior (State.ite_interior (State.sendReply_interior ..) rfl) (State.sendReply_interior ..)
  · exact State.sendReply_interior ..

theorem finishCmd_busy_interior (w : Waiter) (s : State) (e : Nat) : (finishCmd w (busy s e)).interior = s.interior := by
  rw [finishCmd_busy, State.firstReply_unaudited_interior]
  exact State.ite_interior rfl rfl

/-! ### The way of a packet to its handler (15_commands R374) -/

theorem State.unqueue_interior (s : State) (op : Nat) (p : Pkt) : (s.unqueue op p).interior = s.interior := by
  unfold State.unqueue
  split
  · exact State.ite_interior rfl rfl
  · split
    · exact State.ite_interior rfl rfl
    · rfl
  · split
    · exact State.ite_interior rfl rfl
    · rfl
  · rfl

theorem State.arrived_interior (s : State) (op : Nat) (p : Pkt) : (s.arrived op p).interior = s.interior :=
  State.unqueue_interior (s.at_ p.at8.val) op p

theorem State.authed_interior (s : State) (op : Nat) (p : Pkt) : (s.authed op p).interior = s.interior :=
  State.ite_interior (State.arrived_interior ..) (State.arrived_interior ..)

theorem State.accepted_interior (s : State) (op : Nat) (p : Pkt) : (s.accepted op p).interior = s.interior :=
  State.ite_interior (State.authed_interior ..) (State.authed_interior ..)

theorem State.mirrorOut_interior (s : State) (op : Nat) (p : Pkt) (tN : Nat) (w : Waiter) :
    (s.mirrorOut op p tN w).interior = s.interior := by
  unfold State.mirrorOut
  split
  · rfl
  · exact State.ite_interior rfl rfl

/-- The handler of a packet finds the interior as the packet found it. -/
theorem State.running_interior (s : State) (op : Nat) (p : Pkt) : (s.running op p).interior = s.interior :=
  (State.mirrorOut_interior ..).trans (State.accepted_interior ..)

/-- A packet answered BUSY leaves the interior as it found it. -/
theorem State.busy_running_interior (s : State) (op : Nat) (p : Pkt) (e : Nat) :
    (finishCmd (s.waiterOf op p) (busy (s.running op p) e)).interior = s.interior :=
  (finishCmd_busy_interior ..).trans (State.running_interior ..)

end Sys2Proof.Machine
end

section
/-!
PORT_CONFIG, PORT_STATUS and STATS_READ, one equation for each case of their handlers, and the line ports after a cold reset (04_line R97
to R99, R115; 22_board R524, Table 22.11).
-/

namespace Sys2Proof.Machine

/-! ### The handlers -/

/-- Which of the macros PORT_CONFIG names. -/
def cfgMacro (ps : List Byte) : Nat := fld (le (ps.take 8)) 0 6
/-- The mode that PORT_CONFIG names. -/
def cfgMode (ps : List Byte) : Nat := fld (le (ps.take 8)) 8 2

/-- PORT_CONFIG carried out in full: the header, the port blocks in order, the island. -/
def State.configured (s : State) (ps : List Byte) : State :=
  ((portBlocks ps).foldl (fun (u : State) x => u.applyBlock (lpOf (cfgMacro ps) (cfgMode ps) x.1) (le x.2))
    (s.applyHeader (cfgMacro ps) (cfgMode ps) (BitVec.ofNat 8 (byteAt ps 3)) (BitVec.ofNat 8 (byteAt ps 4)))).settleIsland (cfgMacro ps)

section PortConfig
variable {w : Waiter} {p : Pkt} {ps : List Byte} {s : State}

/-- Another mode is refused while one of the ports is UP (04_line R98). -/
theorem doPortConfig_of_macroUp (hm : cfgMode ps ≠ (s.macro_ (cfgMacro ps)).mode.toNat) (hu : s.macroUp (cfgMacro ps) = true) :
    doPortConfig w p ps s = busy s := by
  unfold cfgMode cfgMacro at *
  simp [doPortConfig, hm, hu]

theorem doPortConfig_applies (hc : p.cancelAt = none) (hcal : s.calibrating (cfgMacro ps) = false)
    (hm : cfgMode ps = (s.macro_ (cfgMacro ps)).mode.toNat ∨ (s.macroUp (cfgMacro ps) = false ∧ s.tt.act = none)) :
    doPortConfig w p ps s = ok (s.configured ps) := by
  have hfree : ((cfgMode ps != (s.macro_ (cfgMacro ps)).mode.toNat && (s.macroUp (cfgMacro ps) || s.tt.act.isSome)) ||
      s.calibrating (cfgMacro ps)) = false := by
    rcases hm with hm | ⟨hu, ha⟩
    · simp [hm, hcal]
    · simp [hu, ha, hcal]
  have hall : (portBlocks ps).take (max 1 (portBlocks ps).length) = portBlocks ps := List.take_of_length_le (le_max_right ..)
  unfold State.configured cfgMode cfgMacro at *
  simp [doPortConfig, hfree, hc, unitsDone, hall]

end PortConfig

/-- STATS_READ of a port (04_line R115). -/
theorem doStatsRead_port {w : Waiter} {p : Pkt} {ps : List Byte} {s : State} (h : queryPort ps ≠ 512) :
    doStatsRead w p ps s = if bitAt (img ps) 16 then
        ok s (statsBytes (s.port (queryPort ps)).statsSnap (s.port (queryPort ps)).statsSnapNo.toNat)
      else ok (s.modPort (queryPort ps) fun q => { q with stats := [] }) (statsBytes (s.port (queryPort ps)).stats 0) :=
  if_neg h

/-- STATS_READ of the device counters (04_line R115). -/
theorem doStatsRead_device {w : Waiter} {p : Pkt} {ps : List Byte} {s : State} (h : queryPort ps = 512) :
    doStatsRead w p ps s = if bitAt (img ps) 16 then ok s (statsBytes s.mgmt.statsSnap s.mgmt.snapNo.toNat)
      else ok { s with mgmt := { s.mgmt with stats := [] } } (statsBytes s.mgmt.stats 0) :=
  if_pos h

/-- Settles O12: each handler by its cases. -/
theorem portCommandsComplete : Obligations.PortCommandsComplete := by
  refine ⟨?config, ?status, ?port, ?device⟩
  case config =>
    intro s p had hc hcal hm
    exact congrArg Host.Outcome.next (State.runCommand_ok had (doPortConfig_applies hc hcal hm))
  case status =>
    intro s p had
    exact congrArg Host.Outcome.next (State.runCommand_ok had rfl)
  case port =>
    intro s p had hq
    have hh := fun w u => doStatsRead_port (w := w) (p := p) (s := u) hq
    refine congrArg Host.Outcome.next ?_
    split
    case isTrue hsnap => exact State.runCommand_ok had ((hh ..).trans (if_pos hsnap))
    case isFalse hlive => exact State.runCommand_ok had ((hh ..).trans (if_neg hlive))
  case device =>
    intro s p had hq
    have hh := fun w u => doStatsRead_device (w := w) (p := p) (s := u) hq
    refine congrArg Host.Outcome.next ?_
    split
    case isTrue hsnap => exact State.runCommand_ok had ((hh ..).trans (if_pos hsnap))
    case isFalse hlive => exact State.runCommand_ok had ((hh ..).trans (if_neg hlive))

/-! ### The line ports after a cold reset -/

theorem State.bootFlash_ports (s : State) (b : Board) : (s.bootFlash b).ports = s.ports ∧ (s.bootFlash b).macros = s.macros := by
  unfold State.bootFlash
  split <;> exact ⟨rfl, rfl⟩

theorem State.bootIslands_ports (s : State) : s.bootIslands.ports = s.ports ∧ s.bootIslands.macros = s.macros := by
  unfold State.bootIslands State.startTraining
  split <;> exact ⟨rfl, rfl⟩

/-- The events for the larger DIMMs leave the ports alone. -/
theorem State.foldl_raise_interior (s : State) (least : Nat) (gs : List Nat) :
    (gs.foldl (fun (t : State) g => if least < g then t.raise 1283 else t) s).interior = s.interior :=
  foldl_invariant (fun t _ => State.ite_interior (State.raise_interior t 1283) rfl) s gs

theorem State.bootDram_ports (s : State) (ds : List Dimm) : (s.bootDram ds).ports = s.ports ∧ (s.bootDram ds).macros = s.macros := by
  unfold State.bootDram
  dsimp only
  generalize (List.range 16).map _ = found
  rw [State.ports_of_interior (State.foldl_raise_interior ..), State.macros_of_interior (State.foldl_raise_interior ..)]
  exact ⟨foldl_invariant (π := State.ports) (fun t (x : Nat × Dimm) => t.modChan_ports x.1 fun _ => chanOfDimm x.2) s _,
    foldl_invariant (π := State.macros) (fun t (x : Nat × Dimm) => t.modChan_macros x.1 fun _ => chanOfDimm x.2) s _⟩

/-- A cold reset leaves the ports and the macros as the reset state has them (22_board Table 22.11). -/
theorem State.coldReset_ports (s : State) (b : Board) : (s.coldReset b).ports = [] ∧ (s.coldReset b).macros = [] := by
  have hflash := ((s.powerCycle).bootMonitors b).bootFlash_ports b
  unfold State.coldReset
  dsimp only
  split
  · exact ⟨rfl, rfl⟩
  · split
    · exact hflash
    · have hdram := State.bootDram_ports
      have hislands := State.bootIslands_ports
      exact ⟨(hdram ..).1.trans ((hislands _).1.trans hflash.1), (hdram ..).2.trans ((hislands _).2.trans hflash.2)⟩

/-! ### PORT_CONFIG while a port is UP -/

theorem State.macro_of_interior {s t : State} (h : t.interior = s.interior) (m : Nat) : t.macro_ m = s.macro_ m :=
  congrArg (tget Macro.init · m) (State.macros_of_interior h)

theorem State.macroUp_of_interior {s t : State} (h : t.interior = s.interior) (m : Nat) : t.macroUp m = s.macroUp m := by
  simp only [State.macroUp, State.isUp, State.port, State.ports_of_interior h]

/-- Settles O56: the handler finds ports and macros as the packet found them and answers BUSY, and no part of a BUSY reply touches them; a
cold reset leaves the tables of ports and macros empty, and an entry that is not listed reads as its reset value. -/
theorem modeChangeNeedsPortsDown : Obligations.ModeChangeNeedsPortsDown := by
  constructor
  · intro s p had hm hu
    have hrun := s.running_interior 0x0300 p
    have hbusy : doPortConfig (s.waiterOf 0x0300 p) p p.params (s.running 0x0300 p) = busy (s.running 0x0300 p) :=
      doPortConfig_of_macroUp (by rwa [State.macro_of_interior hrun]) (by rwa [State.macroUp_of_interior hrun])
    have hend := s.busy_running_interior 0x0300 p 0
    exact ⟨_, congrArg Host.Outcome.next (State.runCommand_busy had hbusy), rfl, State.ports_of_interior hend,
      State.macros_of_interior hend⟩
  · intro s b
    obtain ⟨hports, hmacros⟩ := s.coldReset_ports b
    refine ⟨_, rfl, fun m lp => ?_⟩
    simp only [State.port, State.macro_, hports, hmacros]
    exact ⟨rfl, rfl, rfl⟩

end Sys2Proof.Machine
end

section
/-!
Bring-up, loss of the link, low power, and the power of the port islands: one equation for each case of each event (04_line R94 to R96,
R117, Table 4.3; 03_islands R88), and the obligations about them.
-/

namespace Sys2Proof.Machine

/-! ### Bring-up (04_line R94, Table 4.3; 02_timetable R70) -/

section Bringup
variable {s : State} {lp : Nat}

theorem State.bringupDone_waking (h : (s.port lp).st = .waking) (hi : s.islandDown (macroOf lp) = false)
    (hs : (s.macro_ (macroOf lp)).serdesUp = true) : s.bringupDone lp true = s.lanesOn lp := by
  simp [State.bringupDone, h, hi, hs]

theorem State.bringupDone_an (h : (s.port lp).st = .an) :
    s.bringupDone lp true = s.setPortState lp (if bitAt (s.port lp).cfg 13 then .training else .align) := by
  simp [State.bringupDone, h]

theorem State.bringupDone_training (h : (s.port lp).st = .training) (ok : Bool) :
    s.bringupDone lp ok = if ok then s.setPortState lp .align else s.fallBack lp := by
  simp [State.bringupDone, h]

theorem State.bringupDone_align (h : (s.port lp).st = .align) :
    s.bringupDone lp true = s.setPortState lp (if s.planAgrees (macroOf lp) then .up else .modeBlocked) := by
  simp [State.bringupDone, h]

theorem State.alignTimeout_due {u : State} (h : (s.port lp).st = .align) (hd : s.due ((s.port lp).alignAt + 10 * msPs) = true)
    (hu : (s.reach ((s.port lp).alignAt + 10 * msPs)).fallBack lp = u) :
    s.alignTimeout lp = u.modPort lp fun p => { p with lastChange := u.tt.round, alignAt := u.nowPs } := by
  subst hu
  exact if_pos ⟨h, hd⟩

theorem State.linkLoss_of_up (h : s.isUp lp = true) : s.linkLoss lp = s.fallBack lp := if_pos h

/-- A port that its wake detector brought up falls back to LOW_POWER (04_line R117). -/
theorem State.fallBack_woken (h : (s.port lp).woken = true) :
    s.fallBack lp = ((s.leaveUp lp .lowPower false).modPort lp fun p =>
      { p with woken := false, wakeArmed := true, wakeFired := false, lanesUp := false }).settleIsland (macroOf lp) :=
  if_pos h

theorem State.fallBack_not_woken (h : (s.port lp).woken = false) : s.fallBack lp = s.bringup lp :=
  if_neg (Bool.eq_false_iff.1 h)

/-- Where all is up and the mode agrees with PORT_PLAN, nothing keeps a port from the first state of its bring-up (04_line R94). -/
theorem State.bringup_of_working (hp : (s.macro_ (macroOf lp)).pllFault = false) (hsh : (s.macro_ (macroOf lp)).shed = false)
    (hi : s.islandDown (macroOf lp) = false) (hs : (s.macro_ (macroOf lp)).serdesUp = true) (hl : (s.port lp).lanesUp = true)
    (ha : s.planAgrees (macroOf lp) = true) : s.bringup lp = s.leaveUp lp (firstBringup (s.port lp).cfg) false := by
  simp [State.bringup, hp, hsh, hi, hs, hl, ha]

end Bringup

/-- Settles O13: each event by the state of its port, and the fall-back by what brought the port up. That ALIGN_TIMEOUT renews the round
of the last change is the model's choice (log entry 58). -/
theorem bringupRuns : Obligations.BringupRuns := by
  refine ⟨?waking, ?an, ?training, ?align, ?timeout, ?loss, ?woken, ?other⟩
  case waking =>
    intro s lp h hi hs
    exact congrArg Host.Outcome.next (State.bringupDone_waking h hi hs)
  case an =>
    intro s lp h
    exact congrArg Host.Outcome.next (State.bringupDone_an h)
  case training =>
    intro s lp h
    exact ⟨congrArg Host.Outcome.next (State.bringupDone_training h true),
      congrArg Host.Outcome.next (State.bringupDone_training h false)⟩
  case align =>
    intro s lp h
    exact congrArg Host.Outcome.next (State.bringupDone_align h)
  case timeout =>
    intro s u lp h hd hu
    exact congrArg Host.Outcome.next (State.alignTimeout_due h hd hu)
  case loss =>
    intro s lp h
    exact congrArg Host.Outcome.next (State.linkLoss_of_up h)
  case woken =>
    intro s lp h
    exact State.fallBack_woken h
  case other =>
    intro s lp h hp hsh hi hs hl ha
    exact (State.fallBack_not_woken h).trans (State.bringup_of_working hp hsh hi hs hl ha)

/-! ### FEC counts, the wake detector and the islands (04_line R96, R117; 03_islands R88) -/

/-- The four counts of a FEC interval added to the port counters (04_line R96, Table 4.8). -/
def State.fecCounted (s : State) (lp symbols cw bad blocks : Nat) : State :=
  (((s.stat lp 0x1A8 symbols).stat lp 0x198 cw).stat lp 0x1A0 bad).stat lp 0x1B0 blocks

section Power
variable {s : State} {lp : Nat}

theorem State.fecCheck_of_up (h : s.isUp lp = true) (symbols cw bad blocks : Nat) :
    s.fecCheck lp symbols cw bad blocks =
      let c := s.fecCounted lp symbols cw bad blocks
      let limit := c.pcfg lp 176 16 * 1024
      let d := c.modPort lp fun q => { q with degraded := decide (0 < limit) && decide (limit < symbols) }
      if 0 < limit ∧ limit < symbols ∧ (c.port lp).degraded = false then d.portEvent lp else d := by
  unfold State.fecCheck State.fecCounted
  simp [h, and_assoc]

theorem State.wakeDetect_armed (h : (s.port lp).st = .lowPower) (ha : (s.port lp).wakeArmed = true)
    (hc : (s.port lp).calRun = none) :
    s.wakeDetect lp =
      let d := (s.modPort lp fun q => { q with wakeArmed := false, wakeFired := true }).portEvent lp
      if bitAt (s.port lp).cfg 2 then (d.modPort lp fun q => { q with woken := true }).bringup lp else d :=
  if_pos ⟨h, ha, by rw [hc]; rfl⟩

theorem State.wakeRearm_fired (h : (s.port lp).st = .lowPower) (hf : (s.port lp).wakeFired = true)
    (hc : (s.port lp).calRun = none) :
    s.wakeRearm lp = s.modPort lp fun q => { q with wakeArmed := true, wakeFired := false } :=
  if_pos ⟨h, hf, by rw [hc]; rfl⟩

/-- An island that a port or a calibration run needs comes up, outside the safe state of THERMAL_TRIP (03_islands R88). -/
theorem State.islandUp_needed {m : Nat} (hsafe : s.flt.safe = false ∨ s.flt.thermtripN = false)
    (hneed : s.islandNeeded m = true ∨ s.calibrating m = true) :
    s.islandUp m = ({ s with tt := { s.tt with
      islandsDown := s.tt.islandsDown.filter fun k => k.val != m
      pllLost := s.tt.pllLost.filter fun i => i.val != 16 + m } } : State).wakePorts m := by
  have hgo : ¬((s.flt.safe ∧ s.flt.thermtripN) ∨ (!s.islandNeeded m ∧ !s.calibrating m)) := by
    rintro (⟨h1, h2⟩ | ⟨h1, h2⟩)
    · simp [h1, h2] at hsafe
    · rw [Bool.not_eq_true'] at h1 h2
      simp [h1, h2] at hneed
  exact if_neg hgo

end Power

/-- Settles O14: each event by its one case. -/
theorem portPowerRuns : Obligations.PortPowerRuns := by
  refine ⟨?fec, ?wake, ?rearm, ?island⟩
  case fec =>
    intro s lp sy cw bad be h
    exact congrArg Host.Outcome.next (State.fecCheck_of_up h sy cw bad be)
  case wake =>
    intro s lp h ha hc
    exact congrArg Host.Outcome.next (State.wakeDetect_armed h ha hc)
  case rearm =>
    intro s lp h hf hc
    exact congrArg Host.Outcome.next (State.wakeRearm_fired h hf hc)
  case island =>
    intro s m hsafe hneed
    exact congrArg Host.Outcome.next (State.islandUp_needed hsafe hneed)

end Sys2Proof.Machine
end

section
/-!
PAUSE_TAKE_EFFECT in a state whose table of ports lists a port twice (04_line R111): the obligation about pauses ranges over every table,
and not over those in canonical form (`twf`) alone.
-/

namespace Sys2Proof.Machine

/-- A port with one received pause of a kind on its way, of zero quanta, and nothing else set. -/
def pausedPort (k : Nat) : Port := { Port.init with pause := [(k, { PauseState.init with coming := [(0, 0)] })] }

/-- A state whose table of ports lists port 0 twice: not a canonical table, but a state all the same. -/
def twiceListed : State := { State.reset with ports := [(0, pausedPort 0), (0, pausedPort 1)] }

/-- Taking the pause of kind 0 makes the first entry a default one, which is removed; the second entry is then read, and its pause of
kind 1 is taken as well. -/
theorem twiceListed_pauseTake_ports : (twiceListed.pauseTake 0).ports = [] := by decide

/-- The clause's answer leaves the second entry. -/
theorem twiceListed_modPause_ports :
    ((twiceListed.reach 0).modPause 0 0 fun w =>
      { w.take (quantumPs (twiceListed.modeOf 0)) (0, 0) with coming := w.coming.filter fun y => y != (0, 0) }).ports =
      [(0, pausedPort 1)] := by decide

/-- Refutes O15: PAUSE_TAKE_EFFECT of a port on which one pause is due. The statement ranges over every table of ports; in
`twiceListed` port 0 reads as one with a pause of kind 0 due and no other, and the event also takes the pause of kind 1 of the entry that
comes to light. -/
theorem not_pauseRuns : ¬ Obligations.PauseRuns := by
  rintro ⟨-, -, htakes, -⟩
  have hothers : ∀ k < 9, k ≠ (0 : Fin 9).val →
      (tget PauseState.init (twiceListed.port (0 : Fin 512).val).pause k).coming = [] := by decide
  have hnext := htakes twiceListed 0 0 (0, 0) hothers (by decide) (by decide)
  have hports : (twiceListed.pauseTake 0).ports = [(0, pausedPort 1)] :=
    (congrArg State.ports (Host.Outcome.next.inj hnext)).trans twiceListed_modPause_ports
  rw [twiceListed_pauseTake_ports] at hports
  exact List.cons_ne_nil _ _ hports.symm

end Sys2Proof.Machine
end

section
/-!
A received frame up to the waiting heads of its pipeline: one equation for each case of FRAME_RECEIVE and HEAD_RELEASE (04_line R100, R535;
02_timetable R34, R35).
-/

namespace Sys2Proof.Machine

section Receive
variable {s : State} {lp : Fin 512} {w : List Byte}

theorem State.receive_of_down (h : s.isUp lp.val = false) : s.receive lp w = s := by
  simp [State.receive, h]

theorem State.receive_safe (h : s.isUp lp.val = true) (hs : s.flt.safe = true) :
    s.receive lp w = { s with flt := { s.flt with safeDiscard := s.flt.safeDiscard + 1 } } := by
  simp [State.receive, h, hs]

theorem State.receive_runt (h : s.isUp lp.val = true) (hs : s.flt.safe = false) (hw : w.length < 64) :
    s.receive lp w = s.stat lp.val 0x038 := by
  simp [State.receive, h, hs, hw]

/-- The octets of a frame that the MAC takes: all of them, or the first max_frame (04_line R535). -/
def State.takenLen (s : State) (lp : Fin 512) (w : List Byte) : Nat :=
  if decide (s.maxFrame lp.val < w.length) then s.maxFrame lp.val else w.length

/-- The octets that the MAC takes of a frame, without the last four. -/
def State.takenData (s : State) (lp : Fin 512) (w : List Byte) : List Byte := w.take (s.takenLen lp w - 4)

/-- The last four of the octets that the MAC takes, where the FCS stands. -/
def State.takenFcs (s : State) (lp : Fin 512) (w : List Byte) : BitVec 32 :=
  BitVec.ofNat 32 (le ((w.drop (s.takenLen lp w - 4)).take 4))

/-- What the MAC finds of the frame's end. -/
def State.fcsCheck (s : State) (lp : Fin 512) (w : List Byte) : FcsCheck :=
  let long := decide (s.maxFrame lp.val < w.length)
  { tooLong := long, ok := !long && s.takenFcs lp w == crc32 (s.takenData lp w)
    stomped := !long && s.takenFcs lp w == ~~~ crc32 (s.takenData lp w) }

/-- A frame of 64 octets or more at a port that is UP: each row of 04_line Table 4.6, by what the MAC finds of the frame's end. -/
theorem State.receive_checked (h : s.isUp lp.val = true) (hs : s.flt.safe = false) (hw : 64 ≤ w.length) :
    s.receive lp w =
      let c := s.fcsCheck lp w
      let data := s.takenData lp w
      let len := s.takenLen lp w
      if len ≤ 256 ∧ !c.ok then s.countBad lp.val c
      else if s.filtered lp.val data then (if c.ok then s.stat lp.val 0x048 else s.countBad lp.val c)
      else if beAt data 12 2 = 0x8808 then (if c.ok then s.macControl lp.val data len else s.countBad lp.val c)
      else (if c.ok then s.countGood lp.val data len else s.countBad lp.val c).acceptFrame lp data len c (s.takenFcs lp w) := by
  unfold State.receive
  exact (if_neg (by simp [h])).trans ((if_neg (by simp [hs])).trans (if_neg (Nat.not_lt.2 hw)))

/-- A frame with a correct FCS: filtered, MAC control, or accepted (04_line R535). -/
theorem State.receive_good (h : s.isUp lp.val = true) (hs : s.flt.safe = false) (hw : 64 ≤ w.length)
    (hok : (s.fcsCheck lp w).ok = true) :
    s.receive lp w =
      if s.filtered lp.val (s.takenData lp w) then s.stat lp.val 0x048
      else if beAt (s.takenData lp w) 12 2 = 0x8808 then s.macControl lp.val (s.takenData lp w) (s.takenLen lp w)
      else (s.countGood lp.val (s.takenData lp w) (s.takenLen lp w)).acceptFrame lp (s.takenData lp w) (s.takenLen lp w)
        (s.fcsCheck lp w) (s.takenFcs lp w) := by
  simp [State.receive_checked h hs hw, hok]

/-- A frame with another FCS: counted by its faults, and beyond 256 octets accepted unless it is filtered or MAC control
(04_line R535). -/
theorem State.receive_bad (h : s.isUp lp.val = true) (hs : s.flt.safe = false) (hw : 64 ≤ w.length)
    (hbad : (s.fcsCheck lp w).ok = false) :
    s.receive lp w =
      if s.takenLen lp w ≤ 256 ∨ s.filtered lp.val (s.takenData lp w) ∨ beAt (s.takenData lp w) 12 2 = 0x8808 then
        s.countBad lp.val (s.fcsCheck lp w)
      else (s.countBad lp.val (s.fcsCheck lp w)).acceptFrame lp (s.takenData lp w) (s.takenLen lp w)
        (s.fcsCheck lp w) (s.takenFcs lp w) := by
  by_cases hl : s.takenLen lp w ≤ 256
  · simp [State.receive_checked h hs hw, hbad, hl]
  · simp only [State.receive_checked h hs hw, hbad, hl, ite_or, Bool.not_false, and_true, if_false, Bool.false_eq_true]

end Receive

section Release
variable {s : State} {lp : Fin 512} {cycle : Nat} {f : Frame} {rest : List Frame}

theorem State.releaseHead_due (hf : takeFirst (fun f => f.lp == lp) s.flow.rx = (some f, rest))
    (hd : s.due (s.crossing f (s.absCycle cycle) * 400) = true) :
    s.releaseHead lp cycle =
      let u := s.reach (s.crossing f (s.absCycle cycle) * 400)
      { u with flow := { u.flow with rx := rest, waiting := u.flow.waiting ++ [(f, s.crossing f (s.absCycle cycle))] } } := by
  simp [State.releaseHead, hf, hd]

theorem State.releaseHead_later (hf : takeFirst (fun f => f.lp == lp) s.flow.rx = (some f, rest))
    (hd : s.due (s.crossing f (s.absCycle cycle) * 400) = false) : s.releaseHead lp cycle = s := by
  simp [State.releaseHead, hf, hd]

end Release

end Sys2Proof.Machine
end

section
/-!
The slots of a pipeline: one equation for each case of HEAD_SLOT, RECIRC_PASS and INJECT_SLOT (02_timetable R33 to R46, R67, R68;
20_faults R488), and the obligation about frames up to their pass.
-/

namespace Sys2Proof.Machine

/-! ### Slots of a logical port -/

/-- The port whose old-image slot this is goes by the timetable alone. -/
theorem State.oldOwner_congr {s t : State} (h : t.tt = s.tt) (p slot : Nat) : t.oldOwner p slot = s.oldOwner p slot := by
  unfold State.oldOwner State.switchedAt
  rw [h]

/-- A slot that the active image gives to a port, the port's switch position taken into account. -/
def State.newSlot (s : State) (p slot lp cycle : Nat) (img : List Byte) (up : Upsets) : State :=
  if s.flt.safe then s.idleSlot p false
  else if s.tt.unswitched.any (·.val == lp) ∨ s.withheld p slot then s.idleSlot p (s.headAt lp cycle).1.isSome
  else s.portSlot p slot lp false img up

section NewSlot
variable {s : State} {p slot lp cycle : Nat} {img : List Byte} {up : Upsets}

theorem State.newSlot_safe (h : s.flt.safe = true) : s.newSlot p slot lp cycle img up = s.idleSlot p false := if_pos h

theorem State.newSlot_held (h : s.flt.safe = false) (hk : s.tt.unswitched.any (·.val == lp) = true ∨ s.withheld p slot = true) :
    s.newSlot p slot lp cycle img up = s.idleSlot p (s.headAt lp cycle).1.isSome := by
  simp only [State.newSlot, h, hk, if_true, if_false, Bool.false_eq_true]

theorem State.newSlot_enters (h : s.flt.safe = false) (hu : s.tt.unswitched.any (·.val == lp) = false)
    (hw : s.withheld p slot = false) : s.newSlot p slot lp cycle img up = s.portSlot p slot lp false img up := by
  simp only [State.newSlot, h, hu, hw, or_self, if_false, Bool.false_eq_true]

end NewSlot

section HeadSlot
variable {s u v y : State} {p slot lp : Nat} {up : Upsets} {img o : List Byte}

/-- The slot of a changed port in the old image, before its switch position (02_timetable R68). -/
theorem State.headSlot_old (hu : s.at_ (cycleAt8 (slot / 2)) = u) (ha : u.tt.active = some img) (hb : u.beginSlot p slot = some v)
    (hy : v.settlePasses p ((u.tt.round.toNat * 2048 + slot) / 2) = y) (ht : y.tt = u.tt) (hown : u.oldOwner p slot = some lp)
    (ho : u.tt.old = some o) : s.headSlot p slot up = y.portSlot p slot lp true o up := by
  have hyown : y.oldOwner p slot = some lp := (State.oldOwner_congr ht ..).trans hown
  have hyo : y.tt.old = some o := by rw [ht, ho]
  simp [State.headSlot, hu, ha, hb, hy, hown, hyown, hyo]

/-- The slot of a port in the active image (02_timetable R33, R67). -/
theorem State.headSlot_new (hu : s.at_ (cycleAt8 (slot / 2)) = u) (ha : u.tt.active = some img) (hb : u.beginSlot p slot = some v)
    (hy : v.settlePasses p ((u.tt.round.toNat * 2048 + slot) / 2) = y) (ht : y.tt = u.tt) (hown : u.oldOwner p slot = none)
    (htyp : fld (slotEntry img p slot) 0 3 = 1) :
    s.headSlot p slot up = (y.passSwitch (fld (slotEntry img p slot) 3 9) (u.tt.round.toNat * 2048 + slot)).newSlot p slot
      (fld (slotEntry img p slot) 3 9) ((u.tt.round.toNat * 2048 + slot) / 2) img up := by
  have hyown : y.oldOwner p slot = none := (State.oldOwner_congr ht ..).trans hown
  simp [State.headSlot, State.newSlot, hu, ha, hb, hy, htyp, hyown]

theorem State.headSlot_passed (hu : s.at_ (cycleAt8 (slot / 2)) = u) (hb : u.beginSlot p slot = none) :
    s.headSlot p slot up = u := by
  cases ha : u.tt.active <;> simp [State.headSlot, hu, hb, ha]

end HeadSlot

/-! ### Recirculation and injection slots -/

section OwnSlot
variable {s u v : State} {p slot e : Nat} {up : Upsets} {img : List Byte} {x : Nat × Frame} {rest : List (Nat × Frame)}

theorem State.ownSlot_passed {types : List Nat} (hb : u.beginSlot p slot = none) : u.ownSlot p slot types = none := by
  cases ha : u.tt.active <;> simp [State.ownSlot, hb, ha]

theorem State.recircSlot_none (h : (s.at_ (cycleAt8 (slot / 2))).ownSlot p slot [2] = none) :
    s.recircSlot p slot up = s.at_ (cycleAt8 (slot / 2)) := by
  simp [State.recircSlot, h]

theorem State.recircSlot_empty (h : (s.at_ (cycleAt8 (slot / 2))).ownSlot p slot [2] = some (v, img, e))
    (hx : takeFirst (fun x => x.1 == p) v.flow.recirc = (none, rest)) : s.recircSlot p slot up = v.idleSlot p false := by
  simp [State.recircSlot, h, hx]

/-- A recirculation slot whose pipeline has a queued head (02_timetable R45; 20_faults R488). -/
theorem State.recircSlot_head (h : (s.at_ (cycleAt8 (slot / 2))).ownSlot p slot [2] = some (v, img, e))
    (hx : takeFirst (fun x => x.1 == p) v.flow.recirc = (some x, rest)) :
    s.recircSlot p slot up =
      if v.flt.safe then v.idleSlot p false
      else if v.withheld p slot then v.idleSlot p true
      else ({ v with flow := { v.flow with recirc := rest } } : State).enterSlot p (v.tt.round.toNat * 2048 + slot) 0x003
        (fld e 12 2) img x.2 up := by
  simp [State.recircSlot, h, hx]

theorem State.injectSlot_none (h : (s.at_ (cycleAt8 (slot / 2))).ownSlot p slot [3, 4] = none) :
    s.injectSlot p slot up = s.at_ (cycleAt8 (slot / 2)) := by
  simp [State.injectSlot, h]

theorem State.injectSlot_empty (h : (s.at_ (cycleAt8 (slot / 2))).ownSlot p slot [3, 4] = some (v, img, e))
    (hx : v.injectHead p (fld e 0 3) = (none, rest)) : s.injectSlot p slot up = v.idleSlot p false := by
  simp [State.injectSlot, h, hx]

/-- The head taken from the injection queue, its ring remembered when the slot serves the slow path (17_host R425). -/
def State.injectTaken (s : State) (p typ : Nat) (f : Frame) (rest : List (Nat × Frame)) : State :=
  { s with flow := { s.flow with
    inject := rest
    injectLast := match f.inj with
      | some j => if typ = 3 then tset 1024 s.flow.injectLast p j.ring else s.flow.injectLast
      | none => s.flow.injectLast } }

theorem State.injectTaken_slowPath {f : Frame} {j : InjectMeta} (hj : f.inj = some j) :
    s.injectTaken p 3 f rest =
      { s with flow := { s.flow with inject := rest, injectLast := tset 1024 s.flow.injectLast p j.ring } } := by
  simp [State.injectTaken, hj]

theorem State.injectTaken_replay {f : Frame} : s.injectTaken p 4 f rest = { s with flow := { s.flow with inject := rest } } := by
  cases hj : f.inj <;> simp [State.injectTaken, hj]

/-- An injection slot whose pipeline has a head of the slot's type (02_timetable R46, R67; 20_faults R488). -/
theorem State.injectSlot_head (h : (s.at_ (cycleAt8 (slot / 2))).ownSlot p slot [3, 4] = some (v, img, e))
    (hx : v.injectHead p (fld e 0 3) = (some x, rest)) :
    s.injectSlot p slot up =
      if v.flt.safe then v.idleSlot p false
      else if v.withheld p slot ∨ v.coldHold then v.idleSlot p true
      else
        let t := v.injectTaken p (fld e 0 3) x.2 rest
        t.enterSlot p (v.tt.round.toNat * 2048 + slot) (if fld e 0 3 = 3 then 0x004 else 0x005) (fld e 12 2) img
          { x.2 with data := t.readFrame x.2.id x.2.data } up := by
  unfold State.injectSlot
  simp only [h, hx]
  rfl

end OwnSlot

/-! ### The obligation -/

/-- Settles O42: each event by its cases. That the counts of a frame are taken at FRAME_RECEIVE (log entry 80), that a COLD activation holds
injection heads (log entry 81) and that a slot that is past does nothing (log entries 47 and 104) are the model's choices. -/
theorem framesEnterThePasses : Obligations.FramesEnterThePasses := by
  refine ⟨?receive, ?release, ?head, ?recirc, ?inject, ?past⟩
  case receive =>
    rintro s _ lp w a rfl
    refine ⟨fun h => congrArg Host.Outcome.next (State.receive_of_down h),
      fun h hs => congrArg Host.Outcome.next (State.receive_safe h hs),
      fun h hs => ⟨fun hw => congrArg Host.Outcome.next (State.receive_runt h hs hw), ?_⟩⟩
    rintro _ _ _ _ _ hw rfl rfl rfl rfl rfl
    refine ⟨fun hok hf => ?filtered, fun hok hf hc => ?control, fun hok hf hc => ?good, fun hbad hk => ?bad,
      fun hbad hl hf hc => ?long⟩
    case filtered => exact congrArg Host.Outcome.next ((State.receive_good h hs hw hok).trans (if_pos hf))
    case control =>
      exact congrArg Host.Outcome.next ((State.receive_good h hs hw hok).trans ((if_neg (Bool.eq_false_iff.1 hf)).trans (if_pos hc)))
    case good =>
      exact congrArg Host.Outcome.next ((State.receive_good h hs hw hok).trans ((if_neg (Bool.eq_false_iff.1 hf)).trans (if_neg hc)))
    case bad => exact congrArg Host.Outcome.next ((State.receive_bad h hs hw hbad).trans (if_pos hk))
    case long =>
      refine congrArg Host.Outcome.next ((State.receive_bad h hs hw hbad).trans (if_neg ?_))
      rintro (h1 | h1 | h1)
      · exact absurd h1 (Nat.not_le.2 hl)
      · exact absurd h1 (Bool.eq_false_iff.1 hf)
      · exact hc h1
  case release =>
    intro s lp cycle f rest hf
    constructor
    · rintro _ hd rfl
      exact congrArg Host.Outcome.next (State.releaseHead_due hf hd)
    · intro hd
      exact congrArg Host.Outcome.next (State.releaseHead_later hf hd)
  case head =>
    intro s u v y w p slot up img hu ha hb hy ht
    constructor
    · intro lp o hown ho
      exact congrArg Host.Outcome.next (State.headSlot_old hu ha hb hy ht hown ho)
    · rintro _ hown htyp rfl rfl
      have hnew := State.headSlot_new (up := up) hu ha hb hy ht hown htyp
      exact ⟨fun hs => congrArg Host.Outcome.next (hnew.trans (State.newSlot_safe hs)),
        fun hs hk => congrArg Host.Outcome.next (hnew.trans (State.newSlot_held hs hk)),
        fun hs hn hw => congrArg Host.Outcome.next (hnew.trans (State.newSlot_enters hs hn hw))⟩
  case recirc =>
    intro s v p slot up img e h
    refine ⟨fun rest hx => congrArg Host.Outcome.next (State.recircSlot_empty h hx), fun x rest hx => ?_⟩
    have hhead := State.recircSlot_head (up := up) h hx
    refine ⟨fun hs => congrArg Host.Outcome.next (hhead.trans (if_pos hs)), fun hs hw => ?_, fun hs hw => ?_⟩
    · exact congrArg Host.Outcome.next (hhead.trans ((if_neg (Bool.eq_false_iff.1 hs)).trans (if_pos hw)))
    · exact congrArg Host.Outcome.next (hhead.trans ((if_neg (Bool.eq_false_iff.1 hs)).trans (if_neg (Bool.eq_false_iff.1 hw))))
  case inject =>
    intro s v p slot up img e h
    refine ⟨fun rest hx => congrArg Host.Outcome.next (State.injectSlot_empty h hx), fun x rest hx => ?_⟩
    have hhead := State.injectSlot_head (up := up) h hx
    refine ⟨fun hs => congrArg Host.Outcome.next (hhead.trans (if_pos hs)), fun hs hk => ?held, ?slowPath, ?replay⟩
    case held => exact congrArg Host.Outcome.next (hhead.trans ((if_neg (Bool.eq_false_iff.1 hs)).trans (if_pos hk)))
    case slowPath =>
      rintro _ j hs hw hc htyp hj rfl
      simp only [hs, hw, hc, htyp, State.injectTaken_slowPath hj, Bool.false_eq_true, or_self, if_false, if_true] at hhead
      exact congrArg Host.Outcome.next hhead
    case replay =>
      rintro _ hs hw hc htyp rfl
      simp only [hs, hw, hc, htyp, State.injectTaken_replay, Bool.false_eq_true, or_self, if_false] at hhead
      exact congrArg Host.Outcome.next hhead
  case past =>
    rintro s _ p slot up rfl hb
    exact ⟨congrArg Host.Outcome.next (State.headSlot_passed rfl hb),
      congrArg Host.Outcome.next (State.recircSlot_none (State.ownSlot_passed hb)),
      congrArg Host.Outcome.next (State.injectSlot_none (State.ownSlot_passed hb))⟩

end Sys2Proof.Machine
end

section
/-!
Octets written over a string: what reads back at the same place and at another, and how a correction saturates (05_time R143 to R147).
-/

namespace Sys2Proof.Machine

/-! ### Octets of a string and of a part of it -/

@[simp] theorem patch_length (bs new : List Byte) (off : Nat) : (patch bs off new).length = bs.length := by
  simp only [patch, List.length_take, List.length_append, List.length_drop]
  omega

/-- What lies within the string is written whole, and nothing is cut. -/
theorem patch_of_fits {bs new : List Byte} {off : Nat} (h : off + new.length ≤ bs.length) :
    patch bs off new = bs.take off ++ new ++ bs.drop (off + new.length) :=
  List.take_of_length_le (by simp only [List.length_append, List.length_take, List.length_drop]; omega)

theorem getD_patch_outside {bs new : List Byte} {off i : Nat} (h : off + new.length ≤ bs.length)
    (hi : i < off ∨ off + new.length ≤ i) : (patch bs off new).getD i 0 = bs.getD i 0 := by
  rw [patch_of_fits h, List.append_assoc]
  obtain hi | hi := hi
  · simp [List.getElem?_append, show i < min off bs.length by omega, show i < bs.length by omega]
  · simp [List.getElem?_append, show ¬i < min off bs.length by omega, show ¬i - min off bs.length < new.length by omega,
      show off + new.length + (i - min off bs.length - new.length) = i by omega]

theorem getD_patch_inside {bs new : List Byte} {off i : Nat} (h : off + new.length ≤ bs.length) (hi : i < new.length) :
    (patch bs off new).getD (off + i) 0 = new.getD i 0 := by
  rw [patch_of_fits h, List.append_assoc]
  simp [List.getElem?_append, show ¬off + i < min off bs.length by omega, show off + i - min off bs.length = i by omega, hi]

@[simp] theorem sliceAt_length (bs : List Byte) (off n : Nat) : (sliceAt bs off n).length = n := by
  simp only [sliceAt, List.length_append, List.length_take, List.length_drop, List.length_replicate]
  omega

theorem getD_sliceAt {bs : List Byte} {off n i : Nat} (h : i < n) : (sliceAt bs off n).getD i 0 = bs.getD (off + i) 0 := by
  by_cases hin : off + i < bs.length
  · simp [sliceAt, h, hin, show i < bs.length - off by omega]
  · simp [sliceAt, List.getElem?_append, hin, List.getElem?_replicate, show ¬i < bs.length - off by omega]
    split <;> simp

/-- Strings of one length that hold the same octets are equal. -/
theorem eq_of_getD {a b : List Byte} (hl : a.length = b.length) (h : ∀ i < b.length, a.getD i 0 = b.getD i 0) : a = b :=
  List.ext_getElem hl fun i ha hb => by simpa [ha, hb] using h i hb

theorem sliceAt_patch_same {bs new : List Byte} {off : Nat} (h : off + new.length ≤ bs.length) :
    sliceAt (patch bs off new) off new.length = new :=
  eq_of_getD (by simp) fun _ hi => (getD_sliceAt hi).trans (getD_patch_inside h hi)

theorem sliceAt_patch_apart {bs new : List Byte} {off a n : Nat} (h : off + new.length ≤ bs.length)
    (ha : a + n ≤ off ∨ off + new.length ≤ a) : sliceAt (patch bs off new) a n = sliceAt bs a n :=
  eq_of_getD (by simp) fun i hi => by
    have hin : i < n := by simpa using hi
    rw [getD_sliceAt hin, getD_sliceAt hin, getD_patch_outside h (by omega)]

theorem byteAt_patch_outside {bs new : List Byte} {off i : Nat} (h : off + new.length ≤ bs.length)
    (hi : i < off ∨ off + new.length ≤ i) : byteAt (patch bs off new) i = byteAt bs i :=
  congrArg BitVec.toNat (getD_patch_outside h hi)

/-- A number written in network order reads back. -/
theorem beAt_patch_same {bs : List Byte} {off n v : Nat} (h : off + n ≤ bs.length) (hv : v < 256 ^ n) :
    beAt (patch bs off (bytesBe n v)) off n = v := by
  have hs := sliceAt_patch_same (bs := bs) (new := bytesBe n v) (off := off) (by simpa using h)
  rw [bytesBe_length] at hs
  rw [beAt, hs, be_bytesBe hv]

theorem beAt_patch_apart {bs new : List Byte} {off a n : Nat} (h : off + new.length ≤ bs.length)
    (ha : a + n ≤ off ∨ off + new.length ≤ a) : beAt (patch bs off new) a n = beAt bs a n :=
  congrArg be (sliceAt_patch_apart h ha)

/-! ### The correction field (05_time R145) -/

theorem unsgn64_lt (v : Int) : unsgn 64 v < 256 ^ 8 := by
  unfold unsgn
  omega

theorem sgn64_unsgn64 {v : Int} (hlo : -(2 ^ 63 : Int) ≤ v) (hhi : v ≤ (2 ^ 63 - 1 : Int)) : sgn 64 (unsgn 64 v) = v := by
  unfold sgn unsgn
  split <;> omega

theorem corrAdd_saturated {old : Nat} {add : Int} (h : old = 2 ^ 63 - 1 ∨ sgn 64 old + add < -(2 ^ 63 : Int) ∨
    (2 ^ 63 - 1 : Int) < sgn 64 old + add) : corrAdd old add = 2 ^ 63 - 1 :=
  if_pos h

theorem corrAdd_in_range {old : Nat} {add : Int} (h : old ≠ 2 ^ 63 - 1) (hlo : -(2 ^ 63 : Int) ≤ sgn 64 old + add)
    (hhi : sgn 64 old + add ≤ (2 ^ 63 - 1 : Int)) : corrAdd old add = unsgn 64 (sgn 64 old + add) :=
  if_neg (by rintro (e | e | e) <;> omega)

theorem corrAdd_lt (old : Nat) (add : Int) : corrAdd old add < 256 ^ 8 := by
  unfold corrAdd
  dsimp only
  split
  · decide
  · exact unsgn64_lt _

/-! ### The fields that a PTP operation writes (05_time R143) -/

/-- The head to which a PTP operation adds its correction: operation 1 has written originTimestamp into it. -/
def originWritten (op off ts : Nat) (h : List Byte) : List Byte :=
  if op = 1 then patch (patch h (off + 34) (bytesBe 6 (ts / secUnits))) (off + 40) (bytesBe 4 (ts / 65536 % 10 ^ 9)) else h

section PtpOperation
variable {op off ts : Nat} {res : Int} {h : List Byte}

theorem ptpFits_iff {n : Nat} : ptpFits op off n = true ↔ off + (if op = 1 then 44 else 16) ≤ n := by
  simp [ptpFits]

@[simp] theorem originWritten_length : (originWritten op off ts h).length = h.length := by
  unfold originWritten
  split <;> simp

/-- Octets outside originTimestamp are as before it was written. -/
theorem byteAt_originWritten (hf : ptpFits op off h.length = true) {i : Nat} (hi : op = 1 → i < off + 34 ∨ off + 44 ≤ i) :
    byteAt (originWritten op off ts h) i = byteAt h i := by
  rw [ptpFits_iff] at hf
  unfold originWritten
  split
  case isTrue h1 =>
    rw [if_pos h1] at hf
    have hi := hi h1
    rw [byteAt_patch_outside, byteAt_patch_outside] <;> simp only [patch_length, bytesBe_length] <;> omega
  case isFalse => rfl

theorem beAt_originWritten (hf : ptpFits op off h.length = true) :
    beAt (originWritten op off ts h) (off + 8) 8 = beAt h (off + 8) 8 := by
  rw [ptpFits_iff] at hf
  unfold originWritten
  split
  case isTrue h1 =>
    rw [if_pos h1] at hf
    rw [beAt_patch_apart, beAt_patch_apart] <;> simp only [patch_length, bytesBe_length] <;> omega
  case isFalse => rfl

/-- The amount that a PTP operation adds to correctionField (05_time R145, R147). -/
def ptpAmount (op ts : Nat) (res : Int) : Int := if op = 1 then ((ts % 65536 : Nat) : Int) else res

/-- Operations 1 and 2 write the correction the same way. -/
theorem ptpApply_eq (hf : ptpFits op off h.length = true) :
    ptpApply op off ts res h =
      patch (originWritten op off ts h) (off + 8) (bytesBe 8 (corrAdd (beAt h (off + 8) 8) (ptpAmount op ts res))) := by
  rw [← beAt_originWritten (ts := ts) hf]
  unfold ptpApply originWritten ptpAmount
  split <;> rfl

/-- The correction field has room in a head that a PTP operation fits. -/
theorem correction_fits (hf : ptpFits op off h.length = true) : off + 8 + 8 ≤ (originWritten op off ts h).length := by
  rw [ptpFits_iff] at hf
  rw [originWritten_length]
  split at hf <;> omega

theorem beAt_ptpApply (hf : ptpFits op off h.length = true) :
    beAt (ptpApply op off ts res h) (off + 8) 8 = corrAdd (beAt h (off + 8) 8) (ptpAmount op ts res) := by
  rw [ptpApply_eq hf, beAt_patch_same (correction_fits hf) (corrAdd_lt _ _)]

theorem ptpApply_length (hf : ptpFits op off h.length = true) : (ptpApply op off ts res h).length = h.length := by
  rw [ptpApply_eq hf, patch_length, originWritten_length]

theorem byteAt_ptpApply (hf : ptpFits op off h.length = true) {i : Nat} (hc : i < off + 8 ∨ off + 16 ≤ i)
    (ho : op = 1 → i < off + 34 ∨ off + 44 ≤ i) : byteAt (ptpApply op off ts res h) i = byteAt h i := by
  rw [ptpApply_eq hf, byteAt_patch_outside (by rw [bytesBe_length]; exact correction_fits hf) (by rwa [bytesBe_length]),
    byteAt_originWritten hf ho]

end PtpOperation

/-- Settles O60: the field reads back what `corrAdd` gives, saturated or in range, and no other octet is written. -/
theorem correctionFieldSaturates : Obligations.CorrectionFieldSaturates := by
  rintro op off ts res add _ h - hf (hadd : add = ptpAmount op ts res) rfl
  subst hadd
  refine ⟨fun hsat => ?saturated, fun hne hlo hhi => ?sum, ptpApply_length hf, fun i _ => byteAt_ptpApply hf⟩
  case saturated => exact (beAt_ptpApply hf).trans (corrAdd_saturated hsat)
  case sum =>
    rw [beAt_ptpApply hf, corrAdd_in_range hne hlo hhi, sgn64_unsgn64 hlo hhi]

end Sys2Proof.Machine
end

section
/-!
The format of TIME_SET: which parameters it refuses, and how a packet whose parameters are refused ends (05_time R128; 15_commands
R374).
-/

namespace Sys2Proof.Machine

/-! ### A packet whose parameters are refused -/

/-- A packet that passes every check of R374 but that of its parameters ends with BAD_LENGTH. -/
theorem State.runCommand_malformed {s : State} {op : Nat} {p : Pkt} {wf : List Byte → State → Bool} {h : Handler}
    (ha : s.admits op p (fun _ _ => true) = true) (hw : wf p.params (s.authed op p) = false) :
    s.runCommand op p wf h =
      finishCmd (mkWaiter op p (if p.port = .cp2 then some (s.arrived op p).mirror.seq else none)) (badLength (s.authed op p)) := by
  unfold State.admits at ha
  simp only [Bool.and_eq_true, decide_eq_true_eq, Bool.not_eq_true', Option.isNone_iff_eq_none] at ha
  obtain ⟨⟨⟨⟨⟨⟨⟨⟨⟨hphase, hfailed⟩, hmirror⟩, hidle⟩, hfence⟩, hkept⟩, hauth⟩, -⟩, -⟩, -⟩ := ha
  have htakes : ¬((s.at_ p.at8.val).boot.phase < 4 ∨ (s.at_ p.at8.val).boot.failed = true) := by
    simp only [hfailed, Bool.false_eq_true, or_false]
    exact Nat.not_lt.2 hphase
  have hfree : ¬((s.at_ p.at8.val).mirrorBusy op p = true ∨ ((s.at_ p.at8.val).ctx p.port).st ≠ .idle) := by
    simp [hmirror, hidle]
  unfold State.runCommand
  refine (if_neg htakes).trans ((if_neg hfree).trans ((if_neg (Bool.eq_false_iff.1 hfence)).trans ?_))
  change (match (s.arrived op p).keptReply p with | some _ => _ | none => _) = _
  rw [hkept]
  change (match (s.arrived op p).authCheck op p with | some (_, _) => _ | none => _) = _
  rw [hauth]
  exact if_pos (show (!wf p.params (s.authed op p)) = true by rw [hw]; rfl)

/-! ### Reserved fields (00_scope R8) -/

theorem fld_and (a m lo w : Nat) : fld (a &&& m) lo w = fld a lo w &&& fld m lo w := by
  simp only [fld, ← Nat.shiftRight_eq_div_pow, Nat.shiftRight_and_distrib, Nat.and_mod_two_pow]

/-- Parameters that set no bit outside a mask read zero in a field that the mask leaves clear. -/
theorem fld_of_onlyBits {ps : List Byte} {mask lo w : Nat} (h : onlyBits ps mask = true) (hm : fld mask lo w = 0) :
    fld (img ps) lo w = 0 := by
  have hmask : le ps % 2 ^ (8 * ps.length) &&& mask = le ps := of_decide_eq_true h
  have hf := fld_and (le ps % 2 ^ (8 * ps.length)) mask lo w
  rwa [hmask, hm, Nat.and_zero] at hf

/-! ### TIME_SET -/

/-- The fields of TIME_SET's parameters that are not reserved (05_time Table 5.3). -/
def timeSetMask : Nat := bits 0 8 + bits 64 96 + bits 192 96

/-- What parameters of the format of TIME_SET hold (05_time R128, Table 5.3). -/
theorem of_wfTimeSet {ps : List Byte} {s : State} (h : wfTimeSet ps s = true) :
    ps.length = 40 ∧ onlyBits ps timeSetMask = true ∧ fld (img ps) 0 8 ≤ 2 ∧ fld (img ps) 80 32 < 10 ^ 9 ∧
      fld (img ps) 208 32 < 10 ^ 9 := by
  simp only [wfTimeSet, Bool.and_eq_true, beq_iff_eq, decide_eq_true_eq] at h
  obtain ⟨⟨⟨⟨⟨hlen, hres⟩, hmode⟩, hnew⟩, htrig⟩, -⟩ := h
  exact ⟨hlen, hres, hmode, hnew, htrig⟩

/-- Settles O57: each of the seven faults breaks one condition of the format, and a packet of another format ends with BAD_LENGTH. -/
theorem timeSetFormat : Obligations.TimeSetFormat := by
  intro s p had hfault
  refine congrArg Host.Outcome.next (State.runCommand_malformed had (Bool.eq_false_iff.2 fun hwf => ?_))
  obtain ⟨hlen, hres, hmode, hnew, htrig⟩ := of_wfTimeSet hwf
  obtain h | h | h | h | h | h | h := hfault
  · exact h hlen
  · exact Nat.not_le.2 hnew h
  · exact Nat.not_le.2 htrig h
  · exact Nat.not_le.2 h hmode
  · exact h (fld_of_onlyBits hres (by decide +kernel))
  · exact h (fld_of_onlyBits hres (by decide +kernel))
  · exact h (fld_of_onlyBits hres (by decide +kernel))

end Sys2Proof.Machine
end

section
/-!
TIME_SET, TIME_ADJUST and TIME_READ that no time error of Table 5.4 stops: one equation for each operation (05_time R129 to R151).
-/

namespace Sys2Proof.Machine

section TimeCommands
variable {s : State} {w : Waiter} {p : Pkt} {ps : List Byte}

/-- The step that a TIME_SET leaves pending (05_time R129). -/
def State.timeSetStep (s : State) (w : Waiter) (ps : List Byte) : PendingStep :=
  { kind := if fld (img ps) 0 8 = 0 then .immediate else if fld (img ps) 0 8 = 1 then .atPps else .atTime
    newTime := timeOfImg (fld (img ps) 64 96), trigger := timeOfImg (fld (img ps) 192 96), offset := 0, fromRes := none
    execRes := s.resTime, b := if fld (img ps) 0 8 = 0 then some (s.tt.round + 2) else none, waiter := some w }

/-- The step that a TIME_ADJUST STEP leaves pending (05_time R132). -/
def State.timeAdjustStep (s : State) (w : Waiter) (ps : List Byte) : PendingStep :=
  { kind := .adjust, newTime := 0, trigger := 0, offset := valueA ps, fromRes := none, execRes := s.resTime
    b := some (s.tt.round + 2), waiter := some w }

/-- A step becomes the pending one. -/
def State.withStep (s : State) (st : PendingStep) : State := { s with time := { s.time with step := some st } }

/-- With no step pending, a TIME_SET whose trigger is not late is accepted. -/
theorem doTimeSet_accepted (hs : s.time.step = none)
    (ht : fld (img ps) 0 8 = 2 → s.devTime < timeOfImg (fld (img ps) 192 96)) :
    doTimeSet w p ps s = pendingReply (s.withStep (s.timeSetStep w ps)) := by
  have hlate : ¬(fld (img ps) 0 8 = 2 ∧ timeOfImg (fld (img ps) 192 96) ≤ s.devTime) :=
    fun ⟨hm, hle⟩ => Nat.not_le.2 (ht hm) hle
  have hnone : ¬s.time.step.isSome = true := by simp [hs]
  exact (if_neg hlate).trans (if_neg hnone)

theorem doTimeAdjust_freq (hop : byteAt ps 0 = 0) (hsrc : s.time.source = 0) :
    doTimeAdjust w p ps s =
      ok { s with time := { s.time with freqNext := s.time.freqNext ++ [(valueA ps, s.tt.round + 2)] } } := by
  have hrow : doTimeAdjust w p ps s = adjustFreq ps s := by simp [doTimeAdjust, hop]
  exact hrow.trans (if_neg (not_not.2 hsrc))

theorem doTimeAdjust_slew (hop : byteAt ps 0 = 1) (hsrc : s.time.source ≠ 2) :
    doTimeAdjust w p ps s =
      ok { s with time := { s.time with slewNext := s.time.slewNext ++ [(slewOf (valueA ps) (valueB ps), s.tt.round + 2)] } }
        (bytesLe 8 (unsgn 64 s.replacedRemainder)) := by
  have hrow : doTimeAdjust w p ps s = adjustSlew ps s := by simp [doTimeAdjust, hop]
  exact hrow.trans (if_neg hsrc)

theorem doTimeAdjust_step (hop : byteAt ps 0 = 2) (hsrc : s.time.source ≠ 2) (hs : s.time.step = none) :
    doTimeAdjust w p ps s = pendingReply (s.withStep (s.timeAdjustStep w ps)) := by
  have hrow : doTimeAdjust w p ps s = adjustStep w ps s := by simp [doTimeAdjust, hop]
  have hnone : ¬s.time.step.isSome = true := by simp [hs]
  exact hrow.trans ((if_neg hsrc).trans (if_neg hnone))

/-- HOST is always there to be selected, the 10 MHz input while it is present (05_time Table 5.4). -/
theorem doTimeAdjust_source (hop : byteAt ps 0 = 3)
    (ha : leAt ps 8 8 = 0 ∨ (leAt ps 8 8 = 1 ∧ s.time.refPresent = true)) :
    doTimeAdjust w p ps s = ok (s.setSource (BitVec.ofNat 2 (leAt ps 8 8))) := by
  have hrow : doTimeAdjust w p ps s = adjustSource ps s := by simp [doTimeAdjust, hop]
  have hthere : ¬(leAt ps 8 8 = 2 ∨ (leAt ps 8 8 = 1 ∧ !s.time.refPresent)) := by
    obtain h0 | ⟨h1, hp⟩ := ha
    · simp [h0]
    · simp [h1, hp]
  exact hrow.trans (if_neg hthere)

theorem doTimeAdjust_ppsOut (hop : byteAt ps 0 = 4) : doTimeAdjust w p ps s = adjustPpsOut ps s := by
  simp [doTimeAdjust, hop]

theorem doTimeAdjust_declare (hop : byteAt ps 0 = 5) : doTimeAdjust w p ps s = adjustDeclare ps s := by
  simp [doTimeAdjust, hop]

end TimeCommands

/-- Settles O20: each command by the equation of its handler. -/
theorem timeCommandsComplete : Obligations.TimeCommandsComplete := by
  refine ⟨?set, ?freq, ?slew, ?step, ?source, ?ppsOut, ?declare, ?read⟩
  case set =>
    rintro s _ p had rfl hs ht
    exact congrArg Host.Outcome.next (State.runCommand_pending had (doTimeSet_accepted hs ht))
  case freq =>
    rintro s _ p _ rfl had rfl hop hsrc
    exact congrArg Host.Outcome.next (State.runCommand_ok had (doTimeAdjust_freq hop hsrc))
  case slew =>
    rintro s _ p _ rfl had rfl hop hsrc
    exact congrArg Host.Outcome.next (State.runCommand_ok had (doTimeAdjust_slew hop hsrc))
  case step =>
    rintro s _ p _ rfl had rfl hop hsrc hs
    exact congrArg Host.Outcome.next (State.runCommand_pending had (doTimeAdjust_step hop hsrc hs))
  case source =>
    rintro s _ p _ rfl had rfl hop ha
    exact congrArg Host.Outcome.next (State.runCommand_ok had (doTimeAdjust_source hop ha))
  case ppsOut =>
    rintro s _ p _ rfl had rfl hop
    exact congrArg Host.Outcome.next (State.runCommand_ok had (doTimeAdjust_ppsOut hop))
  case declare =>
    rintro s _ p _ rfl had rfl hop
    exact congrArg Host.Outcome.next (State.runCommand_ok had (doTimeAdjust_declare hop))
  case read =>
    intro s p had
    exact congrArg Host.Outcome.next (State.runCommand_ok (h := doTimeRead) had rfl)

end Sys2Proof.Machine
end

section
/-!
Steps and slews: when a pending step's moment has come, what it sets and how it ends, and how a slew ends (05_time R129 to R133).
-/

namespace Sys2Proof.Machine

/-! ### What leaves the time base alone -/

theorem State.time_of_interior {s t : State} (h : t.interior = s.interior) : t.time = s.time := by
  injection h

@[simp] theorem State.raise_time (s : State) (src : Nat) : (s.raise src).time = s.time :=
  State.time_of_interior (s.raise_interior src)

@[simp] theorem State.settleGates_time (s : State) : s.settleGates.time = s.time := rfl

@[simp] theorem State.stepGates_time (s : State) (before after : DevTime) : (s.stepGates before after).time = s.time := by
  refine foldl_invariant (π := State.time) (fun t lp => ?_) s _
  dsimp only
  split <;> rfl

/-! ### Steps (05_time R129 to R132) -/

section Steps
variable {s : State} {st : PendingStep} {w : Waiter}

/-- A step in range is applied, and its command replies OK. -/
theorem State.stepApply_in_range {n : Nat} (hs : s.time.step = some st) (hw : st.waiter = some w)
    (ht : s.stepTarget st = some (n : Int)) (hn : n < 2 ^ 48 * secUnits) :
    s.stepApply = (s.applyStep st.kind s.boundaryTime n).complete w 0 0 (stepBytes s.boundaryTime n) := by
  have hin : ¬((n : Int) < 0 ∨ (2 ^ 48 * secUnits : Nat) ≤ (n : Int)) := by omega
  simp only [State.stepApply, hs, ht, hw, if_neg hin, Int.toNat_natCast]

/-- A step out of range is dropped, and its command ends with RANGE (05_time Table 5.4). -/
theorem State.stepApply_out_of_range {n : Int} (hs : s.time.step = some st) (hw : st.waiter = some w)
    (ht : s.stepTarget st = some n) (hn : n < 0 ∨ (2 ^ 48 * secUnits : Nat) ≤ n) :
    s.stepApply = ({ s with time := { s.time with step := none } } : State).complete w 0x14 4 [] := by
  simp only [State.stepApply, hs, ht, hw, if_pos hn]

/-- What follows a step's change of the time base leaves the time base alone: the gates, the event and the message to the standby. The
state that has followed is named by an equation, so that the kernel never runs the gates of every port. -/
theorem State.time_of_stepped {u v : State} {before after : DevTime}
    (hu : u = (v.stepGates before after).settleGates.raise 1202) : u.time = v.time := by
  rw [hu, State.raise_time, State.settleGates_time, State.stepGates_time]

theorem State.ite_emit_time (u : State) (c : Prop) [Decidable c] (o : Out) : (if c then u.emit o else u).time = u.time := by
  split <;> rfl

/-- What an applied step leaves of the time base (05_time R131). -/
theorem State.applyStep_time (s : State) (kind : StepKind) (before after : DevTime) :
    (s.applyStep kind before after).time.t48 =
      s.time.t48 + s.slewPart + ((after : Int) - (before : Int)) * (2 ^ 32 : Int) ∧
    (s.applyStep kind before after).time.slew = none ∧ (s.applyStep kind before after).time.step = none ∧
    (s.applyStep kind before after).time.stepCount = s.time.stepCount + 1 := by
  unfold State.applyStep
  extract_lets _ _ _ _ t u
  have hu : u.time = t := State.time_of_stepped (v := { s with time := t }) rfl
  rw [State.ite_emit_time, hu]
  exact ⟨rfl, rfl, rfl, rfl⟩

theorem State.stepTarget_adjust {b : BitVec 64} (hk : st.kind = .adjust) (hb : st.b = some b) (hr : b ≤ s.tt.round) :
    s.stepTarget st = some ((s.boundaryTime : Int) + st.offset) := by
  simp [State.stepTarget, hk, hb, hr]

theorem State.stepTarget_immediate {b : BitVec 64} (hk : st.kind = .immediate) (hb : st.b = some b) (hr : b ≤ s.tt.round) :
    s.stepTarget st = some (st.newTime : Int) := by
  simp [State.stepTarget, hk, hb, hr]

/-- 2.0 s without an accepted edge end the step of an AT_PPS TIME_SET with NO_PPS (05_time Table 5.4). -/
theorem State.noPpsTimeout_due {k : Nat} (hs : s.time.step = some st) (hk : st.kind = .atPps) (hf : st.fromRes = none)
    (hw : st.waiter = some w) (hd : s.resHand st.execRes (2 * secUnits) = some k) :
    s.noPpsTimeout = ({ s.handTo k with time := { s.time with step := none } } : State).complete w 0x14 1 [] := by
  simp [State.noPpsTimeout, hs, hk, hf, hw, hd]

end Steps

/-! ### Slews (05_time R133) -/

section Slews
variable {s : State} {w : Slew}

theorem State.slewEnd_in_round (hs : s.time.slew = some w) (hl : w.cyclesLeft ≤ roundCycles s.tt.round.toNat) :
    s.slewEnd = s.handTo ((40 * w.cyclesLeft - s.phase40 + 4) / 5) := by
  simp [State.slewEnd, hs, hl]

/-- Once its last cycle has passed, a slew has added all of its cycles and its residue. -/
theorem Slew.gain48_ended {c40 : Nat} (h : 40 * w.cyclesLeft ≤ c40) : w.gain48 c40 = w.perCycle * w.cyclesLeft + w.residue :=
  if_pos h

theorem State.advanceTime_slew_ended (hs : s.time.slew = some w) (hl : w.cyclesLeft ≤ roundCycles s.tt.round.toNat) :
    s.advanceTime.time.slew = none := by
  simp [State.advanceTime, hs, hl]

/-- Over whole cycles the rate word adds without a rounding, and the ended slew adds what it still had to. -/
theorem State.advanceTime_t48_of_slew_ended (hs : s.time.slew = some w) (hl : w.cyclesLeft ≤ roundCycles s.tt.round.toNat) :
    s.advanceTime.time.t48 =
      s.time.t48 + s.rate48 * roundCycles s.tt.round.toNat + (w.perCycle * w.cyclesLeft + w.residue) := by
  have hrate : s.rate48 * ((40 * roundCycles s.tt.round.toNat : Nat) : Int) / 40 = s.rate48 * roundCycles s.tt.round.toNat := by
    rw [Nat.cast_mul, mul_left_comm]
    exact Int.mul_ediv_cancel_left _ (by decide)
  simp only [State.advanceTime, State.gain48, hs, hrate, Slew.gain48_ended (Nat.mul_le_mul_left 40 hl), add_assoc]

end Slews

/-- Settles O21: steps by their target, the timeout of a step that waits for an edge, and the end of a slew. -/
theorem stepsAndSlewsEnd : Obligations.StepsAndSlewsEnd := by
  refine ⟨?inRange, ?outOfRange, ?target, ?noPps, ?slew⟩
  case inRange =>
    intro s st w n hs hw ht hn
    exact ⟨congrArg Host.Outcome.next (State.stepApply_in_range hs hw ht hn), s.applyStep_time st.kind s.boundaryTime n⟩
  case outOfRange =>
    intro s st w n hs hw ht hn
    exact congrArg Host.Outcome.next (State.stepApply_out_of_range hs hw ht hn)
  case target =>
    intro s st b hb hr
    exact ⟨fun hk => State.stepTarget_adjust hk hb hr, fun hk => State.stepTarget_immediate hk hb hr⟩
  case noPps =>
    intro s st w k hs hk hf hw hd
    exact congrArg Host.Outcome.next (State.noPpsTimeout_due hs hk hf hw hd)
  case slew =>
    intro s w hs hl
    exact ⟨congrArg Host.Outcome.next (State.slewEnd_in_round hs hl), State.advanceTime_slew_ended hs hl,
      State.advanceTime_t48_of_slew_ended hs hl⟩

end Sys2Proof.Machine
end

section
/-!
The inputs and outputs of the time island: one equation for each case of each event (05_time R126, R127, R134 to R136, R150, R152).
-/

namespace Sys2Proof.Machine

/-! ### The 1PPS input (05_time R134, R135) -/

section PpsIn
variable {s : State}

/-- Residence time from a value of the residence counter to now. -/
def State.resSince (s : State) (r : Nat) : Nat := (s.resTime + 2 ^ 64 - r) % 2 ^ 64

theorem State.ppsInEdge_ignored {r : Nat} (hr : s.time.ppsLastRes = some r) (h : 2 * s.resSince r < secUnits) :
    s.ppsInEdge = { s with time := { s.time with ppsIgnored := s.time.ppsIgnored + 1 } } := by
  simp only [State.ppsInEdge, hr]
  exact if_pos (decide_eq_true h)

/-- An edge that is the first, or comes 500 ms or more behind the last accepted one, is accepted. -/
theorem State.ppsInEdge_accepted (h : ∀ r, s.time.ppsLastRes = some r → secUnits ≤ 2 * s.resSince r) :
    ∃ t : State, s.ppsInEdge = t.raise 1200 ∧ t.time.ppsCount = s.time.ppsCount + 1 ∧ t.time.ppsTime = s.stamp ∧
      t.time.ppsLastRes = some s.resTime ∧ t.time.ppsOffset = ppsOffsetOf s.stamp := by
  have hsoon : ¬(match s.time.ppsLastRes with | some r => decide (2 * s.resSince r < secUnits) | none => false) = true := by
    cases hr : s.time.ppsLastRes with
    | none => simp
    | some r => simpa using h r hr
  exact ⟨_, if_neg hsoon, rfl, rfl, rfl, rfl⟩

/-- 1,500 ms behind the last accepted edge, presence is cleared. -/
theorem State.ppsAbsent_due {r k : Nat} (hr : s.time.ppsLastRes = some r) (hk : s.resHand r (3 * secUnits / 2) = some k) :
    s.ppsAbsent = { s.handTo k with time := { s.time with ppsPresent := false } } := by
  have hgap : ppsGap = 3 * secUnits / 2 := by decide
  have hdue : (s.time.ppsLastRes.bind fun r => s.resHand r ppsGap) = some k := by
    rw [hr, hgap, Option.bind_some, hk]
  simp only [State.ppsAbsent, hdue]

end PpsIn

/-- Division toward zero by the 2^16 units of a nanosecond loses less than one nanosecond. -/
theorem tdiv_units_near (d : Int) : (d.tdiv 65536 * 65536 - d).natAbs < 65536 := by
  have hsplit := Int.mul_tdiv_add_tmod d 65536
  have hrest : (d.tmod 65536).natAbs < 65536 := by
    rw [Int.natAbs_tmod]
    exact Nat.mod_lt _ (by decide)
  omega

/-- An edge's offset is taken from the nearest whole second. -/
theorem ppsOffsetOf_near {t : Nat} {k d : Int} (ht : (t : Int) = k * (secUnits : Int) + d) (hd : 2 * d.natAbs < secUnits) :
    ppsOffsetOf t = max (-32767) (min 32767 (d.tdiv 65536)) := by
  have hunits : secUnits = 65536000000000 := rfl
  have hnear : (if 2 * (t % secUnits) ≤ secUnits then ((t % secUnits : Nat) : Int)
      else ((t % secUnits : Nat) : Int) - (secUnits : Int)) = d := by
    rw [hunits] at ht hd ⊢
    split <;> omega
  unfold ppsOffsetOf
  dsimp only
  rw [hnear]

/-- Settles O58: the distance to the nearest second, whole nanoseconds of it, kept within 32,767. That the fraction is dropped toward zero
is the model's choice (log entry 14), and loses less than the 1 ns that the statement leaves. -/
theorem ppsOffsetMeasured : Obligations.PpsOffsetMeasured := by
  rintro s _ a k d rfl hgap hstamp hd
  obtain ⟨t, hedge, -, -, -, hoff⟩ := State.ppsInEdge_accepted hgap
  rw [ppsOffsetOf_near hstamp hd] at hoff
  have hnear := tdiv_units_near d
  refine ⟨t.raise 1200, congrArg Host.Outcome.next hedge, ?_⟩
  rw [State.raise_time, hoff]
  omega

/-! ### The 1PPS output (05_time R136) -/

/-- The output rises in the 0.25 ns behind second `k` plus the offset, once in that second. -/
theorem State.ppsOutEdge_due {s : State} {k : Nat} (he : s.time.ppsOut.enable = true)
    (hset : s.time.timeSet = true ∨ s.time.ppsOut.emitUnset = true)
    (hlo : (k * secUnits : Nat) ≤ (s.devTime : Int) - s.time.ppsOut.offset * 65536)
    (hhi : (s.devTime : Int) - s.time.ppsOut.offset * 65536 < (k * secUnits + 16384 : Nat))
    (hl : s.time.ppsOut.lastSec ≠ some k) :
    s.ppsOutEdge = { s with time := { s.time with ppsOut := { s.time.ppsOut with
      highUntil := some (s.nowPs + s.time.ppsOut.widthUs * 1000000), pulses := s.time.ppsOut.pulses + 1
      lastSec := some k } } } := by
  have hsec : ((s.devTime : Int) - s.time.ppsOut.offset * 65536) / (secUnits : Int) = k := by
    have hunits : secUnits = 65536000000000 := rfl
    rw [hunits] at hlo hhi ⊢
    omega
  have hinto : (s.devTime : Int) - s.time.ppsOut.offset * 65536 - k * (secUnits : Int) < 16384 := by
    push_cast at hhi
    omega
  simp [State.ppsOutEdge, hsec, he, hset, hinto, hl]

/-! ### The 10 MHz input (05_time R126, R127) -/

section Reference
variable {s : State} {n : Nat}

/-- What every count writes: presence and offset. -/
def State.refSeen (s : State) (n : Nat) : State :=
  { s with time := { s.time with
      refPresent := decide (((n : Int) - 10000000).natAbs ≤ 1000)
      refOffset := if ((n : Int) - 10000000).natAbs ≤ 1000 then refOffsetOf n else 0x80000000 } }

theorem State.refCount_other_source (h : s.time.source ≠ 1) : s.refCount n = s.refSeen n := by
  simp only [State.refCount, decide_eq_true_eq]
  exact if_pos h

theorem State.refCount_lost (h : s.time.source = 1) (hh : s.time.refHoldover = false)
    (hn : 1000 < ((n : Int) - 10000000).natAbs) :
    s.refCount n =
      ((({ s.refSeen n with time := { (s.refSeen n).time with refHoldover := true, refGood := 0 } } : State).setRate
        (meanOr s.freqSet s.time.refHist)).raise 1201) := by
  have hbad : ¬((n : Int) - 10000000).natAbs ≤ 1000 := by omega
  simp [State.refCount, State.refSeen, State.freqSet, h, hh, hbad]

theorem State.refCount_good (h : s.time.source = 1) (hh : s.time.refHoldover = false)
    (hn : ((n : Int) - 10000000).natAbs ≤ 1000) :
    ∃ v i, s.refCount n = (({ s.refSeen n with time := { (s.refSeen n).time with
      refInteg := i, refHist := (v :: s.time.refHist).take 16 } } : State).setRate v) :=
  ⟨clampRate (s.freqSet + (Config.refStep ((n : Int) - 10000000) s.time.refInteg).1),
    (Config.refStep ((n : Int) - 10000000) s.time.refInteg).2, by
    simp [State.refCount, State.refSeen, State.freqSet, h, hh, hn]⟩

end Reference

/-! ### The attestation (05_time R150) -/

section Attestation
variable {s : State}

/-- The second that an attestation names. -/
def State.attestedSec (s : State) : Nat := if s.time.attOwed then secOf s.time.attLastB else secOf s.devTime

/-- An attestation is made up: none is owed, and its second is the last attested. -/
def State.attested (s : State) : State :=
  { s with time := { s.time with attOwed := false, attSec := max s.time.attSec s.attestedSec } }

/-- With none owed and no new second, nothing is attested (the model's choice, log entry 104). -/
theorem State.attest_idle (ho : s.time.attOwed = false) (hs : secOf s.devTime ≤ s.time.attSec) : s.attest = s :=
  if_neg (by simp [ho, hs])

theorem State.attest_not_recording (h : s.time.attOwed = true ∨ s.time.attSec < secOf s.devTime)
    (hr : s.attested.recording = false) : s.attest = s.attested :=
  (if_pos h).trans (if_neg (Bool.eq_false_iff.1 hr))

theorem State.attest_recording {w x : State} (h : s.time.attOwed = true ∨ s.time.attSec < secOf s.devTime)
    (hr : s.attested.recording = true)
    (hw : w = { s.attested with time := { s.attested.time with attSeq := s.attested.time.attSeq + 1 } })
    (hx : x = w.systemRecord 5 (attestation w s.attestedSec)) :
    s.attest = { x with time := { x.time with attSum := 0, attLastB := 0 } } := by
  subst hx hw
  exact (if_pos h).trans (if_pos hr)

end Attestation

/-! ### The latch of the device time (05_time R152) -/

section Latch
variable {s : State}

theorem State.timeLatch_starts {v : BitVec 64} {d : Nat} (hv : v.getLsbD 0 = true) (hl : s.settleLatch.time.latch = none) :
    s.timeLatch v d = { s.settleLatch with time := { s.settleLatch.time with
      latch := some (s.settleLatch.nowPs + d * 125, s.settleLatch.nowPs + 100000, none) } } :=
  if_pos (by simp [hv, hl])

/-- A latch whose value is due in place holds the device time at its instant, whether that has come or lies ahead. -/
theorem State.settleLatch_done {t done : Nat} (hl : s.time.latch = some (t, done, none)) (hd : done ≤ s.nowPs) :
    s.settleLatch = { s with time := { s.time with latched := s.devTimeAt t, latch := none } } := by
  have hvalue : (if t ≤ s.nowPs then some (s.devTimeAt t) else none).getD (s.devTimeAt t) = s.devTimeAt t := by
    split <;> rfl
  simp [State.settleLatch, State.latchTo, hl, hd, hvalue]

end Latch

/-- Settles O22: each event by its cases. That the latch holds the device time at the instant of its write and is in place exactly 100 ns
behind the acceptance is the model's choice (log entry 13), and so is an attestation that does nothing (log entry 104). -/
theorem timeInputsRun : Obligations.TimeInputsRun := by
  refine ⟨?ppsIn, ?ppsAbsent, ?ppsOut, ?reference, ?attestation, ?latch, ?latched⟩
  case ppsIn =>
    rintro s _ a rfl
    constructor
    · intro r hr h
      exact congrArg Host.Outcome.next (State.ppsInEdge_ignored hr h)
    · intro h
      obtain ⟨t, hedge, hfields⟩ := State.ppsInEdge_accepted h
      exact ⟨t, congrArg Host.Outcome.next hedge, hfields⟩
  case ppsAbsent =>
    intro s r k hr hk
    exact congrArg Host.Outcome.next (State.ppsAbsent_due hr hk)
  case ppsOut =>
    rintro s _ a k rfl he hset hlo hhi hl
    exact congrArg Host.Outcome.next (State.ppsOutEdge_due he hset hlo hhi hl)
  case reference =>
    rintro s _ n rfl
    refine ⟨fun h => congrArg Host.Outcome.next (State.refCount_other_source h),
      fun h hh hn => congrArg Host.Outcome.next (State.refCount_lost h hh hn), fun h hh hn => ?_⟩
    obtain ⟨v, i, hgood⟩ := State.refCount_good h hh hn
    exact ⟨v, i, congrArg Host.Outcome.next hgood⟩
  case attestation =>
    rintro s _ _ a _ rfl rfl rfl
    exact ⟨fun ho hs => congrArg Host.Outcome.next (State.attest_idle ho hs),
      fun h hr => congrArg Host.Outcome.next (State.attest_not_recording h hr),
      fun h hr => ⟨_, _, rfl, rfl, congrArg Host.Outcome.next (State.attest_recording h hr rfl rfl)⟩⟩
  case latch =>
    rintro s _ v d a rfl hv hl
    exact congrArg Host.Outcome.next (State.timeLatch_starts hv hl)
  case latched =>
    intro s t done hl hd
    exact State.settleLatch_done hl hd

end Sys2Proof.Machine
end

section
/-!
TS_CALIBRATE and the end of its run (05_time R140, R141).
-/

namespace Sys2Proof.Machine

section Calibrate
variable {s : State} {w : Waiter} {p : Pkt} {ps : List Byte}

theorem doTsCalibrate_read (hop : fld (img ps) 16 8 = 1) :
    doTsCalibrate w p ps s = ok s (calibrationBytes (s.port (fld (img ps) 0 9)).cal) :=
  if_pos hop

/-- A run starts on a port that is off, while no other port beside it has one. -/
theorem doTsCalibrate_run {lp : Nat} (hop : fld (img ps) 16 8 = 0) (hlp : lp = fld (img ps) 0 9)
    (hst : (s.port lp).st = .disabled ∨ (s.port lp).st = .lowPower) (hc : s.calibrating (macroOf lp) = false) :
    doTsCalibrate w p ps s = pendingReply ((s.powerUp (macroOf lp)).modPort lp fun x =>
      { x with calRun := some (w, (s.port lp).st), wakeArmed := false }) := by
  subst hlp
  have hread : ¬fld (img ps) 16 8 = 1 := by simp [hop]
  have hfree : ¬(((s.port (fld (img ps) 0 9)).st ≠ .disabled ∧ (s.port (fld (img ps) 0 9)).st ≠ .lowPower) ∨
      s.calibrating (macroOf (fld (img ps) 0 9)) = true) := by
    rintro (⟨hd, hl⟩ | hrun)
    · exact hst.elim hd hl
    · exact Bool.eq_false_iff.1 hc hrun
  exact (if_neg hread).trans (if_neg hfree)

/-- A run's end stores the calibration, puts the port back in its prior state and replies OK. -/
theorem State.calibrationComplete_running {lp : Nat} {rx tx : BitVec 32} {st : PortState} {cal : Calibration}
    (hrun : (s.port lp).calRun = some (w, st))
    (hcal : cal = { valid := true, rxPs := rx, txPs := tx, temp := (s.sensor (servingSensor (macroOf lp))).reading
                    round := s.tt.round }) :
    s.calibrationComplete lp rx tx =
      ((s.modPort lp fun x => { x with cal := cal, calRun := none, st := st, wakeArmed := decide (st = .lowPower) }).settleIsland
        (macroOf lp)).complete w 0 0 (calibrationBytes cal) := by
  subst hcal
  simp only [State.calibrationComplete, hrun]

end Calibrate

/-- Settles O23: READ, RUN and the end of a run, each by its equation. -/
theorem calibrationsComplete : Obligations.CalibrationsComplete := by
  refine ⟨?read, ?run, ?complete⟩
  case read =>
    rintro s _ p _ rfl had rfl hop
    exact congrArg Host.Outcome.next (State.runCommand_ok had (doTsCalibrate_read hop))
  case run =>
    rintro s _ p _ lp rfl had rfl hop hlp hst hc
    exact congrArg Host.Outcome.next (State.runCommand_pending had (doTsCalibrate_run hop hlp hst hc))
  case complete =>
    intro s lp rx tx w st cal hrun hcal
    exact congrArg Host.Outcome.next (State.calibrationComplete_running hrun hcal)

end Sys2Proof.Machine
end

section
/-!
Commands that write the tables, for a packet that nothing cuts short: PREFIX_INSERT and PREFIX_DELETE with the TBL_WRITE of the same
form, and the re-layout form of TBL_BULK (07_match R190, R191; 08_tables R221, R223).
-/

namespace Sys2Proof.Machine

/-! ### Packets that nothing cuts short (08_tables R221; 16_microcode R404) -/

/-- The packet of a row that fixes table and form is cut short by what cuts the row's own packet short. -/
theorem whole_of_forceOp {p q : Pkt} {form : Nat} (hp : whole p) (hq : q = forceOp (forceOp p 0 8 2) 12 2 form) : whole q := by
  subst hq
  exact hp

@[simp] theorem unitsDone_none (n : Nat) : unitsDone none n = (n, false) := rfl

theorem d0Units_of_whole {p : Pkt} (hp : whole p) (n : Nat) : d0Units p n = (n, 0) := by
  obtain ⟨hcancel, hstop⟩ := hp
  simp [d0Units, hcancel, hstop, b1]

section Whole
variable {p : Pkt} {s t : State} (hp : whole p) (hw : s.d0Writable = true)
include hp hw

/-- A command of one unit whose write is not refused carries it out. -/
theorem oneUnit_of_whole {r : Except Nat State} (hr : r = .ok t) : oneUnit p s r = ok t := by
  simp [oneUnit, hw, hr, d0Units_of_whole hp]

/-- An insertion that is not refused is carried out to its final write, whatever its plan. -/
theorem doInsert_of_whole {e : Image} (he : s.insertEntry e = .ok t) : doInsert p e s = ok t := by
  cases hplan : s.insertPlan e with
  | withShim z h m =>
    obtain ⟨hcancel, hstop⟩ := hp
    have ht : (s.loosen (pfxGen e)).insertAll e z h = t := by simpa [State.insertEntry, hplan] using he
    simp [doInsert, hw, hplan, hcancel, hstop, ht]
  | inPlace u => simp [doInsert, hw, hplan, oneUnit_of_whole hp hw he]
  | full => simp [doInsert, hw, hplan, oneUnit_of_whole hp hw he]

/-- TBL_WRITE of the prefix table inserts in its form 0. -/
theorem doTblWrite_inserts {w : Waiter} {ps : List Byte} (htab : (tblHeader ps).table = 2) (hform : (tblHeader ps).form = 0)
    (he : s.insertEntry (writtenData ps) = .ok t) : doTblWrite w p ps s = ok t := by
  simp [doTblWrite, htab, hform, doInsert_of_whole hp hw he]

/-- TBL_WRITE of the prefix table deletes in its form 1. -/
theorem doTblWrite_deletes {w : Waiter} {ps : List Byte} (htab : (tblHeader ps).table = 2) (hform : (tblHeader ps).form = 1)
    (he : s.deleteEntry (writtenData ps) = .ok t) : doTblWrite w p ps s = ok t := by
  simp [doTblWrite, htab, hform, oneUnit_of_whole hp hw he]

/-- The re-layout form of TBL_BULK carries out every unit of its plan and puts the new layout in force (08_tables R223). -/
theorem doTblBulk_relays {w : Waiter} {ps : List Byte} {l : Layout} (hform : (tblHeader ps).form = 1)
    (hl : s.layout (fld (tblHeader ps).aux 0 18) (fld (tblHeader ps).aux 24 8) = some l) :
    doTblBulk w p ps s =
      (let t := l.steps.foldl (fun (u : State) x => u.layStep x) s
       ok { t with tables := { t.tables with
         pairRows := fld (tblHeader ps).aux 0 18, shimInterval := fld (tblHeader ps).aux 24 8,
         pairZones := l.pairZones, singleZones := l.singleZones } }) := by
  simp [doTblBulk, hform, doRelayout, hw, hl, d0Units_of_whole hp]

end Whole

/-! ### Prefix entries (07_match R190, R191) -/

theorem State.insertEntry_withShim {s : State} {e : Image} {z h m : Nat} (hplan : s.insertPlan e = .withShim z h m) :
    s.insertEntry e = .ok ((s.loosen (pfxGen e)).insertAll e z h) := by
  simp [State.insertEntry, hplan]

theorem State.insertEntry_inPlace {s : State} {e : Image} {u : Nat} (hplan : s.insertPlan e = .inPlace u) :
    s.insertEntry e =
      .ok ((s.loosen (pfxGen e)).writeControl (pfxPair e) u (newData (s.unitOf (pfxPair e) u) e)) := by
  simp [State.insertEntry, hplan]

theorem State.deleteEntry_of_equalUnit {s : State} {e : Image} {u : Nat} (hu : s.equalUnit e = some u) :
    s.deleteEntry e =
      .ok ((s.loosen (pfxGen e)).writeControl (pfxPair e) u (setFld (s.unitOf (pfxPair e) u) 137 1 0)) := by
  simp [State.deleteEntry, hu]

/-- A row that is a TBL_WRITE of the prefix table in one form, and TBL_WRITE given that form, are one command (08_tables R221), which
ends with OK when its handler answers OK. -/
theorem exec_prefixWrite_ok {s t : State} {p q : Pkt} {c row : Instr} {form : Nat}
    (hrow : exec row s = .next (s.prefixWrite form p)) (hq : q = forceOp (forceOp p 0 8 2) 12 2 form) (hc : c = row ∨ c = .tblWrite q)
    (had : s.admits 0x0200 q wfTblWrite = true) (hh : doTblWrite (s.waiterOf 0x0200 q) q q.params (s.running 0x0200 q) = ok t) :
    exec c s = .next (s.endsOk 0x0200 q t) := by
  have hrun : exec c s = .next (s.runCommand 0x0200 q wfTblWrite doTblWrite) := by
    subst hq
    rcases hc with rfl | rfl
    · exact hrow
    · rfl
  rw [hrun, State.runCommand_ok had hh]

/-- Settles O8: insertion and deletion by the equation of their one write, as either instruction, and the re-layout by its plan. -/
theorem prefixWritesComplete : Obligations.PrefixWritesComplete := by
  refine ⟨?shim, ?inPlace, ?delete, ?relayout⟩
  case shim =>
    intro s p q c z h m hq hc had hp hw htab hform hplan
    exact exec_prefixWrite_ok rfl hq hc had
      (doTblWrite_inserts (whole_of_forceOp hp hq) hw htab hform (State.insertEntry_withShim hplan))
  case inPlace =>
    intro s p q c u hq hc had hp hw htab hform hplan
    exact exec_prefixWrite_ok rfl hq hc had
      (doTblWrite_inserts (whole_of_forceOp hp hq) hw htab hform (State.insertEntry_inPlace hplan))
  case delete =>
    intro s p q c u hq hc had hp hw htab hform hu
    exact exec_prefixWrite_ok rfl hq hc had
      (doTblWrite_deletes (whole_of_forceOp hp hq) hw htab hform (State.deleteEntry_of_equalUnit hu))
  case relayout =>
    rintro s p _ l rfl had hp hw hform hl
    exact congrArg Host.Outcome.next (State.runCommand_ok had (doTblBulk_relays (whole_of_forceOp hp rfl) hw hform hl))

end Sys2Proof.Machine
end

section
/-!
TBL_WRITE, TBL_PAIR_WRITE, TBL_MOVE and the write form of TBL_BULK, for a packet that nothing cuts short (08_tables R220, R221, R223;
07_match R186; 11_pool R292).
-/

namespace Sys2Proof.Machine

section Whole
variable {p : Pkt} {s t : State} (hp : whole p) (hw : s.d0Writable = true)
include hp hw

/-- TBL_WRITE of a configured table other than the prefix table writes its one entry. -/
theorem doTblWrite_writes {w : Waiter} {ps : List Byte} (hpfx : (tblHeader ps).table ≠ 2) (hpool : (tblHeader ps).table ≠ 0x14)
    (he : s.writeEntry (tblHeader ps).table (tblHeader ps).gen (tblHeader ps).index (writtenData ps) = .ok t) :
    doTblWrite w p ps s = ok t := by
  simp [doTblWrite, hpfx, hpool, oneUnit_of_whole hp hw he]

/-- TBL_WRITE of the pool control block with no recount running: nothing to do without a requester, and otherwise a recount of the
requesters named, for which the command waits (11_pool R292). -/
theorem doTblWrite_pool {w : Waiter} {ps : List Byte} (htab : (tblHeader ps).table = 0x14) (hr : s.pool.recount = none) :
    doTblWrite w p ps s =
      if (List.range 65).filter (bitAt (writtenData ps)) = [] then ok s
      else pendingReply (s.startRecount ((List.range 65).filter (bitAt (writtenData ps))) [w]) := by
  simp [doTblWrite, htab, hw, hr, d0Units_of_whole hp, List.isEmpty_iff]

/-- TBL_PAIR_WRITE writes key row and data part as one unit. -/
theorem doTblPairWrite_writes {w : Waiter} {ps : List Byte}
    (he : s.writePair (tblHeader ps).table (tblHeader ps).index (pairKey ps) (pairData ps) = .ok t) :
    doTblPairWrite w p ps s = ok t :=
  oneUnit_of_whole hp hw he

/-- TBL_MOVE writes the two halves of the master's row at the source index as one unit. -/
theorem doTblMove_writes {w : Waiter} {ps : List Byte}
    (he : s.writePair (tblHeader ps).table (tblHeader ps).index
      (s.master (tblHeader ps).table 0 (tblHeader ps).aux % 2 ^ 640)
      (s.master (tblHeader ps).table 0 (tblHeader ps).aux / 2 ^ 640) = .ok t) :
    doTblMove w p ps s = ok t :=
  oneUnit_of_whole hp hw he

/-- The write form of TBL_BULK of which no entry is refused writes all of them. -/
theorem doTblBulk_writes {w : Waiter} {ps : List Byte} (hform : (tblHeader ps).form = 0)
    (hgo : s.bulkGo ps (tblHeader ps).table (tblHeader ps).index (tblHeader ps).aux 0 = (t, none)) :
    doTblBulk w p ps s = ok t := by
  simp [doTblBulk, hform, doBulkWrite, hw, d0Units_of_whole hp, hgo]

end Whole

/-- Settles O7: each command by the equation of its handler. That TBL_MOVE takes the row from the master is the model's choice (log entry
71). -/
theorem tableWritesComplete : Obligations.TableWritesComplete := by
  refine ⟨?write, ?pairWrite, ?move, ?bulkWrite, ?pool⟩
  case write =>
    intro s t p had hp hw hpfx hpool he
    exact congrArg Host.Outcome.next (State.runCommand_ok had (doTblWrite_writes hp hw hpfx hpool he))
  case pairWrite =>
    intro s t p had hp hw he
    exact congrArg Host.Outcome.next (State.runCommand_ok had (doTblPairWrite_writes hp hw he))
  case move =>
    intro s t p had hp hw he
    exact congrArg Host.Outcome.next (State.runCommand_ok had (doTblMove_writes hp hw he))
  case bulkWrite =>
    rintro s t p _ rfl had hp hw hform hgo
    have hq : whole (forceOp p 12 2 0) := hp
    exact congrArg Host.Outcome.next (State.runCommand_ok had (doTblBulk_writes hq hw hform hgo))
  case pool =>
    rintro s _ p _ had rfl hp hw htab hr rfl
    have hpool := doTblWrite_pool (w := s.waiterOf 0x0200 p) hp hw htab hr
    constructor
    · intro hnone
      exact congrArg Host.Outcome.next (State.runCommand_ok had (hpool.trans (if_pos hnone)))
    · intro hsome
      exact congrArg Host.Outcome.next (State.runCommand_pending had (hpool.trans (if_neg hsome)))

end Sys2Proof.Machine
end

section
/-!
TBL_READ from a state table, from the master copy and from a replica (08_tables R221, R222, R228; 15_commands R384).
-/

namespace Sys2Proof.Machine

section Read
variable {w : Waiter} {p : Pkt} {ps : List Byte} {s t : State}

theorem doTblRead_state (hst : stateTable (tblHeader ps).table = true) :
    doTblRead w p ps s =
      ok (if (tblHeader ps).table = 0x15 then { s with pool := { s.pool with logUnread := 0 } } else s)
        (stateTableBytes s (tblHeader ps).table (tblHeader ps).index) := by
  simp [doTblRead, hst]

theorem doTblRead_replica (hst : stateTable (tblHeader ps).table = false) (hsrc : (tblHeader ps).source ≠ 0) :
    doTblRead w p ps s =
      ok (if s.tt.active.isSome ∧ (servicePort (tblHeader ps).table).isSome then s.tick 0x68 (15 + (tblHeader ps).source) else s)
        (s.entryBytes (s.quad ((tblHeader ps).source - 1)).rep (tblHeader ps)) := by
  simp [doTblRead, hst, hsrc]

section Master
variable (hst : stateTable (tblHeader ps).table = false) (hsrc : (tblHeader ps).source = 0)
include hst hsrc

theorem doTblRead_of_paused (hc : s.cab.paused = true) : doTblRead w p ps s = busy s := by
  simp [doTblRead, hst, hsrc, hc]

theorem doTblRead_master {e : Image} (hc : s.cab.paused = false)
    (hm : s.readMaster (tblHeader ps).table (tblHeader ps).gen (tblHeader ps).index = (t, some e)) :
    doTblRead w p ps s = ok t (s.entryBytes s.tables.master (tblHeader ps)) := by
  simp [doTblRead, hst, hsrc, hc, hm]

theorem doTblRead_master_lost (hc : s.cab.paused = false)
    (hm : s.readMaster (tblHeader ps).table (tblHeader ps).gen (tblHeader ps).index = (t, none)) :
    doTblRead w p ps s = { st := t, status := 0x30 } := by
  simp [doTblRead, hst, hsrc, hc, hm]

end Master
end Read

/-- Settles O9: TBL_READ by the cases of its source, and for the master by whether D0 is readable (08_tables R221, R228). -/
theorem tableReadsComplete : Obligations.TableReadsComplete := by
  refine ⟨?state, ?master, ?replica⟩
  case state =>
    rintro s _ p had rfl hst
    exact congrArg Host.Outcome.next (State.runCommand_ok had (doTblRead_state hst))
  case master =>
    rintro s _ t p had rfl hst hsrc
    refine ⟨?paused, ?read, ?lost⟩
    case paused =>
      intro hc
      exact congrArg Host.Outcome.next (State.runCommand_busy had (doTblRead_of_paused hst hsrc hc))
    case read =>
      intro e hc hm
      exact congrArg Host.Outcome.next (State.runCommand_ok had (doTblRead_master hst hsrc hc hm))
    case lost =>
      intro hc hm
      exact congrArg Host.Outcome.next
        (State.runCommand_final had (doTblRead_master_lost hst hsrc hc hm) (by simp) (by simp))
  case replica =>
    rintro s _ p had rfl hst hsrc
    exact congrArg Host.Outcome.next (State.runCommand_ok had (doTblRead_replica hst hsrc))

end Sys2Proof.Machine
end

section
/-!
A generation swap: its command, its boundary and its end (08_tables R230).
-/

namespace Sys2Proof.Machine

/-- GEN_SWAP with no swap in progress starts one to the other generation. -/
theorem doGenSwap_starts {w : Waiter} {p : Pkt} {ps : List Byte} {s : State} (hp : whole p) (hs : s.tables.swap = none)
    (hw : s.d0Writable = true) : doGenSwap w p ps s = pendingReply (s.startSwap (!s.currentGen) (some w)) := by
  simp [doGenSwap, hs, hw, d0Units_of_whole hp]

/-- At the swap's round every quad turns, and the swap drains. -/
theorem State.genBoundary_turns {s : State} {w : GenSwapState} (hs : s.tables.swap = some w) (hd : w.draining = false)
    (hround : w.s ≤ s.tt.round) :
    s.genBoundary = { s with tables := { s.tables with
      quads := s.tables.quads.map fun q => { q with gen := w.newGen }
      swap := some { w with draining := true } } } := by
  simp [State.genBoundary, hs, hd, hround]

section Drained
variable {s : State} {w : GenSwapState} (hs : s.tables.swap = some w) (hd : w.draining = true) (hpin : s.pinned (!w.newGen) = false)
include hs hd hpin

/-- A swap that a command waits for replies once no head holds the old generation. -/
theorem State.genDrained_replies {x : Waiter} (hx : w.waiter = some x) :
    s.genDrained = ({ s with tables := { s.tables with swap := none } } : State).complete x 0 0
      (bytesLe 8 w.s.toNat ++ bytesLe 8 (b1 w.newGen)) := by
  simp [State.genDrained, hs, hd, hpin, hx]

/-- A swap that no command waits for asks for the digest of region 18 (19_pair R474; the model's choice, log entry 137). -/
theorem State.genDrained_asks_digest (hx : w.waiter = none) :
    s.genDrained = ({ s with tables := { s.tables with swap := none } } : State).emit (.linkReq (.digest 18)) := by
  simp [State.genDrained, hs, hd, hpin, hx]

end Drained

/-- Settles O10: the command, the boundary and the end of a swap, each by its equation. A swap that no command waits for, with the digest
of region 18 asked for at its end (log entry 137), and the generation kept as a table of the master (log entry 100) are the model's
choices. -/
theorem generationSwapRuns : Obligations.GenerationSwapRuns := by
  refine ⟨?start, ?boundary, ?drained⟩
  case start =>
    intro s p had hp hs hw
    exact congrArg Host.Outcome.next (State.runCommand_pending had (doGenSwap_starts hp hs hw))
  case boundary =>
    intro s w hs hd hround
    refine ⟨_, congrArg Host.Outcome.next (State.genBoundary_turns hs hd hround), ?_, rfl⟩
    intro q hq
    obtain ⟨_, _, rfl⟩ := List.mem_map.mp hq
    rfl
  case drained =>
    intro s w hs hd hpin
    exact ⟨fun x hx => congrArg Host.Outcome.next (State.genDrained_replies hs hd hpin hx),
      fun hx => congrArg Host.Outcome.next (State.genDrained_asks_digest hs hd hpin hx)⟩

end Sys2Proof.Machine
end

section
/-!
The work of the maintenance slots: learning and ageing (08_tables R215, R218, R219), scrubbing (R225) and the repair of replicas (R226,
R227).
-/

namespace Sys2Proof.Machine

/-! ### The learning slot (08_tables R215, R218) -/

/-- A slot of the round that the quad's service port has for learning does the quad's learning work. -/
theorem State.learnSlot_of_maintenance {s t : State} {q cycle : Nat} (hm : s.maintenance q 0 2 cycle = some t) :
    s.learnSlot q cycle = t.learnIn q (s.absCycle cycle) := by
  simp [State.learnSlot, hm]

section LearnIn
variable {s : State} {q cycle : Nat}

theorem State.learnIn_removes {x : Nat × Nat × BitVec 16} {r : List (Nat × Nat × BitVec 16)} (hr : (s.quad q).removals = x :: r) :
    s.learnIn q cycle = (s.tick 0x69 (16 + q)).ageRemove q cycle x := by
  simp [State.learnIn, hr]

variable (hr : (s.quad q).removals = []) (hon : learnOn (s.quadBlock q) = true)
include hr hon

theorem State.learnIn_writes {p : LearnPlan} (hplan : (s.quad q).plan = some p) :
    s.learnIn q cycle = (s.tick 0x69 (16 + q)).learnWrite q cycle p := by
  simp [State.learnIn, hr, hon, hplan]

theorem State.learnIn_searches {c : Candidate} {r : List Candidate} (hplan : (s.quad q).plan = none)
    (hq : (s.quad q).lqueue = c :: r) (hfcs : c.fcsOk = some true) :
    s.learnIn q cycle =
      ((s.modQuad q fun u => { u with lqueue := r }).tick 0x69 (16 + q)).learnSearch q cycle c := by
  cases hf : c.frame <;> simp [State.learnIn, hr, hon, hplan, hq, hfcs, hf]

end LearnIn

/-! ### The ageing scan (08_tables R218, R219) -/

/-- AGE_SCAN with none running starts a scan of the quads it selects. -/
theorem doAgeScan_starts {w : Waiter} {p : Pkt} {ps : List Byte} {s : State} (hs : s.tables.scan = none) :
    doAgeScan w p ps s = pendingReply { s with tables := { s.tables with
      scan := some {
        waiter := w, limit := fld (img ps) 16 16, remove := bitAt (img ps) 4, next := []
        quads := (List.finRange 4).filter fun q => bitAt (img ps) q.val, rowsRead := 0, rowsRemoved := 0 } } } := by
  simp [doAgeScan, hs]

/-- An ageing-read slot of a selected quad reads the scan's next row. -/
theorem State.ageRead_of_maintenance {s t : State} {q : Fin 4} {cycle : Nat} {a : AgeScan} (hs : s.tables.scan = some a)
    (hq : q ∈ a.quads) (hm : s.maintenance q.val 0 4 cycle = some t) :
    s.ageRead q cycle = t.ageRow q a (s.absCycle cycle) := by
  simp [State.ageRead, hs, hq, hm]

/-- A row that a scan reads counts, and the quad moves on to its next row, whatever the row holds. -/
theorem State.ageRow_counts (s : State) (q : Fin 4) (a : AgeScan) (cycle : Nat) :
    ∃ b, (s.ageRow q a cycle).tables.scan = some b ∧ b.rowsRead = a.rowsRead + 1 ∧
      b.next = tset 0 a.next q.val (tget 0 a.next q.val + 1) :=
  ⟨_, rfl, rfl, rfl⟩

/-- A scan with every quad done and no removal waiting replies with its counts. -/
theorem State.ageScanDone_replies {s : State} {a : AgeScan} (hs : s.tables.scan = some a) (hq : a.quads = [])
    (hr : (s.tables.quads.all fun u => u.removals.isEmpty) = true) :
    s.ageScanDone = ({ s with tables := { s.tables with scan := none } } : State).complete a.waiter 0 0
      (bytesLe 8 a.rowsRead ++ bytesLe 8 a.rowsRemoved) := by
  simp only [State.ageScanDone, hs, hq, hr, List.isEmpty_nil, and_self, if_true]

/-! ### The scrubber (08_tables R225) -/

@[simp] theorem State.scrubRow_clean (s : State) (q code i cycle : Nat) : s.scrubRow q code i cycle .clean = s := rfl

@[simp] theorem State.scrubRow_corrected (s : State) (q code i cycle : Nat) :
    s.scrubRow q code i cycle .corrected = s.tick 0x60 (16 + q) := rfl

@[simp] theorem State.scrubData_clean (s : State) (q code gen i cycle : Nat) : s.scrubData q code gen i cycle .clean = s := rfl

@[simp] theorem State.scrubData_corrected (s : State) (q code gen i cycle : Nat) :
    s.scrubData q code gen i cycle .corrected = s.tick 0x5D (16 + q) := rfl

/-- A scrub slot of a memory with maintenance slots counts, then treats the row of an associative table and the entry under SECDED. -/
theorem State.scrub_of_memSlot {s u : State} {q i cycle : Nat} {t : TableId} {key data : ScrubFinding} (hi : i < memSize t)
    (ht : t ≠ .automata) (hu : s.memSlot q t 3 cycle = some u) :
    s.scrub q t i cycle key data =
      (let v := u.tick 0x6A (16 + q)
       (if associative t then v.scrubRow q (memEntry t i).1 i (s.absCycle cycle) key else v).scrubData q (memEntry t i).1
         (memEntry t i).2.1 (memEntry t i).2.2 (s.absCycle cycle) data) := by
  simp [State.scrub, Nat.not_le.mpr hi, hu, ht]

/-! ### Replica repair (08_tables R226, R227) -/

/-- A block whose digest differs from its master's is rewritten row by row, whether or not the scrubber has marked it. -/
theorem State.repairBlock_rewrites {s v : State} {q code gen block : Nat} {t : TableId} {rows : List Nat}
    (hrows : s.blockRows code block = rows) (hv : s.repairSlots q t (rows.length - 1) = v)
    (hdiff : v.blockDigest v.tables.master code gen block ≠ v.blockDigest (v.quad q).rep code gen block) :
    s.repairBlock q t code gen block false =
      (((rows.foldl (fun (x : State) i => x.slotWrite q 5 0x6C (tkey code gen i) (x.master code gen i)) v).modQuad q
        fun x => { x with marked := unmark x.marked (tkey code gen block) }).repairSlots q t rows.length).tick 0x62 (16 + q) := by
  subst hrows hv
  simp [State.repairBlock, hdiff]

/-- A repair slot of a block that D0 can repair: it has rows, no master of it is damaged and no write to it is queued. -/
theorem State.repair_of_memSlot {s u : State} {q b cycle code gen block : Nat} {t : TableId} {bad : Bool} (hw : s.d0Writable = true)
    (hb : memBlock t b = (code, gen, block)) (hrows : s.blockRows code block ≠ []) (hdam : s.tables.damaged = [])
    (hqueued : s.blockQueued q code gen block (s.absCycle cycle) = false) (hu : s.memSlot q t 5 cycle = some u) :
    s.repair q t b cycle bad =
      (if t = .automata then u else u.tick 0x6C (16 + q)).repairBlock q t code gen block bad := by
  simp [State.repair, hw, hb, hrows, hdam, hqueued, hu]

/-- Settles O11: each event by the equation of the work its slot does. The order of the counts in the reply of AGE_SCAN is the model's
choice (log entry 62). -/
theorem learningAndAgeing : Obligations.LearningAndAgeing := by
  refine ⟨?learning, ?ageScan, ?ageingRead, ?ageScanComplete, ?scrub, ?repair⟩
  case learning =>
    intro s t q c hm
    have hslot : exec (.learningSlot q c) s = .next (t.learnIn q.val (s.absCycle c.val)) :=
      congrArg Host.Outcome.next (State.learnSlot_of_maintenance hm)
    rw [hslot]
    refine ⟨?removal, ?plan, ?candidate⟩
    case removal =>
      intro x r hr
      rw [State.learnIn_removes hr]
    case plan =>
      intro p hr hon hplan
      rw [State.learnIn_writes hr hon hplan]
    case candidate =>
      intro x r hr hon hplan hq hfcs
      rw [State.learnIn_searches hr hon hplan hq hfcs]
  case ageScan =>
    intro s p had hs
    exact congrArg Host.Outcome.next (State.runCommand_pending had (doAgeScan_starts hs))
  case ageingRead =>
    intro s t q c a hs hq hm
    obtain ⟨b, hscan, hread, hnext⟩ := t.ageRow_counts q a (s.absCycle c.val)
    exact ⟨_, b, congrArg Host.Outcome.next (State.ageRead_of_maintenance hs hq hm), hscan, hread, hnext⟩
  case ageScanComplete =>
    intro s a hs hq hr
    exact congrArg Host.Outcome.next (State.ageScanDone_replies hs hq hr)
  case scrub =>
    intro s u q t i c hi ht hu
    constructor
    · intro hassoc
      refine congrArg Host.Outcome.next ((State.scrub_of_memSlot hi ht hu).trans ?_)
      simp [hassoc]
    · refine congrArg Host.Outcome.next ((State.scrub_of_memSlot hi ht hu).trans ?_)
      simp
  case repair =>
    intro s u v q t b code gen block c rows hw hb hne hdam hqueued hu hrows hv hdiff
    exact congrArg Host.Outcome.next
      ((State.repair_of_memSlot hw hb hne hdam hqueued hu).trans (State.repairBlock_rewrites hrows hv hdiff))

end Sys2Proof.Machine
end

section
/-!
The ends of recounts and fences, the change of a dirty-page log, and the function level resets (11_pool R292; 17_host R413; 18_instances
R454, R455, R457).
-/

namespace Sys2Proof.Machine

/-! ### The end of a recount (11_pool R292) -/

section Recount
variable {s u v w : State} {r : Recount}
  (hr : s.pool.recount = some r)
  (hd : s.due ((r.start + recountCycles) * 800) = true)
  (hu : r.reqs.foldl (fun (t : State) n => t.recountReq n) (s.reach ((r.start + recountCycles) * 800)) = u)
  (hv : r.waiters.foldl (fun (t : State) x => t.complete x 0 0 [])
    (({ u with pool := { u.pool with recount := none } } : State).raise 1298) = v)
  (hw : r.reqs.foldl (fun (t : State) n => if (t.inst n).st = .fencing then t else t.finishReset n) v = w)
include hr hd hu hv hw

/-- The scan's end is its three runs, over the requesters, the commands that wait and the requesters again; then the next scan starts
where a reset waits for one. -/
theorem State.recountEnd_of_due {next : List Nat}
    (hn : (List.range 64).filter (fun n => (w.inst n).resetWait.isSome && (w.inst n).st != .fencing) = next) :
    s.recountEnd = if next.isEmpty then w else w.startRecount next [] := by
  subst hu hv hw hn
  simp only [State.recountEnd, hr, hd, Bool.not_true, Bool.false_eq_true, if_false]

end Recount

/-! ### Dirty-page logs (18_instances R457) -/

section DirtyLog
variable {w : Waiter} {p : Pkt} {ps : List Byte} {s : State} (hs : (s.inst (blkInst ps)).swap = none)
include hs

/-- SWAP puts the new log in force at once and keeps the old one, or a blank one where logging was off, for its reply. -/
theorem doDirtyLog_swaps (hop : byteAt ps 1 = 0) :
    doDirtyLog w p ps s = pendingReply (s.modInst (blkInst ps) fun i => { i with
      dirty := some { base := BitVec.ofNat 64 (leAt ps 8 8), log2 := byteAt ps 0x10, count := 0, overflow := false }
      dirtyFilter := []
      swap := some ((s.inst (blkInst ps)).dirty.getD { base := 0, log2 := 0, count := 0, overflow := false }, w) }) := by
  cases hd : (s.inst (blkInst ps)).dirty <;> simp [doDirtyLog, hs, hop, hd]

/-- STOP ends a log that is on and keeps it for its reply. -/
theorem doDirtyLog_stops {l : DirtyLog} (hop : byteAt ps 1 = 1) (hd : (s.inst (blkInst ps)).dirty = some l) :
    doDirtyLog w p ps s = pendingReply (s.modInst (blkInst ps) fun i =>
      { i with dirty := none, dirtyFilter := [], swap := some (l, w) }) := by
  simp [doDirtyLog, hs, hop, hd]

end DirtyLog

/-- A row of DIRTY_LOG_SWAP whose handler answers PENDING; the read behind the old log's writes follows. -/
theorem State.dirtyRow_pending {s t : State} {p q : Pkt} {op : Nat} (hq : q = forceOp p 8 8 op)
    (had : s.admits 0x0805 q wfDirtyLog = true)
    (hh : doDirtyLog (s.waiterOf 0x0805 q) q q.params (s.running 0x0805 q) = pendingReply t) :
    s.dirtyRow op p = (s.endsPending 0x0805 q t).settleSwaps := by
  subst hq
  exact congrArg State.settleSwaps (State.runCommand_pending had hh)

/-! ### The end of a fence (18_instances R454, R455) -/

section Fence
variable {s u v w : State} {n : Nat}
  (hst : (s.inst n).st = .fencing)
  (hu : (if s.cp0Runs n then s.modCtx .cp0 fun _ => Ctx.init else s) = u)
  (hv : ((((u.ringsOf n).foldl (fun (t : State) r => t.fenceRing r) u).modCmdRing n fun _ => CmdRing.init).freeHolds n).recountReq n = v)
  (hw : (v.modInst n fun i => { i with st := .active, win := Window.init, fences := i.fences + 1, quiesceWait := none }).raise
    (1354 + n) = w)
include hst hu hv hw

/-- An INST_QUIESCE that waits is answered before a reset that waits ends. -/
theorem State.fenceEnd_answers_quiesce {x : Waiter} (hq : (v.inst n).quiesceWait = some x) :
    s.fenceEnd n = (w.complete x 0 0 []).finishReset n := by
  subst hu hv hw
  simp only [State.fenceEnd, hst, hq, ne_eq, not_true_eq_false, if_false]

theorem State.fenceEnd_without_quiesce (hq : (v.inst n).quiesceWait = none) : s.fenceEnd n = w.finishReset n := by
  subst hu hv hw
  simp only [State.fenceEnd, hst, hq, ne_eq, not_true_eq_false, if_false]

end Fence

/-! ### Function level resets and VF Enable (17_host R413) -/

section Flr
variable {s : State} (he : s.host.vfEnable = true)
include he

theorem State.flrVf_enabled {n : Nat} (hn : n ≠ 0) :
    s.flrVf n = ({ s with host := { s.host with fns := tdel s.host.fns n } } : State).startFence n := by
  simp [State.flrVf, hn, he]

theorem State.vfClear_enabled : s.vfClear = ({ s with host := { s.host with vfEnable := false } } : State).fenceGuests :=
  if_pos he

end Flr

/-- Settles O28: each event by the equation of its end. The next scan for the resets that came in meanwhile is the model's choice (log
entry 108), and so is the format of STOP (log entry 31). -/
theorem instanceEventsRun : Obligations.InstanceEventsRun := by
  refine ⟨?recount, ?swap, ?stop, ?fence, ?flrVf, ?vfClear, ?flrPf⟩
  case recount =>
    intro s u v w r hr hd hu hv hw
    exact congrArg Host.Outcome.next (State.recountEnd_of_due hr hd hu hv hw rfl)
  case swap =>
    rintro s _ p q hq had rfl hop hs
    exact congrArg Host.Outcome.next (State.dirtyRow_pending hq had (doDirtyLog_swaps hs hop))
  case stop =>
    rintro s _ p q l hq had rfl hop hs hd
    exact congrArg Host.Outcome.next (State.dirtyRow_pending hq had (doDirtyLog_stops hs hop hd))
  case fence =>
    intro s u v w n hst hu hv hw
    refine congrArg Host.Outcome.next ?_
    cases hq : (v.inst n.val).quiesceWait with
    | some x => exact State.fenceEnd_answers_quiesce hst hu hv hw hq
    | none => exact State.fenceEnd_without_quiesce hst hu hv hw hq
  case flrVf =>
    intro s n hn he
    exact congrArg Host.Outcome.next (State.flrVf_enabled he hn)
  case vfClear =>
    intro s he
    exact congrArg Host.Outcome.next (State.vfClear_enabled he)
  case flrPf => exact fun s => ⟨_, rfl, rfl⟩

end Sys2Proof.Machine
end

section
/-!
The pool service windows, the refills of the shapers and the gate control lists (11_pool R279, R280; 12_egress R300 to R308).
-/

namespace Sys2Proof.Machine

/-! ### Pool service windows (11_pool R279) -/

section PoolWindow
variable {s u v : State} {bank : Nat} (hv : s.modBank bank (fun b => b.settle s.nowBuffer) = v)
include hv

theorem State.poolWindow_spills (h : 192 < (v.bank bank).cached) : s.poolWindow bank = v.spillBank bank := by
  subst hv
  exact if_pos h

theorem State.poolWindow_fills (h : (v.bank bank).cached < 64) (hc : 64 ≤ (v.bank bank).count) :
    s.poolWindow bank = v.fillBank bank := by
  subst hv
  exact (if_neg (by omega)).trans (if_pos ⟨h, hc⟩)

theorem State.poolWindow_unused (h : (v.bank bank).cached ≤ 192) (hf : 64 ≤ (v.bank bank).cached ∨ (v.bank bank).count < 64) :
    s.poolWindow bank = v := by
  subst hv
  exact (if_neg (by omega)).trans (if_neg (by omega))

end PoolWindow

section PoolService
variable {s u : State} {cycle bank : Nat} (hu : s.at_ (bufferAt8 cycle) = u)
include hu

theorem State.poolService_outside (h : u.windowOk cycle bank 5 bank = false) : s.poolService cycle bank = u := by
  subst hu
  exact if_neg (Bool.eq_false_iff.1 h)

theorem State.poolService_in_window (h : u.windowOk cycle bank 5 bank = true) : s.poolService cycle bank = u.poolWindow bank := by
  subst hu
  exact if_pos h

end PoolService

/-! ### The refill counter (12_egress R300)

Entries that come into force and credits that rise leave it as it is. -/

@[simp] theorem State.takeSchedQ_refill (s : State) (q : Nat) (e : Image) : (s.takeSchedQ q e).buf.refill = s.buf.refill := by
  unfold State.takeSchedQ State.zeroDeficit State.modWire
  dsimp only
  split <;> split <;> simp

@[simp] theorem State.takeSchedP_refill (s : State) (lp : Nat) (e : Image) : (s.takeSchedP lp e).buf.refill = s.buf.refill := rfl

/-- A run of changes to queues or to ports, by keys of their tables. -/
theorem State.foldl_refill {f : State → Nat → State} (h : ∀ s k, (f s k).buf.refill = s.buf.refill) (s : State)
    (l : List (Nat × Image)) :
    (l.foldl (fun (t : State) x => f t (x.1 % 2 ^ 32)) s).buf.refill = s.buf.refill :=
  foldl_invariant (π := fun t : State => t.buf.refill) (fun t x => h t (x.1 % 2 ^ 32)) s l

@[simp] theorem State.takeSched_refill (s : State) : s.takeSched.buf.refill = s.buf.refill := by
  refine foldl_invariant (π := fun t : State => t.buf.refill) (fun t k => ?_) s _
  split <;> simp

@[simp] theorem State.refillQueue_refill (s : State) (q : Nat) : (s.refillQueue q).buf.refill = s.buf.refill := by
  unfold State.refillQueue
  dsimp only
  split
  · rfl
  · split <;> rfl

@[simp] theorem State.refillPort_refill (s : State) (lp : Nat) : (s.refillPort lp).buf.refill = s.buf.refill := by
  unfold State.refillPort
  dsimp only
  split <;> rfl

theorem State.refill_advances (s : State) : s.refill.buf.refill = (s.buf.refill + 1) % 8 := by
  unfold State.refill
  dsimp only
  rw [State.foldl_refill State.refillPort_refill, State.foldl_refill State.refillQueue_refill, State.takeSched_refill]
  rfl

/-! ### Gate control lists (12_egress R305, R306) -/

/-- A port whose list is in force from now on, at its position of a device time, with none pending. -/
def EgressPort.inForce (e : EgressPort) (g : Image) (t : DevTime) : EgressPort :=
  ({ e with gates := some g, gatesNext := none, gatesNextRound := none, gatesArm := none } : EgressPort).position t

section GateSwitch
variable {s : State} {lp : Nat}

theorem State.gateSwitch_without_list (h : (s.egr lp).gatesNext = none) : s.gateSwitch lp = s := by
  simp [State.gateSwitch, h]

section Pending
variable {g : Image} {x : DevTime} (h : (s.egr lp).gatesNext = some (g, x))
include h

/-- A list with gate_enable clear comes into force at its round. -/
theorem State.gateSwitch_at_round {r : BitVec 64} (hr : (s.egr lp).gatesNextRound = some r) :
    s.gateSwitch lp = if r ≤ s.tt.round then s.modEgr lp fun e => e.inForce g s.devTime else s := by
  simp [State.gateSwitch, h, hr, EgressPort.inForce]

/-- A list with gate_enable set comes into force at its X, once the round that gives X has begun. -/
theorem State.gateSwitch_at_X (hr : (s.egr lp).gatesNextRound = none) {due : Prop} [Decidable due]
    (hdue : due ↔ (∀ r, (s.egr lp).gatesArm = some r → r ≤ s.tt.round) ∧ x ≤ s.devTime) :
    s.gateSwitch lp = if due then s.modEgr lp fun e => e.inForce g s.devTime else s := by
  cases ha : (s.egr lp).gatesArm <;> simp [State.gateSwitch, h, hr, ha, hdue, EgressPort.inForce]

end Pending
end GateSwitch

theorem State.gateAdvance_with_list {s : State} {lp : Nat} (h : (s.egr lp).gates.isSome = true) :
    s.gateAdvance lp = s.modEgr lp fun e => e.position s.devTime := by
  obtain ⟨g, hg⟩ := Option.isSome_iff_exists.1 h
  simp [State.gateAdvance, hg]

theorem State.gateAdvance_without_list {s : State} {lp : Nat} (h : (s.egr lp).gates = none) : s.gateAdvance lp = s := by
  simp [State.gateAdvance, h]

/-- Settles O45: each event by the equations of its cases. That a GATE_SWITCH which is not due, or a window which is not one, does nothing
is the model's choice (log entry 104), and so are the windows while no image is active (log entry 111). -/
theorem windowsAndGatesRun : Obligations.WindowsAndGatesRun := by
  refine ⟨?pool, fun s => ⟨s.refill, rfl, s.refill_advances⟩, ?switch, ?advance⟩
  case pool =>
    intro s u v c b hu hv
    refine ⟨fun h => congrArg Host.Outcome.next (State.poolService_outside hu h), fun h => ?_⟩
    have hwin := State.poolService_in_window hu h
    exact ⟨fun hs => congrArg Host.Outcome.next (hwin.trans (State.poolWindow_spills hv hs)),
      fun hf hc => congrArg Host.Outcome.next (hwin.trans (State.poolWindow_fills hv hf hc)),
      fun hs hf => congrArg Host.Outcome.next (hwin.trans (State.poolWindow_unused hv hs hf))⟩
  case switch =>
    rintro s _ lp a rfl
    have hrow {t : State} (ht : (s.at_ a.val).gateSwitch lp.val = t) :
        exec (.gateSwitch lp a) s = .next (t.markBlocked lp.val) :=
      congrArg (fun t : State => Host.Outcome.next (t.markBlocked lp.val)) ht
    refine ⟨fun h => hrow (State.gateSwitch_without_list h), fun g x h => ⟨fun r hr => ?_, fun hr => ?_⟩⟩
    · rw [hrow (State.gateSwitch_at_round h hr), apply_ite (State.markBlocked · lp.val)]
      rfl
    · rw [hrow (State.gateSwitch_at_X h hr Iff.rfl), apply_ite (State.markBlocked · lp.val)]
      rfl
  case advance =>
    rintro s _ lp a rfl
    exact ⟨fun h => congrArg Host.Outcome.next (State.gateAdvance_with_list h),
      fun h => congrArg Host.Outcome.next (State.gateAdvance_without_list h)⟩

end Sys2Proof.Machine
end

section
/-!
Copies on their way out: the pick of a port, the end of a copy on the wire, the flush of a port, and the cell pool (12_egress R295 to
R299; 04_line R106, R114; 10_buffer R255; 13_cabinet R323; 11_pool R283, R287).
-/

namespace Sys2Proof.Machine

/-! ### The pick (12_egress R295, R299; 13_cabinet R323) -/

theorem State.pick_of_blocked {s : State} {lp : Nat} {bad : Bool}
    (h : s.isUp lp = false ∨ s.flt.safe = true ∨ s.boot.warmLow = true ∨ s.inFlush lp = true) : s.pick lp bad = s := by
  refine if_pos ?_
  rcases h with h | h | h | h <;> simp [h]

section Pick
variable {s x v : State} {lp : Nat} {bad : Bool}
  (hup : s.isUp lp = true) (hsafe : s.flt.safe = false) (hwarm : s.boot.warmLow = false) (hflush : s.inFlush lp = false)
  (hx : (s.sendPauses lp).settlePort lp = x)
include hup hsafe hwarm hflush hx

/-- The wire cannot be followed yet: only the pause frames and the copies that became too long are dealt with. -/
theorem State.pick_of_busy_wire (hm : x.mayPick lp = false) : s.pick lp bad = x := by
  simp [State.pick, hup, hsafe, hwarm, hflush, hx, hm]

theorem State.pick_of_no_class (hm : x.mayPick lp = true)
    (hk : ((x.markBlocked lp).countWaits lp).pickClass lp = (v, none)) : s.pick lp bad = v := by
  simp [State.pick, hup, hsafe, hwarm, hflush, hx, hm, hk]

theorem State.pick_of_class {k : Nat} (hm : x.mayPick lp = true)
    (hk : ((x.markBlocked lp).countWaits lp).pickClass lp = (v, some k)) :
    s.pick lp bad = v.startCopy lp (16 * lp + k) bad := by
  simp [State.pick, hup, hsafe, hwarm, hflush, hx, hm, hk]

end Pick

/-- A copy with a good head that has its staging entry, or needs none, is launched. -/
theorem State.startCopy_launches {s : State} {lp q : Nat} {e : QEntry} {f : Stored} {held : Option Nat}
    (hc : s.firstCopy q = some (e, f)) (hh : (s.unlinkFirst q).holdEntry f = some held) :
    s.startCopy lp q false = (s.unlinkFirst q).launch lp q e f false held := by
  simp [State.startCopy, hc, hh]

/-! ### The end on the wire (12_egress R298; 04_line R106) -/

section Transmit
variable {s : State} {lp : Nat}

theorem State.transmitEnd_of_idle_wire (h : (s.egr lp).wire = []) : s.transmitEnd lp = s := by
  simp [State.transmitEnd, h]

section Busy
variable {w : TxFrame} {rest : List TxFrame} (hw : (s.egr lp).wire = w :: rest)
include hw

theorem State.transmitEnd_without_frame (hf : s.stored? w.frame = none) : s.transmitEnd lp = s.finishTx lp := by
  simp [State.transmitEnd, hw, hf]

variable {f : Stored} (hf : s.stored? w.frame = some f)
include hf

theorem State.transmitEnd_early (h : f.lastIn = false ∨ s.due (s.lineEnd lp w) = false) : s.transmitEnd lp = s := by
  simp only [State.transmitEnd, hw, hf]
  exact if_pos (by simpa using h)

theorem State.transmitEnd_due {v : State} (hl : f.lastIn = true) (hd : s.due (s.lineEnd lp w) = true)
    (hv : ((s.reach (s.lineEnd lp w)).finishTx lp).addBack w ((w.estimate : Int) - (w.sentLen f : Nat)) = v) :
    s.transmitEnd lp = if v.isUp lp then v else v.settleIsland (macroOf lp) := by
  subst hv
  simp only [State.transmitEnd, hw, hf]
  exact if_neg (by simp [hl, hd])

end Busy
end Transmit

/-! ### The flush of a port (10_buffer R255) -/

section Flush
variable {s u : State} {lp cycle bank : Nat} (hu : s.at_ (bufferAt8 cycle) = u)
include hu

theorem State.flushOne_unused (h : (u.egr lp).flushing = false ∨ u.windowOk cycle bank 3 lp = false) :
    s.flushOne lp cycle bank = u := by
  subst hu
  exact if_pos (by simpa using h)

variable (hfl : (u.egr lp).flushing = true) (hwin : u.windowOk cycle bank 3 lp = true)
include hfl hwin

/-- With every queue of the port empty, the flush is over. -/
theorem State.flushOne_of_empty (hq : ∀ k < 16, (u.queue (16 * lp + k)).entries = []) :
    s.flushOne lp cycle bank = u.modEgr lp fun e => { e with flushing := false } := by
  have hall : ∀ k ∈ List.range 16, ¬ (!(u.queue (16 * lp + k)).entries.isEmpty) = true := fun k hk => by
    simp [hq k (List.mem_range.1 hk)]
  have hnone := List.find?_eq_none.2 hall
  have hany : (List.range 16).any (fun k => !(u.queue (16 * lp + k)).entries.isEmpty) = false := List.any_eq_false.2 hall
  simp only [State.flushOne, hu, hfl, hwin, hnone, hany, Bool.and_false]
  rfl

/-- The lowest queue that holds an entry (the model's choice, log entry 88) loses its first one, as dropped. -/
theorem State.flushOne_unlinks {v : State} {k : Nat} {e : QEntry} {f : Stored}
    (hk : (List.range 16).find? (fun k => !(u.queue (16 * lp + k)).entries.isEmpty) = some k)
    (hc : u.firstCopy (16 * lp + k) = some (e, f))
    (hv : (((u.unlinkFirst (16 * lp + k)).modEgr lp fun e => { e with flushDrop := e.flushDrop + 1 }).dropCopyRecord f 8
      (16 * lp + k)).copyLost f.id (16 * lp + k) = v) :
    s.flushOne lp cycle bank = v.modEgr lp fun e =>
      { e with flushing := e.flushing && (List.range 16).any fun k => !(v.queue (16 * lp + k)).entries.isEmpty } := by
  subst hv
  simp only [State.flushOne, hu, hfl, hwin, hk, hc]
  rfl

end Flush

/-! ### The cell pool (11_pool R283, R287) -/

theorem State.walkOne_of_none {s : State} (h : s.pool.walks = []) : s.walkOne = s := by
  simp [State.walkOne, h]

/-- The oldest freed chain is walked whole (the model's choice, log entry 89). -/
theorem State.walkOne_returns {s : State} {c n : Nat} {rest : List (Nat × Nat)} (h : s.pool.walks = (c, n) :: rest) :
    s.walkOne = (chainCells s.buf.links n c).foldl State.returnCell { s with pool := { s.pool with walks := rest } } := by
  simp only [State.walkOne, h]

/-- A request is granted within the quota and the free cells outside the arrival reserve. -/
theorem State.mayAllocate_iff (s : State) (r n : Nat) :
    s.mayAllocate r n = true ↔ (s.req r).charge + n ≤ (s.req r).quota ∧ n + (reserveCells - s.reserveUse) ≤ s.freeCells := by
  simp [State.mayAllocate]

theorem State.poolAllocate_eq (s : State) (r n : Nat) :
    s.poolAllocate r n = if (s.req r).charge + n ≤ (s.req r).quota ∧ n + (reserveCells - s.reserveUse) ≤ s.freeCells
      then (s.allocate r n).2 else s.refuseAllocation r :=
  if_congr (s.mayAllocate_iff r n) rfl rfl

/-- Settles O44: each row by the equations of its cases. The model's choices among them: a pick is made when it is commanded (log entry
70), a flush takes the lowest queue first (log entry 88), a walk returns a whole chain (log entry 89), and a row whose condition does not
hold does nothing (log entry 104). -/
theorem copiesLeave : Obligations.CopiesLeave := by
  refine ⟨?pick, ?transmit, ?flush, ?walk, ?allocate⟩
  case pick =>
    rintro s _ x lp bad a rfl hx
    refine ⟨fun h => congrArg Host.Outcome.next (State.pick_of_blocked h), fun hup hsafe hwarm hflush => ⟨?_, ?_, ?_⟩⟩
    · exact fun hm => congrArg Host.Outcome.next (State.pick_of_busy_wire hup hsafe hwarm hflush hx hm)
    · exact fun v hm hk => congrArg Host.Outcome.next (State.pick_of_no_class hup hsafe hwarm hflush hx hm hk)
    · exact fun v k hm hk => ⟨congrArg Host.Outcome.next (State.pick_of_class hup hsafe hwarm hflush hx hm hk),
        fun e f held hc hh => State.startCopy_launches hc hh⟩
  case transmit =>
    rintro s _ lp a rfl
    refine ⟨fun h => congrArg Host.Outcome.next (State.transmitEnd_of_idle_wire h), fun w rest hw => ⟨?_, fun f hf => ⟨?_, ?_⟩⟩⟩
    · exact fun hf => congrArg Host.Outcome.next (State.transmitEnd_without_frame hw hf)
    · exact fun h => congrArg Host.Outcome.next (State.transmitEnd_early hw hf h)
    · exact fun v hl hd hv => congrArg Host.Outcome.next (State.transmitEnd_due hw hf hl hd hv)
  case flush =>
    intro s u lp c b hu
    refine ⟨fun h => congrArg Host.Outcome.next (State.flushOne_unused hu h), fun hfl hwin => ⟨?_, ?_⟩⟩
    · exact fun hq => congrArg Host.Outcome.next (State.flushOne_of_empty hu hfl hwin hq)
    · exact fun k e f v hk hc hv => congrArg Host.Outcome.next (State.flushOne_unlinks hu hfl hwin hk hc hv)
  case walk =>
    exact fun s => ⟨fun h => congrArg Host.Outcome.next (State.walkOne_of_none h),
      fun c n rest h => congrArg Host.Outcome.next (State.walkOne_returns h)⟩
  case allocate => exact fun s r n => congrArg Host.Outcome.next (s.poolAllocate_eq r.val n)

end Sys2Proof.Machine
end

section
/-!
Seals and records leave the environment alone, and with it the device identity that DRAWER_OPEN answers (13_cabinet R315, R327): one lemma
for each operation on the way of a seal into the Cabinet.
-/

namespace Sys2Proof.Machine

/-! ### Counted events (21_counters R504) -/

theorem State.env_of_interior {s t : State} (h : t.interior = s.interior) : t.env = s.env := by
  injection h

@[simp] theorem State.raise_env (s : State) (src : Nat) : (s.raise src).env = s.env :=
  State.env_of_interior (s.raise_interior src)

@[simp] theorem State.addCtr_env (s : State) (k n : Nat) : (s.addCtr k n).env = s.env := by
  simp [State.addCtr, apply_ite State.env]

@[simp] theorem State.tick_env (s : State) (code unit n : Nat) : (s.tick code unit n).env = s.env :=
  foldl_invariant (π := State.env) (fun t c => by simp [apply_ite State.env]) s s.pmc.inForce

/-! ### Records and seals (13_cabinet R324, R327, R329) -/

@[simp] theorem State.cabWrite_env (s : State) (a : Nat) (bs : List Byte) (n : Nat) : (s.cabWrite a bs n).env = s.env := by
  induction n generalizing s a bs with
  | zero => rfl
  | succ n ih =>
    unfold State.cabWrite
    split
    · rfl
    · simp [ih, apply_ite State.env]

@[simp] theorem State.placeAt_env (s : State) (d p : Nat) (bytes : List Byte) : (s.placeAt d p bytes).env = s.env := by
  simp [State.placeAt, State.cabPut]

theorem State.placeRecord_env {s t : State} {d typ : Nat} {own : Bool} {body : List Byte}
    (h : s.placeRecord d typ own body = some t) : t.env = s.env := by
  unfold State.placeRecord at h
  dsimp only at h
  split at h
  · contradiction
  · split at h
    · obtain rfl := Option.some.inj h
      simp
    · contradiction

@[simp] theorem State.writeGap_env (s : State) (d c : Nat) : (s.writeGap d c).env = s.env := by
  unfold State.writeGap
  dsimp only
  split
  · rfl
  · split
    · rfl
    · split
      · next h => exact (State.modEvClass_env ..).trans (State.placeRecord_env h)
      · rfl

@[simp] theorem State.sealDrawer_env (s : State) (d kind : Nat) : (s.sealDrawer d kind).env = s.env := by
  have hgaps : ((s.classesOf d).foldl (fun t c => t.writeGap d c) s).env = s.env :=
    foldl_invariant (fun t c => t.writeGap_env d c) s _
  unfold State.sealDrawer
  dsimp only
  split
  · exact hgaps
  · split
    · exact hgaps
    · simp [hgaps]

end Sys2Proof.Machine
end

section
/-!
Drawers: the commands that open, close and erase one, the end of an erase, and the read position that software moves (13_cabinet R315 to
R317, R330).
-/

namespace Sys2Proof.Machine

/-! ### DRAWER_OPEN (13_cabinet R315, R316, R327) -/

/-- What the parameters of DRAWER_OPEN make of an EMPTY drawer. -/
def newDrawer (ps : List Byte) : Drawer :=
  { Drawer.init with
    st := .opened
    typ := fld (img ps) 8 2
    wrap := bitAt (img ps) 10
    policy := BitVec.ofNat 8 (fld (img ps) 24 8)
    sealKey := fld (img ps) 32 2
    base := fld (img ps) 64 64
    size := fld (img ps) 128 64
    label := BitVec.ofNat 128 (fld (img ps) 192 128) }

/-- The classes that the parameters of DRAWER_OPEN name, mapped to its drawer. -/
def State.mapClasses (s : State) (ps : List Byte) : State :=
  (List.range 8).foldl (fun (s : State) c => if bitAt (img ps) (16 + c) then
    s.modEvClass c fun e => { e with drawer := some (fld (img ps) 0 6), dropUnrec := bitAt (img ps) (24 + c) } else s) s

/-- The opening of a drawer: an EVIDENCE drawer has its opening seal before a class is mapped to it. -/
def State.openDrawer (s : State) (ps : List Byte) : State :=
  let o := s.modDrawer (fld (img ps) 0 6) fun _ => newDrawer ps
  (if fld (img ps) 8 2 = 1 then o.sealDrawer (fld (img ps) 0 6) 0 else o).mapClasses ps

@[simp] theorem State.mapClasses_env (s : State) (ps : List Byte) : (s.mapClasses ps).env = s.env :=
  foldl_invariant (π := State.env) (fun t c => by simp [apply_ite State.env]) s _

@[simp] theorem State.openDrawer_env (s : State) (ps : List Byte) : (s.openDrawer ps).env = s.env := by
  simp [State.openDrawer, apply_ite State.env]

section Open
variable {w : Waiter} {p : Pkt} {ps : List Byte} {s : State}
  (hst : (s.drawer (fld (img ps) 0 6)).st = .empty)
  (hpause : s.cab.paused = false)
  (hfit : fld (img ps) 64 64 + fld (img ps) 128 64 ≤ s.installed)
  (hlow : 2 ^ 30 ≤ fld (img ps) 64 64)
  (hfree : s.overlaps (fld (img ps) 64 64) (fld (img ps) 64 64 + fld (img ps) 128 64) = false)
  (hseal : fld (img ps) 8 2 = 1 → (s.key (4 + fld (img ps) 32 2)).key.isSome = true ∧ s.openEvidence.length < 8)
include hst hpause hfit hlow hfree hseal

/-- DRAWER_OPEN that neither the drawer, its extent nor its seal stands against opens the drawer. -/
theorem doDrawerOpen_opens :
    doDrawerOpen w p ps s =
      ok (s.openDrawer ps) (bytesLe 16 s.env.deviceId.toNat ++ bytesLe 16 (fld (img ps) 192 128)) := by
  have hready : ¬((s.drawer (fld (img ps) 0 6)).st != .empty || s.cab.paused) = true := by simp [hst, hpause]
  have hsealed : (fld (img ps) 8 2 == 1 &&
      ((s.key (4 + fld (img ps) 32 2)).key.isNone || decide (8 ≤ s.openEvidence.length))) = false := by
    by_cases htyp : fld (img ps) 8 2 = 1
    · obtain ⟨hkey, hlen⟩ := hseal htyp
      simp [hlen, Option.isNone_eq_false_iff.mpr hkey]
    · simp [htyp]
  have hroom : ¬(decide (s.installed < fld (img ps) 64 64 + fld (img ps) 128 64) || decide (fld (img ps) 64 64 < 2 ^ 30) ||
      s.overlaps (fld (img ps) 64 64) (fld (img ps) 64 64 + fld (img ps) 128 64) || (fld (img ps) 8 2 == 1 &&
      ((s.key (4 + fld (img ps) 32 2)).key.isNone || decide (8 ≤ s.openEvidence.length)))) = true := by
    rw [hsealed, hfree, decide_eq_false (Nat.not_lt.mpr hfit), decide_eq_false (Nat.not_lt.mpr hlow)]
    decide
  -- The handler reads the device identity of its reply after the opening.
  rw [← s.openDrawer_env ps]
  exact (if_neg hready).trans (if_neg hroom)

end Open

/-! ### DRAWER_CLOSE and DRAWER_ERASE (13_cabinet R317) -/

section Drawer
variable {w : Waiter} {p : Pkt} {ps : List Byte} {s : State}

theorem doDrawerClose_waits (hst : (s.drawer (fld (img ps) 0 6)).st = .opened)
    (hw : (s.drawer (fld (img ps) 0 6)).waiter = none) :
    doDrawerClose w p ps s = pendingReply (s.modDrawer (fld (img ps) 0 6) fun x => { x with waiter := some w }) := by
  simp [doDrawerClose, hst, hw]

theorem doDrawerErase_starts (hst : (s.drawer (fld (img ps) 0 6)).st = .closed) :
    doDrawerErase w p ps s =
      pendingReply (s.modDrawer (fld (img ps) 0 6) fun x => { x with st := .erasing, waiter := some w }) := by
  simp [doDrawerErase, hst]

/-- Outside a pause and the safe state an erase ends with the final reply to its command. -/
theorem State.eraseDone_replies {d : Nat} (hst : (s.drawer d).st = .erasing) (hw : (s.drawer d).waiter = some w)
    (hpause : s.cab.paused = false) (hsafe : s.flt.safe = false) :
    s.eraseDone d =
      ((s.zeroRange (s.drawer d).base (s.drawer d).size).modDrawer d fun _ => Drawer.init).complete w 0 0 [] := by
  simp [State.eraseDone, hst, hw, hpause, hsafe]

end Drawer

/-! ### CAB_DRW_RPOS (13_cabinet R330; 18_instances Table 18.3) -/

theorem State.rposWrite_drawer0 (s : State) (n : Nat) (v : BitVec 64) : s.rposWrite n 0 v = s := by
  simp [State.rposWrite]

/-- Through BAR0, or a guest's page that exposes the drawer, the read position moves forward within what is written; any other value is
rejected. -/
theorem State.rposWrite_exposed {s : State} {n d : Nat} (v : BitVec 64) (hd : d ≠ 0)
    (hn : n = 0 ∨ ((s.inst n).st ≠ .absent ∧ (s.inst n).st ≠ .fencing ∧ bitAt (s.inst n).drawerMask.toNat d = true)) :
    s.rposWrite n d v = s.modDrawer d fun w =>
      if (s.drawer d).rpos ≤ v.toNat ∧ v.toNat ≤ (s.drawer d).wpos then { w with rpos := v.toNat }
      else { w with rejected := true } := by
  have hpage : ¬(n ≠ 0 ∧ ((s.inst n).st = .absent ∨ (s.inst n).st = .fencing ∨ !bitAt (s.inst n).drawerMask.toNat d)) := by
    rintro ⟨hpf, hhidden⟩
    obtain ⟨habsent, hfencing, hmask⟩ := hn.resolve_left hpf
    simp [habsent, hfencing, hmask] at hhidden
  by_cases hv : (s.drawer d).rpos ≤ v.toNat ∧ v.toNat ≤ (s.drawer d).wpos
  · have hin : ¬(v.toNat < (s.drawer d).rpos ∨ (s.drawer d).wpos < v.toNat) := by omega
    simp only [State.rposWrite, if_neg hd, if_neg hpage, if_neg hin, if_pos hv]
  · have hout : v.toNat < (s.drawer d).rpos ∨ (s.drawer d).wpos < v.toNat := by omega
    simp only [State.rposWrite, if_neg hd, if_neg hpage, if_pos hout, if_neg hv]

/-- Settles O16: each command by the equation of its handler, the end of an erase and the write of a read position each by its own. That a
DRAWER_CLOSE or an erase waits for a pause to end is the model's choice (log entry 19). -/
theorem drawersComplete : Obligations.DrawersComplete := by
  refine ⟨?opens, ?closes, ?erase, ?erased, ?rpos, ?drawer0⟩
  case opens =>
    intro s p had hst hpause hfit hlow hfree hseal
    exact congrArg Host.Outcome.next (State.runCommand_ok had (doDrawerOpen_opens hst hpause hfit hlow hfree hseal))
  case closes =>
    intro s p had hst hw
    exact congrArg (Host.Outcome.next ∘ State.settleCloses) (State.runCommand_pending had (doDrawerClose_waits hst hw))
  case erase =>
    intro s p had hst
    exact congrArg Host.Outcome.next (State.runCommand_pending had (doDrawerErase_starts hst))
  case erased =>
    intro s d w hst hw hpause hsafe
    exact congrArg Host.Outcome.next (State.eraseDone_replies hst hw hpause hsafe)
  case rpos =>
    intro s n d v hd hn
    exact congrArg Host.Outcome.next (State.rposWrite_exposed v hd hn)
  case drawer0 => exact fun s n v => congrArg Host.Outcome.next (s.rposWrite_drawer0 n.val v)

end Sys2Proof.Machine
end

section
/-!
Seals on request and by the timer, the drain of staging, the configuration of capture and replay, and the replay server (13_cabinet R317,
R326, R327, R331, R335, R336).
-/

namespace Sys2Proof.Machine

/-! ### Seals (13_cabinet R317, R327) -/

theorem doSealNow_seals {w : Waiter} {p : Pkt} {ps : List Byte} {s : State} {x : State × List (Nat × Nat)}
    (hpause : s.cab.paused = false) (hd : fld (img ps) 0 6 = 0 ∨ s.openEvidence.contains (fld (img ps) 0 6) = true)
    (hx : (if fld (img ps) 0 6 = 0 then s.openEvidence else [fld (img ps) 0 6]).foldl sealStep (s, []) = x) :
    doSealNow w p ps s = ok x.1 (bytesLe 8 x.2.length ++ (x.2.map fun y => bytesLe 8 y.1 ++ bytesLe 8 y.2).flatten) := by
  have hready : ¬(s.cab.paused || (fld (img ps) 0 6 != 0 && !s.openEvidence.contains (fld (img ps) 0 6))) = true := by
    simpa [hpause, or_iff_not_imp_left] using hd
  subst hx
  exact if_neg hready

/-- The timer of an OPEN EVIDENCE drawer seals it once its last seal is 1 ms old. -/
theorem State.sealTimer_seals {s : State} {d : Nat} (hd : s.openEvidence.contains d = true) (hpause : s.cab.paused = false)
    (hsafe : s.flt.safe = false) (hage : sealSpan ≤ (s.resTime + 2 ^ 64 - (s.drawer d).sealRes) % 2 ^ 64) :
    s.sealTimer d = s.sealDrawer d 2 :=
  if_pos (by simp only [hd, hpause, hsafe, hage]; decide)

/-! ### The drain of staging (13_cabinet R326; 14_dram R349) -/

section Drain
variable {s : State} (hpause : s.cab.paused = false) (hsafe : s.flt.safe = false) (hchan : ∃ k < 16, s.chanOut k = false)
include hpause hsafe hchan

/-- Outside a pause and the safe state, with a channel in service, EVIDENCE_DRAIN goes by what is staged. -/
theorem State.evidenceDrain_of_service :
    s.evidenceDrain =
      if s.cab.staging.isEmpty then { s with cab := { s.cab with captureBuf := 0 } }
      else if s.drainRoom then s.drainOne
      else s := by
  have hserves : ¬(s.cab.paused || s.flt.safe || (List.range 16).all s.chanOut) = true := by
    obtain ⟨k, hk, hin⟩ := hchan
    have hall : (List.range 16).all s.chanOut = false := List.all_eq_false.mpr ⟨k, List.mem_range.mpr hk, by simp [hin]⟩
    simp [hpause, hsafe, hall]
  exact if_neg hserves

theorem State.evidenceDrain_of_none_staged (h : s.cab.staging = []) :
    s.evidenceDrain = { s with cab := { s.cab with captureBuf := 0 } } := by
  rw [State.evidenceDrain_of_service hpause hsafe hchan, h]
  rfl

theorem State.evidenceDrain_of_room (h : s.cab.staging ≠ []) (hroom : s.drainRoom = true) : s.evidenceDrain = s.drainOne := by
  rw [State.evidenceDrain_of_service hpause hsafe hchan, if_neg (by simpa using h), if_pos hroom]

end Drain

/-! ### REPLAY_CONFIG (13_cabinet R331; 08_tables R220, R221) -/

theorem doReplayConfig_writes {w : Waiter} {p : Pkt} {ps : List Byte} {s : State} {op : Nat} (hp : whole p)
    (hw : s.d0Writable = true) (hop : replayOp ps = op) (hfit : op = 0 → s.ringFits (le (ps.drop 8)) = true) :
    doReplayConfig w p ps s = ok (s.setReplay op (replayIndex ps) (le (ps.drop 8))) := by
  subst hop
  have hring : ¬(replayOp ps = 0 ∧ s.ringFits (le (ps.drop 8)) = false) := fun ⟨hop, hbad⟩ =>
    Bool.false_ne_true (hbad.symm.trans (hfit hop))
  simp only [doReplayConfig, hw, d0Units_of_whole hp, Bool.not_true, Bool.not_eq_true', hring, Bool.false_eq_true, one_ne_zero, if_false]

/-- The three rows of REPLAY_CONFIG are one command with the op of the row. -/
theorem exec_replayConfig {p : Pkt} {op : Nat} {c : Instr} (s : State)
    (hc : (op, c) ∈ [(0, Instr.replayConfigCapture p), (1, .replayConfigRequest p), (2, .replayConfigQuota p)]) :
    exec c s = .next (s.replayConfig op p) := by
  simp only [List.mem_cons, Prod.mk.injEq, List.not_mem_nil, or_false] at hc
  obtain ⟨rfl, rfl⟩ | ⟨rfl, rfl⟩ | ⟨rfl, rfl⟩ := hc <;> rfl

/-! ### The replay server (13_cabinet R335, R336) -/

theorem State.not_paused_or_safe {s : State} (hpause : s.cab.paused = false) (hsafe : s.flt.safe = false) :
    ¬(s.cab.paused || s.flt.safe) = true := by
  simp [hpause, hsafe]

section Serve
variable {s u : State} {r : ReplayReq} {rest : List ReplayReq} (hpause : s.cab.paused = false) (hsafe : s.flt.safe = false)
  (hq : s.cab.replayQ = r :: rest) (hu : ({ s with cab := { s.cab with replayQ := rest } } : State) = u)
include hpause hsafe hq hu

theorem State.replayServe_without_capture (hc : bitAt (u.captureEntry r.feed) 0 = false) : s.replayServe = u.tick 0x94 := by
  refine (if_neg (State.not_paused_or_safe hpause hsafe)).trans ?_
  subst hu
  simp only [hq, hc]
  rfl

section Capture
variable (hc : bitAt (u.captureEntry r.feed) 0 = true)
include hc

theorem State.replayServe_without_template (he : u.requestEntry r.tmpl = none) : s.replayServe = u := by
  refine (if_neg (State.not_paused_or_safe hpause hsafe)).trans ?_
  subst hu
  simp only [hq, hc, he]
  rfl

section Template
variable {e : Image} {v : State} {x : Option ReplayReq} (he : u.requestEntry r.tmpl = some e)
include he

theorem State.replayServe_answers (hmax : r.count ≤ fld e 16 11)
    (hrun : u.replayRun e (u.captureEntry r.feed) r (r.count - r.done) = (v, x)) :
    s.replayServe = { v with cab := { v.cab with replayQ := x.toList ++ v.cab.replayQ } } := by
  refine (if_neg (State.not_paused_or_safe hpause hsafe)).trans ?_
  subst hu
  simp only [hq, hc, he, Nat.not_lt.mpr hmax, decide_false, Bool.not_true, Bool.false_eq_true, if_false, hrun]
  cases x <;> rfl

/-- A count above the entry's is cut to it. -/
theorem State.replayServe_truncates (hmax : fld e 16 11 < r.count)
    (hrun : (u.tick 0x95).replayRun e (u.captureEntry r.feed) { r with count := fld e 16 11 } (fld e 16 11 - r.done) = (v, x)) :
    s.replayServe = { v with cab := { v.cab with replayQ := x.toList ++ v.cab.replayQ } } := by
  refine (if_neg (State.not_paused_or_safe hpause hsafe)).trans ?_
  subst hu
  simp only [hq, hc, he, hmax, decide_true, Bool.not_true, Bool.false_eq_true, if_false, if_true, hrun]
  cases x <;> rfl

end Template
end Capture
end Serve

/-- Settles O17: each command and event by the equations of its cases. The model's choices among them: a SEAL_NOW that a pause or its
drawer stands against is BUSY (log entry 20); the capture buffer drains behind the records of staging (log entries 21 and 90), of which
EVIDENCE_DRAIN writes one (log entry 98); and a request whose template has no enabled entry left is dropped (log entry 91). -/
theorem sealsAndReplayComplete : Obligations.SealsAndReplayComplete := by
  refine ⟨?sealNow, ?timer, ?drain, ?config, ?serve⟩
  case sealNow =>
    rintro s _ p _ x had rfl rfl hpause hd hx
    exact congrArg Host.Outcome.next (State.runCommand_ok had (doSealNow_seals hpause hd hx))
  case timer =>
    intro s d a hd hpause hsafe hage
    exact congrArg Host.Outcome.next (State.sealTimer_seals hd hpause hsafe hage)
  case drain =>
    rintro s _ a rfl hpause hsafe hchan
    exact ⟨fun h => congrArg Host.Outcome.next (State.evidenceDrain_of_none_staged hpause hsafe hchan h),
      fun h hroom => congrArg Host.Outcome.next (State.evidenceDrain_of_room hpause hsafe hchan h hroom)⟩
  case config =>
    intro s p op c hc had hp hw hop hfit
    have hq : whole (forceOp p 0 8 op) := hp
    exact (exec_replayConfig s hc).trans
      (congrArg Host.Outcome.next (State.runCommand_ok had (doReplayConfig_writes hq hw hop hfit)))
  case serve =>
    intro s u r rest hpause hsafe hq hu
    refine ⟨?noCapture, ?noTemplate, ?answered, ?truncated⟩
    case noCapture =>
      exact fun hc => congrArg Host.Outcome.next (State.replayServe_without_capture hpause hsafe hq hu hc)
    case noTemplate =>
      exact fun hc he => congrArg Host.Outcome.next (State.replayServe_without_template hpause hsafe hq hu hc he)
    case answered =>
      intro e v x hc he hmax hrun
      exact congrArg Host.Outcome.next (State.replayServe_answers hpause hsafe hq hu hc he hmax hrun)
    case truncated =>
      intro e v x hc he hmax hrun
      exact congrArg Host.Outcome.next (State.replayServe_truncates hpause hsafe hq hu hc he hmax hrun)

end Sys2Proof.Machine
end

section
/-!
A write to the Cabinet unit by unit: which bytes it reaches, and that it moves no channel and no drawer (14_dram R353, R356).
-/

namespace Sys2Proof.Machine

/-! ### Octet memories -/

/-- A read behind a write gives the octet written, or the one before where the write does not reach. -/
theorem memRead_memWrite {m : List (Nat × BitVec 8)} (a : Nat) (bs : List Byte) (h : Memory.wf m = true) (k : Nat) :
    memRead (memWrite m a bs) k = if a ≤ k ∧ k < a + bs.length then bs.getD (k - a) 0 else memRead m k := by
  induction bs generalizing m a with
  | nil => rw [if_neg (by simp)]; rfl
  | cons b r ih =>
    rw [memWrite, ih (a + 1) (twf_tset 0 a b h), List.length_cons]
    obtain hlt | rfl | hgt := Nat.lt_trichotomy k a
    · rw [if_neg (by omega), if_neg (by omega)]
      exact tget_tset_other 0 m b (by omega)
    · rw [if_neg (by omega), if_pos (by omega), Nat.sub_self]
      exact tget_tset_same 0 k b h
    · obtain ⟨j, rfl⟩ := Nat.exists_eq_add_of_lt hgt
      have hnext : a + j + 1 - (a + 1) = j := by omega
      have hhere : a + j + 1 - a = j + 1 := by omega
      have hin : (a + 1 ≤ a + j + 1 ∧ a + j + 1 < a + 1 + r.length) ↔ (a ≤ a + j + 1 ∧ a + j + 1 < a + (r.length + 1)) := by omega
      rw [hnext, hhere, List.getD_cons_succ]
      simp only [hin]
      congr 1
      exact tget_tset_other 0 m b (by omega)

/-! ### The Cabinet under events (20_faults R492; 21_counters R504) -/

theorem State.cab_of_interior {s t : State} (h : t.interior = s.interior) : t.cab = s.cab := by
  injection h

@[simp] theorem State.raise_cab (s : State) (src : Nat) : (s.raise src).cab = s.cab :=
  State.cab_of_interior (s.raise_interior src)

@[simp] theorem State.addCtr_cab (s : State) (k n : Nat) : (s.addCtr k n).cab = s.cab := by
  simp [State.addCtr, apply_ite State.cab]

@[simp] theorem State.tick_cab (s : State) (code unit n : Nat) : (s.tick code unit n).cab = s.cab :=
  foldl_invariant (π := State.cab) (fun t c => by simp [apply_ite State.cab]) s s.pmc.inForce

/-! ### What a write reaches -/

/-- `t` is `s` with octets written to the Cabinet from an address on, where the channels in service hold them. -/
structure CabWritten (s t : State) (a : Nat) (bs : List Byte) : Prop where
  read : ∀ k, memRead t.cab.mem k =
    if a ≤ k ∧ k < a + bs.length ∧ s.voidUnit k = false then bs.getD (k - a) 0 else memRead s.cab.mem k
  chans : t.cab.chans = s.cab.chans
  drawers : t.cab.drawers = s.cab.drawers
  wf : Memory.wf t.cab.mem = true

theorem State.voidUnit_of_chans {s t : State} (h : t.cab.chans = s.cab.chans) (k : Nat) : t.voidUnit k = s.voidUnit k := by
  simp only [State.voidUnit, State.chanOut, State.chan, h]

theorem CabWritten.nil {s : State} (a : Nat) (h : Memory.wf s.cab.mem = true) : CabWritten s s a [] where
  read k := (if_neg (by simp; omega)).symm
  chans := rfl
  drawers := rfl
  wf := h

/-- Two writes, the second where the first ends, are one write. -/
theorem CabWritten.append {s t u : State} {a b : Nat} {bs cs : List Byte} (hb : CabWritten s t a bs)
    (hc : CabWritten t u b cs) (hab : b = a + bs.length) : CabWritten s u a (bs ++ cs) where
  read k := by
    subst hab
    rw [hc.read, hb.read, State.voidUnit_of_chans hb.chans, List.length_append]
    cases s.voidUnit k with
    | true => simp
    | false =>
      obtain hfirst | hsecond := Nat.lt_or_ge k (a + bs.length)
      · rw [if_neg (by omega)]
        by_cases ha : a ≤ k
        · rw [if_pos ⟨ha, hfirst, rfl⟩, if_pos ⟨ha, by omega, rfl⟩, List.getD_append _ _ _ _ (by omega)]
        · rw [if_neg (by omega), if_neg (by omega)]
      · by_cases hk : k < a + bs.length + cs.length
        · rw [if_pos ⟨hsecond, hk, rfl⟩, if_pos ⟨by omega, by omega, rfl⟩, List.getD_append_right _ _ _ _ (by omega), Nat.sub_add_eq]
        · rw [if_neg (by omega), if_neg (by omega), if_neg (by omega)]
  chans := hc.chans.trans hb.chans
  drawers := hc.drawers.trans hb.drawers
  wf := hc.wf

/-- Octets written within one unit of 64: discarded and counted where the unit is void. -/
def State.cabUnit (s : State) (a : Nat) (bs : List Byte) : State :=
  if s.voidUnit a then s.tick 0x91
  else { s with cab := { s.cab with mem := memWrite s.cab.mem a bs, bad := unmark s.cab.bad (a / 64) } }

theorem State.voidUnit_of_same_unit (s : State) {a k : Nat} (h : k / 64 = a / 64) : s.voidUnit k = s.voidUnit a := by
  have hblock : k / 256 = a / 256 := by omega
  simp only [State.voidUnit, chanOf, hblock]

theorem State.cabUnit_written {s : State} {a : Nat} {bs : List Byte} (h : Memory.wf s.cab.mem = true)
    (hlen : a % 64 + bs.length ≤ 64) : CabWritten s (s.cabUnit a bs) a bs := by
  have hunit : ∀ k, a ≤ k → k < a + bs.length → s.voidUnit k = s.voidUnit a := fun k hlo hhi =>
    s.voidUnit_of_same_unit (by omega)
  unfold State.cabUnit
  split
  case isTrue hvoid =>
    refine ⟨fun k => ?_, by simp, by simp, by simpa using h⟩
    rw [State.tick_cab, if_neg]
    rintro ⟨hlo, hhi, hin⟩
    exact Bool.false_ne_true (hin.symm.trans ((hunit k hlo hhi).trans hvoid))
  case isFalse hin =>
    refine ⟨fun k => ?_, rfl, rfl, Memory.wf_write a bs h⟩
    refine (memRead_memWrite a bs h k).trans (if_congr ⟨fun ⟨hlo, hhi⟩ => ⟨hlo, hhi, ?_⟩, fun ⟨hlo, hhi, _⟩ => ⟨hlo, hhi⟩⟩ rfl rfl)
    exact (hunit k hlo hhi).trans (Bool.eq_false_of_not_eq_true hin)

theorem State.cabWrite_nil (s : State) (a n : Nat) : s.cabWrite a [] n = s := by
  cases n <;> rfl

theorem State.cabWrite_succ (s : State) (a : Nat) {bs : List Byte} (n : Nat) (h : bs ≠ []) :
    s.cabWrite a bs (n + 1) =
      (s.cabUnit a (bs.take (64 - a % 64))).cabWrite (a + (64 - a % 64)) (bs.drop (64 - a % 64)) n :=
  if_neg (by simpa using h)

/-- A write with enough steps for its octets reaches every one of them: the first unit, and the rest from the next unit on. -/
theorem State.cabWrite_written {s : State} {a : Nat} {bs : List Byte} {n : Nat} (h : Memory.wf s.cab.mem = true)
    (hn : a % 64 + bs.length ≤ 64 * n) : CabWritten s (s.cabWrite a bs n) a bs := by
  induction n generalizing s a bs with
  | zero =>
    obtain rfl : bs = [] := List.length_eq_zero_iff.mp (by omega)
    exact .nil a h
  | succ n ih =>
    by_cases hbs : bs = []
    · subst hbs
      exact (s.cabWrite_nil a (n + 1)).symm ▸ .nil a h
    · rw [State.cabWrite_succ s a n hbs]
      obtain hfits | hlong := Nat.le_total bs.length (64 - a % 64)
      · rw [List.take_of_length_le hfits, List.drop_of_length_le hfits, State.cabWrite_nil]
        exact State.cabUnit_written h (by omega)
      · have htake : (bs.take (64 - a % 64)).length = 64 - a % 64 := List.length_take_of_le hlong
        have hunit : CabWritten s _ a (bs.take (64 - a % 64)) := State.cabUnit_written h (by omega)
        have hrest := ih (a := a + (64 - a % 64)) (bs := bs.drop (64 - a % 64)) hunit.wf (by rw [List.length_drop]; omega)
        have hwhole := hunit.append hrest (congrArg (a + ·) htake.symm)
        rwa [List.take_append_drop] at hwhole

/-- Settles O53: by the units that the write is made of (`cabWrite_written`); a write of `n` octets takes `n / 64 + 2` units at most. -/
theorem cabinetWritesReachOnlyTheirBytes : Obligations.CabinetWritesReachOnlyTheirBytes := by
  intro s a bs h
  obtain ⟨hread, hchans, hdrawers, hwf⟩ := State.cabWrite_written (a := a) (bs := bs) (n := bs.length / 64 + 2) h (by omega)
  exact ⟨hread, hchans, hdrawers, hwf⟩

end Sys2Proof.Machine
end

section
/-!
The self-refresh in a state whose table of channels lists a channel twice (14_dram R359): the obligation about pauses ranges over every
table, and not over those in canonical form (`twf`) alone.
-/

namespace Sys2Proof.Machine

/-- A state whose table of channels lists channel 0 twice, both times as a channel at reset in self-refresh: not a canonical table, but a
state all the same. -/
def twiceRefreshing : State :=
  { State.reset with cab := { State.reset.cab with
      chans := [(0, { Chan.init with selfRefresh := true }), (0, { Chan.init with selfRefresh := true })] } }

/-- The end of self-refresh makes the first entry a default one, which is removed; the second entry is then read, in self-refresh still. -/
theorem twiceRefreshing_stays_in_selfRefresh : ((twiceRefreshing.selfRefresh false).chan 0).selfRefresh = true := by
  decide +kernel

/-- Refutes O18: a channel not out of service that leaves self-refresh. The statement ranges over every table of channels; in
`twiceRefreshing` channel 0 reads as one in self-refresh behind the end of it. -/
theorem not_cabinetPausesAndResumes : ¬ Obligations.CabinetPausesAndResumes := by
  rintro ⟨-, -, -, -, hset⟩
  have hleft := hset twiceRefreshing false 0 (by decide) (by decide)
  exact Bool.false_ne_true (hleft.symm.trans twiceRefreshing_stays_in_selfRefresh)

end Sys2Proof.Machine
end

section
/-!
The DRAM channels: training, initialisation, refresh, reads with devices in error, the patrol scrub and the sensor of a DIMM (14_dram R342
to R355).
-/

namespace Sys2Proof.Machine

/-! ### A channel in service after a change -/

theorem State.chan_modChan_of_ne_init {s : State} {k : Nat} {f : Chan → Chan} (h : f (s.chan k) ≠ Chan.init) :
    (s.modChan k f).chan k = f (s.chan k) := by
  have hput : tmod Chan.init s.cab.chans k f = tput s.cab.chans k (f (s.chan k)) := if_neg h
  exact (congrArg (tget Chan.init · k) hput).trans (tget_tput_same ..)

/-- A channel in service is none at reset, which is in training. -/
theorem ne_init_of_inService {c : Chan} (h : c.st = .inService) : c ≠ Chan.init := by
  rintro rfl
  exact ChanSt.noConfusion h

/-! ### Training (14_dram R342, R344) -/

theorem State.trainingDone_settles {s u : State} {k : Nat} {t : Training} (hphase : 4 ≤ s.boot.phase) (hst : (s.chan k).st = .training)
    (hu : ({ s with boot := { s.boot with dramDone := s.boot.dramDone ||| (1 <<< k) } } : State).modChan k (fun c => c.settle t) = u) :
    s.trainingDone k t =
      if trainingPasses (u.chan k).laneCount t then
        ({ u with boot := { u.boot with dramTrained := u.boot.dramTrained ||| (1 <<< k) } } : State).modChan k
          fun c => { c with st := .initialising }
      else u.chanFail k 3 := by
  subst hu
  exact if_neg (not_or.mpr ⟨Nat.not_lt.mpr hphase, not_not.mpr hst⟩)

/-! ### The end of the initialisation (14_dram R345) -/

/-- A channel that has zeroed its DIMM is in service. -/
def State.putInService (s : State) (k : Nat) : State :=
  if (s.chan k).st = .initialising then s.modChan k fun c => { c with st := .inService } else s

theorem State.putInService_same {s : State} {k : Nat} (h : (s.chan k).st = .initialising) :
    ((s.putInService k).chan k).st = .inService := by
  rw [State.putInService, if_pos h, State.chan_modChan_of_ne_init (ne_init_of_inService rfl)]

theorem State.putInService_other (s : State) {j k : Nat} (h : j ≠ k) : (s.putInService k).chan j = s.chan j := by
  unfold State.putInService
  split
  · exact State.chan_modChan_other s _ h
  · rfl

theorem State.putInService_inService {s : State} {j : Nat} (k : Nat) (h : (s.chan j).st = .inService) :
    ((s.putInService k).chan j).st = .inService := by
  by_cases hk : j = k
  · subst hk
    rw [State.putInService, if_neg (by rw [h]; decide), h]
  · rw [State.putInService_other s hk, h]

theorem State.foldl_putInService_inService {s : State} {j : Nat} (l : List Nat) (h : (s.chan j).st = .inService) :
    ((l.foldl State.putInService s).chan j).st = .inService := by
  induction l generalizing s with
  | nil => exact h
  | cons k l ih => exact ih (State.putInService_inService k h)

theorem State.foldl_putInService_initialising {s : State} {j : Nat} {l : List Nat} (hj : j ∈ l) (h : (s.chan j).st = .initialising) :
    ((l.foldl State.putInService s).chan j).st = .inService := by
  induction l generalizing s with
  | nil => contradiction
  | cons k l ih =>
    by_cases hk : j = k
    · subst hk
      exact State.foldl_putInService_inService l (State.putInService_same h)
    · exact ih ((List.mem_cons.mp hj).resolve_left hk) ((congrArg Chan.st (State.putInService_other s hk)).trans h)

@[simp] theorem State.foldl_putInService_mem (s : State) (l : List Nat) : (l.foldl State.putInService s).cab.mem = s.cab.mem :=
  foldl_invariant (π := fun t => t.cab.mem) (fun t k => by unfold State.putInService; split <;> rfl) s l

/-- The Cabinet with the memory of its channels in service zero and no unit bad. -/
def State.zeroCabinet (s : State) : State :=
  { s with cab := { s.cab with mem := s.cab.mem.filter fun c => s.chanOut (chanOf c.1), bad := [] } }

/-- The start-up pause over and the Cabinet ready. -/
def State.readyCabinet (s : State) : State :=
  { s with
    cab := { s.cab with initialising := false, paused := false }
    boot := { s.boot with cabinetReady := true, phase := if s.boot.done then 10 else 9 } }

@[simp] theorem State.readyCabinet_chan (s : State) (k : Nat) : s.readyCabinet.chan k = s.chan k := rfl
@[simp] theorem State.readyCabinet_mem (s : State) : s.readyCabinet.cab.mem = s.cab.mem := rfl

theorem State.cabinetInitialised_ends {s : State} (hinit : s.cab.initialising = true) (hst : ∀ k < 16, (s.chan k).st ≠ .training) :
    s.cabinetInitialised = ((List.range 16).foldl State.putInService s.zeroCabinet).readyCabinet := by
  have hready : ¬(!s.cab.initialising || (List.range 16).any fun k => (s.chan k).st == .training) = true := by
    simpa [hinit] using hst
  unfold State.cabinetInitialised
  rw [if_neg hready]
  -- The two runs agree over any list of channels, step by step.
  generalize List.range 16 = l
  rfl

/-! ### Refresh (14_dram R347, R348) -/

/-- The ZQ calibration of a channel, when it is due. -/
def State.calibrateZq (s : State) (k zqAt : Nat) : State :=
  if zqAt + zqPs ≤ s.nowPs then s.modChan k fun c => { c with zqAt := s.nowPs } else s

/-- The read-strobe tracking of a channel, when it is due. -/
def State.trackStrobes (s : State) (k trackAt : Nat) (drift : List Int) : State :=
  if trackAt + trackPs ≤ s.nowPs then s.modChan k fun c => c.track s.nowPs drift else s

section Calibration
variable {s : State} {k : Nat} (h : (s.chan k).st = .inService)
include h

/-- A change that leaves a channel in service is read as made. -/
theorem State.chan_modChan_inService {f : Chan → Chan} (hf : (f (s.chan k)).st = (s.chan k).st) :
    (s.modChan k f).chan k = f (s.chan k) :=
  State.chan_modChan_of_ne_init (ne_init_of_inService (hf.trans h))

theorem State.calibrateZq_st (zqAt : Nat) : ((s.calibrateZq k zqAt).chan k).st = .inService := by
  unfold State.calibrateZq
  split
  · rw [State.chan_modChan_inService h rfl, h]
  · exact h

theorem State.calibrateZq_refreshes (zqAt : Nat) : ((s.calibrateZq k zqAt).chan k).refreshes = (s.chan k).refreshes := by
  unfold State.calibrateZq
  split
  · rw [State.chan_modChan_inService h rfl]
  · rfl

theorem State.trackStrobes_refreshes (trackAt : Nat) (drift : List Int) :
    ((s.trackStrobes k trackAt drift).chan k).refreshes = (s.chan k).refreshes := by
  unfold State.trackStrobes
  split
  · rw [State.chan_modChan_inService h rfl]
    rfl
  · rfl

theorem State.dramRefresh_inService (drift : List Int) (hself : (s.chan k).selfRefresh = false) :
    s.dramRefresh k drift =
      ((s.modChan k fun c => { c with refreshes := c.refreshes + 1 }).calibrateZq k (s.chan k).zqAt).trackStrobes k
        (s.chan k).trackAt drift := by
  have hruns : ¬(((s.chan k).st ≠ .inService ∧ (s.chan k).st ≠ .initialising) ∨ (s.chan k).selfRefresh = true) := by
    simp [h, hself]
  exact if_neg hruns

/-- Neither calibration that runs within a refresh counts another one. -/
theorem State.dramRefresh_counts (drift : List Int) (hself : (s.chan k).selfRefresh = false) :
    ((s.dramRefresh k drift).chan k).refreshes = (s.chan k).refreshes + 1 := by
  have hcount := State.chan_modChan_inService h (f := fun c => { c with refreshes := c.refreshes + 1 }) rfl
  have hserves := (congrArg Chan.st hcount).trans h
  rw [State.dramRefresh_inService h drift hself, State.trackStrobes_refreshes (State.calibrateZq_st hserves _),
    State.calibrateZq_refreshes hserves, hcount]

end Calibration

/-! ### Reads with DRAM devices in error (14_dram R352, R353, R355) -/

theorem State.eccRead_clean (s : State) (a : Nat) : s.eccRead a 0 = s := rfl

theorem State.eccRead_corrected (s : State) (a : Nat) :
    s.eccRead a 1 = s.modChan (chanOf a) fun c => { c with corr := c.corr + 1 } := rfl

theorem State.eccRead_uncorrectable (s : State) (a : Nat) : s.eccRead a 2 = s.uncorrectable a := rfl

theorem State.dramRead_inService {s : State} {a : Nat} (devices : Nat) (hst : (s.chan (chanOf a)).st = .inService)
    (hself : (s.chan (chanOf a)).selfRefresh = false) : s.dramRead a devices = s.eccRead a devices := by
  simp [State.dramRead, State.chanOut, hst, hself]

theorem State.patrolScrub_inService {s u : State} {k : Nat} (devices : Nat) (hst : (s.chan k).st = .inService)
    (hself : (s.chan k).selfRefresh = false)
    (hu : s.modChan k (fun c => { c with patrol := (c.patrol + 1) % max 1 (s.installed / 1024) }) = u) :
    s.patrolScrub k devices = u.eccRead (unitAddr k (s.chan k).patrol) devices := by
  subst hu
  simp [State.patrolScrub, hst, hself]

/-- Settles O19: each event by the equation of its cases. A read and the patrol scrub find the devices in error in the same way
(`eccRead`); the statement leaves open what the code makes of more than two (log entry 124). -/
theorem dramRuns : Obligations.DramRuns := by
  refine ⟨?training, ?initialised, ?refresh, ?read, ?uncorrectable, ?patrol, ?sensor⟩
  case training =>
    intro s u k t hphase hst hu
    have hdone := State.trainingDone_settles hphase hst hu
    exact ⟨fun hpass => congrArg Host.Outcome.next (hdone.trans (if_pos hpass)),
      fun hfail => congrArg Host.Outcome.next (hdone.trans (if_neg (Bool.not_eq_true _ ▸ hfail)))⟩
  case initialised =>
    intro s hinit hst
    refine ⟨_, congrArg Host.Outcome.next (State.cabinetInitialised_ends hinit hst), rfl, rfl, rfl, fun k hk h => ?_, ?_⟩
    · rw [State.readyCabinet_chan]
      exact State.foldl_putInService_initialising (s := s.zeroCabinet) (List.mem_range.mpr hk) h
    · rw [State.readyCabinet_mem, State.foldl_putInService_mem]
      rfl
  case refresh =>
    intro s k drift hst hself
    exact ⟨s.dramRefresh k.val drift, rfl, State.dramRefresh_counts hst drift hself⟩
  case read =>
    intro s u hst hself
    have hread := fun devices => State.dramRead_inService devices hst hself
    exact ⟨congrArg Host.Outcome.next ((hread 0).trans (State.eccRead_clean ..)),
      congrArg Host.Outcome.next ((hread 1).trans (State.eccRead_corrected ..)),
      congrArg Host.Outcome.next ((hread 2).trans (State.eccRead_uncorrectable ..))⟩
  case uncorrectable =>
    rintro s _ a rfl
    rfl
  case patrol =>
    intro s u k hst hself hu
    have hscrub := fun devices => State.patrolScrub_inService devices hst hself hu
    exact ⟨congrArg Host.Outcome.next ((hscrub 0).trans (State.eccRead_clean ..)),
      congrArg Host.Outcome.next ((hscrub 1).trans (State.eccRead_corrected ..)),
      congrArg Host.Outcome.next ((hscrub 2).trans (State.eccRead_uncorrectable ..))⟩
  case sensor =>
    intro s k n hcause
    exact congrArg Host.Outcome.next (if_neg hcause)

end Sys2Proof.Machine
end

section
/-!
SUPPORT. The queue of commands, and `Steady` of every command: each but COLD_RESET and OWNER_PROGRAM keeps it by the lemma of its meaning,
COLD_RESET loads the owner slot from the fuses, and OWNER_PROGRAM blows both fuses together. From these follows the invariant of every step.
-/

namespace Sys2Proof.Machine

/-! ### A step, and the state after reset -/

/-- Settles O46: by the definition of a step; that an empty queue idles is the model's choice (log entry 11). -/
theorem stepRunsTheFrontCommand : Obligations.StepRunsTheFrontCommand := by
  refine ⟨fun _ _ _ => rfl, fun s hempty => ?_⟩
  unfold step
  rw [hempty]

/-- A step of a queue that is not empty is its first command on the rest. -/
theorem step_of_pending {s : State} {c : Instr} {rest : List Instr} (hq : s.pending = c :: rest) :
    step s = exec c { s with pending := rest } := by
  unfold step
  rw [hq]

/-- Settles O47: at reset no fuse is blown, and no key slot and no memory holds anything. -/
theorem resetMeetsInv : Obligations.ResetMeetsInv where
  fuses := rfl
  keys _ _ := rfl
  keysWf := rfl
  hostWf := rfl
  peerWf := rfl
  cabWf := rfl
  scratchWf := rfl

/-! ### Every command keeps `Steady`, with the fixed parts that it leaves -/

/-- Every command but the two that concern the fuses and the owner slot keeps `Steady`: one arm a command, each by the lemma of its
meaning. -/
theorem exec_steady {x : Fixed} {s : State} (c : Instr) (h : All (Steady x) s) (hc : ∀ b, c ≠ .coldReset b)
    (ho : ∀ k v r, c ≠ .ownerProgram k v r) : All (SteadyAns x) (exec c s) :=
  match c with
  | .nop p => execNop_steady p s h
  | .identify p => execIdentify_steady p s h
  | .readState p => execReadState_steady p s h
  | .selftestMonitors p => execSelftestMonitors_steady p s h
  | .selftestFaultInject p => execSelftestFaultInject_steady p s h
  | .selftestDramResweep p => execSelftestDramResweep_steady p s h
  | .selftestDramBist p => execSelftestDramBist_steady p s h
  | .selftestSerdesPrbs p => execSelftestSerdesPrbs_steady p s h
  | .selftestPipeline p => execSelftestPipeline_steady p s h
  | .monitorRead p => execMonitorRead_steady p s h
  | .ttLoad p => execTtLoad_steady p s h
  | .ttActivateWarm p => execTtActivateWarm_steady p s h
  | .ttActivateCold p => execTtActivateCold_steady p s h
  | .ttActivateCancel p => execTtActivateCancel_steady p s h
  | .ttQuery p => execTtQuery_steady p s h
  | .tblWrite p => execTblWrite_steady p s h
  | .prefixInsert p => execPrefixInsert_steady p s h
  | .prefixDelete p => execPrefixDelete_steady p s h
  | .tblPairWrite p => execTblPairWrite_steady p s h
  | .tblRead p => execTblRead_steady p s h
  | .tblMove p => execTblMove_steady p s h
  | .genSwap p => execGenSwap_steady p s h
  | .tblBulkWrite p => execTblBulkWrite_steady p s h
  | .tblBulkRelayout p => execTblBulkRelayout_steady p s h
  | .ageScan p => execAgeScan_steady p s h
  | .portConfig p => execPortConfig_steady p s h
  | .portStatus p => execPortStatus_steady p s h
  | .statsRead p => execStatsRead_steady p s h
  | .drawerOpen p => execDrawerOpen_steady p s h
  | .drawerClose p => execDrawerClose_steady p s h
  | .drawerErase p => execDrawerErase_steady p s h
  | .sealNow p => execSealNow_steady p s h
  | .replayConfigCapture p => execReplayConfigCapture_steady p s h
  | .replayConfigRequest p => execReplayConfigRequest_steady p s h
  | .replayConfigQuota p => execReplayConfigQuota_steady p s h
  | .cabinetPause p => execCabinetPause_steady p s h
  | .cabinetResume p => execCabinetResume_steady p s h
  | .timeSet p => execTimeSet_steady p s h
  | .timeAdjustFreq p => execTimeAdjustFreq_steady p s h
  | .timeAdjustSlew p => execTimeAdjustSlew_steady p s h
  | .timeAdjustStep p => execTimeAdjustStep_steady p s h
  | .timeAdjustSource p => execTimeAdjustSource_steady p s h
  | .timeAdjustPpsOut p => execTimeAdjustPpsOut_steady p s h
  | .timeAdjustDeclare p => execTimeAdjustDeclare_steady p s h
  | .timeRead p => execTimeRead_steady p s h
  | .tsCalibrateRun p => execTsCalibrateRun_steady p s h
  | .tsCalibrateRead p => execTsCalibrateRead_steady p s h
  | .mirrorConfig p => execMirrorConfig_steady p s h
  | .mirrorRole p => execMirrorRole_steady p s h
  | .mirrorCheck p => execMirrorCheck_steady p s h
  | .keyInstall p => execKeyInstall_steady p s h
  | .keyRetire p => execKeyRetire_steady p s h
  | .counterRead p => execCounterRead_steady p s h
  | .instCreate p => execInstCreate_steady p s h
  | .instResize p => execInstResize_steady p s h
  | .instQuiesce p => execInstQuiesce_steady p s h
  | .instQuiesceResume p => execInstQuiesceResume_steady p s h
  | .instReset p => execInstReset_steady p s h
  | .instRemove p => execInstRemove_steady p s h
  | .dirtyLogSwap p => execDirtyLogSwap_steady p s h
  | .dirtyLogStop p => execDirtyLogStop_steady p s h
  | .faultConfig p => execFaultConfig_steady p s h
  | .faultRelease p => execFaultRelease_steady p s h
  | .ucodeLoadUser p => execUcodeLoadUser_steady p s h
  | .ucodeCall p => execUcodeCall_steady p s h
  | .cmdRingFetch rd at8 => execCmdRingFetch_steady rd at8 s h
  | .hostCmdTailWrite inst v mem => execHostCmdTailWrite_steady inst v mem s h
  | .hostRplTailWrite inst v => execHostRplTailWrite_steady inst v s h
  | .hostCmdCtrlReset inst => execHostCmdCtrlReset_steady inst s h
  | .cp1FrameReceive frame at8 => execCp1FrameReceive_steady frame at8 s h
  | .cp3FrameReceive wire at8 => execCp3FrameReceive_steady wire at8 s h
  | .cp3Break us => execCp3Break_steady us s h
  | .timeLatch v delay8 at8 => execTimeLatch_steady v delay8 at8 s h
  | .hostLinkRelease => execHostLinkRelease_steady s h
  | .winCommit inst => execWinCommit_steady inst s h
  | .windowRead inst off len => execWindowRead_steady inst off len s h
  | .windowWrite inst off data poisoned => execWindowWrite_steady inst off data poisoned s h
  | .dmaCtrlEnable ring by_ v => execDmaCtrlEnable_steady ring by_ v s h
  | .dmaCtrlReset ring by_ => execDmaCtrlReset_steady ring by_ s h
  | .dmaTailWrite ring by_ v mem => execDmaTailWrite_steady ring by_ v mem s h
  | .dmaCircRposWrite ring by_ v => execDmaCircRposWrite_steady ring by_ v s h
  | .cabDrwRposWrite inst drawer v => execCabDrwRposWrite_steady inst drawer v s h
  | .pmcMark v => execPmcMark_steady v s h
  | .pmcSweep v => execPmcSweep_steady v s h
  | .pmcCtrWrite k v => execPmcCtrWrite_steady k v s h
  | .pmcCfgWrite k v => execPmcCfgWrite_steady k v s h
  | .registerWrite addr size v => execRegisterWrite_steady addr size v s h
  | .coldReset b => absurd rfl (hc b)
  | .startupComplete => execStartupComplete_steady s h
  | .cabinetInitialised => execCabinetInitialised_steady s h
  | .dramTrainingDone ch result => execDramTrainingDone_steady ch result s h
  | .serdesGroupUp g => execSerdesGroupUp_steady g s h
  | .warmReset at8 => execWarmReset_steady at8 s h
  | .perst => execPerst_steady s h
  | .pcieLinkDown => execPcieLinkDown_steady s h
  | .pcieLinkUp gen width => execPcieLinkUp_steady gen width s h
  | .flrVf n => execFlrVf_steady n s h
  | .flrPf => execFlrPf_steady s h
  | .vfEnableClear => execVfEnableClear_steady s h
  | .fenceComplete n => execFenceComplete_steady n s h
  | .ownerProgram k v r => absurd rfl (ho k v r)
  | .ownerStatus => execOwnerStatus_steady s h
  | .bootStatus => execBootStatus_steady s h
  | .frameReceive lp wire at8 => execFrameReceive_steady lp wire at8 s h
  | .pauseReceive lp opcode classes quanta at8 => execPauseReceive_steady lp opcode classes quanta at8 s h
  | .pauseTakeEffect lp => execPauseTakeEffect_steady lp s h
  | .pauseExpiry lp kind => execPauseExpiry_steady lp kind s h
  | .pauseWatchdogTrip lp kind => execPauseWatchdogTrip_steady lp kind s h
  | .pauseHoldoffEnd lp kind => execPauseHoldoffEnd_steady lp kind s h
  | .pauseTx lp kind => execPauseTx_steady lp kind s h
  | .headRelease lp cycle => execHeadRelease_steady lp cycle s h
  | .headSlot pipe slot up => execHeadSlot_steady pipe slot up s h
  | .recircPass pipe slot up => execRecircPass_steady pipe slot up s h
  | .injectSlot pipe slot up => execInjectSlot_steady pipe slot up s h
  | .headHandoff cycle parityBad => execHeadHandoff_steady cycle parityBad s h
  | .feedDecision pipe => execFeedDecision_steady pipe s h
  | .bodyCellWrite lp cycle bank => execBodyCellWrite_steady lp cycle bank s h
  | .lastCellArrival lp cycle bank => execLastCellArrival_steady lp cycle bank s h
  | .revocation window => execRevocation_steady window s h
  | .schedulerPick lp cellBad at8 => execSchedulerPick_steady lp cellBad at8 s h
  | .transmitEnd lp at8 => execTransmitEnd_steady lp at8 s h
  | .queueFlushUnlink lp cycle bank => execQueueFlushUnlink_steady lp cycle bank s h
  | .shaperRefill => execShaperRefill_steady s h
  | .gateSwitch lp at8 => execGateSwitch_steady lp at8 s h
  | .gateEntryAdvance lp at8 => execGateEntryAdvance_steady lp at8 s h
  | .chainFreeWalk => execChainFreeWalk_steady s h
  | .poolService cycle bank => execPoolService_steady cycle bank s h
  | .poolAllocate req cells => execPoolAllocate_steady req cells s h
  | .recountComplete => execRecountComplete_steady s h
  | .learningSlot q cycle => execLearningSlot_steady q cycle s h
  | .ageingRead q cycle => execAgeingRead_steady q cycle s h
  | .ageScanComplete => execAgeScanComplete_steady s h
  | .scrubSlot q table index cycle key data => execScrubSlot_steady q table index cycle key data s h
  | .replicaRepair q table block cycle masterBad => execReplicaRepair_steady q table block cycle masterBad s h
  | .roundBoundary => execRoundBoundary_steady s h
  | .activationCommit => execActivationCommit_steady s h
  | .activationSwitch => execActivationSwitch_steady s h
  | .activationDrained => execActivationDrained_steady s h
  | .portSwitchPosition lp => execPortSwitchPosition_steady lp s h
  | .transitionWindowClose lp => execTransitionWindowClose_steady lp s h
  | .genSwapBoundary => execGenSwapBoundary_steady s h
  | .genSwapDrained => execGenSwapDrained_steady s h
  | .stepApply => execStepApply_steady s h
  | .noPpsTimeout => execNoPpsTimeout_steady s h
  | .slewEnd => execSlewEnd_steady s h
  | .ppsInEdge at8 => execPpsInEdge_steady at8 s h
  | .ppsAbsent => execPpsAbsent_steady s h
  | .ppsOutEdge at8 => execPpsOutEdge_steady at8 s h
  | .ref10mCount edges => execRef10mCount_steady edges s h
  | .clockAttestation at8 => execClockAttestation_steady at8 s h
  | .portBringupDone lp ok => execPortBringupDone_steady lp ok s h
  | .alignTimeout lp => execAlignTimeout_steady lp s h
  | .linkLoss lp => execLinkLoss_steady lp s h
  | .fecDegradeCheck lp corrected correctedCw uncorrectableCw blocks =>
    execFecDegradeCheck_steady lp corrected correctedCw uncorrectableCw blocks s h
  | .wakeDetect lp => execWakeDetect_steady lp s h
  | .pllLockLoss island => execPllLockLoss_steady island s h
  | .islandPowerUp m => execIslandPowerUp_steady m s h
  | .feedGapScan window => execFeedGapScan_steady window s h
  | .replayServe => execReplayServe_steady s h
  | .evidenceDrain at8 => execEvidenceDrain_steady at8 s h
  | .sealTimer drawer at8 => execSealTimer_steady drawer at8 s h
  | .drawerEraseDone drawer => execDrawerEraseDone_steady drawer s h
  | .dramRefresh ch drift => execDramRefresh_steady ch drift s h
  | .dramUncorrectable unit devices => execDramUncorrectable_steady unit devices s h
  | .patrolScrub ch devices => execPatrolScrub_steady ch devices s h
  | .injectDescriptor ring rd => execInjectDescriptor_steady ring rd s h
  | .deliverFrame ring rd cellBad => execDeliverFrame_steady ring rd cellBad s h
  | .leaseFrame ring rd cellBad => execLeaseFrame_steady ring rd cellBad s h
  | .copyDescriptor ring rd => execCopyDescriptor_steady ring rd s h
  | .noticeWrite => execNoticeWrite_steady s h
  | .barrierDone ring => execBarrierDone_steady ring s h
  | .ringWaitResume ring => execRingWaitResume_steady ring s h
  | .completionTimeout tag => execCompletionTimeout_steady tag s h
  | .lateCompletion tag => execLateCompletion_steady tag s h
  | .tagQuarantineEnd tag => execTagQuarantineEnd_steady tag s h
  | .readCompletion tag rd => execReadCompletion_steady tag rd s h
  | .eventHoldoffEnd src => execEventHoldoffEnd_steady src s h
  | .msixUnmask fn vec => execMsixUnmask_steady fn vec s h
  | .faultOccurrence line src => execFaultOccurrence_steady line src s h
  | .faultWindowClose line => execFaultWindowClose_steady line s h
  | .graceTimerExpiry at8 => execGraceTimerExpiry_steady at8 s h
  | .cmdWatchdog ctx => execCmdWatchdog_steady ctx s h
  | .sensorRead k reading at8 => execSensorRead_steady k reading at8 s h
  | .thermalShedCheck => execThermalShedCheck_steady s h
  | .voltageSample k mv => execVoltageSample_steady k mv s h
  | .contextSlice => execContextSlice_steady s h
  | .contextResume ctx => execContextResume_steady ctx s h
  | .contextTimerExpiry ctx => execContextTimerExpiry_steady ctx s h
  | .ucodeLimit ctx => execUcodeLimit_steady ctx s h
  | .linkUnitReceive unit => execLinkUnitReceive_steady unit s h
  | .linkAck => execLinkAck_steady s h
  | .dovetailLinkDown cause => execDovetailLinkDown_steady cause s h
  | .dovetailLinkUp dPs => execDovetailLinkUp_steady dPs s h
  | .commandMessage seq opcode p tN => execCommandMessage_steady seq opcode p tN s h
  | .replyMessage seq status isFinal => execReplyMessage_steady seq status isFinal s h
  | .timeMessage t1 stepCount at8 => execTimeMessage_steady t1 stepCount at8 s h
  | .timeMessageSend at8 => execTimeMessageSend_steady at8 s h
  | .stepMessage amount stepCount => execStepMessage_steady amount stepCount s h
  | .feedMessage feed change => execFeedMessage_steady feed change s h
  | .stateMessage role pairId seq stepCount => execStateMessage_steady role pairId seq stepCount s h
  | .digestMessage region seq digest => execDigestMessage_steady region seq digest s h
  | .digestSend region => execDigestSend_steady region s h
  | .pullReq req => execPullReq_steady req s h
  | .pullData data => execPullData_steady data s h
  | .tokenMessage token => execTokenMessage_steady token s h
  | .safeMessage => execSafeMessage_steady s h
  | .peerFaultAssert => execPeerFaultAssert_steady s h
  | .linkLossHoldExpiry => execLinkLossHoldExpiry_steady s h
  | .calibrationComplete lp rxPs txPs => execCalibrationComplete_steady lp rxPs txPs s h
  | .selftestComplete pass sweeps => execSelftestComplete_steady pass sweeps s h
  | .cabinetPauseDone => execCabinetPauseDone_steady s h
  | .cabinetResumeDone drifts => execCabinetResumeDone_steady drifts s h
  | .warmResetRelease drifts => execWarmResetRelease_steady drifts s h
  | .perstRelease => execPerstRelease_steady s h
  | .configSpaceWrite fn field v => execConfigSpaceWrite_steady fn field v s h
  | .monitorClockLoss at8 => execMonitorClockLoss_steady at8 s h
  | .collectorRegisterFault at8 => execCollectorRegisterFault_steady at8 s h
  | .dimmSensorRead ch celsius => execDimmSensorRead_steady ch celsius s h
  | .wakeDetectorRearm lp => execWakeDetectorRearm_steady lp s h
  | .sweepComplete => execSweepComplete_steady s h

/-- A cold reset leaves the owner slot empty while STRAP_TEST is high, and else as the fuses give it. -/
theorem State.coldReset_steady {x : Fixed} {s : State} (b : Board) (h : All (Steady x) s) :
    ∃ o, All (Steady { x with owner := o }) (s.coldReset b) := by
  have hcycle := State.powerCycle_steady s h
  unfold State.coldReset
  dsimp only
  split
  · exact ⟨none, All.upd hcycle rfl rfl rfl rfl rfl⟩
  · have hflash := State.bootFlash_steady _ b (State.bootMonitors_steady _ b hcycle)
    refine ⟨x.env.ownerBytes, All.branch (fun _ => hflash) fun _ => ?_⟩
    exact State.bootDram_steady _ _ (State.bootIslands_steady _ (All.upd hflash rfl rfl rfl rfl rfl))

/-- OWNER_PROGRAM changes the fuses alone, and leaves the lock fuse blown exactly when the key fuses are. -/
theorem State.ownerProgram_steady {x : Fixed} {s : State} (k : BitVec 256) (vpp resetLow : Bool) (h : All (Steady x) s)
    (hfuses : x.env.lockFuse = x.env.ownerFuse.isSome) :
    ∃ e : EnvState, e.lockFuse = e.ownerFuse.isSome ∧ All (Steady { x with env := e }) (s.ownerProgram k vpp resetLow) := by
  unfold State.ownerProgram
  split
  · exact ⟨_, rfl, rfl, h.pending, h.owner, h.keys, h.keysWf, h.hostWf, h.peerWf, h.cabWf, h.scratchWf⟩
  · exact ⟨x.env, hfuses, h⟩

/-! ### The invariant -/

/-- The fixed parts of a state. -/
def State.fixed (s : State) : Fixed := { env := s.env, pending := s.pending, owner := (s.key 0).key }

theorem State.Inv.steady {s : State} (h : s.Inv) : All (Steady s.fixed) s :=
  ⟨rfl, rfl, rfl, h.keys, h.keysWf, h.hostWf, h.peerWf, h.cabWf, h.scratchWf⟩

theorem Steady.inv {x : Fixed} {s : State} (h : Steady x s) (hfuses : x.env.lockFuse = x.env.ownerFuse.isSome) : s.Inv where
  fuses := h.env ▸ hfuses
  keys hempty := h.keys (h.owner ▸ hempty)
  keysWf := h.keysWf
  hostWf := h.hostWf
  peerWf := h.peerWf
  cabWf := h.cabWf
  scratchWf := h.scratchWf

/-- The invariant does not speak of the queue. -/
theorem State.Inv.withPending {s : State} (h : s.Inv) (q : List Instr) : ({ s with pending := q } : State).Inv :=
  ⟨h.fuses, h.keys, h.keysWf, h.hostWf, h.peerWf, h.cabWf, h.scratchWf⟩

theorem exec_inv {s t : State} {c : Instr} (h : s.Inv) (hexec : exec c s = .next t) : t.Inv := by
  by_cases hcold : ∃ b, c = .coldReset b
  · obtain ⟨b, rfl⟩ := hcold
    obtain ⟨o, hreset⟩ := State.coldReset_steady b h.steady
    cases hexec
    exact Steady.inv hreset h.fuses
  by_cases hprog : ∃ k v r, c = .ownerProgram k v r
  · obtain ⟨k, v, r, rfl⟩ := hprog
    obtain ⟨e, hfuses, hblown⟩ := State.ownerProgram_steady k v r h.steady h.fuses
    cases hexec
    exact Steady.inv hblown hfuses
  have hkept := exec_steady c h.steady (fun b e => hcold ⟨b, e⟩) fun k v r e => hprog ⟨k, v, r, e⟩
  exact Steady.inv (hkept t hexec) h.fuses

/-- Settles O48: a step executes the front command on the rest of the queue, and every command keeps the invariant. -/
theorem stepKeepsInv : Obligations.StepKeepsInv := by
  intro s t h hstep
  cases hq : s.pending with
  | nil =>
    rw [stepRunsTheFrontCommand.2 s hq] at hstep
    cases hstep
    exact h
  | cons c rest =>
    rw [step_of_pending hq] at hstep
    exact exec_inv (h.withPending rest) hstep

end Sys2Proof.Machine
end

section
/-!
The reading commands and the key-slot commands: each completes by the equation of its handler (15_commands R376 to R378, R383, R387;
20_faults R497).
-/

namespace Sys2Proof.Machine

/-- Settles O1: each handler answers OK with its results. -/
theorem systemReadsComplete : Obligations.SystemReadsComplete := by
  refine ⟨?nop, ?identify, ?readState, ?monitorRead, ?counterRead⟩
  case nop =>
    intro s p had
    exact congrArg Host.Outcome.next (State.runCommand_ok (h := doNop) had rfl)
  case identify =>
    intro s p had
    exact congrArg Host.Outcome.next (State.runCommand_ok (h := doIdentify) had rfl)
  case readState =>
    intro s p had
    exact congrArg Host.Outcome.next (State.runCommand_ok (h := doReadState) had (by rw [doReadState, State.waiterOf_port]))
  case monitorRead =>
    intro s p had
    exact congrArg Host.Outcome.next (State.runCommand_ok (h := doMonitorRead) had rfl)
  case counterRead =>
    intro s p had
    exact congrArg Host.Outcome.next (State.runCommand_ok (h := doCounterRead) had rfl)

/-! ### Key slots (15_commands R376, R377) -/

/-- KEY_INSTALL of a key that unwraps, in an empty slot. -/
theorem doKeyInstall_fills {w : Waiter} {p : Pkt} {ps key : List Byte} {s : State}
    (hkey : keyUnwrap s.wrapKey (sliceAt ps 24 40) = some key) (hempty : (s.key (fld (img ps) 0 3)).key = none) :
    doKeyInstall w p ps s = ok (s.modKey (fld (img ps) 0 3) fun x =>
      { x with key := some key
               epoch := if fld (img ps) 0 3 ≤ 4 then BitVec.ofNat 128 (leAt ps 8 16) else 0
               counter := 0 }) := by
  simp [doKeyInstall, hkey, hempty]

/-- KEY_RETIRE of a slot that no drawer names. -/
theorem doKeyRetire_empties {w : Waiter} {p : Pkt} {ps : List Byte} {s : State} (hfree : s.sealKeyNamed (fld (img ps) 0 3) = false) :
    doKeyRetire w p ps s = ok (s.modKey (fld (img ps) 0 3) fun _ => KeySlot.init) := by
  simp [doKeyRetire, hfree]

/-- Settles O2: each command by the equation of its handler. -/
theorem keySlotsComplete : Obligations.KeySlotsComplete := by
  constructor
  · intro s p key had hkey hempty
    exact congrArg Host.Outcome.next (State.runCommand_ok had (doKeyInstall_fills hkey hempty))
  · intro s p had hfree
    exact congrArg Host.Outcome.next (State.runCommand_ok had (doKeyRetire_empties hfree))

end Sys2Proof.Machine
end

section
/-!
The checks of a packet: what one that passes them has shown, and how one that fails them ends (15_commands R373, R374).
-/

namespace Sys2Proof.Machine

/-- A packet with a trailer that passes its checks names a slot that holds a key, and its counter is above the last accepted one. -/
theorem State.authCheck_trailer {s : State} {op : Nat} {p : Pkt} (hpass : s.authCheck op p = none) (htrailer : p.trailer = true) :
    (s.key p.keySlot.toNat).key ≠ none ∧ (s.key p.keySlot.toNat).counter < p.counter := by
  unfold State.authCheck at hpass
  simp only [ite_eq_iff, reduceCtorEq, and_false, false_or, htrailer, Bool.not_true, Bool.false_eq_true, false_and,
    not_false_eq_true, true_and] at hpass
  obtain ⟨-, -, -, -, hkeyed⟩ := hpass
  cases hkey : (s.key p.keySlot.toNat).key with
  | none => simp [State.checkKey, hkey] at hkeyed
  | some k =>
    simp only [State.checkKey, hkey, ite_eq_iff, reduceCtorEq, and_false, false_or, and_true] at hkeyed
    exact ⟨Option.some_ne_none k, BitVec.not_le.1 hkeyed.2⟩

/-- The slot of a packet that passes its checks holds the packet's counter afterwards: it holds a key, so that the table lists it. -/
theorem State.authed_counter {s : State} {op : Nat} {p : Pkt} (htrailer : p.trailer = true)
    (hkey : ((s.arrived op p).key p.keySlot.toNat).key ≠ none) : ((s.authed op p).key p.keySlot.toNat).counter = p.counter := by
  have hlisted : { (s.arrived op p).key p.keySlot.toNat with counter := p.counter } ≠ KeySlot.init :=
    fun e => hkey (congrArg KeySlot.key e)
  have hput : (s.authed op p).key p.keySlot.toNat = { (s.arrived op p).key p.keySlot.toNat with counter := p.counter } := by
    rw [State.authed, if_pos htrailer, State.key, State.modKey, tmod, tset]
    exact (congrArg (tget KeySlot.init · _) (if_neg hlisted)).trans (tget_tput_same ..)
  exact congrArg KeySlot.counter hput

/-- How a packet that its port takes ends by its checks; `after` is what becomes of one that passes them. -/
def State.checked (s : State) (op : Nat) (p : Pkt) (wf : List Byte → State → Bool) (after : State) : State :=
  let w := mkWaiter op p (if p.port = .cp2 then some (s.arrived op p).mirror.seq else none)
  match (s.arrived op p).authCheck op p with
  | some (st, de) => finishCmd w { st := s.arrived op p, status := st, detail := de }
  | none => if !wf p.params (s.authed op p) then finishCmd w (badLength (s.authed op p)) else after

/-- A packet that the device takes, whose port is free and not fenced and that repeats no kept reply, meets its checks. -/
theorem State.runCommand_checked {s : State} {op : Nat} {p : Pkt} (wf : List Byte → State → Bool) (h : Handler)
    (hphase : 4 ≤ (s.at_ p.at8.val).boot.phase) (hfailed : (s.at_ p.at8.val).boot.failed = false)
    (hmirror : (s.at_ p.at8.val).mirrorBusy op p = false) (hidle : ((s.at_ p.at8.val).ctx p.port).st = .idle)
    (hfence : (s.arrived op p).fenced p.port = false) (hkept : (s.arrived op p).keptReply p = none) :
    ∃ after, s.runCommand op p wf h = s.checked op p wf after := by
  have htakes : ¬((s.at_ p.at8.val).boot.phase < 4 ∨ (s.at_ p.at8.val).boot.failed = true) := by
    simp only [hfailed, Bool.false_eq_true, or_false]
    exact Nat.not_lt.2 hphase
  have hfree : ¬((s.at_ p.at8.val).mirrorBusy op p = true ∨ ((s.at_ p.at8.val).ctx p.port).st ≠ .idle) := by
    simp [hmirror, hidle]
  apply Exists.intro
  unfold State.runCommand
  refine (if_neg htakes).trans ((if_neg hfree).trans ((if_neg (Bool.eq_false_iff.1 hfence)).trans ?_))
  change (match (s.arrived op p).keptReply p with | some _ => _ | none => _) = _
  rw [hkept]
  rfl

/-- Settles O51: the first failed check of header, opcode and trailer, then the format, decide the end. -/
theorem refusedPacketsDoNoWork : Obligations.RefusedPacketsDoNoWork := by
  rintro s op p wf h w hphase hfailed hmirror hidle hfence hkept rfl
  obtain ⟨after, hrun⟩ := State.runCommand_checked wf h hphase hfailed hmirror hidle hfence hkept
  refine ⟨fun st de hfail => ?_, fun hpass => ⟨fun htrailer => ?_, fun hformat => ?_⟩⟩
  · rw [hrun, State.checked, hfail]
  · obtain ⟨hkey, hcounter⟩ := State.authCheck_trailer hpass htrailer
    exact ⟨hcounter, State.authed_counter htrailer hkey⟩
  · simp [hrun, State.checked, hpass, hformat]

end Sys2Proof.Machine
end

section
/-!
The four command ports: one equation for each case of what a write to a ring, a fetch, a frame, a break or a message of the stream does
(15_commands R361 to R365, R381; 04_line R119; 19_pair R468).
-/

namespace Sys2Proof.Machine

/-! ### CP0: the rings of the host (15_commands R361 to R363, R381) -/

theorem State.cmdTailWrite_of_closed {s : State} {n : Nat} (v : BitVec 16) (hregs : s.cmdRegs n = false) :
    s.cmdTailWrite n v = s := by
  simp [State.cmdTailWrite, hregs]

theorem State.cmdTailWrite_of_open {s : State} {n : Nat} (v : BitVec 16) (hregs : s.cmdRegs n = true) :
    s.cmdTailWrite n v = s.modCmdRing n fun g =>
      if 2 ^ (s.cmdRing n).cmdLog2.toNat < (v - (s.cmdRing n).cmdHead).toNat then { g with tailRejected := true }
      else { g with cmdTail := v } := by
  simp only [State.cmdTailWrite, hregs, Bool.not_true, Bool.false_eq_true, if_false]
  split <;> rfl

theorem State.rplTailWrite_of_closed {s : State} {n : Nat} (v : BitVec 16) (hregs : s.cmdRegs n = false) :
    s.rplTailWrite n v = s := by
  simp [State.rplTailWrite, hregs]

theorem State.rplTailWrite_of_open {s : State} {n : Nat} (v : BitVec 16) (hregs : s.cmdRegs n = true) :
    s.rplTailWrite n v =
      if ((s.cmdRing n).rplHead - (s.cmdRing n).rplTail).toNat < (v - (s.cmdRing n).rplTail).toNat then
        s.modCmdRing n (fun g => { g with tailRejected := true })
      else (s.modCmdRing n fun g => { g with rplTail := v }).releaseHeld n := by
  simp [State.rplTailWrite, hregs]

theorem State.cmdCtrlReset_of_closed {s : State} {n : Nat} (hregs : s.cmdRegs n = false) : s.cmdCtrlReset n = s := by
  simp [State.cmdCtrlReset, hregs]

theorem State.cmdCtrlReset_of_open {s : State} {n : Nat} (hregs : s.cmdRegs n = true) :
    s.cmdCtrlReset n = if n = 0 then s.portResetCp0 else (s.portResetRing n).settlePortReset := by
  simp [State.cmdCtrlReset, hregs]

section Fetch

variable {s : State} (rd : HostRead) (hphase : 4 ≤ s.boot.phase) (hfailed : s.boot.failed = false) (hfrozen : s.host.frozen = false)
  (hfree : s.cp0Free = true)
include hphase hfailed hfrozen hfree

/-- What stands in the way of a fetch, none of which holds. -/
theorem State.fetch_not_held : ¬(s.boot.phase < 4 ∨ s.boot.failed = true ∨ s.host.frozen = true ∨ (!s.cp0Free) = true) := by
  simpa [hfailed, hfrozen, hfree] using hphase

theorem State.ringFetch_of_no_ring (hnext : s.nextCmdRing = none) : s.ringFetch rd = s := by
  rw [State.ringFetch, if_neg (State.fetch_not_held hphase hfailed hfrozen hfree), hnext]

section Turn

variable {n : Nat} (hnext : s.nextCmdRing = some n)
include hnext

/-- The ring whose turn it is counts as served, and its slot is executed with the data at hand. -/
theorem State.ringFetch_of_data : s.ringFetch .data = State.runSlot n { s with cmd := { s.cmd with lastRing := n } } := by
  simp only [State.ringFetch, if_neg (State.fetch_not_held hphase hfailed hfrozen hfree), hnext]

/-- The ring whose turn it is counts as served, and its slot is read by a request that goes on. -/
theorem State.ringFetch_of_outstanding :
    s.ringFetch .outstanding = ({ s with cmd := { s.cmd with lastRing := n } } : State).issueRead n (.command n) := by
  simp only [State.ringFetch, if_neg (State.fetch_not_held hphase hfailed hfrozen hfree), hnext]

/-- The ring whose turn it is counts as served, and its slot is passed where it cannot be read. -/
theorem State.ringFetch_of_unread (hdata : rd ≠ .data) (hgoes : rd ≠ .outstanding) :
    s.ringFetch rd = ({ s with cmd := { s.cmd with lastRing := n } } : State).slotUnread n := by
  cases rd with
  | data => exact absurd rfl hdata
  | outstanding => exact absurd rfl hgoes
  | error => simp only [State.ringFetch, if_neg (State.fetch_not_held hphase hfailed hfrozen hfree), hnext]
  | poisoned => simp only [State.ringFetch, if_neg (State.fetch_not_held hphase hfailed hfrozen hfree), hnext]

end Turn

end Fetch

section Completion

variable {s : State} {t : BitVec 14} {q : ReadReq} {n : Nat} (run : Nat → State → State)
  (hfind : s.host.reads.find? (fun q => q.tag == t) = some q) (hfenced : q.fenced = false) (hfor : q.purpose = .command n)
include hfind hfenced hfor

/-- The read of a command slot ends with its data: the packet is executed. -/
theorem State.readEnd_of_command : s.readEnd t .data run = (run n (s.endRead t)).settleReads q := by
  simp [State.readEnd, hfind, hfenced, hfor]

/-- The read of a command slot ends without data: the slot is passed. -/
theorem State.readEnd_of_command_unread {rd : HostRead} (hends : rd ≠ .outstanding) (hbad : rd ≠ .data) :
    s.readEnd t rd run = ((s.endRead t).slotUnread n).settleReads q := by
  simp [State.readEnd, hfind, hfenced, hfor, hends, hbad]

end Completion

/-! ### CP1: the management port (04_line R119) -/

theorem State.cp1Frame_of_down {s : State} (f : List Byte) (hdown : s.mgmt.powered = false ∨ s.mgmt.station = 0) :
    s.cp1Frame f = s :=
  if_pos (hdown.imp_left fun hoff => by rw [hoff]; rfl)

section Up

variable {s v : State} {f : List Byte} (hpowered : s.mgmt.powered = true) (hstation : s.mgmt.station ≠ 0) (hv : s.countMgmt f = v)
include hpowered hstation

/-- What keeps the port down, none of which holds. -/
theorem State.mgmt_not_down : ¬((!s.mgmt.powered) = true ∨ s.mgmt.station = 0) := by
  rintro (h | h)
  · exact absurd h (by rw [hpowered]; decide)
  · exact hstation h

include hv

theorem State.cp1Frame_of_accepted {bs : List Byte} {vlan : Option (BitVec 16)} (hacc : v.mgmtAccepts f = some (bs, vlan)) :
    s.cp1Frame f = if 16 ≤ v.cmd.cp1Q.length then { v with mgmt := { v.mgmt with queueFull := v.mgmt.queueFull + 1 } }
      else
        { v with cmd := { v.cmd with cp1Q := v.cmd.cp1Q ++ [{
          opcode := BitVec.ofNat 16 (leAt bs 0 2)
          pkt := parsePacket .cp1 0 bs (BitVec.ofNat 48 (beAt f 6 6)) vlan 0 }] } } := by
  simp only [State.cp1Frame, if_neg (State.mgmt_not_down hpowered hstation), hv, hacc]

theorem State.cp1Frame_of_discarded (hacc : v.mgmtAccepts f = none) :
    s.cp1Frame f = { v with mgmt := { v.mgmt with discarded := v.mgmt.discarded + 1 } } := by
  simp only [State.cp1Frame, if_neg (State.mgmt_not_down hpowered hstation), hv, hacc]

end Up

/-! ### CP3: the debug serial port (15_commands R364, R381) -/

theorem State.cp3Frame_of_off {s : State} (f : List Byte) (hoff : s.cp3On = false) : s.cp3Frame f = s := by
  simp [State.cp3Frame, hoff]

theorem State.cp3Frame_of_packet {s : State} {f bs : List Byte} (hon : s.cp3On = true) (hpacket : serialPacket f = some bs)
    (hroom : s.cmd.cp3Q.length < 4) :
    s.cp3Frame f = { s with cmd := { s.cmd with cp3Q := s.cmd.cp3Q ++ [{
      opcode := BitVec.ofNat 16 (leAt bs 0 2)
      pkt := parsePacket .cp3 0 bs 0 none 0 }] } } := by
  simp [State.cp3Frame, hon, hpacket, hroom]

theorem State.cp3Frame_of_discarded {s : State} {f : List Byte} (hon : s.cp3On = true)
    (hbad : serialPacket f = none ∨ 4 ≤ s.cmd.cp3Q.length) :
    s.cp3Frame f = { s with cmd := { s.cmd with cp3Discards := s.cmd.cp3Discards + 1 } } := by
  simp only [State.cp3Frame, hon, Bool.not_true, Bool.false_eq_true, if_false]
  obtain hnone | hfull := hbad
  · rw [hnone]
  · cases serialPacket f with
    | none => rfl
    | some bs => exact if_neg (Nat.not_lt.2 hfull)

theorem State.cp3Break_of_short {s : State} {us : Nat} (hshort : us < 1000 ∨ s.cp3On = false) : s.cp3Break us = s := by
  simp [State.cp3Break, hshort]

theorem State.cp3Break_of_long {s : State} {us : Nat} (hlong : 1000 ≤ us) (hon : s.cp3On = true) :
    s.cp3Break us =
      (let u := if (s.ctx .cp3).st = .idle then s else s.modCtx .cp3 fun c => { c with cancel := true }
       ({ u with cmd := { u.cmd with cp3Q := [] } } : State).unfence 3) := by
  simp [State.cp3Break, hon, Nat.not_lt.2 hlong]

/-! ### CP2: the primary's stream (19_pair R468) -/

/-- Hearing the peer changes neither whether the device mirrors, nor its role, nor the place in the stream. -/
theorem State.heardNow_stream (s : State) :
    s.heardNow.mirroring = s.mirroring ∧ s.heardNow.mirror.role = s.mirror.role ∧ s.heardNow.mirror.seq = s.mirror.seq ∧
      s.heardNow.mirror.cp2Q = s.mirror.cp2Q := by
  unfold State.heardNow
  split
  · exact ⟨rfl, rfl, rfl, rfl⟩
  · exact ⟨rfl, rfl, rfl, rfl⟩

theorem State.commandMessage_taken {s : State} {m : Cp2Msg} (hmirrors : s.mirroring = true) (hrole : s.mirror.role = .standby)
    (hlater : s.mirror.seq < m.seq) (hroom : s.mirror.cp2Q.length < 16) :
    s.commandMessage m = (s.modMirror fun x => { x with cp2Q := x.cp2Q ++ [m] }).takeCp2 := by
  simp [State.commandMessage, hmirrors, hrole, hroom, BitVec.not_le.2 hlater]

theorem State.commandMessage_ignored {s : State} {m : Cp2Msg}
    (hnot : s.mirroring = false ∨ s.mirror.role ≠ .standby ∨ m.seq ≤ s.mirror.seq ∨ 16 ≤ s.mirror.cp2Q.length) :
    s.commandMessage m = s := by
  refine if_pos ?_
  obtain h | h | h | h := hnot <;> simp [h]

/-- Settles O35: each event of a port by the equations of its cases. The model's choices among them: a serial frame that finds the queue
full counts as a discard (log entry 38), any later mirror_seq is accepted (log entry 35), the rows of CP1 and CP3 only queue their packet
(log entry 96), and an event whose condition does not hold does nothing (log entry 104). -/
theorem commandPortsRun : Obligations.CommandPortsRun := by
  refine ⟨?cmdTail, ?rplTail, ?fetch, ?completion, ?management, ?serial, ?serialBreak, ?stream⟩
  case cmdTail =>
    rintro s _ n v m rfl
    exact ⟨fun hregs => congrArg Host.Outcome.next (State.cmdTailWrite_of_closed v hregs),
      fun hregs => congrArg Host.Outcome.next (State.cmdTailWrite_of_open v hregs)⟩
  case rplTail =>
    intro s n v
    exact ⟨fun hregs => ⟨congrArg Host.Outcome.next (State.rplTailWrite_of_closed v hregs),
        congrArg Host.Outcome.next (State.cmdCtrlReset_of_closed hregs)⟩,
      fun hregs => ⟨congrArg Host.Outcome.next (State.rplTailWrite_of_open v hregs),
        congrArg Host.Outcome.next (State.cmdCtrlReset_of_open hregs)⟩⟩
  case fetch =>
    rintro s _ a rfl hphase hfailed hfrozen hfree
    refine ⟨fun n hnext => ?_, fun rd hnext =>
      congrArg Host.Outcome.next (State.ringFetch_of_no_ring rd hphase hfailed hfrozen hfree hnext)⟩
    have hpassed := fun rd => State.ringFetch_of_unread rd hphase hfailed hfrozen hfree hnext
    exact ⟨congrArg Host.Outcome.next (State.ringFetch_of_data hphase hfailed hfrozen hfree hnext),
      congrArg Host.Outcome.next (State.ringFetch_of_outstanding hphase hfailed hfrozen hfree hnext),
      congrArg Host.Outcome.next (hpassed .error (by decide) (by decide)),
      congrArg Host.Outcome.next (hpassed .poisoned (by decide) (by decide))⟩
  case completion =>
    intro s t q n hfind hfenced hfor
    exact ⟨congrArg Host.Outcome.next (State.readEnd_of_command _ hfind hfenced hfor),
      congrArg Host.Outcome.next (State.readEnd_of_command_unread _ hfind hfenced hfor (by decide) (by decide)),
      congrArg Host.Outcome.next (State.readEnd_of_command_unread _ hfind hfenced hfor (by decide) (by decide))⟩
  case management =>
    rintro s _ _ f a rfl rfl
    exact ⟨fun hdown => congrArg Host.Outcome.next (State.cp1Frame_of_down f hdown), fun hpowered hstation =>
      ⟨fun bs vlan hacc => congrArg Host.Outcome.next (State.cp1Frame_of_accepted hpowered hstation rfl hacc),
        fun hacc => congrArg Host.Outcome.next (State.cp1Frame_of_discarded hpowered hstation rfl hacc)⟩⟩
  case serial =>
    rintro s _ f a rfl
    exact ⟨fun hoff => congrArg Host.Outcome.next (State.cp3Frame_of_off f hoff),
      fun hon hbad => congrArg Host.Outcome.next (State.cp3Frame_of_discarded hon hbad),
      fun bs hon hpacket hroom => congrArg Host.Outcome.next (State.cp3Frame_of_packet hon hpacket hroom)⟩
  case serialBreak =>
    intro s us
    refine ⟨fun hshort => congrArg Host.Outcome.next (State.cp3Break_of_short hshort), fun hlong hon hidle => ?_, ?_⟩
    · exact congrArg Host.Outcome.next ((State.cp3Break_of_long hlong hon).trans (by rw [if_pos hidle]))
    · rintro _ hlong hon hbusy rfl
      exact congrArg Host.Outcome.next ((State.cp3Break_of_long hlong hon).trans (by rw [if_neg hbusy]))
  case stream =>
    rintro s _ q op p tN rfl
    obtain ⟨hmirroring, hrole, hseq, hqueue⟩ := s.heardNow_stream
    refine ⟨fun hmirrors hstandby hlater hroom => ?_, fun hnot => ?_⟩
    · exact congrArg Host.Outcome.next (State.commandMessage_taken (m := ⟨q, op, p, tN⟩) (hmirroring.trans hmirrors)
        (hrole.trans hstandby) (hseq ▸ hlater) (hqueue ▸ hroom))
    · rw [← hmirroring, ← hrole, ← hseq, ← hqueue] at hnot
      exact congrArg Host.Outcome.next (State.commandMessage_ignored (m := ⟨q, op, p, tN⟩) hnot)

end Sys2Proof.Machine
end

section
/-!
SUPPORT. Each operation of the model leaves the queue of commands that wait: one lemma an operation, in the order of the model. A
proof names the branches of the operation and the lemma of each; where it says `-implicitDefEqProofs`, `simp` writes its steps out, so that
the kernel follows them and does not compare the changed tables of two states. This part: the operations that all parts of the block share.
-/

namespace Sys2Proof.Machine

/-- The queue of either branch of a choice. -/
@[simp] theorem State.ite_pending {c : Prop} [Decidable c] (a b : State) :
    (if c then a else b).pending = if c then a.pending else b.pending := apply_ite State.pending c a b

/-- A fold whose every step leaves the queue leaves it. -/
@[simp] theorem State.foldl_pending {β : Type} {f : State → β → State} (hf : ∀ s b, (f s b).pending = s.pending) (l : List β)
    (s : State) : (l.foldl f s).pending = s.pending := by
  induction l generalizing s with
  | nil => rfl
  | cons b r ih => exact (ih (f s b)).trans (hf s b)

/-- The queue of a choice whose branches have the same. -/
theorem State.branch_pending {c : Prop} [Decidable c] {a b : State} {q : List Instr} (ha : a.pending = q) (hb : b.pending = q) :
    (if c then a else b).pending = q := by
  split
  · exact ha
  · exact hb

/-- A fold whose every step leaves the queue of the state that stands first leaves it. -/
@[simp] theorem State.foldl_fst_pending {β γ : Type} {f : State × γ → β → State × γ} (hf : ∀ x b, (f x b).1.pending = x.1.pending)
    (l : List β) (x : State × γ) : (l.foldl f x).1.pending = x.1.pending := by
  induction l generalizing x with
  | nil => rfl
  | cons b r ih => exact (ih (f x b)).trans (hf x b)

/-! ### Ops: the queue -/

@[simp] theorem State.takeFree_pending (s : State) : s.takeFree.2.pending = s.pending := by
  simp [State.takeFree]

@[simp] theorem State.requests_pending (s : State) (src a len : Nat) : (s.requests src a len).pending = s.pending := by
  simp -implicitDefEqProofs [State.requests]

@[simp] theorem State.serveChans_pending (s : State) : s.serveChans.pending = s.pending := by
  simp -implicitDefEqProofs [State.serveChans]

@[simp] theorem State.completeRequests_pending (s : State) : s.completeRequests.pending = s.pending := by
  simp -implicitDefEqProofs [State.completeRequests]

@[simp] theorem State.reach_pending (s : State) (deadline : Nat) : (s.reach deadline).pending = s.pending := by
  simp [State.reach]

@[simp] theorem State.handTo_pending (s : State) (k : Nat) : (s.handTo k).pending = s.pending := by
  simp [State.handTo]

@[simp] theorem State.stat_pending (s : State) (lp off : Nat) (n : Nat) : (s.stat lp off n).pending = s.pending := by
  simp [State.stat]

@[simp] theorem State.mgmtStat_pending (s : State) (off : Nat) (n : Nat) : (s.mgmtStat off n).pending = s.pending := by
  simp [State.mgmtStat]

@[simp] theorem State.msix_pending (s : State) (fn vec : Nat) : (s.msix fn vec).pending = s.pending := by
  simp [State.msix]

@[simp] theorem State.raise_pending (s : State) (src : Nat) : (s.raise src).pending = s.pending := by
  simp [State.raise]

@[simp] theorem State.addCtr_pending (s : State) (k n : Nat) : (s.addCtr k n).pending = s.pending := by
  simp [State.addCtr]

@[simp] theorem State.tick_pending (s : State) (code : Nat) (unit : Nat) (n : Nat) : (s.tick code unit n).pending = s.pending := by
  simp [State.tick]

@[simp] theorem State.setReplica_pending (s : State) (q code gen idx cycle v : Nat) :
    (s.setReplica q code gen idx cycle v).pending = s.pending := by
  simp [State.setReplica]

@[simp] theorem State.slotWrite_pending (s : State) (q use event k v : Nat) : (s.slotWrite q use event k v).pending = s.pending := by
  unfold State.slotWrite
  dsimp only
  repeat' split
  all_goals simp

theorem State.maintenance_pending (s : State) (q t use cycle : Nat) {u : State} (h : s.maintenance q t use cycle = some u) :
    u.pending = s.pending := by
  unfold State.maintenance at h
  dsimp only at h
  split at h
  · cases h
  · cases h; simp

@[simp] theorem State.spendSlots_pending (s : State) (q t use event n : Nat) :
    (s.spendSlots q t use event n).pending = s.pending := by
  induction n generalizing s with
  | zero => rfl
  | succ n ih => simp [State.spendSlots, ih]

@[simp] theorem State.commandWrites_pending (s : State) (q : Nat) (rows : List (Nat × Nat)) :
    (s.commandWrites q rows).pending = s.pending := by
  simp [State.commandWrites]

@[simp] theorem State.writeCopies_pending (s : State) (rows : Tbl Nat → List (Nat × Nat)) : (s.writeCopies rows).pending = s.pending := by
  simp -implicitDefEqProofs [State.writeCopies]

@[simp] theorem State.logPage_pending (s : State) (inst page : Nat) : (s.logPage inst page).pending = s.pending := by
  unfold State.logPage
  dsimp only
  split <;> simp

@[simp] theorem State.hostWrite_pending (s : State) (inst a : Nat) (bs : List Byte) : (s.hostWrite inst a bs).pending = s.pending := by
  simp [State.hostWrite]

/-! ### Gates: the queue -/

@[simp] theorem State.armGates_pending (s : State) (lp : Nat) (g : Image) : (s.armGates lp g).pending = s.pending := by
  simp [State.armGates]

@[simp] theorem State.settleGates_pending (s : State) : s.settleGates.pending = s.pending := by
  simp [State.settleGates]

@[simp] theorem State.gateSwitch_pending (s : State) (lp : Nat) : (s.gateSwitch lp).pending = s.pending := by
  unfold State.gateSwitch
  dsimp only
  split <;> simp

@[simp] theorem State.stepGates_pending (s : State) (before after : DevTime) : (s.stepGates before after).pending = s.pending := by
  simp [State.stepGates]

/-! ### Pool: the queue -/

@[simp] theorem State.putCell_pending (s : State) (c : Nat) (data : List Byte) (next : Nat) (last : Bool) :
    (s.putCell c data next last).pending = s.pending := by
  simp [State.putCell]

@[simp] theorem State.spillBank_pending (s : State) (bank : Nat) : (s.spillBank bank).pending = s.pending := by
  unfold State.spillBank
  dsimp only
  split <;> simp

@[simp] theorem State.fillBank_pending (s : State) (bank : Nat) : (s.fillBank bank).pending = s.pending := by
  simp [State.fillBank]

@[simp] theorem State.poolWindow_pending (s : State) (bank : Nat) : (s.poolWindow bank).pending = s.pending := by
  simp -implicitDefEqProofs [State.poolWindow]

@[simp] theorem State.passedWindows_pending (s : State) (bank : Nat) : (s.passedWindows bank).pending = s.pending :=
  State.branch_pending (State.poolWindow_pending ..) rfl

@[simp] theorem State.takeCell_pending (s : State) (bank : Nat) : (s.takeCell bank).2.pending = s.pending := by
  simp -implicitDefEqProofs [State.takeCell, apply_ite Prod.snd]

@[simp] theorem State.returnCell_pending (s : State) (c : Nat) : (s.returnCell c).pending = s.pending := by
  simp -implicitDefEqProofs [State.returnCell]

@[simp] theorem State.intoReserve_pending (s : State) (c : Nat) : (s.intoReserve c).pending = s.pending := by
  simp [State.intoReserve]

@[simp] theorem State.outOfReserve_pending (s : State) (cells : List Nat) : (s.outOfReserve cells).pending = s.pending := by
  simp [State.outOfReserve]

@[simp] theorem State.linkCell_pending (s : State) (c next : Nat) : (s.linkCell c next).pending = s.pending := by
  simp [State.linkCell]

@[simp] theorem State.credit_pending (s : State) (req n : Nat) : (s.credit req n).pending = s.pending := by
  simp [State.credit]

@[simp] theorem State.charge_pending (s : State) (req n : Nat) : (s.charge req n).pending = s.pending := by
  simp [State.charge]

@[simp] theorem State.shadowFree_pending (s : State) (hold : Bool) (record own req n : Nat) :
    (s.shadowFree hold record own req n).pending = s.pending := by
  unfold State.shadowFree
  split <;> simp

@[simp] theorem State.poolLog_pending (s : State) (pointer : Nat) (req reason : Nat) :
    (s.poolLog pointer req reason).pending = s.pending := by
  simp [State.poolLog]

@[simp] theorem State.walkChain_pending (s : State) (first n : Nat) : (s.walkChain first n).pending = s.pending := by
  simp [State.walkChain]

@[simp] theorem State.endHold_pending (s : State) (first : Nat) : (s.endHold first).pending = s.pending := by
  simp [State.endHold]

@[simp] theorem State.modStored_pending (s : State) (id : Nat) (f : Stored → Stored) : (s.modStored id f).pending = s.pending := by
  simp [State.modStored]

@[simp] theorem State.pauseCall_pending (s : State) (lp k : Nat) (on : Bool) : (s.pauseCall lp k on).pending = s.pending := by
  unfold State.pauseCall
  split <;> simp

@[simp] theorem State.groupRelief_pending (s : State) (g : Nat) : (s.groupRelief g).pending = s.pending := by
  simp [State.groupRelief]

@[simp] theorem State.creditAccounts_pending (s : State) (c : Charges) : (s.creditAccounts c).pending = s.pending := by
  unfold State.creditAccounts
  split <;> simp

@[simp] theorem State.dropStored_pending (s : State) (id : Nat) : (s.dropStored id).pending = s.pending := by
  simp [State.dropStored]

@[simp] theorem State.endBody_pending (s : State) (id : Nat) : (s.endBody id).pending = s.pending := by
  simp [State.endBody]

@[simp] theorem State.releaseStored_pending (s : State) (f : Stored) (req : Nat) : (s.releaseStored f req).pending = s.pending := by
  unfold State.releaseStored
  dsimp only
  split <;> simp

@[simp] theorem State.decrement_pending (s : State) (first req n : Nat) : (s.decrement first req n).pending = s.pending := by
  unfold State.decrement
  dsimp only
  repeat' split
  all_goals simp

@[simp] theorem State.loosenChains_pending (s : State) (c : Nat) : (s.loosenChains c).pending = s.pending := by
  simp [State.loosenChains]

@[simp] theorem State.hostFree_pending (s : State) (pointer req : Nat) : (s.hostFree pointer req).pending = s.pending := by
  simp [State.hostFree]

@[simp] theorem State.refuseAllocation_pending (s : State) (req : Nat) : (s.refuseAllocation req).pending = s.pending := by
  simp [State.refuseAllocation]

@[simp] theorem State.takeCells_pending (s : State) (windows : List Nat) (n : Nat) : (s.takeCells windows n).2.pending = s.pending := by
  induction n generalizing s windows with
  | zero => rfl
  | succ n ih => rw [State.takeCells, ih, State.takeCell_pending]

@[simp] theorem State.linkChain_pending (s : State) (cells : List Nat) : (s.linkChain cells).pending = s.pending := by
  induction cells generalizing s with
  | nil => rfl
  | cons c r ih =>
    cases r with
    | nil => rfl
    | cons c' r => exact (ih (s.linkCell c c')).trans (State.linkCell_pending s c c')

@[simp] theorem State.allocate_pending (s : State) (req n : Nat) : (s.allocate req n).2.pending = s.pending := by
  unfold State.allocate
  dsimp only
  split <;> simp

@[simp] theorem State.fillCells_pending (s : State) (cells : List Nat) (d : List Byte) : (s.fillCells cells d).pending = s.pending := by
  induction cells generalizing s d with
  | nil => rfl
  | cons c r ih =>
    cases r with
    | nil => simp [State.fillCells]
    | cons c' r => exact (ih _ _).trans (State.putCell_pending ..)

@[simp] theorem State.copyEnd_pending (s : State) (id q : Nat) : (s.copyEnd id q).pending = s.pending := by
  unfold State.copyEnd
  dsimp only
  repeat' split
  all_goals simp

/-! ### CabOps: the queue -/

@[simp] theorem State.cabWrite_pending (s : State) (a : Nat) (bs : List Byte) (n : Nat) : (s.cabWrite a bs n).pending = s.pending := by
  induction n generalizing s a bs with
  | zero => rfl
  | succ n ih => simp [State.cabWrite, ih]

@[simp] theorem State.cabPut_pending (s : State) (a : Nat) (bs : List Byte) : (s.cabPut a bs).pending = s.pending := by
  simp [State.cabPut]

@[simp] theorem State.placeAt_pending (s : State) (d p : Nat) (bytes : List Byte) : (s.placeAt d p bytes).pending = s.pending := by
  simp [State.placeAt]

theorem State.placeRecord_pending (s : State) (d typ : Nat) (own : Bool) (body : List Byte) {u : State}
    (h : s.placeRecord d typ own body = some u) : u.pending = s.pending := by
  unfold State.placeRecord at h
  dsimp only at h
  split at h
  · cases h
  · split at h
    · cases h; simp
    · cases h

@[simp] theorem State.sysLost_pending (s : State) : s.sysLost.pending = s.pending := by
  simp [State.sysLost]

@[simp] theorem State.writeGap_pending (s : State) (d c : Nat) : (s.writeGap d c).pending = s.pending := by
  unfold State.writeGap
  dsimp only
  split
  · rfl
  · split
    · simp
    · split
      · exact (State.modEvClass_pending ..).trans (State.placeRecord_pending _ _ _ _ _ ‹_›)
      · simp

@[simp] theorem State.sealDrawer_pending (s : State) (d kind : Nat) : (s.sealDrawer d kind).pending = s.pending := by
  unfold State.sealDrawer
  dsimp only
  split <;> simp

@[simp] theorem State.countSeal_pending (s : State) (d : Nat) : (s.countSeal d).pending = s.pending := by
  simp [State.countSeal]

@[simp] theorem State.updatePanic_pending (s : State) : s.updatePanic.pending = s.pending := by
  simp [State.updatePanic]

@[simp] theorem State.classLoss_pending (s : State) (c : Nat) (ts : DevTime) (unrec : Bool) :
    (s.classLoss c ts unrec).pending = s.pending := by
  simp [State.classLoss]

@[simp] theorem State.unmappedFrame_pending (s : State) (fid : Nat) : (s.unmappedFrame fid).pending = s.pending := by
  simp [State.unmappedFrame]

@[simp] theorem State.forgetFrame_pending (s : State) (fid : Nat) : (s.forgetFrame fid).pending = s.pending := by
  simp [State.forgetFrame]

@[simp] theorem State.unhold_pending (s : State) (h : Option Nat) : (s.unhold h).pending = s.pending := by
  unfold State.unhold
  split <;> simp

@[simp] theorem State.stageRecord_pending (s : State) (typ c fid : Nat) (body : List Byte) (ts : DevTime) (heldIn : Option Nat) :
    (s.stageRecord typ c fid body ts heldIn).pending = s.pending := by
  unfold State.stageRecord
  dsimp only
  split <;> simp

@[simp] theorem State.stageSystemIn_pending (s : State) (typ : Nat) (body : List Byte) (d : Nat) :
    (s.stageSystemIn typ body d).pending = s.pending := by
  simp [State.stageSystemIn]

@[simp] theorem State.systemRecord_pending (s : State) (typ : Nat) (body : List Byte) : (s.systemRecord typ body).pending = s.pending := by
  simp [State.systemRecord]

@[simp] theorem State.writeStaged_pending (s : State) (r : Staged) : (s.writeStaged r).pending = s.pending := by
  unfold State.writeStaged
  dsimp only
  split
  · split
    · split
      · rw [State.countSeal_pending, State.placeRecord_pending _ _ _ _ _ ‹_›]; simp
      · simp
    · simp
  · split
    · rw [State.countSeal_pending, State.placeRecord_pending _ _ _ _ _ ‹_›]
    · simp

@[simp] theorem State.drainOne_pending (s : State) : s.drainOne.pending = s.pending := by
  unfold State.drainOne
  split <;> simp

@[simp] theorem State.drainWhere_pending (s : State) (p : Staged → Bool) : (s.drainWhere p).pending = s.pending := by
  simp [State.drainWhere]

@[simp] theorem State.audit_pending (s : State) (w : Waiter) (outcome : Nat) : (s.audit w outcome).pending = s.pending := by
  simp [State.audit]

@[simp] theorem State.sealAll_pending (s : State) (kind : Nat) : (s.sealAll kind).pending = s.pending := by
  simp [State.sealAll]

@[simp] theorem State.selfRefresh_pending (s : State) (on : Bool) : (s.selfRefresh on).pending = s.pending := by
  simp [State.selfRefresh]

@[simp] theorem State.calibrateRanks_pending (s : State) (drifts : List (Fin 16 × List Int)) :
    (s.calibrateRanks drifts).pending = s.pending := by
  simp [State.calibrateRanks]

@[simp] theorem State.cabinetSafe_pending (s : State) : s.cabinetSafe.pending = s.pending := by
  simp [State.cabinetSafe]

@[simp] theorem State.chanLeave_pending (s : State) (k : Nat) (cause : BitVec 4) : (s.chanLeave k cause).pending = s.pending := by
  simp [State.chanLeave]

/-! ### Copies: the queue -/

@[simp] theorem State.dropRecord_pending (s : State) (fid : Nat) (cw : CarriageWord) (src : Source) (lp : Nat) (tsIn : DevTime)
    (pass2 : Bool) (len : Nat) (headCrc : BitVec 32) (reason outLp tc : Nat) :
    (s.dropRecord fid cw src lp tsIn pass2 len headCrc reason outLp tc).pending = s.pending := by
  simp [State.dropRecord]

@[simp] theorem State.dropCopyRecord_pending (s : State) (f : Stored) (reason q : Nat) :
    (s.dropCopyRecord f reason q).pending = s.pending := by
  simp [State.dropCopyRecord]

@[simp] theorem State.putReport_pending (s : State) (j : InjectMeta) (lp flags : Nat) (ts : DevTime) :
    (s.putReport j lp flags ts).pending = s.pending := by
  simp [State.putReport]

@[simp] theorem State.reportDropped_pending (s : State) (inj : Option InjectMeta) : (s.reportDropped inj).pending = s.pending := by
  unfold State.reportDropped
  split <;> simp

@[simp] theorem State.copyLost_pending (s : State) (id q : Nat) : (s.copyLost id q).pending = s.pending := by
  unfold State.copyLost
  split <;> simp

/-! ### Wire: the queue -/

@[simp] theorem State.ptpCount_pending (s : State) (lp : Nat) (f : Stored) (n : Nat) : (s.ptpCount lp f n).pending = s.pending := by
  simp [State.ptpCount]

@[simp] theorem State.txCount_pending (s : State) (lp : Nat) (o : WireOut) : (s.txCount lp o).pending = s.pending := by
  simp [State.txCount]

@[simp] theorem State.settleStamps_pending (s : State) (ps : Nat) : (s.settleStamps ps).pending = s.pending := by
  simp [State.settleStamps]

@[simp] theorem State.captureCopy_pending (s : State) (lp : Nat) (f : Stored) (o : WireOut) :
    (s.captureCopy lp f o).pending = s.pending := by
  unfold State.captureCopy
  split <;> simp

@[simp] theorem State.wireRecord_pending (s : State) (lp : Nat) (w : TxFrame) (f : Stored) (stomp : Bool) :
    (s.wireRecord lp w f stomp).pending = s.pending := by
  simp [State.wireRecord]

@[simp] theorem State.txReport_pending (s : State) (lp : Nat) (w : TxFrame) (f : Stored) (stomp : Bool) :
    (s.txReport lp w f stomp).pending = s.pending := by
  unfold State.txReport
  split <;> simp

@[simp] theorem State.wireDone_pending (s : State) (lp : Nat) : (s.wireDone lp).pending = s.pending := by
  simp [State.wireDone]

@[simp] theorem State.finishTx_pending (s : State) (lp : Nat) : (s.finishTx lp).pending = s.pending := by
  unfold State.finishTx
  dsimp only
  repeat' split
  all_goals simp

@[simp] theorem State.finishAll_pending (s : State) (lp : Nat) : (s.finishAll lp).pending = s.pending := by
  simp [State.finishAll]

@[simp] theorem State.loseTx_pending (s : State) (lp : Nat) : (s.loseTx lp).pending = s.pending := by
  unfold State.loseTx
  dsimp only
  repeat' split
  all_goals simp

@[simp] theorem State.loseAll_pending (s : State) (lp : Nat) : (s.loseAll lp).pending = s.pending := by
  simp [State.loseAll]

/-! ### Links: the queue -/

@[simp] theorem State.portEvent_pending (s : State) (lp : Nat) : (s.portEvent lp).pending = s.pending := by
  simp [State.portEvent]

@[simp] theorem State.setPortState_pending (s : State) (lp : Nat) (st : PortState) : (s.setPortState lp st).pending = s.pending := by
  simp [State.setPortState]

@[simp] theorem State.uncount_pending (s : State) (lp : Nat) (data : List Byte) (len : Nat) :
    (s.uncount lp data len).pending = s.pending := by
  simp [State.uncount]

@[simp] theorem State.cutReceive_pending (s : State) (lp : Nat) : (s.cutReceive lp).pending = s.pending := by
  unfold State.cutReceive
  dsimp only
  split <;> simp

@[simp] theorem State.leaveUp_pending (s : State) (lp : Nat) (st : PortState) (completeWire : Bool) :
    (s.leaveUp lp st completeWire).pending = s.pending := by
  simp -implicitDefEqProofs [State.leaveUp]

@[simp] theorem State.powerDown_pending (s : State) (m : Nat) : (s.powerDown m).pending = s.pending := by
  unfold State.powerDown
  dsimp only
  repeat' split
  all_goals simp

@[simp] theorem State.powerUp_pending (s : State) (m : Nat) : (s.powerUp m).pending = s.pending := by
  simp [State.powerUp]

@[simp] theorem State.settleIsland_pending (s : State) (m : Nat) : (s.settleIsland m).pending = s.pending := by
  simp [State.settleIsland]

@[simp] theorem State.bringup_pending (s : State) (lp : Nat) : (s.bringup lp).pending = s.pending := by
  simp [State.bringup]

@[simp] theorem State.fallBack_pending (s : State) (lp : Nat) : (s.fallBack lp).pending = s.pending := by
  simp [State.fallBack]

@[simp] theorem State.islandFault_pending (s : State) (m : Nat) (completeWire : Bool) :
    (s.islandFault m completeWire).pending = s.pending := by
  simp [State.islandFault]

@[simp] theorem State.settleModes_pending (s : State) : s.settleModes.pending = s.pending := by
  simp [State.settleModes]

/-! ### Replies: the queue -/

@[simp] theorem State.ringReply_pending (s : State) (n : Nat) (r : Reply) : (s.ringReply n r).pending = s.pending := by
  simp [State.ringReply]

@[simp] theorem State.keepReply_pending (s : State) (w : Waiter) (r : Reply) : (s.keepReply w r).pending = s.pending := by
  simp [State.keepReply]

@[simp] theorem State.sendReplyFrame_pending (s : State) (w : Waiter) (r : Reply) : (s.sendReplyFrame w r).pending = s.pending := by
  simp [State.sendReplyFrame]

@[simp] theorem State.sendReply_pending (s : State) (w : Waiter) (r : Reply) : (s.sendReply w r).pending = s.pending := by
  unfold State.sendReply
  split <;> simp

@[simp] theorem State.sendAudited_pending (s : State) (w : Waiter) (r : Reply) (outcome : Option Nat) :
    (s.sendAudited w r outcome).pending = s.pending := by
  unfold State.sendAudited
  split <;> simp

@[simp] theorem State.firstReply_pending (s : State) (w : Waiter) (r : Reply) (outcome : Option Nat) :
    (s.firstReply w r outcome).pending = s.pending := by
  unfold State.firstReply
  split <;> simp

@[simp] theorem State.complete_pending (s : State) (w : Waiter) (status detail : Nat) (results : List Byte) :
    (s.complete w status detail results).pending = s.pending := by
  simp [State.complete]

/-! ### FaultOps: the queue -/

@[simp] theorem State.modLine_pending (s : State) (n : Nat) (f : FltLine → FltLine) : (s.modLine n f).pending = s.pending := by
  simp [State.modLine]

@[simp] theorem State.capture_pending (s : State) (n : Nat) (src : BitVec 13) : (s.capture n src).pending = s.pending := by
  simp [State.capture]

@[simp] theorem State.gasp_pending (s : State) (cause line : Nat) (src : BitVec 13) : (s.gasp cause line src).pending = s.pending := by
  simp [State.gasp]

@[simp] theorem State.stopTransmit_pending (s : State) : s.stopTransmit.pending = s.pending := by
  simp [State.stopTransmit]

@[simp] theorem State.stopContext_pending (s : State) (p : CmdPort) : (s.stopContext p).pending = s.pending := by
  unfold State.stopContext
  dsimp only
  repeat' split
  all_goals simp

@[simp] theorem State.stopContexts_pending (s : State) : s.stopContexts.pending = s.pending := by
  simp [State.stopContexts]

@[simp] theorem State.enterSafe_pending (s : State) (cause line : Nat) (src : BitVec 13) (thermal : Bool) :
    (s.enterSafe cause line src thermal).pending = s.pending := by
  simp -implicitDefEqProofs [State.enterSafe]

@[simp] theorem State.sendFeed_pending (s : State) (f : Nat) (c : FeedChange) : (s.sendFeed f c).pending = s.pending := by
  simp [State.sendFeed]

@[simp] theorem State.clearFeed_pending (s : State) (f : Nat) : (s.clearFeed f).pending = s.pending := by
  simp [State.clearFeed]

@[simp] theorem State.contain_pending (s : State) (n : Nat) (src : Nat) : (s.contain n src).pending = s.pending := by
  unfold State.contain
  dsimp only
  repeat' split
  all_goals simp

@[simp] theorem State.startGrace_pending (s : State) (n : Nat) (src : BitVec 13) : (s.startGrace n src).pending = s.pending := by
  unfold State.startGrace
  split <;> simp

@[simp] theorem State.actAt_pending (s : State) (n : Nat) (src : BitVec 13) (sev : Nat) : (s.actAt n src sev).pending = s.pending := by
  simp [State.actAt]

@[simp] theorem State.unfence_pending (s : State) (p : Nat) : (s.unfence p).pending = s.pending := by
  simp [State.unfence]

@[simp] theorem State.occur_pending (s : State) (n : Nat) (src : BitVec 13) : (s.occur n src).pending = s.pending := by
  simp [State.occur]

@[simp] theorem State.chanFail_pending (s : State) (k : Nat) (cause : BitVec 4) : (s.chanFail k cause).pending = s.pending := by
  simp [State.chanFail]

/-! ### CmdOps: the queue -/

@[simp] theorem ok_pending (s : State) (results : List Byte) : (ok s results).st.pending = s.pending := by
  simp [ok]

@[simp] theorem pendingReply_pending (s : State) : (pendingReply s).st.pending = s.pending := by
  simp [pendingReply]

@[simp] theorem badLength_pending (s : State) (detail : Nat) : (badLength s detail).st.pending = s.pending := by
  simp [badLength]

@[simp] theorem busy_pending (s : State) (detail : Nat) : (busy s detail).st.pending = s.pending := by
  simp [busy]

@[simp] theorem noResource_pending (s : State) : (noResource s).st.pending = s.pending := by
  simp [noResource]

@[simp] theorem State.authFail_pending (s : State) (w : Waiter) : (s.authFail w).pending = s.pending := by
  simp [State.authFail]

@[simp] theorem finishCmd_pending (w : Waiter) (d : Done) : (finishCmd w d).pending = d.st.pending := by
  simp [finishCmd]

@[simp] theorem State.unqueue_pending (s : State) (op : Nat) (p : Pkt) : (s.unqueue op p).pending = s.pending := by
  unfold State.unqueue
  dsimp only
  repeat' split
  all_goals simp

@[simp] theorem State.holdPacket_pending (s : State) (op : Nat) (p : Pkt) : (s.holdPacket op p).pending = s.pending := by
  unfold State.holdPacket
  split <;> simp

@[simp] theorem State.mirrorOut_pending (s : State) (op : Nat) (p : Pkt) (tN : Nat) (w : Waiter) :
    (s.mirrorOut op p tN w).pending = s.pending := by
  unfold State.mirrorOut
  split <;> simp

@[simp] theorem State.engineUse_pending (s : State) : s.engineUse.pending = s.pending := by
  simp [State.engineUse]

/-- A command packet whose handler leaves the queue as it is leaves it, however the packet ends. -/
@[simp] theorem State.runCommand_pending_of_handler (s : State) (op : Nat) (p : Pkt) (wf : List Byte → State → Bool) {h : Handler}
    (hwork : ∀ w u, (h w p p.params u).st.pending = u.pending) : (s.runCommand op p wf h).pending = s.pending := by
  unfold State.runCommand
  have harrive : (s.at_ p.at8.val).pending = s.pending := rfl
  generalize s.at_ p.at8.val = u at harrive
  refine State.branch_pending harrive (State.branch_pending ((State.holdPacket_pending ..).trans harrive) ?_)
  have hleave : (u.unqueue op p).engineUse.pending = s.pending := (State.unqueue_pending ..).trans harrive
  generalize (u.unqueue op p).engineUse = u at hleave
  refine State.branch_pending hleave ?_
  cases u.keptReply p with
  | some k =>
    dsimp only
    split
    · exact (State.sendReply_pending ..).trans hleave
    · exact hleave
  | none =>
    dsimp -zeta only
    cases u.authCheck op p with
    | some r => exact (finishCmd_pending ..).trans hleave
    | none =>
      dsimp -zeta only
      have hauth : (if p.trailer then u.modKey p.keySlot.toNat fun k => { k with counter := p.counter } else u).pending = s.pending :=
        State.branch_pending hleave hleave
      generalize (if p.trailer then u.modKey p.keySlot.toNat fun k => { k with counter := p.counter } else u) = v at hauth
      refine State.branch_pending ((finishCmd_pending ..).trans hauth) (State.branch_pending ((finishCmd_pending ..).trans hauth) ?_)
      have haccept : ∀ (c : Prop) [Decidable c] (a b : CmdState),
          (if c then { v with cmd := a } else { v with cmd := b } : State).pending = s.pending :=
        fun _ _ _ _ => State.branch_pending hauth hauth
      refine State.branch_pending ((finishCmd_pending ..).trans (haccept ..)) ?_
      have hran : ∀ (c : Prop) [Decidable c] (a b : CmdState) (tN : Nat) (w w' : Waiter),
          (h w' p p.params ((if c then { v with cmd := a } else { v with cmd := b } : State).mirrorOut op p tN w)).st.pending =
            s.pending :=
        fun _ _ _ _ _ _ _ => (hwork ..).trans ((State.mirrorOut_pending ..).trans (haccept ..))
      exact State.branch_pending (hran ..) (State.branch_pending ((State.firstReply_pending ..).trans (hran ..))
        ((finishCmd_pending ..).trans (hran ..)))

end Sys2Proof.Machine
end

section
/-!
SUPPORT. The queue of commands that wait, continued: the template and time commands.
-/

namespace Sys2Proof.Machine

/-! ### System: the queue -/

@[simp] theorem doNop_pending (w : Waiter) (p : Pkt) (ps : List Byte) (s : State) : (doNop w p ps s).st.pending = s.pending := by
  simp [doNop]

@[simp] theorem doIdentify_pending (w : Waiter) (p : Pkt) (ps : List Byte) (s : State) : (doIdentify w p ps s).st.pending = s.pending := by
  simp [doIdentify]

@[simp] theorem doReadState_pending (w : Waiter) (p : Pkt) (ps : List Byte) (s : State) :
    (doReadState w p ps s).st.pending = s.pending := by
  simp [doReadState]

@[simp] theorem doMonitorRead_pending (w : Waiter) (p : Pkt) (ps : List Byte) (s : State) :
    (doMonitorRead w p ps s).st.pending = s.pending := by
  simp [doMonitorRead]

@[simp] theorem doCounterRead_pending (w : Waiter) (p : Pkt) (ps : List Byte) (s : State) :
    (doCounterRead w p ps s).st.pending = s.pending := by
  simp [doCounterRead]

@[simp] theorem doKeyInstall_pending (w : Waiter) (p : Pkt) (ps : List Byte) (s : State) :
    (doKeyInstall w p ps s).st.pending = s.pending := by
  unfold doKeyInstall
  dsimp only
  repeat' split
  all_goals simp

@[simp] theorem doKeyRetire_pending (w : Waiter) (p : Pkt) (ps : List Byte) (s : State) :
    (doKeyRetire w p ps s).st.pending = s.pending := by
  unfold doKeyRetire
  dsimp only
  split <;> simp

@[simp] theorem doSelftest_pending (w : Waiter) (p : Pkt) (ps : List Byte) (s : State) : (doSelftest w p ps s).st.pending = s.pending := by
  unfold doSelftest
  dsimp only
  split <;> simp

@[simp] theorem State.selftestRow_pending (s : State) (op : Nat) (p : Pkt) : (s.selftestRow op p).pending = s.pending := by
  simp [State.selftestRow]

@[simp] theorem State.resweepEnd_pending (s : State) (k : Nat) (sweeps : List (Fin 16 × Training)) :
    (s.resweepEnd k sweeps).pending = s.pending := by
  unfold State.resweepEnd
  split <;> simp

@[simp] theorem State.selftestEnd_pending (s : State) (pass : Nat) (sweeps : List (Fin 16 × Training)) :
    (s.selftestEnd pass sweeps).pending = s.pending := by
  unfold State.selftestEnd
  split <;> simp

/-! ### Faults: the queue -/

@[simp] theorem doFaultConfig_pending (w : Waiter) (p : Pkt) (ps : List Byte) (s : State) :
    (doFaultConfig w p ps s).st.pending = s.pending := by
  simp [doFaultConfig]

@[simp] theorem State.liftContainment_pending (s : State) (n : Nat) : (s.liftContainment n).pending = s.pending := by
  simp -implicitDefEqProofs [State.liftContainment]

@[simp] theorem State.settleGrace_pending (s : State) : s.settleGrace.pending = s.pending := by
  simp [State.settleGrace]

@[simp] theorem State.occurAt_pending (s : State) (n : Nat) (src : BitVec 13) : (s.occurAt n src).pending = s.pending := by
  simp [State.occurAt]

@[simp] theorem doFaultRelease_pending (w : Waiter) (p : Pkt) (ps : List Byte) (s : State) :
    (doFaultRelease w p ps s).st.pending = s.pending := by
  unfold doFaultRelease
  dsimp only
  split <;> simp

@[simp] theorem State.stagedLost_pending (s : State) : s.stagedLost.pending = s.pending := by
  unfold State.stagedLost
  dsimp only
  repeat' split
  all_goals simp

@[simp] theorem State.windowClose_pending (s : State) (n : Nat) : (s.windowClose n).pending = s.pending := by
  unfold State.windowClose
  split <;> simp

@[simp] theorem State.graceExpires_pending (s : State) : s.graceExpires.pending = s.pending := by
  unfold State.graceExpires
  split <;> simp

@[simp] theorem State.cmdWatchdog_pending (s : State) (p : CmdPort) : (s.cmdWatchdog p).pending = s.pending := by
  simp [State.cmdWatchdog]

@[simp] theorem State.looseStatus_pending (s : State) : s.looseStatus.pending = s.pending := by
  simp [State.looseStatus]

@[simp] theorem State.collectorFault_pending (s : State) (cause : Nat) : (s.collectorFault cause).pending = s.pending := by
  simp [State.collectorFault]

@[simp] theorem State.holdoffEnd_pending (s : State) (k : Nat) : (s.holdoffEnd k).pending = s.pending := by
  unfold State.holdoffEnd
  dsimp only
  split <;> simp

@[simp] theorem State.sendPending_pending (s : State) (fn : Nat) : (s.sendPending fn).pending = s.pending := by
  simp -implicitDefEqProofs [State.sendPending]

@[simp] theorem State.msixUnmask_pending (s : State) (fn : Nat) (vec : Option (Fin 536)) : (s.msixUnmask fn vec).pending = s.pending := by
  unfold State.msixUnmask
  split <;> simp

@[simp] theorem State.pllLoss_pending (s : State) (i : Fin 112) : (s.pllLoss i).pending = s.pending := by
  simp [State.pllLoss]

/-! ### Monitors: the queue -/

@[simp] theorem State.settleDrift_pending (s : State) : s.settleDrift.pending = s.pending := by
  simp [State.settleDrift]

@[simp] theorem State.sensorRead_pending (s : State) (k : Nat) (reading : BitVec 16) : (s.sensorRead k reading).pending = s.pending := by
  simp [State.sensorRead]

@[simp] theorem State.shedOne_pending (s : State) : s.shedOne.pending = s.pending := by
  unfold State.shedOne
  split <;> simp

@[simp] theorem State.shedCheck_pending (s : State) : s.shedCheck.pending = s.pending := by
  unfold State.shedCheck
  split <;> simp

@[simp] theorem State.voltageSample_pending (s : State) (k : Nat) (mv : BitVec 16) : (s.voltageSample k mv).pending = s.pending := by
  simp [State.voltageSample]

@[simp] theorem State.dimmSensorRead_pending (s : State) (k celsius : Nat) : (s.dimmSensorRead k celsius).pending = s.pending := by
  simp [State.dimmSensorRead]

/-! ### Time: the queue -/

@[simp] theorem State.advanceTime_pending (s : State) : s.advanceTime.pending = s.pending := by
  simp [State.advanceTime]

@[simp] theorem State.applyRates_pending (s : State) : s.applyRates.pending = s.pending := by
  simp [State.applyRates]

@[simp] theorem State.latchTo_pending (s : State) (ps : Nat) : (s.latchTo ps).pending = s.pending := by
  unfold State.latchTo
  split <;> simp

@[simp] theorem State.settleLatch_pending (s : State) : s.settleLatch.pending = s.pending := by
  simp [State.settleLatch]

@[simp] theorem State.settleRound_pending (s : State) : s.settleRound.pending = s.pending := by
  simp [State.settleRound]

@[simp] theorem timeError_pending (s : State) (code : Nat) : (timeError s code).st.pending = s.pending := by
  simp [timeError]

@[simp] theorem doTimeSet_pending (w : Waiter) (p : Pkt) (ps : List Byte) (s : State) : (doTimeSet w p ps s).st.pending = s.pending := by
  unfold doTimeSet
  dsimp only
  repeat' split
  all_goals simp

@[simp] theorem adjustFreq_pending (ps : List Byte) (s : State) : (adjustFreq ps s).st.pending = s.pending := by
  unfold adjustFreq
  split <;> simp

@[simp] theorem adjustSlew_pending (ps : List Byte) (s : State) : (adjustSlew ps s).st.pending = s.pending := by
  unfold adjustSlew
  split <;> simp

@[simp] theorem adjustStep_pending (w : Waiter) (ps : List Byte) (s : State) : (adjustStep w ps s).st.pending = s.pending := by
  unfold adjustStep
  dsimp only
  repeat' split
  all_goals simp

@[simp] theorem State.setSource_pending (s : State) (src : BitVec 2) : (s.setSource src).pending = s.pending := by
  simp [State.setSource]

@[simp] theorem adjustSource_pending (ps : List Byte) (s : State) : (adjustSource ps s).st.pending = s.pending := by
  unfold adjustSource
  dsimp only
  split <;> simp

@[simp] theorem adjustPpsOut_pending (ps : List Byte) (s : State) : (adjustPpsOut ps s).st.pending = s.pending := by
  simp [adjustPpsOut]

@[simp] theorem adjustDeclare_pending (ps : List Byte) (s : State) : (adjustDeclare ps s).st.pending = s.pending := by
  simp [adjustDeclare]

@[simp] theorem doTimeAdjust_pending (w : Waiter) (p : Pkt) (ps : List Byte) (s : State) :
    (doTimeAdjust w p ps s).st.pending = s.pending := by
  unfold doTimeAdjust
  dsimp only
  repeat' split
  all_goals simp

@[simp] theorem State.timeAdjust_pending (s : State) (op : Nat) (p : Pkt) : (s.timeAdjust op p).pending = s.pending := by
  simp [State.timeAdjust]

@[simp] theorem doTimeRead_pending (w : Waiter) (p : Pkt) (ps : List Byte) (s : State) : (doTimeRead w p ps s).st.pending = s.pending := by
  simp [doTimeRead]

@[simp] theorem doTsCalibrate_pending (w : Waiter) (p : Pkt) (ps : List Byte) (s : State) :
    (doTsCalibrate w p ps s).st.pending = s.pending := by
  unfold doTsCalibrate
  dsimp only
  repeat' split
  all_goals simp

@[simp] theorem State.tsCalibrate_pending (s : State) (op : Nat) (p : Pkt) : (s.tsCalibrate op p).pending = s.pending := by
  simp [State.tsCalibrate]

@[simp] theorem State.calibrationComplete_pending (s : State) (lp : Nat) (rxPs txPs : BitVec 32) :
    (s.calibrationComplete lp rxPs txPs).pending = s.pending := by
  unfold State.calibrationComplete
  split <;> simp

@[simp] theorem State.timeLatch_pending (s : State) (v : BitVec 64) (delay8 : Nat) : (s.timeLatch v delay8).pending = s.pending := by
  simp [State.timeLatch]

@[simp] theorem State.applyStep_pending (s : State) (kind : StepKind) (before after : DevTime) :
    (s.applyStep kind before after).pending = s.pending := by
  unfold State.applyStep
  generalize (2 ^ 32 : Int) = fraction
  generalize (2 ^ 96 : Int) = wrap
  have hstep : ∀ t : TimeState, ((({ s with time := t } : State).stepGates before after).settleGates.raise 1202).pending = s.pending :=
    fun _ => by simp
  exact State.branch_pending ((State.emit_pending ..).trans (hstep _)) (hstep _)

@[simp] theorem State.stepApply_pending (s : State) : s.stepApply.pending = s.pending := by
  unfold State.stepApply
  generalize 2 ^ 48 * secUnits = limit
  split
  · rfl
  split
  · rfl
  refine State.branch_pending ?_ ?_
  · dsimp only
    split
    · exact State.complete_pending ..
    · rfl
  · dsimp only
    split
    · exact (State.complete_pending ..).trans (State.applyStep_pending ..)
    · exact State.applyStep_pending ..

@[simp] theorem State.noPpsTimeout_pending (s : State) : s.noPpsTimeout.pending = s.pending := by
  unfold State.noPpsTimeout
  split
  · rfl
  refine State.branch_pending ?_ rfl
  split
  · rfl
  dsimp only
  split
  · exact State.complete_pending ..
  · rfl

@[simp] theorem State.slewEnd_pending (s : State) : s.slewEnd.pending = s.pending := by
  unfold State.slewEnd
  split <;> simp

@[simp] theorem State.ppsInEdge_pending (s : State) : s.ppsInEdge.pending = s.pending := by
  simp [State.ppsInEdge]

@[simp] theorem State.ppsAbsent_pending (s : State) : s.ppsAbsent.pending = s.pending := by
  unfold State.ppsAbsent
  split <;> simp

@[simp] theorem State.ppsOutEdge_pending (s : State) : s.ppsOutEdge.pending = s.pending := by
  simp [State.ppsOutEdge]

@[simp] theorem State.setRate_pending (s : State) (v : Int) : (s.setRate v).pending = s.pending := by
  simp [State.setRate]

@[simp] theorem State.refCount_pending (s : State) (edges : Nat) : (s.refCount edges).pending = s.pending := by
  simp [State.refCount]

@[simp] theorem State.attest_pending (s : State) : s.attest.pending = s.pending := by
  simp [State.attest]

/-! ### Timetable: the queue -/

@[simp] theorem State.setShadow_pending (s : State) (b : List Byte) (st : ShadowState) : (s.setShadow b st).pending = s.pending := by
  simp [State.setShadow]

@[simp] theorem State.chunkTaken_pending (s : State) (b : List Byte) (final : Bool) : (s.chunkTaken b final).st.pending = s.pending := by
  unfold State.chunkTaken
  split
  · split
    · exact (ok_pending ..).trans (State.setShadow_pending ..)
    · exact (badLength_pending ..).trans (State.setShadow_pending ..)
  · exact (ok_pending ..).trans (State.setShadow_pending ..)

@[simp] theorem doTtLoad_pending (w : Waiter) (p : Pkt) (ps : List Byte) (s : State) : (doTtLoad w p ps s).st.pending = s.pending := by
  unfold doTtLoad
  dsimp only
  repeat' split
  all_goals simp

@[simp] theorem State.cancelActivation_pending (s : State) : s.cancelActivation.st.pending = s.pending := by
  unfold State.cancelActivation
  dsimp only
  repeat' split
  all_goals simp

@[simp] theorem doTtActivateAt_pending (tn : Option Nat) (w : Waiter) (p : Pkt) (ps : List Byte) (s : State) :
    (doTtActivateAt tn w p ps s).st.pending = s.pending := by
  unfold doTtActivateAt
  dsimp only
  repeat' split
  all_goals simp

@[simp] theorem State.ttActivate_pending (s : State) (mode : Nat) (p : Pkt) : (s.ttActivate mode p).pending = s.pending := by
  simp [State.ttActivate]

@[simp] theorem doTtQuery_pending (w : Waiter) (p : Pkt) (ps : List Byte) (s : State) : (doTtQuery w p ps s).st.pending = s.pending := by
  simp [doTtQuery]

@[simp] theorem State.activationCommit_pending (s : State) : s.activationCommit.pending = s.pending := by
  unfold State.activationCommit
  split <;> simp

@[simp] theorem State.activationSwitch_pending (s : State) : s.activationSwitch.pending = s.pending := by
  unfold State.activationSwitch
  split <;> simp

@[simp] theorem State.activationDrained_pending (s : State) : s.activationDrained.pending = s.pending := by
  unfold State.activationDrained
  split <;> simp

@[simp] theorem State.endSwitch_pending (s : State) (lp : Fin 512) : (s.endSwitch lp).pending = s.pending := by
  simp [State.endSwitch]

@[simp] theorem State.switchPosition_pending (s : State) (lp : Fin 512) : (s.switchPosition lp).pending = s.pending := by
  simp [State.switchPosition]

@[simp] theorem State.windowClosed_pending (s : State) (lp : Fin 512) : (s.windowClosed lp).pending = s.pending := by
  simp [State.windowClosed]

end Sys2Proof.Machine
end

section
/-!
SUPPORT. The queue of commands that wait, continued: the line.
-/

namespace Sys2Proof.Machine

/-! ### Line: the queue -/

@[simp] theorem partialReply_pending (s : State) (n : Nat) : (partialReply s n).st.pending = s.pending := by
  simp [partialReply]

@[simp] theorem d0Busy_pending (s : State) (n : Nat) : (d0Busy s n).st.pending = s.pending := by
  simp [d0Busy]

@[simp] theorem State.modPause_pending (s : State) (lp k : Nat) (f : PauseState → PauseState) :
    (s.modPause lp k f).pending = s.pending := by
  simp [State.modPause]

@[simp] theorem State.dropPauses_pending (s : State) (lp : Nat) : (s.dropPauses lp).pending = s.pending := by
  simp [State.dropPauses]

@[simp] theorem State.recallPauses_pending (s : State) (lp : Nat) : (s.recallPauses lp).pending = s.pending := by
  simp [State.recallPauses]

@[simp] theorem State.powerOff_pending (s : State) (lp : Nat) (st : PortState) : (s.powerOff lp st).pending = s.pending := by
  simp [State.powerOff]

@[simp] theorem State.applyBlock_pending (s : State) (lp : Nat) (new : Image) : (s.applyBlock lp new).pending = s.pending := by
  simp [State.applyBlock]

@[simp] theorem State.applyHeader_pending (s : State) (m mode : Nat) (rx tx : BitVec 8) :
    (s.applyHeader m mode rx tx).pending = s.pending := by
  simp [State.applyHeader]

@[simp] theorem doPortConfig_pending (w : Waiter) (p : Pkt) (ps : List Byte) (s : State) :
    (doPortConfig w p ps s).st.pending = s.pending := by
  unfold doPortConfig
  dsimp only
  repeat' split
  all_goals simp

@[simp] theorem doPortStatus_pending (w : Waiter) (p : Pkt) (ps : List Byte) (s : State) :
    (doPortStatus w p ps s).st.pending = s.pending := by
  simp [doPortStatus]

@[simp] theorem doStatsRead_pending (w : Waiter) (p : Pkt) (ps : List Byte) (s : State) :
    (doStatsRead w p ps s).st.pending = s.pending := by
  unfold doStatsRead
  dsimp only
  split <;> split <;> simp

@[simp] theorem State.lanesOn_pending (s : State) (lp : Nat) : (s.lanesOn lp).pending = s.pending := by
  simp [State.lanesOn]

@[simp] theorem State.bringupDone_pending (s : State) (lp : Nat) (ok : Bool) : (s.bringupDone lp ok).pending = s.pending := by
  unfold State.bringupDone
  dsimp only
  split <;> simp

@[simp] theorem State.alignTimeout_pending (s : State) (lp : Nat) : (s.alignTimeout lp).pending = s.pending := by
  simp [State.alignTimeout]

@[simp] theorem State.linkLoss_pending (s : State) (lp : Nat) : (s.linkLoss lp).pending = s.pending := by
  simp [State.linkLoss]

@[simp] theorem State.fecCheck_pending (s : State) (lp symbols cw bad blocks : Nat) :
    (s.fecCheck lp symbols cw bad blocks).pending = s.pending := by
  simp [State.fecCheck]

@[simp] theorem State.wakeDetect_pending (s : State) (lp : Nat) : (s.wakeDetect lp).pending = s.pending := by
  simp [State.wakeDetect]

@[simp] theorem State.wakeRearm_pending (s : State) (lp : Nat) : (s.wakeRearm lp).pending = s.pending := by
  simp [State.wakeRearm]

@[simp] theorem State.wakePorts_pending (s : State) (m : Nat) : (s.wakePorts m).pending = s.pending := by
  simp [State.wakePorts]

@[simp] theorem State.islandUp_pending (s : State) (m : Nat) : (s.islandUp m).pending = s.pending := by
  simp [State.islandUp]

@[simp] theorem State.pauseArrive_pending (s : State) (lp k : Nat) (quanta : BitVec 16) (endPs : Nat) :
    (s.pauseArrive lp k quanta endPs).pending = s.pending := by
  simp [State.pauseArrive]

@[simp] theorem State.pauseFrame_pending (s : State) (lp op classes : Nat) (quanta : List (BitVec 16)) (endPs : Nat) :
    (s.pauseFrame lp op classes quanta endPs).pending = s.pending := by
  simp [State.pauseFrame]

@[simp] theorem State.pauseReceive_pending (s : State) (lp : Nat) (op : BitVec 16) (classes : BitVec 8) (quanta : List (BitVec 16)) :
    (s.pauseReceive lp op classes quanta).pending = s.pending := by
  simp [State.pauseReceive]

@[simp] theorem State.pauseTake_pending (s : State) (lp : Nat) : (s.pauseTake lp).pending = s.pending := by
  simp [State.pauseTake]

@[simp] theorem State.pauseExpire_pending (s : State) (lp k : Nat) : (s.pauseExpire lp k).pending = s.pending := by
  unfold State.pauseExpire
  split <;> simp

@[simp] theorem State.pauseTrip_pending (s : State) (lp k : Nat) : (s.pauseTrip lp k).pending = s.pending := by
  unfold State.pauseTrip
  dsimp only
  split <;> simp

@[simp] theorem State.holdoffOver_pending (s : State) (lp k : Nat) : (s.holdoffOver lp k).pending = s.pending := by
  unfold State.holdoffOver
  split <;> simp

@[simp] theorem State.pauseSend_pending (s : State) (lp k quanta : Nat) (last : Option Nat) :
    (s.pauseSend lp k quanta last).pending = s.pending := by
  simp [State.pauseSend]

@[simp] theorem State.pauseTx_pending (s : State) (lp k : Nat) : (s.pauseTx lp k).pending = s.pending := by
  unfold State.pauseTx
  dsimp only
  repeat' split
  all_goals simp

@[simp] theorem State.sendPauses_pending (s : State) (lp : Nat) : (s.sendPauses lp).pending = s.pending := by
  simp [State.sendPauses]

/-! ### Cabinet: the queue -/

@[simp] theorem doDrawerOpen_pending (w : Waiter) (p : Pkt) (ps : List Byte) (s : State) :
    (doDrawerOpen w p ps s).st.pending = s.pending := by
  unfold doDrawerOpen
  dsimp only
  repeat' split
  all_goals simp

@[simp] theorem State.closeDrawer_pending (s : State) (d : Nat) : (s.closeDrawer d).pending = s.pending := by
  simp -implicitDefEqProofs [State.closeDrawer]

@[simp] theorem State.settleCloses_pending (s : State) : s.settleCloses.pending = s.pending := by
  unfold State.settleCloses
  refine State.branch_pending rfl (State.foldl_pending (fun s d => ?_) _ _)
  split
  · exact State.branch_pending ((State.complete_pending ..).trans ((State.modDrawer_pending ..).trans (State.closeDrawer_pending ..))) rfl
  · rfl

@[simp] theorem doDrawerClose_pending (w : Waiter) (p : Pkt) (ps : List Byte) (s : State) :
    (doDrawerClose w p ps s).st.pending = s.pending := by
  unfold doDrawerClose
  dsimp only
  split <;> simp

@[simp] theorem doDrawerErase_pending (w : Waiter) (p : Pkt) (ps : List Byte) (s : State) :
    (doDrawerErase w p ps s).st.pending = s.pending := by
  unfold doDrawerErase
  dsimp only
  split <;> simp

@[simp] theorem State.zeroRange_pending (s : State) (base size : Nat) : (s.zeroRange base size).pending = s.pending := by
  simp [State.zeroRange]

@[simp] theorem State.eraseDone_pending (s : State) (d : Nat) : (s.eraseDone d).pending = s.pending := by
  unfold State.eraseDone
  dsimp only
  repeat' split
  all_goals simp

@[simp] theorem sealStep_pending (x : State × List (Nat × Nat)) (d : Nat) : (sealStep x d).1.pending = x.1.pending := by
  simp [sealStep]

@[simp] theorem doSealNow_pending (w : Waiter) (p : Pkt) (ps : List Byte) (s : State) : (doSealNow w p ps s).st.pending = s.pending := by
  unfold doSealNow
  dsimp only
  split <;> simp

@[simp] theorem State.sealTimer_pending (s : State) (d : Nat) : (s.sealTimer d).pending = s.pending := by
  simp [State.sealTimer]

@[simp] theorem State.evidenceDrain_pending (s : State) : s.evidenceDrain.pending = s.pending := by
  simp [State.evidenceDrain]

@[simp] theorem State.rposWrite_pending (s : State) (n d : Nat) (v : BitVec 64) : (s.rposWrite n d v).pending = s.pending := by
  simp [State.rposWrite]

@[simp] theorem State.setReplay_pending (s : State) (op idx e : Nat) : (s.setReplay op idx e).pending = s.pending := by
  simp [State.setReplay]

@[simp] theorem doReplayConfig_pending (w : Waiter) (p : Pkt) (ps : List Byte) (s : State) :
    (doReplayConfig w p ps s).st.pending = s.pending := by
  unfold doReplayConfig
  dsimp only
  repeat' split
  all_goals simp

@[simp] theorem State.replayConfig_pending (s : State) (op : Nat) (p : Pkt) : (s.replayConfig op p).pending = s.pending := by
  simp [State.replayConfig]

@[simp] theorem doCabinetPause_pending (w : Waiter) (p : Pkt) (ps : List Byte) (s : State) :
    (doCabinetPause w p ps s).st.pending = s.pending := by
  unfold doCabinetPause
  split <;> split <;> simp

@[simp] theorem State.cabinetPause_pending (s : State) (op : Nat) (p : Pkt) : (s.cabinetPause op p).pending = s.pending := by
  simp [State.cabinetPause]

@[simp] theorem State.pauseDone_pending (s : State) : s.pauseDone.pending = s.pending := by
  unfold State.pauseDone
  split <;> simp

@[simp] theorem State.resumeDone_pending (s : State) (drifts : List (Fin 16 × List Int)) : (s.resumeDone drifts).pending = s.pending := by
  unfold State.resumeDone
  split <;> simp

/-! ### Dram: the queue -/

@[simp] theorem State.trainingDone_pending (s : State) (k : Nat) (t : Training) : (s.trainingDone k t).pending = s.pending := by
  simp [State.trainingDone]

@[simp] theorem State.cabinetInitialised_pending (s : State) : s.cabinetInitialised.pending = s.pending := by
  simp [State.cabinetInitialised]

@[simp] theorem State.dramRefresh_pending (s : State) (k : Nat) (drift : List Int) : (s.dramRefresh k drift).pending = s.pending := by
  simp -implicitDefEqProofs [State.dramRefresh]

@[simp] theorem State.uncorrectable_pending (s : State) (a : Nat) : (s.uncorrectable a).pending = s.pending := by
  unfold State.uncorrectable
  generalize secPs = second
  exact State.branch_pending ((State.chanFail_pending ..).trans (State.raise_pending ..)) (State.raise_pending ..)

@[simp] theorem State.eccRead_pending (s : State) (a devices : Nat) : (s.eccRead a devices).pending = s.pending := by
  unfold State.eccRead
  dsimp only
  split <;> simp

@[simp] theorem State.dramRead_pending (s : State) (a devices : Nat) : (s.dramRead a devices).pending = s.pending := by
  simp [State.dramRead]

@[simp] theorem State.patrolScrub_pending (s : State) (k devices : Nat) : (s.patrolScrub k devices).pending = s.pending := by
  simp [State.patrolScrub]

/-! ### HostOps: the queue -/

@[simp] theorem State.cabTouch_pending (s : State) (src a n : Nat) : (s.cabTouch src a n).pending = s.pending := by
  simp [State.cabTouch]

@[simp] theorem State.d0Read_pending (s : State) (a : Nat) : (s.d0Read a).1.pending = s.pending := by
  unfold State.d0Read
  dsimp only
  split <;> simp

@[simp] theorem State.markDamaged_pending (s : State) (block : Nat) : (s.markDamaged block).pending = s.pending := by
  simp [State.markDamaged]

@[simp] theorem State.readMaster_pending (s : State) (code gen idx : Nat) : (s.readMaster code gen idx).1.pending = s.pending := by
  unfold State.readMaster
  dsimp only
  repeat' split
  all_goals simp

@[simp] theorem State.issueRead_pending (s : State) (fn : Nat) (why : ReadFor) : (s.issueRead fn why).pending = s.pending := by
  unfold State.issueRead
  dsimp only
  split <;> simp

@[simp] theorem State.endRead_pending (s : State) (t : BitVec 14) : (s.endRead t).pending = s.pending := by
  simp [State.endRead]

@[simp] theorem State.dropChain_pending (s : State) (r : Nat) : (s.dropChain r).pending = s.pending := by
  unfold State.dropChain
  dsimp only
  repeat' split
  all_goals simp

@[simp] theorem State.haltRing_pending (s : State) (r code : Nat) : (s.haltRing r code).pending = s.pending := by
  simp [State.haltRing]

@[simp] theorem State.freeFrameCells_pending (s : State) (f : Frame) : (s.freeFrameCells f).pending = s.pending := by
  unfold State.freeFrameCells
  split <;> split <;> simp

@[simp] theorem State.dropBacklog_pending (s : State) (r : Nat) : (s.dropBacklog r).pending = s.pending := by
  simp [State.dropBacklog]

@[simp] theorem State.settleRing_pending (s : State) (r : Nat) : (s.settleRing r).pending = s.pending := by
  simp [State.settleRing]

@[simp] theorem State.resetRing_pending (s : State) (r : Nat) : (s.resetRing r).pending = s.pending := by
  simp [State.resetRing]

@[simp] theorem State.flushCmdRing_pending (s : State) (n : Nat) : (s.flushCmdRing n).pending = s.pending := by
  simp [State.flushCmdRing]

@[simp] theorem State.settlePortReset_pending (s : State) : s.settlePortReset.pending = s.pending := by
  simp [State.settlePortReset]

@[simp] theorem State.portResetRing_pending (s : State) (n : Nat) : (s.portResetRing n).pending = s.pending := by
  simp [State.portResetRing]

@[simp] theorem State.portResetCp0_pending (s : State) : s.portResetCp0.pending = s.pending := by
  simp [State.portResetCp0]

@[simp] theorem State.hostFreeze_pending (s : State) : s.hostFreeze.pending = s.pending := by
  simp [State.hostFreeze]

@[simp] theorem State.recountReq_pending (s : State) (n : Nat) : (s.recountReq n).pending = s.pending := by
  simp [State.recountReq]

@[simp] theorem State.startRecount_pending (s : State) (ns : List Nat) (ws : List Waiter) : (s.startRecount ns ws).pending = s.pending := by
  simp [State.startRecount]

@[simp] theorem State.freeHolds_pending (s : State) (n : Nat) : (s.freeHolds n).pending = s.pending := by
  simp [State.freeHolds]

@[simp] theorem State.settleInst_pending (s : State) : s.settleInst.pending = s.pending := by
  unfold State.settleInst
  refine State.foldl_pending (fun s n => State.branch_pending ?_ rfl) _ _
  dsimp only
  split
  · exact State.complete_pending ..
  · rfl

end Sys2Proof.Machine
end

section
/-!
SUPPORT. The queue of commands that wait, continued: the host interface.
-/

namespace Sys2Proof.Machine

/-! ### Dma: the queue -/

@[simp] theorem State.dmaCtrl_pending (s : State) (r n v : Nat) : (s.dmaCtrl r n v).pending = s.pending := by
  simp [State.dmaCtrl]

@[simp] theorem State.softStore_pending (s : State) (mem : List (BitVec 64 × List Byte)) : (s.softStore mem).pending = s.pending := by
  simp [State.softStore]

@[simp] theorem State.dmaTail_pending (s : State) (r n : Nat) (v : BitVec 32) : (s.dmaTail r n v).pending = s.pending := by
  simp [State.dmaTail]

@[simp] theorem State.circRpos_pending (s : State) (r n : Nat) (v : BitVec 64) : (s.circRpos r n v).pending = s.pending := by
  simp [State.circRpos]

@[simp] theorem State.completeDesc_pending (s : State) (r : Nat) (i : BitVec 32) (d : List Byte) :
    (s.completeDesc r i d).pending = s.pending := by
  simp [State.completeDesc]

@[simp] theorem State.completeRun_pending (s : State) (r : Nat) (xs : List (BitVec 32 × List Byte)) :
    (s.completeRun r xs).pending = s.pending := by
  simp [State.completeRun]

@[simp] theorem State.completeChain_pending (s : State) (r : Nat) (ds : List (List Byte)) (status detail : Nat) :
    (s.completeChain r ds status detail).pending = s.pending := by
  simp [State.completeChain]

@[simp] theorem State.completeWrites_pending (s : State) (r : Nat) (xs : List (BitVec 32 × List Byte)) (wrote : Bool) :
    (s.completeWrites r xs wrote).pending = s.pending := by
  simp [State.completeWrites]

@[simp] theorem State.finishBarrier_pending (s : State) (r : Nat) : (s.finishBarrier r).pending = s.pending := by
  simp [State.finishBarrier]

@[simp] theorem State.pushInject_pending (s : State) (r : Nat) (f : Frame) : (s.pushInject r f).pending = s.pending := by
  simp [State.pushInject]

@[simp] theorem State.reserveReport_pending (s : State) (r : Nat) (on : Bool) : (s.reserveReport r on).pending = s.pending := by
  simp [State.reserveReport]

@[simp] theorem State.injectLeased_pending (s : State) (r : Nat) (d : List Byte) : (s.injectLeased r d).pending = s.pending := by
  unfold State.injectLeased
  dsimp only
  repeat' split
  all_goals simp

@[simp] theorem State.injectEnd_pending (s : State) (r : Nat) (c : ChainProg) (cells : List Nat) (data : List Byte) :
    (s.injectEnd r c cells data).pending = s.pending := by
  simp [State.injectEnd]

@[simp] theorem State.injectBurst_pending (s : State) (r : Nat) (c : ChainProg) : (s.injectBurst r c).pending = s.pending := by
  simp [State.injectBurst]

@[simp] theorem State.injectStart_pending (s : State) (r : Nat) (ds : List (List Byte)) : (s.injectStart r ds).pending = s.pending := by
  simp -implicitDefEqProofs [State.injectStart]

@[simp] theorem State.injectTake_pending (s : State) (r : Nat) (rd : HostRead) : (s.injectTake r rd).pending = s.pending := by
  unfold State.injectTake
  split <;> simp

@[simp] theorem State.slowDrop_pending (s : State) (f : Frame) : (s.slowDrop f).pending = s.pending := by
  simp [State.slowDrop]

@[simp] theorem State.slowArrive_pending (s : State) (pipe : Nat) (f : Frame) : (s.slowArrive pipe f).pending = s.pending := by
  unfold State.slowArrive
  split <;> simp

@[simp] theorem State.spread_pending (s : State) (own o : Nat) (part : List Byte) (descs : List (List Byte)) :
    (s.spread own o part descs).pending = s.pending := by
  induction descs generalizing s o part with
  | nil => rfl
  | cons d r ih => exact State.branch_pending (ih ..) ((ih ..).trans (State.hostWrite_pending ..))

@[simp] theorem State.leaseChain_pending (s : State) (own : Nat) (f : Frame) : (s.leaseChain own f).pending = s.pending := by
  unfold State.leaseChain
  split <;> simp

@[simp] theorem State.deliverTake_pending (s : State) (r : Nat) (rd : HostRead) (cellBad : Bool) :
    (s.deliverTake r rd cellBad).pending = s.pending := by
  unfold State.deliverTake
  dsimp only
  repeat' split
  all_goals simp

@[simp] theorem State.deliverBurst_pending (s : State) (r : Nat) (c : ChainProg) : (s.deliverBurst r c).pending = s.pending := by
  unfold State.deliverBurst
  dsimp only
  split <;> simp

@[simp] theorem State.spaceWrite_pending (s : State) (space own a : Nat) (bs : List Byte) :
    (s.spaceWrite space own a bs).pending = s.pending := by
  simp [State.spaceWrite]

@[simp] theorem State.piecesWrite_pending (s : State) (space own : Nat) (bs : List Byte) (pieces : List (Nat × Nat)) :
    (s.piecesWrite space own bs pieces).pending = s.pending := by
  induction pieces generalizing s bs with
  | nil => rfl
  | cons p r ih => exact (ih ..).trans (State.spaceWrite_pending ..)

@[simp] theorem State.copyPart_pending (s : State) (own : Nat) (c : CopyDesc) (o n : Nat) :
    (s.copyPart own c o n).1.pending = s.pending := by
  unfold State.copyPart
  dsimp only
  split <;> simp

@[simp] theorem State.copyBytes_pending (s : State) (own : Nat) (c : CopyDesc) (moved : Nat) :
    (s.copyBytes own c moved).1.pending = s.pending := by
  simp [State.copyBytes, apply_ite Prod.fst]

@[simp] theorem State.copyDone_pending (s : State) (r : Nat) (c : ChainProg) : (s.copyDone r c).pending = s.pending := by
  simp [State.copyDone]

@[simp] theorem State.copyBurst_pending (s : State) (r : Nat) (c : ChainProg) : (s.copyBurst r c).pending = s.pending := by
  unfold State.copyBurst
  split <;> simp

@[simp] theorem State.copyTake_pending (s : State) (r : Nat) (rd : HostRead) : (s.copyTake r rd).pending = s.pending := by
  unfold State.copyTake
  split <;> simp

@[simp] theorem State.burst_pending (s : State) (r : Nat) (c : ChainProg) : (s.burst r c).pending = s.pending := by
  simp [State.burst]

@[simp] theorem State.burstOf_pending (s : State) (r : Nat) (rd : HostRead) : (s.burstOf r rd).pending = s.pending := by
  unfold State.burstOf
  split <;> simp

@[simp] theorem State.ringTurn_pending (s : State) (r : Nat) (rd : HostRead) (cellBad : Bool) :
    (s.ringTurn r rd cellBad).pending = s.pending := by
  simp [State.ringTurn]

@[simp] theorem State.engine_pending (s : State) (r : Nat) (rd : HostRead) (cellBad : Bool) (n : Nat) :
    (s.engine r rd cellBad n).pending = s.pending := by
  induction n generalizing s with
  | zero => rfl
  | succ n ih =>
    unfold State.engine
    refine State.branch_pending rfl ?_
    split
    · rfl
    · have hturn := State.ringTurn_pending s r rd cellBad
      exact State.branch_pending ((ih _).trans (State.ringTurn_pending ..)) (State.branch_pending ((ih _).trans hturn) hturn)

@[simp] theorem State.ringWork_pending (s : State) (r : Nat) (types : List Nat) (rd : HostRead) (cellBad : Bool) :
    (s.ringWork r types rd cellBad).pending = s.pending := by
  simp [State.ringWork]

@[simp] theorem State.noticeLost_pending (s : State) (r : Option Nat) : (s.noticeLost r).pending = s.pending := by
  unfold State.noticeLost
  split <;> simp

@[simp] theorem State.noticeWrite_pending (s : State) : s.noticeWrite.pending = s.pending := by
  unfold State.noticeWrite
  dsimp only
  repeat' split
  all_goals simp

@[simp] theorem State.barrierDone_pending (s : State) (r : Nat) : (s.barrierDone r).pending = s.pending := by
  unfold State.barrierDone
  split <;> simp

@[simp] theorem State.waitResume_pending (s : State) (r : Nat) : (s.waitResume r).pending = s.pending := by
  simp [State.waitResume]

@[simp] theorem State.swapEnd_pending (s : State) (n : Nat) : (s.swapEnd n).pending = s.pending := by
  unfold State.swapEnd
  split <;> simp

@[simp] theorem State.settleSwaps_pending (s : State) : s.settleSwaps.pending = s.pending := by
  simp [State.settleSwaps]

@[simp] theorem State.settleReads_pending (s : State) (q : ReadReq) : (s.settleReads q).pending = s.pending := by
  unfold State.settleReads
  split <;> simp

@[simp] theorem State.slotUnread_pending (s : State) (n : Nat) : (s.slotUnread n).pending = s.pending := by
  simp [State.slotUnread]

@[simp] theorem State.readTimeout_pending (s : State) (t : BitVec 14) : (s.readTimeout t).pending = s.pending := by
  unfold State.readTimeout
  dsimp only
  repeat' split
  all_goals simp

@[simp] theorem State.lateCompletion_pending (s : State) (t : BitVec 14) : (s.lateCompletion t).pending = s.pending := by
  unfold State.lateCompletion
  split <;> simp

@[simp] theorem State.quarantineEnd_pending (s : State) (t : BitVec 14) : (s.quarantineEnd t).pending = s.pending := by
  unfold State.quarantineEnd
  split <;> simp

@[simp] theorem State.ringReadEnd_pending (s : State) (r : Nat) (rd : HostRead) : (s.ringReadEnd r rd).pending = s.pending := by
  simp [State.ringReadEnd]

/-! ### Instances: the queue -/

@[simp] theorem State.setQuantum_pending (s : State) (q v : Nat) : (s.setQuantum q v).pending = s.pending := by
  simp -implicitDefEqProofs [State.setQuantum]

@[simp] theorem State.resize_pending (s : State) (n change : Nat) (ps : List Byte) : (s.resize n change ps).pending = s.pending := by
  simp [State.resize]

@[simp] theorem doInstCreate_pending (w : Waiter) (p : Pkt) (ps : List Byte) (s : State) :
    (doInstCreate w p ps s).st.pending = s.pending := by
  unfold doInstCreate
  dsimp only
  repeat' split
  all_goals simp -implicitDefEqProofs

@[simp] theorem doInstResize_pending (w : Waiter) (p : Pkt) (ps : List Byte) (s : State) :
    (doInstResize w p ps s).st.pending = s.pending := by
  unfold doInstResize
  dsimp only
  repeat' split
  all_goals simp

@[simp] theorem doQuiesce_pending (w : Waiter) (p : Pkt) (ps : List Byte) (s : State) : (doQuiesce w p ps s).st.pending = s.pending := by
  unfold doQuiesce
  dsimp only
  repeat' split
  all_goals simp

@[simp] theorem State.quiesceRow_pending (s : State) (op : Nat) (p : Pkt) : (s.quiesceRow op p).pending = s.pending := by
  simp [State.quiesceRow]

@[simp] theorem State.scramble_pending (s : State) (n : Nat) (ranges : List (Nat × Nat)) : (s.scramble n ranges).pending = s.pending := by
  simp -implicitDefEqProofs [State.scramble]

@[simp] theorem State.beginReset_pending (s : State) (n : Nat) (w : Waiter) : (s.beginReset n w).pending = s.pending := by
  simp [State.beginReset]

@[simp] theorem doInstReset_pending (remove : Bool) (w : Waiter) (p : Pkt) (ps : List Byte) (s : State) :
    (doInstReset remove w p ps s).st.pending = s.pending := by
  unfold doInstReset
  dsimp only
  split <;> simp

@[simp] theorem State.removeInst_pending (s : State) (n : Nat) : (s.removeInst n).pending = s.pending := by
  simp -implicitDefEqProofs [State.removeInst]

@[simp] theorem State.finishReset_pending (s : State) (n : Nat) : (s.finishReset n).pending = s.pending := by
  unfold State.finishReset
  dsimp only
  repeat' split
  all_goals simp

@[simp] theorem State.recountEnd_pending (s : State) : s.recountEnd.pending = s.pending := by
  unfold State.recountEnd
  split <;> simp

@[simp] theorem doDirtyLog_pending (w : Waiter) (p : Pkt) (ps : List Byte) (s : State) : (doDirtyLog w p ps s).st.pending = s.pending := by
  unfold doDirtyLog
  dsimp only
  split <;> simp

@[simp] theorem State.dirtyRow_keeps_pending (s : State) (op : Nat) (p : Pkt) : (s.dirtyRow op p).pending = s.pending := by
  simp [State.dirtyRow]

@[simp] theorem State.startFence_pending (s : State) (n : Nat) : (s.startFence n).pending = s.pending := by
  simp [State.startFence]

@[simp] theorem State.fenceRing_pending (s : State) (r : Nat) : (s.fenceRing r).pending = s.pending := by
  simp [State.fenceRing]

@[simp] theorem State.fenceEnd_pending (s : State) (n : Nat) : (s.fenceEnd n).pending = s.pending := by
  unfold State.fenceEnd
  dsimp only
  repeat' split
  all_goals simp

@[simp] theorem State.fenceGuests_pending (s : State) : s.fenceGuests.pending = s.pending := by
  simp [State.fenceGuests]

@[simp] theorem State.flrVf_pending (s : State) (n : Nat) : (s.flrVf n).pending = s.pending := by
  simp [State.flrVf]

@[simp] theorem State.vfClear_pending (s : State) : s.vfClear.pending = s.pending := by
  simp [State.vfClear]

@[simp] theorem State.flrPf_pending (s : State) : s.flrPf.pending = s.pending := by
  simp [State.flrPf]

/-! ### Host: the queue -/

@[simp] theorem State.linkLost_pending (s : State) : s.linkLost.pending = s.pending := by
  simp [State.linkLost]

@[simp] theorem State.pcieDown_pending (s : State) : s.pcieDown.pending = s.pending := by
  simp [State.pcieDown]

@[simp] theorem State.pcieUp_pending (s : State) (g w : Nat) : (s.pcieUp g w).pending = s.pending := by
  simp [State.pcieUp]

@[simp] theorem State.perst_pending (s : State) : s.perst.pending = s.pending := by
  simp [State.perst]

@[simp] theorem State.startTraining_pending (s : State) : s.startTraining.pending = s.pending := by
  simp [State.startTraining]

@[simp] theorem State.release_pending (s : State) : s.release.pending = s.pending := by
  simp -implicitDefEqProofs [State.release]

@[simp] theorem State.cfgWrite_pending (s : State) (n : Nat) (f : CfgField) (v : Nat) : (s.cfgWrite n f v).pending = s.pending := by
  unfold State.cfgWrite
  dsimp only
  repeat' split
  all_goals simp

@[simp] theorem State.winCommit_pending (s : State) (n : Nat) : (s.winCommit n).pending = s.pending := by
  simp [State.winCommit]

@[simp] theorem State.winDenied_pending (s : State) (n : Nat) : (s.winDenied n).pending = s.pending := by
  simp [State.winDenied]

@[simp] theorem State.winRead_pending (s : State) (n off len : Nat) : (s.winRead n off len).pending = s.pending := by
  simp [State.winRead]

@[simp] theorem State.winUnit_pending (x : State × Bool × Bool) (part : Nat × List (Option Byte)) :
    (State.winUnit x part).1.pending = x.1.pending := by
  unfold State.winUnit
  dsimp only
  repeat' split
  all_goals simp

@[simp] theorem State.winWrite_pending (s : State) (n off : Nat) (data : List (Option Byte)) (poisoned : Bool) :
    (s.winWrite n off data poisoned).pending = s.pending := by
  simp [State.winWrite]

/-! ### Pmc: the queue -/

@[simp] theorem State.pmcCtr_pending (s : State) (k v : Nat) : (s.pmcCtr k v).pending = s.pending := by
  simp [State.pmcCtr]

@[simp] theorem State.pmcCfg_pending (s : State) (k v : Nat) : (s.pmcCfg k v).pending = s.pending := by
  simp [State.pmcCfg]

@[simp] theorem State.latchMark_pending (s : State) (no : BitVec 8) : (s.latchMark no).pending = s.pending := by
  simp -implicitDefEqProofs [State.latchMark]

@[simp] theorem State.sendToken_pending (s : State) (kind v : Nat) : (s.sendToken kind v).pending = s.pending := by
  simp [State.sendToken]

@[simp] theorem State.issueMark_pending (s : State) (pair : Bool) (no : BitVec 8) : (s.issueMark pair no).pending = s.pending := by
  simp [State.issueMark]

@[simp] theorem State.pmcMark_pending (s : State) (v : Nat) : (s.pmcMark v).pending = s.pending := by
  simp [State.pmcMark]

@[simp] theorem State.sweepEntry_pending (s : State) (k t : Nat) : (s.sweepEntry k t).pending = s.pending := by
  unfold State.sweepEntry
  generalize (tget 0 s.pmc.ctr k).toNat + min 65535 t * 2 ^ 48 = v
  rfl

@[simp] theorem State.pmcSweep_pending (s : State) (v : Nat) : (s.pmcSweep v).pending = s.pending := by
  simp [State.pmcSweep]

@[simp] theorem State.sweepEnd_pending (s : State) : s.sweepEnd.pending = s.pending := by
  unfold State.sweepEnd
  split <;> simp

end Sys2Proof.Machine
end

section
/-!
SUPPORT. The queue of commands that wait, continued: the tables and the Cabinet.
-/

namespace Sys2Proof.Machine

/-! ### Prefix: the queue -/

@[simp] theorem State.rewritten_pending (s : State) (code gen idx : Nat) : (s.rewritten code gen idx).pending = s.pending := by
  simp [State.rewritten]

@[simp] theorem State.loosen_pending (s : State) (hits : Bool → Bool) : (s.loosen hits).pending = s.pending := by
  unfold State.loosen
  split <;> simp

@[simp] theorem State.setZones_pending (s : State) (pair : Bool) (z : List (Nat × Nat)) : (s.setZones pair z).pending = s.pending := by
  simp [State.setZones]

@[simp] theorem State.writeUnit_pending (s : State) (pair : Bool) (u : Nat) (e : Image) : (s.writeUnit pair u e).pending = s.pending := by
  simp [State.writeUnit]

@[simp] theorem State.writeControl_pending (s : State) (pair : Bool) (u : Nat) (e : Image) :
    (s.writeControl pair u e).pending = s.pending := by
  simp [State.writeControl]

@[simp] theorem State.walkShim_pending (s : State) (pair : Bool) (t : Nat) (part : Bool) (n z h k : Nat) :
    (s.walkShim pair t part n z h k).1.pending = s.pending := by
  induction n generalizing s z h k with
  | zero => rfl
  | succ n ih =>
    unfold State.walkShim
    split
    · rfl
    · dsimp only
      split
      · simp [ih]
      · simp [ih]

@[simp] theorem State.insertAll_pending (s : State) (e : Image) (z h : Nat) : (s.insertAll e z h).pending = s.pending := by
  simp [State.insertAll]

@[simp] theorem State.insertPart_pending (s : State) (e : Image) (z h k : Nat) : (s.insertPart e z h k).pending = s.pending := by
  simp [State.insertPart]

@[simp] theorem State.layStep_pending (s : State) (x : LayStep) : (s.layStep x).pending = s.pending := by
  unfold State.layStep
  split <;> simp

@[simp] theorem State.partLaid_pending (s : State) (pairRows : Nat) : (s.partLaid pairRows).pending = s.pending := by
  simp [State.partLaid]

/-! ### Sched: the queue -/

@[simp] theorem State.checkBlock_pending (s : State) (q : Nat) : (s.checkBlock q).pending = s.pending := by
  simp [State.checkBlock]

@[simp] theorem State.markBlocked_pending (s : State) (lp : Nat) : (s.markBlocked lp).pending = s.pending := by
  simp [State.markBlocked]

@[simp] theorem State.countWaits_pending (s : State) (lp : Nat) : (s.countWaits lp).pending = s.pending := by
  simp [State.countWaits]

@[simp] theorem State.rotate_pending (s : State) (lp v : Nat) (elig : List (Nat × Nat)) (n k : Nat) :
    (s.rotate lp v elig n k).1.pending = s.pending := by
  induction n generalizing s k with
  | zero => rfl
  | succ n ih =>
    unfold State.rotate
    dsimp only
    split <;> simp [ih, apply_ite Prod.fst]

@[simp] theorem State.pickClass_pending (s : State) (lp : Nat) : (s.pickClass lp).1.pending = s.pending := by
  unfold State.pickClass
  dsimp only
  split <;> simp

@[simp] theorem State.chargeStart_pending (s : State) (q n : Nat) : (s.chargeStart q n).pending = s.pending := by
  simp [State.chargeStart]

@[simp] theorem State.addBack_pending (s : State) (w : TxFrame) (diff : Int) : (s.addBack w diff).pending = s.pending := by
  simp [State.addBack]

@[simp] theorem State.modWire_pending (s : State) (q : Nat) (g : TxFrame → TxFrame) : (s.modWire q g).pending = s.pending := by
  simp [State.modWire]

@[simp] theorem State.zeroDeficit_pending (s : State) (q : Nat) : (s.zeroDeficit q).pending = s.pending := by
  simp [State.zeroDeficit]

@[simp] theorem State.setEntries_pending (s : State) (q : Nat) (es : List QEntry) : (s.setEntries q es).pending = s.pending := by
  simp [State.setEntries]

@[simp] theorem State.unlinkFirst_pending (s : State) (q : Nat) : (s.unlinkFirst q).pending = s.pending := by
  simp [State.unlinkFirst]

@[simp] theorem State.takeSchedQ_pending (s : State) (q : Nat) (new : Image) : (s.takeSchedQ q new).pending = s.pending := by
  simp [State.takeSchedQ]

@[simp] theorem State.takeSchedP_pending (s : State) (lp : Nat) (new : Image) : (s.takeSchedP lp new).pending = s.pending := by
  simp [State.takeSchedP]

@[simp] theorem State.takeSched_pending (s : State) : s.takeSched.pending = s.pending := by
  simp [State.takeSched]

@[simp] theorem State.refillQueue_pending (s : State) (q : Nat) : (s.refillQueue q).pending = s.pending := by
  simp [State.refillQueue]

@[simp] theorem State.refillPort_pending (s : State) (lp : Nat) : (s.refillPort lp).pending = s.pending := by
  simp [State.refillPort]

@[simp] theorem State.refill_pending (s : State) : s.refill.pending = s.pending := by
  simp [State.refill]

@[simp] theorem State.gateAdvance_pending (s : State) (lp : Nat) : (s.gateAdvance lp).pending = s.pending := by
  simp [State.gateAdvance]

/-! ### Tables: the queue -/

@[simp] theorem State.changeEntry_pending (s : State) (code gen idx : Nat) (f : Image → Image) :
    (s.changeEntry code gen idx f).pending = s.pending := by
  simp [State.changeEntry]

@[simp] theorem State.dropLearned_pending (s : State) (b : Image) : (s.dropLearned b).pending = s.pending := by
  simp [State.dropLearned]

@[simp] theorem State.afterWrite_pending (s : State) (code idx : Nat) (old new : Image) :
    (s.afterWrite code idx old new).pending = s.pending := by
  simp [State.afterWrite]

theorem State.writeEntry_pending (s : State) (code gen idx : Nat) (e : Image) {u : State} (h : s.writeEntry code gen idx e = .ok u) :
    u.pending = s.pending := by
  unfold State.writeEntry at h
  split at h
  · cases h
  · cases h; simp

theorem State.writePair_pending (s : State) (code idx : Nat) (key e : Image) {u : State} (h : s.writePair code idx key e = .ok u) :
    u.pending = s.pending := by
  unfold State.writePair at h
  split at h
  · cases h
  · cases h; simp

theorem State.insertEntry_pending (s : State) (e : Image) {u : State} (h : s.insertEntry e = .ok u) : u.pending = s.pending := by
  unfold State.insertEntry at h
  split at h
  · cases h
  · cases h; simp
  · cases h; simp

theorem State.deleteEntry_pending (s : State) (e : Image) {u : State} (h : s.deleteEntry e = .ok u) : u.pending = s.pending := by
  unfold State.deleteEntry at h
  split at h
  · cases h; simp
  · cases h

theorem oneUnit_pending (p : Pkt) (s : State) {r : Except Nat State} (hr : ∀ u, r = .ok u → u.pending = s.pending) :
    (oneUnit p s r).st.pending = s.pending := by
  unfold oneUnit
  split
  · simp
  · split
    · rfl
    · split
      · simp
      · exact (ok_pending ..).trans (hr _ rfl)

@[simp] theorem doInsert_pending (p : Pkt) (e : Image) (s : State) : (doInsert p e s).st.pending = s.pending := by
  unfold doInsert
  split
  · simp
  · split
    · dsimp only
      split
      · simp
      · split <;> simp
    · exact oneUnit_pending _ _ fun _ h => State.insertEntry_pending _ _ h

@[simp] theorem doTblWrite_pending (w : Waiter) (p : Pkt) (ps : List Byte) (s : State) : (doTblWrite w p ps s).st.pending = s.pending := by
  unfold doTblWrite
  dsimp only
  split
  · split
    · simp
    · exact oneUnit_pending _ _ fun _ h => State.deleteEntry_pending _ _ h
  · split
    · repeat' split
      all_goals simp
    · exact oneUnit_pending _ _ fun _ h => State.writeEntry_pending _ _ _ _ _ h

@[simp] theorem State.prefixWrite_pending (s : State) (form : Nat) (p : Pkt) : (s.prefixWrite form p).pending = s.pending := by
  simp [State.prefixWrite]

@[simp] theorem doTblPairWrite_pending (w : Waiter) (p : Pkt) (ps : List Byte) (s : State) :
    (doTblPairWrite w p ps s).st.pending = s.pending :=
  oneUnit_pending _ _ fun _ h => State.writePair_pending _ _ _ _ _ h

@[simp] theorem doTblMove_pending (w : Waiter) (p : Pkt) (ps : List Byte) (s : State) : (doTblMove w p ps s).st.pending = s.pending :=
  oneUnit_pending _ _ fun _ h => State.writePair_pending _ _ _ _ _ h

@[simp] theorem doTblRead_pending (w : Waiter) (p : Pkt) (ps : List Byte) (s : State) : (doTblRead w p ps s).st.pending = s.pending := by
  have hmaster := s.readMaster_pending (tblHeader ps).table (tblHeader ps).gen (tblHeader ps).index
  unfold doTblRead
  dsimp only
  split
  · simp
  · split
    · split
      · simp
      · split
        all_goals rename_i heq; rw [heq] at hmaster; exact hmaster
    · simp

theorem State.bulkOne_pending (s : State) (code idx : Nat) (e : Image) {u : State} (h : s.bulkOne code idx e = .ok u) :
    u.pending = s.pending := by
  unfold State.bulkOne at h
  split at h
  · cases h
  · split at h
    · split at h
      · exact State.insertEntry_pending _ _ h
      · exact State.deleteEntry_pending _ _ h
    · exact State.writeEntry_pending _ _ _ _ _ h

@[simp] theorem State.bulkGo_pending (s : State) (ps : List Byte) (code index n i : Nat) :
    (s.bulkGo ps code index n i).1.pending = s.pending := by
  induction n generalizing s i with
  | zero => rfl
  | succ n ih =>
    unfold State.bulkGo
    split
    · rfl
    · exact (ih ..).trans (State.bulkOne_pending _ _ _ _ ‹_›)

@[simp] theorem doBulkWrite_pending (p : Pkt) (ps : List Byte) (s : State) : (doBulkWrite p ps s).st.pending = s.pending := by
  unfold doBulkWrite
  dsimp only
  repeat' split
  all_goals simp

@[simp] theorem doRelayout_pending (p : Pkt) (ps : List Byte) (s : State) : (doRelayout p ps s).st.pending = s.pending := by
  unfold doRelayout
  dsimp only
  repeat' split
  all_goals simp

@[simp] theorem doTblBulk_pending (w : Waiter) (p : Pkt) (ps : List Byte) (s : State) : (doTblBulk w p ps s).st.pending = s.pending := by
  unfold doTblBulk
  split <;> simp

@[simp] theorem State.startSwap_pending (s : State) (g : Bool) (w : Option Waiter) : (s.startSwap g w).pending = s.pending := by
  simp [State.startSwap]

@[simp] theorem doGenSwap_pending (w : Waiter) (p : Pkt) (ps : List Byte) (s : State) : (doGenSwap w p ps s).st.pending = s.pending := by
  simp [doGenSwap, apply_ite Done.st]

@[simp] theorem State.genBoundary_pending (s : State) : s.genBoundary.pending = s.pending := by
  unfold State.genBoundary
  split <;> simp

@[simp] theorem State.genDrained_pending (s : State) : s.genDrained.pending = s.pending := by
  unfold State.genDrained
  dsimp only
  repeat' split
  all_goals simp

/-! ### Learning: the queue -/

@[simp] theorem State.offerCandidate_pending (s : State) (q : Nat) (c : Candidate) : (s.offerCandidate q c).pending = s.pending := by
  simp [State.offerCandidate]

@[simp] theorem State.notice_pending (s : State) (bytes : List Byte) : (s.notice bytes).pending = s.pending := by
  simp [State.notice]

@[simp] theorem State.learnFull_pending (s : State) (q : Nat) (c : Candidate) : (s.learnFull q c).pending = s.pending := by
  simp [State.learnFull]

@[simp] theorem State.learnSearch_pending (s : State) (q cycle : Nat) (c : Candidate) : (s.learnSearch q cycle c).pending = s.pending := by
  unfold State.learnSearch
  dsimp only
  split <;> split <;> simp

@[simp] theorem State.learnWrite_pending (s : State) (q cycle : Nat) (p : LearnPlan) : (s.learnWrite q cycle p).pending = s.pending := by
  simp [State.learnWrite]

@[simp] theorem State.ageRemove_pending (s : State) (q cycle : Nat) (x : Nat × Nat × BitVec 16) :
    (s.ageRemove q cycle x).pending = s.pending := by
  simp [State.ageRemove]

@[simp] theorem State.learnIn_pending (s : State) (q cycle : Nat) : (s.learnIn q cycle).pending = s.pending := by
  unfold State.learnIn
  dsimp only
  repeat' split
  all_goals simp

@[simp] theorem State.learnSlot_pending (s : State) (q cycle : Nat) : (s.learnSlot q cycle).pending = s.pending := by
  unfold State.learnSlot
  split
  · rfl
  · exact (State.learnIn_pending ..).trans (State.maintenance_pending _ _ _ _ _ ‹_›)

@[simp] theorem doAgeScan_pending (w : Waiter) (p : Pkt) (ps : List Byte) (s : State) : (doAgeScan w p ps s).st.pending = s.pending := by
  unfold doAgeScan
  split <;> simp

@[simp] theorem State.ageRow_pending (s : State) (q : Fin 4) (a : AgeScan) (cycle : Nat) : (s.ageRow q a cycle).pending = s.pending := by
  simp [State.ageRow]

@[simp] theorem State.ageRead_pending (s : State) (q : Fin 4) (cycle : Nat) : (s.ageRead q cycle).pending = s.pending := by
  unfold State.ageRead
  split
  · rfl
  · refine State.branch_pending ?_ rfl
    split
    · rfl
    · exact (State.ageRow_pending ..).trans (State.maintenance_pending _ _ _ _ _ ‹_›)

@[simp] theorem State.ageScanDone_pending (s : State) : s.ageScanDone.pending = s.pending := by
  unfold State.ageScanDone
  split <;> simp

@[simp] theorem State.markRepair_pending (s : State) (q code gen idx : Nat) : (s.markRepair q code gen idx).pending = s.pending := by
  simp [State.markRepair]

@[simp] theorem State.scrubRow_pending (s : State) (q code i cycle : Nat) (f : ScrubFinding) :
    (s.scrubRow q code i cycle f).pending = s.pending := by
  unfold State.scrubRow
  split <;> simp

@[simp] theorem State.scrubData_pending (s : State) (q code gen i cycle : Nat) (f : ScrubFinding) :
    (s.scrubData q code gen i cycle f).pending = s.pending := by
  unfold State.scrubData
  split <;> simp

theorem State.memSlot_pending (s : State) (q : Nat) (t : TableId) (use cycle : Nat) {u : State}
    (h : s.memSlot q t use cycle = some u) : u.pending = s.pending := by
  unfold State.memSlot at h
  split at h
  · exact State.maintenance_pending _ _ _ _ _ h
  · split at h
    · cases h
    · cases h; rfl

@[simp] theorem State.scrub_pending (s : State) (q : Nat) (t : TableId) (i cycle : Nat) (key data : ScrubFinding) :
    (s.scrub q t i cycle key data).pending = s.pending := by
  unfold State.scrub
  refine State.branch_pending rfl ?_
  split
  · rfl
  · have hslot := State.memSlot_pending _ _ _ _ _ ‹_›
    simp [hslot]

@[simp] theorem State.repairSlots_pending (s : State) (q : Nat) (t : TableId) (n : Nat) : (s.repairSlots q t n).pending = s.pending := by
  unfold State.repairSlots
  split
  · exact State.spendSlots_pending ..
  · rfl

/-- Slots written one after the other leave the queue. -/
theorem State.foldl_slotWrite_pending (q use event : Nat) (k : Nat → Nat) (v : State → Nat → Nat) (rows : List Nat) (s : State) :
    (rows.foldl (fun (s : State) i => s.slotWrite q use event (k i) (v s i)) s).pending = s.pending :=
  State.foldl_pending (fun _ _ => State.slotWrite_pending ..) rows s

@[simp] theorem State.repairBlock_pending (s : State) (q : Nat) (t : TableId) (code gen block : Nat) (masterBad : Bool) :
    (s.repairBlock q t code gen block masterBad).pending = s.pending := by
  unfold State.repairBlock
  refine State.branch_pending (State.markDamaged_pending ..) ?_
  refine State.branch_pending ?_ (State.repairSlots_pending ..)
  rw [State.tick_pending, State.repairSlots_pending, State.modQuad_pending]
  exact (State.foldl_slotWrite_pending q 5 0x6C (tkey code gen) (fun s i => s.master code gen i) _ _).trans
    (State.repairSlots_pending ..)

@[simp] theorem State.repair_pending (s : State) (q : Nat) (t : TableId) (b cycle : Nat) (masterBad : Bool) :
    (s.repair q t b cycle masterBad).pending = s.pending := by
  unfold State.repair
  refine State.branch_pending rfl ?_
  split
  · rfl
  · have hslot := State.memSlot_pending _ _ _ _ _ ‹_›
    simp [hslot]

/-! ### Feeds: the queue -/

@[simp] theorem State.countFeed_pending (s : State) (f k : Nat) (n : Nat) : (s.countFeed f k n).pending = s.pending := by
  simp [State.countFeed]

@[simp] theorem State.reportGap_pending (s : State) (f : Nat) (g : Gap) (lost reason : Nat) :
    (s.reportGap f g lost reason).pending = s.pending := by
  simp [State.reportGap]

@[simp] theorem State.freeGap_pending (s : State) (f : Nat) (g : Gap) (reason : Nat) : (s.freeGap f g reason).pending = s.pending := by
  simp [State.freeGap]

@[simp] theorem State.openGap_pending (s : State) (f : Nat) (first last : BitVec 64) : (s.openGap f first last).pending = s.pending := by
  unfold State.openGap
  split <;> simp

@[simp] theorem State.dropGapsBelow_pending (s : State) (f : Nat) (e : BitVec 64) : (s.dropGapsBelow f e).pending = s.pending := by
  simp [State.dropGapsBelow]

@[simp] theorem State.closeFilled_pending (s : State) (f : Nat) : (s.closeFilled f).pending = s.pending := by
  simp [State.closeFilled]

@[simp] theorem State.leaveBehind_pending (s : State) (f : Nat) (first last e : BitVec 64) (reason : Nat) :
    (s.leaveBehind f first last e reason).pending = s.pending := by
  simp [State.leaveBehind]

@[simp] theorem State.acceptRun_pending (s : State) (f : Nat) (first : BitVec 64) (n : Nat) :
    (s.acceptRun f first n).pending = s.pending := by
  simp [State.acceptRun]

@[simp] theorem State.feedDecide_pending (s : State) (f fields : Nat) : (s.feedDecide f fields).st.pending = s.pending := by
  unfold State.feedDecide
  dsimp only
  repeat' split
  all_goals simp

@[simp] theorem State.feedOverRate_pending (s : State) (f : Nat) : (s.feedOverRate f).st.pending = s.pending := by
  simp [State.feedOverRate]

@[simp] theorem State.revoke_pending (s : State) (r : RevocationReq) : (s.revoke r).pending = s.pending := by
  simp [State.revoke]

@[simp] theorem State.revocation_pending (s : State) (window : Nat) : (s.revocation window).pending = s.pending := by
  unfold State.revocation
  dsimp only
  repeat' split
  all_goals simp

@[simp] theorem State.gapScan_pending (s : State) (window : Nat) : (s.gapScan window).pending = s.pending := by
  simp [State.gapScan]

@[simp] theorem State.applyFeed_pending (s : State) (f : Nat) (c : FeedChange) : (s.applyFeed f c).pending = s.pending := by
  unfold State.applyFeed
  split <;> simp

end Sys2Proof.Machine
end

section
/-!
SUPPORT. The queue of commands that wait, continued: the passes, the buffer and the egress.
-/

namespace Sys2Proof.Machine

/-! ### Receive: the queue -/

@[simp] theorem State.countGood_pending (s : State) (lp : Nat) (data : List Byte) (len : Nat) :
    (s.countGood lp data len).pending = s.pending := by
  simp [State.countGood]

@[simp] theorem State.macControl_pending (s : State) (lp : Nat) (data : List Byte) (len : Nat) :
    (s.macControl lp data len).pending = s.pending := by
  simp [State.macControl]

@[simp] theorem State.countBad_pending (s : State) (lp : Nat) (c : FcsCheck) : (s.countBad lp c).pending = s.pending := by
  simp [State.countBad]

@[simp] theorem State.acceptFrame_pending (s : State) (lp : Fin 512) (data : List Byte) (len : Nat) (c : FcsCheck) (fcs : BitVec 32) :
    (s.acceptFrame lp data len c fcs).pending = s.pending := by
  simp [State.acceptFrame]

@[simp] theorem State.receive_pending (s : State) (lp : Fin 512) (wire : List Byte) : (s.receive lp wire).pending = s.pending := by
  simp [State.receive]

@[simp] theorem State.releaseHead_pending (s : State) (lp : Fin 512) (cycle : Nat) : (s.releaseHead lp cycle).pending = s.pending := by
  unfold State.releaseHead
  split <;> simp

/-! ### Pass: the queue -/

@[simp] theorem State.takeTag_pending (s : State) (p : Nat) : (s.takeTag p).1.pending = s.pending := by
  unfold State.takeTag
  dsimp only
  repeat' split
  all_goals simp

@[simp] theorem State.captures_pending (s : State) (p slot : Nat) (f : Frame) (tag : Option Nat) :
    (s.captures p slot f tag).pending = s.pending := by
  unfold State.captures
  dsimp only
  split <;> split <;> simp

@[simp] theorem State.sampleReason_pending (s : State) (p slot : Nat) (f : Frame) : (s.sampleReason p slot f).pending = s.pending := by
  simp [State.sampleReason]

@[simp] theorem State.tagEnd_pending (s : State) (f : Frame) (outcome reason : Nat) : (s.tagEnd f outcome reason).pending = s.pending := by
  simp [State.tagEnd]

@[simp] theorem State.slotCount_pending (s : State) (p k : Nat) (n : Nat) : (s.slotCount p k n).pending = s.pending := by
  simp [State.slotCount]

theorem State.beginSlot_pending (s : State) (p slot : Nat) {u : State} (h : s.beginSlot p slot = some u) : u.pending = s.pending := by
  unfold State.beginSlot at h
  dsimp only at h
  split at h
  · cases h
  · cases h
    exact State.slotCount_pending ..

@[simp] theorem State.badLookup_pending (s : State) (q code : Nat) : (s.badLookup q code).pending = s.pending := by
  simp [State.badLookup]

/-- A failure counted once for a frame leaves the queue when its count does. -/
theorem State.once_pending (s : State) (f : Frame) (bit : Nat) {count : State → State} (hc : ∀ u, (count u).pending = u.pending) :
    (s.once f bit count).1.pending = s.pending := by
  unfold State.once
  split
  · rfl
  · exact hc s

/-- So does the pair of a choice between counting a failure once and leaving the pair as it is. -/
theorem State.fst_branch_pending {γ : Type} {c : Prop} [Decidable c] {a b : State × γ} {q : List Instr} (ha : a.1.pending = q)
    (hb : b.1.pending = q) : (if c then a else b).1.pending = q := by
  split
  · exact ha
  · exact hb

/-- A tick or a count of a port under a condition leaves the queue. -/
theorem State.tickIf_pending (c : Prop) [Decidable c] (e p : Nat) (u : State) : (if c then u.tick e p else u).pending = u.pending :=
  State.branch_pending (State.tick_pending ..) rfl

/-- A statistic of a port counted under a condition leaves the queue. -/
theorem State.statIf_pending (c : Prop) [Decidable c] (p a : Nat) (u : State) : (if c then u.stat p a else u).pending = u.pending :=
  State.branch_pending (State.stat_pending ..) rfl

@[simp] theorem State.intakeWith_pending (s : State) (p : Nat) (t : Image) (f : Frame) (h : List Byte) (ceiling : Nat) :
    (s.intakeWith p t f h ceiling).st.pending = s.pending := by
  have once (x : State × Frame) (bit : Nat) {count : State → State} (hc : ∀ u, (count u).pending = u.pending)
      (hx : x.1.pending = s.pending) : (x.1.once x.2 bit count).1.pending = s.pending :=
    (State.once_pending _ _ _ hc).trans hx
  unfold State.intakeWith
  refine State.fst_branch_pending ?l4 (once _ _ (fun u => State.statIf_pending _ _ _ u) ?l4)
  refine State.fst_branch_pending ?v4 (once _ _ (fun u => State.statIf_pending _ _ _ u) ?v4)
  refine State.fst_branch_pending (once _ _ (fun u => State.tick_pending u _ _ _) ?depth) ?depth
  refine State.fst_branch_pending ((State.once_pending _ _ _ fun u => State.tick_pending u _ _ _).trans ?above) ?above
  exact State.tickIf_pending _ _ _ s

@[simp] theorem State.intake_pending (s : State) (p cycle : Nat) (gen : Bool) (f : Frame) (ceiling : Nat) (up : Upsets) :
    (s.intake p cycle gen f ceiling up).st.pending = s.pending := by
  unfold State.intake
  dsimp only
  repeat' split
  all_goals simp

@[simp] theorem State.wrongRow_pending (s : State) (n : Nat) : (s.wrongRow n).2.pending = s.pending := by
  simp [State.wrongRow]

@[simp] theorem State.stationLookup_pending (s : State) (q cycle : Nat) (t : Image) (cw : CarriageWord) (up : Upsets) :
    (s.stationLookup q cycle t cw up).1.pending = s.pending := by
  unfold State.stationLookup
  dsimp only
  repeat' split
  all_goals simp

@[simp] theorem State.prefixLookup_pending (s : State) (q cycle : Nat) (gen : Bool) (t : Image) (cw : CarriageWord) (up : Upsets) :
    (s.prefixLookup q cycle gen t cw up).1.pending = s.pending := by
  unfold State.prefixLookup
  dsimp only
  repeat' split
  all_goals simp

@[simp] theorem State.sessionLookup_pending (s : State) (q cycle : Nat) (t : Image) (cw : CarriageWord) (up : Upsets) :
    (s.sessionLookup q cycle t cw up).1.pending = s.pending := by
  unfold State.sessionLookup
  split
  · rfl
  · split
    · exact State.badLookup_pending ..
    · rfl

@[simp] theorem State.automata_pending (s : State) (q cycle : Nat) (t : Image) (f : Frame) (cw : CarriageWord) (up : Upsets) :
    (s.automata q cycle t f cw up).1.pending = s.pending := by
  unfold State.automata
  dsimp only
  repeat' split
  all_goals simp

@[simp] theorem State.rules_pending (s : State) (p cycle eff banks : Nat) (gen : Bool) (t : Image) (f : Frame) (cw : CarriageWord)
    (up : Upsets) :
    (s.rules p cycle eff banks gen t f cw up).1.pending = s.pending := by
  unfold State.rules
  dsimp only
  repeat' split
  all_goals simp

@[simp] theorem State.reads_pending (s : State) (p cycle : Nat) (w : PassWork) (gen : Bool) (t : Image) (f : Frame) :
    (s.reads p cycle w gen t f).1.pending = s.pending := by
  unfold State.reads
  dsimp only
  split <;> split <;> simp

@[simp] theorem State.resolve_pending (s : State) (p : Nat) (t : Image) (f : Frame) (cw : CarriageWord) (a : Nat) (session : Bool) :
    (s.resolve p t f cw a session).1.pending = s.pending := by
  unfold State.resolve
  dsimp only
  repeat' split
  all_goals simp

@[simp] theorem State.candidate_pending (s : State) (q : Nat) (t : Image) (f : Frame) (h : List Byte) :
    (s.candidate q t f h).pending = s.pending := by
  unfold State.candidate
  split <;> simp

@[simp] theorem State.beginPass_pending (s : State) (p slot ceiling : Nat) (img : List Byte) (f : Frame) (up : Upsets) :
    (s.beginPass p slot ceiling img f up).1.pending = s.pending := by
  unfold State.beginPass
  dsimp only
  split <;> simp

/-- The queue of a choice whose first branch is written as a pair. -/
theorem State.mk_branch_pending {γ : Type} {c : Prop} [Decidable c] {a : State} {g : γ} {b : State × γ} {q : List Instr}
    (ha : a.pending = q) (hb : b.1.pending = q) : (if c then (a, g) else b).1.pending = q :=
  State.fst_branch_pending ha hb

@[simp] theorem State.finishPass_pending (s : State) (p slot : Nat) (f : Frame) (w : PassWork) :
    (s.finishPass p slot f w).1.pending = s.pending := by
  unfold State.finishPass
  cases ht : w.tmpl with
  | none =>
    refine State.mk_branch_pending ((State.resolve_pending ..).trans (State.takeFree_pending _)) ?_
    split
    · rfl
    · exact State.resolve_pending ..
  | some t =>
    refine State.mk_branch_pending ((State.resolve_pending ..).trans ((State.takeFree_pending _).trans (State.reads_pending ..))) ?_
    split
    · exact State.reads_pending ..
    · exact (State.resolve_pending ..).trans (State.reads_pending ..)

@[simp] theorem State.bodyDrop_pending (s : State) (f : Frame) : (s.bodyDrop f).pending = s.pending := by
  unfold State.bodyDrop
  dsimp only
  split <;> simp

@[simp] theorem State.enterSlot_pending (s : State) (p slot kind ceiling : Nat) (img : List Byte) (f : Frame) (up : Upsets) :
    (s.enterSlot p slot kind ceiling img f up).pending = s.pending := by
  simp [State.enterSlot]

@[simp] theorem State.requeue_pending (s : State) (p : Nat) (f : Frame) : (s.requeue p f).pending = s.pending := by
  simp [State.requeue]

@[simp] theorem State.finishPasses_pending (s : State) (p cycle : Nat) : (s.finishPasses p cycle).pending = s.pending := by
  unfold State.finishPasses
  refine State.foldl_pending (fun u x => ?_) ..
  split
  · rfl
  · exact State.branch_pending ((State.sampleReason_pending ..).trans (State.finishPass_pending ..)) rfl

@[simp] theorem State.settlePasses_pending (s : State) (p cycle : Nat) : (s.settlePasses p cycle).pending = s.pending := by
  simp [State.settlePasses]

@[simp] theorem State.idleSlot_pending (s : State) (p : Nat) (held : Bool) : (s.idleSlot p held).pending = s.pending := by
  simp [State.idleSlot]

@[simp] theorem State.portSlot_pending (s : State) (p slot lp : Nat) (old : Bool) (img : List Byte) (up : Upsets) :
    (s.portSlot p slot lp old img up).pending = s.pending := by
  unfold State.portSlot
  dsimp only
  split <;> simp

@[simp] theorem State.passSwitch_pending (s : State) (lp slot : Nat) : (s.passSwitch lp slot).pending = s.pending := by
  unfold State.passSwitch
  split <;> simp

@[simp] theorem State.headSlot_pending (s : State) (p slot : Nat) (up : Upsets) : (s.headSlot p slot up).pending = s.pending := by
  unfold State.headSlot
  dsimp only
  split
  · rfl
  · refine State.branch_pending rfl ?_
    split
    · rfl
    · next hb =>
      have hbegun := State.beginSlot_pending _ _ _ hb
      split
      · simp [hbegun]
      · exact State.branch_pending (by simp [hbegun]) (State.branch_pending (by simp [hbegun]) (by simp [hbegun]))

theorem State.ownSlot_pending (s : State) (p slot : Nat) (types : List Nat) {u : State} {y : List Byte × Nat}
    (h : s.ownSlot p slot types = some (u, y)) : u.pending = s.pending := by
  unfold State.ownSlot at h
  split at h
  · cases h
  · dsimp only at h
    split at h
    · obtain ⟨v, hv, hu⟩ := Option.map_eq_some_iff.mp h
      cases hu
      exact (State.settlePasses_pending ..).trans (State.beginSlot_pending _ _ _ hv)
    · cases h

@[simp] theorem State.recircSlot_pending (s : State) (p slot : Nat) (up : Upsets) : (s.recircSlot p slot up).pending = s.pending := by
  unfold State.recircSlot
  dsimp only
  split
  · rfl
  · next ho =>
    have hown := State.ownSlot_pending _ _ _ _ ho
    split
    · exact (State.idleSlot_pending ..).trans hown
    · exact State.branch_pending ((State.idleSlot_pending ..).trans hown)
        (State.branch_pending ((State.idleSlot_pending ..).trans hown) ((State.enterSlot_pending ..).trans hown))

@[simp] theorem State.injectSlot_pending (s : State) (p slot : Nat) (up : Upsets) : (s.injectSlot p slot up).pending = s.pending := by
  unfold State.injectSlot
  dsimp only
  split
  · rfl
  · next ho =>
    have hown := State.ownSlot_pending _ _ _ _ ho
    split
    · exact (State.idleSlot_pending ..).trans hown
    · exact State.branch_pending ((State.idleSlot_pending ..).trans hown)
        (State.branch_pending ((State.idleSlot_pending ..).trans hown) ((State.enterSlot_pending ..).trans hown))

/-! ### Admission: the queue -/

@[simp] theorem State.profileTest_pending (s : State) (f : Frame) (q : Nat) : (s.profileTest f q).1.pending = s.pending := by
  unfold State.profileTest
  dsimp only
  repeat' split
  all_goals simp

@[simp] theorem State.chargePool_pending (s : State) (f : Frame) (q n : Nat) (group : Option Nat) :
    (s.chargePool f q n group).1.pending = s.pending := by
  unfold State.chargePool
  dsimp only
  split <;> simp

@[simp] theorem State.congest_pending (s : State) (g : Nat) : (s.congest g).pending = s.pending := by
  simp [State.congest]

@[simp] theorem State.xoff_pending (s : State) (g : Nat) : (s.xoff g).pending = s.pending := by
  simp [State.xoff]

@[simp] theorem State.chargeRequester_pending (s : State) (f : Frame) (n : Nat) : (s.chargeRequester f n).pending = s.pending := by
  simp [State.chargeRequester]

@[simp] theorem Deciding.grant_pending (d : Deciding) (f : Frame) (q n : Nat) (charges : Charges) (ecn : Bool) :
    (Deciding.grant d f q n charges ecn).st.pending = d.st.pending := by
  simp [Deciding.grant]

@[simp] theorem Deciding.refuse_pending (d : Deciding) (q reason : Nat) : (Deciding.refuse d q reason).st.pending = d.st.pending := by
  simp [Deciding.refuse]

@[simp] theorem Deciding.lossy_pending (d : Deciding) (f : Frame) (q n : Nat) (p : Profile) :
    (Deciding.lossy d f q n p).st.pending = d.st.pending := by
  unfold Deciding.lossy
  dsimp only
  repeat' split
  all_goals simp

@[simp] theorem Deciding.lossless_pending (d : Deciding) (f : Frame) (q n g : Nat) (p : Profile) :
    (Deciding.lossless d f q n g p).st.pending = d.st.pending := by
  unfold Deciding.lossless
  dsimp only
  repeat' split
  all_goals simp

@[simp] theorem Deciding.target_pending (f : Frame) (n : Nat) (d : Deciding) (q : Nat) :
    (Deciding.target f n d q).st.pending = d.st.pending := by
  unfold Deciding.target
  dsimp only
  repeat' split
  all_goals simp

@[simp] theorem State.lateChecks_pending (s : State) (p : Nat) (f : Frame) : (s.lateChecks p f).1.pending = s.pending := by
  unfold State.lateChecks
  dsimp only
  split <;> simp

@[simp] theorem State.dropCopy_pending (s : State) (f : Stored) (q reason : Nat) : (s.dropCopy f q reason).pending = s.pending := by
  simp [State.dropCopy]

@[simp] theorem State.settleCopy_pending (s : State) (f : Stored) (q : Nat) : (s.settleCopy f q).pending = s.pending := by
  simp [State.settleCopy]

@[simp] theorem State.settleCopies_pending (s : State) (id : Nat) : (s.settleCopies id).pending = s.pending := by
  unfold State.settleCopies
  split <;> simp

@[simp] theorem State.settlePort_pending (s : State) (lp : Nat) : (s.settlePort lp).pending = s.pending := by
  unfold State.settlePort
  refine State.foldl_pending (fun u k => ?_) ..
  refine State.foldl_pending (fun v e => ?_) ..
  split
  · exact State.settleCopy_pending ..
  · rfl

@[simp] theorem State.wholeFrame_pending (s : State) (f : Frame) : (s.wholeFrame f).pending = s.pending := by
  unfold State.wholeFrame
  split <;> simp

@[simp] theorem State.askRevoke_pending (s : State) (f : Frame) : (s.askRevoke f).pending = s.pending := by
  unfold State.askRevoke
  split <;> simp

@[simp] theorem State.refusals_pending (s : State) (f : Frame) (bad : List (Nat × Nat)) (part : Bool) :
    (s.refusals f bad part).pending = s.pending := by
  simp [State.refusals]

@[simp] theorem State.adopt_pending (s : State) (f : Frame) (copies : Nat) : (s.adopt f copies).pending = s.pending := by
  simp [State.adopt]

/-- Decisions on targets one after the other leave the queue. -/
theorem Deciding.foldl_target_pending (f : Frame) (n : Nat) (ts : List Nat) (d : Deciding) :
    (ts.foldl (Deciding.target f n) d).st.pending = d.st.pending := by
  induction ts generalizing d with
  | nil => rfl
  | cons q r ih => exact (ih _).trans (Deciding.target_pending ..)

@[simp] theorem State.admitFrame_pending (s : State) (pipe cycle : Nat) (f : Frame) : (s.admitFrame pipe cycle f).pending = s.pending := by
  unfold State.admitFrame
  refine State.branch_pending ?_ ?_
  · rw [State.askRevoke_pending, State.tagEnd_pending, State.dropRecord_pending, State.tick_pending]
  · generalize hd : (s.targets f).foldl (Deciding.target f f.cells.length) _ = d
    have hdecided : d.st.pending = s.pending := hd ▸ Deciding.foldl_target_pending ..
    dsimp only
    split
    · rw [State.foldl_pending fun _ _ => State.checkBlock_pending ..]
      exact (State.adopt_pending ..).trans ((State.tagEnd_pending ..).trans ((State.refusals_pending ..).trans hdecided))
    · exact (State.askRevoke_pending ..).trans ((State.tagEnd_pending ..).trans ((State.refusals_pending ..).trans hdecided))

@[simp] theorem State.decided_pending (s : State) (f : Frame) : (s.decided f).pending = s.pending := by
  simp [State.decided]

@[simp] theorem State.grantCycle_pending (s : State) (hs : List StageHead) : (s.grantCycle hs).pending = s.pending := by
  simp [State.grantCycle]

/-! ### Handoff: the queue -/

/-- The queue of a pair's second state. -/
theorem State.snd_pair_pending {γ : Type} {a : State} {g : γ} {q : List Instr} (ha : a.pending = q) : (g, a).2.pending = q := ha

@[simp] theorem State.reserveCell_pending (s : State) (bank : Nat) : (s.reserveCell bank).2.pending = s.pending := by
  have htake := State.takeCell_pending s bank
  rcases h : s.takeCell bank with ⟨_ | c, u⟩
  · rw [State.reserveCell, h]
    rw [h] at htake
    exact htake
  · rw [State.reserveCell, h]
    rw [h] at htake
    exact State.snd_pair_pending ((State.tick_pending ..).trans ((State.intoReserve_pending ..).trans htake))

@[simp] theorem State.modBody_pending (s : State) (id : Nat) (g : Frame → Frame) : (s.modBody id g).pending = s.pending := by
  simp [State.modBody]

@[simp] theorem State.bodyOver_pending (s : State) (id : Nat) : (s.bodyOver id).pending = s.pending := by
  simp [State.bodyOver]

/-- A change of the pool leaves the queue. -/
theorem State.withPool_pending (s : State) (x : PoolState) : ({ s with pool := x } : State).pending = s.pending := rfl

/-- The queue of a pair's state. -/
theorem State.pair_pending {γ : Type} {a : State} {g : γ} {q : List Instr} (ha : a.pending = q) : (a, g).1.pending = q := ha

@[simp] theorem State.storeHead_pending (s : State) (stream cycle : Nat) (f : Frame) :
    (s.storeHead stream cycle f).1.pending = s.pending := by
  rw [State.storeHead]
  refine State.fst_branch_pending rfl (State.pair_pending (State.branch_pending ?_ ?_))
  · refine (State.bodyOver_pending ..).trans ?_
    split
    · exact (State.putCell_pending ..).trans ((State.reserveCell_pending ..).trans (State.withPool_pending ..))
    · exact (State.reserveCell_pending ..).trans (State.withPool_pending ..)
  · refine (State.modBody_pending ..).trans ?_
    split
    · exact (State.putCell_pending ..).trans ((State.reserveCell_pending ..).trans (State.withPool_pending ..))
    · exact (State.reserveCell_pending ..).trans (State.withPool_pending ..)

@[simp] theorem State.takeRequest_pending (s : State) (p : Nat) (f : Frame) : (s.takeRequest p f).pending = s.pending := by
  simp [State.takeRequest]

@[simp] theorem State.slowPath_pending (s : State) (p : Nat) (f : Frame) : (s.slowPath p f).pending = s.pending := by
  simp [State.slowPath]

@[simp] theorem State.feedDiscard_pending (s : State) (f : Frame) : (s.feedDiscard f).pending = s.pending := by
  simp [State.feedDiscard]

@[simp] theorem State.enterStage_pending (s : State) (h : StageHead) : (s.enterStage h).pending = s.pending := by
  simp [State.enterStage]

@[simp] theorem State.feedFrame_pending (s : State) (p cycle : Nat) (f : Frame) : (s.feedFrame p cycle f).pending = s.pending := by
  unfold State.feedFrame
  split <;> simp

@[simp] theorem State.decideHead_pending (s : State) (p stream cycle : Nat) (parityBad : Bool) (f : Frame) :
    (s.decideHead p stream cycle parityBad f).pending = s.pending := by
  simp [State.decideHead]

@[simp] theorem State.modStage_pending (s : State) (id : Nat) (g : StageHead → Option StageHead) :
    (s.modStage id g).pending = s.pending := by
  simp [State.modStage]

@[simp] theorem State.decideFeed_pending (s : State) (h : StageHead) : (s.decideFeed h).pending = s.pending := by
  simp [State.decideFeed]

@[simp] theorem State.decideUpTo_pending (s : State) (limit : Nat) : (s.decideUpTo limit).pending = s.pending := by
  unfold State.decideUpTo
  refine State.foldl_pending (fun u i => ?_) ..
  split
  · exact State.decideFeed_pending ..
  · rfl

@[simp] theorem State.leaveStage_pending (s : State) : s.leaveStage.pending = s.pending := by
  simp [State.leaveStage]

@[simp] theorem State.feedDecision_pending (s : State) (p : Nat) : (s.feedDecision p).pending = s.pending := by
  unfold State.feedDecision
  split <;> simp

@[simp] theorem State.handOff_pending (s : State) (cycle : Nat) (parityBad : List Nat) :
    (s.handOff cycle parityBad).pending = s.pending := by
  simp [State.handOff]

@[simp] theorem State.chargeCell_pending (s : State) (f : Stored) : (s.chargeCell f).pending = s.pending := by
  unfold State.chargeCell
  dsimp only
  repeat' split
  all_goals simp -implicitDefEqProofs

theorem State.writeBody_pending (s : State) (f : Frame) (bank : Nat) {u : State} (h : s.writeBody f bank = some u) :
    u.pending = s.pending := by
  rw [State.writeBody] at h
  obtain ⟨c, -, hu⟩ := Option.map_eq_some_iff.mp h
  rw [← hu, State.modBody_pending]
  split
  · rw [State.linkCell_pending, State.putCell_pending]
    split
    · exact State.snd_pair_pending ((State.chargeCell_pending ..).trans (State.takeCell_pending ..))
    · exact State.reserveCell_pending ..
  · rw [State.putCell_pending]
    split
    · exact State.snd_pair_pending ((State.chargeCell_pending ..).trans (State.takeCell_pending ..))
    · exact State.reserveCell_pending ..

/-- A body written, or none, leaves the queue. -/
theorem State.getD_writeBody_pending (s : State) (f : Frame) (bank : Nat) : ((s.writeBody f bank).getD s).pending = s.pending := by
  cases hw : s.writeBody f bank with
  | none => rfl
  | some u => exact State.writeBody_pending _ _ _ hw

@[simp] theorem State.bodyCell_pending (s : State) (lp cycle bank : Nat) : (s.bodyCell lp cycle bank).pending = s.pending := by
  unfold State.bodyCell
  rw [← State.at_pending s (bufferAt8 cycle)]
  generalize s.at_ (bufferAt8 cycle) = u
  dsimp only
  split
  · exact State.branch_pending (State.getD_writeBody_pending ..) rfl
  · rfl

@[simp] theorem State.resolveCandidates_pending (s : State) (f : Frame) : (s.resolveCandidates f).pending = s.pending := by
  simp -implicitDefEqProofs [State.resolveCandidates]

@[simp] theorem State.lastStored_pending (s : State) (f : Frame) : (s.lastStored f).pending = s.pending := by
  simp [State.lastStored]

@[simp] theorem State.lastCell_pending (s : State) (lp cycle bank : Nat) : (s.lastCell lp cycle bank).pending = s.pending := by
  unfold State.lastCell
  rw [← State.at_pending s (bufferAt8 cycle)]
  generalize s.at_ (bufferAt8 cycle) = u
  dsimp only
  split
  · rfl
  · refine State.branch_pending ((State.bodyOver_pending ..).trans (State.resolveCandidates_pending ..)) (State.branch_pending ?_ rfl)
    split
    · next hw =>
      exact (State.lastStored_pending ..).trans ((State.resolveCandidates_pending ..).trans (State.writeBody_pending _ _ _ hw))
    · rfl

/-! ### Egress: the queue -/

@[simp] theorem State.unrecordedDrop_pending (s : State) (f : Stored) (q : Nat) : (s.unrecordedDrop f q).pending = s.pending := by
  simp [State.unrecordedDrop]

@[simp] theorem State.cellDrop_pending (s : State) (f : Stored) (q : Nat) : (s.cellDrop f q).pending = s.pending := by
  simp [State.cellDrop]

@[simp] theorem State.launch_pending (s : State) (lp q : Nat) (e : QEntry) (f : Stored) (bad : Bool) (held : Option Nat) :
    (s.launch lp q e f bad held).pending = s.pending := by
  unfold State.launch
  split <;> simp

@[simp] theorem State.startCopy_pending (s : State) (lp q : Nat) (cellBad : Bool) : (s.startCopy lp q cellBad).pending = s.pending := by
  unfold State.startCopy
  dsimp only
  repeat' split
  all_goals simp

@[simp] theorem State.pick_pending (s : State) (lp : Nat) (cellBad : Bool) : (s.pick lp cellBad).pending = s.pending := by
  unfold State.pick
  refine State.branch_pending rfl (State.branch_pending (by simp) ?_)
  generalize hs : ((((s.sendPauses lp).settlePort lp).markBlocked lp).countWaits lp) = u
  have hwaits : u.pending = s.pending := by subst hs; simp
  have hclass := (State.pickClass_pending u lp).trans hwaits
  dsimp only
  split
  · next h => simpa [h] using hclass
  · next h => simpa [h] using hclass

@[simp] theorem State.transmitEnd_pending (s : State) (lp : Nat) : (s.transmitEnd lp).pending = s.pending := by
  unfold State.transmitEnd
  dsimp only
  repeat' split
  all_goals simp

@[simp] theorem State.flushOne_pending (s : State) (lp cycle bank : Nat) : (s.flushOne lp cycle bank).pending = s.pending := by
  unfold State.flushOne
  dsimp only
  repeat' split
  all_goals simp

@[simp] theorem State.walkOne_pending (s : State) : s.walkOne.pending = s.pending := by
  unfold State.walkOne
  split <;> simp

@[simp] theorem State.poolService_pending (s : State) (cycle bank : Nat) : (s.poolService cycle bank).pending = s.pending := by
  simp [State.poolService]

@[simp] theorem State.poolAllocate_pending (s : State) (req n : Nat) : (s.poolAllocate req n).pending = s.pending := by
  simp [State.poolAllocate]

/-! ### Replay: the queue -/

@[simp] theorem State.touchSlot_pending (s : State) (c : Image) (m : BitVec 64) : (s.touchSlot c m).pending = s.pending := by
  simp [State.touchSlot]

@[simp] theorem State.inject64_pending (s : State) (p : Nat) (data : List Byte) : (s.inject64 p data).pending = s.pending := by
  simp [State.inject64]

@[simp] theorem State.replayRun_pending (s : State) (e c : Image) (r : ReplayReq) (b0 : Nat) :
    (s.replayRun e c r b0).1.pending = s.pending := by
  induction b0 generalizing s r with
  | zero => rfl
  | succ n ih =>
    unfold State.replayRun
    dsimp only
    split
    · exact (ih ..).trans ((State.tick_pending ..).trans (State.touchSlot_pending ..))
    · exact State.fst_branch_pending ((ih ..).trans (State.inject64_pending ..)) (State.refuseAllocation_pending ..)

@[simp] theorem State.replayServe_pending (s : State) : s.replayServe.pending = s.pending := by
  unfold State.replayServe
  refine State.branch_pending rfl ?_
  split
  · rfl
  · refine State.branch_pending (State.tick_pending ..) ?_
    split
    · rfl
    · next r rest _ e _ =>
      dsimp only
      generalize hr : State.replayRun _ _ _ _ _ = x
      have hrun : x.1.pending = s.pending := by
        rw [← hr, State.replayRun_pending, State.ite_pending, State.tick_pending, ite_self]
      split
      · exact hrun
      · exact hrun

end Sys2Proof.Machine
end

section
/-!
SUPPORT. The queue of commands that wait, continued: the pair, the microcode, the command ports and the boot.
-/

namespace Sys2Proof.Machine

/-! ### MirrorOps: the queue -/

@[simp] theorem State.heardNow_pending (s : State) : s.heardNow.pending = s.pending := by
  simp [State.heardNow]

@[simp] theorem State.modMirror_pending (s : State) (f : MirrorState → MirrorState) : (s.modMirror f).pending = s.pending := by
  simp [State.modMirror]

@[simp] theorem State.setRegion_pending (s : State) (r v : Nat) : (s.setRegion r v).pending = s.pending := by
  simp [State.setRegion]

@[simp] theorem State.sendDigest_pending (s : State) (r : Nat) : (s.sendDigest r).pending = s.pending := by
  simp [State.sendDigest]

@[simp] theorem State.sendDigests_pending (s : State) : s.sendDigests.pending = s.pending := by
  simp [State.sendDigests]

@[simp] theorem State.endCheck_pending (s : State) : s.endCheck.pending = s.pending := by
  rw [State.endCheck]
  split <;> simp

@[simp] theorem State.settleCheck_pending (s : State) : s.settleCheck.pending = s.pending := by
  rw [State.settleCheck]
  split <;> simp

@[simp] theorem State.regionReported_pending (s : State) (r v : Nat) : (s.regionReported r v).pending = s.pending := by
  simp [State.regionReported]

@[simp] theorem doMirrorCheck_pending (w : Waiter) (p : Pkt) (ps : List Byte) (s : State) :
    (doMirrorCheck w p ps s).st.pending = s.pending := by
  rw [doMirrorCheck]
  dsimp only
  repeat' split
  all_goals simp

@[simp] theorem State.startPull_pending (s : State) : s.startPull.pending = s.pending := by
  simp [State.startPull]

@[simp] theorem State.settlePull_pending (s : State) : s.settlePull.pending = s.pending := by
  rw [State.settlePull]
  refine State.branch_pending rfl ?_
  split
  · exact State.branch_pending rfl (State.branch_pending (by simp) (by simp))
  · refine State.branch_pending rfl ?_
    split
    · exact State.branch_pending (by simp) rfl
    · exact State.modMirror_pending ..

@[simp] theorem State.compareRegion_pending (s : State) (r : Fin 19) (digest : BitVec 32) :
    (s.compareRegion r digest).pending = s.pending := by
  simp [State.compareRegion]

@[simp] theorem State.compareHeld_pending (s : State) : s.compareHeld.pending = s.pending := by
  simp [State.compareHeld]

@[simp] theorem State.writePulled_pending (s : State) (code gen idx : Nat) (e : Image) :
    (s.writePulled code gen idx e).pending = s.pending := by
  simp [State.writePulled]

@[simp] theorem State.pullEntries_pending (s : State) (r : Fin 19) (code gen : Nat) (items : List (Nat × Nat)) :
    (s.pullEntries r code gen items).pending = s.pending := by
  simp [State.pullEntries]

@[simp] theorem State.pullBlocks_pending (s : State) (r : Fin 19) (ds : List (BitVec 8 × Bool × Nat × BitVec 32)) :
    (s.pullBlocks r ds).pending = s.pending := by
  simp -implicitDefEqProofs [State.pullBlocks]

@[simp] theorem State.pullPorts_pending (s : State) (params : List (List Byte)) : (s.pullPorts params).pending = s.pending := by
  simp [State.pullPorts, apply_ite Prod.fst]

@[simp] theorem State.pullFeed_pending (s : State) (x : FeedImage) : (s.pullFeed x).pending = s.pending := by
  simp [State.pullFeed]

@[simp] theorem State.dropRoleWait_pending (s : State) : s.dropRoleWait.pending = s.pending := by
  rw [State.dropRoleWait]
  split <;> simp

@[simp] theorem State.releaseMirrored_pending (s : State) : s.releaseMirrored.pending = s.pending := by
  rw [State.releaseMirrored]
  dsimp only
  repeat' split
  all_goals simp

@[simp] theorem State.becomeStandby_pending (s : State) : s.becomeStandby.pending = s.pending := by
  simp [State.becomeStandby]

@[simp] theorem State.becomePrimary_pending (s : State) : s.becomePrimary.pending = s.pending := by
  simp [State.becomePrimary]

@[simp] theorem State.takeover_pending (s : State) : s.takeover.pending = s.pending := by
  simp [State.takeover]

@[simp] theorem State.takeoverFrom_pending (s : State) (mode : Nat) : (s.takeoverFrom mode).pending = s.pending := by
  rw [State.takeoverFrom]
  split <;> simp

@[simp] theorem State.linkGoDown_pending (s : State) : s.linkGoDown.pending = s.pending := by
  simp [State.linkGoDown]

@[simp] theorem doMirrorConfig_pending (w : Waiter) (p : Pkt) (ps : List Byte) (s : State) :
    (doMirrorConfig w p ps s).st.pending = s.pending := by
  simp [doMirrorConfig]

@[simp] theorem State.becomeSolo_pending (s : State) : s.becomeSolo.pending = s.pending := by
  simp [State.becomeSolo]

/-- The queue of a choice of works whose branches leave it. -/
theorem Done.branch_pending {c : Prop} [Decidable c] {a b : Done} {q : List Instr} (ha : a.st.pending = q) (hb : b.st.pending = q) :
    (if c then a else b).st.pending = q := by
  split
  · exact ha
  · exact hb

@[simp] theorem doMirrorRole_pending (w : Waiter) (p : Pkt) (ps : List Byte) (s : State) :
    (doMirrorRole w p ps s).st.pending = s.pending := by
  unfold doMirrorRole
  refine Done.branch_pending (by simp) (Done.branch_pending ?_ (Done.branch_pending (by simp) (by simp)))
  split
  · exact Done.branch_pending (by simp) (by simp)
  · simp
  · exact Done.branch_pending (by simp) (Done.branch_pending (by simp) (by simp))

/-! ### Ucode: the queue -/

@[simp] theorem State.setWord_pending (s : State) (a w : Nat) : (s.setWord a w).pending = s.pending := by
  simp [State.setWord]

@[simp] theorem doUcodeLoad_pending (w : Waiter) (p : Pkt) (ps : List Byte) (s : State) :
    (doUcodeLoad w p ps s).st.pending = s.pending := by
  rw [doUcodeLoad]
  dsimp only
  repeat' split
  all_goals simp

@[simp] theorem State.readEntry_pending (s : State) (q : Option Nat) (code idx : Nat) : (s.readEntry q code idx).1.pending = s.pending := by
  unfold State.readEntry
  refine State.fst_branch_pending rfl ?_
  split
  · exact State.fst_branch_pending rfl (State.readMaster_pending ..)
  · rfl

/-- The state of a choice that stands second of three, when both branches leave the queue. -/
theorem State.mid_branch_pending {β γ : Type} {c : Prop} [Decidable c] {a b : β × State × γ} {q : List Instr} (ha : a.2.1.pending = q)
    (hb : b.2.1.pending = q) : (if c then a else b).2.1.pending = q := by
  split
  · exact ha
  · exact hb

/-- The scratchpad written after a context leaves the queue. -/
theorem State.withUcode_pending (s : State) (p : CmdPort) (f : Ctx → Ctx) (x : UcodeState) :
    ({ s.modCtx p f with ucode := x } : State).pending = s.pending := State.modCtx_pending s p f

/-- The queue of the state that stands second of three. -/
theorem State.triple_pending {β γ : Type} {x : β} {a : State} {g : γ} {q : List Instr} (ha : a.pending = q) :
    (x, a, g).2.1.pending = q := ha

@[simp] theorem State.unitStep_pending (s : State) (p : CmdPort) (u o r imm : Nat) : (s.unitStep p u o r imm).2.1.pending = s.pending := by
  rw [State.unitStep]
  refine State.mid_branch_pending (State.triple_pending (State.modCtx_pending ..)) ?_
  refine State.mid_branch_pending (State.triple_pending (State.modCtx_pending ..)) ?_
  refine State.mid_branch_pending
    (State.mid_branch_pending (State.triple_pending (State.modCtx_pending ..)) (State.triple_pending rfl)) ?_
  refine State.mid_branch_pending ?reply ?_
  case reply =>
    split
    · exact State.mid_branch_pending (State.triple_pending rfl)
        (State.triple_pending ((State.sendReply_pending ..).trans (State.modCtx_pending ..)))
    · exact State.triple_pending rfl
  refine State.mid_branch_pending (State.triple_pending (State.modCtx_pending ..)) ?_
  refine State.mid_branch_pending (State.triple_pending (State.modCtx_pending ..)) ?_
  refine State.mid_branch_pending
    (State.mid_branch_pending (State.triple_pending (State.modCtx_pending s ..)) (State.triple_pending ?scratch)) ?_
  case scratch => exact State.withUcode_pending ..
  refine State.mid_branch_pending
    (State.triple_pending ((State.modCtx_pending ..).trans (State.readEntry_pending ..))) ?_
  refine State.mid_branch_pending
    (State.triple_pending ((State.modCtx_pending ..).trans (State.branch_pending (State.tick_pending ..) rfl))) ?_
  refine State.mid_branch_pending (State.triple_pending (State.modCtx_pending ..)) ?_
  exact State.mid_branch_pending (State.triple_pending rfl) (State.triple_pending rfl)

@[simp] theorem State.unitsStep_pending (s : State) (p : CmdPort) (w : Nat) : (s.unitsStep p w).2.2.pending = s.pending := by
  simp [State.unitsStep]

@[simp] theorem State.ctxIdle_pending (s : State) (p : CmdPort) : (s.ctxIdle p).pending = s.pending := by
  simp [State.ctxIdle]

@[simp] theorem State.ctxEnd_pending (s : State) (p : CmdPort) (status : Nat) (more : List Byte) :
    (s.ctxEnd p status more).pending = s.pending := by
  rw [State.ctxEnd]
  split <;> simp

@[simp] theorem State.ctxTrap_pending (s : State) (p : CmdPort) (cause : Nat) : (s.ctxTrap p cause).pending = s.pending := by
  simp [State.ctxTrap]

@[simp] theorem State.wordLost_pending (s : State) (src : Nat) : (s.wordLost src).pending = s.pending := by
  simp [State.wordLost]

@[simp] theorem State.faultOccurs_pending (s : State) (n : Nat) (src : BitVec 13) : (s.faultOccurs n src).pending = s.pending := by
  simp [State.faultOccurs]

@[simp] theorem State.ctxLimit_pending (s : State) (p : CmdPort) : (s.ctxLimit p).pending = s.pending := by
  simp [State.ctxLimit]

@[simp] theorem State.execWord_pending (s : State) (p : CmdPort) : (s.execWord p).1.pending = s.pending := by
  rw [State.execWord]
  dsimp only
  repeat' split
  all_goals simp

@[simp] theorem State.stopWords_pending (commits : Bool) (b0 : Nat) (s : State) (c : CmdPort) :
    (State.stopWords commits b0 s c).pending = s.pending := by
  induction b0 generalizing s with
  | zero => rfl
  | succ n ih =>
    have hword := State.execWord_pending s c
    rcases h : s.execWord c with ⟨t, ⟨permits, yields⟩ | _⟩
    · rw [h] at hword
      rw [State.stopWords, h]
      exact State.branch_pending ((State.ctxEnd_pending ..).trans ((State.modCtx_pending ..).trans hword)) ((ih t).trans hword)
    · rw [h] at hword
      rw [State.stopWords, h]
      exact State.branch_pending ((State.ctxEnd_pending ..).trans ((State.modCtx_pending ..).trans hword)) hword

@[simp] theorem State.runWords_pending (b0 : Nat) (s : State) (c : CmdPort) : (State.runWords b0 s c).pending = s.pending := by
  induction b0 generalizing s with
  | zero => rfl
  | succ n ih =>
    have hword := State.execWord_pending s c
    rcases h : s.execWord c with ⟨t, ⟨permits, yields⟩ | _⟩
    · rw [h] at hword
      rw [State.runWords, h]
      exact State.branch_pending hword ((ih t).trans hword)
    · rw [h] at hword
      rw [State.runWords, h]
      exact hword

@[simp] theorem State.resumeCtx_pending (s : State) (p : CmdPort) : (s.resumeCtx p).pending = s.pending := by
  rw [State.resumeCtx]
  split <;> simp

@[simp] theorem State.readyCtx_pending (s : State) (p : CmdPort) : (s.readyCtx p).pending = s.pending := by
  simp [State.readyCtx]

@[simp] theorem doUcodeCall_pending (w : Waiter) (p : Pkt) (ps : List Byte) (s : State) :
    (doUcodeCall w p ps s).st.pending = s.pending := by
  simp [doUcodeCall]

@[simp] theorem State.resumeNext_pending (s : State) (left : CmdPort) : (s.resumeNext left).pending = s.pending := by
  rw [State.resumeNext]
  split <;> simp

@[simp] theorem State.ctxSlice_pending (s : State) : s.ctxSlice.pending = s.pending := by
  rw [State.ctxSlice]
  split <;> simp

@[simp] theorem State.ctxResume_pending (s : State) (p : CmdPort) : (s.ctxResume p).pending = s.pending := by
  simp [State.ctxResume]

@[simp] theorem State.ctxTimer_pending (s : State) (p : CmdPort) : (s.ctxTimer p).pending = s.pending := by
  rw [State.ctxTimer]
  split <;> simp

@[simp] theorem State.ucodeLimit_pending (s : State) (p : CmdPort) : (s.ucodeLimit p).pending = s.pending := by
  simp [State.ucodeLimit]

/-! ### CmdPorts: the queue -/

@[simp] theorem State.runPacket_pending (s : State) (op : Nat) (p : Pkt) (tn : Option Nat) : (s.runPacket op p tn).pending = s.pending := by
  unfold State.runPacket
  split
  all_goals simp

@[simp] theorem State.runSlot_pending (n : Nat) (s : State) : (State.runSlot n s).pending = s.pending := by
  simp [State.runSlot]

@[simp] theorem State.ringFetch_pending (s : State) (rd : HostRead) : (s.ringFetch rd).pending = s.pending := by
  rw [State.ringFetch]
  dsimp only
  repeat' split
  all_goals simp

@[simp] theorem State.cmdTailWrite_pending (s : State) (n : Nat) (v : BitVec 16) : (s.cmdTailWrite n v).pending = s.pending := by
  simp [State.cmdTailWrite]

@[simp] theorem State.releaseHeld_pending (s : State) (n : Nat) : (s.releaseHeld n).pending = s.pending := by
  simp [State.releaseHeld]

@[simp] theorem State.rplTailWrite_pending (s : State) (n : Nat) (v : BitVec 16) : (s.rplTailWrite n v).pending = s.pending := by
  simp [State.rplTailWrite]

@[simp] theorem State.cmdCtrlReset_pending (s : State) (n : Nat) : (s.cmdCtrlReset n).pending = s.pending := by
  simp [State.cmdCtrlReset]

@[simp] theorem State.countMgmt_pending (s : State) (frame : List Byte) : (s.countMgmt frame).pending = s.pending := by
  simp [State.countMgmt]

@[simp] theorem State.cp1Frame_pending (s : State) (frame : List Byte) : (s.cp1Frame frame).pending = s.pending := by
  rw [State.cp1Frame]
  dsimp only
  repeat' split
  all_goals simp

@[simp] theorem State.cp3Frame_pending (s : State) (wire : List Byte) : (s.cp3Frame wire).pending = s.pending := by
  rw [State.cp3Frame]
  dsimp only
  repeat' split
  all_goals simp

@[simp] theorem State.cp3Break_pending (s : State) (us : Nat) : (s.cp3Break us).pending = s.pending := by
  simp [State.cp3Break]

@[simp] theorem State.afterMirrored_pending (s : State) (seq : BitVec 64) (op : Nat) (ps : List Byte) :
    (s.afterMirrored seq op ps).pending = s.pending := by
  simp [State.afterMirrored]

@[simp] theorem State.takeCp2_pending (s : State) : s.takeCp2.pending = s.pending := by
  rw [State.takeCp2]
  split <;> simp

@[simp] theorem State.commandMessage_pending (s : State) (m : Cp2Msg) : (s.commandMessage m).pending = s.pending := by
  simp [State.commandMessage]

/-! ### Pair: the queue -/

@[simp] theorem State.linkPayload_pending (s : State) (u : Nat) : (s.linkPayload u).pending = s.pending := by
  rw [State.linkPayload]
  split <;> simp

@[simp] theorem State.linkUnit_pending (s : State) (u : BitVec 512) : (s.linkUnit u).pending = s.pending := by
  simp [State.linkUnit]

@[simp] theorem State.linkAck_pending (s : State) : s.linkAck.pending = s.pending := by
  simp [State.linkAck]

@[simp] theorem State.linkDownBy_pending (s : State) (c : LinkDownCause) : (s.linkDownBy c).pending = s.pending := by
  unfold State.linkDownBy
  cases c with
  | silence => exact State.branch_pending (by simp) rfl
  | lockLoss => exact State.linkGoDown_pending _
  | resends => exact State.branch_pending (State.linkGoDown_pending _) rfl
  | disabled => exact State.branch_pending rfl (State.linkGoDown_pending _)

@[simp] theorem State.linkComesUp_pending (s : State) (dPs : Nat) : (s.linkComesUp dPs).pending = s.pending := by
  simp [State.linkComesUp]

@[simp] theorem State.sendState_pending (s : State) : s.sendState.pending = s.pending := by
  simp [State.sendState]

@[simp] theorem State.stateMessage_pending (s : State) (role : Role) (pairId : BitVec 128) (seq : BitVec 64) (steps : BitVec 8) :
    (s.stateMessage role pairId seq steps).pending = s.pending := by
  simp [State.stateMessage]

@[simp] theorem State.replyMessage_pending (s : State) (seq : BitVec 64) (status : Nat) (isFinal : Bool) :
    (s.replyMessage seq status isFinal).pending = s.pending := by
  rw [State.replyMessage]
  dsimp only
  repeat' split
  all_goals simp

@[simp] theorem State.armMirrored_pending (s : State) (amount : Int) (steps : BitVec 8) :
    (s.armMirrored amount steps).pending = s.pending := by
  simp [State.armMirrored]

@[simp] theorem State.lockLoop_pending (s : State) (offset : Int) : (s.lockLoop offset).pending = s.pending := by
  simp [State.lockLoop]

@[simp] theorem State.timeMessage_pending (s : State) (t1 : Nat) (steps : BitVec 8) : (s.timeMessage t1 steps).pending = s.pending := by
  rw [State.timeMessage]
  dsimp only
  repeat' split
  all_goals simp

@[simp] theorem State.timeMessageSend_pending (s : State) : s.timeMessageSend.pending = s.pending := by
  simp [State.timeMessageSend]

@[simp] theorem State.stepMessage_pending (s : State) (amount : Int) (steps : BitVec 8) :
    (s.stepMessage amount steps).pending = s.pending := by
  simp [State.stepMessage]

@[simp] theorem State.feedMessage_pending (s : State) (f : Nat) (c : FeedChange) : (s.feedMessage f c).pending = s.pending := by
  simp [State.feedMessage]

@[simp] theorem State.digestMessage_pending (s : State) (r : Fin 19) (seq : BitVec 64) (digest : BitVec 32) :
    (s.digestMessage r seq digest).pending = s.pending := by
  simp [State.digestMessage]

@[simp] theorem State.digestSend_pending (s : State) (r : Nat) : (s.digestSend r).pending = s.pending := by
  simp [State.digestSend]

@[simp] theorem State.pullReq_pending (s : State) (q : PullReq) : (s.pullReq q).pending = s.pending := by
  unfold State.pullReq
  refine State.branch_pending rfl ?_
  cases q with
  | digest r => exact State.sendDigest_pending ..
  | blockDigests r => exact State.branch_pending rfl ((State.emit_pending ..).trans (State.regionReported_pending ..))
  | block table gen block => exact State.branch_pending rfl (State.emit_pending ..)
  | portConfig => exact (State.emit_pending ..).trans (State.regionReported_pending ..)
  | generation => exact (State.emit_pending ..).trans (State.regionReported_pending ..)
  | feeds => exact (State.emit_pending ..).trans (State.foldl_pending (fun u f => State.emit_pending ..) ..)

@[simp] theorem State.applyGenPull_pending (s : State) : s.applyGenPull.pending = s.pending := by
  rw [State.applyGenPull]
  split <;> simp

@[simp] theorem State.pullData_pending (s : State) (d : PullData) : (s.pullData d).pending = s.pending := by
  unfold State.pullData
  refine State.branch_pending rfl (State.branch_pending ?_ ?_)
  · split
    · exact State.regionReported_pending ..
    · rfl
  · cases d with
    | blockDigests r ds => exact State.pullBlocks_pending ..
    | entries r table gen items => exact State.pullEntries_pending ..
    | portConfig ps => exact (State.settlePull_pending _).trans (State.pullPorts_pending ..)
    | generation gens => exact (State.applyGenPull_pending _).trans (State.modMirror_pending ..)
    | regionEqual r => rfl
    | feed x => exact State.pullFeed_pending ..
    | feedsDone => exact (State.settlePull_pending _).trans (State.modMirror_pending ..)

@[simp] theorem State.tokenMessage_pending (s : State) (t : Token) : (s.tokenMessage t).pending = s.pending := by
  unfold State.tokenMessage
  refine State.branch_pending rfl ?_
  cases t with
  | mark no => exact (State.sendToken_pending ..).trans (State.latchMark_pending ..)
  | markAck => rfl
  | barrier => exact State.sendToken_pending ..
  | barrierAck => exact (State.settleCheck_pending _).trans (State.modMirror_pending ..)

@[simp] theorem State.peerFault_pending (s : State) : s.peerFault.pending = s.pending := by
  simp [State.peerFault]

@[simp] theorem State.holdExpiry_pending (s : State) : s.holdExpiry.pending = s.pending := by
  rw [State.holdExpiry]
  split <;> simp

/-! ### Boot: the queue -/

@[simp] theorem State.bootFlash_pending (s : State) (b : Board) : (s.bootFlash b).pending = s.pending := by
  rw [State.bootFlash]
  split <;> simp

@[simp] theorem State.bootIslands_pending (s : State) : s.bootIslands.pending = s.pending := by
  simp [State.bootIslands]

@[simp] theorem State.bootDram_pending (s : State) (ds : List Dimm) : (s.bootDram ds).pending = s.pending := by
  simp -implicitDefEqProofs [State.bootDram]

@[simp] theorem State.serdesGroup_pending (s : State) (g : Nat) : (s.serdesGroup g).pending = s.pending := by
  simp -implicitDefEqProofs [State.serdesGroup]

@[simp] theorem State.startupComplete_pending (s : State) : s.startupComplete.pending = s.pending := by
  simp [State.startupComplete]

@[simp] theorem State.warmKeep_pending (s : State) : s.warmKeep.pending = s.pending := by
  simp [State.warmKeep]

@[simp] theorem State.warmReset_pending (s : State) : s.warmReset.pending = s.pending := by
  simp [State.warmReset]

@[simp] theorem State.restoreTables_pending (s : State) : s.restoreTables.pending = s.pending := by
  simp [State.restoreTables]

@[simp] theorem State.restorePort_pending (s : State) (lp : Nat) : (s.restorePort lp).pending = s.pending := by
  simp [State.restorePort]

@[simp] theorem State.warmRelease_pending (s : State) (drifts : List (Fin 16 × List Int)) : (s.warmRelease drifts).pending = s.pending := by
  simp [State.warmRelease]

@[simp] theorem State.ownerStatus_pending (s : State) : s.ownerStatus.pending = s.pending := by
  rw [State.ownerStatus]
  split <;> simp

@[simp] theorem State.bootStatus_pending (s : State) : s.bootStatus.pending = s.pending := by
  simp [State.bootStatus]

/-! ### Registers: the queue -/

@[simp] theorem State.cmdRegWrite_pending (s : State) (n off : Nat) (v : BitVec 64) : (s.cmdRegWrite n off v).pending = s.pending := by
  simp [State.cmdRegWrite]

@[simp] theorem State.dmaRegWrite_pending (s : State) (r off n : Nat) (v : BitVec 64) : (s.dmaRegWrite r off n v).pending = s.pending := by
  simp [State.dmaRegWrite]

@[simp] theorem State.routeWrite_pending (s : State) (k v : Nat) : (s.routeWrite k v).pending = s.pending := by
  simp [State.routeWrite]

@[simp] theorem State.stageWrite_pending (s : State) (n lo w at_ v : Nat) : (s.stageWrite n lo w at_ v).pending = s.pending := by
  simp [State.stageWrite]

@[simp] theorem State.regPut_pending (s : State) (r : BarReg) (v : BitVec 64) : (s.regPut r v).pending = s.pending := by
  unfold State.regPut
  cases r with
  | none => rfl
  | hostLink => exact State.branch_pending (State.release_pending _) rfl
  | timeLatch => exact State.timeLatch_pending ..
  | cmdRing n off => exact State.cmdRegWrite_pending ..
  | dma r off n => exact State.dmaRegWrite_pending ..
  | evtRoute k => exact State.routeWrite_pending ..
  | sticky n => exact State.modLine_pending ..
  | pmcMark => exact State.pmcMark_pending ..
  | pmcSweep => exact State.pmcSweep_pending ..
  | pmcOvf j => rfl
  | pmcCfg k => exact State.pmcCfg_pending ..
  | pmcCtr k => exact State.pmcCtr_pending ..
  | sample p => exact State.branch_pending (State.modSample_pending ..) rfl
  | gasp => exact State.branch_pending rfl rfl
  | chanLast k => exact State.branch_pending (State.modChan_pending ..) rfl
  | drwRpos n d => exact State.rposWrite_pending ..
  | drwState n d => exact State.branch_pending (State.modDrawer_pending ..) rfl
  | winLo n => exact State.stageWrite_pending ..
  | winHi n => exact State.stageWrite_pending ..
  | winCommit n => exact State.branch_pending (State.winCommit_pending ..) rfl

@[simp] theorem State.registerWrite_pending (s : State) (a : Nat) (size : AccessSize) (v : BitVec 64) :
    (s.registerWrite a size v).pending = s.pending := by
  unfold State.registerWrite
  cases size with
  | other => exact State.emit_pending ..
  | eight => exact State.branch_pending (State.emit_pending ..) (State.regPut_pending ..)
  | four => exact State.branch_pending (State.emit_pending ..) (State.regPut_pending ..)

/-! ### Rounds: the queue -/

@[simp] theorem State.closeSlots_pending (s : State) : s.closeSlots.pending = s.pending := by
  simp [State.closeSlots]

@[simp] theorem State.closeEngine_pending (s : State) : s.closeEngine.pending = s.pending := by
  simp [State.closeEngine]

@[simp] theorem State.closeRound_pending (s : State) : s.closeRound.pending = s.pending := by
  simp [State.closeRound]

@[simp] theorem State.roundBoundary_pending (s : State) : s.roundBoundary.pending = s.pending := by
  simp [State.roundBoundary]

/-! ### Every command leaves the queue -/

/-- The end of a read leaves the queue when the run of its command does. -/
theorem State.readEnd_pending (s : State) (t : BitVec 14) (rd : HostRead) {run : Nat → State → State}
    (hrun : ∀ n u, (run n u).pending = u.pending) : (s.readEnd t rd run).pending = s.pending := by
  unfold State.readEnd
  split
  · rfl
  · next q _ =>
    refine State.branch_pending rfl ?_
    have hend := State.endRead_pending s t
    refine State.branch_pending ((State.settleReads_pending ..).trans hend) ((State.settleReads_pending ..).trans ?_)
    split
    · exact (State.ringReadEnd_pending ..).trans hend
    · exact State.branch_pending ((State.finishBarrier_pending ..).trans hend) ((State.haltRing_pending ..).trans hend)
    · exact State.branch_pending ((hrun ..).trans hend) ((State.slotUnread_pending ..).trans hend)
    · exact (State.swapEnd_pending ..).trans hend

/-- A cold reset leaves the queue, which is the model's own device and no part of the block. -/
theorem State.coldReset_pending (s : State) (b : Board) : (s.coldReset b).pending = s.pending := by
  unfold State.coldReset
  have hmon : (s.powerCycle.bootMonitors b).pending = s.pending := rfl
  have hflash : ((s.powerCycle.bootMonitors b).bootFlash b).pending = s.pending := (State.bootFlash_pending ..).trans hmon
  exact State.branch_pending rfl (State.branch_pending hflash
    ((State.bootDram_pending ..).trans ((State.bootIslands_pending _).trans hflash)))

/-- So does the programming of the fuses. -/
theorem State.ownerProgram_pending (s : State) (key : BitVec 256) (vpp resetLow : Bool) :
    (s.ownerProgram key vpp resetLow).pending = s.pending :=
  State.branch_pending rfl rfl

/-- An answer that goes on to a state with the queue `q`. -/
inductive QueueIs (q : List Instr) : Ans → Prop
  | next {t : State} (h : t.pending = q) : QueueIs q (.next t)

/-- Every command goes on to a state with the queue it found: one arm a command, each by the lemma of its meaning. -/
theorem exec_queueIs (s : State) (c : Instr) : QueueIs s.pending (exec c s) :=
  match c with
  | .nop _ => .next (State.runCommand_pending_of_handler _ _ _ _ fun _ _ => doNop_pending ..)
  | .identify _ => .next (State.runCommand_pending_of_handler _ _ _ _ fun _ _ => doIdentify_pending ..)
  | .readState _ => .next (State.runCommand_pending_of_handler _ _ _ _ fun _ _ => doReadState_pending ..)
  | .selftestMonitors _ => .next (State.selftestRow_pending ..)
  | .selftestFaultInject _ => .next (State.selftestRow_pending ..)
  | .selftestDramResweep _ => .next (State.selftestRow_pending ..)
  | .selftestDramBist _ => .next (State.selftestRow_pending ..)
  | .selftestSerdesPrbs _ => .next (State.selftestRow_pending ..)
  | .selftestPipeline _ => .next (State.selftestRow_pending ..)
  | .monitorRead _ => .next (State.runCommand_pending_of_handler _ _ _ _ fun _ _ => doMonitorRead_pending ..)
  | .ttLoad _ => .next (State.runCommand_pending_of_handler _ _ _ _ fun _ _ => doTtLoad_pending ..)
  | .ttActivateWarm _ => .next (State.ttActivate_pending ..)
  | .ttActivateCold _ => .next (State.ttActivate_pending ..)
  | .ttActivateCancel _ => .next (State.ttActivate_pending ..)
  | .ttQuery _ => .next (State.runCommand_pending_of_handler _ _ _ _ fun _ _ => doTtQuery_pending ..)
  | .tblWrite _ => .next (State.runCommand_pending_of_handler _ _ _ _ fun _ _ => doTblWrite_pending ..)
  | .prefixInsert _ => .next (State.prefixWrite_pending ..)
  | .prefixDelete _ => .next (State.prefixWrite_pending ..)
  | .tblPairWrite _ => .next (State.runCommand_pending_of_handler _ _ _ _ fun _ _ => doTblPairWrite_pending ..)
  | .tblRead _ => .next (State.runCommand_pending_of_handler _ _ _ _ fun _ _ => doTblRead_pending ..)
  | .tblMove _ => .next (State.runCommand_pending_of_handler _ _ _ _ fun _ _ => doTblMove_pending ..)
  | .genSwap _ => .next (State.runCommand_pending_of_handler _ _ _ _ fun _ _ => doGenSwap_pending ..)
  | .tblBulkWrite _ => .next (State.runCommand_pending_of_handler _ _ _ _ fun _ _ => doTblBulk_pending ..)
  | .tblBulkRelayout _ => .next (State.runCommand_pending_of_handler _ _ _ _ fun _ _ => doTblBulk_pending ..)
  | .ageScan _ => .next (State.runCommand_pending_of_handler _ _ _ _ fun _ _ => doAgeScan_pending ..)
  | .portConfig _ => .next (State.runCommand_pending_of_handler _ _ _ _ fun _ _ => doPortConfig_pending ..)
  | .portStatus _ => .next (State.runCommand_pending_of_handler _ _ _ _ fun _ _ => doPortStatus_pending ..)
  | .statsRead _ => .next (State.runCommand_pending_of_handler _ _ _ _ fun _ _ => doStatsRead_pending ..)
  | .drawerOpen _ => .next (State.runCommand_pending_of_handler _ _ _ _ fun _ _ => doDrawerOpen_pending ..)
  | .drawerClose _ =>
    .next ((State.settleCloses_pending ..).trans (State.runCommand_pending_of_handler _ _ _ _ fun _ _ => doDrawerClose_pending ..))
  | .drawerErase _ => .next (State.runCommand_pending_of_handler _ _ _ _ fun _ _ => doDrawerErase_pending ..)
  | .sealNow _ => .next (State.runCommand_pending_of_handler _ _ _ _ fun _ _ => doSealNow_pending ..)
  | .replayConfigCapture _ => .next (State.replayConfig_pending ..)
  | .replayConfigRequest _ => .next (State.replayConfig_pending ..)
  | .replayConfigQuota _ => .next (State.replayConfig_pending ..)
  | .cabinetPause _ => .next (State.cabinetPause_pending ..)
  | .cabinetResume _ => .next (State.cabinetPause_pending ..)
  | .timeSet _ => .next (State.runCommand_pending_of_handler _ _ _ _ fun _ _ => doTimeSet_pending ..)
  | .timeAdjustFreq _ => .next (State.timeAdjust_pending ..)
  | .timeAdjustSlew _ => .next (State.timeAdjust_pending ..)
  | .timeAdjustStep _ => .next (State.timeAdjust_pending ..)
  | .timeAdjustSource _ => .next (State.timeAdjust_pending ..)
  | .timeAdjustPpsOut _ => .next (State.timeAdjust_pending ..)
  | .timeAdjustDeclare _ => .next (State.timeAdjust_pending ..)
  | .timeRead _ => .next (State.runCommand_pending_of_handler _ _ _ _ fun _ _ => doTimeRead_pending ..)
  | .tsCalibrateRun _ => .next (State.tsCalibrate_pending ..)
  | .tsCalibrateRead _ => .next (State.tsCalibrate_pending ..)
  | .mirrorConfig _ => .next (State.runCommand_pending_of_handler _ _ _ _ fun _ _ => doMirrorConfig_pending ..)
  | .mirrorRole _ => .next (State.runCommand_pending_of_handler _ _ _ _ fun _ _ => doMirrorRole_pending ..)
  | .mirrorCheck _ =>
    .next ((State.settleCheck_pending ..).trans (State.runCommand_pending_of_handler _ _ _ _ fun _ _ => doMirrorCheck_pending ..))
  | .keyInstall _ => .next (State.runCommand_pending_of_handler _ _ _ _ fun _ _ => doKeyInstall_pending ..)
  | .keyRetire _ => .next (State.runCommand_pending_of_handler _ _ _ _ fun _ _ => doKeyRetire_pending ..)
  | .counterRead _ => .next (State.runCommand_pending_of_handler _ _ _ _ fun _ _ => doCounterRead_pending ..)
  | .instCreate _ => .next (State.runCommand_pending_of_handler _ _ _ _ fun _ _ => doInstCreate_pending ..)
  | .instResize _ => .next (State.runCommand_pending_of_handler _ _ _ _ fun _ _ => doInstResize_pending ..)
  | .instQuiesce _ => .next (State.quiesceRow_pending ..)
  | .instQuiesceResume _ => .next (State.quiesceRow_pending ..)
  | .instReset _ => .next (State.runCommand_pending_of_handler _ _ _ _ fun _ _ => doInstReset_pending ..)
  | .instRemove _ => .next (State.runCommand_pending_of_handler _ _ _ _ fun _ _ => doInstReset_pending ..)
  | .dirtyLogSwap _ => .next (State.dirtyRow_keeps_pending ..)
  | .dirtyLogStop _ => .next (State.dirtyRow_keeps_pending ..)
  | .faultConfig _ => .next (State.runCommand_pending_of_handler _ _ _ _ fun _ _ => doFaultConfig_pending ..)
  | .faultRelease _ => .next (State.runCommand_pending_of_handler _ _ _ _ fun _ _ => doFaultRelease_pending ..)
  | .ucodeLoadUser _ => .next (State.runCommand_pending_of_handler _ _ _ _ fun _ _ => doUcodeLoad_pending ..)
  | .ucodeCall _ => .next (State.runCommand_pending_of_handler _ _ _ _ fun _ _ => doUcodeCall_pending ..)
  | .cmdRingFetch _ _ => .next ((State.ringFetch_pending ..).trans (State.at_pending ..))
  | .hostCmdTailWrite _ _ _ => .next ((State.cmdTailWrite_pending ..).trans (State.softStore_pending ..))
  | .hostRplTailWrite _ _ => .next (State.rplTailWrite_pending ..)
  | .hostCmdCtrlReset _ => .next (State.cmdCtrlReset_pending ..)
  | .cp1FrameReceive _ _ => .next ((State.cp1Frame_pending ..).trans (State.at_pending ..))
  | .cp3FrameReceive _ _ => .next ((State.cp3Frame_pending ..).trans (State.at_pending ..))
  | .cp3Break _ => .next (State.cp3Break_pending ..)
  | .timeLatch _ _ _ => .next ((State.timeLatch_pending ..).trans (State.at_pending ..))
  | .hostLinkRelease => .next (State.release_pending ..)
  | .winCommit _ => .next (State.winCommit_pending ..)
  | .windowRead _ _ _ => .next (State.winRead_pending ..)
  | .windowWrite _ _ _ _ => .next (State.winWrite_pending ..)
  | .dmaCtrlEnable _ _ _ => .next (State.dmaCtrl_pending ..)
  | .dmaCtrlReset _ _ => .next (State.branch_pending (State.resetRing_pending ..) rfl)
  | .dmaTailWrite _ _ _ _ => .next ((State.dmaTail_pending ..).trans (State.softStore_pending ..))
  | .dmaCircRposWrite _ _ _ => .next (State.circRpos_pending ..)
  | .cabDrwRposWrite _ _ _ => .next (State.rposWrite_pending ..)
  | .pmcMark _ => .next (State.pmcMark_pending ..)
  | .pmcSweep _ => .next (State.pmcSweep_pending ..)
  | .pmcCtrWrite _ _ => .next (State.pmcCtr_pending ..)
  | .pmcCfgWrite _ _ => .next (State.pmcCfg_pending ..)
  | .registerWrite _ _ _ => .next (State.registerWrite_pending ..)
  | .coldReset _ => .next (State.coldReset_pending ..)
  | .startupComplete => .next (State.startupComplete_pending ..)
  | .cabinetInitialised => .next (State.cabinetInitialised_pending ..)
  | .dramTrainingDone _ _ => .next (State.trainingDone_pending ..)
  | .serdesGroupUp _ => .next (State.serdesGroup_pending ..)
  | .warmReset _ => .next ((State.warmReset_pending ..).trans (State.at_pending ..))
  | .perst => .next (State.perst_pending ..)
  | .pcieLinkDown => .next (State.pcieDown_pending ..)
  | .pcieLinkUp _ _ => .next (State.pcieUp_pending ..)
  | .flrVf _ => .next (State.flrVf_pending ..)
  | .flrPf => .next (State.flrPf_pending ..)
  | .vfEnableClear => .next (State.vfClear_pending ..)
  | .fenceComplete _ => .next (State.fenceEnd_pending ..)
  | .ownerProgram _ _ _ => .next (State.ownerProgram_pending ..)
  | .ownerStatus => .next (State.ownerStatus_pending ..)
  | .bootStatus => .next (State.bootStatus_pending ..)
  | .frameReceive _ _ _ => .next ((State.receive_pending ..).trans (State.at_pending ..))
  | .pauseReceive _ _ _ _ _ => .next ((State.pauseReceive_pending ..).trans (State.at_pending ..))
  | .pauseTakeEffect _ => .next (State.pauseTake_pending ..)
  | .pauseExpiry _ _ => .next (State.pauseExpire_pending ..)
  | .pauseWatchdogTrip _ _ => .next (State.pauseTrip_pending ..)
  | .pauseHoldoffEnd _ _ => .next (State.holdoffOver_pending ..)
  | .pauseTx _ _ => .next (State.pauseTx_pending ..)
  | .headRelease _ _ => .next (State.releaseHead_pending ..)
  | .headSlot _ _ _ => .next (State.headSlot_pending ..)
  | .recircPass _ _ _ => .next (State.recircSlot_pending ..)
  | .injectSlot _ _ _ => .next (State.injectSlot_pending ..)
  | .headHandoff _ _ => .next (State.handOff_pending ..)
  | .feedDecision _ => .next (State.feedDecision_pending ..)
  | .bodyCellWrite _ _ _ => .next (State.bodyCell_pending ..)
  | .lastCellArrival _ _ _ => .next (State.lastCell_pending ..)
  | .revocation _ => .next (State.revocation_pending ..)
  | .schedulerPick _ _ _ => .next ((State.pick_pending ..).trans (State.at_pending ..))
  | .transmitEnd _ _ => .next ((State.transmitEnd_pending ..).trans (State.at_pending ..))
  | .queueFlushUnlink _ _ _ => .next (State.flushOne_pending ..)
  | .shaperRefill => .next (State.refill_pending ..)
  | .gateSwitch _ _ => .next ((State.markBlocked_pending ..).trans ((State.gateSwitch_pending ..).trans (State.at_pending ..)))
  | .gateEntryAdvance _ _ => .next ((State.gateAdvance_pending ..).trans (State.at_pending ..))
  | .chainFreeWalk => .next (State.walkOne_pending ..)
  | .poolService _ _ => .next (State.poolService_pending ..)
  | .poolAllocate _ _ => .next (State.poolAllocate_pending ..)
  | .recountComplete => .next (State.recountEnd_pending ..)
  | .learningSlot _ _ => .next (State.learnSlot_pending ..)
  | .ageingRead _ _ => .next (State.ageRead_pending ..)
  | .ageScanComplete => .next (State.ageScanDone_pending ..)
  | .scrubSlot _ _ _ _ _ _ => .next (State.scrub_pending ..)
  | .replicaRepair _ _ _ _ _ => .next (State.repair_pending ..)
  | .roundBoundary => .next (State.roundBoundary_pending ..)
  | .activationCommit => .next (State.activationCommit_pending ..)
  | .activationSwitch => .next (State.activationSwitch_pending ..)
  | .activationDrained => .next (State.activationDrained_pending ..)
  | .portSwitchPosition _ => .next (State.switchPosition_pending ..)
  | .transitionWindowClose _ => .next (State.windowClosed_pending ..)
  | .genSwapBoundary => .next (State.genBoundary_pending ..)
  | .genSwapDrained => .next (State.genDrained_pending ..)
  | .stepApply => .next (State.stepApply_pending ..)
  | .noPpsTimeout => .next (State.noPpsTimeout_pending ..)
  | .slewEnd => .next (State.slewEnd_pending ..)
  | .ppsInEdge _ => .next ((State.ppsInEdge_pending ..).trans (State.at_pending ..))
  | .ppsAbsent => .next (State.ppsAbsent_pending ..)
  | .ppsOutEdge _ => .next ((State.ppsOutEdge_pending ..).trans (State.at_pending ..))
  | .ref10mCount _ => .next (State.refCount_pending ..)
  | .clockAttestation _ => .next ((State.attest_pending ..).trans (State.at_pending ..))
  | .portBringupDone _ _ => .next (State.bringupDone_pending ..)
  | .alignTimeout _ => .next (State.alignTimeout_pending ..)
  | .linkLoss _ => .next (State.linkLoss_pending ..)
  | .fecDegradeCheck _ _ _ _ _ => .next (State.fecCheck_pending ..)
  | .wakeDetect _ => .next (State.wakeDetect_pending ..)
  | .pllLockLoss _ => .next (State.pllLoss_pending ..)
  | .islandPowerUp _ => .next (State.islandUp_pending ..)
  | .feedGapScan _ => .next (State.gapScan_pending ..)
  | .replayServe => .next (State.replayServe_pending ..)
  | .evidenceDrain _ => .next ((State.evidenceDrain_pending ..).trans (State.at_pending ..))
  | .sealTimer _ _ => .next ((State.sealTimer_pending ..).trans (State.at_pending ..))
  | .drawerEraseDone _ => .next (State.eraseDone_pending ..)
  | .dramRefresh _ _ => .next (State.dramRefresh_pending ..)
  | .dramUncorrectable _ _ => .next (State.dramRead_pending ..)
  | .patrolScrub _ _ => .next (State.patrolScrub_pending ..)
  | .injectDescriptor _ _ => .next (State.ringWork_pending ..)
  | .deliverFrame _ _ _ => .next (State.ringWork_pending ..)
  | .leaseFrame _ _ _ => .next (State.ringWork_pending ..)
  | .copyDescriptor _ _ => .next (State.ringWork_pending ..)
  | .noticeWrite => .next (State.noticeWrite_pending ..)
  | .barrierDone _ => .next (State.barrierDone_pending ..)
  | .ringWaitResume _ => .next (State.waitResume_pending ..)
  | .completionTimeout _ => .next (State.readTimeout_pending ..)
  | .lateCompletion _ => .next (State.lateCompletion_pending ..)
  | .tagQuarantineEnd _ => .next (State.quarantineEnd_pending ..)
  | .readCompletion _ _ => .next (State.readEnd_pending _ _ _ fun _ _ => State.runSlot_pending ..)
  | .eventHoldoffEnd _ => .next (State.holdoffEnd_pending ..)
  | .msixUnmask _ _ => .next (State.msixUnmask_pending ..)
  | .faultOccurrence _ _ => .next (State.faultOccurs_pending ..)
  | .faultWindowClose _ => .next (State.windowClose_pending ..)
  | .graceTimerExpiry _ => .next ((State.graceExpires_pending ..).trans (State.at_pending ..))
  | .cmdWatchdog _ => .next (State.cmdWatchdog_pending ..)
  | .sensorRead _ _ _ => .next ((State.sensorRead_pending ..).trans (State.at_pending ..))
  | .thermalShedCheck => .next (State.shedCheck_pending ..)
  | .voltageSample _ _ => .next (State.voltageSample_pending ..)
  | .contextSlice => .next (State.ctxSlice_pending ..)
  | .contextResume _ => .next (State.ctxResume_pending ..)
  | .contextTimerExpiry _ => .next (State.ctxTimer_pending ..)
  | .ucodeLimit _ => .next (State.ucodeLimit_pending ..)
  | .linkUnitReceive _ => .next (State.linkUnit_pending ..)
  | .linkAck => .next (State.linkAck_pending ..)
  | .dovetailLinkDown _ => .next (State.linkDownBy_pending ..)
  | .dovetailLinkUp _ => .next (State.linkComesUp_pending ..)
  | .commandMessage _ _ _ _ => .next ((State.commandMessage_pending ..).trans (State.heardNow_pending ..))
  | .replyMessage _ _ _ => .next ((State.replyMessage_pending ..).trans (State.heardNow_pending ..))
  | .timeMessage _ _ _ => .next ((State.timeMessage_pending ..).trans ((State.heardNow_pending ..).trans (State.at_pending ..)))
  | .timeMessageSend _ => .next ((State.timeMessageSend_pending ..).trans (State.at_pending ..))
  | .stepMessage _ _ => .next ((State.stepMessage_pending ..).trans (State.heardNow_pending ..))
  | .feedMessage _ _ => .next ((State.feedMessage_pending ..).trans (State.heardNow_pending ..))
  | .stateMessage _ _ _ _ => .next ((State.stateMessage_pending ..).trans (State.heardNow_pending ..))
  | .digestMessage _ _ _ => .next ((State.digestMessage_pending ..).trans (State.heardNow_pending ..))
  | .digestSend _ => .next (State.digestSend_pending ..)
  | .pullReq _ => .next ((State.pullReq_pending ..).trans (State.heardNow_pending ..))
  | .pullData _ => .next ((State.pullData_pending ..).trans (State.heardNow_pending ..))
  | .tokenMessage _ => .next ((State.tokenMessage_pending ..).trans (State.heardNow_pending ..))
  | .safeMessage => .next (State.branch_pending ((State.takeoverFrom_pending ..).trans (State.heardNow_pending _)) rfl)
  | .peerFaultAssert => .next (State.peerFault_pending ..)
  | .linkLossHoldExpiry => .next (State.holdExpiry_pending ..)
  | .calibrationComplete _ _ _ => .next (State.calibrationComplete_pending ..)
  | .selftestComplete _ _ => .next (State.selftestEnd_pending ..)
  | .cabinetPauseDone => .next (State.pauseDone_pending ..)
  | .cabinetResumeDone _ => .next (State.resumeDone_pending ..)
  | .warmResetRelease _ => .next (State.warmRelease_pending ..)
  | .perstRelease => .next (State.startTraining_pending _)
  | .configSpaceWrite _ _ _ => .next (State.cfgWrite_pending ..)
  | .monitorClockLoss _ => .next ((State.collectorFault_pending ..).trans (State.at_pending ..))
  | .collectorRegisterFault _ => .next ((State.collectorFault_pending ..).trans (State.at_pending ..))
  | .dimmSensorRead _ _ => .next (State.dimmSensorRead_pending ..)
  | .wakeDetectorRearm _ => .next (State.wakeRearm_pending ..)
  | .sweepComplete => .next (State.sweepEnd_pending ..)

/-- The queue after a command is the queue before it. -/
theorem exec_pending {s t : State} {c : Instr} (hexec : exec c s = .next t) : t.pending = s.pending := by
  have hqueue := exec_queueIs s c
  rw [hexec] at hqueue
  cases hqueue with
  | next h => exact h

/-- Settles O49: a step runs its first command on the rest of the queue, and no command changes the queue. -/
theorem stepTakesTheFrontCommand : Obligations.StepTakesTheFrontCommand := by
  intro s t c rest hq hstep
  rw [step_of_pending hq] at hstep
  exact exec_pending hstep

end Sys2Proof.Machine
end

section
/-!
User microcode and the context rows: one equation for each case of a command or an event (16_microcode R393 to R410).
-/

namespace Sys2Proof.Machine

/-! ### UCODE_LOAD_USER (16_microcode R404, R407 to R409) -/

/-- The first `n` words of a UCODE_LOAD_USER written. -/
def State.putUserWords (s : State) (ps : List Byte) (n : Nat) : State :=
  (List.range n).foldl (fun (t : State) i => t.setWord (0x3800 + fld (leAt ps 0 8) 0 11 + i) (userItem ps i)) s

/-- A cancel that falls before the last commit point is passed stops the command at the next one (16_microcode R404). -/
theorem unitsDone_cut {k n : Nat} (h : k < n) : unitsDone (some k) n = (k + 1, true) := if_pos h

/-- A cancel that falls after the last commit point comes too late (16_microcode R404). -/
theorem unitsDone_late {k n : Nat} (h : n ≤ k) : unitsDone (some k) n = (n, false) := if_neg (Nat.not_lt.2 h)

section Load
variable {w : Waiter} {p : Pkt} {ps : List Byte} {s : State}

theorem doUcodeLoad_inUse (huse : s.userInUse = true) : doUcodeLoad w p ps s = busy s := if_pos huse

theorem doUcodeLoad_whole (hfree : s.userInUse = false)
    (hunits : unitsDone p.cancelAt (fld (leAt ps 0 8) 16 16) = (fld (leAt ps 0 8) 16 16, false)) :
    doUcodeLoad w p ps s = ok (s.putUserWords ps (fld (leAt ps 0 8) 16 16)) := by
  simp [doUcodeLoad, State.putUserWords, hfree, hunits]

theorem doUcodeLoad_cut {n : Nat} (hfree : s.userInUse = false)
    (hunits : unitsDone p.cancelAt (fld (leAt ps 0 8) 16 16) = (n, true)) :
    doUcodeLoad w p ps s = partialReply (s.putUserWords ps n) n := by
  simp [doUcodeLoad, State.putUserWords, hfree, hunits]

end Load

/-- An admitted packet whose handler answers PARTIAL. -/
theorem State.runCommand_partial {s t : State} {op n : Nat} {p : Pkt} {wf : List Byte → State → Bool} {h : Handler}
    (ha : s.admits op p wf = true) (hh : h (s.waiterOf op p) p p.params (s.running op p) = partialReply t n) :
    s.runCommand op p wf h = finishCmd (s.waiterOf op p) (partialReply t n) :=
  State.runCommand_final ha hh (by simp [partialReply]) (by simp [partialReply])

/-! ### UCODE_CALL (16_microcode R410) -/

/-- An admitted packet whose handler leaves the replies to a routine. -/
theorem State.runCommand_ownReplies {s t : State} {op : Nat} {p : Pkt} {wf : List Byte → State → Bool} {h : Handler}
    (ha : s.admits op p wf = true) (hh : h (s.waiterOf op p) p p.params (s.running op p) = { st := t, status := 0x100 }) :
    s.runCommand op p wf h = t := by
  rw [State.runCommand_admitted ha, hh]
  rfl

/-! ### The sequencer (16_microcode R393, R400, R402) -/

section Slice
variable {s : State}

theorem State.resumeNext_of_ready {left q : CmdPort} (hq : ((ctxOrder left).find? fun x => (s.ctx x).st == .slice) = some q) :
    s.resumeNext left = s.resumeCtx q := by
  rw [State.resumeNext, hq]

theorem State.resumeNext_of_none_ready {left : CmdPort} (hnone : ∀ q, (s.ctx q).st ≠ .slice) : s.resumeNext left = s := by
  have hfind : ((ctxOrder left).find? fun x => (s.ctx x).st == .slice) = none :=
    List.find?_eq_none.2 fun q _ => by simp [hnone q]
  rw [State.resumeNext, hfind]

theorem State.ctxSlice_of_running {p : CmdPort}
    (hp : ([CmdPort.cp0, .cp1, .cp2, .cp3].find? fun x => (s.ctx x).st == .running) = some p) :
    s.ctxSlice = (s.modCtx p fun c => { c with st := .slice, cause := 1 }).resumeNext p := by
  rw [State.ctxSlice, hp]

theorem State.ctxSlice_of_free (hfree : ∀ q, (s.ctx q).st ≠ .running) : s.ctxSlice = s.resumeNext s.ucode.lastCtx := by
  have hfind : ([CmdPort.cp0, .cp1, .cp2, .cp3].find? fun x => (s.ctx x).st == .running) = none :=
    List.find?_eq_none.2 fun q _ => by simp [hfree q]
  rw [State.ctxSlice, hfind]

end Slice

section Context
variable {s : State} {c : CmdPort}

theorem State.ctxResume_ready (hst : (s.ctx c).st = .waiting)
    (hw : s.waitHolds c (wWait (tget 0 s.ucode.words (s.ctx c).upc.toNat)) = true) : s.ctxResume c = s.readyCtx c :=
  if_pos ⟨hst, hw⟩

theorem State.ctxResume_ignored
    (h : (s.ctx c).st ≠ .waiting ∨ s.waitHolds c (wWait (tget 0 s.ucode.words (s.ctx c).upc.toNat)) = false) :
    s.ctxResume c = s :=
  if_neg fun ⟨hst, hw⟩ => h.elim (· hst) fun hnot => Bool.false_ne_true (hnot.symm.trans hw)

/-! ### The timer and the limit of a context (16_microcode R400, R410) -/

theorem State.ctxTimer_due {t : Nat} (ht : (s.ctx c).timer = some t) (hdue : s.due t = true) :
    s.ctxTimer c = (s.reach t).modCtx c fun x => { x with timer := none, timerDone := true } := by
  simp [State.ctxTimer, ht, hdue]

theorem State.ctxTimer_ignored (h : ∀ t, (s.ctx c).timer = some t → s.due t = false) : s.ctxTimer c = s := by
  cases ht : (s.ctx c).timer with
  | none => simp [State.ctxTimer, ht]
  | some t => simp [State.ctxTimer, ht, h t ht]

theorem State.ucodeLimit_due (hst : (s.ctx c).st ≠ .idle) (hdue : s.due ((s.ctx c).startedAt + (s.ctx c).limit * 1000) = true) :
    s.ucodeLimit c = (s.reach ((s.ctx c).startedAt + (s.ctx c).limit * 1000)).ctxLimit c :=
  if_pos ⟨hst, hdue⟩

theorem State.ucodeLimit_ignored
    (h : (s.ctx c).st = .idle ∨ s.due ((s.ctx c).startedAt + (s.ctx c).limit * 1000) = false) : s.ucodeLimit c = s :=
  if_neg fun ⟨hst, hdue⟩ => h.elim hst fun hnot => Bool.false_ne_true (hnot.symm.trans hdue)

end Context

/-- Settles O34: each command by the equations of its handler, each context row by those of its cases. The model's choices among them: a
cancel stops a load at its next commit point, the last one included (log entry 59), and an event row whose condition does not hold changes
nothing (log entry 104). -/
theorem userMicrocodeRuns : Obligations.UserMicrocodeRuns := by
  refine ⟨?load, ?call, ?slice, ?sliceFree, ?resume, ?timer, ?limit⟩
  case load =>
    rintro s u p had rfl
    refine ⟨fun huse => ?inUse, fun hfree hc => ?whole, fun k hfree hc hk => ?cut, fun k hfree hc hk => ?late⟩
    case inUse => exact congrArg Host.Outcome.next (State.runCommand_busy had (doUcodeLoad_inUse huse))
    case whole =>
      exact congrArg Host.Outcome.next (State.runCommand_ok had (doUcodeLoad_whole hfree (by rw [hc, unitsDone_none])))
    case cut =>
      exact congrArg Host.Outcome.next (State.runCommand_partial had (doUcodeLoad_cut hfree (by rw [hc, unitsDone_cut hk])))
    case late =>
      exact congrArg Host.Outcome.next (State.runCommand_ok had (doUcodeLoad_whole hfree (by rw [hc, unitsDone_late hk])))
  case call =>
    rintro s u p had rfl
    exact congrArg Host.Outcome.next
      (State.runCommand_ownReplies (h := doUcodeCall) had (by rw [doUcodeCall, State.waiterOf_port]))
  case slice =>
    rintro s t p q hp rfl hq
    exact congrArg Host.Outcome.next ((State.ctxSlice_of_running hp).trans (State.resumeNext_of_ready hq))
  case sliceFree =>
    intro s hfree
    have hslice := State.ctxSlice_of_free hfree
    exact ⟨fun p hp => congrArg Host.Outcome.next (hslice.trans (State.resumeNext_of_ready hp)),
      fun hnone => congrArg Host.Outcome.next (hslice.trans (State.resumeNext_of_none_ready hnone))⟩
  case resume =>
    intro s c
    exact ⟨fun hst hw => congrArg Host.Outcome.next (State.ctxResume_ready hst hw),
      fun hnot => congrArg Host.Outcome.next (State.ctxResume_ignored hnot)⟩
  case timer =>
    intro s c
    exact ⟨fun t ht hdue => congrArg Host.Outcome.next (State.ctxTimer_due ht hdue),
      fun hnot => congrArg Host.Outcome.next (State.ctxTimer_ignored hnot)⟩
  case limit =>
    intro s c
    exact ⟨fun hst hdue => congrArg Host.Outcome.next (State.ucodeLimit_due hst hdue),
      fun hnot => congrArg Host.Outcome.next (State.ucodeLimit_ignored hnot)⟩

end Sys2Proof.Machine
end

section
/-!
What the fuses and the owner key outlive, and octet memories: both follow from the frame that every command keeps.
-/

namespace Sys2Proof.Machine

/-- A command that is neither COLD_RESET nor OWNER_PROGRAM leaves the fuses and the owner key as they are. -/
theorem exec_keepsOwner {s t : State} {c : Instr} (h : s.Inv) (hexec : exec c s = .next t) (hc : ∀ b, c ≠ .coldReset b)
    (ho : ∀ k v r, c ≠ .ownerProgram k v r) : t.env = s.env ∧ (t.key 0).key = (s.key 0).key := by
  have hkept := exec_steady c h.steady hc ho t hexec
  exact ⟨hkept.env, hkept.owner⟩

/-- A command that changes the fuses is OWNER_PROGRAM under both its conditions, with the lock fuse whole (22_board R529). -/
theorem exec_changesFuses {s t : State} {c : Instr} (h : s.Inv) (hexec : exec c s = .next t) (hne : t.env ≠ s.env) :
    s.env.lockFuse = false ∧ ∃ k, c = .ownerProgram k true true := by
  by_cases hcold : ∃ b, c = .coldReset b
  · obtain ⟨b, rfl⟩ := hcold
    obtain ⟨o, hreset⟩ := State.coldReset_steady b h.steady
    cases hexec
    exact absurd hreset.env hne
  by_cases hprog : ∃ k v r, c = .ownerProgram k v r
  · obtain ⟨k, v, r, rfl⟩ := hprog
    cases hexec
    unfold State.ownerProgram at hne
    split at hne
    · rename_i hblows
      simp only [Bool.and_eq_true, Bool.not_eq_true'] at hblows
      obtain ⟨⟨rfl, rfl⟩, hwhole⟩ := hblows
      exact ⟨hwhole, k, rfl⟩
    · exact absurd rfl hne
  exact absurd (exec_keepsOwner h hexec (fun b e => hcold ⟨b, e⟩) fun k v r e => hprog ⟨k, v, r, e⟩).1 hne

/-- A command that changes the owner key is COLD_RESET (15_commands R369). -/
theorem exec_changesOwnerKey {s t : State} {c : Instr} (h : s.Inv) (hexec : exec c s = .next t)
    (hne : (t.key 0).key ≠ (s.key 0).key) : ∃ b, c = .coldReset b := by
  by_contra hcold
  by_cases hprog : ∃ k v r, c = .ownerProgram k v r
  · obtain ⟨k, v, r, rfl⟩ := hprog
    obtain ⟨e, -, hblown⟩ := State.ownerProgram_steady k v r h.steady h.fuses
    cases hexec
    exact hne hblown.owner
  · exact hne (exec_keepsOwner h hexec (fun b e => hcold ⟨b, e⟩) fun k v r e => hprog ⟨k, v, r, e⟩).2

/-- Settles O50: a step runs the front command on the rest of the queue, and an idle step changes nothing. -/
theorem fusesAndOwnerKeyAreForGood : Obligations.FusesAndOwnerKeyAreForGood := by
  intro s t h hstep
  cases hq : s.pending with
  | nil =>
    rw [stepRunsTheFrontCommand.2 s hq] at hstep
    cases hstep
    exact ⟨fun hne => absurd rfl hne, fun hne => absurd rfl hne⟩
  | cons c rest =>
    rw [step_of_pending hq] at hstep
    have hInv := h.withPending rest
    refine ⟨fun hne => ?fuses, fun hne => ?owner⟩
    case fuses =>
      obtain ⟨hwhole, k, rfl⟩ := exec_changesFuses hInv hstep hne
      exact ⟨hwhole, k, rest, rfl⟩
    case owner =>
      obtain ⟨b, rfl⟩ := exec_changesOwnerKey hInv hstep hne
      exact ⟨b, rest, rfl⟩

/-- Settles O52: each written octet reads back, and the write keeps the canonical form. -/
theorem memoryReadsBack : Obligations.MemoryReadsBack :=
  fun _ a bs h => ⟨memRead_memWrite a bs h, Memory.wf_write a bs h⟩

end Sys2Proof.Machine
end

section
/-!
The PCIe link, host freeze and the configuration space (17_host R411 to R414, R418 to R420; 22_board R523, R524).
-/

namespace Sys2Proof.Machine

/-! ### The link (17_host R411, R419; 22_board R523, R524) -/

/-- The state with the link down. -/
def State.linkDown (s : State) : State := { s with host := { s.host with gen := 0, width := 0, flit := false } }

/-- The state with every configuration space at its reset values. -/
def State.configReset (s : State) : State :=
  { s with host := { s.host with fns := [], ctVal := 0, barLog2 := 30, vfEnable := false } }

theorem State.linkLost_of_running {s : State} (h : s.host.frozen = false) : s.linkLost = s.linkDown.hostFreeze :=
  if_neg (by simp [h])

theorem State.linkLost_of_frozen {s : State} (h : s.host.frozen = true) : s.linkLost = s.linkDown.configReset := if_pos h

theorem State.pcieUp_trained {s : State} {g : Nat} (w : Nat) (htraining : s.host.training = true) (hperst : s.host.perstLow = false)
    (hdown : s.host.gen = 0) (hstrap : g ≤ s.strapGen) :
    s.pcieUp g w =
      { s with host := { s.host with gen := BitVec.ofNat 4 g, width := BitVec.ofNat 5 w, flit := decide (g = 6) } } :=
  if_pos (by simp [htraining, hperst, hdown, hstrap])

theorem State.startTraining_booted {s : State} (hphase : 4 ≤ s.boot.phase) (hfailed : s.boot.failed = false)
    (hperst : s.host.perstLow = false) :
    s.startTraining = { s with host := { s.host with training := true }, boot := { s.boot with phase := max s.boot.phase 5 } } :=
  if_pos (by simp [hphase, hfailed, hperst])

/-! ### The release (17_host R420) -/

/-- A ring out of host freeze: one that was enabled is halted. -/
def State.thawRing (s : State) (r : Nat) : State :=
  s.modDma r fun d => { d with frozen := false, halted := d.halted || d.enable, haltCode := if d.enable then 0 else d.haltCode }

/-- The state out of host freeze, before the log swaps that waited for the host are taken up. -/
def State.thawed (s : State) : State :=
  (s.host.rings.map (·.1)).foldl State.thawRing { s with host := { s.host with frozen := false } }

theorem State.thawed_frozen (s : State) : s.thawed.host.frozen = false :=
  foldl_invariant (f := State.thawRing) (π := fun t => t.host.frozen) (fun _ _ => rfl) _ _

theorem State.release_of_ready {s : State} (hfrozen : s.host.frozen = true) (hready : s.releaseReady = true) :
    s.release = s.thawed.settleSwaps :=
  if_pos (by rw [hfrozen, hready]; rfl)

/-! ### The configuration space (17_host R412 to R414, R418) -/

section Present

variable {s : State} {n : Nat} (v : Nat)

theorem State.cfgWrite_memorySpaceEnable (h : s.fnPresent n = true) :
    s.cfgWrite n .memorySpaceEnable v = s.modFn n fun x => { x with memSpace := bitAt v 0 } := by
  simp [State.cfgWrite, h]

theorem State.cfgWrite_busMasterEnable (h : s.fnPresent n = true) :
    s.cfgWrite n .busMasterEnable v = s.modFn n fun x => { x with busMaster := bitAt v 0 } := by
  simp [State.cfgWrite, h]

theorem State.cfgWrite_relaxedOrdering (h : s.fnPresent n = true) :
    s.cfgWrite n .relaxedOrdering v = s.modFn n fun x => { x with relaxed := bitAt v 0 } := by
  simp [State.cfgWrite, h]

theorem State.cfgWrite_completionTimeout (h : s.fnPresent 0 = true) :
    s.cfgWrite 0 .completionTimeout v = { s with host := { s.host with ctVal := BitVec.ofNat 4 v } } := by
  simp [State.cfgWrite, h]

variable {v}

/-- BAR2 takes a size of its range while memory space is off (17_host R414). -/
theorem State.cfgWrite_barSize (h : s.fnPresent 0 = true) (hoff : (s.fn 0).memSpace = false) (hmin : 10 ≤ v % 64) (hmax : v % 64 ≤ 22) :
    s.cfgWrite 0 .barSize v = { s with host := { s.host with barLog2 := v % 64 + 20 } } := by
  simp [State.cfgWrite, h, hoff, hmin, hmax]

theorem State.cfgWrite_vfEnable_set (h : s.fnPresent 0 = true) (hv : bitAt v 0 = true) :
    s.cfgWrite 0 .vfEnable v = { s with host := { s.host with vfEnable := true } } := by
  simp [State.cfgWrite, h, hv]

/-- Clearing VF Enable begins the fences of the guests (17_host R413). -/
theorem State.cfgWrite_vfEnable_clear (h : s.fnPresent 0 = true) (hv : bitAt v 0 = false) (hon : s.host.vfEnable = true) :
    s.cfgWrite 0 .vfEnable v = ({ s with host := { s.host with vfEnable := false } } : State).fenceGuests := by
  simp [State.cfgWrite, h, hv, State.vfClear, hon]

end Present

/-- Settles O29: each event and each field by its case. That a host freeze, and a link that is lost during one, clear VF Enable with the
configuration spaces and begin no fence of their own is the model's choice (log entries 5 and 25). -/
theorem hostLinkRuns : Obligations.HostLinkRuns := by
  refine ⟨?up, ?down, ?perst, ?perstRelease, ?release, ?anyFunction, ?physical⟩
  case up =>
    intro s g w htraining hperst hdown hstrap
    exact congrArg Host.Outcome.next (State.pcieUp_trained _ htraining hperst hdown hstrap)
  case down =>
    rintro s _ hup rfl
    have hdown : s.pcieDown = s.linkLost := if_neg hup
    exact ⟨fun hrunning => congrArg Host.Outcome.next (hdown.trans (State.linkLost_of_running hrunning)),
      fun hfrozen => congrArg Host.Outcome.next (hdown.trans (State.linkLost_of_frozen hfrozen))⟩
  case perst =>
    rintro s _ hhigh rfl
    have hfalls : s.perst = ({ s with host := { s.host with perstLow := true, training := false } } : State).linkLost :=
      if_neg (by simp [hhigh])
    exact ⟨fun hrunning => congrArg Host.Outcome.next (hfalls.trans (State.linkLost_of_running hrunning)),
      fun hfrozen => congrArg Host.Outcome.next (hfalls.trans (State.linkLost_of_frozen hfrozen))⟩
  case perstRelease =>
    intro s hphase hfailed
    exact congrArg Host.Outcome.next (State.startTraining_booted hphase hfailed rfl)
  case release =>
    intro s hfrozen hready
    exact ⟨s.thawed, congrArg Host.Outcome.next (State.release_of_ready hfrozen hready), s.thawed_frozen⟩
  case anyFunction =>
    intro s n v hpresent
    exact ⟨congrArg Host.Outcome.next (State.cfgWrite_memorySpaceEnable _ hpresent),
      congrArg Host.Outcome.next (State.cfgWrite_busMasterEnable _ hpresent),
      congrArg Host.Outcome.next (State.cfgWrite_relaxedOrdering _ hpresent)⟩
  case physical =>
    intro s v hpresent
    exact ⟨congrArg Host.Outcome.next (State.cfgWrite_completionTimeout _ hpresent),
      fun hoff hmin hmax => congrArg Host.Outcome.next (State.cfgWrite_barSize hpresent hoff hmin hmax),
      fun hset => congrArg Host.Outcome.next (State.cfgWrite_vfEnable_set hpresent hset),
      fun hclear hon => congrArg Host.Outcome.next (State.cfgWrite_vfEnable_clear hpresent hclear hon)⟩

end Sys2Proof.Machine
end

section
/-!
The Cabinet windows (17_host R416, R417; 18_instances R453).
-/

namespace Sys2Proof.Machine

theorem State.winCommit_of_live {s : State} {n : Nat} (h : s.pageLive n = true) :
    s.winCommit n = s.modInst n fun i => { i with win := { i.win with active := i.win.stage } } :=
  if_pos h

section Read

variable {s : State} {n off len a : Nat} (hhit : s.barHit n off len = true) (ha : a = s.winAddr n off)
include hhit ha

theorem State.winRead_answers {k : Nat} (hk : k = min len (s.installed - a)) (hin : s.inDrawers n a len = true)
    (hpaused : s.cab.paused = false) :
    s.winRead n off len = (s.cabTouch 1 a k).emit
      (.windowData n ((s.cabRead a k).1 ++ List.replicate (len - k) 0) ((s.cabRead a k).2 || decide (k < len))) := by
  subst ha hk
  simp [State.winRead, hhit, hin, hpaused]

theorem State.winRead_of_paused (hin : s.inDrawers n a len = true) (hpaused : s.cab.paused = true) :
    s.winRead n off len = s.emit (.windowData n (List.replicate len 0) true) := by
  subst ha
  simp [State.winRead, hhit, hin, hpaused]

theorem State.winRead_outside (hout : s.inDrawers n a len = false) :
    s.winRead n off len = (s.winDenied n).emit (.windowData n (List.replicate len 0) true) := by
  subst ha
  simp [State.winRead, hhit, hout]

end Read

section Write

variable {s : State} {n off : Nat} {data : List (Option Byte)} (hhit : s.barHit n off data.length = true)
include hhit

theorem State.winWrite_outside (poisoned : Bool) (hout : s.inDrawers n (s.winAddr n off) data.length = false) :
    s.winWrite n off data poisoned = s.winDenied n := by
  simp [State.winWrite, hhit, hout]

variable (hin : s.inDrawers n (s.winAddr n off) data.length = true)
include hin

theorem State.winWrite_poisoned :
    s.winWrite n off data true = { s with host := { s.host with winDiscard := s.host.winDiscard + 1 } } := by
  simp [State.winWrite, hhit, hin]

/-- A write's units are taken in order; a unit that is discarded counts, and one of the masters or of a sealed drawer raises the event. -/
theorem State.winWrite_units {x : State × Bool × Bool} (hx : x = (unitParts (s.winAddr n off) data).foldl State.winUnit (s, false, false))
    {t : State} (ht : t = if x.2.1 then { x.1 with host := { x.1.host with winDiscard := x.1.host.winDiscard + 1 } } else x.1) :
    s.winWrite n off data false = if x.2.2 then t.raise 1280 else t := by
  subst ht hx
  simp [State.winWrite, hhit, hin]

end Write

/-- Settles O30: each request by whether it lies within the drawers, and a read by whether the Cabinet is paused. -/
theorem windowsComplete : Obligations.WindowsComplete := by
  refine ⟨?commit, ?read, ?write, ?outside⟩
  case commit =>
    intro s n hlive
    exact congrArg Host.Outcome.next (State.winCommit_of_live hlive)
  case read =>
    intro s n off len a k hhit ha hk
    exact ⟨fun hin hpaused => congrArg Host.Outcome.next (State.winRead_answers hhit ha hk hin hpaused),
      fun hin hpaused => congrArg Host.Outcome.next (State.winRead_of_paused hhit ha hin hpaused),
      fun hout => congrArg Host.Outcome.next (State.winRead_outside hhit ha hout)⟩
  case write =>
    intro s n off data hhit hin
    exact ⟨congrArg Host.Outcome.next (State.winWrite_poisoned hhit hin),
      congrArg Host.Outcome.next (State.winWrite_units hhit hin rfl rfl)⟩
  case outside =>
    intro s n off data poisoned hhit hout
    exact congrArg Host.Outcome.next (State.winWrite_outside hhit poisoned hout)

end Sys2Proof.Machine
end

section
/-!
The registers of a DMA ring (17_host R420, R421, R440): one equation for each write, taken or rejected.
-/

namespace Sys2Proof.Machine

section Ring

variable {s : State} {r n : Nat}

theorem State.dmaCtrl_of_closed (v : Nat) (h : s.ringWritable r n = false) : s.dmaCtrl r n v = s := if_neg (by simp [h])

/-- DMA_CTRL_ENABLE writes enable alone: the reset bit, bit 1, is clear in what it writes. -/
theorem bitAt_reset_setFld_enable (v : Nat) : bitAt (setFld v 0 2 1) 1 = false := by
  have hwritten : setFld v 0 2 1 = 1 + v / 4 * 4 := by
    unfold setFld
    omega
  rw [hwritten, bitAt, beq_eq_false_iff_ne]
  omega

theorem State.dmaCtrl_enables (v : Nat) (h : s.ringWritable r n = true) :
    s.dmaCtrl r n (setFld v 0 2 1) = s.modDma r (s.ctrlWritten r (setFld v 0 2 1)) := by
  simp [State.dmaCtrl, h, bitAt_reset_setFld_enable]

theorem State.dmaTail_of_closed (v : BitVec 32) (h : s.ringWritable r n = false) : s.dmaTail r n v = s := if_pos (by simp [h])

/-- A tail that posts more descriptors than the ring holds is rejected. -/
theorem State.dmaTail_of_open (v : BitVec 32) (h : s.ringWritable r n = true) :
    s.dmaTail r n v = s.modDma r fun d =>
      if 2 ^ (s.dma r).log2.toNat < (v - (s.dma r).head).toNat then { d with tailRejected := true } else { d with tail := v } := by
  simp only [State.dmaTail, h, Bool.not_true, Bool.false_eq_true, if_false]
  split <;> rfl

theorem State.circRpos_of_closed (v : BitVec 64) (h : s.ringWritable r n = false) : s.circRpos r n v = s := if_pos (by simp [h])

/-- A read position outside what has been written and not yet read is rejected. -/
theorem State.circRpos_of_open (v : BitVec 64) (h : s.ringWritable r n = true) :
    s.circRpos r n v = s.modDma r fun d =>
      if (s.dma r).rpos ≤ v ∧ v ≤ (s.dma r).wpos then { d with rpos := v } else { d with tailRejected := true } := by
  have houtside : (v < (s.dma r).rpos ∨ (s.dma r).wpos < v) ↔ ¬((s.dma r).rpos ≤ v ∧ v ≤ (s.dma r).wpos) := by
    rw [Decidable.not_and_iff_or_not, BitVec.not_le, BitVec.not_le]
  by_cases hbetween : (s.dma r).rpos ≤ v ∧ v ≤ (s.dma r).wpos
  · simp [State.circRpos, h, houtside, hbetween]
  · simp [State.circRpos, h, houtside, hbetween]

end Ring

/-- Settles O39: each register by whether its writer may write the ring. -/
theorem ringRegistersRun : Obligations.RingRegistersRun := by
  refine ⟨?control, ?tail, ?readPosition, ?closed⟩
  case control =>
    intro s r n v hopen
    exact ⟨congrArg Host.Outcome.next (State.dmaCtrl_enables v.toNat hopen), congrArg Host.Outcome.next (if_pos hopen)⟩
  case tail =>
    rintro s _ r n v m rfl
    exact ⟨fun hopen => congrArg Host.Outcome.next (State.dmaTail_of_open v hopen),
      fun hclosed => congrArg Host.Outcome.next (State.dmaTail_of_closed v hclosed)⟩
  case readPosition =>
    intro s r n v hopen
    exact congrArg Host.Outcome.next (State.circRpos_of_open v hopen)
  case closed =>
    intro s r n v hclosed
    exact ⟨congrArg Host.Outcome.next (State.dmaCtrl_of_closed _ hclosed),
      congrArg Host.Outcome.next (if_neg (by simp [hclosed])),
      congrArg Host.Outcome.next (State.circRpos_of_closed v hclosed)⟩

end Sys2Proof.Machine
end

section
/-!
PMC_CTR_WRITE and the read of a ring's status in states whose tables list a key twice (21_counters R500; 17_host R415): both obligations
range over every table, and not over those in canonical form (`twf`) alone.
-/

namespace Sys2Proof.Machine

/-- A state whose table of counters lists counter 0 twice: not a canonical table, but a state all the same. -/
def twiceCounted : State := { State.reset with pmc := { State.reset.pmc with ctr := [(0, 1), (0, 2)] } }

/-- Zero, which an unlisted counter reads as, removes the first entry; the second is then read. -/
theorem twiceCounted_reads_second : tget 0 (twiceCounted.pmcCtr 0 0).pmc.ctr 0 = 2 := by decide

/-- Refutes O36: PMC_CTR_WRITE of zero. The statement ranges over every table of counters; in `twiceCounted` counter 0 reads 2 behind the
write. -/
theorem not_countersRun : ¬ Obligations.CountersRun := by
  rintro ⟨hwrites, -⟩
  obtain ⟨t, hnext, hzero, -⟩ := hwrites twiceCounted 0 0
  have ht : twiceCounted.pmcCtr 0 0 = t := Host.Outcome.next.inj hnext
  have hread := twiceCounted_reads_second
  rw [ht] at hread
  exact absurd (hread.symm.trans hzero) (by decide)

/-- A state whose table of rings lists ring 0 twice, both times as a ring at reset that has dropped a frame: not a canonical table, but a
state all the same. -/
def twiceDropped : State :=
  { State.reset with host := { State.reset.host with
      rings := [(0, { DmaRing.init with dropped := 1 }), (0, { DmaRing.init with dropped := 1 })] } }

/-- The read makes the first entry a default one, which is removed; the second is then found, with its count. -/
theorem twiceDropped_keeps_count : ((twiceDropped.registerRead 0x200038 .eight).1.dma 0).dropped = 1 := by decide

/-- Refutes O37: the read of a ring's status. The statement ranges over every table of rings; in `twiceDropped` ring 0 has its dropped count
still behind the read. -/
theorem not_registerWritesRun : ¬ Obligations.RegisterWritesRun := by
  rintro ⟨-, -, hclears⟩
  obtain ⟨-, -, -, hring⟩ := hclears twiceDropped
  exact absurd (twiceDropped_keeps_count.symm.trans (hring 0)) (by decide)

end Sys2Proof.Machine
end

section
/-!
The self-tests (20_faults R498; 14_dram R360): how each operation starts, and how a run ends.
-/

namespace Sys2Proof.Machine

/-! ### The start of a run -/

/-- The run that a SELFTEST packet of an operation starts. -/
def selftestRun (op : Nat) (ps : List Byte) (w : Waiter) : SelftestRun :=
  { op := op, target := BitVec.ofNat 64 (leAt ps 8 8), waiter := w }

section Start

variable (w : Waiter) (p : Pkt) {ps : List Byte} {s : State} {op : Nat} (hidle : s.selftest = none) (hop : byteAt ps 0 = op)
include hidle hop

theorem doSelftest_records (hother : op ≠ 1) (hallowed : s.selftestAllowed op (leAt ps 8 8) = true) :
    doSelftest w p ps s = pendingReply { s with selftest := some (selftestRun op ps w) } := by
  simp [doSelftest, hidle, hop, hallowed, hother, selftestRun]

/-- FAULT_INJECT has no precondition (20_faults Table 20.7); it counts one occurrence of its line and handles it at severity 1. -/
theorem doSelftest_injects (hinject : op = 1) :
    doSelftest w p ps s = pendingReply ((({ s with selftest := some (selftestRun op ps w) } : State).modLine (leAt ps 8 8) fun l =>
      { l with count := l.count + 1 }).actAt (leAt ps 8 8) 0 1) := by
  subst hinject
  have hallowed : s.selftestAllowed 1 (leAt ps 8 8) = true := rfl
  simp [doSelftest, hidle, hop, hallowed, selftestRun]

end Start

/-- The row of each operation but FAULT_INJECT. -/
theorem exec_selftest {p : Pkt} {op : Nat} {c : Instr} (s : State)
    (hc : (op, c) ∈ [(0, Instr.selftestMonitors p), (2, .selftestDramResweep p), (3, .selftestDramBist p),
      (4, .selftestSerdesPrbs p), (5, .selftestPipeline p)]) : exec c s = .next (s.selftestRow op p) ∧ op ≠ 1 := by
  simp only [List.mem_cons, Prod.mk.injEq, List.not_mem_nil, or_false] at hc
  obtain ⟨rfl, rfl⟩ | ⟨rfl, rfl⟩ | ⟨rfl, rfl⟩ | ⟨rfl, rfl⟩ | ⟨rfl, rfl⟩ := hc <;> exact ⟨rfl, by decide⟩

/-! ### The end of a run -/

/-- The channels of a re-sweep settled by their sweeps. -/
def State.resweepsEnd (s : State) (m : Nat) (sweeps : List (Fin 16 × Training)) : State :=
  (List.range 16).foldl (fun (t : State) k => if bitAt m k then t.resweepEnd k sweeps else t) s

/-- Every line counted for its window from now on (20_faults R484). -/
def State.countLines (s : State) : State :=
  (List.range 48).foldl (fun (t : State) n => t.modLine n fun l => { l with countedUntil := some (t.nowPs + l.windowMs * msPs) }) s

/-- The results of a run over its targets `m`, of which `ok` pass. -/
def selftestResults (m ok : Nat) : List Byte := bytesLe 8 (m &&& ok) ++ bytesLe 8 (m &&& (m ^^^ (m &&& ok)))

section End

variable {s : State} {r : SelftestRun} (hr : s.selftest = some r) (pass : Nat) (sweeps : List (Fin 16 × Training))
include hr

theorem State.selftestEnd_of_check (hop : r.op = 0 ∨ r.op = 1) :
    s.selftestEnd pass sweeps =
      ({ s with selftest := none } : State).complete r.waiter 0 0 (selftestResults (selftestMask r.op r.target.toNat) pass) := by
  have hsweep : r.op ≠ 2 := by omega
  have hcounts : ¬2 ≤ r.op := by omega
  simp [State.selftestEnd, hr, hsweep, hcounts, State.selftestPass, selftestResults]

theorem State.selftestEnd_of_stress (hop : 2 ≤ r.op) :
    s.selftestEnd pass sweeps =
      (if r.op = 2 then ({ s with selftest := none } : State).resweepsEnd (selftestMask r.op r.target.toNat) sweeps
        else { s with selftest := none }).countLines.complete r.waiter 0 0
          (selftestResults (selftestMask r.op r.target.toNat) (s.selftestPass r.op pass sweeps)) := by
  simp only [State.selftestEnd, hr, hop, if_true]
  rfl

end End

/-- Settles O3: the start by the operation, the end by whether the run counts lines. -/
theorem selftestsComplete : Obligations.SelftestsComplete := by
  refine ⟨?start, ?inject, ?check, ?stress⟩
  case start =>
    intro s p op c hc had hidle hop hallowed
    obtain ⟨hrow, hother⟩ := exec_selftest s hc
    exact hrow.trans (congrArg Host.Outcome.next (State.runCommand_pending had (doSelftest_records _ _ hidle hop hother hallowed)))
  case inject =>
    intro s p had hidle hop
    exact congrArg Host.Outcome.next (State.runCommand_pending had (doSelftest_injects _ _ hidle hop rfl))
  case check =>
    intro s r pass sweeps hr hop
    exact congrArg Host.Outcome.next (State.selftestEnd_of_check hr pass.toNat sweeps hop)
  case stress =>
    rintro s _ _ r pass sweeps _ _ hr hop rfl rfl rfl rfl
    exact congrArg Host.Outcome.next (State.selftestEnd_of_stress hr pass.toNat sweeps hop)

end Sys2Proof.Machine
end

section
/-!
FAULT_CONFIG and FAULT_RELEASE (20_faults R484 to R487).
-/

namespace Sys2Proof.Machine

/-- FLT_FIRST cleared, with the overflow bit (20_faults R487). -/
def State.clearFirst (s : State) : State :=
  { s with flt := { s.flt with firstLine := 0, firstSrc := 0, firstValid := false, firstRound := 0, overflow := false } }

/-- The sources of a line that still assert are handled anew (20_faults R487). -/
def State.reassert (s : State) (n : Nat) : State :=
  (s.asserting n).foldl (fun (t : State) k => t.occurAt n (BitVec.ofNat 13 k)) s.settleGrace

/-- A line released: its containment lifted, its latch clear, its sticky bits too where asked, and counted from now on for its window. -/
def State.releaseLine (s : State) (n : Nat) (clearSticky : Bool) : State :=
  (s.liftContainment n).modLine n fun l => { l with
    latched := false
    sticky := if clearSticky then 0 else l.sticky
    countedUntil := some ((s.liftContainment n).nowPs + l.windowMs * msPs) }

theorem doFaultRelease_releases {w : Waiter} {p : Pkt} {ps : List Byte} {s : State}
    (hover : s.conditionHolds (fld (img ps) 0 6) = false) :
    doFaultRelease w p ps s = ok ((if bitAt (img ps) 8 then (s.releaseLine (fld (img ps) 0 6) (bitAt (img ps) 9)).clearFirst
      else s.releaseLine (fld (img ps) 0 6) (bitAt (img ps) 9)).reassert (fld (img ps) 0 6)) := by
  simp only [doFaultRelease, hover, Bool.false_eq_true, if_false]
  rfl

/-- Settles O31: each command by the equation of its handler. -/
theorem faultCommandsComplete : Obligations.FaultCommandsComplete := by
  refine ⟨?config, ?release⟩
  case config =>
    intro s p had
    exact congrArg Host.Outcome.next (State.runCommand_ok had rfl)
  case release =>
    rintro s _ _ p _ had rfl rfl hover rfl
    have hreleases := doFaultRelease_releases (w := s.waiterOf 0x0901 p) (p := p) hover
    refine ⟨fun hkeep => ?_, fun hclear => ?_⟩
    · rw [hkeep] at hreleases
      exact congrArg Host.Outcome.next (State.runCommand_ok had hreleases)
    · rw [hclear] at hreleases
      exact congrArg Host.Outcome.next (State.runCommand_ok had hreleases)

end Sys2Proof.Machine
end

section
/-!
The fault events (20_faults R480 to R490; 03_islands R89): occurrences by whether their line is counted, timers, the safe state, and the
loss of a lock.
-/

namespace Sys2Proof.Machine

/-! ### Occurrences (20_faults R480 to R483) -/

/-- The window of a line behind one more occurrence: its start, and the occurrences in it. -/
def State.windowNow (s : State) (n : Nat) : Nat × Nat :=
  match (s.line n).window with
  | some (t, k) => if s.nowPs < t + (s.line n).windowMs * msPs then (t, k + 1) else (s.nowPs, 1)
  | none => (s.nowPs, 1)

/-- One more occurrence of a line counted. -/
def State.countOccurrence (s : State) (n : Nat) : State := s.modLine n fun l => { l with count := l.count + 1 }

section Occurrence

variable {s u : State} {n : Nat} (src : BitVec 13) (hn : reservedLine n = false) (h48 : n < 48) (hu : s.countOccurrence n = u)
include hn h48 hu

theorem State.occur_of_safe (hsafe : u.flt.safe = true) : s.occur n src = u.capture n src := by
  subst hu
  rw [State.occur, if_neg (by simp [hn, h48])]
  exact if_pos hsafe

theorem State.occur_of_uncounted (hsafe : u.flt.safe = false) (hcounted : u.lineCounted n = false) :
    s.occur n src = u.actAt n src (u.line n).severity := by
  subst hu
  rw [State.occur, if_neg (by simp [hn, h48])]
  exact (if_neg (ne_true_of_eq_false hsafe)).trans (if_neg (ne_true_of_eq_false hcounted))

theorem State.occur_of_counted (hsafe : u.flt.safe = false) (hcounted : u.lineCounted n = true) :
    s.occur n src =
      if (u.line n).countN ≤ (u.windowNow n).2 then (u.modLine n fun l => { l with window := none }).actAt n src (u.line n).severity
      else (u.modLine n fun l => { l with window := some (u.windowNow n) }).actAt n src 1 := by
  subst hu
  rw [State.occur, if_neg (by simp [hn, h48])]
  exact (if_neg (ne_true_of_eq_false hsafe)).trans (if_pos hcounted)

end Occurrence

/-- At severity 0 an occurrence is counted alone. -/
theorem State.actAt_zero (s : State) (n : Nat) (src : BitVec 13) : s.actAt n src 0 = s := rfl

/-- An occurrence that leaves no channel to report is its line's alone. -/
theorem State.occurAt_of_single {s : State} {n : Nat} {src : BitVec 13} (h : n ≠ 31 ∨ s.chanOut (src.toNat % 16) = true) :
    s.occurAt n src = s.occur n src := by
  refine if_neg ?_
  rintro ⟨h31, hin⟩
  obtain hne | hout := h
  · exact hne h31
  · simp [hout] at hin

/-- Line 31 loses no record and no word, so its channel is the one that the state had. -/
theorem State.faultOccurs_of_single {s t : State} {n : Nat} {src : BitVec 13}
    (h : n ≠ 31 ∨ s.chanOut (src.toNat % 16) = true)
    (ht : (if n = 10 then s.stagedLost else if n = 35 then s.wordLost src.toNat else s) = t) :
    s.faultOccurs n src = t.occur n src := by
  rw [State.faultOccurs, ht]
  refine State.occurAt_of_single ?_
  by_cases h31 : n = 31
  · subst h31
    exact (show s = t from ht) ▸ h
  · exact .inl h31

/-- Line 32 follows where line 31 takes its channel out of service. -/
theorem State.faultOccurs_of_channel {s : State} {src : BitVec 13} (hin : s.chanOut (src.toNat % 16) = false) :
    s.faultOccurs 31 src =
      if (s.occur 31 src).chanOut (src.toNat % 16) then (s.occur 31 src).occur 32 (BitVec.ofNat 13 (src.toNat % 16))
      else s.occur 31 src := by
  rw [State.faultOccurs, State.occurAt]
  exact if_pos ⟨rfl, by simp [hin]⟩

/-! ### Timers and the watchdog (20_faults R483, R486, Table 20.1) -/

theorem State.windowClose_due {s : State} {n t k : Nat} (hw : (s.line n).window = some (t, k))
    (hdue : s.due (t + (s.line n).windowMs * msPs) = true) :
    s.windowClose n = (s.reach (t + (s.line n).windowMs * msPs)).modLine n fun l => { l with window := none } := by
  rw [State.windowClose, hw]
  exact if_pos hdue

theorem State.cmdWatchdog_runs {s : State} {c : CmdPort} (hcmd : (s.ctx c).cmd.isSome = true) (hst : (s.ctx c).st ≠ .idle)
    (hfinal : (s.ctx c).finalSent = false) (hcause : (s.ctx c).cause ≠ 4) :
    s.cmdWatchdog c = s.occur 42 (BitVec.ofNat 13 (portNum c)) :=
  if_pos (by simpa [hcmd, hst, hfinal] using hcause)

/-! ### The safe state (20_faults R488, R490) -/

theorem State.enterSafe_safe {s : State} (cause line : Nat) (src : BitVec 13) (hsafe : s.flt.safe = false) :
    (s.enterSafe cause line src false).flt.safe = true := by
  rw [State.enterSafe, if_neg (ne_true_of_eq_false hsafe)]
  rfl

theorem State.looseStatus_safe (s : State) : s.looseStatus.flt.safe = s.flt.safe := by
  unfold State.looseStatus
  dsimp only
  exact foldl_invariant (π := fun t : State => t.flt.safe) (fun _ _ => rfl) _ (List.range 48)

theorem State.collectorFault_safe {s : State} (cause : Nat) (hsafe : s.flt.safe = false) : (s.collectorFault cause).flt.safe = true :=
  (State.looseStatus_safe _).trans (State.enterSafe_safe cause 0 0 hsafe)

theorem State.graceExpires_over {s : State} {t : Nat} (hend : s.flt.graceEnd = some t) (hover : t ≤ s.nowPs) :
    s.graceExpires = s.enterSafe 1 s.flt.graceLine s.flt.graceSrc false := by
  rw [State.graceExpires, hend]
  exact if_pos hover

/-! ### Loss of a lock (03_islands R89) -/

/-- The state with an island's PLL without lock. -/
def State.lockLost (s : State) (i : Fin 112) : State := { s with tt := { s.tt with pllLost := i :: s.tt.pllLost } }

section Lock

variable {s : State} {i : Fin 112} (hlocked : i ∉ s.tt.pllLost)
include hlocked

/-- The line of an island that is up, other than the monitor's, whose PLL had its lock. -/
theorem State.pllLoss_of_up (hlast : i.val < 107) (hport : 16 ≤ i.val → i.val < 80 → s.islandDown (i.val - 16) = false)
    (hchan : 86 ≤ i.val → i.val < 102 → (s.chan (i.val - 86)).down = false) (hmgmt : i.val = 105 → s.mgmt.powered = true) :
    s.pllLoss i =
      if 16 ≤ i.val ∧ i.val < 80 then (s.lockLost i).occurAt 0 (BitVec.ofNat 13 (i.val - 16))
      else if 86 ≤ i.val ∧ i.val < 102 then (s.lockLost i).occurAt 31 (BitVec.ofNat 13 (i.val - 86))
      else (s.lockLost i).occurAt 1 (BitVec.ofNat 13 (islandCode i.val)) := by
  have hknown : ¬108 ≤ i.val := by omega
  have hportUp : ¬(16 ≤ i.val ∧ i.val < 80 ∧ s.islandDown (i.val - 16) = true) :=
    fun ⟨hmin, hmax, hdown⟩ => Bool.false_ne_true ((hport hmin hmax).symm.trans hdown)
  have hchanUp : ¬(86 ≤ i.val ∧ i.val < 102 ∧ (s.chan (i.val - 86)).down = true) :=
    fun ⟨hmin, hmax, hdown⟩ => Bool.false_ne_true ((hchan hmin hmax).symm.trans hdown)
  have hmgmtUp : ¬(i.val = 105 ∧ (!s.mgmt.powered) = true) := fun ⟨h, hoff⟩ => by simp [hmgmt h] at hoff
  have hmonitor : i.val ≠ 107 := by omega
  rw [State.pllLoss, if_neg hknown, if_neg hportUp, if_neg hchanUp, if_neg hmgmtUp, if_neg hmonitor]
  simp [State.lockLost, hlocked]

theorem State.pllLoss_of_port (hmin : 16 ≤ i.val) (hmax : i.val < 80) (hup : s.islandDown (i.val - 16) = false) :
    s.pllLoss i = (s.lockLost i).occurAt 0 (BitVec.ofNat 13 (i.val - 16)) :=
  (State.pllLoss_of_up hlocked (by omega) (fun _ _ => hup) (by omega) (by omega)).trans (if_pos ⟨hmin, hmax⟩)

theorem State.pllLoss_of_channel (hmin : 86 ≤ i.val) (hmax : i.val < 102) (hup : (s.chan (i.val - 86)).down = false) :
    s.pllLoss i = (s.lockLost i).occurAt 31 (BitVec.ofNat 13 (i.val - 86)) :=
  (State.pllLoss_of_up hlocked (by omega) (by omega) (fun _ _ => hup) (by omega)).trans
    ((if_neg (by omega)).trans (if_pos ⟨hmin, hmax⟩))

theorem State.pllLoss_of_core
    (hcore : i.val < 16 ∨ (80 ≤ i.val ∧ i.val < 86) ∨ (102 ≤ i.val ∧ i.val < 107 ∧ (i.val = 105 → s.mgmt.powered = true))) :
    s.pllLoss i = (s.lockLost i).occurAt 1 (BitVec.ofNat 13 (islandCode i.val)) := by
  have hmgmt : i.val = 105 → s.mgmt.powered = true := fun h105 => by
    obtain hlow | ⟨-, hmid⟩ | ⟨-, -, hpowered⟩ := hcore
    · omega
    · omega
    · exact hpowered h105
  exact (State.pllLoss_of_up hlocked (by omega) (by omega) (by omega) hmgmt).trans ((if_neg (by omega)).trans (if_neg (by omega)))

end Lock

/-- Settles O32: an occurrence by whether its line is counted, the others by their one case. The model's choices among them: an occurrence
of line 35 stands for a double-bit error in the word that the base routine of the source's context fetches, and ends that command (log
entry 93); the islands are numbered 0 to 107 in the order of 03_islands Table 3.1, the monitor's last (log entry 97). -/
theorem faultEventsRun : Obligations.FaultEventsRun := by
  refine ⟨?occurrence, ?channel, ?window, ?grace, ?collector, ?watchdog, ?lock, ?monitor⟩
  case occurrence =>
    intro s t u n src hn hsingle ht hu
    have hocc : exec (.faultOccurrence n src) s = .next (t.occur n.val src) :=
      congrArg Host.Outcome.next (State.faultOccurs_of_single hsingle ht)
    have huncounted := fun hsafe hcounted =>
      hocc.trans (congrArg Host.Outcome.next (State.occur_of_uncounted src hn n.isLt hu hsafe hcounted))
    refine ⟨fun hsafe => ?safe, huncounted, fun hsafe hcounted hsev => ?zero, ?counted⟩
    case safe => exact hocc.trans (congrArg Host.Outcome.next (State.occur_of_safe src hn n.isLt hu hsafe))
    case zero =>
      have hacts := huncounted hsafe hcounted
      rw [hsev] at hacts
      exact hacts
    case counted =>
      rintro _ hsafe hcounted rfl
      have hacts := hocc.trans (congrArg Host.Outcome.next (State.occur_of_counted src hn n.isLt hu hsafe hcounted))
      exact ⟨fun hfull => hacts.trans (congrArg Host.Outcome.next (if_pos hfull)),
        fun hshort => hacts.trans (congrArg Host.Outcome.next (if_neg (Nat.not_le.2 hshort)))⟩
  case channel =>
    rintro s _ src hin rfl
    have hocc := State.faultOccurs_of_channel hin
    exact ⟨fun hout => congrArg Host.Outcome.next (hocc.trans (if_pos hout)),
      fun hstays => congrArg Host.Outcome.next (hocc.trans (if_neg (ne_true_of_eq_false hstays)))⟩
  case window =>
    intro s n t k hw hdue
    exact congrArg Host.Outcome.next (State.windowClose_due hw hdue)
  case grace =>
    intro s a t hend hover hsafe
    exact ⟨_, congrArg Host.Outcome.next (State.graceExpires_over hend hover), State.enterSafe_safe _ _ _ hsafe⟩
  case collector =>
    intro s a hsafe
    exact ⟨⟨_, rfl, State.collectorFault_safe 4 hsafe⟩, ⟨_, rfl, State.collectorFault_safe 3 hsafe⟩⟩
  case watchdog =>
    intro s c hcmd hst hfinal hcause
    exact congrArg Host.Outcome.next (State.cmdWatchdog_runs hcmd hst hfinal hcause)
  case lock =>
    rintro s _ i hlocked rfl
    exact ⟨fun hmin hmax hup => congrArg Host.Outcome.next (State.pllLoss_of_port hlocked hmin hmax hup),
      fun hmin hmax hup => congrArg Host.Outcome.next (State.pllLoss_of_channel hlocked hmin hmax hup),
      fun hcore => congrArg Host.Outcome.next (State.pllLoss_of_core hlocked hcore)⟩
  case monitor =>
    intro s hsafe
    exact ⟨_, rfl, State.collectorFault_safe 4 hsafe⟩

end Sys2Proof.Machine
end

section
/-!
Holdoffs and masks of the event unit, sensors, shedding and voltages (20_faults R492 to R495; 17_host R441), and the round boundary
(02_timetable R30).
-/

namespace Sys2Proof.Machine

/-! ### Holdoffs and masks (20_faults R492; 17_host R441) -/

section Holdoff

variable {s : State} {k t : Nat} (hend : (s.evt k).until_ = some t) (hdue : s.due t = true)
include hend hdue

theorem State.holdoffEnd_owed (howed : (s.evt k).owed = true) :
    s.holdoffEnd k = ((s.reach t).modEvt k fun e =>
      { e with until_ := if e.holdoff = 0 then none else some (t + e.holdoff.toNat * usPs), owed := false }).msix
        (s.evtFn k) (s.evt k).vector.toNat := by
  simp [State.holdoffEnd, hend, hdue, howed]

theorem State.holdoffEnd_quiet (howed : (s.evt k).owed = false) :
    s.holdoffEnd k = (s.reach t).modEvt k fun e => { e with until_ := none } := by
  simp [State.holdoffEnd, hend, hdue, howed]

end Holdoff

/-! ### Sensors and shedding (20_faults R493, R494) -/

/-- A sensor behind a reading: 95, 105 and 115 °C begin its conditions, and 2 °C below ends one. -/
def Sensor.readAs (u : Sensor) (r : BitVec 16) : Sensor where
  reading := r
  maximum := if sgn 16 u.maximum.toNat < sgn 16 r.toNat then r else u.maximum
  warn := if u.warn then decide (744 < sgn 16 r.toNat) else decide (760 ≤ sgn 16 r.toNat)
  alarm := if u.alarm then decide (824 < sgn 16 r.toNat) else decide (840 ≤ sgn 16 r.toNat)
  trip := if u.trip then decide (904 < sgn 16 r.toNat) else decide (920 ≤ sgn 16 r.toNat)

/-- A line's occurrence where a condition holds that did not hold before. -/
def State.occurIfRises (s : State) (line k : Nat) (now was : Bool) : State :=
  if now && !was then s.occur line (BitVec.ofNat 13 k) else s

theorem State.sensorRead_eq (s : State) (k : Nat) (r : BitVec 16) :
    s.sensorRead k r =
      ((((s.modSensor k fun _ => (s.sensor k).readAs r).occurIfRises 24 k ((s.sensor k).readAs r).warn (s.sensor k).warn).occurIfRises 25 k
        ((s.sensor k).readAs r).alarm (s.sensor k).alarm).occurIfRises 26 k ((s.sensor k).readAs r).trip (s.sensor k).trip).settleDrift := rfl

section Shed

variable {s : State} {t : Nat} (hat : s.flt.shedAt = some t) (hdue : s.due t = true)
include hat hdue

/-- The next shed interval set, and a group shed while a sensor is at the alarm. -/
theorem State.shedCheck_due {u : State}
    (hu : { s.reach t with flt := { (s.reach t).flt with shedAt := some (t + ((s.reach t).line 25).graceUs * usPs) } } = u) :
    s.shedCheck = if (List.range 32).any fun k => decide (840 ≤ sgn 16 (s.sensor k).reading.toNat) then u.shedOne else u := by
  subst hu
  rw [State.shedCheck, hat]
  exact if_neg (by simp [hdue])

end Shed

/-! ### Voltages (20_faults R495) -/

/-- The samples in succession beyond `p` per cent of the target, up to four. -/
def runBeyond (p target : Nat) (mv : BitVec 16) (run : Nat) : Nat := if beyond p target mv.toNat then min 4 (run + 1) else 0

/-- Four samples are reached. -/
theorem State.occurIfRises_four (s : State) (line k now was : Nat) :
    s.occurIfRises line k (now == 4) (was == 4) = if now = 4 ∧ was ≠ 4 then s.occur line (BitVec.ofNat 13 k) else s :=
  if_congr (by simp) rfl rfl

theorem State.voltageSample_eq {s u v : State} {k : Nat} {mv : BitVec 16} {r3 r6 : Nat}
    (h3 : r3 = runBeyond 3 (s.railTarget k) mv (s.volt k).run3) (h6 : r6 = runBeyond 6 (s.railTarget k) mv (s.volt k).run6)
    (hu : (s.modVolt k fun _ => { mv := mv, run3 := r3, run6 := r6, warn := r3 == 4, fail := r6 == 4 }) = u)
    (hv : (if r3 = 4 ∧ (s.volt k).run3 ≠ 4 then u.occur 27 (BitVec.ofNat 13 k) else u) = v) :
    s.voltageSample k mv = if r6 = 4 ∧ (s.volt k).run6 ≠ 4 then v.occur 28 (BitVec.ofNat 13 k) else v := by
  rw [← State.occurIfRises_four] at hv ⊢
  subst h3 h6 hu hv
  rfl

/-! ### The round boundary (02_timetable R30) -/

/-- What the round number and the instant in the round are. -/
def State.clock (s : State) : BitVec 64 × Nat := (s.tt.round, s.off8)

@[simp] theorem State.settleLatch_clock (s : State) : s.settleLatch.clock = s.clock := by
  unfold State.settleLatch State.latchTo
  split
  · dsimp only
    split <;> rfl
  · rfl

@[simp] theorem State.applyGenPull_clock (s : State) : s.applyGenPull.clock = s.clock := by
  unfold State.applyGenPull
  split
  · split
    · rfl
    · dsimp only
      split <;> rfl
  · rfl

@[simp] theorem State.sendState_clock (s : State) : s.sendState.clock = s.clock := by
  unfold State.sendState
  split <;> rfl

/-- What takes effect at a boundary leaves the clock as the boundary set it. -/
theorem State.boundaryEffects_clock (s : State) :
    s.applyRates.settleGates.settleLatch.applyGenPull.sendState.clock = s.clock := by
  simp only [State.sendState_clock, State.applyGenPull_clock, State.settleLatch_clock]
  rfl

theorem State.roundBoundary_runs {s u : State} (hphase : 4 ≤ s.boot.phase) (hfailed : s.boot.failed = false)
    (hwarm : s.boot.warmLow = false) (hu : s.closeRound.advanceTime = u) :
    s.roundBoundary = ({ u with
      off8 := 0
      tt := { u.tt with round := u.tt.round + 1 }
      pmc := { u.pmc with inForce := u.pmc.cfg } } : State).applyRates.settleGates.settleLatch.applyGenPull.sendState := by
  subst hu
  exact if_neg (by simpa [hfailed, hwarm] using hphase)

/-- Settles O33: each event by its one case. The model's choices among them: warn and fail of a rail are readings of the moment, and clear
once a sample is in range (log entry 56); a generation that the standby has pulled is applied at a boundary (log entry 137). -/
theorem monitorsAndEventsRun : Obligations.MonitorsAndEventsRun := by
  refine ⟨?holdoff, ?mask, ?sensor, ?shed, ?voltage, ?boundary⟩
  case holdoff =>
    intro s k t hend hdue
    exact ⟨fun howed => congrArg Host.Outcome.next (State.holdoffEnd_owed hend hdue howed),
      fun hquiet => congrArg Host.Outcome.next (State.holdoffEnd_quiet hend hdue hquiet)⟩
  case mask =>
    intro s fn v
    exact ⟨rfl, fun hv => congrArg Host.Outcome.next (if_pos hv)⟩
  case sensor =>
    rintro s _ _ _ _ k r a _ rfl rfl rfl rfl rfl
    exact congrArg Host.Outcome.next (State.sensorRead_eq ..)
  case shed =>
    intro s u t hat hdue hu
    have hcheck := State.shedCheck_due hat hdue hu
    refine ⟨fun ⟨k, hk, hhot⟩ => congrArg Host.Outcome.next (hcheck.trans (if_pos ?_)),
      fun hcool => congrArg Host.Outcome.next (hcheck.trans (if_neg ?_))⟩
    · exact List.any_eq_true.2 ⟨k, List.mem_range.2 hk, decide_eq_true hhot⟩
    · simpa using hcool
  case voltage =>
    intro s u v k mv r3 r6 h3 h6 hu hv
    exact congrArg Host.Outcome.next (State.voltageSample_eq h3 h6 hu hv)
  case boundary =>
    rintro s u _ hphase hfailed hwarm hu rfl
    have hclock := State.boundaryEffects_clock ({ u with
      off8 := 0
      tt := { u.tt with round := u.tt.round + 1 }
      pmc := { u.pmc with inForce := u.pmc.cfg } } : State)
    exact ⟨congrArg Host.Outcome.next (State.roundBoundary_runs hphase hfailed hwarm hu), congrArg Prod.fst hclock,
      congrArg Prod.snd hclock⟩

end Sys2Proof.Machine
end

section
/-!
The commands of the virtual instances (18_instances R444, R446, R450 to R452): what each handler answers.
-/

namespace Sys2Proof.Machine

/-- The rings and ports of a block handed to number `n`, which becomes ACTIVE. -/
def State.createInst (s : State) (n : Nat) (h : n < 64) (ps : List Byte) (rings : List Nat) : State :=
  ((blkPorts ps).foldl (fun (t : State) lp => { t with portOwner := tset 0 t.portOwner lp n })
    (rings.foldl (fun (t : State) r => t.modDma r fun d => { d with owner := ⟨n, h⟩ }) s)).modInst n fun i =>
      { i with st := .active, ringFirst := blkFirst ps, ringCount := blkCount ps }

section Handlers

variable {w : Waiter} {p : Pkt} {s : State}

theorem doInstCreate_creates {ps : List Byte} {n : Nat} {h : n < 64} {rings : List Nat} (hp : whole p) (hn : blkInst ps = n)
    (hrings : rings = (List.range (blkCount ps)).map (· + blkFirst ps)) (habsent : (s.inst n).st = .absent)
    (hring : ∀ r ∈ rings, (s.dma r).owner.val = 0 ∧ (s.dma r).enable = false) (hport : ∀ lp ∈ blkPorts ps, s.ownerOf lp = 0)
    (hd0 : anyQuantum ps = true → s.d0Writable = true) :
    doInstCreate w p ps s = ok ((s.createInst n h ps rings).resize n 15 ps) := by
  have howner : (rings.any fun r => (s.dma r).owner.val != 0) = false :=
    List.any_eq_false.2 fun r hr => by simp [(hring r hr).1]
  have henable : (rings.any fun r => (s.dma r).enable) = false := List.any_eq_false.2 fun r hr => by simp [(hring r hr).2]
  have hfree : ((blkPorts ps).any fun lp => s.ownerOf lp != 0) = false := List.any_eq_false.2 fun lp hl => by simp [hport lp hl]
  have hwrites : (anyQuantum ps && !s.d0Writable) = false := by
    rw [Bool.and_eq_false_imp]
    exact fun hq => by rw [hd0 hq]; rfl
  subst hn
  simp only [doInstCreate, ← hrings, habsent, howner, henable, hfree, hwrites, d0Units_of_whole hp]
  simp [h, State.createInst]

theorem doInstResize_writes {ps : List Byte} (hp : whole p) (hpresent : (s.inst (blkInst ps)).st ≠ .absent)
    (hfence : (s.inst (blkInst ps)).st ≠ .fencing)
    (hd0 : bitAt (byteAt ps 1) 1 = true → anyQuantum ps = true → s.d0Writable = true) :
    doInstResize w p ps s = ok (s.resize (blkInst ps) (byteAt ps 1) ps) := by
  have hwrites : (bitAt (byteAt ps 1) 1 && anyQuantum ps && !s.d0Writable) = false := by
    rw [Bool.and_eq_false_imp, Bool.and_eq_true]
    exact fun ⟨hbit, hq⟩ => by rw [hd0 hbit hq]; rfl
  simp [doInstResize, hpresent, hfence, hwrites, d0Units_of_whole hp]

theorem doQuiesce_quiesces {ps : List Byte} (hop : byteAt ps 1 = 0) (hactive : (s.inst (blkInst ps)).st = .active) :
    doQuiesce w p ps s = pendingReply (s.modInst (blkInst ps) fun i => { i with st := .quiescing, quiesceWait := some w }) := by
  simp [doQuiesce, hop, hactive]

/-- RESUME makes it ACTIVE again, and answers the INST_QUIESCE that waits. -/
def State.resumeInst (s : State) (n : Nat) : State :=
  let v := s.modInst n fun i => { i with st := .active, quiesceWait := none }
  match (s.inst n).quiesceWait with
  | some x => v.complete x 0 0 []
  | none => v

theorem doQuiesce_resumes {ps : List Byte} (hop : byteAt ps 1 = 1)
    (hst : (s.inst (blkInst ps)).st = .quiescing ∨ (s.inst (blkInst ps)).st = .quiesced) :
    doQuiesce w p ps s = ok (s.resumeInst (blkInst ps)) := by
  have hheld : ((s.inst (blkInst ps)).st != .quiescing && (s.inst (blkInst ps)).st != .quiesced) = false := by
    rcases hst with h | h <;> rw [h] <;> rfl
  simp only [doQuiesce, hop, hheld]
  rfl

theorem doInstReset_begins {ps : List Byte} {remove : Bool} (hpresent : (s.inst (blkInst ps)).st ≠ .absent)
    (hfence : (s.inst (blkInst ps)).st ≠ .fencing) (hremove : remove = true → (s.inst (blkInst ps)).st = .quiesced)
    (hwait : (s.inst (blkInst ps)).resetWait = none) :
    doInstReset remove w p ps s = pendingReply (s.beginReset (blkInst ps) w) := by
  have hr : (remove && (s.inst (blkInst ps)).st != .quiesced) = false := by
    rw [Bool.and_eq_false_imp]
    exact fun h => by rw [hremove h]; rfl
  simp [doInstReset, hpresent, hfence, hr, hwait]

end Handlers

/-- Settles O27: each command through its handler's answer. The answer that RESUME gives to the INST_QUIESCE that waits is the
model's choice (log entry 30). -/
theorem instanceCommandsComplete : Obligations.InstanceCommandsComplete := by
  unfold Obligations.InstanceCommandsComplete
  refine ⟨?create, ?resize, ?quiesce, ?resume, ?reset, ?remove⟩
  case create =>
    intro s u p n h rings had hu hp hn hrings habsent hring hport hd0
    subst hu
    exact congrArg Host.Outcome.next
      (State.runCommand_ok had (doInstCreate_creates (h := h) hp hn hrings habsent hring hport hd0))
  case resize =>
    intro s u p had hu hp hpresent hfence hd0
    subst hu
    exact congrArg Host.Outcome.next (State.runCommand_ok had (doInstResize_writes hp hpresent hfence hd0))
  case quiesce =>
    intro s u p q hq had hu hop hactive
    subst hq hu
    exact congrArg (fun t : State => Host.Outcome.next t.settleInst)
      (State.runCommand_pending had (doQuiesce_quiesces hop hactive))
  case resume =>
    intro s u p q hq had hu hop hst
    subst hq hu
    exact congrArg (fun t : State => Host.Outcome.next t.settleInst) (State.runCommand_ok had (doQuiesce_resumes hop hst))
  case reset =>
    intro s u p had hu hpresent hfence hwait
    subst hu
    exact congrArg Host.Outcome.next
      (State.runCommand_pending had (doInstReset_begins (remove := false) hpresent hfence nofun hwait))
  case remove =>
    intro s u p had hu hst hwait
    subst hu
    exact congrArg Host.Outcome.next (State.runCommand_pending had (doInstReset_begins (remove := true)
      (by rw [hst]; decide) (by rw [hst]; decide) (fun _ => hst) hwait))

end Sys2Proof.Machine
end

section
/-!
Cold reset, the SerDes groups, the end of start-up, warm reset and the test port (22_board R524, R525, R528, R529).
-/

namespace Sys2Proof.Machine

/-- A changed entry reads back, whatever the table's form, where the changed entry is not the one that a table leaves out. -/
theorem tget_tmod_of_ne {α : Type} [DecidableEq α] (d : α) (t : Tbl α) (k : Nat) (f : α → α) (h : f (tget d t k) ≠ d) :
    tget d (tmod d t k f) k = f (tget d t k) := by
  rw [tmod, tset, if_neg h, tget_tput_same]

/-! ### Cold reset (22_board R524) -/

theorem State.coldReset_strapTest {b : Board} (s : State) (hstrap : b.straps.getLsbD 5 = true) :
    s.coldReset b = { s.powerCycle with boot := { s.powerCycle.boot with straps := b.straps } } := by
  rw [State.coldReset, if_pos hstrap]

section Boot

variable {s u : State} {b : Board} (hstrap : b.straps.getLsbD 5 = false) (hu : (s.powerCycle.bootMonitors b).bootFlash b = u)
include hstrap hu

theorem State.coldReset_boots (hslot : u.boot.failed = false) :
    s.coldReset b = (({ u with cmd := { u.cmd with bootNonce := b.nonce } } : State).bootIslands).bootDram b.dimms := by
  subst hu
  exact (if_neg (Bool.eq_false_iff.1 hstrap)).trans (if_neg (Bool.eq_false_iff.1 hslot))

theorem State.coldReset_fails (hslot : u.boot.failed = true) : s.coldReset b = u := by
  subst hu
  exact (if_neg (Bool.eq_false_iff.1 hstrap)).trans (if_pos hslot)

end Boot

theorem State.bootFlash_phase (s : State) (b : Board) : (s.bootFlash b).boot.phase = 3 := by
  unfold State.bootFlash
  split <;> rfl

/-! ### SerDes groups and the end of start-up (22_board R524) -/

/-- The macros of a group brought up. -/
def State.serdesRaised (s : State) (g n : Nat) : State :=
  (List.range n).foldl (fun (s : State) i => s.modMacro (8 * g + i) fun m => { m with serdesUp := true }) s

theorem State.serdesRaised_succ (s : State) (g n : Nat) :
    s.serdesRaised g (n + 1) = (s.serdesRaised g n).modMacro (8 * g + n) fun m => { m with serdesUp := true } := by
  rw [State.serdesRaised, List.range_succ, List.foldl_append]; rfl

theorem State.serdesRaised_boot (s : State) (g n : Nat) : (s.serdesRaised g n).boot = s.boot := by
  unfold State.serdesRaised
  exact foldl_invariant (π := State.boot) (fun t i => State.modMacro_boot t (8 * g + i) _) s _

theorem State.serdesRaised_serdesUp (s : State) (g n : Nat) {i : Nat} (hi : i < n) :
    ((s.serdesRaised g n).macro_ (8 * g + i)).serdesUp = true := by
  induction n with
  | zero => omega
  | succ n ih =>
    rw [State.serdesRaised_succ]
    have hset : ∀ m : Macro, ({ m with serdesUp := true } : Macro) ≠ Macro.init := fun m h => by
      simpa [Macro.init] using congrArg Macro.serdesUp h
    by_cases hlast : i = n
    · subst hlast
      rw [State.macro_, State.modMacro_macros, tget_tmod_of_ne _ _ _ _ (hset _)]
    · have hother : 8 * g + i ≠ 8 * g + n := by omega
      rw [State.macro_, State.modMacro_macros, tget_tmod_other _ _ _ hother]
      exact ih (by omega)

/-- The groups below are up. -/
theorem serdesBelow_up {e u : BitVec 8} {g : Nat} :
    ((List.range g).any fun i => e.getLsbD i && !u.getLsbD i) = false ↔ ∀ i < g, e.getLsbD i = true → u.getLsbD i = true := by
  simp [List.any_eq_false]

theorem State.serdesGroup_next {s : State} {g : Nat} (hphase : 4 ≤ s.boot.phase) (hwarm : s.boot.warmLow = false)
    (henabled : s.boot.serdesEnabled.getLsbD g = true) (hdown : s.boot.serdesUp.getLsbD g = false)
    (hbelow : ∀ i < g, s.boot.serdesEnabled.getLsbD i = true → s.boot.serdesUp.getLsbD i = true) :
    s.serdesGroup g = ({ s with boot := { s.boot with
      serdesUp := s.boot.serdesUp ||| BitVec.ofNat 8 (2 ^ g) } } : State).serdesRaised g 8 := by
  have hp : ¬s.boot.phase < 4 := by omega
  exact if_neg (by simp only [hp, hwarm, henabled, hdown, serdesBelow_up.2 hbelow]; decide)

theorem State.serdesGroup_waits {s : State} {g : Nat}
    (hwait : s.boot.phase < 4 ∨ s.boot.warmLow = true ∨ s.boot.serdesEnabled.getLsbD g = false ∨ s.boot.serdesUp.getLsbD g = true ∨
      ∃ i < g, s.boot.serdesEnabled.getLsbD i = true ∧ s.boot.serdesUp.getLsbD i = false) :
    s.serdesGroup g = s := by
  refine if_pos ?_
  simpa [List.any_eq_true] using hwait

theorem State.startupComplete_ends {s : State} (hphase : 4 ≤ s.boot.phase) (hwarm : s.boot.warmLow = false)
    (hdone : s.boot.done = false) (hgroups : s.boot.serdesUp = s.boot.serdesEnabled)
    (htrained : ∀ k < 16, (s.chan k).st ≠ .training) :
    s.startupComplete = { s with boot := { s.boot with done := true, phase := 10 } } := by
  refine if_neg ?_
  have hp : ¬s.boot.phase < 4 := by omega
  simpa [hp, hwarm, hdone, hgroups] using htrained

theorem State.startupComplete_waits {s : State}
    (hwait : s.boot.phase < 4 ∨ s.boot.warmLow = true ∨ s.boot.done = true ∨ s.boot.serdesUp ≠ s.boot.serdesEnabled ∨
      ∃ k < 16, (s.chan k).st = .training) : s.startupComplete = s := by
  refine if_pos ?_
  simpa [List.any_eq_true] using hwait

/-! ### Warm reset and the test port (22_board R525, R528, R529) -/

theorem State.warmReset_keeps {s : State} (hphase : 4 ≤ s.boot.phase) (hslot : s.boot.failed = false) :
    s.warmReset = s.stopTransmit.cabinetSafe.warmKeep :=
  if_neg (by simp [hslot, hphase])

theorem State.warmReset_unbooted {s : State} (hphase : s.boot.phase < 4 ∨ s.boot.failed = true) : s.warmReset = s := if_pos hphase

theorem State.warmRelease_low {s : State} (ds : List (Fin 16 × List Int)) (hlow : s.boot.warmLow = true) :
    s.warmRelease ds = (
      let t := ((((({ s with boot := { s.boot with warmLow := false } } : State).restoreTables).selfRefresh false).calibrateRanks
        ds).bootIslands)
      (t.ports.map (·.1)).foldl (fun (u : State) lp => u.restorePort lp) t) :=
  if_neg (by simp [hlow])

theorem State.warmRelease_high {s : State} (ds : List (Fin 16 × List Int)) (hhigh : s.boot.warmLow = false) : s.warmRelease ds = s :=
  if_pos (by simp [hhigh])

theorem State.ownerProgram_blows {s : State} {vpp low : Bool} (k : BitVec 256) (hvpp : vpp = true) (hlow : low = true)
    (hlock : s.env.lockFuse = false) :
    s.ownerProgram k vpp low = { s with env := { s.env with ownerFuse := some k, lockFuse := true } } :=
  if_pos (by simp [hvpp, hlow, hlock])

theorem State.ownerProgram_locked {s : State} {vpp low : Bool} (k : BitVec 256)
    (hlock : vpp = false ∨ low = false ∨ s.env.lockFuse = true) : s.ownerProgram k vpp low = s :=
  if_neg (by rcases hlock with h | h | h <;> simp [h])

theorem State.ownerStatus_programmed {s : State} {k : List Byte} (hk : s.env.ownerBytes = some k) :
    s.ownerStatus = { s with boot := { s.boot with tdo := true :: bitsOf (sha256 k) } } := by
  rw [State.ownerStatus, hk]

theorem State.ownerStatus_open {s : State} (hk : s.env.ownerBytes = none) :
    s.ownerStatus = { s with
      freeCtr := s.freeCtr + 256
      boot := { s.boot with tdo := false :: (List.range 256).map fun i => decide (Config.value (s.freeCtr + i) % 2 = 1) } } := by
  rw [State.ownerStatus, hk]

/-- Settles O38, by the branches of each operation. Four things are the model's choice: a cold reset runs phases 1 to 4 at once (log
entry 45), what a warm reset keeps (42), the order of the bits on the test port (41), and that an operation whose condition is not
met does nothing (104). -/
theorem resetsRun : Obligations.ResetsRun := by
  unfold Obligations.ResetsRun
  refine ⟨?strapTest, ?boot, ?group, ?groupWaits, ?startup, ?startupWaits, ?warm, ?release, ?program, ?status, fun _ => rfl⟩
  case strapTest => exact fun s b hstrap => congrArg Host.Outcome.next (s.coldReset_strapTest hstrap)
  case boot =>
    exact fun s u b hstrap hu => ⟨fun hslot => congrArg Host.Outcome.next (State.coldReset_boots hstrap hu hslot),
      fun hslot => ⟨congrArg Host.Outcome.next (State.coldReset_fails hstrap hu hslot), hu ▸ State.bootFlash_phase _ b⟩⟩
  case group =>
    intro s g hphase hwarm henabled hdown hbelow
    refine ⟨_, congrArg Host.Outcome.next (State.serdesGroup_next hphase hwarm henabled hdown hbelow), ?_, ?_⟩
    · rw [State.serdesRaised_boot]
    · exact fun i hi => State.serdesRaised_serdesUp _ g.val 8 hi
  case groupWaits => exact fun s g hwait => congrArg Host.Outcome.next (State.serdesGroup_waits hwait)
  case startup =>
    exact fun s hphase hwarm hdone hgroups htrained =>
      congrArg Host.Outcome.next (State.startupComplete_ends hphase hwarm hdone hgroups htrained)
  case startupWaits => exact fun s hwait => congrArg Host.Outcome.next (State.startupComplete_waits hwait)
  case warm =>
    intro s u a hu
    subst hu
    exact ⟨fun hphase hslot => ⟨congrArg Host.Outcome.next (State.warmReset_keeps hphase hslot), rfl⟩,
      fun hphase => congrArg Host.Outcome.next (State.warmReset_unbooted hphase)⟩
  case release =>
    exact fun s ds => ⟨fun hlow => congrArg Host.Outcome.next (State.warmRelease_low ds hlow),
      fun hhigh => congrArg Host.Outcome.next (State.warmRelease_high ds hhigh)⟩
  case program =>
    exact fun s k vpp low => ⟨fun hvpp hlow hlock => congrArg Host.Outcome.next (State.ownerProgram_blows k hvpp hlow hlock),
      fun hlock => congrArg Host.Outcome.next (State.ownerProgram_locked k hlock)⟩
  case status =>
    refine fun s => ⟨fun k hk => congrArg Host.Outcome.next (State.ownerStatus_programmed hk), fun hk => ?_⟩
    exact ⟨_, by rw [List.length_map, List.length_range], congrArg Host.Outcome.next (State.ownerStatus_open hk)⟩

end Sys2Proof.Machine
end

section
/-!
MIRROR_CONFIG, MIRROR_ROLE and MIRROR_CHECK (19_pair R462, R464, R479): what each handler answers.
-/

namespace Sys2Proof.Machine

section Handlers

variable {w : Waiter} {p : Pkt} {ps : List Byte} {s : State}

/-! ### MIRROR_CONFIG -/

/-- The fields of Table 19.4. -/
def MirrorState.configured (m : MirrorState) (v : Nat) : MirrorState :=
  { m with
    linkEnable := bitAt v 0
    takeoverMode := BitVec.ofNat 2 (fld v 1 2)
    iface := bitAt v 3
    ltEnable := bitAt v 4
    holdUs := BitVec.ofNat 16 (fld v 16 16)
    takeoverSource := BitVec.ofNat 2 (fld v 32 2)
    digestCycle := BitVec.ofNat 16 (fld v 64 16)
    pairId := BitVec.ofNat 128 (fld v 128 128)
    moduleEq := BitVec.ofNat 256 (fld v 256 256) }

section Config

variable {u : State} (hu : (s.modMirror fun m => m.configured (img ps)) = u)
include hu

theorem doMirrorConfig_writes (hquiet : u.mirror.linkUp = false ∨ u.peerAgrees = true ∨ s.peerAgrees = false) :
    doMirrorConfig w p ps s = ok (if bitAt (img ps) 0 then u else u.linkGoDown) := by
  subst hu
  have hevent : ¬((s.modMirror fun m => m.configured (img ps)).mirror.linkUp && s.peerAgrees &&
      !(s.modMirror fun m => m.configured (img ps)).peerAgrees) = true := by
    rcases hquiet with h | h | h <;> rw [h] <;> simp
  exact congrArg (fun t : State => ok (if bitAt (img ps) 0 then t else t.linkGoDown)) (if_neg hevent)

theorem doMirrorConfig_parts (hlink : u.mirror.linkUp = true) (hdiffer : u.peerAgrees = false) (hagreed : s.peerAgrees = true) :
    doMirrorConfig w p ps s = ok (if bitAt (img ps) 0 then u.raise 1315 else (u.raise 1315).linkGoDown) := by
  subst hu
  have hevent : ((s.modMirror fun m => m.configured (img ps)).mirror.linkUp && s.peerAgrees &&
      !(s.modMirror fun m => m.configured (img ps)).peerAgrees) = true := by
    rw [hlink, hdiffer, hagreed]; rfl
  exact congrArg (fun t : State => ok (if bitAt (img ps) 0 then t else t.linkGoDown)) (if_pos hevent)

end Config

/-! ### MIRROR_ROLE (19_pair Table 19.6) -/

theorem doMirrorRole_solo (hreq : fld (img ps) 0 2 = 0) : doMirrorRole w p ps s = ok s.becomeSolo := if_pos hreq

section ToPrimary

variable (hreq : fld (img ps) 0 2 = 1)
include hreq

theorem doMirrorRole_primary_of_solo (hrole : s.mirror.role = .solo)
    (hpeer : s.mirror.linkUp = false ∨ s.mirror.peer = none ∨ ∃ x, s.mirror.peer = some x ∧ x.1 ≠ .primary) :
    doMirrorRole w p ps s = ok (s.modMirror fun m => { m with role := .primary }) := by
  simp only [doMirrorRole, hreq, hrole]
  obtain hdown | hnone | ⟨x, hx, hother⟩ := hpeer
  · simp [hdown]
  · simp [hnone]
  · simp [hx, hother]

theorem doMirrorRole_primary_twice {x : Role × BitVec 128 × BitVec 64 × BitVec 8} (hrole : s.mirror.role = .solo)
    (hlink : s.mirror.linkUp = true) (hx : s.mirror.peer = some x) (hother : x.1 = .primary) : doMirrorRole w p ps s = busy s := by
  simp [doMirrorRole, hreq, hrole, hlink, hx, hother]

theorem doMirrorRole_primary_again (hrole : s.mirror.role = .primary) : doMirrorRole w p ps s = busy s := by
  simp [doMirrorRole, hreq, hrole]

section OfStandby

variable (hrole : s.mirror.role = .standby)
include hrole

theorem doMirrorRole_relieves (hpeer : s.peerPrimary = true) : doMirrorRole w p ps s = ok s.becomePrimary := by
  simp [doMirrorRole, hreq, hrole, hpeer]

theorem doMirrorRole_takes_over (hpeer : s.peerPrimary = false) (hsync : s.mirror.syncing = false) :
    doMirrorRole w p ps s = ok (s.becomePrimary.raise 1312) := by
  simp [doMirrorRole, hreq, hrole, hpeer, hsync, State.takeover]

theorem doMirrorRole_syncing (hpeer : s.peerPrimary = false) (hsync : s.mirror.syncing = true) :
    doMirrorRole w p ps s = busy (s.raise 1312) := by
  simp [doMirrorRole, hreq, hrole, hpeer, hsync]

end OfStandby

end ToPrimary

section ToStandby

variable (hreq : fld (img ps) 0 2 = 2)
include hreq

theorem doMirrorRole_standby (hrole : s.mirror.role ≠ .standby) (hpeer : s.peerPrimary = true) :
    doMirrorRole w p ps s = pendingReply (s.becomeStandby.modMirror fun m => { m with roleWait := some w }).startPull := by
  simp [doMirrorRole, hreq, hrole, hpeer]

theorem doMirrorRole_standby_refused (hno : s.mirror.role = .standby ∨ s.peerPrimary = false) :
    doMirrorRole w p ps s = busy s := by
  simp [doMirrorRole, hreq, hno]

end ToStandby

/-! ### MIRROR_CHECK -/

section Check

variable (hfree : s.mirror.checkWait = none)
include hfree

theorem doMirrorCheck_elsewhere (hno : s.mirroring = false ∨ s.mirror.role ≠ .primary) :
    doMirrorCheck w p ps s = pendingReply (s.modMirror fun m => { m with checkWait := some (w, []), checkAck := true }) := by
  have hprimary : (s.mirroring && s.mirror.role == .primary) = false := by
    rcases hno with h | h <;> simp [h]
  simp [doMirrorCheck, hfree, hprimary]

theorem doMirrorCheck_primary (hmirrors : s.mirroring = true) (hrole : s.mirror.role = .primary) (hd0 : s.d0Writable = true) :
    doMirrorCheck w p ps s = pendingReply (((s.modMirror fun m =>
      { m with checkWait := some (w, List.finRange 19), checkAck := false }).sendToken 2 0).sendDigests) := by
  simp [doMirrorCheck, hfree, hmirrors, hrole, hd0]

end Check

end Handlers

/-- Settles O24: each command through its handler's answer. That a syncing STANDBY asked to be PRIMARY answers BUSY with event 1,312
is the model's choice (log entry 49). -/
theorem mirrorCommandsComplete : Obligations.MirrorCommandsComplete := by
  unfold Obligations.MirrorCommandsComplete
  refine ⟨?config, ?solo, ?primary, ?standby, ?check⟩
  case config =>
    intro s u p v had hv hu
    subst hv
    exact ⟨fun hquiet => congrArg Host.Outcome.next (State.runCommand_ok had (doMirrorConfig_writes hu hquiet)),
      fun hlink hdiffer hagreed =>
        congrArg Host.Outcome.next (State.runCommand_ok had (doMirrorConfig_parts hu hlink hdiffer hagreed))⟩
  case solo =>
    intro s u p had hu hreq
    subst hu
    exact congrArg Host.Outcome.next (State.runCommand_ok had (doMirrorRole_solo hreq))
  case primary =>
    intro s u p had hu hreq
    subst hu
    have hends {t : State} (h : doMirrorRole (s.waiterOf 0x0601 p) p p.params (s.running 0x0601 p) = ok t) :
        exec (.mirrorRole p) s = .next (s.endsOk 0x0601 p t) :=
      congrArg Host.Outcome.next (State.runCommand_ok had h)
    have hbusy {t : State} (h : doMirrorRole (s.waiterOf 0x0601 p) p p.params (s.running 0x0601 p) = busy t) :
        exec (.mirrorRole p) s = .next (finishCmd (s.waiterOf 0x0601 p) (busy t)) :=
      congrArg Host.Outcome.next (State.runCommand_busy had h)
    exact ⟨fun hrole hpeer => hends (doMirrorRole_primary_of_solo hreq hrole hpeer),
      fun x hrole hlink hx hother => hbusy (doMirrorRole_primary_twice hreq hrole hlink hx hother),
      fun hrole => hbusy (doMirrorRole_primary_again hreq hrole),
      fun hrole hpeer => hends (doMirrorRole_relieves hreq hrole hpeer),
      fun hrole hpeer hsync => hends (doMirrorRole_takes_over hreq hrole hpeer hsync),
      fun hrole hpeer hsync => hbusy (doMirrorRole_syncing hreq hrole hpeer hsync)⟩
  case standby =>
    intro s u p had hu hreq
    subst hu
    exact ⟨fun hrole hpeer => congrArg Host.Outcome.next (State.runCommand_pending had (doMirrorRole_standby hreq hrole hpeer)),
      fun hno => congrArg Host.Outcome.next (State.runCommand_busy had (doMirrorRole_standby_refused hreq hno))⟩
  case check =>
    intro s u p had hu hfree
    subst hu
    exact ⟨fun hno => congrArg (fun t : State => Host.Outcome.next t.settleCheck)
        (State.runCommand_pending had (doMirrorCheck_elsewhere hfree hno)),
      fun hmirrors hrole hd0 => congrArg (fun t : State => Host.Outcome.next t.settleCheck)
        (State.runCommand_pending had (doMirrorCheck_primary hfree hmirrors hrole hd0))⟩

end Sys2Proof.Machine
end

section
/-!
The messages of the mirror unit: time, steps, feeds, digests and pulls, and the causes of a takeover (19_pair R470 to R476).
-/

namespace Sys2Proof.Machine

/-! ### What a unit heard leaves -/

@[simp] theorem State.heardNow_mirroring (s : State) : s.heardNow.mirroring = s.mirroring := s.heardNow_stream.1
@[simp] theorem State.heardNow_role (s : State) : s.heardNow.mirror.role = s.mirror.role := s.heardNow_stream.2.1
@[simp] theorem State.heardNow_seq (s : State) : s.heardNow.mirror.seq = s.mirror.seq := s.heardNow_stream.2.2.1
@[simp] theorem State.heardNow_linkUp (s : State) : s.heardNow.mirror.linkUp = s.mirror.linkUp := by
  unfold State.heardNow
  split <;> rfl

/-! ### A mirroring primary (19_pair R470, R473) -/

theorem State.timeDue_iff (s : State) :
    (∀ r, s.mirror.timeRound = some r → r.toNat + 16 ≤ s.tt.round.toNat) ↔ s.timeDue = true := by
  unfold State.timeDue
  cases s.mirror.timeRound <;> simp

theorem State.sendDigest_digestible {s : State} {r : Nat} (hd : s.digestible r = true) :
    s.sendDigest r = s.emit (.link 10 [r, s.mirror.seq.toNat, (s.regionDigest r).toNat]) := if_pos hd

theorem State.timeMessageSend_early {s : State} (hdue : s.timeDue = false) : s.timeMessageSend = s := if_neg (by simp [hdue])

theorem State.digestSend_early {s : State} {r : Nat} (hdue : s.due (s.digestDue r) = false) : s.digestSend r = s :=
  if_neg (by simp [hdue])

section Primary

variable {s : State} (hmirrors : s.mirroring = true) (hrole : s.mirror.role = .primary)
include hmirrors hrole

theorem State.timeMessageSend_due (hdue : s.timeDue = true) :
    s.timeMessageSend = (s.modMirror fun m => { m with timeRound := some s.tt.round }).emit
      (.link 4 [s.stamp, s.time.stepCount.toNat]) :=
  if_pos ⟨hmirrors, hrole, hdue⟩

theorem State.digestSend_due {r : Nat} {u : State} (hdue : s.due (s.digestDue r) = true)
    (hu : (s.reach (s.digestDue r)).modMirror (fun m =>
      { m with digestAt := tset none m.digestAt r (some (s.reach (s.digestDue r)).nowPs) }) = u) :
    s.digestSend r = u.sendDigest r :=
  hu ▸ if_pos ⟨hmirrors, hrole, hdue⟩

/-- The device answers pull requests. -/
theorem State.answersPulls : ¬((!s.mirroring) = true ∨ s.mirror.role ≠ .primary) := by simp [hmirrors, hrole]

theorem State.pullReq_digest (r : Fin 19) : s.pullReq (.digest r) = s.sendDigest r.val := if_neg (State.answersPulls hmirrors hrole)

theorem State.pullReq_blockDigests {r : Fin 19} (hd : s.digestible r.val = true) :
    s.pullReq (.blockDigests r) = (s.regionReported r.val 2).emit (.linkPull (.blockDigests r ((regionBlocks r.val).map fun b =>
      (BitVec.ofNat 8 b.1, b.2.1 == 1, b.2.2, s.blockDigest s.tables.master b.1 b.2.1 b.2.2)))) :=
  (if_neg (State.answersPulls hmirrors hrole)).trans (if_neg (by simp [hd]))

theorem State.pullReq_block (table : BitVec 8) (gen : Bool) (block : Nat) (hd0 : s.d0Writable = true) :
    s.pullReq (.block table gen block) =
      s.emit (.linkPull (.entries (Fin.ofNat 19 (regionOf table.toNat)) table gen (s.blockItems table.toNat (b1 gen) block))) :=
  (if_neg (State.answersPulls hmirrors hrole)).trans (if_neg (by simp [hd0]))

theorem State.pullReq_portConfig :
    s.pullReq .portConfig = (s.regionReported 16 2).emit (.linkPull (.portConfig ((List.range 64).map s.portParams))) :=
  if_neg (State.answersPulls hmirrors hrole)

theorem State.pullReq_generation :
    s.pullReq .generation = (s.regionReported 18 2).emit (.linkPull (.generation ((List.range 4).map fun k => (s.quad k).gen))) :=
  if_neg (State.answersPulls hmirrors hrole)

theorem State.pullReq_feeds :
    s.pullReq .feeds = ((List.finRange 4096).foldl
      (fun (t : State) f => t.emit (.linkPull (.feed (t.feedImage f)))) s).emit (.linkPull .feedsDone) :=
  if_neg (State.answersPulls hmirrors hrole)

theorem State.pullData_regionEqual (r : Fin 19) : s.pullData (.regionEqual r) = s.regionReported r.val 0 :=
  (if_neg (by simp [hmirrors])).trans (if_pos hrole)

end Primary

/-! ### A mirroring standby (19_pair R470 to R474) -/

section Standby

variable {s : State} (hmirrors : s.mirroring = true) (hrole : s.mirror.role = .standby)
include hmirrors hrole

section Time

variable (t1 : Nat) {n : BitVec 8} (hstep : s.time.step = none)
include hstep

theorem State.timeMessage_ignored {c : BitVec 8} (hsteps : s.stepsReached = some c) (hother : c ≠ n) :
    s.timeMessage t1 n = s.modMirror fun m => { m with primarySteps := some c, stepWait := none } := by
  simp [State.timeMessage, hmirrors, hrole, hsteps, hstep, hother.symm]

variable {offset : Int} (hoffset : (s.stamp : Int) - ((t1 : Int) + (unitsOfPs s.mirror.dPs : Int)) = offset)
include hoffset

theorem State.timeMessage_steers (hsteps : s.stepsReached = some n) :
    s.timeMessage t1 n =
      ((s.modMirror fun m => { m with primarySteps := some n, stepWait := none }).lockLoop offset).settlePull := by
  subst hoffset
  simp [State.timeMessage, hmirrors, hrole, hsteps, hstep]

theorem State.timeMessage_first_near (hsteps : s.stepsReached = none) (hnear : offset.natAbs ≤ 65536000) :
    s.timeMessage t1 n =
      ((s.modMirror fun m => { m with primarySteps := some n, stepWait := none }).lockLoop offset).settlePull := by
  subst hoffset
  simp [State.timeMessage, hmirrors, hrole, hsteps, hstep, Nat.not_lt.2 hnear]

theorem State.timeMessage_first_far (hsteps : s.stepsReached = none) (hfar : 65536000 < offset.natAbs) :
    s.timeMessage t1 n = s.armMirrored (-offset) n := by
  subst hoffset
  simp only [State.timeMessage, hmirrors, hrole, hsteps, hstep]
  simp [hfar]

end Time

theorem State.stepMessage_arms (d : Int) (n : BitVec 8) : s.stepMessage d n = s.armMirrored d n := if_pos ⟨hrole, hmirrors⟩

theorem State.feedMessage_applies (f : Nat) (c : FeedChange) : s.feedMessage f c = s.applyFeed f c := if_pos ⟨hrole, hmirrors⟩

/-- The standby takes what it asked for, each by its own operation. -/
theorem State.pullData_taken :
    s.pullData .feedsDone = (s.modMirror fun m => { m with feedPull := false }).settlePull ∧
    (∀ gens, s.pullData (.generation gens) = (s.modMirror fun m => { m with genPull := gens.head? }).applyGenPull) ∧
    (∀ x, s.pullData (.feed x) = s.pullFeed x) ∧
    (∀ ps, s.pullData (.portConfig ps) = (s.pullPorts ps).settlePull) ∧
    (∀ r ds, s.pullData (.blockDigests r ds) = s.pullBlocks r ds) ∧
    (∀ r table gen items, s.pullData (.entries r table gen items) = s.pullEntries r table.toNat (b1 gen) items) := by
  have hgate : ¬(!s.mirroring) = true := by simp [hmirrors]
  have hstandby : s.mirror.role ≠ .primary := by simp [hrole]
  exact ⟨(if_neg hgate).trans (if_neg hstandby), fun _ => (if_neg hgate).trans (if_neg hstandby),
    fun _ => (if_neg hgate).trans (if_neg hstandby), fun _ => (if_neg hgate).trans (if_neg hstandby),
    fun _ _ => (if_neg hgate).trans (if_neg hstandby), fun _ _ _ _ => (if_neg hgate).trans (if_neg hstandby)⟩

end Standby

section Digest

variable {s : State} (hlink : s.mirror.linkUp = true) (hrole : s.mirror.role = .standby) (r : Fin 19) {q : BitVec 64} (d : BitVec 32)
include hlink hrole

theorem State.digestMessage_compares (hq : q = s.mirror.seq) : s.digestMessage r q d = (s.compareRegion r d).settlePull := by
  simp [State.digestMessage, hlink, hrole, hq]

theorem State.digestMessage_dropped (hq : q < s.mirror.seq) : s.digestMessage r q d = s := by
  simp [State.digestMessage, hlink, hrole, hq, BitVec.ne_of_lt hq]

theorem State.digestMessage_held (hq : s.mirror.seq < q) :
    s.digestMessage r q d = s.modMirror fun m =>
      { m with held := (m.held.filter fun x => !(x.region == r)) ++ [{ region := r, seq := q, digest := d }] } := by
  simp [State.digestMessage, hlink, hrole, (BitVec.ne_of_lt hq).symm, BitVec.lt_asymm hq]

end Digest

/-! ### Causes of a takeover (19_pair R475, R476) -/

theorem State.holdExpiry_due {s : State} {t : Nat} (hdown : s.mirror.downAt = some t) (hlink : s.mirror.linkUp = false)
    (hrole : s.mirror.role = .standby) (hdue : s.due (t + s.mirror.holdUs.toNat * usPs) = true) :
    s.holdExpiry = ((s.reach (t + s.mirror.holdUs.toNat * usPs)).modMirror fun m => { m with downAt := none }).takeoverFrom 2 := by
  simp [State.holdExpiry, hdown, hlink, hrole, hdue]

/-- What each role does under a condition of Table 19.9. -/
theorem State.takeoverFrom_by_role (s : State) (m : Nat) :
    (s.mirror.role = .standby → m ≤ s.mirror.takeoverMode.toNat → s.takeoverFrom m = s.takeover) ∧
    (s.mirror.role = .standby → s.mirror.takeoverMode.toNat < m → s.takeoverFrom m = s.raise 1312) ∧
    (s.mirror.role = .primary → s.takeoverFrom m = if s.mirroring then s.raise 1313 else s) ∧
    (s.mirror.role = .solo → s.takeoverFrom m = s) := by
  unfold State.takeoverFrom
  cases s.mirror.role
  case standby => exact ⟨fun _ h => if_pos h, fun _ h => if_neg (Nat.not_le.2 h), nofun, nofun⟩
  case primary => exact ⟨nofun, nofun, fun _ => rfl, nofun⟩
  case solo => exact ⟨nofun, nofun, nofun, fun _ => rfl⟩

/-- Settles O26, message by message, behind `heardNow`. Two things are the model's choice: "Event only" is event 1,312 (log entry 49),
and a message that is not due does nothing (104). -/
theorem mirrorMessagesRun : Obligations.MirrorMessagesRun := by
  unfold Obligations.MirrorMessagesRun
  refine ⟨?timeSend, ?digestReq, ?digestSend, ?time, ?step, ?feed, ?digest, ?pullReq, ?pullData, ?safe, fun _ => rfl, ?hold,
    State.takeoverFrom_by_role⟩
  case timeSend =>
    intro s u a hu hmirrors hrole
    subst hu
    exact ⟨fun hdue => congrArg Host.Outcome.next (State.timeMessageSend_due hmirrors hrole hdue),
      fun hdue => congrArg Host.Outcome.next (State.timeMessageSend_early hdue), State.timeDue_iff _⟩
  case digestReq =>
    intro s v r hmirrors hrole hv
    subst hv
    rw [← State.heardNow_mirroring] at hmirrors
    rw [← State.heardNow_role] at hrole
    exact ⟨fun hd => congrArg Host.Outcome.next
        ((State.pullReq_digest hmirrors hrole r).trans (State.sendDigest_digestible hd)),
      congrArg Host.Outcome.next (State.pullData_regionEqual hmirrors hrole r)⟩
  case digestSend =>
    intro s u r at_ hmirrors hrole hat
    obtain rfl : at_ = s.digestDue r.val := hat
    exact ⟨fun hdue => congrArg Host.Outcome.next (State.digestSend_early hdue), fun hdue hu hd =>
      congrArg Host.Outcome.next ((State.digestSend_due hmirrors hrole hdue hu).trans (State.sendDigest_digestible hd))⟩
  case time =>
    intro s u t1 n a hu hmirrors hrole hstep
    subst hu
    exact ⟨fun hsteps => congrArg Host.Outcome.next (State.timeMessage_steers hmirrors hrole t1 hstep rfl hsteps),
      fun c hsteps hother => congrArg Host.Outcome.next (State.timeMessage_ignored hmirrors hrole t1 hstep hsteps hother),
      fun hsteps hnear => congrArg Host.Outcome.next (State.timeMessage_first_near hmirrors hrole t1 hstep rfl hsteps hnear),
      fun hsteps hfar => congrArg Host.Outcome.next (State.timeMessage_first_far hmirrors hrole t1 hstep rfl hsteps hfar)⟩
  case step =>
    intro s v d n hmirrors hrole hv
    subst hv
    exact congrArg Host.Outcome.next (State.stepMessage_arms (by simpa using hmirrors) (by simpa using hrole) d n)
  case feed =>
    intro s v f c hmirrors hrole hv
    subst hv
    exact congrArg Host.Outcome.next (State.feedMessage_applies (by simpa using hmirrors) (by simpa using hrole) f.val c)
  case digest =>
    intro s v r q d hlink hrole hv
    subst hv
    rw [← State.heardNow_linkUp] at hlink
    rw [← State.heardNow_role] at hrole
    rw [← State.heardNow_seq]
    exact ⟨fun hq => congrArg Host.Outcome.next (State.digestMessage_compares hlink hrole r d hq),
      fun hq => congrArg Host.Outcome.next (State.digestMessage_dropped hlink hrole r d hq),
      fun hq => congrArg Host.Outcome.next (State.digestMessage_held hlink hrole r d hq)⟩
  case pullReq =>
    intro s v hmirrors hrole hv
    subst hv
    rw [← State.heardNow_mirroring] at hmirrors
    rw [← State.heardNow_role] at hrole
    exact ⟨fun r hd => congrArg Host.Outcome.next (State.pullReq_blockDigests hmirrors hrole hd),
      fun table gen block hd0 => congrArg Host.Outcome.next (State.pullReq_block hmirrors hrole table gen block hd0),
      congrArg Host.Outcome.next (State.pullReq_portConfig hmirrors hrole),
      congrArg Host.Outcome.next (State.pullReq_generation hmirrors hrole),
      congrArg Host.Outcome.next (State.pullReq_feeds hmirrors hrole)⟩
  case pullData =>
    intro s v hmirrors hrole hv
    subst hv
    obtain ⟨hdone, hgen, hfeed, hports, hblocks, hentries⟩ :=
      State.pullData_taken (s := s.heardNow) (by simpa using hmirrors) (by simpa using hrole)
    exact ⟨congrArg Host.Outcome.next hdone, fun gens => congrArg Host.Outcome.next (hgen gens),
      fun x => congrArg Host.Outcome.next (hfeed x), fun ps => congrArg Host.Outcome.next (hports ps),
      fun r ds => congrArg Host.Outcome.next (hblocks r ds),
      fun r table gen items => congrArg Host.Outcome.next (hentries r table gen items)⟩
  case safe => exact fun s hlink => congrArg Host.Outcome.next (if_pos hlink)
  case hold =>
    exact fun s t hdown hlink hrole hdue => congrArg Host.Outcome.next (State.holdExpiry_due hdown hlink hrole hdue)

end Sys2Proof.Machine
end

section
/-!
SUPPORT. What the operations under the DMA engine leave aside: the mirror unit, the DMA rings, whether the device is in its safe state,
and whether the Cabinet is paused. Events, counts, replies, writes to the host and to the Cabinet, and the pool's own work touch none of
these.
-/

namespace Sys2Proof.Machine

/-- The mirror unit, the rings, the safe state and the pause of the Cabinet. -/
def State.aside (s : State) : MirrorState × Tbl DmaRing × Bool × Bool := (s.mirror, s.host.rings, s.flt.safe, s.cab.paused)

section Parts

variable {s t : State} (h : t.aside = s.aside)
include h

theorem State.mirror_of_aside : t.mirror = s.mirror := (Prod.ext_iff.1 h).1
theorem State.rings_of_aside : t.host.rings = s.host.rings := (Prod.ext_iff.1 (Prod.ext_iff.1 h).2).1
theorem State.dma_of_aside (r : Nat) : t.dma r = s.dma r := congrArg (tget DmaRing.init · r) (State.rings_of_aside h)
theorem State.safe_of_aside : t.flt.safe = s.flt.safe := (Prod.ext_iff.1 (Prod.ext_iff.1 (Prod.ext_iff.1 h).2).2).1
theorem State.paused_of_aside : t.cab.paused = s.cab.paused := (Prod.ext_iff.1 (Prod.ext_iff.1 (Prod.ext_iff.1 h).2).2).2

end Parts

/-- Both branches of a choice leave the same aside, whatever decides. -/
theorem State.branch_aside {c : Prop} [Decidable c] {a b : State} {x : MirrorState × Tbl DmaRing × Bool × Bool} (ha : a.aside = x)
    (hb : b.aside = x) : (if c then a else b).aside = x := by
  split
  · exact ha
  · exact hb

/-- What every step of a run leaves aside, the run leaves aside. -/
theorem State.foldl_aside {β : Type} {f : State → β → State} (h : ∀ s b, (f s b).aside = s.aside) (s : State) (l : List β) :
    (l.foldl f s).aside = s.aside := foldl_invariant h s l

/-! ### Events and counts (20_faults R492; 21_counters R504) -/

@[simp] theorem State.emit_aside (s : State) (o : Out) : (s.emit o).aside = s.aside := rfl
@[simp] theorem State.modEvt_aside (s : State) (k : Nat) (f : EvtSrc → EvtSrc) : (s.modEvt k f).aside = s.aside := rfl
@[simp] theorem State.modFn_aside (s : State) (n : Nat) (f : FnCfg → FnCfg) : (s.modFn n f).aside = s.aside := rfl
@[simp] theorem State.modInst_aside (s : State) (n : Nat) (f : Inst → Inst) : (s.modInst n f).aside = s.aside := rfl
@[simp] theorem State.modCmdRing_aside (s : State) (n : Nat) (f : CmdRing → CmdRing) : (s.modCmdRing n f).aside = s.aside := rfl
@[simp] theorem State.modReq_aside (s : State) (r : Nat) (f : Requester → Requester) : (s.modReq r f).aside = s.aside := rfl
@[simp] theorem State.modBank_aside (s : State) (b : Nat) (f : Bank → Bank) : (s.modBank b f).aside = s.aside := rfl
@[simp] theorem State.modSample_aside (s : State) (p : Nat) (f : Sample → Sample) : (s.modSample p f).aside = s.aside := rfl
@[simp] theorem State.modChan_aside (s : State) (k : Nat) (f : Chan → Chan) : (s.modChan k f).aside = s.aside := rfl
@[simp] theorem State.modLine_aside (s : State) (n : Nat) (f : FltLine → FltLine) : (s.modLine n f).aside = s.aside := rfl
@[simp] theorem State.mgmtStat_aside (s : State) (off n : Nat) : (s.mgmtStat off n).aside = s.aside := rfl

@[simp] theorem State.msix_aside (s : State) (fn vec : Nat) : (s.msix fn vec).aside = s.aside :=
  State.branch_aside rfl (State.branch_aside rfl rfl)

@[simp] theorem State.raise_aside (s : State) (src : Nat) : (s.raise src).aside = s.aside :=
  State.branch_aside (State.branch_aside rfl (State.msix_aside ..)) rfl

@[simp] theorem State.addCtr_aside (s : State) (k n : Nat) : (s.addCtr k n).aside = s.aside := by
  unfold State.addCtr
  dsimp only
  refine State.branch_aside rfl (State.branch_aside (State.branch_aside ?_ ?_) (State.branch_aside (State.branch_aside ?_ ?_) ?_))
  case refine_5 => exact State.branch_aside (State.raise_aside ..) rfl
  all_goals exact (State.modSample_aside ..).trans (State.branch_aside (State.raise_aside ..) rfl)

@[simp] theorem State.tick_aside (s : State) (code unit n : Nat) : (s.tick code unit n).aside = s.aside := by
  unfold State.tick
  refine State.foldl_aside (fun t c => ?_) s _
  exact State.branch_aside (State.addCtr_aside ..) rfl

/-! ### Host memory and replies (15_commands R361, R362, R367) -/

@[simp] theorem State.logPage_aside (s : State) (inst page : Nat) : (s.logPage inst page).aside = s.aside := by
  unfold State.logPage
  dsimp only
  split
  · rfl
  · exact State.branch_aside rfl (State.branch_aside rfl rfl)

@[simp] theorem State.hostWrite_aside (s : State) (inst a : Nat) (bs : List Byte) : (s.hostWrite inst a bs).aside = s.aside := by
  unfold State.hostWrite
  exact State.branch_aside rfl (State.foldl_aside (fun t page => t.logPage_aside inst page) _ _)

@[simp] theorem State.ringReply_aside (s : State) (n : Nat) (r : Reply) : (s.ringReply n r).aside = s.aside := by
  unfold State.ringReply
  refine State.branch_aside rfl (State.branch_aside rfl ?_)
  rw [State.raise_aside, State.modCmdRing_aside, State.emit_aside, State.hostWrite_aside]

@[simp] theorem State.sendReplyFrame_aside (s : State) (w : Waiter) (r : Reply) : (s.sendReplyFrame w r).aside = s.aside := by
  unfold State.sendReplyFrame
  exact State.branch_aside (by simp) (by simp)

@[simp] theorem State.sendReply_aside (s : State) (w : Waiter) (r : Reply) : (s.sendReply w r).aside = s.aside := by
  unfold State.sendReply
  cases w.port <;> simp

/-! ### Audit records and completions (13_cabinet R321 to R323; 15_commands R367) -/

@[simp] theorem State.serveChans_aside (s : State) : s.serveChans.aside = s.aside := by
  unfold State.serveChans
  exact State.foldl_aside (fun t k => t.modChan_aside k _) s _

@[simp] theorem State.updatePanic_aside (s : State) : s.updatePanic.aside = s.aside := by
  have hset (on : Bool) (t : State) : ({ t with cab := { t.cab with panic := on } } : State).aside = t.aside := rfl
  unfold State.updatePanic
  refine State.branch_aside ?raised (State.branch_aside ((hset false _).trans s.serveChans_aside) rfl)
  case raised =>
    rw [State.raise_aside, State.tick_aside]
    exact (hset true _).trans s.serveChans_aside

@[simp] theorem State.stageSystemIn_aside (s : State) (typ : Nat) (body : List Byte) (d : Nat) :
    (s.stageSystemIn typ body d).aside = s.aside :=
  State.branch_aside rfl (State.updatePanic_aside _)

@[simp] theorem State.audit_aside (s : State) (w : Waiter) (outcome : Nat) : (s.audit w outcome).aside = s.aside := by
  unfold State.audit State.systemRecord
  exact State.branch_aside (State.foldl_aside (fun t d => t.stageSystemIn_aside _ _ d) s _) rfl

@[simp] theorem State.sendAudited_aside (s : State) (w : Waiter) (r : Reply) (outcome : Option Nat) :
    (s.sendAudited w r outcome).aside = s.aside := by
  unfold State.sendAudited
  cases outcome <;> simp

@[simp] theorem State.complete_aside (s : State) (w : Waiter) (status detail : Nat) (results : List Byte) :
    (s.complete w status detail results).aside = s.aside := by
  unfold State.complete
  exact (State.sendAudited_aside ..).trans (State.branch_aside rfl rfl)

@[simp] theorem State.settleInst_aside (s : State) : s.settleInst.aside = s.aside := by
  unfold State.settleInst
  refine State.foldl_aside (fun t n => State.branch_aside ?_ rfl) s _
  dsimp only
  split <;> simp

/-! ### The pool (11_pool R278 to R290) -/

@[simp] theorem State.charge_aside (s : State) (req n : Nat) : (s.charge req n).aside = s.aside := rfl
@[simp] theorem State.endHold_aside (s : State) (first : Nat) : (s.endHold first).aside = s.aside := rfl
@[simp] theorem State.putCell_aside (s : State) (c : Nat) (data : List Byte) (next : Nat) (last : Bool) :
    (s.putCell c data next last).aside = s.aside := rfl
@[simp] theorem State.linkCell_aside (s : State) (c next : Nat) : (s.linkCell c next).aside = s.aside := rfl

@[simp] theorem State.walkChain_aside (s : State) (first n : Nat) : (s.walkChain first n).aside = s.aside := State.branch_aside rfl rfl

@[simp] theorem State.outOfReserve_aside (s : State) (cells : List Nat) : (s.outOfReserve cells).aside = s.aside := by
  unfold State.outOfReserve
  refine State.foldl_aside (fun t c => ?_) s cells
  rfl

@[simp] theorem State.credit_aside (s : State) (req n : Nat) : (s.credit req n).aside = s.aside := State.branch_aside rfl rfl

@[simp] theorem State.shadowFree_aside (s : State) (hold : Bool) (record own req n : Nat) :
    (s.shadowFree hold record own req n).aside = s.aside := by
  unfold State.shadowFree
  split
  · rfl
  · exact State.branch_aside rfl rfl

@[simp] theorem State.poolLog_aside (s : State) (pointer req reason : Nat) : (s.poolLog pointer req reason).aside = s.aside :=
  State.raise_aside _ _

@[simp] theorem State.pauseCall_aside (s : State) (lp k : Nat) (on : Bool) : (s.pauseCall lp k on).aside = s.aside := by
  unfold State.pauseCall
  split <;> rfl

@[simp] theorem State.groupRelief_aside (s : State) (g : Nat) : (s.groupRelief g).aside = s.aside :=
  State.branch_aside (State.pauseCall_aside ..) rfl

@[simp] theorem State.creditAccounts_aside (s : State) (c : Charges) : (s.creditAccounts c).aside = s.aside := by
  unfold State.creditAccounts
  split
  · exact State.groupRelief_aside ..
  · rfl

@[simp] theorem State.releaseStored_aside (s : State) (f : Stored) (req : Nat) : (s.releaseStored f req).aside = s.aside := by
  have hcredited (t : State) :
      (((((t.creditAccounts f.charges).credit req f.cells).shadowFree false f.id f.charges.requester req f.cells).endHold
        f.first).walkChain f.first f.cells).aside = t.aside := by simp
  have hdropped : (if s.copiesLeft f.id = 0 then (s.dropStored f.id).endBody f.id
      else { s with pool := { s.pool with stolen := mark s.pool.stolen f.id } }).aside = s.aside := State.branch_aside rfl rfl
  unfold State.releaseStored
  dsimp only
  split
  · exact State.branch_aside ((hcredited _).trans hdropped) ((hcredited _).trans hdropped)
  · exact (hcredited _).trans hdropped

@[simp] theorem State.decrement_aside (s : State) (first req n : Nat) : (s.decrement first req n).aside = s.aside := by
  unfold State.decrement
  dsimp only
  refine State.branch_aside (State.poolLog_aside ..) (State.branch_aside ?short ?last)
  case short => exact State.branch_aside (State.poolLog_aside ..) rfl
  case last =>
    split
    · exact (State.releaseStored_aside ..).trans (State.branch_aside (State.poolLog_aside ..) rfl)
    · split
      · rw [State.walkChain_aside, State.shadowFree_aside, State.credit_aside, State.endHold_aside]
        exact State.branch_aside (State.poolLog_aside ..) rfl
      · exact State.branch_aside (State.poolLog_aside ..) rfl

@[simp] theorem State.freeFrameCells_aside (s : State) (f : Frame) : (s.freeFrameCells f).aside = s.aside := by
  unfold State.freeFrameCells
  refine State.branch_aside ?arrived ?built
  case arrived =>
    dsimp only
    split
    · exact State.outOfReserve_aside ..
    · exact (State.walkChain_aside ..).trans (State.outOfReserve_aside ..)
  case built =>
    split
    · rfl
    · exact State.decrement_aside ..

@[simp] theorem State.slowDrop_aside (s : State) (f : Frame) : (s.slowDrop f).aside = s.aside := State.freeFrameCells_aside _ f

@[simp] theorem State.leaseChain_aside (s : State) (own : Nat) (f : Frame) : (s.leaseChain own f).aside = s.aside := by
  unfold State.leaseChain
  split
  · rfl
  · refine State.branch_aside (State.outOfReserve_aside ..) ?_
    exact State.branch_aside rfl ((State.charge_aside ..).trans (State.credit_aside ..))

@[simp] theorem State.fillCells_aside (s : State) (cells : List Nat) (data : List Byte) : (s.fillCells cells data).aside = s.aside := by
  induction cells generalizing s data with
  | nil => rfl
  | cons c r ih =>
    cases r with
    | nil => rfl
    | cons c' r => exact ih (s.putCell c (data.take 256) c' false) (data.drop 256)

/-! ### Allocation (11_pool R278, R279, R283) -/

@[simp] theorem State.spillBank_aside (s : State) (bank : Nat) : (s.spillBank bank).aside = s.aside := by
  unfold State.spillBank
  dsimp only
  split
  · rfl
  · exact (State.modBank_aside ..).trans (State.putCell_aside ..)

@[simp] theorem State.poolWindow_aside (s : State) (bank : Nat) : (s.poolWindow bank).aside = s.aside := by
  have hsettled := s.modBank_aside bank fun b => b.settle s.nowBuffer
  unfold State.poolWindow
  exact State.branch_aside ((State.spillBank_aside ..).trans hsettled)
    (State.branch_aside ((State.modBank_aside ..).trans hsettled) hsettled)

@[simp] theorem State.passedWindows_aside (s : State) (bank : Nat) : (s.passedWindows bank).aside = s.aside :=
  State.branch_aside (State.poolWindow_aside ..) rfl

@[simp] theorem State.takeCell_aside (s : State) (bank : Nat) : (s.takeCell bank).2.aside = s.aside := by
  have hpassed : ((s.modBank bank fun b => b.settle s.nowBuffer).passedWindows bank).aside = s.aside :=
    (State.passedWindows_aside ..).trans (State.modBank_aside ..)
  have hfree (t : State) : ({ t with freeCtr := t.freeCtr + 1 } : State).aside = t.aside := rfl
  unfold State.takeCell
  exact (congrArg State.aside (apply_ite Prod.snd _ _ _)).trans
    (State.branch_aside hpassed ((State.modBank_aside ..).trans ((hfree _).trans hpassed)))

@[simp] theorem State.takeCells_aside (s : State) (windows : List Nat) (n : Nat) : (s.takeCells windows n).2.aside = s.aside := by
  induction n generalizing s windows with
  | zero => rfl
  | succ n ih =>
    rw [State.takeCells, ih, State.takeCell_aside]
    rfl

@[simp] theorem State.linkChain_aside (s : State) (cells : List Nat) : (s.linkChain cells).aside = s.aside := by
  induction cells generalizing s with
  | nil => rfl
  | cons c r ih =>
    cases r with
    | nil => rfl
    | cons c' r => exact ih (s.linkCell c c')

@[simp] theorem State.allocate_aside (s : State) (req n : Nat) : (s.allocate req n).2.aside = s.aside := by
  unfold State.allocate
  dsimp only
  split
  · exact State.takeCells_aside ..
  · exact (State.linkChain_aside ..).trans (State.takeCells_aside ..)

/-! ### The Cabinet (14_dram R349, R353, R356) -/

@[simp] theorem State.request_aside (s : State) (src a : Nat) : (s.request src a).aside = s.aside := rfl

@[simp] theorem State.requests_aside (s : State) (src a len : Nat) : (s.requests src a len).aside = s.aside := by
  unfold State.requests
  exact State.foldl_aside (fun t i => t.request_aside src _) s _

@[simp] theorem State.cabPut_aside (s : State) (a : Nat) (bs : List Byte) : (s.cabPut a bs).aside = s.aside := by
  unfold State.cabPut
  generalize bs.length / 64 + 2 = n
  induction n generalizing s a bs with
  | zero => rfl
  | succ n ih =>
    refine State.branch_aside rfl ((ih ..).trans ?_)
    exact State.branch_aside (State.tick_aside ..) rfl

@[simp] theorem State.capture_aside (s : State) (n : Nat) (src : BitVec 13) : (s.capture n src).aside = s.aside :=
  State.branch_aside (State.branch_aside rfl rfl) rfl

@[simp] theorem State.startGrace_aside (s : State) (n : Nat) (src : BitVec 13) : (s.startGrace n src).aside = s.aside := by
  unfold State.startGrace
  split <;> rfl

/-- An occurrence of line 32, a channel out of service, neither contains anything nor enters the safe state at once. -/
theorem State.actAt_channel_aside (s : State) (src : BitVec 13) (sev : Nat) : (s.actAt 32 src sev).aside = s.aside := by
  have hcaptured : ((s.capture 32 src).raise (1152 + 32)).aside = s.aside := (State.raise_aside ..).trans (State.capture_aside ..)
  unfold State.actAt
  refine State.branch_aside rfl (State.branch_aside hcaptured (State.branch_aside hcaptured (State.branch_aside ?_ hcaptured)))
  exact (State.startGrace_aside ..).trans hcaptured

theorem State.occur_channel_aside (s : State) (src : BitVec 13) : (s.occur 32 src).aside = s.aside := by
  unfold State.occur
  refine State.branch_aside rfl (State.branch_aside (State.capture_aside ..) (State.branch_aside ?_ (State.actAt_channel_aside ..)))
  exact State.branch_aside (State.actAt_channel_aside ..) (State.actAt_channel_aside ..)

@[simp] theorem State.chanFail_aside (s : State) (k : Nat) (cause : BitVec 4) : (s.chanFail k cause).aside = s.aside :=
  State.branch_aside rfl (State.occur_channel_aside ..)

@[simp] theorem State.uncorrectable_aside (s : State) (a : Nat) : (s.uncorrectable a).aside = s.aside :=
  State.branch_aside ((State.chanFail_aside ..).trans (State.raise_aside _ 1284)) (State.raise_aside _ 1284)

@[simp] theorem State.cabTouch_aside (s : State) (src a n : Nat) : (s.cabTouch src a n).aside = s.aside := by
  unfold State.cabTouch
  refine State.branch_aside rfl (State.foldl_aside (fun t i => ?_) s _)
  exact State.branch_aside (State.tick_aside ..) (State.branch_aside (State.uncorrectable_aside ..) rfl)

end Sys2Proof.Machine
end

section
/-!
The Dovetail link: its units, acknowledgements and ends, and the messages of state, replies and tokens (19_pair R460, R461, R463, R467,
R479; 21_counters R508).
-/

namespace Sys2Proof.Machine

/-! ### Units and acknowledgements (19_pair R460) -/

section Up

variable {s : State} (hlink : s.mirror.linkUp = true)
include hlink

theorem State.heardNow_of_link : s.heardNow = s.modMirror fun m => { m with heard := s.nowPs } := if_pos hlink

theorem State.linkUnit_in_order {w : BitVec 512} (hcrc : unitCrcOk w = true) (hseq : fld w.toNat 16 48 = s.mirror.rxSeq.toNat)
    (hdata : fld w.toNat 0 8 ≠ 1) :
    s.linkUnit w = s.modMirror fun m => { m with rxSeq := m.rxSeq + 1, rxWaiting := false, heard := s.nowPs } := by
  unfold State.linkUnit
  rw [if_neg (by simp [hlink]), if_pos ⟨hcrc, hseq⟩, State.heardNow_of_link hlink]
  exact if_neg hdata

section Broken

variable {w : BitVec 512} (hbad : unitCrcOk w = false ∨ fld w.toNat 16 48 ≠ s.mirror.rxSeq.toNat)
include hbad

theorem State.linkUnit_resend (hfirst : s.mirror.rxWaiting = false) :
    s.linkUnit w = (s.modMirror fun m => { m with rxWaiting := true }).emit (.link 1 [1, s.mirror.rxSeq.toNat]) := by
  unfold State.linkUnit
  rw [if_neg (by simp [hlink]), if_neg (by rcases hbad with h | h <;> simp [h]), if_neg (by simp [hfirst])]

theorem State.linkUnit_discarded (hasked : s.mirror.rxWaiting = true) : s.linkUnit w = s := by
  unfold State.linkUnit
  rw [if_neg (by simp [hlink]), if_neg (by rcases hbad with h | h <;> simp [h]), if_pos hasked]

end Broken

theorem State.linkAck_sends (hnew : s.mirror.ackRound ≠ some s.tt.round) :
    s.linkAck = (s.modMirror fun m => { m with ackRound := some s.tt.round }).emit (.link 1 [0, (s.mirror.rxSeq - 1).toNat]) :=
  if_pos ⟨hlink, hnew⟩

end Up

theorem State.linkAck_once {s : State} (hsent : s.mirror.ackRound = some s.tt.round) : s.linkAck = s := if_neg (by simp [hsent])

/-! ### The ends of the link (19_pair R460 to R462) -/

theorem State.endCheck_linkUp (s : State) : s.endCheck.mirror.linkUp = s.mirror.linkUp := by
  unfold State.endCheck
  split
  · rfl
  · rw [State.mirror_of_aside (State.complete_aside ..)]
    rfl

theorem State.settleCheck_linkUp (s : State) : s.settleCheck.mirror.linkUp = s.mirror.linkUp := by
  have hregions (rs : List (Fin 19)) : (rs.foldl (fun (t : State) r => t.setRegion r.val 1) s).mirror.linkUp = s.mirror.linkUp :=
    foldl_invariant (π := fun t : State => t.mirror.linkUp) (fun t r => (rfl : (t.setRegion r.val 1).mirror.linkUp = t.mirror.linkUp)) s rs
  unfold State.settleCheck
  split
  · rfl
  · split
    · exact State.endCheck_linkUp s
    · split
      · exact (State.endCheck_linkUp _).trans (hregions _)
      · rfl

theorem State.linkGoDown_takes_down {s : State} (hlink : s.mirror.linkUp = true) :
    ∃ t : State, s.linkGoDown = t.raise 1316 ∧ t.mirror.linkUp = false := by
  unfold State.linkGoDown
  rw [if_neg (by simp [hlink])]
  exact ⟨_, rfl, State.settleCheck_linkUp _⟩

theorem State.linkDownBy_takes_down {s : State} {c : LinkDownCause} (hlink : s.mirror.linkUp = true)
    (hcause : (c = .silence ∧ s.due (s.mirror.heard + 2 * usPs) = true) ∨ c = .lockLoss ∨ (c = .resends ∧ 16 ≤ s.mirror.resendRun) ∨
      (c = .disabled ∧ s.mirror.linkEnable = false)) :
    ∃ t : State, s.linkDownBy c = t.raise 1316 ∧ t.mirror.linkUp = false := by
  obtain ⟨rfl, hdue⟩ | rfl | ⟨rfl, hrun⟩ | ⟨rfl, hoff⟩ := hcause
  · obtain ⟨t, ht, hdown⟩ := State.linkGoDown_takes_down (s := s.reach (s.mirror.heard + 2 * usPs)) hlink
    exact ⟨t, (if_pos hdue).trans ht, hdown⟩
  · exact State.linkGoDown_takes_down hlink
  · obtain ⟨t, ht, hdown⟩ := State.linkGoDown_takes_down hlink
    exact ⟨t, (if_pos hrun).trans ht, hdown⟩
  · obtain ⟨t, ht, hdown⟩ := State.linkGoDown_takes_down hlink
    exact ⟨t, (if_neg (by simp [hoff])).trans ht, hdown⟩

section ComesUp

variable {s : State} (hdown : s.mirror.linkUp = false) (henable : s.mirror.linkEnable = true) (hphase : 4 ≤ s.boot.phase)
  (hslot : s.boot.failed = false) {d : Nat}
include hdown henable hphase hslot

theorem State.linkComesUp_near (hnear : d ≤ 1000000) :
    s.linkComesUp d = s.modMirror fun m =>
      { m with linkUp := true, downAt := none, dPs := d, rxSeq := 0, rxWaiting := false, resendRun := 0, peer := none,
               heard := s.nowPs, ackRound := none, timeRound := none, digestAt := [] } := by
  unfold State.linkComesUp
  rw [if_neg (by simp [hdown, henable, hslot, hphase]), if_neg (Nat.not_lt.2 hnear)]

theorem State.linkComesUp_far (hfar : 1000000 < d) :
    s.linkComesUp d = (s.modMirror fun m => { m with dPs := d, downEvents := m.downEvents + 1 }).raise 1316 := by
  unfold State.linkComesUp
  rw [if_neg (by simp [hdown, henable, hslot, hphase]), if_pos hfar]

end ComesUp

/-! ### Messages of state, replies and tokens (19_pair R463, R467, R479; 21_counters R508) -/

/-- A STATE message remembered by a device that has no role in a pair, with its event where the pairs come to differ. -/
theorem State.stateMessage_solo {s u v : State} (hlink : s.mirror.linkUp = true) (hrole : s.mirror.role = .solo) {r : Role}
    {id : BitVec 128} {q : BitVec 64} {n : BitVec 8} (hu : (s.modMirror fun m => { m with peer := some (r, id, q, n) }) = u)
    (hv : (if s.peerAgrees && !u.peerAgrees then u.raise 1315 else u) = v) :
    s.stateMessage r id q n = v.modMirror fun m => { m with conflict := false } := by
  have hsolo : v.mirror.role = .solo := by
    have hquiet : v.aside = u.aside := hv ▸ State.branch_aside (State.raise_aside ..) rfl
    rw [State.mirror_of_aside hquiet, ← hu]
    exact hrole
  have hboth : v.bothPrimary = false := by simp [State.bothPrimary, hsolo]
  have hhanded : (s.mirror.role == .primary && s.mirroring && r == .primary) = false := by simp [hrole]
  unfold State.stateMessage
  rw [if_neg (by simp [hlink])]
  simp only [hhanded, Bool.false_and, Bool.or_false, hu, hv, hboth, Bool.and_false]
  have hnone : (v.modMirror fun m => { m with conflict := false }).mirror.role = .solo := hsolo
  simp [hnone]

section Solo

variable {s : State} (hlink : s.mirror.linkUp = true) (hrole : s.mirror.role = .solo) {r : Role} {id : BitVec 128} {q : BitVec 64}
  {n : BitVec 8}
include hlink hrole

theorem State.stateMessage_solo_same (hid : id = s.mirror.pairId ∨ s.peerAgrees = false) :
    s.stateMessage r id q n = s.modMirror fun m => { m with peer := some (r, id, q, n), conflict := false } := by
  refine State.stateMessage_solo hlink hrole rfl (if_neg ?_)
  rcases hid with h | h
  · simp [State.peerAgrees, State.modMirror, h]
  · simp [h]

theorem State.stateMessage_solo_parts (hid : id ≠ s.mirror.pairId) (hagreed : s.peerAgrees = true) :
    s.stateMessage r id q n = ((s.modMirror fun m => { m with peer := some (r, id, q, n) }).raise 1315).modMirror fun m =>
      { m with conflict := false } := by
  refine State.stateMessage_solo hlink hrole rfl (if_pos ?_)
  rw [hagreed]
  simp [State.peerAgrees, State.modMirror, hid]

end Solo

section Reply

variable {s u : State} (hlink : s.mirror.linkUp = true) (hrole : s.mirror.role = .primary) {q : BitVec 64} {status : Nat}
  (hu : (if 0x10 ≤ status ∧ status ≠ 0x20 then (s.modMirror fun m => { m with refused := m.refused + 1 }).raise 1317 else s) = u)
include hlink hrole hu

theorem State.replyMessage_idle (hidle : u.mirror.inProgress = none) : s.replyMessage q status false = u := by
  subst hu
  unfold State.replyMessage
  rw [if_neg (by simp [hlink, hrole])]
  dsimp only
  rw [if_neg Bool.false_ne_true, hidle]

section InProgress

variable {c : MirroredCmd} (hc : u.mirror.inProgress = some c) (hseq : c.seq = q)
include hc hseq

theorem State.replyMessage_releases (hown : c.own.isSome = true) : s.replyMessage q status false = u.releaseMirrored := by
  obtain ⟨own, hown⟩ := Option.isSome_iff_exists.1 hown
  subst hu
  unfold State.replyMessage
  rw [if_neg (by simp [hlink, hrole])]
  dsimp only
  rw [if_neg Bool.false_ne_true, hc]
  simp [hseq, hown]

theorem State.replyMessage_noted (hown : c.own = none) :
    s.replyMessage q status false = u.modMirror fun m => { m with inProgress := some { c with peerSeen := true } } := by
  subst hu
  unfold State.replyMessage
  rw [if_neg (by simp [hlink, hrole])]
  dsimp only
  rw [if_neg Bool.false_ne_true, hc]
  simp [hseq, hown]

end InProgress

end Reply

/-- What each token does on a link that is up. -/
theorem State.tokenMessage_taken {s : State} (hlink : s.mirror.linkUp = true) :
    (∀ no, s.tokenMessage (.mark no) = (s.latchMark no).sendToken 1 0) ∧
    s.tokenMessage .markAck = { s with pmc := { s.pmc with markBusy := false } } ∧
    s.tokenMessage .barrier = s.sendToken 3 0 ∧
    s.tokenMessage .barrierAck = (s.modMirror fun m => { m with checkAck := m.checkWait.isSome }).settleCheck := by
  have hup : ¬(!s.mirror.linkUp) = true := by simp [hlink]
  exact ⟨fun _ => if_neg hup, if_neg hup, if_neg hup, if_neg hup⟩

/-- Settles O25, message by message. Two things are the model's choice: a traversal above 1,000 ns counts a down event without the link
having been up (log entry 52), and every message restarts the time of silence (138), which is what `heardNow` says. -/
theorem dovetailLinkRuns : Obligations.DovetailLinkRuns := by
  unfold Obligations.DovetailLinkRuns
  refine ⟨?units, ?acks, ?downs, ?ups, ?states, ?replies, ?tokens, fun s hlink => State.heardNow_of_link hlink⟩
  case units =>
    exact fun s w hlink => ⟨fun hcrc hseq hdata => congrArg Host.Outcome.next (State.linkUnit_in_order hlink hcrc hseq hdata),
      fun hbad hfirst => congrArg Host.Outcome.next (State.linkUnit_resend hlink hbad hfirst),
      fun hbad hasked => congrArg Host.Outcome.next (State.linkUnit_discarded hlink hbad hasked)⟩
  case acks =>
    exact fun s hlink => ⟨fun hnew => congrArg Host.Outcome.next (State.linkAck_sends hlink hnew),
      fun hsent => congrArg Host.Outcome.next (State.linkAck_once hsent)⟩
  case downs =>
    intro s c hcause hlink
    obtain ⟨t, ht, hdown⟩ := State.linkDownBy_takes_down hlink hcause
    exact ⟨t, congrArg Host.Outcome.next ht, hdown⟩
  case ups =>
    exact fun s d hdown henable hphase hslot =>
      ⟨fun hnear => congrArg Host.Outcome.next (State.linkComesUp_near hdown henable hphase hslot hnear),
        fun hfar => congrArg Host.Outcome.next (State.linkComesUp_far hdown henable hphase hslot hfar)⟩
  case states =>
    intro s r id q n hlink hrole
    have hheard := State.heardNow_of_link hlink
    have hagrees : s.heardNow.peerAgrees = s.peerAgrees := by rw [hheard]; rfl
    have hpair : s.heardNow.mirror.pairId = s.mirror.pairId := by rw [hheard]; rfl
    rw [← State.heardNow_linkUp] at hlink
    rw [← State.heardNow_role] at hrole
    rw [← hagrees, ← hpair]
    refine ⟨fun hid => congrArg Host.Outcome.next ((State.stateMessage_solo_same hlink hrole hid).trans ?_),
      fun hid hagreed => congrArg Host.Outcome.next ((State.stateMessage_solo_parts hlink hrole hid hagreed).trans ?_)⟩
    all_goals rw [hheard]; rfl
  case replies =>
    intro s v u q st hlink hrole hv hu
    subst hv
    rw [← State.heardNow_linkUp] at hlink
    rw [← State.heardNow_role] at hrole
    exact ⟨fun hidle => congrArg Host.Outcome.next (State.replyMessage_idle hlink hrole hu hidle),
      fun c hc hseq hown => congrArg Host.Outcome.next (State.replyMessage_releases hlink hrole hu hc hseq hown),
      fun c hc hseq hown => congrArg Host.Outcome.next (State.replyMessage_noted hlink hrole hu hc hseq hown)⟩
  case tokens =>
    intro s v no hlink hv
    subst hv
    rw [← State.heardNow_linkUp] at hlink
    obtain ⟨hmark, hack, hbarrier, hended⟩ := State.tokenMessage_taken hlink
    exact ⟨congrArg Host.Outcome.next (hmark no), congrArg Host.Outcome.next hack, congrArg Host.Outcome.next hbarrier,
      congrArg Host.Outcome.next hended⟩

end Sys2Proof.Machine
end

section
/-!
The ends of notices, barriers, read requests and waits of the DMA engine (17_host R424 to R438; 11_pool R283; 18_instances R454).
-/

namespace Sys2Proof.Machine

/-! ### Learning notices (17_host R434) -/

/-- The NOTICE ring that is ready. -/
def State.noticeRing (s : State) : Option (Nat × DmaRing) :=
  s.host.rings.find? fun y => y.2.enable && y.2.typ == 5 && !y.2.halted && !y.2.resetBusy

/-- The ring has raised an event within 1 µs before an instant. -/
def DmaRing.eventHeld (d : DmaRing) (now : Nat) : Bool :=
  match d.lastEvent with | some t => decide (now < t + usPs) | none => false

theorem DmaRing.eventHeld_of_soon {d : DmaRing} {now t : Nat} (ht : d.lastEvent = some t) (hsoon : now < t + 1000000) :
    d.eventHeld now = true := by
  rw [DmaRing.eventHeld, ht]
  exact decide_eq_true hsoon

theorem DmaRing.eventHeld_of_later {d : DmaRing} {now : Nat} (hlater : ∀ t, d.lastEvent = some t → t + 1000000 ≤ now) :
    d.eventHeld now = false := by
  unfold DmaRing.eventHeld
  split
  · exact decide_eq_false (Nat.not_lt.2 (hlater _ ‹_›))
  · rfl

/-- The notice at the write position of the ring, which moves past it. -/
def State.noticeWritten (s : State) (r : Nat) (d : DmaRing) (x : List Byte) : State :=
  (s.hostWrite d.owner.val (d.circBase.toNat / 4096 * 4096 + d.wpos.toNat % 2 ^ d.circLog2.toNat) x).modDma r fun d =>
    { d with wpos := d.wpos + BitVec.ofNat 64 x.length }

section Notice

variable {s u : State} {x : List Byte} {rest : List (List Byte)} (holdest : s.host.notices = x :: rest)
  (hlive : s.host.frozen = false) (hu : { s with host := { s.host with notices := rest } } = u)
include holdest hlive hu

theorem State.noticeWrite_no_ring (hring : s.noticeRing = none) : s.noticeWrite = u.tick 0x99 := by
  subst hu
  unfold State.noticeRing at hring
  unfold State.noticeWrite
  rw [holdest]
  dsimp only
  rw [hring]
  exact if_neg (by simp [hlive])

section Ring

variable {r : Nat} {d : DmaRing} (hring : s.noticeRing = some (r, d))
include hring

theorem State.noticeWrite_full (hfull : d.rpos.toNat + 2 ^ d.circLog2.toNat < d.wpos.toNat + x.length) :
    s.noticeWrite = (u.tick 0x99).modDma r fun d => { d with dropped := d.dropped + 1 } := by
  subst hu
  unfold State.noticeRing at hring
  unfold State.noticeWrite
  rw [holdest]
  dsimp only
  rw [hring]
  exact (if_neg (by simp [hlive])).trans (if_pos hfull)

/-- The notice is written, and its event raised where the ring holds none back. -/
theorem State.noticeWrite_room {v : State} (hroom : d.wpos.toNat + x.length ≤ d.rpos.toNat + 2 ^ d.circLog2.toNat)
    (hv : u.noticeWritten r d x = v) :
    s.noticeWrite = if d.eventHeld v.nowPs then v
      else (v.modDma r fun d => { d with lastEvent := some v.nowPs }).raise r := by
  subst hu hv
  unfold State.noticeRing at hring
  unfold State.noticeWrite
  rw [holdest]
  dsimp only
  rw [hring]
  exact (if_neg (by simp [hlive])).trans (if_neg (Nat.not_lt.2 hroom))

end Ring

end Notice

/-! ### Barriers and read completions (17_host R424, R437; 18_instances R454) -/

theorem State.barrierDone_ends {s : State} {r : Nat} {q : ReadReq}
    (hq : s.host.reads.find? (fun q => q.purpose == .barrier r && !q.fenced) = some q) :
    s.barrierDone r = (((s.endRead q.tag).finishBarrier r).settleRing r).settleInst := by
  rw [State.barrierDone, hq]

theorem State.barrierDone_none {s : State} {r : Nat}
    (hq : s.host.reads.find? (fun q => q.purpose == .barrier r && !q.fenced) = none) : s.barrierDone r = s := by
  rw [State.barrierDone, hq]

section Completion

variable {s : State} {t : BitVec 14} {rd : HostRead} (run : Nat → State → State)

theorem State.readEnd_unknown (hq : s.host.reads.find? (fun q => q.tag == t) = none) : s.readEnd t rd run = s := by
  rw [State.readEnd, hq]

variable {q : ReadReq} (hq : s.host.reads.find? (fun q => q.tag == t) = some q) (hends : rd ≠ .outstanding)
include hq hends

theorem State.readEnd_of_fenced (hfenced : q.fenced = true) :
    s.readEnd t rd run = ({ s.endRead t with host := { (s.endRead t).host with
      lateCpl := (s.endRead t).host.lateCpl + 1 } } : State).settleReads q := by
  simp [State.readEnd, hq, hends, hfenced]

variable (hlive : q.fenced = false) {r : Nat}
include hlive

theorem State.readEnd_of_ring (hfor : q.purpose = .ring r) :
    s.readEnd t rd run =
      (if rd = .data then (s.endRead t).burstOf r .data else (s.endRead t).haltRing r 0x30).settleReads q := by
  simp only [State.readEnd, hq, if_neg hends, hlive, hfor, State.ringReadEnd]
  by_cases hdata : rd = .data <;> simp [hdata]

theorem State.readEnd_of_barrier (hfor : q.purpose = .barrier r) :
    s.readEnd t rd run =
      (if rd = .data then (s.endRead t).finishBarrier r else (s.endRead t).haltRing r 0x30).settleReads q := by
  simp only [State.readEnd, hq, if_neg hends, hlive, hfor]
  rfl

end Completion

/-! ### Waits (17_host R427, R428, R433; 11_pool R283; 18_instances R450) -/

/-- The cells that the chain a ring waits with asks for. -/
def State.cellsWanted (s : State) (r : Nat) : Nat :=
  match s.gather r (s.dma r).head [] 64 with | .chain ds => cellsFor (chainLen ds) | _ => 0

section Wait

variable {s : State} {r : Nat}

theorem State.waitResume_held (hheld : s.host.frozen = true ∨ (s.inst (s.dma r).owner.val).st ≠ .active) : s.waitResume r = s :=
  if_pos hheld

theorem State.waitResume_goes_on {refused : Bool}
    (hrefused : refused = ((s.dma r).waitQuota && !s.mayAllocate (s.dma r).owner.val (s.cellsWanted r))) (hlive : s.host.frozen = false)
    (hactive : (s.inst (s.dma r).owner.val).st = .active) :
    s.waitResume r = (if refused then s.refuseAllocation (s.dma r).owner.val else s).modDma r fun d =>
      { d with
        waitCab := d.waitCab && (if refused then s.refuseAllocation (s.dma r).owner.val else s).cab.paused
        waitReport := d.waitReport && !(if refused then s.refuseAllocation (s.dma r).owner.val else s).reportRoom r
        waitQuota := refused } := by
  subst hrefused
  exact if_neg (by simp [hlive, hactive])

end Wait

/-! ### Timeouts and quarantines (17_host R412, R437, R438) -/

section Timeout

variable {s : State} {t : BitVec 14}

theorem State.readTimeout_unknown (hq : s.host.reads.find? (fun q => q.tag == t) = none) : s.readTimeout t = s := by
  rw [State.readTimeout, hq]

variable {q : ReadReq} (hq : s.host.reads.find? (fun q => q.tag == t) = some q)
include hq

theorem State.readTimeout_early (hdue : s.due (q.issued + q.tct) = false) : s.readTimeout t = s := by
  simp [State.readTimeout, hq, hdue]

/-- A timeout counted and marked in the error record of its function. -/
def State.timeoutCounted (s : State) (q : ReadReq) : State :=
  ({ s with host := { s.host with cplTimeout := s.host.cplTimeout + 1 } } : State).modFn q.fn fun f => { f with aerTimeout := true }

/-- The tag of a read placed in quarantine for twice its timeout. -/
def State.quarantined (s : State) (q : ReadReq) (t : BitVec 14) : State :=
  { s with host := { s.host with quarantine := s.host.quarantine ++ [(t, s.nowPs + 2 * q.tct, q.fn)] } }

variable {u : State} (hdue : s.due (q.issued + q.tct) = true) (hu : (s.reach (q.issued + q.tct)).endRead t = u)
include hdue hu

theorem State.readTimeout_of_fenced (hfenced : q.fenced = true) : s.readTimeout t = (u.timeoutCounted q).settleReads q := by
  subst hu
  simp [State.readTimeout, hq, hdue, hfenced, State.timeoutCounted]

variable (hlive : q.fenced = false)
include hlive

theorem State.readTimeout_of_ring {r : Nat} (hfor : q.purpose = .ring r ∨ q.purpose = .barrier r) :
    s.readTimeout t = (((u.timeoutCounted q).quarantined q t).haltRing r 0x22).settleReads q := by
  subst hu
  rcases hfor with h | h <;> simp only [State.readTimeout, hq, hdue, hlive, h] <;> rfl

theorem State.readTimeout_of_command {n : Nat} (hfor : q.purpose = .command n) :
    s.readTimeout t = (((u.timeoutCounted q).quarantined q t).slotUnread n).settleReads q := by
  subst hu
  simp only [State.readTimeout, hq, hdue, hlive, hfor]
  rfl

theorem State.readTimeout_of_log {n : Nat} (hfor : q.purpose = .dirtyLog n) :
    s.readTimeout t = ((u.timeoutCounted q).quarantined q t).settleReads q := by
  subst hu
  simp only [State.readTimeout, hq, hdue, hlive, hfor]
  rfl

end Timeout

theorem State.timeoutCounted_marks (s : State) (q : ReadReq) : ((s.timeoutCounted q).fn q.fn).aerTimeout = true := by
  have hset (f : FnCfg) : ({ f with aerTimeout := true } : FnCfg) ≠ FnCfg.init := fun h => by
    simpa [FnCfg.init] using congrArg FnCfg.aerTimeout h
  exact congrArg FnCfg.aerTimeout (tget_tmod_of_ne FnCfg.init s.host.fns q.fn (fun f => { f with aerTimeout := true }) (hset _))

section Quarantine

variable {s : State} {t : BitVec 14}

theorem State.quarantine_unknown (hq : s.host.quarantine.find? (fun q => q.1 == t) = none) :
    s.lateCompletion t = s ∧ s.quarantineEnd t = s := by
  rw [State.lateCompletion, State.quarantineEnd, hq]
  exact ⟨rfl, rfl⟩

variable {q : BitVec 14 × Nat × Nat} (hq : s.host.quarantine.find? (fun q => q.1 == t) = some q)
include hq

theorem State.lateCompletion_counted :
    s.lateCompletion t = ({ s with host := { s.host with lateCpl := s.host.lateCpl + 1 } } : State).modFn q.2.2 fun f =>
      { f with aerUnexpected := true } := by
  rw [State.lateCompletion, hq]

theorem State.quarantineEnd_early (hdue : s.due q.2.1 = false) : s.quarantineEnd t = s := by
  simp [State.quarantineEnd, hq, hdue]

theorem State.quarantineEnd_due (hdue : s.due q.2.1 = true) :
    s.quarantineEnd t = { s.reach q.2.1 with host := { (s.reach q.2.1).host with
      quarantine := (s.reach q.2.1).host.quarantine.filter fun x => x.1 != t } } := by
  simp [State.quarantineEnd, hq, hdue]

end Quarantine

/-- Settles O41, event by event. Two things are the model's choice: a notice within 1 µs of the last event raises none (log entry 26),
and an event whose request or tag is not there, or that is not due, does nothing (104). -/
theorem readsAndWaitsEnd : Obligations.ReadsAndWaitsEnd := by
  unfold Obligations.ReadsAndWaitsEnd
  refine ⟨?notice, ?barrier, ?completion, ?wait, ?timeout, ?quarantine⟩
  case notice =>
    intro s u x rest holdest hlive hu
    refine ⟨fun hring => congrArg Host.Outcome.next (State.noticeWrite_no_ring holdest hlive hu hring), fun r d hring =>
      ⟨fun hfull => congrArg Host.Outcome.next (State.noticeWrite_full holdest hlive hu hring hfull), fun v hroom hv => ?_⟩⟩
    have hwritten := State.noticeWrite_room holdest hlive hu hring hroom hv
    exact ⟨fun hlater =>
        congrArg Host.Outcome.next (hwritten.trans (if_neg (Bool.eq_false_iff.1 (DmaRing.eventHeld_of_later hlater)))),
      fun t ht hsoon => congrArg Host.Outcome.next (hwritten.trans (if_pos (DmaRing.eventHeld_of_soon ht hsoon)))⟩
  case barrier =>
    exact fun s r => ⟨fun q hq => congrArg Host.Outcome.next (State.barrierDone_ends hq),
      fun hq => congrArg Host.Outcome.next (State.barrierDone_none hq)⟩
  case completion =>
    refine fun s t rd => ⟨fun hq => congrArg Host.Outcome.next (State.readEnd_unknown _ hq), fun q hq hends => ⟨?_, ?_, ?_⟩⟩
    · rintro u hfenced rfl
      exact congrArg Host.Outcome.next (State.readEnd_of_fenced _ hq hends hfenced)
    · exact fun r hlive hfor => congrArg Host.Outcome.next (State.readEnd_of_ring _ hq hends hlive hfor)
    · exact fun r hlive hfor => congrArg Host.Outcome.next (State.readEnd_of_barrier _ hq hends hlive hfor)
  case wait =>
    intro s r need refused hneed hrefused
    obtain rfl : need = s.cellsWanted r.val := hneed
    exact ⟨fun hlive hactive => congrArg Host.Outcome.next (State.waitResume_goes_on hrefused hlive hactive),
      fun hheld => congrArg Host.Outcome.next (State.waitResume_held hheld)⟩
  case timeout =>
    refine fun s t => ⟨fun hq => congrArg Host.Outcome.next (State.readTimeout_unknown hq),
      fun q hq hdue => congrArg Host.Outcome.next (State.readTimeout_early hq hdue), fun q u hq hdue hu => ?_⟩
    by_cases hfenced : q.fenced = true
    · refine ⟨u.timeoutCounted q, rfl, u.timeoutCounted_marks q, ?_,
        fun _ => congrArg Host.Outcome.next (State.readTimeout_of_fenced hq hdue hu hfenced), ?_, ?_, ?_⟩
      · rw [if_pos hfenced, List.append_nil]
        rfl
      all_goals exact fun _ hlive => absurd hfenced (by rw [hlive]; exact Bool.false_ne_true)
    · have hlive : q.fenced = false := Bool.eq_false_iff.2 hfenced
      refine ⟨(u.timeoutCounted q).quarantined q t, rfl, u.timeoutCounted_marks q, ?_, fun h => absurd h hfenced,
        fun r _ hfor => congrArg Host.Outcome.next (State.readTimeout_of_ring hq hdue hu hlive hfor),
        fun n _ hfor => congrArg Host.Outcome.next (State.readTimeout_of_command hq hdue hu hlive hfor),
        fun n _ hfor => congrArg Host.Outcome.next (State.readTimeout_of_log hq hdue hu hlive hfor)⟩
      rw [if_neg hfenced]
      rfl
  case quarantine =>
    refine fun s t => ⟨fun hq => ?_, fun q hq => ⟨congrArg Host.Outcome.next (State.lateCompletion_counted hq),
      fun hdue => congrArg Host.Outcome.next (State.quarantineEnd_early hq hdue), ?_⟩⟩
    · obtain ⟨hlate, hend⟩ := State.quarantine_unknown hq
      exact ⟨congrArg Host.Outcome.next hlate, congrArg Host.Outcome.next hend⟩
    · rintro u hdue rfl
      exact congrArg Host.Outcome.next (State.quarantineEnd_due hq hdue)

end Sys2Proof.Machine
end

section
/-!
The rings of the DMA engine: what each piece of their work leaves of the ring itself. A ring of a type keeps it, and a chain that is
completed, abandoned or halted is no longer in progress.
-/

namespace Sys2Proof.Machine

/-! ### A ring read back -/

/-- A ring that has a type. -/
def State.Typed (s : State) (r : Nat) : Prop := (s.dma r).typ ≠ 0
/-- A ring that has a type and no chain in progress. -/
def State.AtRest (s : State) (r : Nat) : Prop := (s.dma r).typ ≠ 0 ∧ (s.dma r).chain = none

/-- A changed ring that has a type reads back, whatever the form of the table of rings. -/
theorem State.dma_modDma_of_typ {s : State} {r : Nat} {f : DmaRing → DmaRing} (h : (f (s.dma r)).typ ≠ 0) :
    (s.modDma r f).dma r = f (s.dma r) :=
  tget_tmod_of_ne DmaRing.init s.host.rings r f fun he => h (by rw [State.dma, he]; rfl)

section Ring

variable {s : State} {r : Nat}

theorem State.typed_of_aside {t : State} (h : t.aside = s.aside) (hs : s.Typed r) : t.Typed r := by
  rw [State.Typed, State.dma_of_aside h]
  exact hs

theorem State.atRest_of_aside {t : State} (h : t.aside = s.aside) (hs : s.AtRest r) : t.AtRest r := by
  rw [State.AtRest, State.dma_of_aside h]
  exact hs

theorem State.typed_modDma {f : DmaRing → DmaRing} (hf : ∀ d, (f d).typ = d.typ) (hs : s.Typed r) : (s.modDma r f).Typed r := by
  have hread : (f (s.dma r)).typ ≠ 0 := by rw [hf]; exact hs
  rw [State.Typed, State.dma_modDma_of_typ hread]
  exact hread

/-- A change of a ring that leaves no chain in progress. -/
theorem State.atRest_modDma {f : DmaRing → DmaRing} (hf : ∀ d, (f d).typ = d.typ) (hs : s.Typed r)
    (hchain : (f (s.dma r)).chain = none) : (s.modDma r f).AtRest r := by
  have hread : (f (s.dma r)).typ ≠ 0 := by rw [hf]; exact hs
  rw [State.AtRest, State.dma_modDma_of_typ hread]
  exact ⟨hread, hchain⟩

theorem State.AtRest.typed (hs : s.AtRest r) : s.Typed r := hs.1

/-! ### Descriptors, chains and halts (17_host R422 to R424, R437) -/

theorem State.typed_completeDesc (i : BitVec 32) (d : List Byte) (hs : s.Typed r) : (s.completeDesc r i d).Typed r := by
  unfold State.completeDesc
  refine State.typed_of_aside (State.branch_aside (State.raise_aside ..) rfl)
    (State.typed_modDma (fun _ => rfl) (State.typed_of_aside ?_ hs))
  exact (State.hostWrite_aside ..).trans (State.hostWrite_aside ..)

theorem State.typed_completeRun (xs : List (BitVec 32 × List Byte)) (hs : s.Typed r) : (s.completeRun r xs).Typed r := by
  induction xs generalizing s with
  | nil => exact hs
  | cons x rest ih => exact ih (State.typed_completeDesc x.1 x.2 hs)

theorem State.atRest_completeChain (ds : List (List Byte)) (status detail : Nat) (hs : s.Typed r) :
    (s.completeChain r ds status detail).AtRest r :=
  State.atRest_modDma (fun _ => rfl) (State.typed_completeRun _ hs) rfl

theorem State.issueRead_aside (s : State) (fn : Nat) (why : ReadFor) : (s.issueRead fn why).aside = s.aside := by
  unfold State.issueRead
  dsimp only
  split <;> rfl

theorem State.atRest_completeWrites (xs : List (BitVec 32 × List Byte)) (wrote : Bool) (hs : s.Typed r) :
    (s.completeWrites r xs wrote).AtRest r := by
  unfold State.completeWrites
  exact State.atRest_of_aside (State.branch_aside rfl (State.issueRead_aside ..))
    (State.atRest_modDma (fun _ => rfl) (State.typed_completeRun _ hs) rfl)

theorem State.atRest_dropChain (hs : s.Typed r) : (s.dropChain r).AtRest r := by
  unfold State.dropChain
  refine State.atRest_modDma (fun _ => rfl) ?_ rfl
  split
  · rename_i c _
    have hheld : (match c.hold with | some first => s.decrement first (s.dma r).owner.val 1 | none => s).Typed r := by
      split
      · exact State.typed_of_aside (State.decrement_aside ..) hs
      · exact hs
    dsimp only
    split
    · exact State.typed_modDma (fun _ => rfl) hheld
    · exact hheld
  · exact hs

theorem State.atRest_haltRing (code : Nat) (hs : s.Typed r) : (s.haltRing r code).AtRest r := by
  unfold State.haltRing
  exact State.atRest_of_aside (State.raise_aside ..)
    (State.atRest_modDma (fun _ => rfl) (State.atRest_dropChain hs).typed (State.atRest_dropChain hs).2)

/-! ### INJECT (17_host R425 to R428, R433) -/

theorem State.pushInject_aside (s : State) (r : Nat) (f : Frame) : (s.pushInject r f).aside = s.aside := rfl

theorem State.typed_reserveReport (on : Bool) (hs : s.Typed r) : (s.reserveReport r on).Typed r := by
  unfold State.reserveReport
  split
  · exact State.typed_modDma (fun _ => rfl) hs
  · exact hs

/-- A table whose entries are changed alike, the entry it leaves out as it is. -/
theorem tget_map {α : Type} (d : α) (t : Tbl α) (k : Nat) {f : α → α} (hf : f d = d) :
    tget d (t.map fun x => (x.1, f x.2)) k = f (tget d t k) := by
  induction t with
  | nil => exact hf.symm
  | cons x rest ih =>
    simp only [List.map_cons, tget]
    split
    · rfl
    · exact ih

theorem State.typed_loosenChains (c : Nat) (hs : s.Typed r) : (s.loosenChains c).Typed r := by
  have hread := tget_map DmaRing.init s.host.rings r
    (f := fun d => { d with chain := d.chain.map fun k => if k.hold = some c then { k with loose := true } else k }) rfl
  exact fun h => hs ((congrArg DmaRing.typ hread).symm.trans h)

theorem State.typed_hostFree (pointer req : Nat) (hs : s.Typed r) : (s.hostFree pointer req).Typed r := by
  have hcounted : ({ s with pool := { s.pool with ptrRejected := s.pool.ptrRejected + 1 } } : State).Typed r := hs
  unfold State.hostFree
  dsimp only
  split
  · exact State.typed_of_aside (State.poolLog_aside ..) hcounted
  · split
    · exact State.typed_of_aside (State.poolLog_aside ..) hcounted
    · refine State.typed_of_aside (State.decrement_aside ..) ?_
      split
      · exact State.typed_loosenChains _ (State.typed_of_aside rfl hs)
      · exact hs

theorem State.atRest_injectLeased (d : List Byte) (hs : s.AtRest r) : (s.injectLeased r d).AtRest r := by
  unfold State.injectLeased
  dsimp only
  split
  · exact State.atRest_completeChain _ _ _ (State.typed_hostFree _ _ hs.typed)
  · split
    · exact State.atRest_completeChain _ _ _ hs.typed
    · split
      · exact State.atRest_completeChain _ _ _ hs.typed
      · split
        · exact State.atRest_completeChain _ _ _ hs.typed
        · split
          · exact State.atRest_modDma (fun _ => rfl) hs.typed hs.2
          · exact State.atRest_of_aside (State.pushInject_aside ..)
              (State.atRest_completeChain _ _ _ (State.typed_reserveReport _ hs.typed))

theorem State.atRest_injectEnd (c : ChainProg) (cells : List Nat) (data : List Byte) (hs : s.Typed r) :
    (s.injectEnd r c cells data).AtRest r := by
  unfold State.injectEnd
  dsimp only
  split
  · exact State.atRest_completeChain _ _ _ (State.atRest_dropChain hs).typed
  · refine State.atRest_of_aside (State.pushInject_aside ..) (State.atRest_completeChain _ _ _ ?_)
    have hfilled := State.typed_of_aside (State.fillCells_aside s (cells.drop (c.moved / 256))
      (data.drop c.moved ++ bytesLe 4 (crc32 data).toNat)) hs
    split
    · exact State.typed_of_aside rfl hfilled
    · exact hfilled

/-- The pieces of a burst that lie in the Cabinet, touched. -/
def State.touchPieces (s : State) (ps : List (Nat × Nat × Nat)) : State :=
  ps.foldl (fun (s : State) p => if p.1 = 2 then s.cabTouch 1 p.2.1 p.2.2 else s) s

theorem State.touchPieces_aside (s : State) (ps : List (Nat × Nat × Nat)) : (s.touchPieces ps).aside = s.aside := by
  unfold State.touchPieces
  refine State.foldl_aside (fun t p => ?_) s ps
  exact State.branch_aside (State.cabTouch_aside ..) rfl

/-- What an INJECT chain's last burst does with the bytes of its pieces. -/
theorem State.injectBurst_last {c : ChainProg} (hlast : chainLen c.descs ≤ c.moved + 4096) :
    s.injectBurst r c =
      (s.touchPieces (linkPieces c.descs c.moved burstBytes)).injectEnd r
        { c with bad := c.bad || (linkPieces c.descs c.moved burstBytes).any fun p => (s.spaceRead p.1 p.2.1 p.2.2).2 }
        (chainCells (s.touchPieces (linkPieces c.descs c.moved burstBytes)).buf.links (cellsFor (chainLen c.descs)) (c.hold.getD 0))
        ((((chainCells (s.touchPieces (linkPieces c.descs c.moved burstBytes)).buf.links (cellsFor (chainLen c.descs))
            (c.hold.getD 0)).take (c.moved / 256)).map fun k =>
              ((s.touchPieces (linkPieces c.descs c.moved burstBytes)).cell k).data).flatten ++
          ((linkPieces c.descs c.moved burstBytes).map fun p => (s.spaceRead p.1 p.2.1 p.2.2).1).flatten) := by
  unfold State.injectBurst
  refine (if_neg (Nat.not_lt.2 hlast)).trans ?_
  rw [List.any_map, List.map_map]
  rfl

theorem State.atRest_injectBurst {c : ChainProg} (hlast : chainLen c.descs ≤ c.moved + 4096) (hs : s.Typed r) :
    (s.injectBurst r c).AtRest r := by
  rw [State.injectBurst_last hlast]
  exact State.atRest_injectEnd _ _ _ (State.typed_of_aside (State.touchPieces_aside ..) hs)

/-! ### DELIVER, LEASE and COPY (17_host R429 to R433) -/

theorem State.spread_aside (s : State) (own o : Nat) (part : List Byte) (ds : List (List Byte)) :
    (s.spread own o part ds).aside = s.aside := by
  induction ds generalizing s o part with
  | nil => rfl
  | cons d rest ih => exact State.branch_aside (ih ..) ((ih ..).trans (State.hostWrite_aside ..))

theorem State.piecesWrite_aside (s : State) (space own : Nat) (bs : List Byte) (ps : List (Nat × Nat)) :
    (s.piecesWrite space own bs ps).aside = s.aside := by
  induction ps generalizing s bs with
  | nil => rfl
  | cons p rest ih =>
    refine (ih ..).trans ?_
    unfold State.spaceWrite
    exact State.branch_aside (State.hostWrite_aside ..) (State.branch_aside (State.branch_aside rfl rfl)
      ((State.cabPut_aside ..).trans (State.requests_aside ..)))

theorem State.copyPart_aside (s : State) (own : Nat) (c : CopyDesc) (o n : Nat) : (s.copyPart own c o n).1.aside = s.aside := by
  have htouched : (if c.srcSpace = 2 then s.cabTouch 1 (c.src + o) n else s).aside = s.aside :=
    State.branch_aside (State.cabTouch_aside ..) rfl
  have hfree (t : State) : ({ t with freeCtr := t.freeCtr + n } : State).aside = t.aside := rfl
  unfold State.copyPart
  refine (congrArg State.aside (apply_ite Prod.fst _ _ _)).trans (State.branch_aside ?_ ?_)
  · exact (State.piecesWrite_aside ..).trans ((hfree _).trans htouched)
  · exact (State.piecesWrite_aside ..).trans htouched

theorem State.copyBytes_aside (s : State) (own : Nat) (c : CopyDesc) (moved : Nat) :
    (s.copyBytes own c moved).1.aside = s.aside := by
  unfold State.copyBytes
  split
  · split
    · exact State.copyPart_aside ..
    · rfl
  · exact State.copyPart_aside ..

theorem State.atRest_copyDone (c : ChainProg) (hs : s.Typed r) : (s.copyDone r c).AtRest r := State.atRest_completeWrites _ _ hs

end Ring

end Sys2Proof.Machine
end

section
/-!
The work of the DMA rings (17_host R422 to R436): one turn that carries a ring's piece of work to its end, and what that work is for
each type of ring.
-/

namespace Sys2Proof.Machine

/-! ### A turn of the engine (17_host R435) -/

/-- What a ring without a chain in progress takes up. -/
def State.takeUp (s : State) (r : Nat) (rd : HostRead) (cellBad : Bool) : State :=
  if (s.dma r).typ = 1 then s.injectTake r rd else if (s.dma r).typ = 4 then s.copyTake r rd else s.deliverTake r rd cellBad

theorem State.burstOf_at_rest {s : State} {r : Nat} (rd : HostRead) (hrest : s.AtRest r) : s.burstOf r rd = s := by
  rw [State.burstOf, hrest.2]

theorem State.burstOf_data {s : State} {r : Nat} {c : ChainProg} (hchain : (s.dma r).chain = some c) :
    s.burstOf r .data = s.burst r c := by
  simp [State.burstOf, hchain]

theorem State.engine_idle {s : State} {r : Nat} (rd : HostRead) (cellBad : Bool) (n : Nat) (hwork : s.hasWork r = false) :
    s.engine r rd cellBad n = s := by
  cases n with
  | zero => rfl
  | succ n => exact if_pos (by simp [hwork])

theorem State.ringWork_idle {s : State} {r : Nat} (types : List Nat) (rd : HostRead) (cellBad : Bool) (hwork : s.hasWork r = false) :
    s.ringWork r types rd cellBad = s := by
  unfold State.ringWork
  split
  · exact State.engine_idle rd cellBad _ hwork
  · rfl

section Turn

variable {s t w : State} {r : Nat} {types : List Nat} {rd : HostRead} {cellBad : Bool} (hnext : s.nextTurn = some r)
  (hwork : s.hasWork r = true) (hturn : { s with host := { s.host with turn := r } } = t)
include hnext hwork hturn

/-- A turn of ring `r` that leaves it at rest is the whole of its work. -/
theorem State.ringWork_of_turn (htypes : types.contains (t.dma r).typ.toNat = true)
    (hdone : (s.ringTurn r rd cellBad) = w.settleInst) (hrest : w.AtRest r) : s.ringWork r types rd cellBad = w.settleInst := by
  have hidle : ((w.settleInst).dma r).chain.isSome = false := by
    rw [(State.atRest_of_aside w.settleInst_aside hrest).2]
    rfl
  have hone (n : Nat) : s.engine r rd cellBad (n + 1) = w.settleInst := by
    unfold State.engine
    rw [hwork, hnext, hdone]
    simp [hidle]
  obtain ⟨n, hn⟩ : ∃ n, engineTurns = n + 1 := ⟨2 ^ 38 - 1, by rw [engineTurns]; norm_num⟩
  subst hturn
  unfold State.ringWork
  rw [hn, hone]
  exact if_pos htypes

section Idle

variable (htypes : types.contains (t.dma r).typ.toNat = true) (hidle : (t.dma r).chain = none)
include htypes hidle

/-- What a ring takes up leaves no chain in progress: its work is done. -/
theorem State.ringWork_at_rest (htake : t.takeUp r rd cellBad = w) (hrest : w.AtRest r) :
    s.ringWork r types rd cellBad = w.settleInst := by
  refine State.ringWork_of_turn hnext hwork hturn htypes ?_ hrest
  have hburst : (t.takeUp r rd cellBad).burstOf r rd = w := htake ▸ State.burstOf_at_rest rd (htake ▸ hrest)
  subst hturn
  rw [← hburst]
  exact congrArg (fun v : State => (v.burstOf r rd).settleInst) (if_neg (by rw [show (s.dma r).chain = none from hidle]; simp))

end Idle

variable {c : ChainProg} (htypes : types.contains (t.dma r).typ.toNat = true) (hrest : w.AtRest r)
include htypes hrest

/-- A ring takes a chain up and moves it in one burst. -/
theorem State.ringWork_one_burst {v : State} (hidle : (t.dma r).chain = none) (htake : t.takeUp r .data cellBad = v)
    (hchain : (v.dma r).chain = some c) (hburst : v.burst r c = w) : s.ringWork r types .data cellBad = w.settleInst := by
  refine State.ringWork_of_turn hnext hwork hturn htypes ?_ hrest
  rw [← hburst, ← State.burstOf_data hchain, ← htake]
  subst hturn
  exact congrArg (fun v : State => (v.burstOf r .data).settleInst) (if_neg (by rw [show (s.dma r).chain = none from hidle]; simp))

/-- A ring moves the last burst of its chain in progress. -/
theorem State.ringWork_last_burst (hchain : (t.dma r).chain = some c) (hburst : t.burst r c = w) :
    s.ringWork r types .data cellBad = w.settleInst := by
  refine State.ringWork_of_turn hnext hwork hturn htypes ?_ hrest
  rw [← hburst, ← State.burstOf_data hchain]
  subst hturn
  exact congrArg (fun v : State => (v.burstOf r .data).settleInst) (if_pos (by rw [show (s.dma r).chain = some c from hchain]; rfl))

end Turn

section Take

variable {t : State} {r : Nat} {rd : HostRead} {cellBad : Bool}

/-! ### INJECT (17_host R422 to R428, R433; 20_faults R488) -/

section Inject

variable (htyp : (t.dma r).typ = 1)
include htyp

theorem State.takeUp_inject : t.takeUp r rd cellBad = t.injectTake r rd := if_pos htyp

theorem State.takeUp_notOwned (hg : t.gather r (t.dma r).head [] 64 = .notOwned) : t.takeUp r rd cellBad = t.haltRing r 0x11 := by
  rw [State.takeUp_inject htyp, State.injectTake, hg]

theorem State.takeUp_tooLong (hg : t.gather r (t.dma r).head [] 64 = .tooLong) : t.takeUp r rd cellBad = t.haltRing r 0x21 := by
  rw [State.takeUp_inject htyp, State.injectTake, hg]

section Chain

variable {ds : List (List Byte)} (hg : t.gather r (t.dma r).head [] 64 = .chain ds)
include hg

theorem State.takeUp_unread (hrd : rd = .error ∨ rd = .poisoned) : t.takeUp r rd cellBad = t.haltRing r 0x30 := by
  rw [State.takeUp_inject htyp, State.injectTake, hg]
  exact if_pos hrd

theorem State.takeUp_safe (hsafe : t.flt.safe = true) : t.takeUp r .data cellBad = t.completeChain r ds 0x30 0 := by
  rw [State.takeUp_inject htyp, State.injectTake, hg]
  simp [hsafe]

variable (hrun : t.flt.safe = false)
include hrun

theorem State.takeUp_bad (hbad : t.injectBad r ds = true) : t.takeUp r .data cellBad = t.completeChain r ds 0x11 0 := by
  rw [State.takeUp_inject htyp, State.injectTake, hg]
  simp [hrun, hbad]

theorem State.takeUp_leased (hgood : t.injectBad r ds = false) (hspace : linkSpace (ds.headD []) = 3) :
    t.takeUp r .data cellBad = t.injectLeased r (ds.headD []) := by
  rw [State.takeUp_inject htyp, State.injectTake, hg]
  simp only [hrun, hgood, hspace]
  simp

theorem State.takeUp_starts (hgood : t.injectBad r ds = false) (hspace : linkSpace (ds.headD []) ≠ 3) :
    t.takeUp r .data cellBad = t.injectStart r ds := by
  rw [State.takeUp_inject htyp, State.injectTake, hg]
  simp only [hrun, hgood, if_neg hspace]
  simp

end Chain

theorem State.burst_of_safe {c : ChainProg} (hsafe : t.flt.safe = true) :
    t.burst r c = (t.dropChain r).completeChain r c.descs 0x30 0 := by
  simp [State.burst, htyp, hsafe]

theorem State.burst_of_inject {c : ChainProg} (hrun : t.flt.safe = false) (hpaused : t.cab.paused = false) :
    t.burst r c = t.injectBurst r c := by
  simp [State.burst, htyp, hrun, hpaused]

end Inject

section Start

variable {ds : List (List Byte)} {x : List Nat × State} {u : State} {c : ChainProg}
  (hx : t.allocate (t.dma r).owner.val (cellsFor (chainLen ds)) = x)
  (hu : (x.2.modDma r fun d => { d with chain := some c }).reserveReport r (wantsReport ds) = u)
include hx hu

theorem State.injectStart_starts (hpaused : t.cab.paused = false) (hroom : wantsReport ds = true → t.reportRoom r = true)
    (hmay : t.mayAllocate (t.dma r).owner.val (cellsFor (chainLen ds)) = true)
    (hc : c = { first := (t.dma r).head, descs := ds, hold := x.1.head?, report := wantsReport ds }) : t.injectStart r ds = u := by
  have hreport : ¬(wantsReport ds && !t.reportRoom r) = true := by
    cases h : wantsReport ds
    · simp
    · simp [hroom h]
  subst hx hc hu
  unfold State.injectStart
  exact (if_neg (by simp [hpaused])).trans ((if_neg hreport).trans (if_neg (by simp [hmay])))

/-- The ring behind the start of a frame: the chain in progress, everything aside from the rings as before. -/
theorem State.started_ring (htyped : t.Typed r) :
    (u.dma r).typ = (t.dma r).typ ∧ (u.dma r).chain = some c ∧ u.flt.safe = t.flt.safe ∧ u.cab.paused = t.cab.paused := by
  have haside : x.2.aside = t.aside := hx ▸ State.allocate_aside ..
  have htypx : x.2.Typed r := State.typed_of_aside haside htyped
  have hread : (x.2.modDma r fun d => { d with chain := some c }).dma r = { x.2.dma r with chain := some c } :=
    State.dma_modDma_of_typ htypx
  rw [← State.safe_of_aside haside, ← State.paused_of_aside haside, ← State.dma_of_aside haside r]
  subst hu
  unfold State.reserveReport
  split
  · rw [State.dma_modDma_of_typ (by rw [hread]; exact htypx), hread]
    exact ⟨rfl, rfl, rfl, rfl⟩
  · rw [hread]
    exact ⟨rfl, rfl, rfl, rfl⟩

end Start

/-! ### The pieces of a frame (17_host R425, R428, R433) -/

/-- Every piece lies in the space of one of the links. -/
theorem linkPieces_space {ds : List (List Byte)} {o n : Nat} {p : Nat × Nat × Nat} (hp : p ∈ linkPieces ds o n) :
    ∃ d ∈ ds, p.1 = linkSpace d := by
  induction ds generalizing o n with
  | nil => simp [linkPieces] at hp
  | cons d rest ih =>
    rw [linkPieces] at hp
    split at hp
    · obtain ⟨e, he, hs⟩ := ih hp
      exact ⟨e, List.mem_cons_of_mem _ he, hs⟩
    · rcases List.mem_cons.1 hp with rfl | hp
      · exact ⟨d, List.mem_cons_self, rfl⟩
      · split at hp
        · obtain ⟨e, he, hs⟩ := ih hp
          exact ⟨e, List.mem_cons_of_mem _ he, hs⟩
        · simp at hp

/-- A chain that breaks no rule and does not begin in space 3 has no link in space 3. -/
theorem State.linkSpace_of_good {ds : List (List Byte)} (hgood : t.injectBad r ds = false) (hspace : linkSpace (ds.headD []) ≠ 3)
    {d : List Byte} (hd : d ∈ ds) : linkSpace d ≠ 3 := by
  intro hthree
  unfold State.injectBad at hgood
  simp only [Bool.or_eq_false_iff, List.any_eq_false] at hgood
  obtain ⟨⟨hlinks, -⟩, -⟩ := hgood
  have hlone := hlinks d hd
  simp only [hthree, if_true, Bool.or_eq_true, not_or, decide_eq_true_eq] at hlone
  obtain ⟨⟨-, -, hlone⟩, -⟩ := hlone
  match ds, hd with
  | [e], hd => exact hspace ((List.mem_singleton.1 hd) ▸ hthree)
  | _ :: _ :: _, _ => simp at hlone

theorem State.touchPieces_elsewhere (s : State) {ps : List (Nat × Nat × Nat)} (hps : ∀ p ∈ ps, p.1 ≠ 2) : s.touchPieces ps = s := by
  induction ps generalizing s with
  | nil => rfl
  | cons p rest ih =>
    rw [State.touchPieces, List.foldl_cons, if_neg (hps p List.mem_cons_self)]
    exact ih s fun q hq => hps q (List.mem_cons_of_mem _ hq)

/-- A frame that lies in host or peer memory is read without a bad unit, and goes to its cells in one burst. -/
theorem State.injectBurst_over_bus {u : State} {ds : List (List Byte)} {c : ChainProg} (hgood : t.injectBad r ds = false)
    (hspace : linkSpace (ds.headD []) ≠ 3) (hbus : (ds.any fun d => linkSpace d == 2) = false) (hdescs : c.descs = ds)
    (hmoved : c.moved = 0) (hlen : chainLen ds ≤ 4096) :
    u.injectBurst r c = u.injectEnd r c (chainCells u.buf.links (cellsFor (chainLen ds)) (c.hold.getD 0))
      (((linkPieces ds 0 4096).map fun p => (u.spaceRead p.1 p.2.1 p.2.2).1).flatten) := by
  have hpieces : ∀ p ∈ linkPieces ds 0 4096, p.1 = 0 ∨ p.1 = 1 := by
    intro p hp
    obtain ⟨d, hd, hs⟩ := linkPieces_space hp
    have hcab : linkSpace d ≠ 2 := by simpa using List.any_eq_false.1 hbus d hd
    have hleased := State.linkSpace_of_good hgood hspace hd
    have hfour : linkSpace d < 4 := Nat.mod_lt _ (by decide)
    omega
  have htouch : u.touchPieces (linkPieces ds 0 4096) = u :=
    State.touchPieces_elsewhere u fun p hp => by rcases hpieces p hp with h | h <;> omega
  have hread : ((linkPieces ds 0 4096).any fun p => (u.spaceRead p.1 p.2.1 p.2.2).2) = false := by
    refine List.any_eq_false.2 fun p hp => ?_
    rcases hpieces p hp with h | h <;> simp [State.spaceRead, h]
  have hsame : ({ c with bad := c.bad || false } : ChainProg) = c := by rw [Bool.or_false]
  have hfirst : c.moved / 256 = 0 := by rw [hmoved]
  subst hdescs
  have hburst : linkPieces c.descs c.moved burstBytes = linkPieces c.descs 0 4096 := by rw [hmoved]; rfl
  rw [State.injectBurst_last (by omega), hburst, hread, htouch, hsame, hfirst]
  rfl

/-! ### DELIVER and LEASE (17_host R429, R430) -/

section Slow

variable (htyp : (t.dma r).typ = 2 ∨ (t.dma r).typ = 3)
include htyp

theorem State.burst_slow (c : ChainProg) : t.burst r c = t.deliverBurst r c := by
  rcases htyp with h | h <;> simp [State.burst, h]

theorem State.takeUp_slow : t.takeUp r rd cellBad = t.deliverTake r rd cellBad := by
  have hinject : (t.dma r).typ ≠ 1 := by rcases htyp with h | h <;> rw [h] <;> decide
  have hcopy : (t.dma r).typ ≠ 4 := by rcases htyp with h | h <;> rw [h] <;> decide
  exact (if_neg hinject).trans (if_neg hcopy)

variable {f : Frame} {rest : List Frame} (hbacklog : (t.dma r).backlog = f :: rest)
include hbacklog

theorem State.takeUp_cellBad :
    t.takeUp r rd true = ((t.modDma r fun d => { d with backlog := rest }).slowDrop f).tick 0x89 := by
  rw [State.takeUp_slow htyp, State.deliverTake, hbacklog]
  rfl

theorem State.takeUp_frame {ds : List (List Byte)}
    (hg : t.gatherBufs r (t.dma r).head (if (t.dma r).typ = 3 then 1 else f.data.length) [] 64 = .chain ds) :
    t.takeUp r .data false =
      t.modDma r fun d => { d with chain := some { first := (t.dma r).head, descs := ds, hold := none, report := false } } := by
  rw [State.takeUp_slow htyp, State.deliverTake, hbacklog]
  dsimp only
  rw [if_neg Bool.false_ne_true, hg]
  rfl

end Slow

section Burst

variable {c : ChainProg} {f : Frame} {rest : List Frame} {data : List Byte} (hbacklog : (t.dma r).backlog = f :: rest)
  (hdata : t.readFrame f.id f.data = data)
include hbacklog hdata

/-- The last burst of a delivery. -/
theorem State.deliverBurst_delivers (htyp : (t.dma r).typ = 2) (hlast : data.length ≤ c.moved + 4096) :
    t.deliverBurst r c =
      (((t.spread (t.dma r).owner.val c.moved ((data.drop c.moved).take 4096) c.descs).modDma r fun d =>
        { d with backlog := rest }).freeFrameCells f).completeWrites r
          (descRun (t.dma r).head (deliverDescs f true data.length c.descs)) true := by
  subst hdata
  unfold State.deliverBurst
  dsimp only
  rw [hbacklog]
  dsimp only
  rw [if_neg (by rw [htyp]; decide)]
  exact if_neg (Nat.not_lt.2 hlast)

theorem State.deliverBurst_leases (htyp : (t.dma r).typ = 3) :
    t.deliverBurst r c =
      (((t.modDma r fun d => { d with backlog := rest }).hostWrite (t.dma r).owner.val (leAt (c.descs.headD []) 0 8)
        (data.take 256)).leaseChain (t.dma r).owner.val f).completeWrites r (descRun (t.dma r).head
          [patch (deliverDesc f (c.descs.headD []) true false) 0 (bytesLe 8 (f.cells.headD 0 * 256))]) true := by
  subst hdata
  unfold State.deliverBurst
  dsimp only
  rw [hbacklog]
  exact if_pos htyp

end Burst

theorem State.atRest_delivered {own o : Nat} {part : List Byte} {ds : List (List Byte)} {f : Frame} {rest : List Frame}
    {xs : List (BitVec 32 × List Byte)} (ht : t.Typed r) :
    ((((t.spread own o part ds).modDma r fun d => { d with backlog := rest }).freeFrameCells f).completeWrites r xs true).AtRest r :=
  State.atRest_completeWrites _ _ (State.typed_of_aside (State.freeFrameCells_aside ..)
    (State.typed_modDma (fun _ => rfl) (State.typed_of_aside (State.spread_aside ..) ht)))

theorem State.atRest_leased {own a : Nat} {bs : List Byte} {f : Frame} {rest : List Frame} {xs : List (BitVec 32 × List Byte)}
    (ht : t.Typed r) :
    ((((t.modDma r fun d => { d with backlog := rest }).hostWrite own a bs).leaseChain own f).completeWrites r xs true).AtRest r :=
  State.atRest_completeWrites _ _ (State.typed_of_aside ((State.leaseChain_aside ..).trans (State.hostWrite_aside ..))
    (State.typed_modDma (fun _ => rfl) ht))

/-! ### COPY (17_host R423, R431 to R433) -/

section Copy

variable (htyp : (t.dma r).typ = 4)
include htyp

theorem State.burst_copy (c : ChainProg) : t.burst r c = t.copyBurst r c := if_pos htyp

theorem State.takeUp_copy : t.takeUp r rd cellBad = t.copyTake r rd :=
  (if_neg (by rw [htyp]; decide)).trans (if_pos htyp)

variable {ds : List (List Byte)} (hg : t.gather r (t.dma r).head [] 64 = .chain ds)
include hg

theorem State.takeUp_copyBad (hbad : ds.any (fun d => t.copyBad r d) = true) :
    t.takeUp r .data cellBad = t.completeChain r ds 0x11 0 := by
  rw [State.takeUp_copy htyp, State.copyTake, hg]
  exact (if_neg (by simp)).trans (if_pos hbad)

theorem State.takeUp_copyGood (hgood : ds.any (fun d => t.copyBad r d) = false) :
    t.takeUp r .data cellBad =
      t.modDma r fun d => { d with chain := some { first := d.head, descs := ds, hold := none, report := false } } := by
  rw [State.takeUp_copy htyp, State.copyTake, hg]
  exact (if_neg (by simp)).trans (if_neg (by simp [hgood]))

end Copy

/-- The last burst of the last descriptor of a COPY transfer. -/
theorem State.copyBurst_last {c : ChainProg} {d : List Byte} {x : State × Bool} (hpaused : t.cab.paused = false)
    (hdescs : c.descs = [d]) (hlast : (copyDesc d).len ≤ c.moved + 4096)
    (hx : t.copyBytes (t.dma r).owner.val (copyDesc d) c.moved = x) :
    t.copyBurst r c = x.1.copyDone r { c with
      descs := [], done := c.done ++ [withStatus d (if c.bad || x.2 then 0x30 else 0) 0], moved := 0, bad := false } := by
  subst hx
  unfold State.copyBurst
  rw [hdescs]
  exact (if_neg (by simp [hpaused])).trans (if_neg (Nat.not_lt.2 hlast))

theorem State.atRest_copyBurst {c : ChainProg} {d : List Byte} (hpaused : t.cab.paused = false) (hdescs : c.descs = [d])
    (hlast : (copyDesc d).len ≤ c.moved + 4096) (ht : t.Typed r) : (t.copyBurst r c).AtRest r := by
  rw [State.copyBurst_last hpaused hdescs hlast rfl]
  exact State.atRest_copyDone _ (State.typed_of_aside (State.copyBytes_aside ..) ht)

end Take

end Sys2Proof.Machine
end

section
/-!
The rings' work carried to its end: INJECT, DELIVER, LEASE and COPY (17_host R422 to R436).
-/

namespace Sys2Proof.Machine

/-! ### What each type of ring completes -/

section Turn

variable {s t : State} {r : Fin 1024} (hnext : s.nextTurn = some r.val) (hwork : s.hasWork r.val = true)
  (hturn : { s with host := { s.host with turn := r.val } } = t)
include hnext hwork hturn

/-! #### A ring without a chain in progress -/

section Idle

variable {w : State} {rd : HostRead} {bad : Bool} (hidle : (t.dma r.val).chain = none)
include hidle

theorem State.inject_at_rest (htyp : (t.dma r.val).typ = 1) (htake : t.takeUp r.val rd false = w) (hrest : w.AtRest r.val) :
    exec (.injectDescriptor r rd) s = .next w.settleInst :=
  congrArg Host.Outcome.next (State.ringWork_at_rest hnext hwork hturn (by rw [htyp]; decide) hidle htake hrest)

theorem State.deliver_at_rest (htyp : (t.dma r.val).typ = 2) (htake : t.takeUp r.val rd bad = w) (hrest : w.AtRest r.val) :
    exec (.deliverFrame r rd bad) s = .next w.settleInst :=
  congrArg Host.Outcome.next (State.ringWork_at_rest hnext hwork hturn (by rw [htyp]; decide) hidle htake hrest)

theorem State.lease_at_rest (htyp : (t.dma r.val).typ = 3) (htake : t.takeUp r.val rd bad = w) (hrest : w.AtRest r.val) :
    exec (.leaseFrame r rd bad) s = .next w.settleInst :=
  congrArg Host.Outcome.next (State.ringWork_at_rest hnext hwork hturn (by rw [htyp]; decide) hidle htake hrest)

theorem State.copy_at_rest (htyp : (t.dma r.val).typ = 4) (htake : t.takeUp r.val rd false = w) (hrest : w.AtRest r.val) :
    exec (.copyDescriptor r rd) s = .next w.settleInst :=
  congrArg Host.Outcome.next (State.ringWork_at_rest hnext hwork hturn (by rw [htyp]; decide) hidle htake hrest)

end Idle

end Turn

theorem State.typed_of_typ {t : State} {r : Nat} {n : BitVec 3} (htyp : (t.dma r).typ = n) (hn : n ≠ 0) : t.Typed r := by
  rw [State.Typed, htyp]
  exact hn

/-- The ring with its chain in progress: nothing else of it has changed. -/
theorem State.dma_chained {t u : State} {r : Nat} {c : ChainProg} (ht : t.Typed r)
    (hu : (t.modDma r fun d => { d with chain := some c }) = u) : u.dma r = { t.dma r with chain := some c } :=
  hu ▸ State.dma_modDma_of_typ ht

/-- A ring whose frame has a bad cell has no chain in progress behind its drop. -/
theorem State.atRest_frameDropped {t : State} {r : Nat} (f : Frame) (rest : List Frame) (ht : t.AtRest r) :
    (((t.modDma r fun d => { d with backlog := rest }).slowDrop f).tick 0x89).AtRest r :=
  State.atRest_of_aside ((State.tick_aside ..).trans (State.slowDrop_aside ..)) (State.atRest_modDma (fun _ => rfl) ht.typed ht.2)

/-- Settles O40: one turn of the engine carries each of these pieces of work to its end, since what the turn leaves has no chain in
progress. That a ring command runs the ring's piece of work to its last burst is the model's choice (log entry 127). -/
theorem ringWorkCompletes : Obligations.RingWorkCompletes := by
  unfold Obligations.RingWorkCompletes
  refine ⟨?inject, ?going, ?slow, ?copy, ?idle⟩
  case inject =>
    intro s t r hnext hwork hturn htyp hidle
    have htyped : t.Typed r.val := State.typed_of_typ htyp (by decide)
    refine ⟨fun hg rd => ?notOwned, fun hg rd => ?tooLong, fun ds hg => ⟨?error, ?poisoned, ?safe, ?bad, ?leased, ?burst⟩⟩
    case notOwned =>
      exact State.inject_at_rest hnext hwork hturn hidle htyp (State.takeUp_notOwned htyp hg) (State.atRest_haltRing _ htyped)
    case tooLong =>
      exact State.inject_at_rest hnext hwork hturn hidle htyp (State.takeUp_tooLong htyp hg) (State.atRest_haltRing _ htyped)
    case error =>
      exact State.inject_at_rest hnext hwork hturn hidle htyp (State.takeUp_unread htyp hg (.inl rfl)) (State.atRest_haltRing _ htyped)
    case poisoned =>
      exact State.inject_at_rest hnext hwork hturn hidle htyp (State.takeUp_unread htyp hg (.inr rfl)) (State.atRest_haltRing _ htyped)
    case safe =>
      exact fun hsafe => State.inject_at_rest hnext hwork hturn hidle htyp (State.takeUp_safe htyp hg hsafe)
        (State.atRest_completeChain _ _ _ htyped)
    case bad =>
      exact fun hrun hbad => State.inject_at_rest hnext hwork hturn hidle htyp (State.takeUp_bad htyp hg hrun hbad)
        (State.atRest_completeChain _ _ _ htyped)
    case leased =>
      exact fun hrun hgood hspace => State.inject_at_rest hnext hwork hturn hidle htyp
        (State.takeUp_leased htyp hg hrun hgood hspace) (State.atRest_injectLeased _ ⟨htyped, hidle⟩)
    case burst =>
      intro x u c hrun hgood hspace hpaused hroom hmay hx hc hu hlen
      obtain ⟨hutyp, huchain, husafe, hupaused⟩ := State.started_ring hx hu htyped
      have hstart := (State.takeUp_starts (cellBad := false) htyp hg hrun hgood hspace).trans
        (State.injectStart_starts hx hu hpaused hroom hmay hc)
      have hlast : chainLen c.descs ≤ c.moved + 4096 := by rw [hc]; exact hlen
      refine ⟨congrArg Host.Outcome.next (State.ringWork_one_burst hnext hwork hturn (by rw [htyp]; decide)
        (State.atRest_injectBurst hlast (State.typed_of_typ (hutyp.trans htyp) (by decide))) hidle hstart huchain
        (State.burst_of_inject (hutyp.trans htyp) (husafe.trans hrun) (hupaused.trans hpaused))), fun hbus => ?_⟩
      exact State.injectBurst_over_bus hgood hspace hbus (by rw [hc]) (by rw [hc]) hlen
  case going =>
    intro s t r c hnext hwork hturn hchain
    refine ⟨fun htyp hsafe => ?safe, fun htyp hrun hpaused hlast => ?lastInject, fun f rest htyp hbacklog hlast => ?lastDeliver,
      fun d htyp hpaused hdescs hlast => ?lastCopy⟩
    case safe =>
      exact congrArg Host.Outcome.next (State.ringWork_last_burst hnext hwork hturn (by rw [htyp]; decide)
        (State.atRest_completeChain _ _ _ (State.atRest_dropChain (State.typed_of_typ htyp (by decide))).typed) hchain
        (State.burst_of_safe htyp hsafe))
    case lastInject =>
      exact congrArg Host.Outcome.next (State.ringWork_last_burst hnext hwork hturn (by rw [htyp]; decide)
        (State.atRest_injectBurst hlast (State.typed_of_typ htyp (by decide))) hchain (State.burst_of_inject htyp hrun hpaused))
    case lastDeliver =>
      have hrest : (t.deliverBurst r.val c).AtRest r.val := by
        rw [State.deliverBurst_delivers hbacklog rfl htyp hlast]
        exact State.atRest_delivered (State.typed_of_typ htyp (by decide))
      exact congrArg Host.Outcome.next (State.ringWork_last_burst hnext hwork hturn (by rw [htyp]; decide) hrest hchain
        (State.burst_slow (.inl htyp) c))
    case lastCopy =>
      exact congrArg Host.Outcome.next (State.ringWork_last_burst hnext hwork hturn (by rw [htyp]; decide)
        (State.atRest_copyBurst hpaused hdescs hlast (State.typed_of_typ htyp (by decide))) hchain (State.burst_copy htyp c))
  case slow =>
    intro s t u r f rest data ds hnext hwork hturn hidle hbacklog
    refine ⟨fun htyp => ?deliverBad, fun htyp => ?leaseBad, fun hu hdata => ⟨fun htyp hg hlen => ?deliver, fun htyp hg => ?lease⟩⟩
    case deliverBad =>
      exact State.deliver_at_rest hnext hwork hturn hidle htyp (State.takeUp_cellBad (.inl htyp) hbacklog)
        (State.atRest_frameDropped f rest ⟨State.typed_of_typ htyp (by decide), hidle⟩)
    case leaseBad =>
      exact State.lease_at_rest hnext hwork hturn hidle htyp (State.takeUp_cellBad (.inr htyp) hbacklog)
        (State.atRest_frameDropped f rest ⟨State.typed_of_typ htyp (by decide), hidle⟩)
    case deliver =>
      have htyped : t.Typed r.val := State.typed_of_typ htyp (by decide)
      have hring := State.dma_chained htyped hu
      have hutyp : (u.dma r.val).typ = 2 := by rw [hring]; exact htyp
      have hburst := State.deliverBurst_delivers (by rw [hring]; exact hbacklog) hdata hutyp
        (c := { first := (t.dma r.val).head, descs := ds, hold := none, report := false }) (by simpa using hlen)
      rw [hring, List.drop_zero] at hburst
      exact congrArg Host.Outcome.next (State.ringWork_one_burst hnext hwork hturn (by rw [htyp]; decide)
        (State.atRest_delivered (State.typed_of_typ hutyp (by decide))) hidle
        ((State.takeUp_frame (.inl htyp) hbacklog (by rw [if_neg (by rw [htyp]; decide)]; exact hg)).trans hu)
        (by rw [hring]) ((State.burst_slow (.inl hutyp) _).trans hburst))
    case lease =>
      have htyped : t.Typed r.val := State.typed_of_typ htyp (by decide)
      have hring := State.dma_chained htyped hu
      have hutyp : (u.dma r.val).typ = 3 := by rw [hring]; exact htyp
      have hburst := State.deliverBurst_leases (by rw [hring]; exact hbacklog) hdata hutyp
        (c := { first := (t.dma r.val).head, descs := ds, hold := none, report := false })
      rw [hring] at hburst
      exact congrArg Host.Outcome.next (State.ringWork_one_burst hnext hwork hturn (by rw [htyp]; decide)
        (State.atRest_leased (State.typed_of_typ hutyp (by decide))) hidle
        ((State.takeUp_frame (.inr htyp) hbacklog (by rw [if_pos htyp]; exact hg)).trans hu)
        (by rw [hring]) ((State.burst_slow (.inr hutyp) _).trans hburst))
  case copy =>
    intro s t r ds hnext hwork hturn hidle htyp hg
    have htyped : t.Typed r.val := State.typed_of_typ htyp (by decide)
    refine ⟨fun hbad => State.copy_at_rest hnext hwork hturn hidle htyp (State.takeUp_copyBad htyp hg hbad)
      (State.atRest_completeChain _ _ _ htyped), ?_⟩
    intro d u x c hds hgood hpaused hlen hc hu hx
    have hring := State.dma_chained htyped hu
    have hutyp : (u.dma r.val).typ = 4 := by rw [hring]; exact htyp
    have haside : x.1.aside = u.aside := hx ▸ State.copyBytes_aside ..
    have hburst : u.copyBurst r.val c = x.1.copyDone r.val
        { c with descs := [], done := [withStatus d (if x.2 then 0x30 else 0) 0] } := by
      have hmoved : u.copyBytes (u.dma r.val).owner.val (copyDesc d) c.moved = x := by rw [hring, hc]; exact hx
      rw [State.copyBurst_last (by rw [← hu]; exact hpaused) (by rw [hc]; exact hds) (by rw [hc]; simpa using hlen) hmoved, hc]
      rfl
    exact congrArg Host.Outcome.next (State.ringWork_one_burst hnext hwork hturn (by rw [htyp]; decide)
      (State.atRest_copyDone _ (State.typed_of_aside haside (State.typed_of_typ hutyp (by decide)))) hidle
      ((State.takeUp_copyGood htyp hg (by rw [hds]; simp [hgood])).trans (by rw [← hu, hc]; rfl))
      (by rw [hring]) ((State.burst_copy hutyp c).trans hburst))
  case idle =>
    exact fun s r rd bad hwork => ⟨congrArg Host.Outcome.next (State.ringWork_idle _ rd false hwork),
      congrArg Host.Outcome.next (State.ringWork_idle _ rd bad hwork), congrArg Host.Outcome.next (State.ringWork_idle _ rd bad hwork),
      congrArg Host.Outcome.next (State.ringWork_idle _ rd false hwork)⟩

end Sys2Proof.Machine
end
